-- ==== Sys2Proof/Word.lean ====
section
/-!
DEFINITION. Machine words (00 R5): bytes, 32-bit words, 64-bit words and the
association lists that hold sparse storage as plain data.
-/

set_option Elab.async false

namespace Sys2Proof

/-- One byte of memory (00 R5). -/
abbrev Byte := BitVec 8

/-- One 32-bit register or instruction word. -/
abbrev Word := BitVec 32

/-- One 64-bit value: a register pair, an address, a count of nanoseconds. -/
abbrev DWord := BitVec 64

/-- Sparse storage as plain data: keys strictly rising, no entry equal to the default
that an unlisted key reads as. The operations keep that form (Machine/Ops.lean). -/
abbrev FMap (β : Type) := List (Nat × β)

/-- A set of the 32 lanes of a warp (04 R82), bit l for lane l. -/
abbrev Mask := BitVec 32

end Sys2Proof
end

