-- ==== Sys2Proof/Syntax.lean ====
section
/-!
DEFINITION. The steps of the Z960 as syntax: one constructor of `Instr` per row of the table of
operations. The first group are the steps of the device's agents, whose arguments name the
unit that acts and what comes from outside; the second group are the warp instructions, with
decoded operands (14 R299 to R306, 15 R320 to R326).
-/

set_option Elab.async false

namespace Sys2Proof

/-- Lane-set register specifier (14 R302). -/
inductive LSpec where
  | v (n : Fin 112)
  | t (n : Fin 8)
  | zero
  | lane
deriving DecidableEq, Repr

/-- Uniform-set register specifier (14 R303). -/
inductive USpec where
  | s (n : Fin 112)
  | zero | warp | block | cluster | clusterrank | role | core | part | gang
  | launchLo | launchHi
deriving DecidableEq, Repr

/-- Integer types of modifier class I and of the wide form's TYPE (15 R321, R323). -/
inductive ITy where
  | s32 | z32 | s64 | z64 | s8 | s16 | z8 | z16
deriving DecidableEq, Repr

/-- Width of modifier class B (15 R321). -/
inductive Width where | b32 | b64
deriving DecidableEq, Repr

/-- Rounding modifiers (05 R103). -/
inductive Rnd where | rn | rz | rp | rm
deriving DecidableEq, Repr

/-- Conditions of ICMP and UCMP (17 R369). -/
inductive ICond where | eq | ne | lt | le | gt | ge
deriving DecidableEq, Repr

/-- Conditions of FCMP and DCMP (16 R354). -/
inductive FCond where | eq | ne | lt | le | gt | ge | num | nan
deriving DecidableEq, Repr

/-- Conditions of WAITA (18 R417). -/
inductive WCond where | eq | ne | uge | ult | sge | slt
deriving DecidableEq, Repr

/-- Functions of MFN (15 R321). -/
inductive MfnFn where | rcp | rsq | sqrt | ex2 | lg2 | sinpi | cospi | tanh
deriving DecidableEq, Repr

/-- Scopes, in the order of the scope table (00 R4). -/
inductive Scope where
  | thread | tile | warp | block | cluster | die | pkg | node | pod | sys
deriving DecidableEq, Repr

/-- Ordering modifiers (08 R189). -/
inductive Ord4 where | none | acq | rel | ar | sc
deriving DecidableEq, Repr

/-- Spaces (07 R146) in the code order of 17 R376. -/
inductive Space where | g | k | q | x | l
deriving DecidableEq, Repr

/-- Types of LD (17 R376). -/
inductive LdTy where | z8 | s8 | z16 | s16 | b32 | b64 | b128
deriving DecidableEq, Repr

/-- Types of ST (18 R408). -/
inductive StTy where | b8 | b16 | b32 | b64 | b128
deriving DecidableEq, Repr

/-- Operations of ATOM and RED (16 R331). -/
inductive AOp where | add | min | max | and | or | xor | exch | cas
deriving DecidableEq, Repr

/-- Types of ATOM and RED (16 R331). -/
inductive ATy where | s32 | z32 | s64 | z64 | f32 | f16 | bf16
deriving DecidableEq, Repr

/-- Types of CVT (16 R350). -/
inductive CTy where
  | s8 | s16 | s32 | s64 | z8 | z16 | z32 | z64 | f16 | bf16 | f32 | f64
deriving DecidableEq, Repr

/-- Operators of REDX and SCAN (18 R400). -/
inductive ROp where | add | min | max | and | or | xor
deriving DecidableEq, Repr

/-- Types of REDX and SCAN (18 R400). -/
inductive RTy where | s32 | z32 | s64 | z64 | f32 | f64
deriving DecidableEq, Repr

/-- Shared-exponent formats of SXPK and SXUPK (18 R411). -/
inductive SxFmt where | sx7 | sx4 | sx2
deriving DecidableEq, Repr

/-- Source-lane rules of SHFL (18 R405). -/
inductive ShflMode where | at | rot | flip | rev
deriving DecidableEq, Repr

/-- Modes of VOTE (18 R416). -/
inductive VoteMode where | ballot | any | all | eq
deriving DecidableEq, Repr

/-- Levels of CANCEL (16 R344). -/
inductive CancelLevel where | launch | graph | phase | job
deriving DecidableEq, Repr

/-- Control registers of RDCTL and WRCTL (18 R396). -/
inductive CtlReg where
  | fpflags | chkmode | lwct | trapbase | grovebase | callq | asid | ctxsave | capbase
  | mismatch | graftgen
deriving DecidableEq, Repr

/-- Special values of RDS (18 R398). -/
inductive Special where
  | lane | tid | warp | block | cluster | clusterrank | launch | role | core | gtime | clock
  | part | gang
deriving DecidableEq, Repr

/-- Lane selection of BRA (16 R340) and group selection of UBRA (18 R415). -/
inductive BrCond where
  | always
  | flag (n : Fin 8)
  | notFlag (n : Fin 8)
deriving DecidableEq, Repr

/-- A lane-set source that may be a register or a signed imm7 (15 R321, class B). -/
inductive BSrc where
  | reg (r : LSpec)
  | imm (i : BitVec 7)
deriving DecidableEq, Repr

/-- A uniform-set source that may be a register or a 7-bit immediate. -/
inductive USrc where
  | reg (r : USpec)
  | imm (i : BitVec 7)
deriving DecidableEq, Repr

/-- A lane-set source that may be a per-lane register or a uniform one (14 R301, UB). -/
inductive LUSrc where
  | reg (r : LSpec)
  | uni (r : USpec)
deriving DecidableEq, Repr

/-- The source b of the wide form: register, uniform register, imm16, or the imm7 that mod bit I
of class B gives (15 R321, R323). -/
inductive WSrc where
  | reg (r : LSpec)
  | uni (r : USpec)
  | imm (i : BitVec 16)
  | imm7 (i : BitVec 7)
deriving DecidableEq, Repr

/-- Position and length of BFX and BFI (16 R338). -/
inductive BfSel where
  | imm (pos len : BitVec 8)
  | reg (c : LSpec)
deriving DecidableEq, Repr

/-- Shift amount of FSHF (17 R364). -/
inductive FshSrc where
  | reg (c : LSpec)
  | imm (n : BitVec 6)
deriving DecidableEq, Repr

/-- Selector of PSEL (18 R394). -/
inductive PselSrc where
  | imm (sel : BitVec 20)
  | reg (c : LSpec)
deriving DecidableEq, Repr

/-- Mask operand of JARM (17 R372). -/
inductive JMask where
  | uni (b : USpec)
  | low (i : BitVec 16)
  | high (i : BitVec 16)
  | all
deriving DecidableEq, Repr

/-- Operand k of SHFL (18 R405). -/
inductive ShflSrc where
  | reg (r : LSpec)
  | uni (r : USpec)
  | imm (i : BitVec 5)
deriving DecidableEq, Repr

/-- A memory operand with its uniform base, its lane offset and scale (17 R376). -/
structure MemOp where
  space : Space
  base : USpec
  off : LSpec
  scale : Fin 4
deriving DecidableEq, Repr

/-- Length operand of CPY (16 R347). -/
inductive CpyLen where
  | uni (b : USpec)
  | imm (n : BitVec 32)
deriving DecidableEq, Repr

/-- Word 2 of CPY: bits [31:0] of the command's CTRL, without its reserved bits (07 R170). -/
structure CpyCtl where
  rscope : Scope
  ascope : Scope
  rel : Bool
  acq : Bool
  wctr : Fin 4
  cb : Fin 16
  dspace : Fin 8
  sspace : Fin 8
  dkind : Fin 4
  skind : Fin 4
deriving DecidableEq, Repr

/-- Integer operations of the mould of IADD (17 R368). -/
inductive IntOp where | add | sub | mul | mulhi | min | max
deriving DecidableEq, Repr
/-- Bitwise operations (16 R330). -/
inductive LogicOp where | and | or | xor
deriving DecidableEq, Repr
/-- Shifts (18 R406). -/
inductive ShiftOp where | shl | shr | sar
deriving DecidableEq, Repr
/-- Bit counts and reversal (16 R341). -/
inductive BitOp where | popc | clz | brev
deriving DecidableEq, Repr
/-- Float operations of two sources: FP32, FP64 and packed (16 R353, 17 R357, 18 R392). -/
inductive FltOp where | add | sub | mul
deriving DecidableEq, Repr

/-- The one-word opcodes the wide form may name, with its source b (15 R323). -/
inductive WideOp where
  | int (op : IntOp) (sat : Bool) (ty : ITy) (d a : LSpec) (b : WSrc)
  | iabs (sat : Bool) (ty : ITy) (d : LSpec) (b : WSrc)
  | lea (zx : Bool) (shift : Fin 4) (d a : LSpec) (b : WSrc)
  | icmp (c : ICond) (w64 uns : Bool) (n : Fin 8) (a : LSpec) (b : WSrc)
  | sel (n : Fin 8) (d a : LSpec) (b : WSrc)
  | logic (op : LogicOp) (w : Width) (d a : LSpec) (b : WSrc)
  | shift (op : ShiftOp) (w : Width) (d a : LSpec) (b : WSrc)
  | bits (op : BitOp) (w : Width) (d a : LSpec) (ub : Bool)
  | mov (w : Width) (d : LSpec) (b : WSrc)
  | flt (op : FltOp) (rnd : Rnd) (d a : LSpec) (b : LUSrc)
  | fmin (d a : LSpec) (b : LUSrc)
  | fmax (d a : LSpec) (b : LUSrc)
  | fcmp (c : FCond) (n : Fin 8) (a : LSpec) (b : LUSrc)
  | frnd (rnd : Rnd) (d : LSpec) (b : LUSrc)
  | dadd (rnd : Rnd) (d a : LSpec) (b : LUSrc)
  | dmul (rnd : Rnd) (d a : LSpec) (b : LUSrc)
  | dcmp (c : FCond) (n : Fin 8) (a : LSpec) (b : LUSrc)
  | pkadd (bf : Bool) (rnd : Rnd) (d a : LSpec) (b : LUSrc)
  | pkmul (bf : Bool) (rnd : Rnd) (d a : LSpec) (b : LUSrc)
  | pkmin (bf : Bool) (d a : LSpec) (b : LUSrc)
  | pkmax (bf : Bool) (d a : LSpec) (b : LUSrc)
  | mfn (fn : MfnFn) (d : LSpec) (b : LUSrc)
  | sxpk (fmt : SxFmt) (d a : LSpec)
  | sxupk (fmt : SxFmt) (d a : LSpec)
deriving DecidableEq, Repr

/-- One claimed per-lane value list or uniform value of a retire packet: the register key
(see Machine/Operands.lean), the lane and the 32-bit value (01 R11). -/
structure Claim where
  key : Nat
  lane : Nat
  val : Word
deriving DecidableEq, Repr

/-- A retire packet (01 R11): the claims of the canopy for one warp instruction. -/
structure RetirePacket where
  warp : Nat
  seq : BitVec 8
  mask : Mask
  pc : BitVec 55
  words : List Word
  gen : BitVec 16
  srcv : List Claim
  srcu : List Claim
  srcf : List Claim
  addr : List (Nat × BitVec 55)
  dst : List Claim
  fpf : List (Nat × BitVec 5)
  nextMask : Mask
  nextPc : BitVec 55
  vp : Bool
  stall : Bool
  sr : Bool
  fclaim : BitVec 5
deriving DecidableEq, Repr

/-- What a matrix unit delivered that differs from R115 or R116: element and bits (06 R137). -/
structure Deviation where
  row : Fin 64
  col : Fin 64
  val : Word
deriving DecidableEq, Repr

/-- What the management core finds at a start (13 R291): the results of its own tests, of the
flash and of the links, which the spec leaves to the part. -/
structure StartReport where
  /-- The flash's firmware image: its signature, anti-rollback value and version; then its second image (R294). -/
  fwSigOk : Bool
  fwArc : Nat
  fwVer : Word
  fw2SigOk : Bool
  fw2Arc : Nat
  fw2Ver : Word
  stacksOk : Bool
  dieOk : List Bool
  /-- Physical cores that failed, as 68 times their die plus their number on it. -/
  failedCores : List Nat
  timeOk : Bool
  /-- The shipped vendor image passes 11 R255, and its anti-rollback value. -/
  vendorOk : Bool
  vendorArc : Nat
  hostOk : Bool
  ports : List Nat
  inTime : Bool
deriving DecidableEq, Repr

/-- One constructor per row of spec/opcode_table.json. -/
inductive Instr where
  -- the checked machine (01)
  | retirePacket (core part : Nat) (p : RetirePacket)
  | check (core part idx errs : Nat)
  | commit (core part idx : Nat) (bad : List Nat)
  | checkerLineFill (core line : Nat)
  | mismatchWindow (core : Nat)
  | pickWarp (core part seq : Nat) (starved : List Nat)
  | reggrowGrant (core part : Nat)
  | reggrowFail (core part : Nat)
  -- queues, packets, jobs and the dispatcher (02, 03)
  | queueDoorbell (q : Nat) (tail : Word)
  | errClear (q : Nat) (bits : Word)
  | nopPacket (q n : Nat)
  | launchPacket (q n : Nat)
  | graphPacket (q n : Nat)
  | graphCheck (g : Nat)
  | phasePacket (q n : Nat)
  | phaseClosePacket (q n : Nat)
  | waitPacket (q n : Nat)
  | waitPacketSample (q n : Nat)
  | signalStorePacket (q n : Nat)
  | signalAddPacket (q n : Nat)
  | cancelLaunchPacket (q n : Nat)
  | cancelGraphPacket (q n : Nat)
  | cancelPhasePacket (q n : Nat)
  | cancelJobPacket (q n : Nat)
  | jobOpen (j : Nat)
  | jobReopen (j : Nat)
  | refill
  | pickLaunch
  | preemptRequest (l : Nat)
  | preemptAbandon (req : Nat)
  | preemptSave (blk : Nat)
  | coreVacate (core : Nat)
  | blockResume (l cluster : Nat)
  | launchComplete (l : Nat)
  -- core queue, traps, calls (03, 10)
  | queueHandOn (core : Nat)
  | spillRefill (core job : Nat)
  | handlerEntry (wid : Nat)
  | hostFaultRecord (core : Nat)
  | resumeRetry (j : Nat) (seq : BitVec 24)
  | resumeEnd (j : Nat) (seq : BitVec 24)
  | wcallDrain (core : Nat)
  -- matrix and copy engines (06, 07)
  | matrixStart (core idx : Nat)
  | matrixCheck (core idx : Nat) (dev : List Deviation) (recheckOk : Bool)
  | engineTake (die engine : Nat)
  | copyComplete (die engine : Nat)
  -- slices, leases, translation, grove (07, 08, 09)
  | sliceReadRequest (core line : Nat)
  | sliceWrite (core id : Nat)
  | writeAck (core id : Nat)
  | sliceEvict (line : Nat)
  | ownershipRecall (line : Nat)
  | predictorDecay (core : Nat)
  | pageWalk (core asid : Nat) (va : BitVec 55)
  | racqRemote (core : Nat)
  | waitaSample (wid : Nat)
  | lnxRequestServe (wid lane errs : Nat)
  | groveEntryFetch (wid lane : Nat)
  | shootdown
  -- grafts and Pedric (11)
  | graftLoad (copyOk sigOk : Bool)
  | graftActivate
  | graftRetire
  | enterSegment (wid : Nat)
  | segmentTranslate (l seg : Nat)
  -- host, fabric and reliability (12)
  | biasFlipToHost
  | biasFlipToDevice
  | hostMemRead (pa : Nat) (keep : Bool)
  | hostMemWrite (pa : Nat) (bytes : List Byte) (poison : Bool)
  | bisnpResponse (line : Nat) (data : Option (List Byte))
  | hostLinkLoss
  | hostLinkReturn
  | laneFailure (port lane : Nat)
  | retrainComplete (port : Nat)
  | portDead (port : Nat) (lostDevs : List Nat)
  | peerLost (dev : Nat)
  | peerRemovalReport (dev : Nat)
  | replicaRead (dev line : Nat)
  | invalidationAck (obj dev line expiry : Nat)
  | objectDeclare (o : Nat)
  | objectValidate (o : Nat)
  | objectRemove (o : Nat)
  | patrolScrub (pa : Nat) (correctable : Bool)
  | undoStart
  | undoRestore
  -- management (13)
  | deviceStart (r : StartReport)
  | watchdogExpire
  | thermalTrip
  | supplyFault
  | powerWindow (power temp : Nat)
  | failsClear
  | floorWrite (core level : Nat)
  | registerWrite (off : Nat) (val : Word)
  -- warp instructions (16, 17, 18)
  | and (w : Width) (d a : LSpec) (b : BSrc)
  | or (w : Width) (d a : LSpec) (b : BSrc)
  | xor (w : Width) (d a : LSpec) (b : BSrc)
  | atom (op : AOp) (ty : ATy) (ord : Ord4) (sc : Scope) (m : MemOp) (d b c : LSpec)
  | red (op : AOp) (ty : ATy) (ord : Ord4) (sc : Scope) (m : MemOp) (b : LSpec)
  | bar (inst : Fin 16) (count : USrc)
  | cbar (inst : Fin 4) (count : USrc)
  | bfx (w : Width) (sext : Bool) (d a : LSpec) (f : BfSel)
  | bfi (w : Width) (d a : LSpec) (b : LUSrc) (f : BfSel)
  | bkpt
  | bra (c : BrCond) (imm : BitVec 25)
  | brev (w : Width) (d a : LSpec)
  | clz (w : Width) (d a : LSpec)
  | popc (w : Width) (d a : LSpec)
  | brx (rel : Bool) (a : LSpec)
  | call (d a : LSpec) (ind : Bool) (imm : BitVec 25)
  | cancel (level : CancelLevel)
  | cbrsv (d : USpec) (n : Fin 16)
  | cbcmt (n : Fin 16)
  | cbacq (d : USpec) (n : Fin 16)
  | cbrel (n : Fin 16)
  | ckpt
  | cpy (d a : USpec) (len : CpyLen) (c : CpyCtl)
  | cpyw (n : Fin 4) (b : USrc)
  | cvt (sat : Bool) (rnd : Rnd) (dt st : CTy) (d : LSpec) (b : LUSrc)
  | dadd (rnd : Rnd) (d a b : LSpec)
  | dmul (rnd : Rnd) (d a b : LSpec)
  | dfma (rnd : Rnd) (d a : LSpec) (b : LUSrc) (c : LSpec)
  | dcmp (c : FCond) (n : Fin 8) (a b : LSpec)
  | exit
  | fadd (rnd : Rnd) (d a b : LSpec)
  | fsub (rnd : Rnd) (d a b : LSpec)
  | fmul (rnd : Rnd) (d a b : LSpec)
  | fcmp (c : FCond) (n : Fin 8) (a b : LSpec)
  | fence (ord : Ord4) (sc : Scope)
  | ffma (rnd : Rnd) (d a : LSpec) (b : LUSrc) (c : LSpec)
  | fmax (d a b : LSpec)
  | fmin (d a b : LSpec)
  | frnd (rnd : Rnd) (d b : LSpec)
  | fshf (right clamp : Bool) (d a : LSpec) (b : LUSrc) (sh : FshSrc)
  | gang (b : USpec)
  | gret (target : Option USpec)
  | hret (target : Option USpec)
  | iabs (sat : Bool) (ty : ITy) (d b : LSpec)
  | iadd (sat : Bool) (ty : ITy) (d a b : LSpec)
  | isub (sat : Bool) (ty : ITy) (d a b : LSpec)
  | imul (sat : Bool) (ty : ITy) (d a b : LSpec)
  | imulhi (ty : ITy) (d a b : LSpec)
  | imin (ty : ITy) (d a b : LSpec)
  | imax (ty : ITy) (d a b : LSpec)
  | icmp (c : ICond) (w64 uns : Bool) (n : Fin 8) (a b : LSpec)
  | idp4 (sat za zb : Bool) (d a : LSpec) (b : LUSrc) (c : LSpec)
  | imad (sat : Bool) (ty : ITy) (d a : LSpec) (b : LUSrc) (c : LSpec)
  | jarm (n : Fin 16) (m : JMask)
  | jdrop (n : Fin 16)
  | jwait (n : Fin 16)
  | launch (tail : Bool) (d a : USpec)
  | ld (strong acq : Bool) (ty : LdTy) (sc : Option Scope) (m : MemOp) (d : LSpec)
      (imm : BitVec 16)
  | lea (zx : Bool) (shift : Fin 4) (d a b : LSpec)
  | lnx (ord : Ord4) (d a b c : LSpec) (base : USpec) (scale : Fin 4) (index : Fin 64)
      (imm : BitVec 10)
  | logic3 (w : Width) (d a : LSpec) (b : LUSrc) (c : LSpec) (lut : BitVec 8)
  | matchLanes (w : Width) (all : Bool) (d a : LSpec)
  | mfn (fn : MfnFn) (d b : LSpec)
  | mma (tile : Fin 32) (a b : USpec) (f : LSpec)
  | mmat (tile : Fin 32) (a b : USpec) (f : LSpec)
  | mov (w : Width) (d : LSpec) (b : BSrc)
  | movi (w : Width) (keep : Bool) (d : LSpec) (hw : Fin 4) (imm : BitVec 16)
  | nop
  | part (code : Fin 8)
  | pkadd (bf : Bool) (rnd : Rnd) (d a b : LSpec)
  | pkmul (bf : Bool) (rnd : Rnd) (d a b : LSpec)
  | pkmin (bf : Bool) (d a b : LSpec)
  | pkmax (bf : Bool) (d a b : LSpec)
  | pkfma (bf : Bool) (rnd : Rnd) (d a : LSpec) (b : LUSrc) (c : LSpec)
  | pref (a base : Fin 128) (scale : Fin 4) (home : Bool) (low : Fin 16) (imm : BitVec 32)
  | hint (uset : Bool) (op : Fin 3) (hd : Bool) (d : Fin 128) (payload : BitVec 14)
      (more : List Word)
  | psel (d a : LSpec) (b : LUSrc) (sel : PselSrc)
  | racq (b : USpec)
  | rdctl (d : USpec) (r : CtlReg)
  | wrctl (r : CtlReg) (a : USpec)
  | rds (d : LSpec) (sp : Special)
  | redx (op : ROp) (ty : RTy) (sat : Bool) (d a : LSpec)
  | scan (op : ROp) (ty : RTy) (sat exc : Bool) (d a : LSpec)
  | reggrow (n : Fin 8) (v : Fin 16)
  | regshr (v : Fin 16)
  | ret (a : LSpec)
  | sarm (n : Fin 8) (a : USpec)
  | sdis (n : Fin 8)
  | sel (n : Fin 8) (d a b : LSpec)
  | shfl (mode : ShflMode) (w : Width) (d a : LSpec) (k : ShflSrc) (f : Option (Fin 8))
  | shl (w : Width) (d a : LSpec) (b : BSrc)
  | shr (w : Width) (d a : LSpec) (b : BSrc)
  | sar (w : Width) (d a : LSpec) (b : BSrc)
  | sld (d : LSpec) (n : Fin 8) (f : Option (Fin 8))
  | st (strong rel : Bool) (ty : StTy) (sc : Option Scope) (m : MemOp) (d : LSpec)
      (imm : BitVec 16)
  | succ (kind : Fin 4) (flag : Fin 8) (low : BitVec 19) (seg0 seg1 : Word)
  | sxpk (fmt : SxFmt) (d a : LSpec)
  | sxupk (fmt : SxFmt) (d a : LSpec)
  | tld (tile : Fin 32) (a : USpec)
  | tst (tile : Fin 32) (a : USpec)
  | tzero (tile : Fin 32)
  | twait (tile : Fin 32)
  | tstat (clr : Bool) (d : USpec) (tile : Fin 32)
  | uadd (sat : Bool) (ty : ITy) (d a b : USpec)
  | usub (sat : Bool) (ty : ITy) (d a b : USpec)
  | umul (sat : Bool) (ty : ITy) (d a b : USpec)
  | umad (sat : Bool) (ty : ITy) (d a b c : USpec)
  | uand (w : Width) (d a : USpec) (b : USrc)
  | uor (w : Width) (d a : USpec) (b : USrc)
  | uxor (w : Width) (d a : USpec) (b : USrc)
  | ushl (w : Width) (d a : USpec) (b : USrc)
  | ushr (w : Width) (d a : USpec) (b : USrc)
  | usar (w : Width) (d a : USpec) (b : USrc)
  | umov (w : Width) (d : USpec) (b : USrc)
  | umovi (w : Width) (keep : Bool) (d : USpec) (hw : Fin 4) (imm : BitVec 16)
  | ucmp (c : ICond) (w64 uns : Bool) (n : Fin 8) (a b : USpec)
  | usel (n : Fin 8) (d a b : USpec)
  | ulea (zx : Bool) (shift : Fin 4) (d a b : USpec)
  | ubra (c : BrCond) (imm : BitVec 25)
  | vote (mode : VoteMode) (neg : Bool) (d : LSpec) (fd : Fin 8) (a : Fin 8)
  | waita (c : WCond) (w : Width) (acq : Bool) (sc : Scope) (m : MemOp) (d b : LSpec)
      (imm : BitVec 13)
  | wcall (base : USpec) (q : LSpec) (svc : BitVec 16)
  | wsync (b : USpec)
  | yield
  | wideForm (op : WideOp)
  -- steps inside the engines, links and power (06, 08, 12, 13)
  | releaseWaitEnd (wid : Nat)
  | tileTransferComplete (core idx : Nat)
  | biasFlipPageDone
  | hostSnoop (line : Nat) (excl : Bool)
  | hostWindowResponse (core id : Nat)
  | replicaInvalidation (line : Nat)
  | hostLinkDown
  | thermalThrottle (temp : Nat)
  | packagePowerOff
deriving DecidableEq, Repr

end Sys2Proof
end

