-- ==== Sys2Proof/WellFormed.lean ====
section
/-!
DEFINITION. Which instructions are well formed: the limits on operands that their encoding does
not rule out by itself and that do not depend on the warp (14 R304, 15 R320 and the entries of
16, 17, 18). What depends on the warp (its allotment, its mode, the run) is checked by the
meanings.
-/

set_option Elab.async false

namespace Sys2Proof

/-- A specifier that may be written (14 R304): `%lane` may not. -/
def LSpec.dst : LSpec → Bool
  | .lane => false
  | _ => true

/-- The first register of a pair: even, or the zero specifier (14 R304). -/
def LSpec.pair : LSpec → Bool
  | .v n => n.val % 2 == 0
  | .t n => n.val % 2 == 0
  | .zero => true
  | .lane => false

/-- The first of four registers, a multiple of 4, or the zero specifier (17 R376). -/
def LSpec.quad : LSpec → Bool
  | .v n => n.val % 4 == 0
  | .t n => n.val % 4 == 0
  | .zero => true
  | .lane => false

/-- The first of eight registers, for LNX (09 R214). -/
def LSpec.oct : LSpec → Bool
  | .v n => n.val % 8 == 0
  | .t n => n.val == 0
  | .zero => true
  | .lane => false

/-- A uniform specifier that may be written (14 R304). -/
def USpec.dst : USpec → Bool
  | .s _ => true
  | .zero => true
  | _ => false

/-- The first of an even-aligned pair by its number (14 R303, R304). -/
def USpec.even : USpec → Bool
  | .s n => n.val % 2 == 0
  | .zero | .block | .clusterrank | .core | .gang => true
  | _ => false

/-- A 64-bit uniform source: an even pair, or `%launch` as the first of a pair (14 R303). -/
def USpec.pair (u : USpec) : Bool := u.even || u == .launchLo

/-- A 64-bit uniform destination. -/
def USpec.pairDst (u : USpec) : Bool := u.even && u.dst

/-- The first of four uniform registers (06 R123, 18 R396). -/
def USpec.quad : USpec → Bool
  | .s n => n.val % 4 == 0
  | .zero => true
  | _ => false

/-- The base pair of LNX: an even `s` register (09 R214). -/
def USpec.sEven : USpec → Bool
  | .s n => n.val % 2 == 0
  | _ => false

def ITy.wide64 : ITy → Bool
  | .s64 | .z64 => true
  | _ => false

/-- The four types that mod holds (15 R321, class I). -/
def ITy.inMod : ITy → Bool
  | .s32 | .z32 | .s64 | .z64 => true
  | _ => false

def Width.is64 : Width → Bool
  | .b32 => false
  | .b64 => true

/-- Source register of width 32 or 64. -/
def LSpec.src (r : LSpec) (w64 : Bool) : Bool := !w64 || r.pair
/-- Destination register of width 32 or 64. -/
def LSpec.dstW (r : LSpec) (w64 : Bool) : Bool := r.dst && (!w64 || r.pair)
def USpec.srcW (r : USpec) (w64 : Bool) : Bool := !w64 || r.pair
def USpec.dstW (r : USpec) (w64 : Bool) : Bool := r.dst && (!w64 || r.even)

def BSrc.wf (b : BSrc) (w64 : Bool) : Bool :=
  match b with
  | .reg r => r.src w64
  | .imm _ => true

def USrc.wf (b : USrc) (w64 : Bool) : Bool :=
  match b with
  | .reg r => r.srcW w64
  | .imm _ => true

def LUSrc.wf (b : LUSrc) (w64 : Bool) : Bool :=
  match b with
  | .reg r => r.src w64
  | .uni u => u.srcW w64

/-- The source of a class B wide form. -/
def WSrc.wfB (b : WSrc) (w64 : Bool) : Bool :=
  match b with
  | .reg r => r.src w64
  | .uni u => u.srcW w64
  | .imm _ => true
  | .imm7 _ => true

/-- The source of every other wide form: imm7 belongs to class B alone. -/
def WSrc.wf (b : WSrc) (w64 : Bool) : Bool :=
  match b with
  | .reg r => r.src w64
  | .uni u => u.srcW w64
  | .imm _ => true
  | .imm7 _ => false

/-- A memory operand of LD, ST, WAITA (17 R376): a base pair in `.g`, any specifier elsewhere. -/
def MemOp.wf (m : MemOp) : Bool :=
  match m.space with
  | .g => m.base.even
  | _ => true

/-- A memory operand of ATOM and RED (16 R331): no `.l`, and only `s` or zero as a local base. -/
def MemOp.wfAtom (m : MemOp) : Bool :=
  match m.space with
  | .g => m.base.even
  | .l => false
  | _ => m.base.dst

def BfSel.wf (f : BfSel) (w : Width) : Bool :=
  match f with
  | .reg _ => true
  | .imm p l =>
    let W := if w.is64 then 64 else 32
    decide (p.toNat < W) && decide (0 < l.toNat) && decide (p.toNat + l.toNat ≤ W)

def AOp.bitwise : AOp → Bool
  | .and | .or | .xor => true
  | _ => false
def ATy.wide64 : ATy → Bool
  | .s64 | .z64 => true
  | _ => false
def ATy.isFloat : ATy → Bool
  | .f32 | .f16 | .bf16 => true
  | _ => false
def ROp.bitwise : ROp → Bool
  | .and | .or | .xor => true
  | _ => false
def RTy.isFloat : RTy → Bool
  | .f32 | .f64 => true
  | _ => false
def RTy.wide64 : RTy → Bool
  | .s64 | .z64 | .f64 => true
  | _ => false
def CTy.wide64 : CTy → Bool
  | .s64 | .z64 | .f64 => true
  | _ => false
def CTy.isFloat : CTy → Bool
  | .f16 | .bf16 | .f32 | .f64 => true
  | _ => false

/-- A narrowing conversion between distinct float types (05 R111). -/
def CTy.narrowing (st dt : CTy) : Bool :=
  match st, dt with
  | .f64, .f16 | .f64, .bf16 | .f64, .f32 => true
  | .f32, .f16 | .f32, .bf16 => true
  | .bf16, .f16 | .f16, .bf16 => true
  | _, _ => false

/-- Where SAT is defined (16 R350). -/
def CTy.satOk (st dt : CTy) : Bool :=
  match st.isFloat, dt.isFloat with
  | true, true => st.narrowing dt
  | false, false => true
  | true, false => true
  | false, true => false

/-- Operations of class I on which SAT is defined (15 R321). -/
def IntOp.satOk : IntOp → Bool
  | .add | .sub | .mul => true
  | _ => false

def Special.wide64 : Special → Bool
  | .launch | .gtime | .clock => true
  | _ => false

def CtlReg.wide : CtlReg → Nat
  | .fpflags | .chkmode | .asid => 1
  | .ctxsave => 4
  | _ => 2

def USpec.ctlSrc (u : USpec) (r : CtlReg) : Bool :=
  match r.wide with
  | 1 => true
  | 2 => u.pair
  | _ => u.quad

def USpec.ctlDst (u : USpec) (r : CtlReg) : Bool :=
  u.dst && match r.wide with
  | 1 => true
  | 2 => u.even
  | _ => u.quad

def LdTy.regOk (t : LdTy) (d : LSpec) : Bool :=
  d.dst && match t with
  | .b64 => d.pair
  | .b128 => d.quad
  | _ => true

def StTy.regOk (t : StTy) (d : LSpec) : Bool :=
  match t with
  | .b64 => d.pair
  | .b128 => d.quad
  | _ => true

/-- Weak accesses carry no scope, strong ones carry one; `.l` is weak only (08 R187). -/
def scopeOk (strong : Bool) (sc : Option Scope) (sp : Space) : Bool :=
  (strong == sc.isSome) && !(sp == .l && strong)

/-- The limits of CPY that its words show (07 R171, 16 R347). -/
def CpyCtl.wf (c : CpyCtl) : Bool :=
  decide (c.skind.val ≤ 1) && decide (c.dkind.val ≤ 2) && decide (c.dspace.val ≤ 3) &&
  decide (c.sspace.val ≤ 3) && (c.acq || c.ascope == .thread) && (c.rel || c.rscope == .thread)

def CpyLen.wf : CpyLen → Bool
  | .uni b => !(b == .zero)
  | .imm _ => true

/-- The destination operand of CPY: a pair for a global or stream side, ignored for a buffer. -/
def cpyDstOk (c : CpyCtl) (d : USpec) : Bool :=
  if c.dkind.val == 2 then d == .zero
  else if c.dkind.val == 1 || c.dspace.val == 0 then d.pair else true

def cpySrcOk (c : CpyCtl) (a : USpec) : Bool :=
  if c.skind.val == 1 || c.sspace.val == 0 then a.pair else true

/-- Well-formed wide forms (15 R323). -/
def WideOp.wf : WideOp → Bool
  | .int op sat ty d a b => d.dstW ty.wide64 && a.src ty.wide64 && b.wf ty.wide64 &&
      (!sat || op.satOk)
  | .iabs _ ty d b => d.dstW ty.wide64 && b.wf ty.wide64
  | .lea _ _ d _ b => d.dstW true && b.wf true
  | .icmp _ w64 _ _ a b => a.src w64 && b.wf w64
  | .sel _ d _ b => d.dst && b.wf false
  | .logic _ w d a b => d.dstW w.is64 && a.src w.is64 && b.wfB w.is64
  | .shift _ w d a b => d.dstW w.is64 && a.src w.is64 && b.wfB false
  | .bits op w d a _ => d.dstW (w.is64 && op == .brev) && a.src w.is64
  | .mov w d b => d.dstW w.is64 && b.wfB w.is64
  | .flt _ _ d _ _ => d.dst
  | .fmin d _ _ => d.dst
  | .fmax d _ _ => d.dst
  | .fcmp _ _ _ _ => true
  | .frnd _ d _ => d.dst
  | .dadd _ d a b => d.dstW true && a.pair && b.wf true
  | .dmul _ d a b => d.dstW true && a.pair && b.wf true
  | .dcmp _ _ a b => a.pair && b.wf true
  | .pkadd _ _ d _ _ => d.dst
  | .pkmul _ _ d _ _ => d.dst
  | .pkmin _ d _ _ => d.dst
  | .pkmax _ d _ _ => d.dst
  | .mfn _ d _ => d.dst
  | .sxpk _ d _ => d.dst
  | .sxupk _ d _ => d.dst

/-- Well-formed instructions. A step of a device agent has no encoding and no such limit. -/
def Instr.wf : Instr → Bool
  | .and w d a b | .or w d a b | .xor w d a b =>
      d.dstW w.is64 && a.src w.is64 && b.wf w.is64
  | .atom op ty _ _ m d b c =>
      m.wfAtom && d.dstW ty.wide64 && b.src ty.wide64 && !(op.bitwise && ty.isFloat) &&
      (if op == .cas then c.src ty.wide64 else c == .v 0)
  | .red op ty ord _ m b =>
      m.wfAtom && b.src ty.wide64 && !(op.bitwise && ty.isFloat) &&
      (ord == .none || ord == .rel) && !(op == .exch || op == .cas)
  | .bfx w _ d a f => d.dstW w.is64 && a.src w.is64 && f.wf w
  | .bfi w d a b f => d.dstW w.is64 && a.src w.is64 && b.wf w.is64 && f.wf w
  | .brev w d a => d.dstW w.is64 && a.src w.is64
  | .clz w d a | .popc w d a => d.dst && a.src w.is64
  | .brx rel a => rel || a.pair
  | .call d a ind imm => d.dstW true && (if ind then a.pair && imm == 0 else a == .v 0)
  | .cbrsv d _ | .cbacq d _ => d.dst
  | .cpy d a len c => c.wf && len.wf && cpyDstOk c d && cpySrcOk c a
  | .cvt sat _ dty sty d b =>
      d.dstW dty.wide64 && b.wf sty.wide64 && (!sat || sty.satOk dty)
  | .dadd _ d a b | .dmul _ d a b => d.dstW true && a.pair && b.pair
  | .dfma _ d a b c => d.dstW true && a.pair && b.wf true && c.pair
  | .dcmp _ _ a b => a.pair && b.pair
  | .fadd _ d _ _ | .fsub _ d _ _ | .fmul _ d _ _ => d.dst
  | .fence ord _ => !(ord == .none)
  | .ffma _ d _ _ _ | .fmax d _ _ | .fmin d _ _ | .frnd _ d _ => d.dst
  | .fshf _ _ d _ _ _ => d.dst
  | .gret t | .hret t => match t with | none => true | some u => u.pair
  | .iabs _ ty d b => ty.inMod && d.dstW ty.wide64 && b.src ty.wide64
  | .iadd _ ty d a b | .isub _ ty d a b | .imul _ ty d a b =>
      ty.inMod && d.dstW ty.wide64 && a.src ty.wide64 && b.src ty.wide64
  | .imulhi ty d a b | .imin ty d a b | .imax ty d a b =>
      ty.inMod && d.dstW ty.wide64 && a.src ty.wide64 && b.src ty.wide64
  | .icmp _ w64 _ _ a b => a.src w64 && b.src w64
  | .idp4 _ _ _ d _ _ _ => d.dst
  | .imad _ ty d a b c =>
      ty.inMod && d.dstW ty.wide64 && a.src ty.wide64 && b.wf ty.wide64 && c.src ty.wide64
  | .launch _ d a => d.pairDst && a.pair
  | .ld strong acq ty sc m d _ => m.wf && ty.regOk d && scopeOk (strong || acq) sc m.space
  | .lea _ _ d _ b => d.dstW true && b.pair
  | .lnx _ d _ b c base _ _ _ => d.dstW true && b.oct && c.dst && base.sEven
  | .logic3 w d a b c _ => d.dstW w.is64 && a.src w.is64 && b.wf w.is64 && c.src w.is64
  | .matchLanes w _ d a => d.dst && a.src w.is64
  | .mfn _ d _ => d.dst
  | .mma _ a b _ | .mmat _ a b _ => a.quad && b.quad
  | .mov w d b => d.dstW w.is64 && b.wf w.is64
  | .movi w _ d hw _ => d.dstW w.is64 && (w.is64 || decide (hw.val < 2))
  | .part code => decide (1 ≤ code.val) && decide (code.val ≤ 5)
  | .pkadd _ _ d _ _ | .pkmul _ _ d _ _ => d.dst
  | .pkmin _ d _ _ | .pkmax _ d _ _ => d.dst
  | .pkfma _ _ d _ _ _ => d.dst
  | .hint uset op hd _ _ more =>
      decide (more.length ≤ 3) &&
      !(!uset && op.val == 0 && more.length == 1 && !hd)
  | .psel d _ _ slct =>
      d.dst && match slct with
      | .reg _ => true
      | .imm s => [0, 5, 10, 15].all fun k =>
          let q := s.toNat / 2 ^ k % 32
          decide (q < 16) || q % 8 == 0
  | .rdctl d r => d.ctlDst r
  | .wrctl r a => a.ctlSrc r
  | .rds d sp => d.dstW sp.wide64
  | .redx op ty sat d a =>
      d.dstW ty.wide64 && a.src ty.wide64 && !(op.bitwise && ty.isFloat) &&
      (!sat || (op == .add && !ty.isFloat))
  | .scan op ty sat _ d a =>
      d.dstW ty.wide64 && a.src ty.wide64 && !(op.bitwise && ty.isFloat) &&
      (!sat || (op == .add && !ty.isFloat))
  | .reggrow _ v | .regshr v => decide (1 ≤ v.val) && decide (v.val ≤ 14)
  | .ret a => a.pair
  | .sarm _ a => a.pair
  | .sel _ d _ _ => d.dst
  | .shfl _ w d a _ _ => d.dstW w.is64 && a.src w.is64
  | .shl w d a _ | .shr w d a _ | .sar w d a _ => d.dstW w.is64 && a.src w.is64
  | .sld d _ _ => d.dst
  | .st strong rel ty sc m d _ => m.wf && ty.regOk d && scopeOk (strong || rel) sc m.space
  | .sxpk _ d _ | .sxupk _ d _ => d.dst
  | .tld _ a | .tst _ a => a.quad
  | .tstat _ d _ => d.dst
  | .uadd _ ty d a b | .usub _ ty d a b | .umul _ ty d a b =>
      ty.inMod && d.dstW ty.wide64 && a.srcW ty.wide64 && b.srcW ty.wide64
  | .umad _ ty d a b c =>
      ty.inMod && d.dstW ty.wide64 && a.srcW ty.wide64 && b.srcW ty.wide64 && c.srcW ty.wide64
  | .uand w d a b | .uor w d a b | .uxor w d a b =>
      d.dstW w.is64 && a.srcW w.is64 && b.wf w.is64
  | .ushl w d a _ | .ushr w d a _ | .usar w d a _ => d.dstW w.is64 && a.srcW w.is64
  | .umov w d b => d.dstW w.is64 && b.wf w.is64
  | .umovi w _ d hw _ => d.dstW w.is64 && (w.is64 || decide (hw.val < 2))
  | .ucmp _ w64 _ _ a b => a.srcW w64 && b.srcW w64
  | .usel _ d _ _ => d.dst
  | .ulea _ _ d _ b => d.dstW true && b.pair
  | .vote mode _ d fd _ => if mode == .ballot then d.dst && fd == 0 else d == .zero
  | .waita _ w _ _ m d b _ =>
      m.wf && !(m.space == .l) && d.dstW w.is64 && b.src w.is64
  | .wcall base q _ => base.even && q.quad
  | .wideForm op => op.wf
  | .bar .. | .cbar .. | .bkpt | .bra .. | .cancel .. | .cbcmt .. | .cbrel .. | .ckpt
  | .cpyw .. | .exit | .fcmp .. | .gang .. | .jarm .. | .jdrop .. | .jwait .. | .nop
  | .pref .. | .racq .. | .sdis .. | .succ .. | .tzero .. | .twait .. | .ubra .. | .wsync ..
  | .yield => true
  | .retirePacket .. | .check .. | .commit .. | .checkerLineFill .. | .mismatchWindow ..
  | .pickWarp .. | .reggrowGrant .. | .reggrowFail .. | .queueDoorbell .. | .errClear ..
  | .nopPacket .. | .launchPacket .. | .graphPacket .. | .graphCheck .. | .phasePacket ..
  | .phaseClosePacket .. | .waitPacket .. | .waitPacketSample .. | .signalStorePacket ..
  | .signalAddPacket .. | .cancelLaunchPacket .. | .cancelGraphPacket ..
  | .cancelPhasePacket .. | .cancelJobPacket .. | .jobOpen .. | .jobReopen .. | .refill
  | .pickLaunch | .preemptRequest .. | .preemptAbandon .. | .preemptSave .. | .coreVacate ..
  | .blockResume .. | .launchComplete .. | .queueHandOn .. | .spillRefill ..
  | .handlerEntry .. | .hostFaultRecord .. | .resumeRetry .. | .resumeEnd .. | .wcallDrain ..
  | .matrixStart .. | .matrixCheck .. | .engineTake .. | .copyComplete ..
  | .sliceReadRequest .. | .sliceWrite .. | .writeAck .. | .sliceEvict ..
  | .ownershipRecall .. | .predictorDecay .. | .pageWalk .. | .racqRemote .. | .waitaSample ..
  | .lnxRequestServe .. | .groveEntryFetch .. | .shootdown | .graftLoad .. | .graftActivate
  | .graftRetire | .enterSegment .. | .segmentTranslate .. | .biasFlipToHost
  | .biasFlipToDevice | .hostMemRead .. | .hostMemWrite .. | .bisnpResponse ..
  | .hostLinkLoss | .hostLinkReturn | .laneFailure .. | .retrainComplete .. | .portDead ..
  | .peerLost .. | .peerRemovalReport .. | .replicaRead .. | .invalidationAck ..
  | .objectDeclare .. | .objectValidate .. | .objectRemove .. | .patrolScrub .. | .undoStart
  | .undoRestore | .deviceStart .. | .watchdogExpire | .thermalTrip | .supplyFault
  | .powerWindow .. | .failsClear | .floorWrite .. | .registerWrite ..
  | .releaseWaitEnd .. | .tileTransferComplete .. | .biasFlipPageDone | .hostSnoop ..
  | .hostWindowResponse .. | .replicaInvalidation .. | .hostLinkDown | .thermalThrottle ..
  | .packagePowerOff => true

/-- Has the instruction words of its own: a warp instruction, not a step of an agent. -/
def Instr.encodable : Instr → Bool
  | .retirePacket .. | .check .. | .commit .. | .checkerLineFill .. | .mismatchWindow ..
  | .pickWarp .. | .reggrowGrant .. | .reggrowFail .. | .queueDoorbell .. | .errClear ..
  | .nopPacket .. | .launchPacket .. | .graphPacket .. | .graphCheck .. | .phasePacket ..
  | .phaseClosePacket .. | .waitPacket .. | .waitPacketSample .. | .signalStorePacket ..
  | .signalAddPacket .. | .cancelLaunchPacket .. | .cancelGraphPacket ..
  | .cancelPhasePacket .. | .cancelJobPacket .. | .jobOpen .. | .jobReopen .. | .refill
  | .pickLaunch | .preemptRequest .. | .preemptAbandon .. | .preemptSave .. | .coreVacate ..
  | .blockResume .. | .launchComplete .. | .queueHandOn .. | .spillRefill ..
  | .handlerEntry .. | .hostFaultRecord .. | .resumeRetry .. | .resumeEnd .. | .wcallDrain ..
  | .matrixStart .. | .matrixCheck .. | .engineTake .. | .copyComplete ..
  | .sliceReadRequest .. | .sliceWrite .. | .writeAck .. | .sliceEvict ..
  | .ownershipRecall .. | .predictorDecay .. | .pageWalk .. | .racqRemote .. | .waitaSample ..
  | .lnxRequestServe .. | .groveEntryFetch .. | .shootdown | .graftLoad .. | .graftActivate
  | .graftRetire | .enterSegment .. | .segmentTranslate .. | .biasFlipToHost
  | .biasFlipToDevice | .hostMemRead .. | .hostMemWrite .. | .bisnpResponse ..
  | .hostLinkLoss | .hostLinkReturn | .laneFailure .. | .retrainComplete .. | .portDead ..
  | .peerLost .. | .peerRemovalReport .. | .replicaRead .. | .invalidationAck ..
  | .objectDeclare .. | .objectValidate .. | .objectRemove .. | .patrolScrub .. | .undoStart
  | .undoRestore | .deviceStart .. | .watchdogExpire | .thermalTrip | .supplyFault
  | .powerWindow .. | .failsClear | .floorWrite .. | .registerWrite ..
  | .releaseWaitEnd .. | .tileTransferComplete .. | .biasFlipPageDone | .hostSnoop ..
  | .hostWindowResponse .. | .replicaInvalidation .. | .hostLinkDown | .thermalThrottle ..
  | .packagePowerOff => false
  | _ => true

end Sys2Proof
end

