-- ==== Sys2Proof/Decode.lean ====
section
/-!
DEFINITION. Decoding of instruction words (14 R299 to R306, 15 R320 to R326), total and
refusing by name, and after it the encoder, written from the same tables. Fields that depend on
the warp (allotments, modes, the place in the run) are left to the meanings.
-/

set_option Elab.async false

namespace Sys2Proof

/-- Why a first word is no instruction (15 R320): the two group faults of the native decoder. -/
inductive DecodeErr where
  | illegalOpcode
  | illegalEncoding
deriving DecidableEq, Repr

/-- Bits [hi:lo] of a word held as a number (00 R7). -/
def fld (w hi lo : Nat) : Nat := w / 2 ^ lo % 2 ^ (hi - lo + 1)

def toBool (n : Nat) : Bool := n % 2 == 1
def ofBool (b : Bool) : Nat := if b then 1 else 0

/-! ### Specifiers and small codes -/

def LSpec.code : LSpec → Nat
  | .v n => n.val
  | .t n => 112 + n.val
  | .zero => 120
  | .lane => 121

/-- Lane-set specifier (14 R302); 0x7A to 0x7F are reserved. -/
def lspecOf (n : Nat) : Option LSpec :=
  if h : n < 112 then some (.v ⟨n, h⟩)
  else if h : n - 112 < 8 then some (.t ⟨n - 112, h⟩)
  else if n = 120 then some .zero
  else if n = 121 then some .lane
  else none

def USpec.code : USpec → Nat
  | .s n => n.val
  | .zero => 112
  | .warp => 113
  | .block => 114
  | .cluster => 115
  | .clusterrank => 116
  | .role => 117
  | .core => 118
  | .part => 119
  | .gang => 120
  | .launchLo => 121
  | .launchHi => 122

/-- Uniform-set specifier (14 R303); 0x7B to 0x7F are reserved. -/
def uspecOf (n : Nat) : Option USpec :=
  if h : n < 112 then some (.s ⟨n, h⟩)
  else [USpec.zero, .warp, .block, .cluster, .clusterrank, .role, .core, .part, .gang,
        .launchLo, .launchHi][n - 112]?

/-- A field of k values as a number below k. -/
def finOf (k n : Nat) : Option (Fin k) := if h : n < k then some ⟨n, h⟩ else none

def ityOf (n : Nat) : Option ITy := [ITy.s32, .z32, .s64, .z64][n]?
def ITy.code : ITy → Nat
  | .s32 => 0 | .z32 => 1 | .s64 => 2 | .z64 => 3
  | .s8 => 0 | .s16 => 0 | .z8 => 0 | .z16 => 0
/-- TYPE of the wide form (15 R323). -/
def ITy.wideCode : ITy → Nat
  | .s8 => 1 | .s16 => 2 | .z8 => 3 | .z16 => 4
  | _ => 0
def widthOf (n : Nat) : Option Width := [Width.b32, .b64][n]?
def Width.code : Width → Nat | .b32 => 0 | .b64 => 1
def rndOf (n : Nat) : Option Rnd := [Rnd.rn, .rz, .rp, .rm][n]?
def Rnd.code : Rnd → Nat | .rn => 0 | .rz => 1 | .rp => 2 | .rm => 3
def icondOf (n : Nat) : Option ICond := [ICond.eq, .ne, .lt, .le, .gt, .ge][n]?
def ICond.code : ICond → Nat
  | .eq => 0 | .ne => 1 | .lt => 2 | .le => 3 | .gt => 4 | .ge => 5
def fcondOf (n : Nat) : Option FCond := [FCond.eq, .ne, .lt, .le, .gt, .ge, .num, .nan][n]?
def FCond.code : FCond → Nat
  | .eq => 0 | .ne => 1 | .lt => 2 | .le => 3 | .gt => 4 | .ge => 5 | .num => 6 | .nan => 7
def wcondOf (n : Nat) : Option WCond := [WCond.eq, .ne, .uge, .ult, .sge, .slt][n]?
def WCond.code : WCond → Nat
  | .eq => 0 | .ne => 1 | .uge => 2 | .ult => 3 | .sge => 4 | .slt => 5
def mfnOf (n : Nat) : Option MfnFn :=
  [MfnFn.rcp, .rsq, .sqrt, .ex2, .lg2, .sinpi, .cospi, .tanh][n]?
def MfnFn.code : MfnFn → Nat
  | .rcp => 0 | .rsq => 1 | .sqrt => 2 | .ex2 => 3 | .lg2 => 4 | .sinpi => 5 | .cospi => 6
  | .tanh => 7
def scopeOf (n : Nat) : Option Scope :=
  [Scope.thread, .tile, .warp, .block, .cluster, .die, .pkg, .node, .pod, .sys][n]?
def Scope.code : Scope → Nat
  | .thread => 0 | .tile => 1 | .warp => 2 | .block => 3 | .cluster => 4 | .die => 5 | .pkg => 6
  | .node => 7 | .pod => 8 | .sys => 9
def ordOf (n : Nat) : Option Ord4 := [Ord4.none, .acq, .rel, .ar, .sc][n]?
def Ord4.code : Ord4 → Nat | .none => 0 | .acq => 1 | .rel => 2 | .ar => 3 | .sc => 4
def spaceOf (n : Nat) : Option Space := [Space.g, .k, .q, .x, .l][n]?
def Space.code : Space → Nat | .g => 0 | .k => 1 | .q => 2 | .x => 3 | .l => 4
def ldTyOf (n : Nat) : Option LdTy := [LdTy.z8, .s8, .z16, .s16, .b32, .b64, .b128][n]?
def LdTy.code : LdTy → Nat
  | .z8 => 0 | .s8 => 1 | .z16 => 2 | .s16 => 3 | .b32 => 4 | .b64 => 5 | .b128 => 6
def stTyOf (n : Nat) : Option StTy := [StTy.b8, .b16, .b32, .b64, .b128][n]?
def StTy.code : StTy → Nat | .b8 => 0 | .b16 => 1 | .b32 => 2 | .b64 => 3 | .b128 => 4
def aopOf (n : Nat) : Option AOp := [AOp.add, .min, .max, .and, .or, .xor, .exch, .cas][n]?
def AOp.code : AOp → Nat
  | .add => 0 | .min => 1 | .max => 2 | .and => 3 | .or => 4 | .xor => 5 | .exch => 6 | .cas => 7
def atyOf (n : Nat) : Option ATy := [ATy.s32, .z32, .s64, .z64, .f32, .f16, .bf16][n]?
def ATy.code : ATy → Nat
  | .s32 => 0 | .z32 => 1 | .s64 => 2 | .z64 => 3 | .f32 => 4 | .f16 => 5 | .bf16 => 6
def ctyOf (n : Nat) : Option CTy :=
  [CTy.s8, .s16, .s32, .s64, .z8, .z16, .z32, .z64, .f16, .bf16, .f32, .f64][n]?
def CTy.code : CTy → Nat
  | .s8 => 0 | .s16 => 1 | .s32 => 2 | .s64 => 3 | .z8 => 4 | .z16 => 5 | .z32 => 6 | .z64 => 7
  | .f16 => 8 | .bf16 => 9 | .f32 => 10 | .f64 => 11
def ropOf (n : Nat) : Option ROp := [ROp.add, .min, .max, .and, .or, .xor][n]?
def ROp.code : ROp → Nat
  | .add => 0 | .min => 1 | .max => 2 | .and => 3 | .or => 4 | .xor => 5
def rtyOf (n : Nat) : Option RTy := [RTy.s32, .z32, .s64, .z64, .f32, .f64][n]?
def RTy.code : RTy → Nat
  | .s32 => 0 | .z32 => 1 | .s64 => 2 | .z64 => 3 | .f32 => 4 | .f64 => 5
def sxOf (n : Nat) : Option SxFmt := [SxFmt.sx7, .sx4, .sx2][n]?
def SxFmt.code : SxFmt → Nat | .sx7 => 0 | .sx4 => 1 | .sx2 => 2
def shflOf (n : Nat) : Option ShflMode := [ShflMode.at, .rot, .flip, .rev][n]?
def ShflMode.code : ShflMode → Nat | .at => 0 | .rot => 1 | .flip => 2 | .rev => 3
def voteOf (n : Nat) : Option VoteMode := [VoteMode.ballot, .any, .all, .eq][n]?
def VoteMode.code : VoteMode → Nat | .ballot => 0 | .any => 1 | .all => 2 | .eq => 3
def levelOf (n : Nat) : Option CancelLevel := [CancelLevel.launch, .graph, .phase, .job][n]?
def CancelLevel.code : CancelLevel → Nat | .launch => 0 | .graph => 1 | .phase => 2 | .job => 3
def ctlOf (n : Nat) : Option CtlReg :=
  [CtlReg.fpflags, .chkmode, .lwct, .trapbase, .grovebase, .callq, .asid, .ctxsave, .capbase,
   .mismatch, .graftgen][n]?
def CtlReg.code : CtlReg → Nat
  | .fpflags => 0 | .chkmode => 1 | .lwct => 2 | .trapbase => 3 | .grovebase => 4 | .callq => 5
  | .asid => 6 | .ctxsave => 7 | .capbase => 8 | .mismatch => 9 | .graftgen => 10
def specialOf (n : Nat) : Option Special :=
  [Special.lane, .tid, .warp, .block, .cluster, .clusterrank, .launch, .role, .core, .gtime,
   .clock, .part, .gang][n]?
def Special.code : Special → Nat
  | .lane => 0 | .tid => 1 | .warp => 2 | .block => 3 | .cluster => 4 | .clusterrank => 5
  | .launch => 6 | .role => 7 | .core => 8 | .gtime => 9 | .clock => 10 | .part => 11 | .gang => 12

/-! ### Operand forms -/

/-- b or imm7 of class B: the bit I is mod [23] (15 R321). -/
def bsrcOf (i b : Nat) : Option BSrc :=
  if i = 0 then (lspecOf b).map .reg else some (.imm (BitVec.ofNat 7 b))
def BSrc.iBit : BSrc → Nat | .reg _ => 0 | .imm _ => 1
def BSrc.code : BSrc → Nat | .reg r => r.code | .imm i => i.toNat

def usrcOf (i b : Nat) : Option USrc :=
  if i = 0 then (uspecOf b).map .reg else some (.imm (BitVec.ofNat 7 b))
def USrc.iBit : USrc → Nat | .reg _ => 0 | .imm _ => 1
def USrc.code : USrc → Nat | .reg r => r.code | .imm i => i.toNat

/-- b with UB (14 R301). -/
def lusrcOf (ub b : Nat) : Option LUSrc :=
  if ub = 0 then (lspecOf b).map .reg else (uspecOf b).map .uni
def LUSrc.ubBit : LUSrc → Nat | .reg _ => 0 | .uni _ => 1
def LUSrc.code : LUSrc → Nat | .reg r => r.code | .uni u => u.code

/-- The source b of the wide form (15 R323): with IW, UB and b are zero. -/
def wsrcOf (iw ub b imm : Nat) : Option WSrc :=
  if iw = 0 then
    if imm = 0 then
      if ub = 0 then (lspecOf b).map .reg else (uspecOf b).map .uni
    else none
  else if ub = 0 ∧ b = 0 then some (.imm (BitVec.ofNat 16 imm)) else none

def brOf (cond n : Nat) : Option BrCond :=
  match cond with
  | 0 => if n = 0 then some .always else none
  | 1 => (finOf 8 n).map .flag
  | 2 => (finOf 8 n).map .notFlag
  | _ => none
def BrCond.cond : BrCond → Nat | .always => 0 | .flag _ => 1 | .notFlag _ => 2
def BrCond.num : BrCond → Nat | .always => 0 | .flag n => n.val | .notFlag n => n.val

/-- SCOPE of LD and ST: 0 to 9, or 15 for none (17 R376). -/
def oscopeOf (n : Nat) : Option (Option Scope) :=
  if n = 15 then some none else (scopeOf n).map some
def oscopeCode : Option Scope → Nat | none => 15 | some s => s.code

def memOf (sp sb a sc : Nat) : Option MemOp := do
  let space ← spaceOf sp
  let base ← uspecOf sb
  let off ← lspecOf a
  let scale ← finOf 4 sc
  some ⟨space, base, off, scale⟩

/-! ### The one-word lane set -/

/-- One-word lane-set opcodes 0x00 to 0x5A by the tables of 15 R322. -/
def decL1 (op m d a b : Nat) : Option Instr :=
  let sat := toBool (m / 4)
  match op with
  | 0x00 => do some (.iadd sat (← ityOf (m % 4)) (← lspecOf d) (← lspecOf a) (← lspecOf b))
  | 0x01 => do some (.isub sat (← ityOf (m % 4)) (← lspecOf d) (← lspecOf a) (← lspecOf b))
  | 0x02 => do some (.imul sat (← ityOf (m % 4)) (← lspecOf d) (← lspecOf a) (← lspecOf b))
  | 0x03 => do some (.imulhi (← ityOf m) (← lspecOf d) (← lspecOf a) (← lspecOf b))
  | 0x04 => do some (.imin (← ityOf m) (← lspecOf d) (← lspecOf a) (← lspecOf b))
  | 0x05 => do some (.imax (← ityOf m) (← lspecOf d) (← lspecOf a) (← lspecOf b))
  | 0x06 => do guard (a = 0); some (.iabs sat (← ityOf (m % 4)) (← lspecOf d) (← lspecOf b))
  | 0x07 => do some (.lea sat (← finOf 4 (m % 4)) (← lspecOf d) (← lspecOf a) (← lspecOf b))
  | 0x08 => do
      guard (d < 32)
      some (.icmp (← icondOf m) (toBool (d / 16)) (toBool (d / 8)) (← finOf 8 (d % 8))
        (← lspecOf a) (← lspecOf b))
  | 0x09 => do some (.sel (← finOf 8 m) (← lspecOf d) (← lspecOf a) (← lspecOf b))
  | 0x0A => do some (.and (← widthOf (m % 4)) (← lspecOf d) (← lspecOf a) (← bsrcOf (m / 4) b))
  | 0x0B => do some (.or (← widthOf (m % 4)) (← lspecOf d) (← lspecOf a) (← bsrcOf (m / 4) b))
  | 0x0C => do some (.xor (← widthOf (m % 4)) (← lspecOf d) (← lspecOf a) (← bsrcOf (m / 4) b))
  | 0x0D => do some (.shl (← widthOf (m % 4)) (← lspecOf d) (← lspecOf a) (← bsrcOf (m / 4) b))
  | 0x0E => do some (.shr (← widthOf (m % 4)) (← lspecOf d) (← lspecOf a) (← bsrcOf (m / 4) b))
  | 0x0F => do some (.sar (← widthOf (m % 4)) (← lspecOf d) (← lspecOf a) (← bsrcOf (m / 4) b))
  | 0x10 => do guard (b = 0); some (.popc (← widthOf m) (← lspecOf d) (← lspecOf a))
  | 0x11 => do guard (b = 0); some (.clz (← widthOf m) (← lspecOf d) (← lspecOf a))
  | 0x12 => do guard (b = 0); some (.brev (← widthOf m) (← lspecOf d) (← lspecOf a))
  | 0x13 => do guard (a = 0); some (.mov (← widthOf (m % 4)) (← lspecOf d) (← bsrcOf (m / 4) b))
  | 0x14 => do guard (m = 0 ∧ a = 0); some (.rds (← lspecOf d) (← specialOf b))
  | 0x20 => do some (.fadd (← rndOf m) (← lspecOf d) (← lspecOf a) (← lspecOf b))
  | 0x21 => do some (.fsub (← rndOf m) (← lspecOf d) (← lspecOf a) (← lspecOf b))
  | 0x22 => do some (.fmul (← rndOf m) (← lspecOf d) (← lspecOf a) (← lspecOf b))
  | 0x23 => do guard (m = 0); some (.fmin (← lspecOf d) (← lspecOf a) (← lspecOf b))
  | 0x24 => do guard (m = 0); some (.fmax (← lspecOf d) (← lspecOf a) (← lspecOf b))
  | 0x25 => do some (.fcmp (← fcondOf m) (← finOf 8 d) (← lspecOf a) (← lspecOf b))
  | 0x26 => do guard (a = 0); some (.frnd (← rndOf m) (← lspecOf d) (← lspecOf b))
  | 0x27 => do some (.dadd (← rndOf m) (← lspecOf d) (← lspecOf a) (← lspecOf b))
  | 0x28 => do some (.dmul (← rndOf m) (← lspecOf d) (← lspecOf a) (← lspecOf b))
  | 0x29 => do some (.dcmp (← fcondOf m) (← finOf 8 d) (← lspecOf a) (← lspecOf b))
  | 0x2A => do some (.pkadd sat (← rndOf (m % 4)) (← lspecOf d) (← lspecOf a) (← lspecOf b))
  | 0x2B => do some (.pkmul sat (← rndOf (m % 4)) (← lspecOf d) (← lspecOf a) (← lspecOf b))
  | 0x2C => do guard (m % 4 = 0); some (.pkmin sat (← lspecOf d) (← lspecOf a) (← lspecOf b))
  | 0x2D => do guard (m % 4 = 0); some (.pkmax sat (← lspecOf d) (← lspecOf a) (← lspecOf b))
  | 0x2E => do guard (a = 0); some (.mfn (← mfnOf m) (← lspecOf d) (← lspecOf b))
  | 0x2F => do guard (b = 0); some (.sxpk (← sxOf m) (← lspecOf d) (← lspecOf a))
  | 0x30 => do guard (b = 0); some (.sxupk (← sxOf m) (← lspecOf d) (← lspecOf a))
  | 0x40 => do
      guard (b = 0)
      let mode ← voteOf (m % 4)
      let fa ← finOf 8 a
      match mode with
      | .ballot => some (.vote mode sat (← lspecOf d) 0 fa)
      | _ => some (.vote mode sat .zero (← finOf 8 d) fa)
  | 0x41 => do
      guard (m % 4 = 0 ∧ b % 2 = 0)
      some (.redx (← ropOf (b / 16)) (← rtyOf (b / 2 % 8)) sat (← lspecOf d) (← lspecOf a))
  | 0x42 => do
      guard (m % 4 = 0)
      some (.scan (← ropOf (b / 16)) (← rtyOf (b / 2 % 8)) sat (toBool b) (← lspecOf d)
        (← lspecOf a))
  | 0x43 => do
      guard (b = 0 ∧ m % 4 < 2)
      some (.matchLanes (if sat then .b64 else .b32) (toBool m) (← lspecOf d) (← lspecOf a))
  | 0x50 => do
      guard (a % 64 = 0 ∧ (a / 64 = 1 ∨ m = 0))
      let f ← finOf 8 m
      some (.sld (← lspecOf d) (← finOf 8 b) (if a / 64 = 1 then some f else none))
  | 0x51 => do guard (a = 0 ∧ b = 0); some (.fence (← ordOf m) (← scopeOf d))
  | 0x52 => do guard (m = 0 ∧ d = 0 ∧ a = 0); some (.racq (← uspecOf b))
  | 0x53 => do guard (m % 4 = 0 ∧ d = 0 ∧ b = 0); some (.brx sat (← lspecOf a))
  | 0x54 => do guard (m = 0 ∧ d = 0 ∧ b = 0); some (.ret (← lspecOf a))
  | 0x55 => do guard (m = 0 ∧ d = 0 ∧ a = 0); some (.jwait (← finOf 16 b))
  | 0x56 => do guard (m = 0 ∧ d = 0 ∧ a = 0); some (.jdrop (← finOf 16 b))
  | 0x57 => do guard (m = 0 ∧ d = 0 ∧ a = 0 ∧ b = 0); some .exit
  | 0x58 => do guard (m = 0 ∧ d = 0 ∧ a = 0 ∧ b = 0); some .yield
  | 0x59 => do guard (m = 0 ∧ d = 0 ∧ a = 0 ∧ b = 0); some .nop
  | 0x5A => do guard (m = 0 ∧ d = 0 ∧ a = 0 ∧ b = 0); some .bkpt
  | _ => none

/-- Assigned one-word lane-set opcodes (15 R322). -/
def asgL1 (op : Nat) : Bool :=
  decide (op ≤ 0x14) || (decide (0x20 ≤ op) && decide (op ≤ 0x30)) ||
  (decide (0x40 ≤ op) && decide (op ≤ 0x43)) || (decide (0x50 ≤ op) && decide (op ≤ 0x5A))

/-! ### The wide form (15 R323) -/

/-- Class I types in the wide form: TYPE, or mod when TYPE is 0. -/
def wideTy (m ty : Nat) : Option ITy :=
  match ty with
  | 0 => ityOf (m % 4)
  | 1 => if m % 4 = 0 then some .s8 else none
  | 2 => if m % 4 = 0 then some .s16 else none
  | 3 => if m % 4 = 0 then some .z8 else none
  | 4 => if m % 4 = 0 then some .z16 else none
  | _ => none

/-- IW is undefined for opcodes 0x20 to 0x30, 0x10 to 0x12 (15 R323, 16 R341, 17 R355). -/
def wlu (iw ub b imm : Nat) : Option LUSrc :=
  if iw = 0 ∧ imm = 0 then lusrcOf ub b else none

/-- The source of a class B wide form: with mod bit I, b is imm7 and IW is zero; UB = 1 reads b
as a uniform register whatever I holds (15 R323). -/
def wsrcB (i iw ub b imm : Nat) : Option WSrc :=
  if i = 0 then wsrcOf iw ub b imm
  else if iw = 0 ∧ imm = 0 then
    if ub = 1 then wsrcOf iw ub b imm else some (.imm7 (BitVec.ofNat 7 b))
  else none

def decWide (op m d a b ub ty iw imm : Nat) : Option WideOp :=
  let sat := toBool (m / 4)
  let w := wsrcOf iw ub b imm
  let lu := wlu iw ub b imm
  let noB : Bool := decide (iw = 0 ∧ imm = 0 ∧ ub = 0 ∧ b = 0)
  let bitsB : Bool := decide (iw = 0 ∧ imm = 0 ∧ b = 0)
  let wb := wsrcB (m / 4) iw ub b imm
  match op with
  | 0x00 => do some (.int .add sat (← wideTy m ty) (← lspecOf d) (← lspecOf a) (← w))
  | 0x01 => do some (.int .sub sat (← wideTy m ty) (← lspecOf d) (← lspecOf a) (← w))
  | 0x02 => do some (.int .mul sat (← wideTy m ty) (← lspecOf d) (← lspecOf a) (← w))
  | 0x03 => do some (.int .mulhi sat (← wideTy m ty) (← lspecOf d) (← lspecOf a) (← w))
  | 0x04 => do some (.int .min sat (← wideTy m ty) (← lspecOf d) (← lspecOf a) (← w))
  | 0x05 => do some (.int .max sat (← wideTy m ty) (← lspecOf d) (← lspecOf a) (← w))
  | 0x06 => do guard (a = 0); some (.iabs sat (← wideTy m ty) (← lspecOf d) (← w))
  | _ =>
    if ty ≠ 0 then none else
    match op with
    | 0x07 => do some (.lea sat (← finOf 4 (m % 4)) (← lspecOf d) (← lspecOf a) (← w))
    | 0x08 => do
        guard (d < 32)
        some (.icmp (← icondOf m) (toBool (d / 16)) (toBool (d / 8)) (← finOf 8 (d % 8))
          (← lspecOf a) (← w))
    | 0x09 => do some (.sel (← finOf 8 m) (← lspecOf d) (← lspecOf a) (← w))
    | 0x0A => do some (.logic .and (← widthOf (m % 4)) (← lspecOf d) (← lspecOf a) (← wb))
    | 0x0B => do some (.logic .or (← widthOf (m % 4)) (← lspecOf d) (← lspecOf a) (← wb))
    | 0x0C => do some (.logic .xor (← widthOf (m % 4)) (← lspecOf d) (← lspecOf a) (← wb))
    | 0x0D => do some (.shift .shl (← widthOf (m % 4)) (← lspecOf d) (← lspecOf a) (← wb))
    | 0x0E => do some (.shift .shr (← widthOf (m % 4)) (← lspecOf d) (← lspecOf a) (← wb))
    | 0x0F => do some (.shift .sar (← widthOf (m % 4)) (← lspecOf d) (← lspecOf a) (← wb))
    | 0x10 => do guard bitsB; some (.bits .popc (← widthOf m) (← lspecOf d) (← lspecOf a) (toBool ub))
    | 0x11 => do guard bitsB; some (.bits .clz (← widthOf m) (← lspecOf d) (← lspecOf a) (toBool ub))
    | 0x12 => do guard bitsB; some (.bits .brev (← widthOf m) (← lspecOf d) (← lspecOf a) (toBool ub))
    | 0x13 => do guard (a = 0); some (.mov (← widthOf (m % 4)) (← lspecOf d) (← wb))
    | 0x20 => do some (.flt .add (← rndOf m) (← lspecOf d) (← lspecOf a) (← lu))
    | 0x21 => do some (.flt .sub (← rndOf m) (← lspecOf d) (← lspecOf a) (← lu))
    | 0x22 => do some (.flt .mul (← rndOf m) (← lspecOf d) (← lspecOf a) (← lu))
    | 0x23 => do guard (m = 0); some (.fmin (← lspecOf d) (← lspecOf a) (← lu))
    | 0x24 => do guard (m = 0); some (.fmax (← lspecOf d) (← lspecOf a) (← lu))
    | 0x25 => do some (.fcmp (← fcondOf m) (← finOf 8 d) (← lspecOf a) (← lu))
    | 0x26 => do guard (a = 0); some (.frnd (← rndOf m) (← lspecOf d) (← lu))
    | 0x27 => do some (.dadd (← rndOf m) (← lspecOf d) (← lspecOf a) (← lu))
    | 0x28 => do some (.dmul (← rndOf m) (← lspecOf d) (← lspecOf a) (← lu))
    | 0x29 => do some (.dcmp (← fcondOf m) (← finOf 8 d) (← lspecOf a) (← lu))
    | 0x2A => do some (.pkadd sat (← rndOf (m % 4)) (← lspecOf d) (← lspecOf a) (← lu))
    | 0x2B => do some (.pkmul sat (← rndOf (m % 4)) (← lspecOf d) (← lspecOf a) (← lu))
    | 0x2C => do guard (m % 4 = 0); some (.pkmin sat (← lspecOf d) (← lspecOf a) (← lu))
    | 0x2D => do guard (m % 4 = 0); some (.pkmax sat (← lspecOf d) (← lspecOf a) (← lu))
    | 0x2E => do guard (a = 0); some (.mfn (← mfnOf m) (← lspecOf d) (← lu))
    | 0x2F => do guard noB; some (.sxpk (← sxOf m) (← lspecOf d) (← lspecOf a))
    | 0x30 => do guard noB; some (.sxupk (← sxOf m) (← lspecOf d) (← lspecOf a))
    | _ => none

/-! ### The two-word lane set -/

def brTarget (w : Nat) : Option (BitVec 25) :=
  if w < 2 ^ 25 then some (BitVec.ofNat 25 w) else none

/-- Two-word lane-set opcodes 0x60 to 0x77; w is the second word. -/
def decL2 (op m d a b w : Nat) : Option Instr :=
  let hi := toBool (m / 4)
  let c := w / 2 ^ 25
  let ub := w / 2 ^ 24 % 2
  let low24 := w % 2 ^ 24
  let imm16 := w % 2 ^ 16
  match op with
  | 0x60 => do
      guard (fld w 18 16 = 0)
      some (.wideForm (← decWide c m d a b ub (fld w 23 20) (fld w 19 19) imm16))
  | 0x61 => do
      guard (low24 = 0)
      some (.imad hi (← ityOf (m % 4)) (← lspecOf d) (← lspecOf a) (← lusrcOf ub b) (← lspecOf c))
  | 0x62 => do
      guard (low24 = 0)
      some (.idp4 hi (toBool (m / 2)) (toBool m) (← lspecOf d) (← lspecOf a) (← lusrcOf ub b)
        (← lspecOf c))
  | 0x63 => do
      guard (imm16 = 0)
      some (.logic3 (← widthOf m) (← lspecOf d) (← lspecOf a) (← lusrcOf ub b) (← lspecOf c)
        (BitVec.ofNat 8 (fld w 23 16)))
  | 0x64 => do
      guard (m % 2 = 0 ∧ fld w 22 6 = 0)
      let sh ← if fld w 23 23 = 1 then
          (if c = 0 then some (FshSrc.imm (BitVec.ofNat 6 (fld w 5 0))) else none)
        else (if fld w 5 0 = 0 then (lspecOf c).map FshSrc.reg else none)
      some (.fshf hi (toBool (m / 2)) (← lspecOf d) (← lspecOf a) (← lusrcOf ub b) sh)
  | 0x65 => do
      guard (b = 0 ∧ ub = 0 ∧ fld w 21 16 = 0)
      let f ← if fld w 23 23 = 1 then (if imm16 = 0 then (lspecOf c).map BfSel.reg else none)
        else (if c = 0 then
            some (BfSel.imm (BitVec.ofNat 8 (fld w 7 0)) (BitVec.ofNat 8 (fld w 15 8))) else none)
      some (.bfx (← widthOf m) (toBool (fld w 22 22)) (← lspecOf d) (← lspecOf a) f)
  | 0x66 => do
      guard (fld w 22 16 = 0)
      let f ← if fld w 23 23 = 1 then (if imm16 = 0 then (lspecOf c).map BfSel.reg else none)
        else (if c = 0 then
            some (BfSel.imm (BitVec.ofNat 8 (fld w 7 0)) (BitVec.ofNat 8 (fld w 15 8))) else none)
      some (.bfi (← widthOf m) (← lspecOf d) (← lspecOf a) (← lusrcOf ub b) f)
  | 0x67 => do
      guard (m = 0 ∧ fld w 22 20 = 0)
      let s ← if fld w 23 23 = 1 then
          (if w % 2 ^ 20 = 0 then (lspecOf c).map PselSrc.reg else none)
        else (if c = 0 then some (PselSrc.imm (BitVec.ofNat 20 (w % 2 ^ 20))) else none)
      some (.psel (← lspecOf d) (← lspecOf a) (← lusrcOf ub b) s)
  | 0x68 => do
      guard (m % 2 = 0 ∧ a = 0 ∧ b = 0 ∧ fld w 31 18 = 0)
      some (.movi (← widthOf (m / 2 % 2)) hi (← lspecOf d) (← finOf 4 (fld w 17 16))
        (BitVec.ofNat 16 imm16))
  | 0x69 => do
      guard (low24 = 0)
      some (.ffma (← rndOf m) (← lspecOf d) (← lspecOf a) (← lusrcOf ub b) (← lspecOf c))
  | 0x6A => do
      some (.lnx (← ordOf m) (← lspecOf d) (← lspecOf a) (← lspecOf b) (← lspecOf c)
        (← uspecOf (fld w 24 18)) (← finOf 4 (fld w 17 16)) (← finOf 64 (fld w 15 10))
        (BitVec.ofNat 10 (fld w 9 0)))
  | 0x6B => do
      guard (low24 = 0)
      some (.dfma (← rndOf m) (← lspecOf d) (← lspecOf a) (← lusrcOf ub b) (← lspecOf c))
  | 0x6C => do
      guard (low24 = 0)
      some (.pkfma hi (← rndOf (m % 4)) (← lspecOf d) (← lspecOf a) (← lusrcOf ub b)
        (← lspecOf c))
  | 0x6D => do
      guard (a = 0 ∧ c = 0 ∧ imm16 = 0)
      some (.cvt hi (← rndOf (m % 4)) (← ctyOf (fld w 23 20)) (← ctyOf (fld w 19 16))
        (← lspecOf d) (← lusrcOf ub b))
  | 0x6E => do
      guard (m % 4 < 2 ∧ b % 8 = 0)
      some (.ld hi (toBool m) (← ldTyOf (b / 8)) (← oscopeOf (fld w 24 21))
        (← memOf (fld w 20 18) c a (fld w 17 16)) (← lspecOf d) (BitVec.ofNat 16 imm16))
  | 0x6F => do
      guard (m % 4 < 2 ∧ b % 8 = 0)
      some (.st hi (toBool m) (← stTyOf (b / 8)) (← oscopeOf (fld w 24 21))
        (← memOf (fld w 20 18) c a (fld w 17 16)) (← lspecOf d) (BitVec.ofNat 16 imm16))
  | 0x70 => do
      guard (fld w 2 0 = 0)
      some (.atom (← aopOf (fld w 15 12)) (← atyOf (fld w 11 9)) (← ordOf m)
        (← scopeOf (fld w 8 5)) (← memOf (fld w 4 3) (fld w 24 18) a (fld w 17 16))
        (← lspecOf d) (← lspecOf b) (← lspecOf c))
  | 0x71 => do
      guard (fld w 2 0 = 0 ∧ d = 0 ∧ c = 0)
      some (.red (← aopOf (fld w 15 12)) (← atyOf (fld w 11 9)) (← ordOf m)
        (← scopeOf (fld w 8 5)) (← memOf (fld w 4 3) (fld w 24 18) a (fld w 17 16))
        (← lspecOf b))
  | 0x72 => do
      some (.waita (← wcondOf (fld w 15 13)) (← widthOf (m % 4)) hi (← scopeOf (fld w 24 21))
        (← memOf (fld w 20 18) c a (fld w 17 16)) (← lspecOf d) (← lspecOf b)
        (BitVec.ofNat 13 (fld w 12 0)))
  | 0x73 => do
      guard (c = 0 ∧ fld w 18 5 = 0 ∧ (fld w 23 23 = 1 ∨ fld w 22 20 = 0))
      let k ← if fld w 19 19 = 1 then
          (if b = 0 ∧ ub = 0 then some (ShflSrc.imm (BitVec.ofNat 5 (fld w 4 0))) else none)
        else if fld w 4 0 = 0 then
          (if ub = 0 then (lspecOf b).map ShflSrc.reg else (uspecOf b).map ShflSrc.uni)
        else none
      let f ← finOf 8 (fld w 22 20)
      some (.shfl (← shflOf (m / 2)) (← widthOf (m % 2)) (← lspecOf d) (← lspecOf a) k
        (if fld w 23 23 = 1 then some f else none))
  | 0x74 => do
      guard (m % 2 = 0 ∧ a = 0 ∧ b = 0 ∧ d < 8)
      some (.bra (← brOf (m / 2) d) (← brTarget w))
  | 0x75 => do
      guard (m % 4 = 0 ∧ b = 0)
      some (.call (← lspecOf d) (← lspecOf a) hi (← brTarget w))
  | 0x76 => do
      guard (m % 2 = 0 ∧ a = 0 ∧ w < 2 ^ 16)
      let n ← finOf 16 d
      match m / 2 with
      | 0 => do guard (w = 0); some (.jarm n (.uni (← uspecOf b)))
      | 1 => do guard (b = 0); some (.jarm n (.low (BitVec.ofNat 16 w)))
      | 2 => do guard (b = 0); some (.jarm n (.high (BitVec.ofNat 16 w)))
      | _ => do guard (b = 0 ∧ w = 0); some (.jarm n .all)
  | 0x77 => do
      guard (m = 0 ∧ d = 0 ∧ b = 0 ∧ fld w 24 16 = 0)
      some (.wcall (← uspecOf c) (← lspecOf a) (BitVec.ofNat 16 imm16))
  | _ => none

/-! ### The uniform set -/

/-- One-word uniform-set opcodes (15 R324). -/
def decU1 (op m d a b : Nat) : Option Instr :=
  let hi := toBool (m / 4)
  match op with
  | 0x00 => do some (.uadd hi (← ityOf (m % 4)) (← uspecOf d) (← uspecOf a) (← uspecOf b))
  | 0x01 => do some (.usub hi (← ityOf (m % 4)) (← uspecOf d) (← uspecOf a) (← uspecOf b))
  | 0x02 => do some (.umul hi (← ityOf (m % 4)) (← uspecOf d) (← uspecOf a) (← uspecOf b))
  | 0x03 => do some (.uand (← widthOf (m % 4)) (← uspecOf d) (← uspecOf a) (← usrcOf (m / 4) b))
  | 0x04 => do some (.uor (← widthOf (m % 4)) (← uspecOf d) (← uspecOf a) (← usrcOf (m / 4) b))
  | 0x05 => do some (.uxor (← widthOf (m % 4)) (← uspecOf d) (← uspecOf a) (← usrcOf (m / 4) b))
  | 0x06 => do some (.ushl (← widthOf (m % 4)) (← uspecOf d) (← uspecOf a) (← usrcOf (m / 4) b))
  | 0x07 => do some (.ushr (← widthOf (m % 4)) (← uspecOf d) (← uspecOf a) (← usrcOf (m / 4) b))
  | 0x08 => do some (.usar (← widthOf (m % 4)) (← uspecOf d) (← uspecOf a) (← usrcOf (m / 4) b))
  | 0x09 => do guard (a = 0); some (.umov (← widthOf (m % 4)) (← uspecOf d) (← usrcOf (m / 4) b))
  | 0x0A => do
      guard (d < 32)
      some (.ucmp (← icondOf m) (toBool (d / 16)) (toBool (d / 8)) (← finOf 8 (d % 8))
        (← uspecOf a) (← uspecOf b))
  | 0x0B => do some (.usel (← finOf 8 m) (← uspecOf d) (← uspecOf a) (← uspecOf b))
  | 0x0C => do some (.ulea hi (← finOf 4 (m % 4)) (← uspecOf d) (← uspecOf a) (← uspecOf b))
  | 0x20 => do guard (d = 0 ∧ a = 0 ∧ b = 0); some (.part (← finOf 8 m))
  | 0x21 => do guard (m = 0 ∧ d = 0 ∧ a = 0); some (.gang (← uspecOf b))
  | 0x22 => do guard (m = 0 ∧ d = 0 ∧ a = 0); some (.wsync (← uspecOf b))
  | 0x23 => do guard (m % 4 = 0 ∧ a = 0); some (.bar (← finOf 16 d) (← usrcOf (m / 4) b))
  | 0x24 => do guard (m % 4 = 0 ∧ a = 0); some (.cbar (← finOf 4 d) (← usrcOf (m / 4) b))
  | 0x30 => do guard (m = 0 ∧ b = 0); some (.tld (← finOf 32 d) (← uspecOf a))
  | 0x31 => do guard (m = 0 ∧ b = 0); some (.tst (← finOf 32 d) (← uspecOf a))
  | 0x32 => do guard (m = 0 ∧ a = 0 ∧ b = 0); some (.tzero (← finOf 32 d))
  | 0x33 => do guard (m = 0 ∧ a = 0 ∧ b = 0); some (.twait (← finOf 32 d))
  | 0x34 => do guard (m < 2 ∧ a = 0); some (.tstat (toBool m) (← uspecOf d) (← finOf 32 b))
  | 0x35 => do guard (m % 4 = 0 ∧ a = 0); some (.cpyw (← finOf 4 d) (← usrcOf (m / 4) b))
  | 0x36 => do guard (m = 0 ∧ b = 0); some (.cbrsv (← uspecOf d) (← finOf 16 a))
  | 0x37 => do guard (m = 0 ∧ b = 0 ∧ d = 0); some (.cbcmt (← finOf 16 a))
  | 0x38 => do guard (m = 0 ∧ b = 0); some (.cbacq (← uspecOf d) (← finOf 16 a))
  | 0x39 => do guard (m = 0 ∧ b = 0 ∧ d = 0); some (.cbrel (← finOf 16 a))
  | 0x3A => do guard (m = 0 ∧ d = 0); some (.sarm (← finOf 8 b) (← uspecOf a))
  | 0x3B => do guard (m = 0 ∧ d = 0 ∧ a = 0); some (.sdis (← finOf 8 b))
  | 0x40 => do guard (m % 4 = 0 ∧ b = 0); some (.launch hi (← uspecOf d) (← uspecOf a))
  | 0x41 => do guard (d = 0 ∧ a = 0 ∧ b = 0); some (.cancel (← levelOf m))
  | 0x42 => do guard (m = 0 ∧ a = 0); some (.rdctl (← uspecOf d) (← ctlOf b))
  | 0x43 => do guard (m = 0 ∧ d = 0); some (.wrctl (← ctlOf b) (← uspecOf a))
  | 0x44 => do
      guard (m % 4 = 0 ∧ d = 0 ∧ b = 0)
      if m / 4 = 0 then (if a = 0 then some (.hret none) else none)
      else some (.hret (some (← uspecOf a)))
  | 0x45 => do
      guard (m % 4 = 0 ∧ d = 0 ∧ b = 0)
      if m / 4 = 0 then (if a = 0 then some (.gret none) else none)
      else some (.gret (some (← uspecOf a)))
  | 0x46 => do guard (m = 0 ∧ d = 0 ∧ a = 0 ∧ b = 0); some .ckpt
  | 0x47 => do guard (m = 0 ∧ a = 0); some (.reggrow (← finOf 8 d) (← finOf 16 b))
  | 0x48 => do guard (m = 0 ∧ a = 0 ∧ d = 0); some (.regshr (← finOf 16 b))
  | _ => none

/-- Assigned one-word uniform-set opcodes (15 R324). -/
def asgU1 (op : Nat) : Bool :=
  decide (op ≤ 0x0C) || (decide (0x20 ≤ op) && decide (op ≤ 0x24)) ||
  (decide (0x30 ≤ op) && decide (op ≤ 0x3B)) || (decide (0x40 ≤ op) && decide (op ≤ 0x48))

/-- Two-word uniform-set opcodes 0x60 to 0x62. -/
def decU2 (op m d a b w : Nat) : Option Instr :=
  match op with
  | 0x60 => do
      guard (w % 2 ^ 25 = 0)
      some (.umad (toBool (m / 4)) (← ityOf (m % 4)) (← uspecOf d) (← uspecOf a) (← uspecOf b)
        (← uspecOf (w / 2 ^ 25)))
  | 0x61 => do
      guard (m % 2 = 0 ∧ a = 0 ∧ b = 0 ∧ fld w 31 18 = 0)
      some (.umovi (← widthOf (m / 2 % 2)) (toBool (m / 4)) (← uspecOf d)
        (← finOf 4 (fld w 17 16)) (BitVec.ofNat 16 (w % 2 ^ 16)))
  | 0x62 => do
      guard (m % 2 = 0 ∧ a = 0 ∧ b = 0 ∧ d < 8)
      some (.ubra (← brOf (m / 2) d) (← brTarget w))
  | _ => none

/-- Word 2 of CPY (07 R170, 16 R347). -/
def cpyCtlOf (w : Nat) : Option CpyCtl := do
  guard (fld w 21 21 = 0 ∧ fld w 4 0 = 0)
  some ⟨← scopeOf (fld w 31 28), ← scopeOf (fld w 27 24), toBool (fld w 23 23),
    toBool (fld w 22 22), ← finOf 4 (fld w 20 19), ← finOf 16 (fld w 18 15),
    ← finOf 8 (fld w 14 12), ← finOf 8 (fld w 11 9), ← finOf 4 (fld w 8 7),
    ← finOf 4 (fld w 6 5)⟩

/-- Three-word uniform-set opcodes 0x78 to 0x7B; SUCC is read whole whatever its fields hold,
since its native fate does not depend on them (15 R326). -/
def decU3 (op m d a b w2 w3 : Nat) : Option Instr :=
  match op with
  | 0x78 => do
      guard (m = 0 ∧ w2 < 128 ∧ w3 = 0)
      some (.mma (← finOf 32 d) (← uspecOf a) (← uspecOf b) (← lspecOf w2))
  | 0x79 => do
      guard (m = 0 ∧ w2 < 128 ∧ w3 = 0)
      some (.mmat (← finOf 32 d) (← uspecOf a) (← uspecOf b) (← lspecOf w2))
  | 0x7A => do
      guard (m = 0)
      let c ← cpyCtlOf w2
      let dd ← if c.dkind.val = 2 then some USpec.zero else uspecOf d
      let len ← if b = 112 then some (CpyLen.imm (BitVec.ofNat 32 w3))
        else (if w3 = 0 then (uspecOf b).map CpyLen.uni else none)
      some (.cpy dd (← uspecOf a) len c)
  | 0x7B =>
      let low := (m * 2 ^ 21 + d * 2 ^ 14 + a * 2 ^ 7 + b) % 2 ^ 24
      do some (.succ (← finOf 4 (low / 2 ^ 22)) (← finOf 8 (low / 2 ^ 19 % 8))
           (BitVec.ofNat 19 (low % 2 ^ 19)) (BitVec.ofNat 32 w2) (BitVec.ofNat 32 w3))
  | _ => none

/-! ### Hints (14 R306, 15 R325, 18 R393) -/

def decHint (set op w : Nat) (rest : List Word) : Option Instr := do
  let len := fld w 23 22
  let hd := fld w 21 21
  if set = 0 ∧ op = 0x7D ∧ len = 1 ∧ hd = 0 then
    some (.pref (← finOf 128 (fld w 20 14)) (← finOf 128 (fld w 13 7)) (← finOf 4 (fld w 6 5))
      (toBool (fld w 4 4)) (← finOf 16 (fld w 3 0)) (rest.getD 0 0))
  else
    some (.hint (toBool set) (← finOf 3 (op - 0x7D)) (toBool hd) (← finOf 128 (fld w 20 14))
      (BitVec.ofNat 14 (fld w 13 0)) ((List.range len).map fun k => rest.getD k 0))

/-! ### Length and fate of a first word -/

/-- Words of an instruction by its first word (14 R299, R306). A U-set 0x7C is the trailer. -/
def lengthOf (w : Word) : Nat :=
  let set := fld w.toNat 31 31
  let op := fld w.toNat 30 24
  if op < 0x60 then 1
  else if op < 0x78 then 2
  else if op < 0x7C then 3
  else if op = 0x7C then (if set = 0 then 1 else 4)
  else 1 + fld w.toNat 23 22

/-- Assigned major opcodes outside the hint space (15 R322, R324). -/
def assigned (set op : Nat) : Bool :=
  if set = 0 then asgL1 op || (decide (0x60 ≤ op) && decide (op ≤ 0x77))
  else asgU1 op || (decide (0x60 ≤ op) && decide (op ≤ 0x62)) ||
    (decide (0x78 ≤ op) && decide (op ≤ 0x7B))

/-- The fields of one instruction by its set and opcode; none where a field is undefined. -/
def decFields (set op : Nat) (ws : List Word) : Option Instr :=
  let w1 := (ws.getD 0 0).toNat
  let w2 := (ws.getD 1 0).toNat
  let w3 := (ws.getD 2 0).toNat
  let m := fld w1 23 21
  let d := fld w1 20 14
  let a := fld w1 13 7
  let b := fld w1 6 0
  if op < 0x60 then (if set = 0 then decL1 op m d a b else decU1 op m d a b)
  else if op < 0x78 then (if set = 0 then decL2 op m d a b w2 else decU2 op m d a b w2)
  else decU3 op m d a b w2 w3

/-- The native decoder (15 R320 without slots): words of one instruction, the first given.
It refuses by name: ILLEGAL_OPCODE for an unassigned opcode, ILLEGAL_ENCODING for an undefined
value, a reserved field or a specifier that breaks 14 R302 to R304. -/
def decode (ws : List Word) : Except DecodeErr Instr :=
  let w1 := (ws.getD 0 0).toNat
  let set := fld w1 31 31
  let op := fld w1 30 24
  if 0x7D ≤ op then
    match decHint set op w1 (ws.drop 1) with
    | some i => .ok i
    | none => .error .illegalEncoding
  else if !assigned set op then .error .illegalOpcode
  else
    match decFields set op ws with
    | some i => if i.wf then .ok i else .error .illegalEncoding
    | none => .error .illegalEncoding

/-! ### The encoder -/

/-- The common first word (14 R300). -/
def enc1 (set op m d a b : Nat) : Word :=
  BitVec.ofNat 32 (set * 2 ^ 31 + op * 2 ^ 24 + m * 2 ^ 21 + d * 2 ^ 14 + a * 2 ^ 7 + b)

/-- The second word with c, UB and 24 low bits. -/
def enc2 (c ub low : Nat) : Word := BitVec.ofNat 32 (c * 2 ^ 25 + ub * 2 ^ 24 + low)

def encCpyCtl (c : CpyCtl) : Word :=
  BitVec.ofNat 32 (c.rscope.code * 2 ^ 28 + c.ascope.code * 2 ^ 24 + ofBool c.rel * 2 ^ 23 +
    ofBool c.acq * 2 ^ 22 + c.wctr.val * 2 ^ 19 + c.cb.val * 2 ^ 15 + c.dspace.val * 2 ^ 12 +
    c.sspace.val * 2 ^ 9 + c.dkind.val * 2 ^ 7 + c.skind.val * 2 ^ 5)

/-- Class I: SAT and type. -/
def modI (sat : Bool) (ty : ITy) : Nat := ofBool sat * 4 + ty.code
/-- Class B: I and width. -/
def modB (i : Nat) (w : Width) : Nat := i * 4 + w.code
/-- d of ICMP and UCMP (17 R369). -/
def cmpD (w64 uns : Bool) (n : Fin 8) : Nat := ofBool w64 * 16 + ofBool uns * 8 + n.val

/-- Second word of LD, ST and the base part of WAITA (17 R376). -/
def encMem (m : MemOp) (sc low : Nat) : Word :=
  BitVec.ofNat 32 (m.base.code * 2 ^ 25 + sc * 2 ^ 21 + m.space.code * 2 ^ 18 +
    m.scale.val * 2 ^ 16 + low)

/-- Second word of ATOM and RED (16 R331). -/
def encAtom (c : Nat) (m : MemOp) (op : AOp) (ty : ATy) (sc : Scope) : Word :=
  BitVec.ofNat 32 (c * 2 ^ 25 + m.base.code * 2 ^ 18 + m.scale.val * 2 ^ 16 + op.code * 2 ^ 12 +
    ty.code * 2 ^ 9 + sc.code * 2 ^ 5 + m.space.code * 2 ^ 3)

def BfSel.encLow : BfSel → Nat
  | .reg _ => 2 ^ 23
  | .imm p l => l.toNat * 2 ^ 8 + p.toNat
def BfSel.encC : BfSel → Nat
  | .reg c => c.code
  | .imm _ _ => 0

def WSrc.encB : WSrc → Nat | .reg r => r.code | .uni u => u.code | .imm _ => 0 | .imm7 i => i.toNat
def WSrc.encI : WSrc → Nat | .imm7 _ => 1 | _ => 0
def WSrc.encUb : WSrc → Nat | .uni _ => 1 | _ => 0
def WSrc.encLow : WSrc → Nat | .imm i => 2 ^ 19 + i.toNat | _ => 0

def IntOp.code : IntOp → Nat
  | .add => 0 | .sub => 1 | .mul => 2 | .mulhi => 3 | .min => 4 | .max => 5
def LogicOp.code : LogicOp → Nat | .and => 0x0A | .or => 0x0B | .xor => 0x0C
def ShiftOp.code : ShiftOp → Nat | .shl => 0x0D | .shr => 0x0E | .sar => 0x0F
def BitOp.code : BitOp → Nat | .popc => 0x10 | .clz => 0x11 | .brev => 0x12
def FltOp.code : FltOp → Nat | .add => 0x20 | .sub => 0x21 | .mul => 0x22

/-- The wide form's words (15 R323): OP, mod, d, a, the source b and TYPE. -/
def encWide (op m d a : Nat) (b : WSrc) (ty : Nat) : List Word :=
  [enc1 0 0x60 m d a b.encB, enc2 op b.encUb (ty * 2 ^ 20 + b.encLow)]
def encWideLU (op m d a : Nat) (b : LUSrc) : List Word :=
  [enc1 0 0x60 m d a b.code, enc2 op b.ubBit 0]

def WideOp.encode : WideOp → List Word
  | .int op sat ty d a b => encWide op.code (modI sat ty) d.code a.code b ty.wideCode
  | .iabs sat ty d b => encWide 0x06 (modI sat ty) d.code 0 b ty.wideCode
  | .lea zx sh d a b => encWide 0x07 (ofBool zx * 4 + sh.val) d.code a.code b 0
  | .icmp c w64 uns n a b => encWide 0x08 c.code (cmpD w64 uns n) a.code b 0
  | .sel n d a b => encWide 0x09 n.val d.code a.code b 0
  | .logic op w d a b => encWide op.code (modB b.encI w) d.code a.code b 0
  | .shift op w d a b => encWide op.code (modB b.encI w) d.code a.code b 0
  | .bits op w d a ub => [enc1 0 0x60 w.code d.code a.code 0, enc2 op.code (ofBool ub) 0]
  | .mov w d b => encWide 0x13 (modB b.encI w) d.code 0 b 0
  | .flt op r d a b => encWideLU op.code r.code d.code a.code b
  | .fmin d a b => encWideLU 0x23 0 d.code a.code b
  | .fmax d a b => encWideLU 0x24 0 d.code a.code b
  | .fcmp c n a b => encWideLU 0x25 c.code n.val a.code b
  | .frnd r d b => encWideLU 0x26 r.code d.code 0 b
  | .dadd r d a b => encWideLU 0x27 r.code d.code a.code b
  | .dmul r d a b => encWideLU 0x28 r.code d.code a.code b
  | .dcmp c n a b => encWideLU 0x29 c.code n.val a.code b
  | .pkadd bf r d a b => encWideLU 0x2A (ofBool bf * 4 + r.code) d.code a.code b
  | .pkmul bf r d a b => encWideLU 0x2B (ofBool bf * 4 + r.code) d.code a.code b
  | .pkmin bf d a b => encWideLU 0x2C (ofBool bf * 4) d.code a.code b
  | .pkmax bf d a b => encWideLU 0x2D (ofBool bf * 4) d.code a.code b
  | .mfn f d b => encWideLU 0x2E f.code d.code 0 b
  | .sxpk f d a => [enc1 0 0x60 f.code d.code a.code 0, enc2 0x2F 0 0]
  | .sxupk f d a => [enc1 0 0x60 f.code d.code a.code 0, enc2 0x30 0 0]

/-- A two-word instruction with c, UB and low bits in its second word. -/
def encLU (op m d a : Nat) (b : LUSrc) (c low : Nat) : List Word :=
  [enc1 0 op m d a b.code, enc2 c b.ubBit low]

def ShflSrc.encB : ShflSrc → Nat | .reg r => r.code | .uni u => u.code | .imm _ => 0
def ShflSrc.encLow : ShflSrc → Nat | .imm i => 2 ^ 19 + i.toNat | _ => 0
def ShflSrc.encUb : ShflSrc → Nat | .uni _ => 1 | _ => 0
def optFlag : Option (Fin 8) → Nat | none => 0 | some n => 2 ^ 23 + n.val * 2 ^ 20

/-- The words of a warp instruction, by the encoding tables of 14 to 18; a step of a device agent
has none. -/
def encode : Instr → List Word
  | .and w d a b => [enc1 0 0x0A (modB b.iBit w) d.code a.code b.code]
  | .or w d a b => [enc1 0 0x0B (modB b.iBit w) d.code a.code b.code]
  | .xor w d a b => [enc1 0 0x0C (modB b.iBit w) d.code a.code b.code]
  | .atom op ty o sc m d b c =>
      [enc1 0 0x70 o.code d.code m.off.code b.code, encAtom c.code m op ty sc]
  | .red op ty o sc m b => [enc1 0 0x71 o.code 0 m.off.code b.code, encAtom 0 m op ty sc]
  | .bar n c => [enc1 1 0x23 (c.iBit * 4) n.val 0 c.code]
  | .cbar n c => [enc1 1 0x24 (c.iBit * 4) n.val 0 c.code]
  | .bfx w s d a f =>
      [enc1 0 0x65 w.code d.code a.code 0, enc2 f.encC 0 (f.encLow + ofBool s * 2 ^ 22)]
  | .bfi w d a b f => encLU 0x66 w.code d.code a.code b f.encC f.encLow
  | .bkpt => [enc1 0 0x5A 0 0 0 0]
  | .bra c i => [enc1 0 0x74 (c.cond * 2) c.num 0 0, BitVec.ofNat 32 i.toNat]
  | .brev w d a => [enc1 0 0x12 w.code d.code a.code 0]
  | .clz w d a => [enc1 0 0x11 w.code d.code a.code 0]
  | .popc w d a => [enc1 0 0x10 w.code d.code a.code 0]
  | .brx r a => [enc1 0 0x53 (ofBool r * 4) 0 a.code 0]
  | .call d a ind i => [enc1 0 0x75 (ofBool ind * 4) d.code a.code 0, BitVec.ofNat 32 i.toNat]
  | .cancel l => [enc1 1 0x41 l.code 0 0 0]
  | .cbrsv d n => [enc1 1 0x36 0 d.code n.val 0]
  | .cbcmt n => [enc1 1 0x37 0 0 n.val 0]
  | .cbacq d n => [enc1 1 0x38 0 d.code n.val 0]
  | .cbrel n => [enc1 1 0x39 0 0 n.val 0]
  | .ckpt => [enc1 1 0x46 0 0 0 0]
  | .cpy d a len c =>
      match len with
      | .uni b => [enc1 1 0x7A 0 d.code a.code b.code, encCpyCtl c, 0]
      | .imm n => [enc1 1 0x7A 0 d.code a.code 112, encCpyCtl c, n]
  | .cpyw n b => [enc1 1 0x35 (b.iBit * 4) n.val 0 b.code]
  | .cvt sat r dt ty d b =>
      encLU 0x6D (ofBool sat * 4 + r.code) d.code 0 b 0 (dt.code * 2 ^ 20 + ty.code * 2 ^ 16)
  | .dadd r d a b => [enc1 0 0x27 r.code d.code a.code b.code]
  | .dmul r d a b => [enc1 0 0x28 r.code d.code a.code b.code]
  | .dfma r d a b c => encLU 0x6B r.code d.code a.code b c.code 0
  | .dcmp c n a b => [enc1 0 0x29 c.code n.val a.code b.code]
  | .exit => [enc1 0 0x57 0 0 0 0]
  | .fadd r d a b => [enc1 0 0x20 r.code d.code a.code b.code]
  | .fsub r d a b => [enc1 0 0x21 r.code d.code a.code b.code]
  | .fmul r d a b => [enc1 0 0x22 r.code d.code a.code b.code]
  | .fcmp c n a b => [enc1 0 0x25 c.code n.val a.code b.code]
  | .fence o sc => [enc1 0 0x51 o.code sc.code 0 0]
  | .ffma r d a b c => encLU 0x69 r.code d.code a.code b c.code 0
  | .fmax d a b => [enc1 0 0x24 0 d.code a.code b.code]
  | .fmin d a b => [enc1 0 0x23 0 d.code a.code b.code]
  | .frnd r d b => [enc1 0 0x26 r.code d.code 0 b.code]
  | .fshf rt cl d a b sh =>
      encLU 0x64 (ofBool rt * 4 + ofBool cl * 2) d.code a.code b
        (match sh with | .reg c => c.code | .imm _ => 0)
        (match sh with | .reg _ => 0 | .imm n => 2 ^ 23 + n.toNat)
  | .gang b => [enc1 1 0x21 0 0 0 b.code]
  | .gret t =>
      match t with
      | none => [enc1 1 0x45 0 0 0 0]
      | some u => [enc1 1 0x45 4 0 u.code 0]
  | .hret t =>
      match t with
      | none => [enc1 1 0x44 0 0 0 0]
      | some u => [enc1 1 0x44 4 0 u.code 0]
  | .iabs sat ty d b => [enc1 0 0x06 (modI sat ty) d.code 0 b.code]
  | .iadd sat ty d a b => [enc1 0 0x00 (modI sat ty) d.code a.code b.code]
  | .isub sat ty d a b => [enc1 0 0x01 (modI sat ty) d.code a.code b.code]
  | .imul sat ty d a b => [enc1 0 0x02 (modI sat ty) d.code a.code b.code]
  | .imulhi ty d a b => [enc1 0 0x03 ty.code d.code a.code b.code]
  | .imin ty d a b => [enc1 0 0x04 ty.code d.code a.code b.code]
  | .imax ty d a b => [enc1 0 0x05 ty.code d.code a.code b.code]
  | .icmp c w64 uns n a b => [enc1 0 0x08 c.code (cmpD w64 uns n) a.code b.code]
  | .idp4 sat za zb d a b c =>
      encLU 0x62 (ofBool sat * 4 + ofBool za * 2 + ofBool zb) d.code a.code b c.code 0
  | .imad sat ty d a b c => encLU 0x61 (modI sat ty) d.code a.code b c.code 0
  | .jarm n m =>
      match m with
      | .uni b => [enc1 0 0x76 0 n.val 0 b.code, 0]
      | .low i => [enc1 0 0x76 2 n.val 0 0, BitVec.ofNat 32 i.toNat]
      | .high i => [enc1 0 0x76 4 n.val 0 0, BitVec.ofNat 32 i.toNat]
      | .all => [enc1 0 0x76 6 n.val 0 0, 0]
  | .jdrop n => [enc1 0 0x56 0 0 0 n.val]
  | .jwait n => [enc1 0 0x55 0 0 0 n.val]
  | .launch t d a => [enc1 1 0x40 (ofBool t * 4) d.code a.code 0]
  | .ld str acq ty sc m d i =>
      [enc1 0 0x6E (ofBool str * 4 + ofBool acq) d.code m.off.code (ty.code * 8),
       encMem m (oscopeCode sc) i.toNat]
  | .lea zx sh d a b => [enc1 0 0x07 (ofBool zx * 4 + sh.val) d.code a.code b.code]
  | .lnx o d a b c base sc idx i =>
      [enc1 0 0x6A o.code d.code a.code b.code,
       BitVec.ofNat 32 (c.code * 2 ^ 25 + base.code * 2 ^ 18 + sc.val * 2 ^ 16 +
         idx.val * 2 ^ 10 + i.toNat)]
  | .logic3 w d a b c lut => encLU 0x63 w.code d.code a.code b c.code (lut.toNat * 2 ^ 16)
  | .matchLanes w all d a => [enc1 0 0x43 (w.code * 4 + ofBool all) d.code a.code 0]
  | .mfn f d b => [enc1 0 0x2E f.code d.code 0 b.code]
  | .mma t a b f => [enc1 1 0x78 0 t.val a.code b.code, BitVec.ofNat 32 f.code, 0]
  | .mmat t a b f => [enc1 1 0x79 0 t.val a.code b.code, BitVec.ofNat 32 f.code, 0]
  | .mov w d b => [enc1 0 0x13 (modB b.iBit w) d.code 0 b.code]
  | .movi w k d hw i =>
      [enc1 0 0x68 (ofBool k * 4 + w.code * 2) d.code 0 0,
       BitVec.ofNat 32 (hw.val * 2 ^ 16 + i.toNat)]
  | .nop => [enc1 0 0x59 0 0 0 0]
  | .part c => [enc1 1 0x20 c.val 0 0 0]
  | .pkadd bf r d a b => [enc1 0 0x2A (ofBool bf * 4 + r.code) d.code a.code b.code]
  | .pkmul bf r d a b => [enc1 0 0x2B (ofBool bf * 4 + r.code) d.code a.code b.code]
  | .pkmin bf d a b => [enc1 0 0x2C (ofBool bf * 4) d.code a.code b.code]
  | .pkmax bf d a b => [enc1 0 0x2D (ofBool bf * 4) d.code a.code b.code]
  | .pkfma bf r d a b c => encLU 0x6C (ofBool bf * 4 + r.code) d.code a.code b c.code 0
  | .pref a base sc home low i =>
      [BitVec.ofNat 32 (0x7D * 2 ^ 24 + 1 * 2 ^ 22 + a.val * 2 ^ 14 + base.val * 2 ^ 7 +
         sc.val * 2 ^ 5 + ofBool home * 2 ^ 4 + low.val), i]
  | .hint u op hd d p more =>
      BitVec.ofNat 32 (ofBool u * 2 ^ 31 + (0x7D + op.val) * 2 ^ 24 + more.length * 2 ^ 22 +
        ofBool hd * 2 ^ 21 + d.val * 2 ^ 14 + p.toNat) :: more
  | .psel d a b s =>
      encLU 0x67 0 d.code a.code b
        (match s with | .reg c => c.code | .imm _ => 0)
        (match s with | .reg _ => 2 ^ 23 | .imm i => i.toNat)
  | .racq b => [enc1 0 0x52 0 0 0 b.code]
  | .rdctl d r => [enc1 1 0x42 0 d.code 0 r.code]
  | .wrctl r a => [enc1 1 0x43 0 0 a.code r.code]
  | .rds d sp => [enc1 0 0x14 0 d.code 0 sp.code]
  | .redx op ty sat d a =>
      [enc1 0 0x41 (ofBool sat * 4) d.code a.code (op.code * 16 + ty.code * 2)]
  | .scan op ty sat exc d a =>
      [enc1 0 0x42 (ofBool sat * 4) d.code a.code (op.code * 16 + ty.code * 2 + ofBool exc)]
  | .reggrow n v => [enc1 1 0x47 0 n.val 0 v.val]
  | .regshr v => [enc1 1 0x48 0 0 0 v.val]
  | .ret a => [enc1 0 0x54 0 0 a.code 0]
  | .sarm n a => [enc1 1 0x3A 0 0 a.code n.val]
  | .sdis n => [enc1 1 0x3B 0 0 0 n.val]
  | .sel n d a b => [enc1 0 0x09 n.val d.code a.code b.code]
  | .shfl mode w d a k f =>
      [enc1 0 0x73 (mode.code * 2 + w.code) d.code a.code k.encB,
       enc2 0 k.encUb (optFlag f + k.encLow)]
  | .shl w d a b => [enc1 0 0x0D (modB b.iBit w) d.code a.code b.code]
  | .shr w d a b => [enc1 0 0x0E (modB b.iBit w) d.code a.code b.code]
  | .sar w d a b => [enc1 0 0x0F (modB b.iBit w) d.code a.code b.code]
  | .sld d n f =>
      match f with
      | none => [enc1 0 0x50 0 d.code 0 n.val]
      | some p => [enc1 0 0x50 p.val d.code 64 n.val]
  | .st str rel ty sc m d i =>
      [enc1 0 0x6F (ofBool str * 4 + ofBool rel) d.code m.off.code (ty.code * 8),
       encMem m (oscopeCode sc) i.toNat]
  | .succ kind flag low s0 s1 =>
      [BitVec.ofNat 32 (2 ^ 31 + 0x7B * 2 ^ 24 + kind.val * 2 ^ 22 + flag.val * 2 ^ 19 +
         low.toNat), s0, s1]
  | .sxpk f d a => [enc1 0 0x2F f.code d.code a.code 0]
  | .sxupk f d a => [enc1 0 0x30 f.code d.code a.code 0]
  | .tld t a => [enc1 1 0x30 0 t.val a.code 0]
  | .tst t a => [enc1 1 0x31 0 t.val a.code 0]
  | .tzero t => [enc1 1 0x32 0 t.val 0 0]
  | .twait t => [enc1 1 0x33 0 t.val 0 0]
  | .tstat c d t => [enc1 1 0x34 (ofBool c) d.code 0 t.val]
  | .uadd sat ty d a b => [enc1 1 0x00 (modI sat ty) d.code a.code b.code]
  | .usub sat ty d a b => [enc1 1 0x01 (modI sat ty) d.code a.code b.code]
  | .umul sat ty d a b => [enc1 1 0x02 (modI sat ty) d.code a.code b.code]
  | .umad sat ty d a b c =>
      [enc1 1 0x60 (modI sat ty) d.code a.code b.code, enc2 c.code 0 0]
  | .uand w d a b => [enc1 1 0x03 (modB b.iBit w) d.code a.code b.code]
  | .uor w d a b => [enc1 1 0x04 (modB b.iBit w) d.code a.code b.code]
  | .uxor w d a b => [enc1 1 0x05 (modB b.iBit w) d.code a.code b.code]
  | .ushl w d a b => [enc1 1 0x06 (modB b.iBit w) d.code a.code b.code]
  | .ushr w d a b => [enc1 1 0x07 (modB b.iBit w) d.code a.code b.code]
  | .usar w d a b => [enc1 1 0x08 (modB b.iBit w) d.code a.code b.code]
  | .umov w d b => [enc1 1 0x09 (modB b.iBit w) d.code 0 b.code]
  | .umovi w k d hw i =>
      [enc1 1 0x61 (ofBool k * 4 + w.code * 2) d.code 0 0,
       BitVec.ofNat 32 (hw.val * 2 ^ 16 + i.toNat)]
  | .ucmp c w64 uns n a b => [enc1 1 0x0A c.code (cmpD w64 uns n) a.code b.code]
  | .usel n d a b => [enc1 1 0x0B n.val d.code a.code b.code]
  | .ulea zx sh d a b => [enc1 1 0x0C (ofBool zx * 4 + sh.val) d.code a.code b.code]
  | .ubra c i => [enc1 1 0x62 (c.cond * 2) c.num 0 0, BitVec.ofNat 32 i.toNat]
  | .vote mode neg d fd a =>
      [enc1 0 0x40 (ofBool neg * 4 + mode.code)
        (match mode with | .ballot => d.code | _ => fd.val) a.val 0]
  | .waita c w acq sc m d b i =>
      [enc1 0 0x72 (ofBool acq * 4 + w.code) d.code m.off.code b.code,
       encMem m sc.code (c.code * 2 ^ 13 + i.toNat)]
  | .wcall base q svc =>
      [enc1 0 0x77 0 0 q.code 0, BitVec.ofNat 32 (base.code * 2 ^ 25 + svc.toNat)]
  | .wsync b => [enc1 1 0x22 0 0 0 b.code]
  | .yield => [enc1 0 0x58 0 0 0 0]
  | .wideForm op => op.encode
  | _ => []

/-! ### What the host asks -/

/-- The words of a table word: nbits bits of w, word k in bits [32k+31:32k], padded with zero
words to the longest instruction. -/
def tableWords (nbits w : Nat) : List Word :=
  (List.range 4).map fun k =>
    if 32 * k < nbits then BitVec.ofNat 32 (w / 2 ^ (32 * k)) else 0

/-- The instruction the decoder reads from an instruction whose bits are w. -/
def decodeTableWord (nbits w : Nat) : Option Instr :=
  match decode (tableWords nbits w) with
  | .ok i => some i
  | .error _ => none

end Sys2Proof
end

