-- ==== Sys2Proof/Config.lean ====
section
/-!
DEFINITION. What an implementation of the Z960 fixes (00 R1, 11 R265, 13) and the free values:
opaque constants with no body, applied to a counter or to the operands they depend on.
-/

set_option Elab.async false

namespace Sys2Proof.Config

/-- The free values the spec leaves open: the model applies it to State.fresh, a counter
that every use advances (log entry 2). -/
opaque freeNat : Nat → Nat

/-- The fabric partition number of a peer, held by the peer itself (12 R275). -/
opaque peerPart : Nat → BitVec 16

/-- A fabric port leads to a peer (12 R279, R280): how the ports are wired. -/
opaque reaches : Nat → Nat → Bool

/-- Fabric ports (12 R273). -/
def ports : Nat := 24
/-- Enabled logical cores (00 R1). -/
def cores : Nat := 256
/-- Queues (00 R1; 03 R61). -/
def queues : Nat := 16384
/-- Jobs (00 R1; 03 R63). -/
def jobs : Nat := 4096
/-- Logical cores of one canopy die (00 R1). -/
def coresPerDie : Nat := 64
/-- Canopy dies (00 R1). -/
def dies : Nat := 4
/-- Spare cores of one die (00, the package). -/
def sparesPerDie : Nat := 4
/-- ISA generation of the device (02 R40). -/
def generation : Nat := 3
/-- The Z960's one stepping (14 R310). -/
def stepping : Nat := 1
/-- Bytes of core scratch of one core (07 R150). -/
def scratchBytes : Nat := 524288
/-- Warp-registers of one partition (02 R48). -/
def warpRegsPerPart : Nat := 1024
/-- Warp slots of one partition (02 R38). -/
def warpsPerPart : Nat := 16
/-- Blocks resident on one core (02 R48). -/
def blocksPerCore : Nat := 16
/-- Tiles of one core's tile store (06 R120). -/
def tilesPerCore : Nat := 32
/-- Graph slots of the device (03 R66). -/
def graphSlots : Nat := 65536
/-- Copy engines of one die (07 R173). -/
def enginesPerDie : Nat := 16
/-- First byte above device memory (00 R2). -/
def deviceTop : Nat := 2 ^ 39
/-- Bytes of chip scratch (07 R152). -/
def chipScratchBytes : Nat := 2 ^ 27
/-- Image version of the shipped vendor image (11 R257). -/
def shippedImgVer : Nat := 1

end Sys2Proof.Config
end

