-- ==== Sys2Proof/Machine/State.lean ====
section
/-!
DEFINITION. The state of the Z960 as plain data, and the state after reset. INVENTORY.md lists
every piece with the rule that names it. A `Tbl` holds records by number, keys strictly rising;
an unlisted number reads as the record's initial value. A lane number is a physical lane, 0 to
31; a warp is named by `wid`, 32 times its block's number plus its number in the block.
-/

set_option Elab.async false

namespace Sys2Proof.Machine

/-- Records by number, keys strictly rising. -/
abbrev Tbl (β : Type) := List (Nat × β)

/-- Lane states of 04 R82; active and masked-off live are both `live`. -/
inductive LaneSt where | live | exited | never
deriving DecidableEq, Repr

/-- One lane of a warp. `run` is the start of the run the lane stands inside, none at a run
boundary; `nxt` is the run start after that run. -/
structure Lane where
  st : LaneSt
  pc : DWord
  run : Option DWord
  nxt : DWord
  pass : Nat
  fpf : BitVec 5
  f : BitVec 8
  /-- BKPT address at which the lane was resumed (16 R339). -/
  bkpt : Option DWord
  /-- Stream element of an SLD that faulted in this lane (07 R166). -/
  elem : Option Nat
  /-- RETRY count at the instruction it stands at (11 R251). -/
  retry : Nat
  /-- First two words of the barrier or JWAIT at which it waits (10 R223). -/
  words : Word × Word
  /-- Slot generation and SCORE under which its present run began (01 R13, R28; 11 R256). -/
  gen : Nat
  score : Bool
deriving DecidableEq, Repr

/-- What a fault says (10 R219): code, CAUSE, ADDR, AUX0, AUX1, and RFLAGS.ENGINE. -/
structure FaultInfo where
  code : BitVec 8
  cause : BitVec 8 := 0
  addr : DWord := 0
  aux0 : DWord := 0
  aux1 : DWord := 0
  engine : Bool := false
deriving DecidableEq, Repr

/-- The fault record (10 R223); `seq` and HOST are filled at delivery. -/
structure FaultRec where
  info : FaultInfo
  seq : BitVec 24
  core : Nat
  block : Nat
  launch : Nat
  words : Word × Word
  pc : DWord
  mask : Mask
  warp : Nat
  nested : Bool
  graft : Bool
  host : Bool
deriving DecidableEq, Repr

/-- Where a parked sub-warp stands on its way (10 R226, R227, R231; 11 R251). -/
inductive ParkSt where
  | queued        -- its record is in the core queue, the spill ring or waits for either
  | handlerWait   -- drained, waits for handler mode
  | hostWait      -- drained toward the host, the record not yet delivered
  | hostPost (t : Nat) -- its record is written in the host's ring and posted once time `t` has come
  | host          -- delivered to the host, waits for RESUME
  | resumed (ends : Bool) -- named by a RESUME while its block was saved
  | graftWait (slot : Nat) (gen : Nat)
deriving DecidableEq, Repr

/-- A parked sub-warp (10 R221): lanes, instruction address and run, record, saved temporaries
(key 32 t + lane). -/
structure Parked where
  id : Nat
  mask : Mask
  pc : DWord
  run : Option DWord
  nxt : DWord
  record : FaultRec
  temps : FMap Word
  st : ParkSt
  gen : Nat
  score : Bool
  /-- Stream elements of its lanes by lane (07 R166). -/
  elems : FMap Nat
  /-- Handler entry in force at the fault's commit (10 R225). -/
  entry : DWord
deriving DecidableEq, Repr

/-- Handler mode of one sub-warp of a warp (10 R227): lanes not yet returned, the bank, and
where HRET resumes, with the generation and SCORE of that run; its number and record when it parked. -/
structure Handler where
  id : Nat
  record : FaultRec
  mask : Mask
  bank : List Word
  pc : DWord
  run : Option DWord
  nxt : DWord
  temps : FMap Word
  gen : Nat
  score : Bool
  elems : FMap Nat
deriving DecidableEq, Repr

/-- Graft mode of one group of a warp (11 R252). `regs` holds v104 to v111 by 32 (n - 104) +
lane. `after` is the address at which a plain GRET resumes. -/
structure GraftMode where
  mask : Mask
  bank : List Word
  regs : FMap Word
  words : List Word
  ctrl : Word
  isFault : Bool
  run : Option DWord
  after : DWord
  atEnd : Bool
  nxt : DWord
  temps : FMap Word
  gen : Nat
  score : Bool
deriving DecidableEq, Repr

/-- A wait counter w0 to w3 (07 R174, R175): value, completion time, first error, and the commands with
REL that it has counted, each with the value it gave and its RSCOPE (08 R197). -/
structure WaitCtr where
  val : Word
  time : Nat
  err : Option FaultInfo
  rels : List (Word × Scope)
deriving DecidableEq, Repr

/-- Why a group waits inside its run (02 R51, 04 R87). -/
inductive WaitWhy where
  | release | strong | lnx | racq | ckpt | reggrow | grovebase | waita | gang | latch | mqueue
  | twait | cpyw | cbrsv | cbacq | launch | segment | spill
deriving DecidableEq, Repr

/-- A request of an LNX with its reply (09 R214, R218). -/
structure LnxReq where
  lane : Nat
  va : DWord
  pa : Nat
  index : Nat
  args : List DWord
  reply : Option (DWord × BitVec 8)
  fault : Option FaultInfo
  /-- It has fetched its entry and waits at the head of its line's queue (09 R205). -/
  head : Bool
deriving DecidableEq, Repr

/-- A group standing at BAR or CBAR (04 R96): lanes, kind, instance, count, arrived. -/
structure BarWait where
  half : Nat
  cluster : Bool
  inst : Nat
  count : Nat
  mask : Mask
  arrived : Bool
deriving DecidableEq, Repr

/-- A WSYNC instance (04 R98): the fixed mask and the lanes that have arrived. -/
structure WSync where
  fixed : Mask
  arrived : Mask
deriving DecidableEq, Repr

/-- Matrix commands (06 R128). -/
inductive MOp where | mma | mmat | tzero | tld | tst
deriving DecidableEq, Repr

/-- What a member records in the latch (06 R128, R129). -/
structure Arrival where
  op : MOp
  tile : Nat
  da : BitVec 128
  db : BitVec 128
  fmt : Word
  ord : Nat
  /-- Its warp's group was in handler or graft mode (07 R161). -/
  priv : Bool
  /-- First store-queue number after the member's earlier writes (06 R133). -/
  capt : Nat
deriving DecidableEq, Repr

/-- A run as fetched (14 R307, R308): body words, number of instructions, trailer words. -/
structure Run where
  words : List Word
  count : Nat
  trailer : List Word
deriving DecidableEq, Repr

/-- How far a waiting instruction has come: what it waits for, a phase and a number. -/
structure WaitTag where
  why : WaitWhy
  phase : Nat
  arg : Nat
deriving DecidableEq, Repr

/-- The issue group bound to a sequencer (03 R80): warp, lanes, run start, whether it runs in the
graft region, the slot generation, the run once fetched, and the wait it comes back from. -/
structure Binding where
  wid : Nat
  mask : Mask
  start : DWord
  inGraft : Bool
  gen : Nat
  run : Option Run
  tag : Option WaitTag
deriving DecidableEq, Repr

/-- A producer that the checking scoreboard remembers for some lanes (01 R30): register key, variable
latency or not, latency, gaps since its issue, runs since, named since. -/
structure Producer where
  mask : Mask
  key : Nat
  varLat : Bool
  latency : Nat
  gap : Nat
  runsAgo : Nat
  named : Bool
deriving DecidableEq, Repr

/-- One resident (or saved) warp. Half 1 of a G16 warp has its own uniform registers (keys 128
and up), flags, wait counters (4 to 7) and WSYNC instance (04 R100). -/
structure Warp where
  num : Nat
  role : Nat
  part : Nat
  /-- Warp slot in its partition, the WARP field of its packets (01 R11; 02 R38). -/
  slot : Nat
  /-- Speculation level in force: the core's at the warp's last run start (01 R34). -/
  level : Nat
  age : Nat
  lanes : List Lane
  vregs : Nat
  sregs : Nat
  /-- v0 to v111 and t0 to t7 (as 112 to 119), key 32 n + lane. -/
  v : FMap Word
  /-- s0 to s111, key 128 half + n. -/
  u : FMap Word
  g : List (BitVec 8)
  jOut : List Mask
  jWait : List Mask
  w : List WaitCtr
  lwct : Nat
  hdrilk : Bool
  ilk : Bool
  score : Bool
  effilk : Bool
  gang : Mask
  tile : Nat
  g16 : Bool
  yielded : Bool
  lastRun : Mask
  lastYield : Bool
  bars : List BarWait
  wsync : List WSync
  parked : List Parked
  handler : Option Handler
  graft : Option GraftMode
  /-- Lanes that reached an EMULATE while graft mode was taken (11 R252). -/
  emul : Mask
  /-- Groups that wait inside their run, each with its tag (02 R51, 04 R87). -/
  waits : List Binding
  waitaDone : List (Nat × DWord)
  lnx : List LnxReq
  arrivals : List Arrival
  arrCount : Nat
  gangFault : Option FaultInfo
  /-- Poisoned register entries by poison key (Machine/Operands.lean; 01 R37). -/
  bad : List Nat
  producers : List Producer
  lastCode : Nat
deriving DecidableEq, Repr

/-- A hardware barrier instance (04 R96): idle when `need` is none; `first` is Need(0), the
participants not wholly exited at the first arrival. -/
structure Barrier where
  need : Option Nat
  arrived : Nat
  first : Nat
deriving DecidableEq, Repr

/-- States of a buffer slot (07 R168). -/
inductive SlotSt where | free | reserved | committed | filled | acquired
deriving DecidableEq, Repr

/-- A circular buffer (07 R167, R168): `sw` the slots reserved by software in order, `acq` the
acquired slots oldest first, error marks, REL scopes, and the waiters in order (a group is 32 times
its warp plus its lowest lane, an engine 2^40 plus its number). -/
structure CBuf where
  base : Nat
  nslot : Nat
  slotb : Nat
  slots : List SlotSt
  pr : Nat
  pf : Nat
  ca : Nat
  sw : List Nat
  acq : List Nat
  marks : List (Nat × FaultInfo)
  rels : List (Nat × Scope)
  resWait : List Nat
  acqWait : List Nat
deriving DecidableEq, Repr

/-- A stream slot (07 R165): the record's 512 bits and the position. -/
structure Stream where
  rcd : BitVec 512
  pos : Nat
deriving DecidableEq, Repr

/-- The writes of a TST: the command, the warps that arrived for it, the largest GWCT (06 R142). -/
structure TstDone where
  id : Nat
  warps : List Nat
  gwct : Nat
deriving DecidableEq, Repr

/-- A tile (06 R120, R122, R145): elements by 64 i + j, hidden sums by 0 to 63 rows and 64 to 127
columns (units of 2^-149, and modulo 2^32), status fields, pending faults by wid, and the writes of
its TSTs. -/
structure Tile where
  elems : FMap Word
  sums : FMap (Int × Word)
  corr : Nat
  nv : Bool
  ovf : Bool
  unf : Bool
  pcause : Nat
  pinfo : Option FaultInfo
  pending : List (Nat × FaultInfo)
  tsts : List TstDone
deriving DecidableEq, Repr

/-- An operand's lines kept in their home slices (06 R134): block, the gang or warp, BASE, lines. -/
structure Pin where
  blk : Nat
  owner : Nat
  base : Nat
  lines : List Nat
deriving DecidableEq, Repr

/-- One block, resident or saved (02 R48, R50). -/
structure Block where
  launch : Nat
  cluster : Nat
  rank : Nat
  core : Nat
  /-- Block slot on its core, 0 to 15 (07 R170). -/
  slot : Nat
  /-- Every warp has exited or been stopped; copy or matrix commands may still run (17 R356). -/
  done : Bool
  p0 : Nat
  kbase : Nat
  qbase : Nat
  bars : List Barrier
  cbufs : List CBuf
  streams : List (Option Stream)
  tiles : List Tile
  nwarps : Nat
  stopping : Bool
  /-- The core it was saved on; none while it is resident (10 R237). -/
  savedOn : Option Nat
  /-- A saved block whose core is not yet vacated. -/
  held : Bool
  saveOrder : Nat
  /-- Time at which the writes of its image are acknowledged (10 R237). -/
  imageAt : Nat
  /-- Resumed, but not yet running (07 R177; 08 R199). -/
  resumeWait : Bool
deriving DecidableEq, Repr

/-- The hardware state of one cluster: its CBAR instances. -/
structure Cluster where
  launch : Nat
  idx : Nat
  cbar : List Barrier
  placedSeq : Nat
deriving DecidableEq, Repr

/-- Outcome stages of a launch (02 R55). -/
inductive LStage where
  | waiting    -- not yet eligible or not yet all placed
  | running    -- all clusters placed
  | ending     -- counter zero, waits for its writes
  | done
deriving DecidableEq, Repr

/-- A launch (02 R42 to R56). -/
structure Launch where
  id : Nat
  job : Nat
  queue : Nat
  pkt : Option Nat
  graph : Nat
  phase : Nat
  hdr : BitVec 1024
  hdrRead : Bool
  khw : Word
  ped : BitVec 192
  cbdesc : List (BitVec 128)
  xbase : Nat
  xsize : Nat
  preds : Nat
  edges : List Nat
  node : Nat
  tailOf : Option Nat
  checked : Bool
  status : BitVec 16
  cancelled : Bool
  stage : LStage
  nextCluster : Nat
  blocksLeft : Nat
  blocksExited : Nat
  faults : Nat
  first : BitVec 8
  mismatch : Nat
  abft : Nat
  preempt : Nat
  coresUsed : List Nat
  startT : Nat
  prio : Nat
  readySince : Nat
  skipped : Bool
  skipSince : Nat
  trapbase : DWord
  parent : Option Nat
  /-- Latest GWCT of the launch's writes (02 R55). -/
  lastGwct : Nat
  /-- The header was not read or failed 02 R44 (02 R56, PRIO). -/
  noPrio : Bool
  /-- Die of the pre-emption request that made room for it (03 R71). -/
  die : Option Nat
  /-- Steps of 02 R55 taken: 0 none, 1 waits for writes at the boundary, 2 for their GWCTs, 3 the
  record is written. -/
  endStep : Nat
  /-- Writes at the boundary, as (core, store-queue number), and the time to wait for (08 R198). -/
  endWait : List (Nat × Nat)
  endTime : Nat
deriving DecidableEq, Repr

/-- A graph of launches (03 R66). -/
structure Graph where
  job : Nat
  phase : Nat
  count : Nat
  read : Nat
  left : Nat
  queue : Nat
  pkt : Option Nat
  nodes : List Nat
  badNode : Bool
  checked : Bool
  cancelled : Bool
deriving DecidableEq, Repr

/-- A phase of a job (03 R67). -/
structure Phase where
  job : Nat
  num : Nat
  left : Nat
  closed : Bool
deriving DecidableEq, Repr

/-- State of a packet read and not counted in DONE (03 R62, R67); `stuck`: its access faulted and
the queue is frozen at it. -/
inductive PktSt where | held | acting | stuck | done
deriving DecidableEq, Repr

structure Pkt where
  num : Nat
  data : BitVec 512
  st : PktSt
  /-- The launch or graph it started, or the units a CANCEL waits for. -/
  refs : List Nat
  /-- Graph of which it is an unchecked node. -/
  node : Option Nat
  /-- Graph of one launch, made when a LAUNCH packet that is no node is read (02 R39). -/
  graph : Option Nat
  /-- Cancelled before its launch was accepted. -/
  cancel : Bool
deriving DecidableEq, Repr

/-- Per queue: packets read, the graph being filled, and TAIL ignored until rewritten. -/
structure QState where
  pkts : List Pkt
  fill : Option Nat
  /-- TYPE of every packet read, by number (03 R68). -/
  kinds : List Nat
  badTail : Bool
deriving DecidableEq, Repr

/-- A copy command (07 R170) with what it captured (08 R197) and its place. -/
structure CopyCmd where
  ctl : CpyCtl
  saddr : DWord
  daddr : DWord
  len : Nat
  launch : Nat
  blk : Nat
  wid : Nat
  half : Nat
  progress : Nat
  capt : Nat
  captSq : List Nat
  /-- Its warp's group was in handler or graft mode (07 R161). -/
  priv : Bool
  /-- Buffer slot reserved before its block was saved (07 R177). -/
  slot : Option Nat
deriving DecidableEq, Repr

/-- A WCALL captured at commit (10 R233, R234). -/
structure WcallRec where
  /-- Its entries in the core queue, of nine; the others are still on the spill path (03 R75). -/
  here : Nat
  job : Nat
  launch : Nat
  block : Nat
  base : DWord
  wid : Nat
  mask : Mask
  svc : BitVec 16
  warpNum : Nat
  reqs : List (Nat × List Word)
  phase : Nat
  /-- The store queue's number after its stores of zero to DONE, the GWCT its release waits for, and the
  notice's number (10 R234). -/
  sq : Nat
  time : Nat
  n : Nat
deriving DecidableEq, Repr

/-- An entry of a core queue (03 R75). -/
inductive QEntry where
  | copy (c : CopyCmd)
  | trap (wid parked : Nat)
  | wcall (r : WcallRec)
  /-- The last entries of a WCALL of a job whose first ones stand in the queue. -/
  | wmore (job n : Nat)
deriving DecidableEq, Repr

/-- Where an entry of a spill ring stands (03 R77): written in the ring, waiting for room, or
waiting because its spill write faulted. -/
inductive SpillSt where | inRing | noRoom | faulted
deriving DecidableEq, Repr

/-- An entry on the spill path of a job on a core. -/
structure SpillEntry where
  e : QEntry
  st : SpillSt
deriving DecidableEq, Repr

/-- A matrix command in the core's matrix queue (06 R131). -/
inductive MStage where | queued | started
deriving DecidableEq, Repr

structure MCmd where
  id : Nat
  op : MOp
  blk : Nat
  tile : Nat
  da : BitVec 128
  db : BitVec 128
  fmt : Word
  /-- The warps that arrived for it, each with its `capt`. -/
  warps : List (Nat × Nat)
  priv : Bool
  stage : MStage
  /-- Operand bytes as fetched for A and B rows. -/
  abytes : List Byte
  bbytes : List Byte
  /-- Operand units read early, by twice their address / 16 (plus 1 for B), and the 16-byte units that a
  TST has written with their largest GWCT (06 R133, R141). -/
  early : Tbl (List Byte)
  units : Nat
  gwct : Nat
  /-- Cause 1 or 3 with the fault to report, found at the fetch (06 R140). -/
  bad : Option (Nat × FaultInfo)
deriving DecidableEq, Repr

/-- A cached line under a lease (08 R181, R183): expiry, guard, its bytes as granted, and which of
its halves were poisoned (bit 0 low, bit 1 high). -/
structure CLine where
  line : Nat
  expiry : Nat
  guard : Nat
  data : List Byte
  bad : Nat
deriving DecidableEq, Repr

/-- Writes of one instruction to one line, in lane order (01 R9, 08 R179, 18 R409). -/
structure SqEntry where
  id : Nat
  wid : Nat
  launch : Nat
  line : Nat
  writes : List (Nat × Nat × List Byte)
  vas : List DWord
  strong : Bool
  asid : Nat
  gwct : Option Nat
deriving DecidableEq, Repr

/-- A retire packet held for check and commit (01 R11, R12, R14), with the warp that sent it and, for a
load performed at its check, what that found: whether the finding stands, results, faults, the
addresses used, the bytes read (lane, place, length), and the stream record. -/
structure Outstanding where
  wid : Nat
  p : RetirePacket
  checked : Bool
  ran : Bool
  dst : List Claim
  faults : List (Nat × FaultInfo)
  addrs : List (Nat × DWord)
  reads : List (Nat × Nat × Nat)
  srec : Option (BitVec 512)
deriving DecidableEq, Repr

/-- Contention predictor entry (08 R196). -/
structure PredEntry where
  line : Nat
  ctr : Nat
  stamp : Nat
deriving DecidableEq, Repr

/-- A TLB entry: address space, page, leaf (07 R162). -/
structure TlbEntry where
  asid : Nat
  vpage : Nat
  shift : Nat
  leaf : DWord
deriving DecidableEq, Repr

/-- A blocked REGGROW request (03 R78). -/
structure GrowReq where
  /-- Its group: 32 times the warp plus the group's lowest lane. -/
  who : Nat
  wid : Nat
  part : Nat
  want : Nat
  answer : Option Bool
deriving DecidableEq, Repr

/-- A RACQ request at its core (08 R200). -/
structure RacqReq where
  /-- Its group: 32 times the warp plus the group's lowest lane. -/
  who : Nat
  wid : Nat
  ids : List Nat
  time : Nat
deriving DecidableEq, Repr

/-- One logical core. -/
structure Core where
  level : Nat
  mmValue : Nat
  mmResult : Nat
  mmOperand : Nat
  mmSoft : Nat
  winMis : Nat
  winCommits : Nat
  /-- Mismatches of this window at level 5, and the level at the window's start (01 R33, R35). -/
  winLevel5 : Nat
  winStart : Nat
  above : Nat
  below : Nat
  trim : Nat
  failed : Bool
  disabled : Bool
  out : List (Nat × Outstanding)
  cc : List CLine
  l1 : List CLine
  tlb : List TlbEntry
  sq : List SqEntry
  nextSq : Nat
  pred : List PredEntry
  queue : List QEntry
  mq : List MCmd
  seqs : List (Option Binding)
  grow : List GrowReq
  racq : List RacqReq
  scratch : FMap Byte
  /-- %clock at its last read, in 160ths of a cycle, and the device's count of State.cycles160 then (18 R399). -/
  clock : Nat
  clockAt : Nat
deriving DecidableEq, Repr

/-- A copy engine with its command (07 R173, R174). -/
structure Engine where
  cmd : CopyCmd
  core : Nat
  slot : Option Nat
  started : Bool
  total : Nat
  unit : Nat
  srec : BitVec 512
  drec : BitVec 512
  gwct : Nat
  fault : Option FaultInfo
  written : Bool
deriving DecidableEq, Repr

/-- What the home slice keeps of a line (08 R181, R182, R196): `leased` once a lease has been granted. -/
structure LineMeta where
  lease : Nat
  latest : Nat
  leased : Bool
  written : Bool
  owner : Option Nat
deriving DecidableEq, Repr

/-- A cached grove entry of a slice (09 R204): tag, code words, or the failed cause. -/
structure GroveEntry where
  slice : Nat
  asid : Nat
  base : Nat
  index : Nat
  code : List Word
  cause : Nat
  stamp : Nat
deriving DecidableEq, Repr

/-- The DRAM image of a line that is dirty in its slice: interval in which it became dirty, bytes
and poison of its halves (12 R285, R288). -/
structure DramLine where
  interval : Nat
  bytes : List Byte
  poison : Nat × Nat
deriving DecidableEq, Repr

/-- A logged line (12 R288). -/
structure LogLine where
  line : Nat
  bytes : List Byte
  poison : Nat × Nat
deriving DecidableEq, Repr

/-- One generation of the graft fabric (11 R246, R256): slots, region, %graftgen's fields. -/
structure GraftGen where
  slots : List (BitVec 512)
  region : FMap Byte
  imgver : Nat
  gen : Nat
deriving DecidableEq, Repr

/-- A victim cluster of a request, with the time of its choice (10 R237). -/
structure Victim where
  launch : Nat
  cluster : Nat
  time : Nat
deriving DecidableEq, Repr

/-- A pre-emption request (10 R237): the launch that asks (none for a failed core), its die, the
victims not yet saved, the cores to vacate, and the victims abandoned. -/
structure PreReq where
  launch : Option Nat
  die : Nat
  victims : List Victim
  cores : List Nat
  gone : List (Nat × Nat)
  abandoned : Nat
deriving DecidableEq, Repr

/-- A range of a job's save area, held for a block (10 R236). -/
structure SaveRange where
  job : Nat
  launch : Nat
  blk : Nat
  base : Nat
  units : Nat
deriving DecidableEq, Repr

/-- A page flip in progress (12 R271): the pages left, and whether the host was lost during it. -/
structure Flip where
  pages : List Nat
  toHost : Bool
  lost : Bool
deriving DecidableEq, Repr

/-- A shootdown in progress (10 R245): the store-queue entries (core, number) and the LNX requests
(warp, lane) it waits for. -/
structure Shoot where
  asid : Nat
  va : Nat
  len : Nat
  pend : List (Nat × Nat)
  lnx : List (Nat × Nat)
deriving DecidableEq, Repr

/-- A store lost with its peer or host (12 R279, R281). -/
structure LostStore where
  wid : Nat
  lane : Nat
  addr : DWord
  host : Bool
deriving DecidableEq, Repr

/-- What comes from outside with no instruction that names it: the management core clears a core's
%mismatch (01 R31); an ECC error in a tile (06 R122); the tile fetch unit reads a unit of an operand, or
writes one of a TST, before the others (06 R133, R141); a port begins to train, or its link counts replayed
and corrected flits (12 R273); a peer's store or atomic arrives at a home slice of this device (12 R276). -/
inductive Outside where
  | clearMismatch (core : Nat)
  | tileEcc (blk tile : Nat)
  | tileFetchUnit (core idx addr : Nat) (opB : Bool)
  | tileStoreUnit (core idx : Nat)
  | portTrain (port : Nat)
  | portFlits (port retry fec : Nat)
  | peerStore (dev loc : Nat) (bytes : List Byte)
  | peerAtomic (dev loc : Nat) (op : AOp) (ty : ATy) (n cmp : Nat)
deriving DecidableEq, Repr, Inhabited

/-- The agent that moves next: nobody, a step of a device agent with what comes from outside, a
run sequencer that issues its group's next instruction, a waiting group that tries its
instruction again (log entry 1), or what comes from outside alone. -/
inductive Turn where
  | idle
  | take (i : Instr)
  | issue (core part seq : Nat)
  | resume (wid k : Nat)
  | outside (e : Outside)
deriving DecidableEq, Repr, Inhabited

/-- The whole machine. -/
structure State where
  turn : Turn
  tick : Nat
  fresh : Nat
  gtime : Nat
  /-- Deficit refills made (03 R69). -/
  refilled : Nat
  /-- The cores' clock: the time of its last change of rate, the 160ths of a cycle counted until then, and its
  rate since in 16ths (13 R296; 18 R399). -/
  clkSince : Nat
  clkCount : Nat
  clkRate : Nat
  /-- BAR 2 by 32-bit word, entries that differ from `bar2Reset`. -/
  bar2 : FMap Word
  /-- The capability list of BAR 0, by 8-byte entry (11 R265). -/
  caplist : List DWord
  /-- Message-signalled interrupts raised, oldest first (12 R267). -/
  irqs : List Nat
  /-- Events that the management core records, oldest first. -/
  mgmt : List Nat
  /-- Uncorrectable errors that AER reports to the host; bit 5 is Surprise Down (12 R267; log entry 114). -/
  aer : Word
  /-- Coherent memory by location: device memory, host window, peers (Machine/Memory.lean). -/
  mem : FMap Byte
  /-- Poisoned half-lines by location / 64: 16 plus the units written whole (12 R285). -/
  poison : FMap Nat
  dram : Tbl DramLine
  lines : Tbl LineMeta
  /-- Each die's shared translation cache, and the table entries its walkers hold, as (die, physical
  address, entry) (07 R162). -/
  dieTlb : List (Nat × TlbEntry)
  walkCache : List (Nat × Nat × DWord)
  pins : List Pin
  /-- Host-window lines of which a slice keeps a shared copy (12 R272). -/
  hostCopies : List Nat
  horizon : FMap Nat
  bias : FMap Nat
  snoop : FMap Nat
  chip : FMap Byte
  cores : Tbl Core
  engines : Tbl Engine
  grove : List GroveEntry
  launches : Tbl Launch
  nextLaunch : Nat
  graphs : Tbl Graph
  nextGraph : Nat
  slotsUsed : Nat
  phases : List Phase
  queues : Tbl QState
  blocks : Tbl Block
  nextBlock : Nat
  clusters : List Cluster
  nextPlaced : Nat
  nextAge : Nat
  nextSave : Nat
  warps : Tbl Warp
  nextPark : Nat
  /-- Latest GWCT given to any write (08 R198). -/
  lastGwct : Nat
  pre : List PreReq
  /-- Spilled entries by 256 job + core, oldest first, and the ring's head counts. -/
  spill : Tbl (List SpillEntry)
  spillHead : FMap Nat
  grovebase : FMap DWord
  callq : FMap DWord
  wcallFault : List (Nat × DWord)
  graft : GraftGen
  graftOld : Option GraftGen
  graftNew : Option (Nat × GraftGen)
  fuse : Nat
  flip : Option Flip
  shoot : Option Shoot
  /-- The host link is active; when it left that state; the host is lost (12 R281). -/
  hostUp : Bool
  hostDownAt : Nat
  hostLost : Bool
  /-- Failed data lanes of each port (mask), and the time its retraining began plus 1 (12 R274). -/
  portLanes : FMap Nat
  portTime : FMap Nat
  /-- Peers declared lost whose effects are still to come, and those whose effects have been taken
  (12 R279). -/
  peerLost : List Nat
  peersGone : List Nat
  /-- Replicas (device, line) by object, and invalidations not yet acknowledged as (object,
  device, line) (12 R278). -/
  sharers : Tbl (List (Nat × Nat))
  inval : List (Nat × Nat × Nat)
  lost : List LostStore
  undoLog : List LogLine
  undoFill : FMap Nat
  undoWarned : Bool
  undoStarting : Option Nat
  saved : Tbl (List QEntry)
  ranges : List SaveRange
  /-- Spare cores in use or bad, a mask by die (01 R35). -/
  spares : FMap Nat
  xlat : List (Nat × Nat)
deriving DecidableEq, Repr

/-- A lane as 02 R47 starts it. -/
def Lane.fresh (st : LaneSt) (pc : DWord) : Lane :=
  { st := st, pc := pc, run := none, nxt := 0, pass := 0, fpf := 0, f := 0, bkpt := none, elem := none,
    retry := 0, words := (0, 0), gen := 0, score := false }

/-- A core after reset: nothing resident, level 0, every counter zero (01 R28 to R37, 13 R298). -/
def Core.init : Core :=
  { level := 0, mmValue := 0, mmResult := 0, mmOperand := 0, mmSoft := 0, winMis := 0,
    winCommits := 0, winLevel5 := 0, winStart := 0, above := 0, below := 0, trim := 0, failed := false,
    disabled := false, out := [], cc := [], l1 := [], tlb := [], sq := [], nextSq := 0,
    pred := [], queue := [], mq := [], seqs := List.replicate 8 none, grow := [], racq := [],
    scratch := [], clock := 0, clockAt := 0 }

def QState.init : QState := { pkts := [], fill := none, kinds := [], badTail := false }

def LineMeta.init : LineMeta :=
  { lease := 1024, latest := 0, leased := false, written := false, owner := none }

/-- Every slot clear, no image (11 R246, R257). -/
def GraftGen.clear : GraftGen :=
  { slots := List.replicate 32 0, region := [], imgver := 0, gen := 0 }

/-- Reset value of the 32-bit word at BAR 2 offset 4 k: 0 but for RLOG of the queues (03 R61),
WEIGHT of the jobs (03 R63), and STEPTH and PLIMIT (13 R296). -/
def bar2Reset (k : Nat) : Word :=
  if k < 0x40000 ∧ k % 16 = 2 then 4
  else if 0x40000 ≤ k ∧ k < 0x50000 ∧ k % 16 = 2 then 0x10000
  else if k = 0xA4004 then 0x000C0960
  else 0

/-- Why the model itself stops: the machine the spec describes never does; its faults are next
states (10 R220 to R226). -/
inductive Fault where
  /-- A warp instruction is given to `exec` while the turn names no sequencer with a bound group:
  raised by the meanings of warp instructions. Safe: the device issues instructions only for a
  bound issue group (03 R80). -/
  | noIssueGroup
deriving DecidableEq, Repr

/-- Why the model refuses. -/
inductive Refusal where
  /-- The instruction has no meaning yet: raised by the dispatcher. Safe. -/
  | notModelled (mnemonic : String)
deriving DecidableEq, Repr

/-- The machine right after device reset: nothing resident, memory with nothing listed, PHASE 0,
every register at its reset value (INVENTORY.md, State). -/
def State.reset : State :=
  { turn := .idle, tick := 0, fresh := 0, gtime := 0, refilled := 0, clkSince := 0, clkCount := 0,
    clkRate := 16, bar2 := [], caplist := [], irqs := [],
    mgmt := [], aer := 0, mem := [], poison := [], dram := [], lines := [], dieTlb := [], walkCache := [], pins := [],
    hostCopies := [], horizon := [], bias := [], snoop := [], chip := [], cores := [], engines := [], grove := [], launches := [],
    nextLaunch := 0, graphs := [], nextGraph := 0, slotsUsed := 0, phases := [], queues := [],
    blocks := [], nextBlock := 0, clusters := [], nextPlaced := 0, nextAge := 0, nextSave := 0,
    warps := [], nextPark := 0, lastGwct := 0, pre := [], spill := [], spillHead := [], grovebase := [],
    callq := [], wcallFault := [], graft := GraftGen.clear, graftOld := none, graftNew := none,
    fuse := 0, flip := none, shoot := none, hostUp := false, hostDownAt := 0, hostLost := false, portLanes := [],
    portTime := [], peerLost := [], peersGone := [], sharers := [], inval := [], lost := [], undoLog := [],
    undoFill := [], undoWarned := false, undoStarting := none, saved := [], ranges := [], spares := [], xlat := [] }

end Sys2Proof.Machine
end

