-- ==== Sys2Proof/Machine/Maps.lean ====
section
/-!
DEFINITION. Sparse maps, record tables, lane masks, bit fields and byte order.
-/

set_option Elab.async false

namespace Sys2Proof.Machine

/-- The value at key `k`; an unlisted key reads as `d`. -/
def fget {β : Type} (d : β) (k : Nat) : FMap β → β
  | [] => d
  | (a, v) :: r => if a = k then v else fget d k r

/-- Puts `v` at `k`, keeping the keys rising. -/
def finsert {β : Type} (k : Nat) (v : β) : FMap β → FMap β
  | [] => [(k, v)]
  | (a, w) :: r =>
    if k < a then (k, v) :: (a, w) :: r
    else if a = k then (k, v) :: r
    else (a, w) :: finsert k v r

/-- Removes every entry of key `k`. -/
def ferase {β : Type} (k : Nat) : FMap β → FMap β
  | [] => []
  | (a, w) :: r => if a = k then ferase k r else (a, w) :: ferase k r

/-- Sets key `k` to `v`; setting the default removes the entry. -/
def fset {β : Type} [DecidableEq β] (d : β) (k : Nat) (v : β) (m : FMap β) : FMap β :=
  if v = d then ferase k m else finsert k v m

/-- Removes the entries whose key meets `p`. -/
def feraseIf {β : Type} (p : Nat → Bool) : FMap β → FMap β
  | [] => []
  | (a, w) :: r => if p a then feraseIf p r else (a, w) :: feraseIf p r

/-- Keys rise strictly from `lo`. -/
def keysRise {β : Type} : Nat → FMap β → Bool
  | _, [] => true
  | lo, (a, _) :: r => decide (lo ≤ a) && keysRise (a + 1) r

/-- The canonical form: keys strictly rising, no entry equal to the default. -/
def fwf {β : Type} [DecidableEq β] (d : β) (m : FMap β) : Bool :=
  keysRise 0 m && m.all (fun e => decide (e.2 ≠ d))

/-- The record of number `k`, if listed. -/
def tget {β : Type} (k : Nat) : Tbl β → Option β
  | [] => none
  | (a, v) :: r => if a = k then some v else tget k r

/-- The record of number `k`, or the initial record. -/
def tgetD {β : Type} (d : β) (k : Nat) (t : Tbl β) : β := (tget k t).getD d

/-- Puts a record. -/
def tset {β : Type} (k : Nat) (v : β) (t : Tbl β) : Tbl β := finsert k v t

/-- Deletes a record. -/
def tdel {β : Type} (k : Nat) (t : Tbl β) : Tbl β := ferase k t

/-- The list with element `k` set; places below it that the list lacks are filled with `d`. -/
def lput {β : Type} (d : β) : Nat → β → List β → List β
  | 0, v, [] => [v]
  | 0, v, _ :: r => v :: r
  | k + 1, v, [] => d :: lput d k v []
  | k + 1, v, a :: r => a :: lput d k v r

/-- Bits [lo + w - 1 : lo] of a number. -/
def bitsOf (x lo w : Nat) : Nat := x / 2 ^ lo % 2 ^ w

/-- Bit `i` of a number. -/
def bitOf (x i : Nat) : Bool := x / 2 ^ i % 2 == 1

/-- 1 for true. -/
def b2n (b : Bool) : Nat := if b then 1 else 0

/-- Bytes as a number, the first byte the least significant (00 R5). -/
def leNat : List Byte → Nat
  | [] => 0
  | b :: r => b.toNat + 256 * leNat r

/-- The `n` low bytes of a number, least significant first (00 R5). -/
def natLe : Nat → Nat → List Byte
  | 0, _ => []
  | n + 1, x => BitVec.ofNat 8 x :: natLe n (x / 256)

/-- A number as a two's-complement integer of `w` bits. -/
def sintOf (w x : Nat) : Int :=
  let y := x % 2 ^ w
  if y < 2 ^ (w - 1) then (y : Int) else (y : Int) - (2 ^ w : Nat)

/-- An integer modulo 2^w. -/
def wrapInt (w : Nat) (x : Int) : Nat := (x % ((2 ^ w : Nat) : Int)).toNat

/-- The lanes of a mask, lowest first. -/
def lanesOf (m : Mask) : List Nat := (List.range 32).filter m.getLsbD

/-- The mask of one lane. -/
def laneBit (l : Nat) : Mask := BitVec.ofNat 32 (2 ^ l)

/-- The mask of a list of lanes. -/
def maskOf (ls : List Nat) : Mask := ls.foldl (fun m l => m ||| laneBit l) 0

/-- The lowest lane of a mask (0 for the empty one). -/
def lowLane (m : Mask) : Nat := (lanesOf m).headD 0

/-- Lanes in a mask. -/
def maskCount (m : Mask) : Nat := (lanesOf m).length

/-- The two words of a pair as one 64-bit value, the low word first (14 R304). -/
def pair (lo hi : Word) : DWord := hi ++ lo

/-- Low word of a 64-bit value. -/
def loW (x : DWord) : Word := x.setWidth 32

/-- High word of a 64-bit value. -/
def hiW (x : DWord) : Word := (x >>> 32).setWidth 32

/-- The smallest element of a list by a key, the first among equals. -/
def minBy {α : Type} (key : α → Nat) : List α → Option α
  | [] => none
  | a :: r =>
    match minBy key r with
    | none => some a
    | some b => if key a ≤ key b then some a else some b

/-- The list without repeats, first occurrences kept. -/
def nubNat : List Nat → List Nat → List Nat
  | _, [] => []
  | seen, a :: r => if seen.contains a then nubNat seen r else a :: nubNat (a :: seen) r

/-- Folds over the lanes of a mask, lowest first. -/
def foldLanes {σ : Type} (m : Mask) (f : Nat → σ → σ) (s : σ) : σ :=
  (lanesOf m).foldl (fun t l => f l t) s

/-- The first multiple of `a` at or above `x`. -/
def alignUp (a x : Nat) : Nat := (x + a - 1) / a * a

end Sys2Proof.Machine
end

