-- ==== Sys2Proof/Machine/Access.lean ====
section
/-!
DEFINITION. Accessors of the state: free values, BAR 2, the records of cores, blocks, warps and
launches, the launch header's fields, and the registers of a warp (14 R302, R303).
-/

set_option Elab.async false

namespace Sys2Proof.Machine

/-- Takes a free value: an opaque number that nothing constrains (log entry 2). -/
def State.free (s : State) : Nat × State := (Config.freeNat s.fresh, { s with fresh := s.fresh + 1 })

-- BAR 2

/-- The 32-bit word at a BAR 2 offset. -/
def State.reg (s : State) (off : Nat) : Word :=
  match tget (off / 4) s.bar2 with
  | some v => v
  | none => bar2Reset (off / 4)

/-- Sets the 32-bit word at a BAR 2 offset. -/
def State.setReg (off : Nat) (v : Word) (s : State) : State :=
  { s with bar2 :=
      if v = bar2Reset (off / 4) then ferase (off / 4) s.bar2 else finsert (off / 4) v s.bar2 }

/-- A 64-bit register, low word first. -/
def State.reg64 (s : State) (off : Nat) : DWord := pair (s.reg off) (s.reg (off + 4))

def State.setReg64 (off : Nat) (v : DWord) (s : State) : State :=
  (s.setReg off (loW v)).setReg (off + 4) (hiW v)

/-- Bits [lo + w - 1 : lo] of the 32-bit word at an offset. -/
def State.regF (s : State) (off lo w : Nat) : Nat := bitsOf (s.reg off).toNat lo w

/-- Word `x` with bits [lo + w - 1 : lo] replaced. -/
def putBits (x lo w v : Nat) : Nat := x - bitsOf x lo w * 2 ^ lo + v % 2 ^ w * 2 ^ lo

def State.setRegF (off lo w v : Nat) (s : State) : State :=
  s.setReg off (BitVec.ofNat 32 (putBits (s.reg off).toNat lo w v))

/-- Offset of a queue's control block (03 R61). -/
def qOff (q : Nat) : Nat := 0x40 * q
/-- Offset of a job's control block (03 R63). -/
def jOff (j : Nat) : Nat := 0x100000 + 0x40 * j
/-- Offset of a job's chip-scratch window (07 R152). -/
def xOff (j : Nat) : Nat := 0x140000 + 0x10 * j
/-- Offset of a job's fault ring control block (10 R230). -/
def frOff (j : Nat) : Nat := 0x150000 + 0x20 * j
/-- Offset of an address space's root entry (07 R157). -/
def rootOff (a : Nat) : Nat := 0x180000 + 8 * a
/-- Offset of an aperture's entry (12 R275). -/
def apOff (a : Nat) : Nat := 0x210000 + 8 * a
/-- Offset of a port's status block (12 R273). -/
def portOff (p : Nat) : Nat := 0x230040 + 0x40 * p
/-- Offset of a coherence object's entry (12 R277). -/
def objOff (o : Nat) : Nat := 0x240000 + 0x40 * o
/-- Offset of a job's save area (10 R236). -/
def saOff (j : Nat) : Nat := 0x2A0000 + 0x10 * j
/-- Offset of a core's status word (13 R298). -/
def csOff (c : Nat) : Nat := 0x291000 + 8 * c

def State.qJob (s : State) (q : Nat) : Nat := s.regF (qOff q + 8) 8 12
def State.qRlog (s : State) (q : Nat) : Nat := s.regF (qOff q + 8) 0 8
def State.qLead (s : State) (q : Nat) : Bool := s.regF (qOff q + 8) 20 1 == 1
def State.qPriv (s : State) (q : Nat) : Bool := s.regF (qOff q + 8) 21 1 == 1
def State.qEn (s : State) (q : Nat) : Bool := s.regF (qOff q + 8) 22 1 == 1
def State.qFrozen (s : State) (q : Nat) : Bool := s.regF (qOff q + 8) 23 1 == 1
def State.qIrqv (s : State) (q : Nat) : Nat := s.regF (qOff q + 8) 24 8
def State.qTail (s : State) (q : Nat) : Word := s.reg (qOff q + 0x10)
def State.qHead (s : State) (q : Nat) : Word := s.reg (qOff q + 0x14)
def State.qDone (s : State) (q : Nat) : Word := s.reg (qOff q + 0x18)
def State.qErr (s : State) (q : Nat) : Word := s.reg (qOff q + 0x1C)

def State.jAsid (s : State) (j : Nat) : Nat := s.regF (jOff j + 8) 0 16
def State.jWeight (s : State) (j : Nat) : Nat := s.regF (jOff j + 8) 16 16
def State.jPcap (s : State) (j : Nat) : Nat := s.regF (jOff j + 0xC) 0 8
/-- Job states: 0 OFF, 1 OPEN, 2 CLOSING, 3 FROZEN (03 R63). -/
def State.jState (s : State) (j : Nat) : Nat := s.regF (jOff j + 0xC) 8 2
def State.jCores (s : State) (j : Nat) : Nat := s.regF (jOff j + 0xC) 16 16
def State.jQuota (s : State) (j : Nat) : Nat := (s.reg (jOff j + 0x10)).toNat
def State.jPhase (s : State) (j : Nat) : Nat := (s.reg (jOff j + 0x14)).toNat
def State.jOpenPh (s : State) (j : Nat) : Nat := (s.reg (jOff j + 0x18)).toNat
def State.jDeficit (s : State) (j : Nat) : Int := (s.reg (jOff j + 0x1C)).toInt

/-- Raises an MSI-X vector; interrupts are dropped while the host is lost (12 R281). -/
def State.raise (v : Nat) (s : State) : State :=
  if s.hostLost then s else { s with irqs := s.irqs ++ [v] }

/-- The management core records an event (10 R237; 01 R35). -/
def State.record (k : Nat) (s : State) : State := { s with mgmt := s.mgmt ++ [k] }

-- records

def State.core (s : State) (c : Nat) : Core := tgetD Core.init c s.cores
def State.modCore (c : Nat) (f : Core → Core) (s : State) : State :=
  { s with cores := tset c (f (s.core c)) s.cores }

def State.warp (s : State) (wid : Nat) : Option Warp := tget wid s.warps
def State.modWarp (wid : Nat) (f : Warp → Warp) (s : State) : State :=
  match tget wid s.warps with
  | none => s
  | some w => { s with warps := tset wid (f w) s.warps }

def State.block (s : State) (b : Nat) : Option Block := tget b s.blocks
def State.modBlock (b : Nat) (f : Block → Block) (s : State) : State :=
  match tget b s.blocks with
  | none => s
  | some x => { s with blocks := tset b (f x) s.blocks }

def State.launch (s : State) (l : Nat) : Option Launch := tget l s.launches
def State.modLaunch (l : Nat) (f : Launch → Launch) (s : State) : State :=
  match tget l s.launches with
  | none => s
  | some x => { s with launches := tset l (f x) s.launches }

def State.modGraph (g : Nat) (f : Graph → Graph) (s : State) : State :=
  match tget g s.graphs with
  | none => s
  | some x => { s with graphs := tset g (f x) s.graphs }

def State.queue (s : State) (q : Nat) : QState := tgetD QState.init q s.queues
def State.modQueue (q : Nat) (f : QState → QState) (s : State) : State :=
  { s with queues := tset q (f (s.queue q)) s.queues }

/-- Block of a warp id. -/
def blkOf (wid : Nat) : Nat := wid / 32

/-- Warp ids of a block. -/
def State.warpsOf (s : State) (b : Nat) : List Nat :=
  (s.warps.map Prod.fst).filter (fun w => blkOf w == b)

def State.launchOf (s : State) (wid : Nat) : Option Launch := do
  let b ← s.block (blkOf wid)
  s.launch b.launch

def State.jobOf (s : State) (wid : Nat) : Nat := ((s.launchOf wid).map (·.job)).getD 0

/-- Address space of a warp: its job's ASID (07 R156). -/
def State.asidOf (s : State) (wid : Nat) : Nat := s.jAsid (s.jobOf wid)

def State.coreOf (s : State) (wid : Nat) : Nat := ((s.block (blkOf wid)).map (·.core)).getD 0

-- launch header (02 R42, R43)

/-- Bits of the header from a byte offset. -/
def Launch.fld (l : Launch) (off bytes : Nat) : Nat := bitsOf l.hdr.toNat (8 * off) (8 * bytes)

def Launch.flags (l : Launch) : Nat := l.fld 2 2
def Launch.nrole (l : Launch) : Nat := l.fld 4 1
def Launch.hprio (l : Launch) : Nat := l.fld 5 1
def Launch.tiles (l : Launch) : Nat := l.fld 6 1
def Launch.cbufs (l : Launch) : Nat := l.fld 7 1
def Launch.code (l : Launch) : Nat := l.fld 8 8
def Launch.gridx (l : Launch) : Nat := l.fld 0x10 4
def Launch.gridy (l : Launch) : Nat := l.fld 0x14 4
def Launch.gridz (l : Launch) : Nat := l.fld 0x18 4
def Launch.clx (l : Launch) : Nat := l.fld 0x1C 1
def Launch.cly (l : Launch) : Nat := l.fld 0x1D 1
def Launch.clz (l : Launch) : Nat := l.fld 0x1E 1
def Launch.barsN (l : Launch) : Nat := l.fld 0x1F 1
def Launch.kscr (l : Launch) : Nat := l.fld 0x20 4
def Launch.qscr (l : Launch) : Nat := l.fld 0x24 4
def Launch.lsize (l : Launch) : Nat := l.fld 0x28 4
def Launch.tag (l : Launch) : Nat := l.fld 0x2C 4
def Launch.lsbase (l : Launch) : Nat := l.fld 0x30 8
def Launch.args (l : Launch) : Nat := l.fld 0x38 8
def Launch.recordA (l : Launch) : Nat := l.fld 0x40 8
def Launch.signalA (l : Launch) : Nat := l.fld 0x48 8
def Launch.sigval (l : Launch) : Nat := l.fld 0x50 8
/-- Role entry r (02 R43). -/
def Launch.role (l : Launch) (r : Nat) : Nat := l.fld (0x60 + 8 * r) 8
def roleEntry (e : Nat) : Nat := bitsOf e 0 32
def roleVregs (e : Nat) : Nat := bitsOf e 32 8
def roleSregs (e : Nat) : Nat := bitsOf e 40 8
def roleWarps (e : Nat) : Nat := bitsOf e 48 8
def roleLast (e : Nat) : Nat := bitsOf e 56 8
/-- Warps of a block: the sum of WARPS over its roles. -/
def Launch.warpsPB (l : Launch) : Nat :=
  ((List.range l.nrole).map (fun r => roleWarps (l.role r))).sum
/-- Blocks of a cluster. -/
def Launch.clSize (l : Launch) : Nat := l.clx * l.cly * l.clz
/-- Clusters of the grid. -/
def Launch.clusters (l : Launch) : Nat := l.gridx * l.gridy * l.gridz
def Launch.g16 (l : Launch) : Bool := bitOf l.khw.toNat 23
def Launch.pedric (l : Launch) : Bool := bitOf l.khw.toNat 21
/-- Pedric header fields (11 R259). -/
def Launch.trbase (l : Launch) : Nat := bitsOf l.ped.toNat 64 64
def Launch.nseg (l : Launch) : Nat := bitsOf l.ped.toNat 128 32
def Launch.trsize (l : Launch) : Nat := bitsOf l.ped.toNat 160 32
/-- %block of a block of a launch (02 R46). -/
def Block.num (b : Block) (l : Launch) : Nat := b.cluster * l.clSize + b.rank

-- registers of a warp

def Warp.lane (w : Warp) (l : Nat) : Lane := w.lanes.getD l (Lane.fresh .never 0)
def Warp.modLane (l : Nat) (f : Lane → Lane) (w : Warp) : Warp :=
  { w with lanes := w.lanes.set l (f (w.lane l)) }
def Warp.modLanes (m : Mask) (f : Lane → Lane) (w : Warp) : Warp :=
  foldLanes m (fun l w => w.modLane l f) w

/-- The lanes that are live (04 R82). -/
def Warp.live (w : Warp) : Mask :=
  maskOf ((List.range 32).filter (fun l => (w.lane l).st == .live))

/-- The half of a lane: 1 for the high half of a G16 warp (04 R99). -/
def Warp.half (w : Warp) (l : Nat) : Nat := if w.g16 then l / 16 else 0

/-- A lane stands in handler mode (10 R227). -/
def Warp.inHandler (w : Warp) (l : Nat) : Bool :=
  match w.handler with
  | none => false
  | some h => h.mask.getLsbD l

/-- A lane stands in graft mode (11 R252). -/
def Warp.inGraft (w : Warp) (l : Nat) : Bool :=
  match w.graft with
  | none => false
  | some g => g.mask.getLsbD l

/-- Register `n` of a lane: v0 to v111, and t0 to t7 as 112 to 119; in graft mode v104 to v111
are the graft registers (11 R252). -/
def Warp.rdV (w : Warp) (l n : Nat) : Word :=
  match w.graft with
  | some g =>
    if g.mask.getLsbD l ∧ 104 ≤ n ∧ n ≤ 111 then fget 0 (32 * (n - 104) + l) g.regs
    else fget 0 (32 * n + l) w.v
  | none => fget 0 (32 * n + l) w.v

/-- Key of register `n` of a lane: n itself, or 1024 + n for a graft register (11 R252). Its poison key is
32 times that plus the lane (01 R37). -/
def Warp.vcode (w : Warp) (l n : Nat) : Nat :=
  match w.graft with
  | some g => if g.mask.getLsbD l ∧ 104 ≤ n ∧ n ≤ 111 then 1024 + n else n
  | none => n

/-- Writes register `n` of a lane; a write clears a poison mark (01 R37). -/
def Warp.wrV (l n : Nat) (x : Word) (w : Warp) : Warp :=
  let bad := w.bad.filter (· != 32 * w.vcode l n + l)
  match w.graft with
  | some g =>
    if g.mask.getLsbD l ∧ 104 ≤ n ∧ n ≤ 111 then
      { w with graft := some { g with regs := fset 0 (32 * (n - 104) + l) x g.regs }, bad := bad }
    else { w with v := fset 0 (32 * n + l) x w.v, bad := bad }
  | none => { w with v := fset 0 (32 * n + l) x w.v, bad := bad }

/-- Poison key of a uniform register of the warp or half (01 R37). -/
def ukey (half n : Nat) : Nat := 4096 + 128 * half + n

/-- First keys of the handler bank and of the graft bank (10 R227, 11 R252). -/
def handlerKey : Nat := 4352
def graftKey : Nat := 4368

/-- Key of uniform register `n` as a group whose lowest lane is `l` names it: of the graft or the handler
bank for s96 to s111 in those modes, else of the warp or half (01 R37). -/
def Warp.scode (w : Warp) (l n : Nat) : Nat :=
  if w.inGraft l ∧ 96 ≤ n then graftKey + (n - 96)
  else if w.inHandler l ∧ 96 ≤ n then handlerKey + (n - 96)
  else ukey (w.half l) n

/-- Poison keys of the other entries of the register file (01 R9, R37): flag n of a lane, uniform flag n
of a half, rejoin mask n, wait counter n of a half. -/
def fkey (l n : Nat) : Nat := 5120 + 32 * n + l
def gkey (half n : Nat) : Nat := 5376 + 8 * half + n
def jkey (n : Nat) : Nat := 5400 + n
def wkey (half n : Nat) : Nat := 5424 + 4 * half + n

/-- A freshly written bank has no poison mark and no producer (10 R227; 11 R252). -/
def Warp.freshKeys (p : Nat → Bool) (w : Warp) : Warp :=
  { w with bad := w.bad.filter (fun k => !p k), producers := w.producers.filter (fun x => !p x.key) }

/-- Uniform register `n` as a group whose lowest lane is `l` names it: the graft or the handler
bank for s96 to s111 in those modes (10 R227, 11 R252), else the warp's or the half's own. -/
def Warp.rdS (w : Warp) (l n : Nat) : Word :=
  if w.inGraft l ∧ 96 ≤ n then
    match w.graft with
    | some g => g.bank.getD (n - 96) 0
    | none => 0
  else if w.inHandler l ∧ 96 ≤ n then
    match w.handler with
    | some h => h.bank.getD (n - 96) 0
    | none => 0
  else fget 0 (128 * w.half l + n) w.u

def Warp.wrS (l n : Nat) (x : Word) (w : Warp) : Warp :=
  let bad := w.bad.filter (· != w.scode l n)
  if w.inGraft l ∧ 96 ≤ n then
    { w with graft := w.graft.map (fun g => { g with bank := lput 0 (n - 96) x g.bank }), bad := bad }
  else if w.inHandler l ∧ 96 ≤ n then
    { w with handler := w.handler.map (fun h => { h with bank := lput 0 (n - 96) x h.bank }), bad := bad }
  else { w with u := fset 0 (128 * w.half l + n) x w.u, bad := bad }

/-- %lane (02 R46, 04 R99). -/
def Warp.laneNo (w : Warp) (l : Nat) : Nat := if w.g16 then l % 16 else l

/-- %warp (02 R46, 04 R99). -/
def Warp.warpNo (w : Warp) (l : Nat) : Nat := if w.g16 then 2 * w.num + l / 16 else w.num

/-- %tid (02 R46, 04 R99). -/
def Warp.tid (w : Warp) (l : Nat) : Nat :=
  if w.g16 then 16 * w.warpNo l + w.laneNo l else 32 * w.num + l

/-- %part: the tile size (04 R93). -/
def Warp.partNo (w : Warp) : Nat := w.tile

/-- A lane-set specifier read for a lane (14 R302). -/
def Warp.rdL (w : Warp) (l : Nat) : LSpec → Word
  | .v n => w.rdV l n.val
  | .t n => w.rdV l (112 + n.val)
  | .zero => 0
  | .lane => BitVec.ofNat 32 (w.laneNo l)

/-- A lane-set specifier written for a lane: zero discards (14 R302). -/
def Warp.wrL (l : Nat) (d : LSpec) (x : Word) (w : Warp) : Warp :=
  match d with
  | .v n => w.wrV l n.val x
  | .t n => w.wrV l (112 + n.val) x
  | .zero => w
  | .lane => w

/-- The specifier `k` registers after `r`; the zero specifier stays zero (14 R304). -/
def LSpec.plus (r : LSpec) (k : Nat) : LSpec :=
  match r with
  | .v n => if h : n.val + k < 112 then .v ⟨n.val + k, h⟩ else .zero
  | .t n => if h : n.val + k < 8 then .t ⟨n.val + k, h⟩ else .zero
  | .zero => .zero
  | .lane => if k = 0 then .lane else .zero

/-- A pair read for a lane (14 R304). -/
def Warp.rdL64 (w : Warp) (l : Nat) (r : LSpec) : DWord :=
  pair (w.rdL l r) (w.rdL l (LSpec.plus r 1))

def Warp.wrL64 (l : Nat) (d : LSpec) (x : DWord) (w : Warp) : Warp :=
  (w.wrL l d (loW x)).wrL l (LSpec.plus d 1) (hiW x)

/-- Flag n of a lane. -/
def Warp.rdF (w : Warp) (l n : Nat) : Bool := (w.lane l).f.getLsbD n
def Warp.wrF (l n : Nat) (b : Bool) (w : Warp) : Warp :=
  w.modLane l (fun x => { x with f :=
    if b then x.f ||| BitVec.ofNat 8 (2 ^ n) else x.f &&& ~~~ BitVec.ofNat 8 (2 ^ n) })

/-- Uniform flag n of a half. -/
def Warp.rdG (w : Warp) (l n : Nat) : Bool := (w.g.getD (w.half l) 0).getLsbD n
def Warp.wrG (l n : Nat) (b : Bool) (w : Warp) : Warp :=
  let x := w.g.getD (w.half l) 0
  let y := if b then x ||| BitVec.ofNat 8 (2 ^ n) else x &&& ~~~ BitVec.ofNat 8 (2 ^ n)
  { w with g := lput 0 (w.half l) y w.g }

/-- ORs floating-point flags into a lane's %fpflags (05 R106). -/
def Warp.orFpf (l : Nat) (f : BitVec 5) (w : Warp) : Warp :=
  w.modLane l (fun x => { x with fpf := x.fpf ||| f })

/-- A wait counter that counts nothing. -/
def WaitCtr.zero : WaitCtr := { val := 0, time := 0, err := none, rels := [] }

/-- Wait counter n of a group's half (04 R100). -/
def Warp.wctr (w : Warp) (l n : Nat) : WaitCtr :=
  w.w.getD (4 * w.half l + n) WaitCtr.zero
def Warp.setWctr (l n : Nat) (c : WaitCtr) (w : Warp) : Warp :=
  { w with w := lput WaitCtr.zero (4 * w.half l + n) c w.w }

/-- Raises %lwct (08 R185). -/
def Warp.raiseLwct (t : Nat) (w : Warp) : Warp := { w with lwct := max w.lwct t }

end Sys2Proof.Machine
end

