-- ==== Sys2Proof/Machine/Memory.lean ====
section
/-!
DEFINITION. Coherent memory at the home slices, poison, leases, write completion times, address
translation and the spaces (07 R146 to R162; 08 R178 to R185; 12 R268 to R289).
Locations: device memory and the host window by physical address, a peer's byte at
2^60 + 2^39 * DEVID + its device address; a store queue also names scratch bytes, from 2^100 up.
-/

set_option Elab.async false

namespace Sys2Proof.Machine

/-- Location of byte `off` of peer `dev` (12 R275). -/
def peerLoc (dev off : Nat) : Nat := 2 ^ 60 + 2 ^ 39 * dev + off

/-- The location belongs to a peer. -/
def isPeer (loc : Nat) : Bool := decide (2 ^ 60 ≤ loc) && decide (loc < 2 ^ 100)
/-- The key of a byte of core scratch, and of a byte of chip scratch, in a store queue. -/
def scrKey (core off : Nat) : Nat := 2 ^ 100 + 2 ^ 40 * core + off
def chipKey (off : Nat) : Nat := 2 ^ 101 + off
/-- The key names a byte of scratch. -/
def isScratch (loc : Nat) : Bool := decide (2 ^ 100 ≤ loc)
/-- The peer of a location. -/
def peerOf (loc : Nat) : Nat := (loc - 2 ^ 60) / 2 ^ 39
/-- The location lies in the host window (12 R268). -/
def isHost (loc : Nat) : Bool := decide (2 ^ 48 ≤ loc) && decide (loc < 2 ^ 49)
/-- The location lies in device memory. -/
def isDev (loc : Nat) : Bool := decide (loc < Config.deviceTop)

/-- The home slice of a physical address (07 R154). -/
def homeSlice (pa : Nat) : Nat :=
  let ln := bitsOf pa 7 45
  let f := (List.range 7).foldl (fun f k => f ^^^ bitsOf ln (7 * k) 7) 0
  3 * f + ln % 3

/-- The page of a device address is in host bias (12 R269). -/
def State.hostBias (s : State) (loc : Nat) : Bool := fget 0 (loc / 4096) s.bias == 1

/-- Bytes of memory. An unlisted byte reads 0 (log entry 4). -/
def State.rdByte (s : State) (loc : Nat) : Byte := fget 0 loc s.mem

/-- `n` bytes from a location. -/
def State.rdMem (s : State) : Nat → Nat → List Byte
  | _, 0 => []
  | loc, n + 1 => s.rdByte loc :: s.rdMem (loc + 1) n

/-- Puts bytes from a location, keeping the canonical form. -/
def wrMem : Nat → List Byte → FMap Byte → FMap Byte
  | _, [], m => m
  | loc, b :: r, m => wrMem (loc + 1) r (fset 0 loc b m)

/-- The canonical form of a memory: addresses strictly rising, no entry equal to what an unlisted
address reads as (log entry 4). -/
def Memory.wf (m : FMap Byte) : Bool := fwf 0 m

/-- The half-line of a location is poisoned (12 R284). -/
def State.poisoned (s : State) (loc : Nat) : Bool := fget 0 (loc / 64) s.poison != 0

/-- Some byte of a range is poisoned. -/
def State.poisonedR (s : State) (loc n : Nat) : Bool :=
  n != 0 && (List.range ((loc + n - 1) / 64 - loc / 64 + 1)).any
    (fun k => s.poisoned (loc + 64 * k))

/-- Poisons the half-line of a location afresh (12 R284, R285). -/
def State.setPoison (loc : Nat) (s : State) : State :=
  { s with poison := fset 0 (loc / 64) 16 s.poison }

/-- The units of half-line `h` written whole by `n` bytes from `loc` (12 R285). -/
def unitsOf (h loc n : Nat) : Nat :=
  ((List.range 4).filter (fun u =>
    decide (loc ≤ 64 * h + 16 * u) && decide (64 * h + 16 * u + 16 ≤ loc + n))).foldl
      (fun m u => m ||| 2 ^ u) 0

/-- One store's effect on poison: whole units count, four units clean the half-line (12 R285). -/
def poisonAfter (loc n : Nat) (p : FMap Nat) : FMap Nat :=
  if n = 0 then p
  else (List.range ((loc + n - 1) / 64 - loc / 64 + 1)).foldl (fun p k =>
    let h := loc / 64 + k
    let v := fget 0 h p
    if v = 0 then p
    else
      let v' := v ||| unitsOf h loc n
      if v' = 31 then fset 0 h 0 p else fset 0 h v' p) p

/-- Number of the current undo interval (12 R287). -/
def State.interval (s : State) : Nat := (s.reg64 0x280010).toNat

/-- Undo logging is on (12 R287); it is disabled in minimal mode (13 R295). -/
def State.undoOn (s : State) : Bool := s.regF 0x280008 0 1 == 1 && s.regF 0x290000 3 1 == 0

/-- Stack of a device address: 2^36 bytes each (00 R2; log entry 20). -/
def stackOf (loc : Nat) : Nat := loc / 2 ^ 36

/-- Bytes a logged line takes in its stack's log region (log entry 20). -/
def logEntryBytes : Nat := 144

/-- Logs the prior DRAM content of a line at its first write-back of the interval, with the fill,
the 75 percent warning and the full mark (12 R288, R289). -/
def State.undoLogLine (line : Nat) (bytes : List Byte) (p : Nat × Nat) (s : State) : State :=
  let st := stackOf (128 * line)
  let fill := fget 0 st s.undoFill
  if s.undoOn && !(s.undoLog.any (fun e => e.line == line)) then
    if fill + logEntryBytes > 2 ^ 30 then
      (s.setRegF 0x280008 4 1 1).setRegF 0x280008 16 8 3
    else
      let e : LogLine := { line := line, bytes := bytes, poison := p }
      let s := { s with undoLog := s.undoLog ++ [e],
                        undoFill := fset 0 st (fill + logEntryBytes) s.undoFill }
      let s := s.setReg 0x28000C
        (BitVec.ofNat 32 (max (s.reg 0x28000C).toNat ((fill + logEntryBytes) / 2 ^ 20)))
      if fill + logEntryBytes ≥ 768 * 2 ^ 20 && !s.undoWarned then
        State.raise (s.regF 0x280008 24 8) { s with undoWarned := true }
      else s
  else s

/-- The two poison records of a line's halves. -/
def State.linePoison (s : State) (line : Nat) : Nat × Nat :=
  (fget 0 (2 * line) s.poison, fget 0 (2 * line + 1) s.poison)

/-- Before a write to a device line: in device bias the line becomes dirty in its slice, a line
dirty since before the interval is first written back as part of the closed one; in host bias
the controller writes DRAM itself (12 R269, R288). -/
def State.beforeWrite (loc : Nat) (s : State) : State :=
  let line := loc / 128
  let image := s.rdMem (128 * line) 128
  if !isDev loc then s
  else if s.hostBias loc then s.undoLogLine line image (s.linePoison line)
  else
    let d' : DramLine := { interval := s.interval, bytes := image, poison := s.linePoison line }
    match tget line s.dram with
    | some d => if d.interval = s.interval then s else { s with dram := tset line d' s.dram }
    | none => { s with dram := tset line d' s.dram }

/-- Writes a dirty line back to its stack (07 R155, 12 R288). -/
def State.writeBack (line : Nat) (s : State) : State :=
  match tget line s.dram with
  | none => s
  | some d =>
    let s := { s with dram := tdel line s.dram }
    if d.interval = s.interval then s.undoLogLine line d.bytes d.poison else s

/-- Latest lease expiry granted for a line: of the line, or the eviction horizon (08 R181, R182). -/
def State.latestLease (s : State) (line : Nat) : Nat :=
  match tget line s.lines with
  | some m => m.latest
  | none => fget 0 (homeSlice (128 * line)) s.horizon

/-- What the slice keeps of a line; allocated when absent, with no lease granted yet (08 R182). -/
def State.lineMeta (s : State) (line : Nat) : LineMeta :=
  match tget line s.lines with
  | some m => m
  | none => { LineMeta.init with latest := s.latestLease line }

/-- Adds 1, saturating at 3, to a core's contention counter of a line (08 R196). -/
def State.trainPred (core line : Nat) (s : State) : State :=
  s.modCore core (fun k => { k with pred := k.pred.map (fun p =>
    if p.line = line then { p with ctr := min 3 (p.ctr + 1) } else p) })

/-- The home recalls a line that a core owns (08 R196). -/
def State.recall (line : Nat) (s : State) : State :=
  match tget line s.lines with
  | some m =>
    match m.owner with
    | some o => State.trainPred o line { s with lines := tset line { m with owner := none } s.lines }
    | none => s
  | none => s

/-- No active port leads to the peer (12 R280). -/
def State.unreachPeer (s : State) (dev : Nat) : Bool :=
  (List.range Config.ports).all (fun p =>
    !(s.regF (portOff p) 0 3 == 2 && Config.reaches p dev))

/-- A write to a line with replicas sends an invalidation to every sharer, and the object's fan-out
is in progress, or incomplete while a sharer is unreachable (12 R278, R280). -/
def State.fanOut (line : Nat) (s : State) : State :=
  s.sharers.foldl (fun s e =>
    let ds := (e.2.filter (fun x => x.2 == line)).map Prod.fst
    if ds = [] then s
    else
      State.setRegF (objOff e.1 + 0x28) 0 8 (if ds.any s.unreachPeer then 3 else 2)
        { s with inval := s.inval ++ ((ds.map (fun d => (e.1, d, line))).filter
            (fun x => !s.inval.contains x)) }) s

/-- Grants a lease on a line to a reader: length as 08 R182, expiry, latest expiry. -/
def State.grantLease (line : Nat) (s : State) : Nat × State :=
  let s := s.recall line
  let m := s.lineMeta line
  let len := if m.leased && decide (m.latest ≤ s.gtime) && !m.written then min 16384 (2 * m.lease) else m.lease
  let e := s.gtime + len
  let m' : LineMeta := { m with lease := len, latest := max m.latest e, leased := true, written := false,
                                owner := none }
  (e, { s with lines := tset line m' s.lines })

/-- Recalls a line that another core owns; `core` none: whoever owns it (08 R196). -/
def State.recallFrom (core : Option Nat) (line : Nat) (s : State) : State :=
  match tget line s.lines with
  | some m => if m.owner.isSome && m.owner == core then s else s.recall line
  | none => s

/-- A store or atomic of a core, or of another agent, arrives at a line's home: it recalls the line from
another owner, an unexpired lease halves the lease's length, and it takes its GWCT, that of a host line
from its completion at a free time (08 R182, R184, R196; 12 R272). -/
def State.arrive (core : Option Nat) (line : Nat) (s : State) : Nat × State :=
  let s := s.recallFrom core line
  let m := s.lineMeta line
  let (d, s) := if isHost (128 * line) then s.free else (if isPeer (128 * line) then 100 else 0, s)
  let g := max s.gtime m.latest + d
  let m' : LineMeta := { m with
    lease := if s.gtime < m.latest then max 64 (m.lease / 2) else m.lease, written := true }
  (g, State.fanOut line { s with lines := tset line m' s.lines, lastGwct := max s.lastGwct g })

/-- The bytes of a write at the point of coherence, their poison, and the undo log's image (08 R178; 12 R285,
R288). -/
def State.putBytes (loc : Nat) (bytes : List Byte) (s : State) : State :=
  let s := s.beforeWrite loc
  { s with mem := wrMem loc bytes s.mem, poison := poisonAfter loc bytes.length s.poison }

/-- A write performed at the point of coherence, with its GWCT (08 R178, R182, R184). -/
def State.perform (core : Option Nat) (loc : Nat) (bytes : List Byte) (s : State) : Nat × State :=
  let (g, s) := s.arrive core (loc / 128)
  (g, s.putBytes loc bytes)

/-- An LNX request waits at the head of the line's queue: no later request to the line is performed (09 R205,
R216). -/
def State.lnxHead (s : State) (line : Nat) : Bool :=
  s.warps.any (fun w => w.2.lnx.any (fun q =>
    q.head && q.reply.isNone && q.fault.isNone && q.pa / 128 == line))

/-- The page that a flip is acting on (12 R271). -/
def State.flipPage (s : State) : Option Nat := s.flip.bind (fun f => f.pages.head?)

/-- New requests to a device line are held: its page is in a flip, or the host holds the line
(12 R269, R271). -/
def State.lineHeld (s : State) (line : Nat) : Bool :=
  isDev (128 * line) && (decide (s.flipPage = some (line / 32)) ||
    (s.hostBias (128 * line) && fget 0 line s.snoop != 0))

-- translation (07 R156 to R162)

/-- Kinds of access for the permissions of 07 R161. -/
inductive Acc where | read | write | rw | fetch
deriving DecidableEq, Repr

/-- Bits [3:0] of a PROTECTION cause (10 R224). -/
def Acc.bits : Acc → Nat | .read => 1 | .write => 2 | .rw => 3 | .fetch => 4

/-- A TRANSLATION fault: reason and level (10 R224). -/
def tfault (reason level va : Nat) : FaultInfo :=
  { code := 0x05, cause := BitVec.ofNat 8 (16 * reason + level), addr := BitVec.ofNat 64 va }

/-- A PROTECTION fault: reason and kind (10 R224). -/
def pfault (reason : Nat) (a : Acc) (va : Nat) : FaultInfo :=
  { code := 0x06, cause := BitVec.ofNat 8 (16 * reason + a.bits), addr := BitVec.ofNat 64 va }

/-- Poison read from memory (10 R219, 12 R284). -/
def poisonFault (va : Nat) : FaultInfo :=
  { code := 0x07, cause := 1, addr := BitVec.ofNat 64 va }

/-- A physical access: location, memory type, physical address. -/
structure Phys where
  loc : Nat
  mt : Nat
  pa : Nat
deriving DecidableEq, Repr

/-- Result of a translation; `held` while the page is in the middle of a flip (12 R269, R271). -/
inductive Xlate where
  | ok (p : Phys)
  | bad (f : FaultInfo)
  | held (p : Phys)
deriving DecidableEq, Repr

/-- Checks a leaf: reserved bits, must-be-zero address bits, MT (07 R159; 10 R224). -/
def leafReason (e shift : Nat) : Nat :=
  if bitsOf e 52 12 ≠ 0 ∨ bitsOf e 10 2 ≠ 0 ∨ bitsOf e 12 (shift - 12) ≠ 0 then 3
  else if bitsOf e 6 2 = 3 then 4
  else 0

/-- Checks a table entry at level 2 or 1 (`low` must be zero) or 0 (07 R158; 10 R224). -/
def tableReason (e : Nat) (low : Bool) : Nat :=
  if bitsOf e 52 12 ≠ 0 ∨ bitsOf e 2 5 ≠ 0 ∨ (low ∧ bitsOf e 7 9 ≠ 0) then 3 else 0

/-- A table entry as a die's walkers hold it, else at its home slice (07 R162). -/
def State.tentry (s : State) (die pa : Nat) : Nat :=
  match s.walkCache.find? (fun e => e.1 == die && e.2.1 == pa) with
  | some e => e.2.2.toNat
  | none => leNat (s.rdMem pa 8)

/-- A table entry is read poisoned. -/
def State.tpoisoned (s : State) (die pa : Nat) : Bool :=
  s.poisoned pa && !s.walkCache.any (fun e => e.1 == die && e.2.1 == pa)

/-- A walk by a die's walkers: the leaf, its page shift and the addresses of the table entries read, or the
first failing entry's fault (07 R156 to R159, R162). -/
def State.walkVia (s : State) (die asid va : Nat) : Except FaultInfo (Nat × Nat × List Nat) :=
  let root := (s.reg64 (rootOff asid)).toNat
  if bitsOf va 55 9 ≠ 0 then .error (tfault 6 15 va)
  else if !bitOf root 0 || bitsOf root 1 15 != 0 || bitsOf root 52 12 != 0 then
    .error (tfault 5 15 va)
  else
    let a2 := bitsOf root 16 36 * 2 ^ 16 + 8 * bitsOf va 42 13
    let e2 := s.tentry die a2
    if s.tpoisoned die a2 then .error (poisonFault va)
    else if !bitOf e2 0 then .error (tfault 1 2 va)
    else if !bitOf e2 1 then .error (tfault 2 2 va)
    else if tableReason e2 true ≠ 0 then .error (tfault 3 2 va)
    else
      let a1 := bitsOf e2 7 45 * 128 + 8 * bitsOf va 29 13
      let e1 := s.tentry die a1
      if s.tpoisoned die a1 then .error (poisonFault va)
      else if !bitOf e1 0 then .error (tfault 1 1 va)
      else if !bitOf e1 1 then
        if leafReason e1 29 ≠ 0 then .error (tfault (leafReason e1 29) 1 va) else .ok (e1, 29, [a2])
      else if tableReason e1 true ≠ 0 then .error (tfault 3 1 va)
      else
        let a0 := bitsOf e1 7 45 * 128 + 8 * bitsOf va 16 13
        let e0 := s.tentry die a0
        if s.tpoisoned die a0 then .error (poisonFault va)
        else if !bitOf e0 0 then .error (tfault 1 0 va)
        else if !bitOf e0 1 then
          if leafReason e0 16 ≠ 0 then .error (tfault (leafReason e0 16) 0 va) else .ok (e0, 16, [a2, a1])
        else if tableReason e0 false ≠ 0 then .error (tfault 3 0 va)
        else
          let a3 := bitsOf e0 7 45 * 128 + 8 * bitsOf va 12 4
          let e3 := s.tentry die a3
          if s.tpoisoned die a3 then .error (poisonFault va)
          else if !bitOf e3 0 then .error (tfault 1 3 va)
          else if bitOf e3 1 then .error (tfault 2 3 va)
          else if leafReason e3 12 ≠ 0 then .error (tfault (leafReason e3 12) 3 va)
          else .ok (e3, 12, [a2, a1, a0])

/-- A walk: the leaf and its page shift. -/
def State.walk (s : State) (die asid va : Nat) : Except FaultInfo (Nat × Nat) :=
  match s.walkVia die asid va with
  | .error f => .error f
  | .ok r => .ok (r.1, r.2.1)

/-- The cached translation of a page (07 R162). -/
def tlbHit (asid va : Nat) (e : TlbEntry) : Bool := e.asid == asid && e.vpage == va / 2 ^ e.shift

/-- The leaf for an access on a die: an entry of its shared translation cache, else a walk (07 R162). -/
def State.dieLeaf (s : State) (die asid va : Nat) : Except FaultInfo (Nat × Nat) :=
  if bitsOf va 55 9 ≠ 0 then .error (tfault 6 15 va)
  else
    match s.dieTlb.find? (fun e => e.1 == die && tlbHit asid va e.2) with
    | some e => .ok (e.2.leaf.toNat, e.2.shift)
    | none => s.walk die asid va

/-- The leaf for an access of a core: an entry its TLB still holds, else its die's (07 R162). -/
def State.leafOf (s : State) (core asid va : Nat) : Except FaultInfo (Nat × Nat) :=
  if bitsOf va 55 9 ≠ 0 then .error (tfault 6 15 va)
  else
    match (s.core core).tlb.find? (tlbHit asid va) with
    | some e => .ok (e.leaf.toNat, e.shift)
    | none => s.dieLeaf (core / Config.coresPerDie) asid va

/-- Leaf permission for a kind of access (07 R161). -/
def leafPermits (e : Nat) : Acc → Bool
  | .read => bitOf e 2
  | .write => bitOf e 3
  | .rw => bitOf e 2 && bitOf e 3
  | .fetch => bitOf e 4

/-- Own partition number (12 R273). -/
def State.myPart (s : State) : Nat := s.regF 0x230004 0 16

/-- Offsets of the apertures in use that name a peer (12 R275). -/
def State.apertures (s : State) (dev : Nat) : List Nat :=
  (s.bar2.filter (fun e => decide (0x84000 ≤ e.1) && decide (e.1 < 0x86000) && e.1 % 2 == 0 &&
    bitOf e.2.toNat 21 && bitsOf e.2.toNat 0 21 == dev)).map (fun e => 4 * e.1)

/-- A peer answers this device through an aperture (12 R275). -/
def State.peerReachable (s : State) (dev : Nat) : Bool :=
  (s.apertures dev).any (fun o => s.regF o 31 1 == 0) && (Config.peerPart dev).toNat == s.myPart

/-- A core may hold a leased copy of the line: device memory in device bias, or a peer's memory
(12 R269, R272, R276). -/
def State.leasable (s : State) (line : Nat) : Bool :=
  let loc := 128 * line
  (isDev loc && !s.hostBias loc && !s.lineHeld line) ||
    (isPeer loc && s.peerReachable (peerOf loc))

/-- A peer's last active port is retraining: accesses to it are delayed (12 R274). -/
def State.stalled (s : State) (dev : Nat) : Bool :=
  (List.range Config.ports).any (fun p => s.regF (portOff p) 0 3 == 3 && Config.reaches p dev) &&
    s.unreachPeer dev

/-- The snoop filter makes the access wait for the host's response (12 R269). -/
def State.snoopHolds (s : State) (loc : Nat) (a : Acc) : Bool :=
  isDev loc && s.hostBias loc &&
    (match a with
     | .read | .fetch => fget 0 (loc / 128) s.snoop == 2
     | .write => false
     | .rw => fget 0 (loc / 128) s.snoop != 0)

/-- Checks a leaf for an access and gives the location (07 R161; 12 R268, R269, R274, R275, R281); a read
of the host window waits while the host link is down, an access to a peer while its ports retrain. A
page larger than its leaf's level is a group that a leaf with CH declares (07 R160; log entry 96). -/
def State.checkLeaf (s : State) (e shift va : Nat) (a : Acc) (priv : Bool) : Xlate :=
  let pa := bitsOf e 12 40 * 2 ^ 12 / 2 ^ shift * 2 ^ shift + va % 2 ^ shift
  let mt := bitsOf e 6 2
  let dev := decide (pa < Config.deviceTop)
  let host := isHost pa
  let fab := decide (2 ^ 51 ≤ pa) && decide (pa < 2 ^ 52)
  let ap := apOff ((pa - 2 ^ 51) / 2 ^ 39)
  if !leafPermits e a then .bad (pfault 1 a va)
  else if bitOf e 9 && !priv then .bad (pfault 2 a va)
  else if dev then
    if mt = 2 then .bad (pfault 4 a va)
    else if s.flipPage = some (pa / 4096) then .held { loc := pa, mt := mt, pa := pa }
    else if mt = 0 && s.hostBias pa then .bad (pfault 4 a va)
    else if s.snoopHolds pa a then .held { loc := pa, mt := mt, pa := pa }
    else .ok { loc := pa, mt := mt, pa := pa }
  else if host then
    if mt ≠ 1 then .bad (pfault 4 a va)
    else if s.hostLost && (a == .read || a == .fetch) then
      .bad { code := 0x10, addr := BitVec.ofNat 64 va }
    else if !s.hostUp && !s.hostLost && a != .write then .held { loc := pa, mt := mt, pa := pa }
    else .ok { loc := pa, mt := mt, pa := pa }
  else if fab then
    if s.regF ap 21 1 = 0 then .bad (pfault 3 a va)
    else if mt ≠ 2 then .bad (pfault 4 a va)
    else if s.regF ap 31 1 = 1 then .bad { code := 0x0F, addr := BitVec.ofNat 64 va }
    else if (Config.peerPart (s.regF ap 0 21)).toNat ≠ s.myPart then .bad (pfault 3 a va)
    else
      let p : Phys := { loc := peerLoc (s.regF ap 0 21) (pa % 2 ^ 39), mt := mt, pa := pa }
      if s.stalled (s.regF ap 0 21) then .held p else .ok p
  else .bad (pfault 3 a va)

/-- Translates an access of a warp on a core (07 R156 to R162). -/
def State.translate (s : State) (core asid va : Nat) (a : Acc) (priv : Bool) : Xlate :=
  match s.leafOf core asid va with
  | .error f => .bad f
  | .ok (e, sh) => s.checkLeaf e sh va a priv

/-- The address space through which a device agent acts: ASID, the die whose translations it shares, and
whether it acts for a group in handler or graft mode (07 R161, R162). -/
structure Via where
  asid : Nat
  die : Nat := 0
  priv : Bool := false
deriving DecidableEq, Repr

/-- An agent of the package, and one of a core's die. -/
def via (asid : Nat) : Via := { asid := asid }
def viaCore (asid core : Nat) : Via := { asid := asid, die := core / Config.coresPerDie }

/-- Translates an access of a device agent (07 R161, R162). -/
def State.devTranslate (s : State) (v : Via) (va : Nat) (a : Acc) : Xlate :=
  match s.dieLeaf v.die v.asid va with
  | .error f => .bad f
  | .ok (e, sh) => s.checkLeaf e sh va a v.priv

-- accesses of device agents to virtual memory

/-- Not a fault: the access of a device agent has to wait (12 R269, R271). -/
def heldFault : FaultInfo := { code := 0 }

/-- Reads bytes at a virtual address for a device agent, 16-byte unit by unit; held or faulting
units end it. -/
def State.devRead (s : State) (v : Via) (va : Nat) : Nat → Nat → Except FaultInfo (List Byte)
  | 0, _ => .ok []
  | fuel + 1, n =>
    if n = 0 then .ok []
    else
      let k := min n (16 - va % 16)
      match s.devTranslate v va .read with
      | .bad f => .error f
      | .held _ => .error heldFault
      | .ok p =>
        if s.poisonedR p.loc k then .error (poisonFault va)
        else
          match State.devRead s v (va + k) fuel (n - k) with
          | .error f => .error f
          | .ok r => .ok (s.rdMem p.loc k ++ r)

/-- Reads `n` bytes at a virtual address for a device agent. -/
def State.vRead (s : State) (v : Via) (va n : Nat) : Except FaultInfo (List Byte) :=
  s.devRead v va (n / 16 + 2) n

/-- A write is lost with its host (12 R281) or its peer; device agents drop it. -/
def State.writeDropped (s : State) (loc : Nat) : Bool := isHost loc && s.hostLost

/-- Where each 16-byte unit of a device agent's write goes, or the first fault: it waits for a host that
holds a line, for the host link, and behind an LNX (09 R216; 12 R269, R271, R281). -/
def State.devPlaces (s : State) (v : Via) (va : Nat) : Nat → Nat → Except FaultInfo (List (Nat × Nat))
  | 0, _ => .ok []
  | fuel + 1, n =>
    if n = 0 then .ok []
    else
      let k := min n (16 - va % 16)
      match s.devTranslate v va .write with
      | .bad f => .error f
      | .held _ => .error heldFault
      | .ok p =>
        if s.writeDropped p.loc then .error { code := 0x10, addr := BitVec.ofNat 64 va }
        else if (isHost p.loc && !s.hostUp) || s.lineHeld (p.loc / 128) || s.lnxHead (p.loc / 128) then
          .error heldFault
        else
          match State.devPlaces s v (va + k) fuel (n - k) with
          | .error f => .error f
          | .ok r => .ok ((p.loc, k) :: r)

/-- Performs the units of a device agent's write; the latest GWCT. -/
def State.performUnits : List (Nat × Nat) → List Byte → Nat → State → Nat × State
  | [], _, g, s => (g, s)
  | u :: r, bs, g, s =>
    let x := s.perform none u.1 (bs.take u.2)
    State.performUnits r (bs.drop u.2) (max g x.1) x.2

/-- Writes bytes at a virtual address for a device agent: the latest GWCT, or a fault with nothing
written. -/
def State.vWrite (v : Via) (va : Nat) (bs : List Byte) (s : State) : Except FaultInfo Nat × State :=
  match s.devPlaces v va (bs.length / 16 + 2) bs.length with
  | .error f => (.error f, s)
  | .ok us =>
    let (g, s) := State.performUnits us bs 0 s
    (.ok g, s)

-- the core's cached copies (08 R181, R183)

/-- A cached line may be read now: before expiry less the guard (08 R183). -/
def State.leaseValid (s : State) (c : CLine) : Bool := decide (s.gtime + c.guard < c.expiry)

/-- Poisoned halves of a line. -/
def State.lineBad (s : State) (line : Nat) : Nat :=
  b2n (s.poisoned (128 * line)) + 2 * b2n (s.poisoned (128 * line + 64))

/-- A fresh copy of a line under a new lease (01 R17, 08 R181). -/
def State.fetchLine (line : Nat) (s : State) : CLine × State :=
  let (e, s) := s.grantLease line
  ({ line := line, expiry := e, guard := if isPeer (128 * line) then 100 else 4,
     data := s.rdMem (128 * line) 128, bad := s.lineBad line }, s)

/-- The home answers a core's read request: the line comes into its L1 under a lease (08 R181, R182). -/
def State.l1Fill (core line : Nat) (s : State) : State :=
  let (c, s) := s.fetchLine line
  s.modCore core (fun k => { k with l1 := c :: k.l1.filter (fun x => x.line != line) })

/-- The line in the checker cache under a valid lease, fetched when absent or expired (01 R17). -/
def State.ccLine (core line : Nat) (s : State) : CLine × State :=
  match (s.core core).cc.find? (fun c => c.line == line && s.leaseValid c) with
  | some c => (c, s)
  | none =>
    let (c, s) := s.fetchLine line
    (c, s.modCore core (fun k => { k with cc := c :: k.cc.filter (fun x => x.line != line) }))

/-- Copies of a line follow the home's present bytes. -/
def refreshCopies (s : State) (line : Nat) (cs : List CLine) : List CLine :=
  cs.map (fun c =>
    if c.line = line then
      { c with data := s.rdMem (128 * line) 128, bad := s.lineBad line }
    else c)

/-- The core's copies of a performed or strongly read line follow the home (08 R179). -/
def State.refresh (core line : Nat) (s : State) : State :=
  s.modCore core (fun k =>
    { k with cc := refreshCopies s line k.cc, l1 := refreshCopies s line k.l1 })

/-- What a load's check found stands no longer: the check is made again (01 R26; 08 R190). -/
def Outstanding.uncheck (o : Outstanding) : Outstanding :=
  if o.ran then { o with checked := false, ran := false } else o

/-- The checks of some warp's loads, or of every warp's, are made again (08 R190). -/
def State.recheck (core : Nat) (wid : Option Nat) (s : State) : State :=
  s.modCore core (fun k => { k with out := k.out.map (fun e =>
    if wid.all (fun w => w == e.2.wid) then (e.1, e.2.uncheck) else e) })

/-- Two accesses, as (lane, place, length), share a byte in one lane. -/
def readsMeet (a b : List (Nat × Nat × Nat)) : Bool :=
  a.any (fun x => b.any (fun y => x.1 == y.1 && decide (x.2.1 < y.2.1 + y.2.2) &&
    decide (y.2.1 < x.2.1 + x.2.2)))

/-- The checks of a warp's later loads that read bytes of an access just performed are made again, so
that a thread's accesses to a byte are performed in program order (01 R19; 08 R179). `seq`: the
number after which a packet is later; none: all are. -/
def State.recheckMeet (core wid : Nat) (seq : Option (BitVec 8)) (rs : List (Nat × Nat × Nat)) (s : State) :
    State :=
  let late (o : Outstanding) : Bool := seq.all (fun n =>
    o.p.seq != n && decide ((o.p.seq - n).toNat < 128))
  s.modCore core (fun k => { k with out := k.out.map (fun e =>
    if e.2.wid = wid ∧ late e.2 ∧ readsMeet rs e.2.reads then (e.1, e.2.uncheck) else e) })

/-- Drops every lease of a core; checks made under them are made again (08 R190). -/
def State.dropLeases (core : Nat) (s : State) : State :=
  (s.modCore core (fun k => { k with cc := [], l1 := [] })).recheck core none

/-- One byte as a thread sees it: its youngest own store still in the store queue, else `b`
(01 R19). -/
def fwdByte (sq : List SqEntry) (wid lane loc : Nat) (b : Byte) : Byte :=
  sq.foldl (fun b e =>
    if e.wid = wid then
      e.writes.foldl (fun b w =>
        if w.1 = lane ∧ w.2.1 ≤ loc ∧ loc < w.2.1 + w.2.2.length then
          w.2.2.getD (loc - w.2.1) b else b) b
    else b) b

/-- Bytes with the thread's own earlier stores put in (01 R19). -/
def fwdBytes (sq : List SqEntry) (wid lane : Nat) : Nat → List Byte → List Byte
  | _, [] => []
  | loc, b :: r => fwdByte sq wid lane loc b :: fwdBytes sq wid lane (loc + 1) r

/-- Every byte of a range is covered by the thread's own stores in the queue. -/
def fwdAll (sq : List SqEntry) (wid lane loc n : Nat) : Bool :=
  (List.range n).all (fun k => sq.any (fun e => e.wid == wid && e.writes.any (fun w =>
    w.1 == lane && decide (w.2.1 ≤ loc + k) && decide (loc + k < w.2.1 + w.2.2.length))))

/-- A weak load of `n` bytes: through the checker cache under a lease, host-coherent and host
lines at their coherence point (01 R17, R19; 08 R183). None: the bytes are poisoned. -/
def State.weakLoad (core wid lane : Nat) (p : Phys) (n : Nat) (s : State) :
    Option (List Byte) × State :=
  let sq := (s.core core).sq
  if p.mt = 1 then
    if s.poisonedR p.loc n && !fwdAll sq wid lane p.loc n then (none, s)
    else
      let line := p.loc / 128
      (some (fwdBytes sq wid lane p.loc (s.rdMem p.loc n)),
       if isHost p.loc && !s.hostCopies.contains line then
         { s with hostCopies := s.hostCopies ++ [line] } else s)
  else
    let (c, s) := s.ccLine core (p.loc / 128)
    if bitOf c.bad (p.loc % 128 / 64) && !fwdAll sq wid lane p.loc n then (none, s)
    else (some (fwdBytes sq wid lane p.loc ((c.data.drop (p.loc % 128)).take n)), s)

/-- A strong load of `n` bytes at the point of coherence; the home recalls the line from a core that owns it
(08 R186, R188, R196). -/
def State.strongLoad (core : Nat) (p : Phys) (n : Nat) (s : State) : Option (List Byte) × State :=
  let s := s.recallFrom (some core) (p.loc / 128)
  if s.poisonedR p.loc n then (none, s)
  else (some (s.rdMem p.loc n), s.refresh core (p.loc / 128))

-- scratch spaces (07 R150 to R152)

/-- The place of a byte of a space; `gone` is a block's part of cluster scratch after the block
has been released (07 R151), which reads as a free value. -/
inductive Place where
  | glob (p : Phys)
  | scr (core off : Nat)
  | chip (off : Nat)
  | gone
deriving DecidableEq, Repr

/-- The key of a place in a store queue; none where nothing is kept. -/
def Place.key : Place → Option Nat
  | .glob p => some p.loc
  | .scr c o => some (scrKey c o)
  | .chip o => some (chipKey o)
  | .gone => none

def rdFMap (m : FMap Byte) : Nat → Nat → List Byte
  | _, 0 => []
  | a, n + 1 => fget 0 a m :: rdFMap m (a + 1) n

def State.rdScratch (s : State) : Place → Nat → List Byte
  | .glob p, n => s.rdMem p.loc n
  | .scr c o, n => rdFMap (s.core c).scratch o n
  | .chip o, n => rdFMap s.chip o n
  | .gone, n => natLe n (Config.freeNat s.fresh)

def State.wrScratch (p : Place) (bs : List Byte) (s : State) : State :=
  match p with
  | .glob _ => s
  | .scr c o => s.modCore c (fun k => { k with scratch := wrMem o bs k.scratch })
  | .chip o => { s with chip := wrMem o bs s.chip }
  | .gone => s

/-- Writes bytes of scratch by their key. -/
def State.wrKey (loc : Nat) (bs : List Byte) (s : State) : State :=
  if 2 ^ 101 ≤ loc then s.wrScratch (.chip (loc - 2 ^ 101)) bs
  else s.wrScratch (.scr ((loc - 2 ^ 100) / 2 ^ 40) (loc % 2 ^ 40)) bs

end Sys2Proof.Machine
end

