-- ==== Sys2Proof/Machine/Ops.lean ====
section
/-!
DEFINITION. Shared operations: the schedule, the issue context of a warp instruction, graft
matching, the core queues, taking a fault and returning from one, rejoin masks, barriers and
the end of threads and blocks (03 R75 to R77; 04 R88 to R98; 10 R219 to R231; 11 R248 to R253).
-/

set_option Elab.async false

namespace Sys2Proof.Machine

/-- Who moves next: nothing constrains it (log entry 1). -/
opaque schedule : Nat → Turn

/-- The end of every step: the counters advance, global time advances by a free amount, and the
schedule names the next agent (log entries 1, 2, 5). -/
def State.finish (s : State) : State :=
  { s with tick := s.tick + 1, fresh := s.fresh + 1, gtime := s.gtime + Config.freeNat s.fresh,
           turn := schedule s.tick }

-- graft slots (11 R246 to R250)

/-- Bits of a slot. -/
def slotF (x : BitVec 512) (lo w : Nat) : Nat := bitsOf x.toNat lo w

/-- Slot `x` acts on match value `v` (11 R249). -/
def slotActs (x : BitVec 512) (v : Nat) (fk g16 : Bool) : Bool :=
  slotF x 287 1 == 1 && slotF x 284 1 == b2n fk &&
    (slotF x 280 2 == 0 || (slotF x 280 2 == 1 && g16) || (slotF x 280 2 == 2 && !g16)) &&
    (v &&& slotF x 64 64) == slotF x 0 64

/-- SelectSlot (11 R249). -/
def selectSlot (slots : List (BitVec 512)) (v : Nat) (fk g16 : Bool) : Option Nat :=
  [3, 2, 1, 0].findSome? (fun cls =>
    (List.range 32).find? (fun k =>
      slotActs (slots.getD k 0) v fk g16 && slotF (slots.getD k 0) 285 2 == cls))

/-- What a slot does with an instruction. -/
inductive GAct where
  | native
  | trap (slot : Nat)
  | rewrite (ws : List Word)
  | emulate (slot : Nat)
deriving DecidableEq, Repr

/-- One field move of REWRITE (11 R246, R250). -/
def fieldMove (w n mv : Nat) : Nat :=
  if bitOf mv 15 then putBits n (bitsOf mv 0 6) 7 (bitsOf w (bitsOf mv 6 6) 7) else n

/-- The action of the slots on an instruction of `n` words whose words and successors are `ws`
(11 R248 to R250). -/
def graftAct (slots : List (BitVec 512)) (g16 : Bool) (n : Nat) (ws : List Word) : GAct :=
  let w := (ws.getD 0 0).toNat + 2 ^ 32 * (ws.getD 1 0).toNat
  match selectSlot slots w false g16 with
  | none => .native
  | some k =>
    let x := slots.getD k 0
    match slotF x 282 2 with
    | 0 => .trap k
    | 1 =>
      let t := (w &&& slotF x 128 64) ||| slotF x 192 64
      let t := fieldMove w t (slotF x 288 16)
      let t := fieldMove w t (slotF x 304 16)
      let w0 := BitVec.ofNat 32 t
      let w1 := BitVec.ofNat 32 (t / 2 ^ 32)
      if lengthOf w0 ≠ n then .trap k
      else if n = 1 then .rewrite [w0]
      else .rewrite (w0 :: w1 :: (ws.drop 2).take (n - 2))
    | _ => .emulate k

/-- The slots and region of a generation (11 R256). -/
def State.graftOf (s : State) (gen : Nat) : GraftGen :=
  if s.graft.gen = gen then s.graft
  else match s.graftOld with
    | some g => if g.gen = gen then g else s.graft
    | none => s.graft

-- the issue context

/-- Index and length of the instruction at word offset `off` of a run's body. -/
def instrAt : Nat → List Word → Nat → Nat → Option (Nat × Nat)
  | 0, _, _, _ => none
  | fuel + 1, ws, off, idx =>
    match ws with
    | [] => none
    | w :: _ =>
      let n := lengthOf w
      if off = 0 then some (idx, n)
      else if off < n then none
      else instrAt fuel (ws.drop n) (off - n) (idx + 1)

/-- Stall code of instruction k of a run (14 R308). -/
def stallCode (trailer : List Word) (k : Nat) : Nat :=
  if k < 16 then bitsOf (trailer.getD 2 0).toNat (2 * k) 2
  else bitsOf (trailer.getD 3 0).toNat (2 * (k - 16)) 2

/-- What a warp instruction needs to know of its issue: sequencer, warp, lanes, addresses, words
after rewriting, place in the run, modes and the wait it comes back from. -/
structure Ctx where
  core : Nat
  part : Nat
  seq : Nat
  wid : Nat
  mask : Mask
  pc : DWord
  start : DWord
  nxt : DWord
  words : List Word
  raw : List Word
  n : Nat
  idx : Nat
  last : Bool
  sc : Nat
  gen : Nat
  score : Bool
  inGraft : Bool
  inHandler : Bool
  tag : Option WaitTag
deriving DecidableEq, Repr

/-- A group as it waits in a list: 32 times its warp plus its lowest lane. -/
def Ctx.who (c : Ctx) : Nat := 32 * c.wid + lowLane c.mask

/-- The lanes of a bound group that still stand inside its run. -/
def Warp.inRun (w : Warp) (b : Binding) : List Nat :=
  (lanesOf b.mask).filter (fun l =>
    (w.lane l).st == .live && decide ((w.lane l).run = some b.start))

/-- The instruction that a bound group issues next: that of its lanes standing earliest in the
run (they differ only while lanes of a RETRY lag, 11 R251). -/
def bindCtx (s : State) (core part seq : Nat) (b : Binding) (r : Run) (w : Warp) : Option Ctx :=
  match minBy (fun l => (w.lane l).pc.toNat) (w.inRun b) with
  | none => none
  | some l0 =>
    let pc := (w.lane l0).pc
    let off := (pc - b.start).toNat / 4
    match instrAt 25 r.words off 0 with
    | none => none
    | some (idx, n) =>
      let raw := (r.words ++ r.trailer).drop off
      let ws := raw.take n
      let m := maskOf ((w.inRun b).filter (fun l => (w.lane l).pc == pc))
      let ws' := if b.inGraft then ws else
        match graftAct (s.graftOf b.gen).slots w.g16 n raw with
        | .rewrite ws' => ws'
        | _ => ws
      some { core := core, part := part, seq := seq, wid := b.wid, mask := m, pc := pc,
             start := b.start, nxt := b.start + BitVec.ofNat 64 (4 * (r.words.length + 4)),
             words := ws', raw := raw, n := n, idx := idx, last := decide (idx + 1 = r.count),
             sc := stallCode r.trailer idx, gen := b.gen, score := (w.lane l0).score, inGraft := b.inGraft,
             inHandler := w.inHandler l0, tag := b.tag }

/-- The binding of a sequencer. -/
def State.seqAt (s : State) (core part seq : Nat) : Option Binding :=
  (s.core core).seqs.getD (2 * part + seq) none

/-- The issue context that the turn names, if its sequencer is bound to a warp of its core and its
run is fetched. -/
def State.ctx? (s : State) : Option Ctx :=
  match s.turn with
  | .issue core part seq =>
    match s.seqAt core part seq with
    | none => none
    | some b =>
      match b.run, s.warp b.wid with
      | some r, some w => if s.coreOf b.wid = core then bindCtx s core part seq b r w else none
      | _, _ => none
  | _ => none

/-- How a group goes on after an instruction: at the next one, at a target per lane (lanes not
listed fall through at the end of the run), waiting at it, or as the meaning has placed it. -/
inductive Flow where
  | seq
  | jump (t : List (Nat × DWord))
  | stay (why : WaitWhy) (phase arg : Nat)
  | placed
deriving DecidableEq, Repr

/-- What a meaning answers: the state, the lanes that fault, and how the others go on. -/
structure Res where
  s : State
  faults : List (Nat × FaultInfo)
  flow : Flow

/-- Nothing faulted; the group goes on. -/
def Res.ok (s : State) : Res := { s := s, faults := [], flow := .seq }
/-- The group waits at its instruction. -/
def Res.wait (why : WaitWhy) (phase arg : Nat) (s : State) : Res :=
  { s := s, faults := [], flow := .stay why phase arg }
/-- A group fault: every lane of the group (10 R219). -/
def Res.fault (c : Ctx) (f : FaultInfo) (s : State) : Res :=
  { s := s, faults := (lanesOf c.mask).map (fun l => (l, f)), flow := .seq }

-- uniform specifiers (14 R303)

/-- A uniform special by its specifier code, for the group whose lowest lane is `l`. -/
def State.special (s : State) (wid l code : Nat) : Word :=
  match s.warp wid, s.block (blkOf wid) with
  | some w, some b =>
    match s.launch b.launch with
    | none => 0
    | some L =>
      match code with
      | 0x71 => BitVec.ofNat 32 (w.warpNo l)
      | 0x72 => BitVec.ofNat 32 (b.num L)
      | 0x73 => BitVec.ofNat 32 b.cluster
      | 0x74 => BitVec.ofNat 32 b.rank
      | 0x75 => BitVec.ofNat 32 w.role
      | 0x76 => BitVec.ofNat 32 b.core
      | 0x77 => BitVec.ofNat 32 w.partNo
      | 0x78 => w.gang
      | 0x79 => BitVec.ofNat 32 L.id
      | 0x7A => BitVec.ofNat 32 (L.id / 2 ^ 32)
      | _ => 0
  | _, _ => 0

/-- A uniform specifier by its code. -/
def State.rdUCode (s : State) (wid l code : Nat) : Word :=
  if code < 112 then
    match s.warp wid with
    | some w => w.rdS l code
    | none => 0
  else s.special wid l code

/-- A uniform specifier read at 32 bits by the group of a context. -/
def State.rdU (s : State) (c : Ctx) (u : USpec) : Word := s.rdUCode c.wid (lowLane c.mask) u.code

/-- A uniform pair: zero gives 0, %launch its 64 bits, else specifiers n and n + 1 (14 R303). -/
def State.rdU64 (s : State) (c : Ctx) (u : USpec) : DWord :=
  match u with
  | .zero => 0
  | u => pair (s.rdU c u) (s.rdUCode c.wid (lowLane c.mask) (u.code + 1))

/-- Writes a uniform register; zero discards. -/
def State.wrU (c : Ctx) (u : USpec) (x : Word) (s : State) : State :=
  match u with
  | .s n => s.modWarp c.wid (Warp.wrS (lowLane c.mask) n.val x)
  | _ => s

def State.wrU64 (c : Ctx) (u : USpec) (x : DWord) (s : State) : State :=
  match u with
  | .s n => s.modWarp c.wid (fun w =>
      Warp.wrS (lowLane c.mask) (n.val + 1) (hiW x) (Warp.wrS (lowLane c.mask) n.val (loW x) w))
  | _ => s

-- core queues and spill rings (03 R75 to R77)

/-- The 64 bytes of a fault record (10 R223). -/
def FaultRec.bytes (r : FaultRec) : List Byte :=
  natLe 1 r.info.code.toNat ++ natLe 1 r.info.cause.toNat ++
  natLe 1 (b2n r.nested + 2 * b2n r.graft + 4 * b2n r.info.engine + 8 * b2n r.host) ++
  natLe 1 r.warp ++ natLe 4 r.mask.toNat ++ natLe 8 r.pc.toNat ++ natLe 4 r.words.1.toNat ++
  natLe 4 r.words.2.toNat ++ natLe 8 r.info.addr.toNat ++ natLe 8 r.info.aux0.toNat ++
  natLe 8 r.info.aux1.toNat ++ natLe 8 r.launch ++ natLe 4 r.block ++ natLe 1 r.core ++
  natLe 3 r.seq.toNat

/-- The 16 words of a fault record, as the handler and graft banks hold it (10 R227). -/
def FaultRec.bank (r : FaultRec) : List Word :=
  (List.range 16).map (fun k => BitVec.ofNat 32 (leNat ((r.bytes.drop (4 * k)).take 4)))

/-- The 64 bytes of a copy command (07 R170). -/
def CopyCmd.bytes (c : CopyCmd) (slot : Nat) : List Byte :=
  natLe 8 (encCpyCtl c.ctl).toNat ++ natLe 8 c.saddr.toNat ++ natLe 8 c.daddr.toNat ++
  natLe 4 c.len ++ natLe 2 0 ++ natLe 1 (c.wid % 32) ++ natLe 1 slot ++ natLe 8 c.launch ++
  natLe 8 c.progress ++ natLe 16 0

/-- Queue entries that an item takes (03 R75, 10 R234). -/
def QEntry.weight : QEntry → Nat
  | .wcall r => r.here
  | .wmore _ n => n
  | _ => 1

def qWeight (q : List QEntry) : Nat := (q.map QEntry.weight).sum

/-- Entries of a spill path that stand in the ring. -/
def ringCount (es : List SpillEntry) : Nat :=
  ((es.filter (fun e => e.st == .inRing)).map (fun e => e.e.weight)).sum

def spillKey (job core : Nat) : Nat := 256 * job + core

/-- The block slot of a block on its core. -/
def State.slotOf (s : State) (blk : Nat) : Nat := ((s.block blk).map (·.slot)).getD 0

/-- The 64-byte entries of an item as the spill ring receives them; those of a WCALL have no
layout in the spec and are free values (log entry 21). -/
def State.entryBytes (s : State) (e : QEntry) : List (List Byte) × State :=
  match e with
  | .copy c => ([c.bytes (s.slotOf c.blk)], s)
  | .trap wid id =>
    match (s.warp wid).bind (fun w => w.parked.find? (fun p => p.id == id)) with
    | some p => ([p.record.bytes], s)
    | none => ([], s)
  | .wcall _ | .wmore _ _ =>
    ((List.range e.weight).map (fun k => natLe 64 (Config.freeNat (s.fresh + k))),
     { s with fresh := s.fresh + e.weight })

/-- Writes items at the ring's tail, entry by entry. -/
def State.ringWrite (job core : Nat) : Nat → List (List Byte) → State → Option FaultInfo × State
  | _, [], s => (none, s)
  | t, b :: r, s =>
    let q := s.jQuota job
    let va := (s.reg64 (jOff job)).toNat + 64 * q * core + 64 * (t % q)
    match s.vWrite (viaCore (s.jAsid job) core) va b with
    | (.error f, s) => (some f, s)
    | (.ok _, s) => State.ringWrite job core (t + 1) r s

/-- The part of an item that takes `k` free queue entries, and the part that is left (03 R75). -/
def QEntry.split (k : Nat) (e : QEntry) : Option QEntry × Option QEntry :=
  if e.weight ≤ k then (some e, none)
  else if k = 0 then (none, some e)
  else
    match e with
    | .wcall r => (some (.wcall { r with here := k }), some (.wmore r.job (r.here - k)))
    | .wmore j n => (some (.wmore j k), some (.wmore j (n - k)))
    | e => (none, some e)

/-- Puts an item at the tail of a queue; the later entries of a WCALL join its first ones. -/
def queuePut (e : QEntry) (q : List QEntry) : List QEntry :=
  match e with
  | .wmore j n => q.map (fun x => match x with
    | .wcall r => if r.job = j ∧ r.here < 9 then .wcall { r with here := r.here + n } else x
    | x => x)
  | e => q ++ [e]

/-- Free entries of a core's queue. -/
def State.queueFree (s : State) (core : Nat) : Nat := 64 - qWeight (s.core core).queue

/-- Places an item in the core's queue or on its job's spill path, entry by entry (03 R75 to R77). A trap
record is always kept; a copy command or a WCALL may fault, and then places nothing. -/
def State.placeEntry (core job : Nat) (e : QEntry) (s : State) : Except FaultInfo State :=
  let key := spillKey job core
  let es := tgetD [] key s.spill
  let isTrap := match e with | .trap _ _ => true | _ => false
  let (now, later) := if es.isEmpty then e.split (s.queueFree core) else (none, some e)
  let enter (s : State) : State := match now with
    | some x => s.modCore core (fun k => { k with queue := queuePut x k.queue })
    | none => s
  match later with
  | none => .ok (enter s)
  | some x =>
    let put (st : SpillSt) (s : State) : State :=
      { s with spill := tset key (es ++ [{ e := x, st := st }]) s.spill }
    if ringCount es + x.weight > s.jQuota job then
      if isTrap then .ok (put .noRoom s) else .error { code := 0x0B }
    else
      let (bs, s1) := s.entryBytes x
      match s1.ringWrite job core (fget 0 key s.spillHead + ringCount es) bs with
      | (none, s2) => .ok (enter (put .inRing s2))
      | (some f, s2) => if isTrap then .ok (put .faulted s2) else .error f

-- parking (10 R221, R222)

/-- Where a fault is raised: warp, instruction address, the address that the record shows (the run's start
where the fetch faulted, 10 R223), run, next run, words, slot generation and SCORE of the run. -/
structure FaultAt where
  wid : Nat
  pc : DWord
  shown : DWord
  run : Option DWord
  nxt : DWord
  words : Word × Word
  gen : Nat
  score : Bool
deriving DecidableEq, Repr

/-- The words of a fault record: the second word of a one-word instruction is zero (10 R223). -/
def recWords (ws : List Word) : Word × Word := (ws.getD 0 0, ws.getD 1 0)

def Ctx.at (c : Ctx) : FaultAt :=
  { wid := c.wid, pc := c.pc, shown := c.pc, run := some c.start, nxt := c.nxt, words := recWords c.words,
    gen := c.gen, score := c.score }

/-- The temporaries of lanes, by 32 t + lane. -/
def Warp.temps (m : Mask) (w : Warp) : FMap Word :=
  (List.range 8).foldl (fun acc t =>
    (lanesOf m).foldl (fun acc l => fset 0 (32 * t + l) (fget 0 (32 * (112 + t) + l) w.v) acc)
      acc) []

/-- The stream elements that lanes hold, by lane (07 R166). -/
def Warp.elems (m : Mask) (w : Warp) : FMap Nat :=
  (lanesOf m).foldl (fun t l =>
    match (w.lane l).elem with | some n => finsert l n t | none => t) []

/-- Sets the temporaries of lanes from saved ones; an empty map zeroes them (04 R86). -/
def Warp.setTemps (m : Mask) (ts : FMap Word) (w : Warp) : Warp :=
  let v := (List.range 8).foldl (fun v t =>
    (lanesOf m).foldl (fun v l => fset 0 (32 * (112 + t) + l) (fget 0 (32 * t + l) ts) v) v) w.v
  { w with v := v }

/-- Takes lanes out of the groups bound to sequencers or waiting; an empty group leaves. -/
def State.unbind (wid : Nat) (m : Mask) (s : State) : State :=
  let cut (b : Binding) : Option Binding :=
    if b.wid = wid then
      if b.mask &&& ~~~m = 0 then none else some { b with mask := b.mask &&& ~~~m }
    else some b
  (s.modCore (s.coreOf wid) (fun k => { k with seqs := k.seqs.map (fun o => o.bind cut) }))
    |>.modWarp wid (fun w => { w with waits := w.waits.filterMap cut })

/-- Saturating 32-bit increment (02 R56). -/
def satInc (n : Nat) : Nat := min (n + 1) (2 ^ 32 - 1)

/-- The fault record of lanes (10 R223, R224). -/
def State.faultRec (s : State) (a : FaultAt) (m : Mask) (f : FaultInfo) : FaultRec :=
  let l := lowLane m
  let w := s.warp a.wid
  let bn := match s.block (blkOf a.wid), s.launchOf a.wid with
    | some b, some L => b.num L
    | _, _ => 0
  { info := f, seq := 0, core := s.coreOf a.wid, block := bn,
    launch := ((s.launchOf a.wid).map (·.id)).getD 0, words := a.words, pc := a.shown, mask := m,
    warp := (w.map (fun w => w.warpNo l)).getD 0,
    nested := (w.map (fun w => w.inHandler l)).getD false,
    graft := (w.map (fun w => w.inGraft l)).getD false, host := false }

/-- Adds a parked sub-warp; its lanes leave their group (10 R221). -/
def State.addParked (a : FaultAt) (m : Mask) (r : FaultRec) (st : ParkSt) (s : State) : State :=
  let tb := ((s.launchOf a.wid).map (·.trapbase)).getD 0
  let id := s.nextPark
  let s := s.unbind a.wid m
  State.modWarp a.wid (fun w =>
    let p : Parked := { id := id, mask := m, pc := a.pc, run := a.run, nxt := a.nxt, record := r,
                        temps := w.temps m, st := st, gen := a.gen, score := a.score, elems := w.elems m,
                        entry := tb &&& 0x7FFFFFFFFFFFFC }
    { (w.modLanes m (fun l => { l with pc := a.pc, run := a.run, nxt := a.nxt, gen := a.gen, score := a.score })) with
      parked := w.parked ++ [p] }) { s with nextPark := id + 1 }

/-- Delivers a fault: FAULTS and FIRST, the parked sub-warp, and its trap record to the core's
queue; bound for the handler when EN is 1 and the fault was raised in neither handler nor graft
mode (10 R221, R225, R226; 11 R253). -/
def State.deliver (a : FaultAt) (m : Mask) (f : FaultInfo) (s : State) : State :=
  let r := s.faultRec a m f
  let en := ((s.launchOf a.wid).map (fun L => L.trapbase.getLsbD 0)).getD false
  let r := { r with host := r.nested || r.graft || !en }
  let id := s.nextPark
  let job := s.jobOf a.wid
  let core := s.coreOf a.wid
  let s := (s.addParked a m r .queued).modLaunch
    (((s.block (blkOf a.wid)).map (·.launch)).getD 0) (fun L =>
      { L with first := if L.faults = 0 then f.code else L.first, faults := satInc L.faults })
  match s.placeEntry core job (.trap a.wid id) with
  | .ok s => s
  | .error _ => s

-- graft mode (11 R252)

/-- A lane-set specifier code as a graft operand: what the warp could not name reads zero. -/
def Warp.graftL (w : Warp) (l code : Nat) : Word :=
  if code < 112 then (if code < w.vregs then fget 0 (32 * code + l) w.v else 0)
  else if code < 120 then fget 0 (32 * code + l) w.v
  else if code = 0x79 then BitVec.ofNat 32 (w.laneNo l)
  else 0

/-- A uniform specifier code as a graft operand. -/
def State.graftU (s : State) (wid l code : Nat) : Word :=
  match s.warp wid with
  | none => 0
  | some w =>
    if code < 112 then
      if code < w.sregs ∨ (96 ≤ code ∧ w.inHandler l) then w.rdS l code else 0
    else s.special wid l code

/-- The six graft registers of operand specifiers a, b, c. -/
def graftOps (rd : Nat → Word) (z : Nat) (w64 : Bool) (codes : List Nat) : List Word :=
  codes.flatMap (fun k => [if k = z then 0 else rd k, if w64 && k != z then rd (k + 1) else 0])

/-- Lanes enter graft mode under a slot (11 R252): operands, bank, and the routine's start. -/
def State.enterGraft (a : FaultAt) (m : Mask) (slot n : Nat) (words : List Word) (last : Bool)
    (rec : Option FaultRec) (s : State) : State :=
  let x := (s.graftOf a.gen).slots.getD slot 0
  let w64 := slotF x 278 1 == 1
  let w0 := (words.getD 0 0).toNat
  let w1 := (words.getD 1 0).toNat
  let codes := [bitsOf w0 7 7, bitsOf w0 0 7] ++ (if n ≥ 2 then [bitsOf w1 25 7] else [])
  let l0 := lowLane m
  let uops := if bitOf w0 31 then graftOps (s.graftU a.wid l0) 0x70 w64 codes else []
  let bank := match rec with
    | some r => r.bank
    | none =>
      let b := [loW a.pc, hiW a.pc, words.getD 0 0, words.getD 1 0, BitVec.ofNat 32 slot, m]
        ++ uops
      b ++ List.replicate (16 - b.length) 0
  let s := s.unbind a.wid m
  s.modWarp a.wid (fun w =>
    let regs := (lanesOf m).foldl (fun acc l =>
      let ops := graftOps (w.graftL l) 0x78 w64 codes
      (List.range ops.length).foldl (fun acc k => fset 0 (32 * k + l) (ops.getD k 0) acc) acc) []
    let g : GraftMode :=
      { mask := m, bank := bank, regs := regs, words := words, ctrl := BitVec.ofNat 32
          (slotF x 256 32), isFault := rec.isSome, run := a.run,
        after := a.pc + BitVec.ofNat 64 (4 * n), atEnd := last, nxt := a.nxt,
        temps := w.temps m, gen := a.gen, score := a.score }
    let w := Warp.freshKeys (fun k => decide (graftKey ≤ k ∧ k < graftKey + 16) || decide (1128 ≤ k ∧ k < 1136) ||
      decide (32 * 1128 ≤ k)) { w with graft := some g }
    (w.setTemps m []).modLanes m (fun l =>
      { l with pc := BitVec.ofNat 64 (4 * slotF x 256 16), run := none, elem := none }))

-- taking a fault (10 R220, R221; 11 R251)

/-- What the slots do with one lane's fault. -/
inductive FAct where
  | deliver (f : FaultInfo)
  | retry
  | emulate (slot : Nat) (f : FaultInfo)
deriving DecidableEq, Repr

/-- The fault's match value (11 R248). -/
def faultMatch (f : FaultInfo) (w0 : Word) : Nat :=
  f.code.toNat + 2 ^ 8 * f.cause.toNat + 2 ^ 32 * w0.toNat

/-- The action on a lane's fault: none in graft mode; a fifth RETRY is delivered (11 R251). -/
def State.faultAct (s : State) (a : FaultAt) (l : Nat) (f : FaultInfo) : FAct :=
  match s.warp a.wid with
  | none => .deliver f
  | some w =>
    if w.inGraft l then .deliver f
    else
      let slots := (s.graftOf a.gen).slots
      match selectSlot slots (faultMatch f a.words.1) true w.g16 with
      | none => .deliver f
      | some k =>
        let x := slots.getD k 0
        match slotF x 282 2 with
        | 0 => .deliver { f with code := BitVec.ofNat 8 (slotF x 256 8),
                                 cause := BitVec.ofNat 8 (slotF x 264 8) }
        | 1 => if (w.lane l).retry < 4 then .retry else .deliver f
        | _ => .emulate k f

/-- The distinct codes of faults in increasing order (10 R222). -/
def codesOf (fs : List (Nat × FaultInfo)) : List Nat :=
  (List.range 256).filter (fun c => fs.any (fun e => e.2.code.toNat == c))

/-- The fault that each lane takes: the one with the lowest code, lanes in order (10 R220). -/
def laneFaults (fs : List (Nat × FaultInfo)) : List (Nat × FaultInfo) :=
  (List.range 32).filterMap (fun l =>
    minBy (fun (e : Nat × FaultInfo) => e.2.code.toNat) (fs.filter (fun e => e.1 == l)))

/-- Lanes that fault with one code under one slot enter graft mode, or park until they may (11 R251). -/
def State.emulateFault (a : FaultAt) (n : Nat) (last : Bool) (ls : List (Nat × Nat × FaultInfo))
    (s : State) : State :=
  match ls with
  | [] => s
  | e :: _ =>
    let m := maskOf (ls.map Prod.fst)
    let r := s.faultRec a m e.2.2
    match (s.warp a.wid).bind (·.graft) with
    | none => s.enterGraft a m e.2.1 n [a.words.1, a.words.2] last (some r)
    | some _ => s.addParked a m r (.graftWait e.2.1 a.gen)

/-- Takes the faults of lanes at one instruction: each lane its lowest code, slots first, then one
parked sub-warp for each distinct code, in increasing order, described by its lowest lane (10 R220 to
R223; 11 R251). -/
def State.takeFaults (a : FaultAt) (n : Nat) (last : Bool) (fs : List (Nat × FaultInfo))
    (s : State) : State :=
  let acts := (laneFaults fs).map (fun e => (e.1, s.faultAct a e.1 e.2))
  let retry := maskOf (acts.filterMap (fun e => match e.2 with | .retry => some e.1 | _ => none))
  let dl := acts.filterMap (fun e => match e.2 with | .deliver f => some (e.1, f) | _ => none)
  let em := acts.filterMap (fun e =>
    match e.2 with | .emulate k f => some (e.1, k, f) | _ => none)
  let s := s.modWarp a.wid (fun w => w.modLanes retry (fun l => { l with
    retry := l.retry + 1, pc := a.pc, run := a.run, nxt := a.nxt, gen := a.gen, score := a.score }))
  let s := (codesOf dl).foldl (fun s c =>
    let ls := dl.filter (fun e => e.2.code.toNat == c)
    match ls with
    | [] => s
    | e :: _ => s.deliver a (maskOf (ls.map Prod.fst)) e.2) s
  (codesOf (em.map (fun e => (e.1, e.2.2)))).foldl (fun s c =>
    (List.range 32).foldl (fun s k =>
      s.emulateFault a n last (em.filter (fun e => e.2.2.code.toNat == c && e.2.1 == k))) s) s

/-- Graft mode has ended for a warp: the first sub-warp awaiting it enters (11 R251). -/
def State.graftNext (wid : Nat) (s : State) : State :=
  match s.warp wid with
  | none => s
  | some w =>
    if w.graft.isSome then s
    else
      match w.parked.find? (fun p => match p.st with | .graftWait _ _ => true | _ => false) with
      | none => s
      | some p =>
        match p.st with
        | .graftWait slot gen =>
          let s := s.modWarp wid (fun w =>
            { (w.setTemps p.mask p.temps) with parked := w.parked.filter (fun q => q.id != p.id) })
          let n := lengthOf p.record.words.1
          s.enterGraft { wid := wid, pc := p.pc, shown := p.pc, run := p.run, nxt := p.nxt,
                         words := p.record.words, gen := gen, score := p.score } p.mask slot n
            [p.record.words.1, p.record.words.2]
            (decide (p.pc + BitVec.ofNat 64 (4 * n) + 16 = p.nxt)) (some p.record)
        | _ => s

-- handler mode (10 R227, R228)

/-- The first handler-bound sub-warp whose record has drained enters handler mode, when no other
sub-warp of the warp is in it (10 R227). -/
def State.enterHandler (wid : Nat) (s : State) : State :=
  s.modWarp wid (fun w =>
    if w.handler.isSome then w
    else
      match w.parked.find? (fun p => p.st == .handlerWait) with
      | none => w
      | some p =>
        let w := { w with
          parked := w.parked.filter (fun q => q.id != p.id),
          handler := some { id := p.id, record := p.record, mask := p.mask, bank := p.record.bank, pc := p.pc, run := p.run,
                            nxt := p.nxt, temps := p.temps, gen := p.gen, score := p.score, elems := p.elems } }
        let w := w.freshKeys (fun k => decide (handlerKey ≤ k ∧ k < graftKey))
        (w.setTemps p.mask []).modLanes p.mask (fun l => { l with pc := p.entry, run := none, elem := none }))

/-- Where and how lanes resume after a fault: address, run and the run after it, temporaries, generation
and SCORE of that run, stream elements (10 R228). -/
structure ResumeAt where
  pc : DWord
  run : Option DWord
  nxt : DWord
  temps : FMap Word
  gen : Nat
  score : Bool
  elems : FMap Nat

def Parked.resume (p : Parked) : ResumeAt :=
  { pc := p.pc, run := p.run, nxt := p.nxt, temps := p.temps, gen := p.gen, score := p.score, elems := p.elems }

def Handler.resume (h : Handler) : ResumeAt :=
  { pc := h.pc, run := h.run, nxt := h.nxt, temps := h.temps, gen := h.gen, score := h.score, elems := h.elems }

/-- Lanes stand again at the instruction at which they faulted, with their saved temporaries and stream
elements; a lane so resumed at BKPT executes it once as a no-op (10 R228, 16 R339; 07 R166). -/
def Warp.resumeAt (m : Mask) (r : ResumeAt) (w : Warp) : Warp :=
  foldLanes m (fun l w => w.modLane l (fun x =>
    { x with pc := r.pc, run := r.run, nxt := r.nxt, bkpt := some r.pc, retry := 0, gen := r.gen,
             score := r.score, elem := tget l r.elems })) (w.setTemps m r.temps)

/-- Lanes leave handler mode; when none is left it ends and the bank is discarded (10 R228). -/
def State.leaveHandler (wid : Nat) (m : Mask) (s : State) : State :=
  s.modWarp wid (fun w =>
    match w.handler with
    | none => w
    | some h =>
      if h.mask &&& ~~~m = 0 then { w with handler := none }
      else { w with handler := some { h with mask := h.mask &&& ~~~m } })

/-- Lanes leave graft mode; when none is left it ends and a sub-warp awaiting it enters
(11 R251, R253). -/
def State.leaveGraft (wid : Nat) (m : Mask) (s : State) : State :=
  (s.modWarp wid (fun w =>
    match w.graft with
    | none => w
    | some g =>
      if g.mask &&& ~~~m = 0 then { w with graft := none, emul := 0 }
      else { w with graft := some { g with mask := g.mask &&& ~~~m } })).graftNext wid

-- rejoin masks (04 R88 to R91)

/-- The lanes of a half (all lanes outside G16 mode). -/
def Warp.halfMask (w : Warp) (h : Nat) : Mask :=
  if w.g16 then (if h = 0 then 0xFFFF else 0xFFFF0000) else 0xFFFFFFFF

/-- Release(n) on the lanes `hm` (04 R89): waiting lanes go on at the run start after their
JWAIT. -/
def Warp.releaseIn (n : Nat) (hm : Mask) (w : Warp) : Warp :=
  let wt := w.jWait.getD n 0 &&& hm
  if w.jOut.getD n 0 &&& hm = 0 ∧ wt ≠ 0 then
    { (w.modLanes wt (fun l => { l with pc := l.nxt, run := none })) with
      jWait := lput 0 n (w.jWait.getD n 0 &&& ~~~wt) w.jWait }
  else w

/-- Release(n): in G16 mode each half by itself (04 R99). -/
def Warp.release (n : Nat) (w : Warp) : Warp :=
  if w.g16 then (w.releaseIn n 0xFFFF).releaseIn n 0xFFFF0000 else w.releaseIn n 0xFFFFFFFF

/-- Leave(A) (04 R89). -/
def Warp.leave (m : Mask) (w : Warp) : Warp :=
  let w := w.modLanes m (fun l => { l with st := .exited })
  (List.range 16).foldl (fun w n =>
    Warp.release n { w with jOut := lput 0 n (w.jOut.getD n 0 &&& ~~~m) w.jOut,
                            jWait := lput 0 n (w.jWait.getD n 0 &&& ~~~m) w.jWait }) w

/-- Faults lanes that wait at a barrier or a JWAIT, one sub-warp for each address, under the generation of
their run (11 R256). In G16 mode lanes of both halves at one address park as one sub-warp: the spec
does not part them there (DESIGN CHOICE, log entry 97). -/
def State.faultWaiting (wid : Nat) (m : Mask) (f : FaultInfo) (s : State) : State :=
  match s.warp wid with
  | none => s
  | some w =>
    let pcs := nubNat [] ((lanesOf m).map (fun l => (w.lane l).pc.toNat))
    pcs.foldl (fun s p =>
      let ls := (lanesOf m).filter (fun l => (w.lane l).pc.toNat == p)
      let x := w.lane (ls.headD 0)
      s.takeFaults { wid := wid, pc := x.pc, shown := x.pc, run := x.run, nxt := x.nxt, words := x.words,
                     gen := x.gen, score := x.score } (lengthOf x.words.1) true
        (ls.map (fun l => (l, f)))) s

/-- BARRIER_MISMATCH with its cause and number (10 R219). -/
def barFault (cause n : Nat) : FaultInfo :=
  { code := 0x09, cause := BitVec.ofNat 8 cause, aux0 := BitVec.ofNat 64 n }

/-- Rejoin deadlock (04 R91). -/
def State.rejoinCheck (wid : Nat) (s : State) : State :=
  match s.warp wid with
  | none => s
  | some w =>
    let waiting := w.jWait.foldl (fun a b => a ||| b) 0
    if w.live ≠ 0 ∧ w.live &&& ~~~waiting = 0 ∧ w.parked = [] ∧ w.handler = none then
      match (List.range 16).find? (fun n => w.jWait.getD n 0 != 0) with
      | none => s
      | some n =>
        let m := w.jWait.getD n 0
        let s := s.modWarp wid (fun w =>
          { w with jWait := lput 0 n 0 w.jWait, jOut := lput 0 n (w.jOut.getD n 0 ||| m) w.jOut })
        s.faultWaiting wid m (barFault 4 n)
    else s

-- hardware barriers (04 R95 to R98, R100)

/-- Lanes that were launched. -/
def Warp.launched (w : Warp) : Mask :=
  maskOf ((List.range 32).filter (fun l => (w.lane l).st != .never))

/-- Blocks that share a barrier: the block, or its cluster. -/
def State.barBlocks (s : State) (wid : Nat) (cl : Bool) : List Nat :=
  match s.block (blkOf wid) with
  | none => []
  | some b =>
    if cl then (s.blocks.filter (fun e =>
      e.2.launch == b.launch && e.2.cluster == b.cluster)).map Prod.fst
    else [blkOf wid]

/-- The participants that exist: warps, or halves of G16 warps, with a launched lane. Warps of a block of the
cluster that has completed no longer count; exited warps of a resident block do (04 R96; DESIGN CHOICE,
log entry 110). -/
def State.barUnits (s : State) (wid : Nat) (cl : Bool) : List (Nat × Nat) :=
  (s.barBlocks wid cl).flatMap (fun b =>
    (s.warps.filter (fun e => blkOf e.1 == b)).flatMap (fun e =>
      ((if e.2.g16 then [0, 1] else [0]).filter (fun h =>
        e.2.launched &&& e.2.halfMask h != 0)).map (fun h => (e.1, h))))

/-- A participant has not wholly exited. -/
def State.unitLive (s : State) (u : Nat × Nat) : Bool :=
  match s.warp u.1 with
  | none => false
  | some w => w.live &&& w.halfMask u.2 != 0

/-- The wait of a participant at a barrier instance. -/
def State.unitBar (s : State) (cl : Bool) (inst : Nat) (u : Nat × Nat) : Option BarWait :=
  (s.warp u.1).bind (fun w =>
    w.bars.find? (fun x => x.half == u.2 && x.cluster == cl && x.inst == inst))

def Barrier.idle : Barrier := { need := none, arrived := 0, first := 0 }

/-- A barrier instance. -/
def State.barrier (s : State) (wid : Nat) (cl : Bool) (inst : Nat) : Barrier :=
  match s.block (blkOf wid) with
  | none => Barrier.idle
  | some b =>
    if cl then
      match s.clusters.find? (fun x => x.launch == b.launch && x.idx == b.cluster) with
      | some x => x.cbar.getD inst Barrier.idle
      | none => Barrier.idle
    else b.bars.getD inst Barrier.idle

def State.setBarrier (wid : Nat) (cl : Bool) (inst : Nat) (x : Barrier) (s : State) : State :=
  match s.block (blkOf wid) with
  | none => s
  | some b =>
    if cl then
      { s with clusters := s.clusters.map (fun y =>
          if y.launch = b.launch ∧ y.idx = b.cluster then
            { y with cbar := lput Barrier.idle inst x y.cbar } else y) }
    else s.modBlock (blkOf wid) (fun b => { b with bars := lput Barrier.idle inst x b.bars })

/-- A participant leaves a barrier: its lanes go on after it, or fault at it. -/
def State.dropBar (cl : Bool) (inst : Nat) (u : Nat × Nat) (s : State) : State :=
  s.modWarp u.1 (fun w => { w with bars := w.bars.filter (fun x =>
    !(x.half == u.2 && x.cluster == cl && x.inst == inst)) })

/-- Releases a participant at the run start after its barrier; the completed barrier is an acquire, of CBAR
at .cluster (04 R96; 08 R190, R194). -/
def State.releaseUnit (cl : Bool) (inst : Nat) (u : Nat × Nat) (s : State) : State :=
  match s.unitBar cl inst u with
  | none => s
  | some x =>
    let s := (s.dropBar cl inst u).modWarp u.1 (fun w =>
      w.modLanes (x.mask &&& w.live) (fun l => { l with pc := l.nxt, run := none }))
    if cl then s.dropLeases (s.coreOf u.1) else s.recheck (s.coreOf u.1) (some u.1)

/-- Faults a participant at its barrier. -/
def State.faultUnit (cl : Bool) (inst : Nat) (u : Nat × Nat) (s : State) : State :=
  match s.unitBar cl inst u with
  | none => s
  | some x =>
    let m := match s.warp u.1 with | some w => x.mask &&& w.live | none => 0
    (s.dropBar cl inst u).faultWaiting u.1 m (barFault (if cl then 2 else 1) inst)

/-- Participants that have arrived at an instance. -/
def State.arrivedUnits (s : State) (wid : Nat) (cl : Bool) (inst : Nat) : List (Nat × Nat) :=
  (s.barUnits wid cl).filter (fun u =>
    match s.unitBar cl inst u with | some x => x.arrived | none => false)

/-- Arrive(b, c, w) when every live lane of the participant stands at the instance (04 R96). -/
def State.tryArrive (cl : Bool) (inst : Nat) (u : Nat × Nat) (s : State) : State :=
  match s.warp u.1, s.unitBar cl inst u with
  | some w, some x =>
    let live := w.live &&& w.halfMask u.2
    if x.arrived ∨ live = 0 ∨ live &&& ~~~x.mask ≠ 0 then s
    else
      let units := s.barUnits u.1 cl
      let b := s.barrier u.1 cl inst
      let n0 := if b.need = none then (units.filter s.unitLive).length else b.first
      let cnt := if x.count = 0 then n0 else x.count
      let have' := if cl then 4 else ((s.block (blkOf u.1)).map (fun b => b.bars.length)).getD 0
      if have' ≤ inst || decide (x.count > units.length) then s.faultUnit cl inst u
      else if b.need ≠ none ∧ b.need ≠ some cnt then s.faultUnit cl inst u
      else
        let s := s.modWarp u.1 (fun w => { w with bars := w.bars.map (fun y =>
          if y.half = u.2 ∧ y.cluster = cl ∧ y.inst = inst then { y with arrived := true }
          else y) })
        if b.arrived + 1 = cnt then
          ((s.arrivedUnits u.1 cl inst).foldl (fun s v => s.releaseUnit cl inst v) s).setBarrier
            u.1 cl inst Barrier.idle
        else s.setBarrier u.1 cl inst { need := some cnt, arrived := b.arrived + 1, first := n0 }
  | _, _ => s

/-- A count that can no longer be reached: every arrived participant faults, and the instance is
idle (04 R97). -/
def State.unreachable (wid : Nat) (cl : Bool) (inst : Nat) (s : State) : State :=
  let b := s.barrier wid cl inst
  match b.need with
  | none => s
  | some n =>
    let arr := s.arrivedUnits wid cl inst
    let rest := (s.barUnits wid cl).filter (fun u => s.unitLive u && !arr.contains u)
    if b.arrived + rest.length < n then
      (arr.foldl (fun s u => s.faultUnit cl inst u) s).setBarrier wid cl inst Barrier.idle
    else s

/-- Completes a WSYNC instance when every lane of its mask has arrived or exited; its release and acquire
are at .warp (04 R98; 08 R194). -/
def State.wsyncCheck (wid h : Nat) (s : State) : State :=
  match s.warp wid with
  | none => s
  | some w =>
    let x := w.wsync.getD h { fixed := 0, arrived := 0 }
    if x.fixed = 0 ∨ x.fixed &&& w.live &&& ~~~x.arrived ≠ 0 then s
    else (s.modWarp wid (fun w =>
      { (w.modLanes (x.arrived &&& w.live) (fun l => { l with pc := l.nxt, run := none }))
        with wsync := lput { fixed := 0, arrived := 0 } h { fixed := 0, arrived := 0 } w.wsync })).recheck
          (s.coreOf wid) (some wid)

-- the end of threads and blocks (02 R54; 06 R130; 17 R356)

/-- A member exits wholly while other members of a gang hold undispatched arrivals: they fault at
their next matrix command, TWAIT or GANG, and the latch is discarded (06 R130). AUX0 is the tile of the
member's oldest such arrival (10 R219; DEDUCED, log entry 108). -/
def State.gangExit (wid : Nat) (s : State) : State :=
  match s.warp wid with
  | none => s
  | some e =>
    let hit (x : Nat × Warp) : Bool :=
      blkOf x.1 == blkOf wid && x.1 != wid && x.2.gang.getLsbD e.num && !x.2.arrivals.isEmpty
    let gangs := (s.warps.filter hit).map (fun x => x.2.gang)
    { s with warps := s.warps.map (fun x =>
        if blkOf x.1 = blkOf wid ∧ gangs.contains x.2.gang ∧ x.2.gang ≠ 0 then
          (x.1, { x.2 with arrivals := [], arrCount := 0,
                           gangFault := if x.1 ≠ wid ∧ x.2.arrivals ≠ [] then
                             some (barFault 5 ((x.2.arrivals.map (·.tile)).headD 0)) else x.2.gangFault })
        else x) }

/-- The launch of a warp's block, 0 when there is none. -/
def State.lidOf (s : State) (wid : Nat) : Nat := ((s.block (blkOf wid)).map (·.launch)).getD 0

/-- A store queue still holds a write of the block's warps to scratch, or one into its scratch (01 R9). -/
def State.scratchBusy (s : State) (blk : Nat) : Bool :=
  match s.block blk with
  | none => false
  | some b =>
    let L := s.launch b.launch
    let k := (L.map Launch.kscr).getD 0
    let q := (L.map Launch.qscr).getD 0
    let into (base n loc : Nat) : Bool := decide (scrKey b.core base ≤ loc) && decide (loc < scrKey b.core base + n)
    s.cores.any (fun c => c.2.sq.any (fun e => isScratch (128 * e.line) && e.gwct.isNone &&
      (blkOf e.wid == blk || e.writes.any (fun w => into b.kbase k w.2.1 || into b.qbase q w.2.1))))

/-- Copy or matrix commands of a block are still held anywhere, or its stores to scratch. -/
def State.blockBusy (s : State) (blk : Nat) : Bool :=
  let isC (e : QEntry) : Bool := match e with | .copy c => c.blk == blk | _ => false
  s.scratchBusy blk || s.engines.any (fun e => e.2.cmd.blk == blk) ||
  s.cores.any (fun k => k.2.queue.any isC || k.2.mq.any (fun m => m.blk == blk)) ||
  s.spill.any (fun e => e.2.any (fun x => isC x.e))

/-- Room has appeared: skipped launches lose their mark (03 R70). -/
def State.unskip (s : State) : State :=
  { s with launches := s.launches.map (fun e => (e.1, { e.2 with skipped := false })) }

/-- Releases completed blocks whose commands have ended (17 R356). -/
def State.sweep (s : State) : State :=
  let keep := s.blocks.filter (fun e => !(e.2.done && !s.blockBusy e.1))
  if keep.length < s.blocks.length then State.unskip { s with blocks := keep } else s

/-- A block completes when no warp of it holds a live lane: its launch's counter falls, and at
zero the launch is at its end (02 R54, R55). `byExit`: by EXIT of all its warps. -/
def State.blockCheck (blk : Nat) (byExit : Bool) (s : State) : State :=
  match s.block blk with
  | none => s
  | some b =>
    if b.done || (s.warpsOf blk).any (fun wid =>
        match s.warp wid with | some w => w.live != 0 | none => false) then s
    else
      let s := { s with warps := s.warps.filter (fun e => blkOf e.1 != blk),
                        pins := s.pins.filter (fun p => p.blk != blk) }
      let s := s.modBlock blk (fun b => { b with done := true })
      (s.modLaunch b.launch (fun L =>
        let left := L.blocksLeft - 1
        { L with blocksLeft := left,
                 blocksExited := if byExit && !b.stopping then satInc L.blocksExited else L.blocksExited,
                 stage := if left = 0 then .ending else L.stage })).sweep

/-- The uncommitted packets of warps that have ended or left their core are discarded (01 R24, R27). -/
def State.dropPackets (p : Nat → Bool) (s : State) : State :=
  { s with cores := s.cores.map (fun e => (e.1, { e.2 with out := e.2.out.filter (fun x => !p x.2.wid) })) }

/-- Lanes of a warp end: Leave, handler and graft mode, WSYNC, barriers, gangs, the block
(04 R89, R91, R96 to R98; 06 R130; 17 R356). -/
def State.exitLanes (wid : Nat) (m : Mask) (s : State) : State :=
  let s := s.unbind wid m
  let s := s.modWarp wid (Warp.leave m)
  let s := (s.leaveHandler wid m).leaveGraft wid m
  let s := (s.wsyncCheck wid 0).wsyncCheck wid 1
  let gone := match s.warp wid with | some w => w.live == 0 | none => true
  let s := if gone then (s.gangExit wid).dropPackets (fun w => w == wid) else s
  let blk := blkOf wid
  let s := [0, 1].foldl (fun s h =>
    match (s.warp wid).bind (fun w => w.bars.find? (fun x => x.half == h)) with
    | some x => s.tryArrive x.cluster x.inst (wid, h)
    | none => s) s
  let s := (List.range 16).foldl (fun s i => s.unreachable wid false i) s
  let s := (List.range 4).foldl (fun s i => s.unreachable wid true i) s
  (s.rejoinCheck wid).blockCheck blk true

-- retrying a store-queue or wait condition

/-- A scope at .cluster or wider (08 R190). -/
def scopeWide : Scope → Bool
  | .thread | .tile | .warp | .block => false
  | _ => true

/-- The release wait of lanes at a scope has ended: their writes are acknowledged, and at .cluster
or wider global time has reached %lwct (08 R190). -/
def State.released (s : State) (core wid : Nat) (m : Mask) (sc : Scope) : Bool :=
  (s.core core).sq.all (fun e => !(e.wid == wid && e.writes.any (fun w => m.getLsbD w.1))) &&
  (!scopeWide sc || (match s.warp wid with | some w => decide (w.lwct ≤ s.gtime) | none => true))

/-- AcquireFence of a warp at a scope: leases go from .cluster up, and the loads it has had checked are
checked again (08 R190). -/
def State.acquire (core wid : Nat) (sc : Scope) (s : State) : State :=
  if scopeWide sc then s.dropLeases core else s.recheck core (some wid)

/-- A write performed at once is acknowledged at once; while replicas of its line have not answered, or
its write-back to the host has not ended, it stays in the store queue with its GWCT, with no bytes to
forward (08 R185; 12 R272, R278). `later`: its acknowledgement comes by itself (16 R334). -/
def State.ackNow (later : Bool) (core wid lane loc g : Nat) (va : DWord) (s : State) : State :=
  let lid := s.lidOf wid
  let s := s.refresh core (loc / 128)
  if later || isHost loc || s.inval.any (fun x => x.2.2 == loc / 128) then
    let asid := s.asidOf wid
    s.modCore core (fun k =>
      let e : SqEntry := { id := k.nextSq, wid := wid, launch := lid, line := loc / 128,
                           writes := [(lane, loc, [])], vas := [va], strong := true, asid := asid,
                           gwct := some g }
      { k with nextSq := k.nextSq + 1, sq := k.sq ++ [e] })
  else
    (s.modWarp wid (Warp.raiseLwct g)).modLaunch lid (fun L =>
      { L with lastGwct := max L.lastGwct g })

/-- The fault a release fence raises for stores lost with their peer or host: the lowest lost
address of each lane; the stores are then forgotten (12 R279, R281). -/
def State.lostFaults (s : State) (wid : Nat) (m : Mask) : List (Nat × FaultInfo) :=
  (lanesOf m).filterMap (fun l =>
    (minBy (fun x => x.addr.toNat) (s.lost.filter (fun x => x.wid == wid && x.lane == l))).map
      (fun x => (l, { code := if x.host then 0x10 else 0x0F, addr := x.addr })))

def State.forgetLost (wid : Nat) (m : Mask) (s : State) : State :=
  { s with lost := s.lost.filter (fun x => !(x.wid == wid && m.getLsbD x.lane)) }

end Sys2Proof.Machine
end

