-- ==== Sys2Proof/Machine/Launches.lean ====
section
/-!
DEFINITION. Launches: acceptance and its checks, graphs and phases, readiness, placement on cores,
cancellation (02 R40 to R60; 03 R63 to R73; 07 R167; 11 R259).
-/

set_option Elab.async false

namespace Sys2Proof.Machine

/-- Status values of a completion record (02 R57). -/
def stFormat : BitVec 16 := 0x0016
def stCancelled : BitVec 16 := 0x0014
def stCapability : BitVec 16 := 0x0080
def stResources : BitVec 16 := 0x0081

/-- Capability level that the capability list shows (11 R265). -/
def State.capLevel (s : State) : Nat := bitsOf ((s.caplist.getD 0 0).toNat) 32 8

/-- A used role entry keeps the limits of 02 R43. -/
def roleOk (e : Nat) : Bool :=
  let reg (x : Nat) : Bool := x % 8 == 0 && decide (8 ≤ x) && decide (x ≤ 112)
  reg (roleVregs e) && reg (roleSregs e) && decide (1 ≤ roleWarps e) && decide (roleWarps e ≤ 32) &&
    decide (roleLast e ≤ 32) && roleEntry e % 4 == 0

/-- The header's own fields keep 02 R44. -/
def Launch.headerOk (l : Launch) (va : Nat) : Bool :=
  l.fld 0 2 == 3 && l.flags / 4 == 0 && l.fld 0x58 8 == 0 &&
  decide (1 ≤ l.nrole) && decide (l.nrole ≤ 4) &&
  (List.range 4).all (fun r => if r < l.nrole then roleOk (l.role r) else l.role r == 0) &&
  decide (l.warpsPB ≤ 32) && decide (0 < l.clusters) && decide (0 < l.clSize) &&
  decide (l.clSize ≤ 16) && decide (l.clusters * l.clSize ≤ 2 ^ 32 - 1) &&
  decide (l.kscr + l.qscr ≤ Config.scratchBytes) && decide (l.tiles ≤ 32) &&
  decide (l.cbufs ≤ 16) && decide (l.barsN ≤ 16) && decide (l.hprio ≤ 7) &&
  va % 128 == 0 && l.code % 128 == 0 && l.recordA % 64 == 0 && l.signalA % 8 == 0 &&
  l.lsize % 16 == 0 && l.kscr % 128 == 0 && l.qscr % 128 == 0

/-- The kernel header word keeps 02 R41 and 04 R100. -/
def Launch.khwOk (l : Launch) : Bool :=
  let k := l.khw.toNat
  let gen := bitsOf k 28 4
  !(gen == 0 || decide (3 < gen) || (bitOf k 23 && gen == 3) || (bitOf k 23 && bitOf k 21) ||
    bitsOf k 0 16 != 0) &&
  (!l.g16 || (List.range l.nrole).all (fun r => decide (roleSregs (l.role r) ≤ 56)))

/-- The Pedric header keeps 11 R259 (24 bytes of fields, the rest zero). -/
def pedOk (bs : List Byte) : Bool :=
  let x := leNat bs
  bitsOf x 32 32 == 0 && bitsOf x 64 16 == 0 && decide (1 ≤ bitsOf x 128 32) &&
    decide (bitsOf x 128 32 ≤ 2 ^ 20) && decide (1 ≤ bitsOf x 160 32) && x / 2 ^ 192 == 0

/-- A buffer descriptor keeps 07 R167. -/
def cbOk (d : Nat) (kscr : Nat) : Bool :=
  let base := bitsOf d 0 32
  let n := bitsOf d 32 7
  let sb := bitsOf d 64 32
  bitsOf d 39 25 == 0 && bitsOf d 96 32 == 0 && base % 128 == 0 && decide (1 ≤ n) &&
    decide (n ≤ 64) && sb % 128 == 0 && decide (0 < sb) && decide (base + n * sb ≤ kscr)

-- room on cores (02 R48, 03 R70)

/-- Role of warp `w` of a block, and whether it is the last warp of that role (02 R45). -/
def Launch.roleOf (l : Launch) (w : Nat) : Nat × Bool :=
  let rec go : Nat → Nat → Nat → Nat × Bool
    | 0, r, _ => (r, false)
    | fuel + 1, r, b =>
      let n := roleWarps (l.role r)
      if w < b + n then (r, decide (w + 1 = b + n)) else go fuel (r + 1) (b + n)
  go 4 0 0

/-- Blocks resident on a core. -/
def State.resident (s : State) (core : Nat) : List (Nat × Block) :=
  s.blocks.filter (fun e => e.2.core == core && (e.2.savedOn.isNone || e.2.held))

/-- Warps resident on a core. -/
def State.coreWarps (s : State) (core : Nat) : List (Nat × Warp) :=
  let bs := (s.resident core).map Prod.fst
  s.warps.filter (fun e => bs.contains (blkOf e.1))

/-- Warp-registers free in a partition (02 R48). -/
def State.freeRegs (s : State) (core p : Nat) : Nat :=
  Config.warpRegsPerPart -
    (((s.coreWarps core).filter (fun e => e.2.part == p)).map (fun e => e.2.vregs + 8)).sum

/-- Warp slots used in a partition. -/
def State.usedSlots (s : State) (core p : Nat) : Nat :=
  ((s.coreWarps core).filter (fun e => e.2.part == p)).length

/-- The partition with the most free warp-registers, the lowest among equals (03 R70). -/
def pickPart (free : List Nat) : Nat :=
  (minBy (fun p => 4096 - free.getD p 0) [0, 1, 2, 3]).getD 0

/-- Warp-registers of each warp of a block of a launch (02 R48). -/
def Launch.costs (l : Launch) : List Nat :=
  (List.range l.warpsPB).map (fun w => roleVregs (l.role (l.roleOf w).1) + 8)

/-- Warps and warp-registers that a block of these costs, with first partition `p0`, takes in
partition `p`. -/
def partCost (cs : List Nat) (p0 p : Nat) : Nat × Nat :=
  let ws := (List.range cs.length).filter (fun w => (p0 + w) % 4 == p)
  (ws.length, (ws.map (fun w => cs.getD w 0)).sum)

/-- A block's warps fit partitions with these free registers and used slots. -/
def fitsParts (cs free used : List Nat) : Bool :=
  let p0 := pickPart free
  (List.range 4).all (fun p =>
    let c := partCost cs p0 p
    decide (used.getD p 0 + c.1 ≤ Config.warpsPerPart) && decide (c.2 ≤ free.getD p 0))

/-- The core takes part in placement. -/
def State.coreUp (s : State) (core : Nat) : Bool :=
  decide (core < Config.cores) && !(s.core core).disabled && !(s.core core).failed

/-- Header of the launch of a block. -/
def State.blkLaunch (s : State) (b : Block) : Option Launch := s.launch b.launch

/-- A block of a launch, its warps of these costs, fits a core now (02 R48); blocked growth
requests of a partition come first (03 R78). -/
def State.roomFor (s : State) (l : Launch) (cs : List Nat) (core : Nat) : Bool :=
  let bs := s.resident core
  let free := (List.range 4).map (s.freeRegs core)
  let used := (List.range 4).map (s.usedSlots core)
  let scr := (bs.map (fun e => ((s.blkLaunch e.2).map (fun L => L.kscr + L.qscr)).getD 0)).sum
  let tls := (bs.map (fun e => e.2.tiles.length)).sum
  s.coreUp core && decide (bs.length < Config.blocksPerCore) && fitsParts cs free used &&
    decide (scr + l.kscr + l.qscr ≤ Config.scratchBytes) &&
    decide (tls + l.tiles ≤ Config.tilesPerCore) &&
    (s.core core).grow.all (fun g => g.answer.isSome || (partCost cs (pickPart free) g.part).1 == 0)

/-- Cores a job holds. -/
def State.jobCores (s : State) (j : Nat) : List Nat :=
  nubNat [] ((s.blocks.filter (fun e => e.2.savedOn.isNone &&
    ((s.blkLaunch e.2).map (·.job)) == some j)).map (fun e => e.2.core))

/-- Most cores a job may hold (03 R63). -/
def State.coreLimit (s : State) (j : Nat) : Nat := if s.jCores j = 0 then 256 else s.jCores j

/-- Blocks of a launch that fit one empty core, at most `fuel` (02 R48, R49). -/
def Launch.perCore (l : Launch) : Nat → List Nat → List Nat → Nat → Nat → Nat
  | 0, _, _, _, n => n
  | fuel + 1, free, used, scr, n =>
    if fitsParts l.costs free used ∧ scr + l.kscr + l.qscr ≤ Config.scratchBytes ∧
        (n + 1) * l.tiles ≤ Config.tilesPerCore then
      let p0 := pickPart free
      Launch.perCore l fuel
        ((List.range 4).map (fun p => free.getD p 0 - (partCost l.costs p0 p).2))
        ((List.range 4).map (fun p => used.getD p 0 + (partCost l.costs p0 p).1))
        (scr + l.kscr + l.qscr) (n + 1)
    else n

def Launch.perEmpty (l : Launch) : Nat :=
  l.perCore 16 (List.replicate 4 Config.warpRegsPerPart) (List.replicate 4 0) 0 0

/-- The launch can be placed on empty cores at all (02 R49): one block, or for a co-resident
launch every cluster, each on the cores of one die, within the job's CORES. -/
def State.everFits (s : State) (l : Launch) : Bool :=
  let n := l.perEmpty
  if n = 0 then false
  else if l.flags % 2 = 0 then true
  else
    let lim := s.coreLimit l.job
    let dies := (List.range Config.dies).map (fun d =>
      ((List.range Config.coresPerDie).filter (fun k =>
        s.coreUp (Config.coresPerDie * d + k))).length)
    let best := dies.foldl (fun (t : List Nat) e =>
      (List.range (lim + 1)).map (fun m =>
        ((List.range (min e m + 1)).map (fun c =>
          t.getD (m - c) 0 + c * n / l.clSize)).foldl max 0)) (List.replicate (lim + 1) 0)
    decide (l.clusters ≤ best.getD lim 0)

-- graphs and phases

/-- Changes a phase record. -/
def State.modPhase (job num : Nat) (f : Phase → Phase) (s : State) : State :=
  { s with phases := s.phases.map (fun p => if p.job = job ∧ p.num = num then f p else p) }

/-- A closed phase whose graphs have completed lowers OPENPH; at zero the job is OFF
(02 R54; 03 R64, R67). -/
def State.phaseCheck (job num : Nat) (s : State) : State :=
  match s.phases.find? (fun p => p.job == job && p.num == num) with
  | none => s
  | some p =>
    if p.closed && p.left == 0 then
      let s := { s with phases := s.phases.filter (fun q => !(q.job == job && q.num == num)) }
      let n := s.jOpenPh job - 1
      let s := s.setReg (jOff job + 0x18) (BitVec.ofNat 32 n)
      if n = 0 then
        let s : State := { s with queues := s.queues.map (fun e => (e.1, { e.2 with
          pkts := e.2.pkts.map (fun p => if bitsOf p.data.toNat 0 8 = 6 ∧ bitsOf p.data.toNat 16 8 = 3
            ∧ p.refs = [job] then { p with refs := [] } else p) })) }
        s.setRegF (jOff job + 0xC) 8 2 0
      else s
    else s

/-- Updates a queue's DONE: the longest prefix of packets all completed (03 R67). -/
def State.advanceDone (q : Nat) : Nat → State → State
  | 0, s => s
  | fuel + 1, s =>
    let d := (s.qDone q).toNat
    match (s.queue q).pkts.find? (fun p => p.num == d) with
    | some p =>
      if p.st = .done then
        State.advanceDone q fuel
          ((s.setReg (qOff q + 0x18) (BitVec.ofNat 32 (d + 1))).modQueue q (fun x =>
            { x with pkts := x.pkts.filter (fun y => y.num != d) }))
      else s
    | none => s

/-- A packet completes: its interrupt, and DONE (03 R65, R67). -/
def State.pktDone (q n : Nat) (s : State) : State :=
  match (s.queue q).pkts.find? (fun p => p.num == n) with
  | none => s
  | some p =>
    if p.st = .done then s
    else
      let s := s.modQueue q (fun x => { x with
        pkts := x.pkts.map (fun y => if y.num = n then { y with st := .done } else y) })
      let s := if p.data.getLsbD 9 then s.raise (s.qIrqv q) else s
      s.advanceDone q ((s.queue q).pkts.length + 1)

/-- A graph all of whose launches have completed ends (02 R54; 03 R66). -/
def State.graphCheckDone (g : Nat) (s : State) : State :=
  match tget g s.graphs with
  | none => s
  | some x =>
    if x.left = 0 ∧ x.read = x.count then
      let s := { s with graphs := tdel g s.graphs }
      let s := (s.modPhase x.job x.phase (fun p => { p with left := p.left - 1 })).phaseCheck
        x.job x.phase
      match x.pkt with
      | some n => s.pktDone x.queue n
      | none => s
    else s

/-- Opens a graph of `count` launches in the job's open phase (02 R39; 03 R66). -/
def State.newGraph (job q : Nat) (pkt : Option Nat) (count : Nat) (s : State) : Nat × State :=
  let g := s.nextGraph
  let x : Graph := { job := job, phase := s.jPhase job, count := count, read := 0, left := count,
                     queue := q, pkt := pkt, nodes := [], badNode := false, checked := false,
                     cancelled := false }
  (g, State.modPhase job (s.jPhase job) (fun p => { p with left := p.left + 1 })
    { s with graphs := tset g x s.graphs, nextGraph := g + 1 })

/-- A launch that has just received its id; its header is not read yet (02 R53). -/
def Launch.new (id job q : Nat) (pkt : Option Nat) (g ph : Nat) : Launch :=
  { id := id, job := job, queue := q, pkt := pkt, graph := g, phase := ph, hdr := 0,
    hdrRead := false, khw := 0, ped := 0, cbdesc := [], xbase := 0, xsize := 0, preds := 0,
    edges := [], node := 0, tailOf := none, checked := false, status := 0, cancelled := false,
    stage := .waiting, nextCluster := 0, blocksLeft := 0, blocksExited := 0, faults := 0,
    first := 0, mismatch := 0, abft := 0, preempt := 0, coresUsed := [], startT := 0, prio := 0,
    readySince := 0, skipped := false, skipSince := 0, trapbase := 0, parent := none,
    lastGwct := 0, noPrio := false, die := none, endStep := 0, endWait := [], endTime := 0 }

/-- The launch ends before any block with a status (02 R44, R57, R58). -/
def Launch.end (st : BitVec 16) (l : Launch) : Launch :=
  { l with status := if l.status = 0 then st else l.status, stage := .ending, blocksLeft := 0 }

/-- Reads and checks what acceptance reads after the header: kernel header word, Pedric header,
buffer descriptors, and the fit, in the order of 02 R427. None: the access has to wait. -/
def State.acceptRest (s : State) (l : Launch) : Option Launch :=
  let asid := s.jAsid l.job
  match s.vRead (via asid) l.code 4 with
  | .error f => if f = heldFault then none else some (l.end (f.code.setWidth 16))
  | .ok kb =>
    let l := { l with khw := BitVec.ofNat 32 (leNat kb) }
    if !l.khwOk then some { l.end stFormat with noPrio := true }
    else if bitsOf l.khw.toNat 16 5 > s.capLevel then some (l.end stCapability)
    else
      let ped : Except FaultInfo (List Byte) :=
        if l.pedric then s.vRead (via asid) l.code 128 else .ok []
      match ped with
      | .error f => if f = heldFault then none else some (l.end (f.code.setWidth 16))
      | .ok pb =>
        if l.pedric && !pedOk pb then some (l.end stFormat)
        else
          let l := { l with ped := BitVec.ofNat 192 (leNat pb) }
          let rec descs : Nat → Nat → Launch → Option Launch
            | 0, _, l => some l
            | fuel + 1, n, l =>
              match s.vRead (via asid) (l.args + 16 * n) 16 with
              | .error f => if f = heldFault then none else some (l.end (f.code.setWidth 16))
              | .ok d =>
                if !cbOk (leNat d) l.kscr then some (l.end stFormat)
                else descs fuel (n + 1) { l with cbdesc := l.cbdesc ++ [BitVec.ofNat 128 (leNat d)] }
          match descs l.cbufs 0 l with
          | none => none
          | some l =>
            if l.stage = .ending then some l
            else if !s.everFits l then some (l.end stResources)
            else some { l with blocksLeft := l.clusters * l.clSize }

/-- Acceptance of a launch from the header at `va` (02 R42, R44, R427); a launch of a FROZEN job
is only read and completes cancelled (02 R59). None: the access has to wait. -/
def State.accept (s : State) (l : Launch) (va : Nat) (frozen : Bool) : Option Launch :=
  match s.vRead (via (s.jAsid l.job)) va 128 with
  | .error f => if f = heldFault then none
      else some { l.end (f.code.setWidth 16) with noPrio := true }
  | .ok hb =>
    let l := { l with noPrio := false, hdr := BitVec.ofNat 1024 (leNat hb), hdrRead := true,
                      xbase := s.regF (xOff l.job) 0 16, xsize := s.regF (xOff l.job + 4) 0 16 }
    if frozen then some { l.end stCancelled with cancelled := true, noPrio := !l.headerOk va }
    else if !l.headerOk va then some { l.end stFormat with noPrio := true }
    else s.acceptRest l

-- readiness and priority (03 R69)

/-- An earlier phase of the job has not completed (02 R38; 03 R67). -/
def State.phaseHeld (s : State) (job num : Nat) : Bool :=
  s.phases.any (fun p => p.job == job && decide (p.num < num))

/-- The tail form waits for the issuing launch (03 R73). -/
def State.tailHeld (s : State) (l : Launch) : Bool :=
  match l.tailOf with
  | none => false
  | some p => match s.launch p with
    | some P => P.stage != .done
    | none => false

/-- Clusters of a launch with saved blocks whose cores are vacated, oldest save first; a co-resident launch
resumes whole (02 R52; 10 R242). -/
def State.savedClusters (s : State) (lid : Nat) : List Nat :=
  let bs := (s.blocks.filter (fun e => e.2.launch == lid && e.2.savedOn.isSome)).map Prod.snd
  let whole := ((s.launch lid).map (fun l => l.flags % 2 == 1)).getD false
  let rec sort : Nat → List Block → List Nat
    | 0, _ => []
    | fuel + 1, xs =>
      match minBy (fun (x : Block) => x.saveOrder) xs with
      | none => []
      | some x => x.cluster :: sort fuel (xs.filter (fun y => y.cluster != x.cluster))
  sort bs.length (bs.filter (fun b => !(bs.any (fun x => (whole || x.cluster == b.cluster) && x.held))))

/-- A launch is ready (03, dispatch order), or has saved blocks (10 R242). -/
def State.isReady (s : State) (l : Launch) : Bool :=
  (l.stage == .waiting || l.stage == .running) && l.hdrRead && l.checked && !l.cancelled && l.preds == 0 &&
    (decide (l.nextCluster < l.clusters) || s.savedClusters l.id != []) && !s.phaseHeld l.job l.phase && !s.tailHeld l &&
    (s.jState l.job == 1 || s.jState l.job == 2)

/-- Ready launches keep the time since which they have been ready; 0 is none, else time + 1. -/
def State.markReady (s : State) : State :=
  { s with launches := s.launches.map (fun e =>
      if s.isReady e.2 then
        (e.1, if e.2.readySince = 0 then { e.2 with readySince := s.gtime + 1 } else e.2)
      else (e.1, { e.2 with readySince := 0 })) }

/-- Effective priority, aging included (03 R69). -/
def State.effPrio (s : State) (l : Launch) : Nat :=
  let aged := if l.readySince = 0 then 0 else min 2 ((s.gtime + 1 - l.readySince) / 100000)
  min 7 (min l.hprio (s.jPcap l.job) + aged)

/-- PickLaunch (03 R69): level, job by deficit, launch by id. -/
def State.pickBest (s : State) : Option Nat :=
  let rs := s.launches.filter (fun e => s.isReady e.2 && !e.2.skipped)
  [7, 6, 5, 4, 3, 2, 1, 0].findSome? (fun lv =>
    let at' := rs.filter (fun e => s.effPrio e.2 == lv)
    let js := nubNat [] (at'.map (fun e => e.2.job))
    let best := (js.map (s.jDeficit)).foldl max (-(2 ^ 40 : Int))
    match minBy id (js.filter (fun j => s.jDeficit j == best)) with
    | none => none
    | some j => (at'.find? (fun e => e.2.job == j)).map Prod.fst)

-- placement (02 R45 to R50; 03 R70)

/-- A tile at block start (06 R120). -/
def Tile.init : Tile :=
  { elems := [], sums := [], corr := 0, nv := false, ovf := false, unf := false, pcause := 0,
    pinfo := none, pending := [], tsts := [] }

/-- A circular buffer at block start (07 R168). -/
def CBuf.ofDesc (d : BitVec 128) : CBuf :=
  let n := bitsOf d.toNat 32 7
  { base := bitsOf d.toNat 0 32, nslot := n, slotb := bitsOf d.toNat 64 32,
    slots := List.replicate n .free, pr := 0, pf := 0, ca := 0, sw := [], acq := [], marks := [],
    rels := [], resWait := [], acqWait := [] }

def WaitCtr.init : WaitCtr := { val := 0, time := 0, err := none, rels := [] }

/-- The header forces interlocked mode (01 R29). -/
def Launch.hdrIlk (l : Launch) : Bool :=
  bitOf l.khw.toNat 22 || bitsOf l.khw.toNat 28 4 != Config.generation ||
    bitsOf l.khw.toNat 24 4 != Config.stepping

/-- A warp as it begins (02 R45, R47; 04 R93, R99). -/
def Launch.newWarp (l : Launch) (num p0 slot age : Nat) : Warp :=
  let (r, lastW) := l.roleOf num
  let e := l.role r
  let n := if lastW && roleLast e != 0 then roleLast e else 32
  let pc := BitVec.ofNat 64 (l.code + roleEntry e)
  let halves := if l.g16 then [0, 1] else [0]
  { num := num, role := r, part := (p0 + num) % 4, slot := slot, level := 0, age := age,
    lanes := (List.range 32).map (fun k => Lane.fresh (if k < n then .live else .never) pc),
    vregs := roleVregs e, sregs := roleSregs e, v := [],
    u := halves.foldl (fun u h => fset 0 (128 * h + 1) (BitVec.ofNat 32 (l.args / 2 ^ 32))
      (fset 0 (128 * h) (BitVec.ofNat 32 l.args) u)) [],
    g := [0, 0], jOut := List.replicate 16 0, jWait := List.replicate 16 0,
    w := List.replicate 8 WaitCtr.init, lwct := 0, hdrilk := l.hdrIlk, ilk := false, score := false,
    effilk := l.hdrIlk, gang := 0, tile := if l.g16 then 16 else 32,
    g16 := l.g16, yielded := false, lastRun := 0, lastYield := false, bars := [],
    wsync := List.replicate 2 { fixed := 0, arrived := 0 }, parked := [], handler := none,
    graft := none, emul := 0, waits := [], waitaDone := [], lnx := [], arrivals := [], arrCount := 0,
    gangFault := none, bad := [], producers := [], lastCode := 0 }

/-- The free warp slots of a partition, lowest first (02 R38). -/
def State.warpSlots (s : State) (core part : Nat) : List Nat :=
  (List.range Config.warpsPerPart).filter (fun k =>
    !((s.coreWarps core).any (fun e => e.2.part == part && e.2.slot == k)))

/-- The first place of `n` scratch bytes that no block of the core holds (log entry 41). -/
def State.scratchBase (s : State) (core n : Nat) : Nat :=
  let spans := (s.resident core).filterMap (fun e =>
    (s.blkLaunch e.2).map (fun L => (e.2.kbase, e.2.kbase + L.kscr + L.qscr)))
  let free (b : Nat) : Bool := spans.all (fun p => decide (b + n ≤ p.1) || decide (p.2 ≤ b))
  ((minBy id ((0 :: spans.map Prod.snd).filter free))).getD 0

/-- The lowest free block slot of a core (07 R170). -/
def State.freeSlot (s : State) (core : Nat) : Nat :=
  ((List.range 16).find? (fun k => !((s.resident core).any (fun e => e.2.slot == k)))).getD 0

/-- Segment number of an offset in a Pedric segment table, from entry `i` on (11 R259). -/
def State.segFind (s : State) (asid code off : Nat) : Nat → Nat → Option Nat
  | 0, _ => none
  | n + 1, i =>
    match s.vRead (via asid) (code + 0x80 + 4 * i) 4 with
    | .ok bs => if leNat bs = off then some i else State.segFind s asid code off n (i + 1)
    | .error _ => State.segFind s asid code off n (i + 1)

/-- A warp of a Pedric launch begins at the translation word address of its entry's segment
(11 R263); with no such segment it stays where the first fetch raises BAD_TARGET. -/
def State.pedricStart (s : State) (l : Launch) (w : Warp) : Warp :=
  if l.pedric then
    match s.segFind (s.jAsid l.job) l.code (roleEntry (l.role w.role)) l.nseg 0 with
    | some i => { w with lanes := w.lanes.map (fun x =>
        { x with pc := BitVec.ofNat 64 (l.trbase + 0x80 + 8 * i) }) }
    | none => w
  else w

/-- Places one block of a cluster on a core and makes its warps (02 R45 to R48; 03 R69, R70); a launch
that starts while the host is lost ends with HOST_LOST (12 R281). -/
def State.placeBlock (l : Launch) (cluster rank core : Nat) (s : State) : State :=
  let id := s.nextBlock
  let p0 := pickPart ((List.range 4).map (s.freeRegs core))
  let kb := s.scratchBase core (l.kscr + l.qscr)
  let b : Block :=
    { launch := l.id, cluster := cluster, rank := rank, core := core, slot := s.freeSlot core,
      done := false, p0 := p0, kbase := kb, qbase := kb + l.kscr,
      bars := List.replicate l.barsN Barrier.idle, cbufs := l.cbdesc.map CBuf.ofDesc,
      streams := List.replicate 8 none, tiles := List.replicate l.tiles Tile.init,
      nwarps := l.warpsPB, stopping := false, savedOn := none, held := false, saveOrder := 0,
      imageAt := 0, resumeWait := false }
  let ws := (List.range l.warpsPB).map (fun k => (32 * id + k, s.pedricStart l
    (l.newWarp k p0 ((s.warpSlots core ((p0 + k) % 4)).getD (k / 4) 0) (s.nextAge + k))))
  let s := { s with blocks := tset id b s.blocks, nextBlock := id + 1,
                    nextAge := s.nextAge + l.warpsPB,
                    warps := ws.foldl (fun t (e : Nat × Warp) => tset e.1 e.2 t) s.warps }
  let s := if l.parent.isSome then s.dropLeases core else s
  let s := s.modLaunch l.id (fun L => { L with
    status := if s.hostLost && L.status == 0 then 0x10 else L.status,
    coresUsed := if L.coresUsed.contains core then L.coresUsed else L.coresUsed ++ [core] })
  s.setReg (jOff l.job + 0x1C) (BitVec.ofInt 32 (s.jDeficit l.job - l.warpsPB))

/-- Cores of a die. -/
def dieCores (d : Nat) : List Nat :=
  (List.range Config.coresPerDie).map (fun k => Config.coresPerDie * d + k)

/-- Cores on which a block of the launch, of these costs, may stand now: free enough and within the
job's CORES. The dies are ordered by these counts, CORES included, and blocks take their cores one after
another without revision (DESIGN CHOICE, log entry 104). -/
def State.coresFor (s : State) (l : Launch) (cs : List Nat) (d : Nat) : List Nat :=
  let held := s.jobCores l.job
  (dieCores d).filter (fun c =>
    s.roomFor l cs c && (held.contains c || decide (held.length < s.coreLimit l.job)))

/-- Places blocks `rank` and up of a cluster on a die, each on the fitting core with the fewest
resident warps (03 R70). None: no room. -/
def State.placeOn (l : Launch) (cluster d : Nat) : Nat → Nat → State → Option State
  | 0, _, s => some s
  | n + 1, rank, s =>
    match minBy (fun c => (s.coreWarps c).length) (s.coresFor l l.costs d) with
    | none => none
    | some c => State.placeOn l cluster d n (rank + 1) (s.placeBlock l cluster rank c)

/-- The dies in the placer's order: most cores free enough first (03 R70); before them the die on
which a request made room (03 R71). -/
def State.dieOrder (s : State) (l : Launch) (cs : List Nat) : List Nat :=
  let ds := (List.range Config.dies).map (fun d => (d, (s.coresFor l cs d).length))
  let rec sort : Nat → List (Nat × Nat) → List Nat
    | 0, _ => []
    | fuel + 1, xs =>
      match minBy (fun x => 1024 - x.2) xs with
      | none => []
      | some x => x.1 :: sort fuel (xs.filter (fun y => y.1 != x.1))
  l.die.toList ++ sort 4 ds

/-- Places the next cluster of a launch on the first die that takes it (02 R50, R51; 03 R70). -/
def State.placeCluster (l : Launch) (s : State) : Option State :=
  (s.dieOrder l l.costs).findSome? (fun d =>
    (s.placeOn l l.nextCluster d l.clSize 0).map (fun s =>
      let k : Cluster := { launch := l.id, idx := l.nextCluster,
                           cbar := List.replicate 4 Barrier.idle, placedSeq := s.nextPlaced }
      let pr := s.effPrio l
      State.modLaunch l.id (fun L =>
        { L with nextCluster := L.nextCluster + 1,
                 prio := if L.nextCluster = 0 then pr else L.prio,
                 readySince := s.gtime + 1, die := none,
                 stage := if L.nextCluster + 1 = L.clusters then .running else L.stage })
        { s with clusters := s.clusters ++ [k], nextPlaced := s.nextPlaced + 1 }))

/-- Places every cluster of a co-resident launch, or none (02 R52). -/
def State.placeAll (lid : Nat) : Nat → State → Option State
  | 0, s => some s
  | n + 1, s =>
    match s.launch lid with
    | none => none
    | some l =>
      match s.placeCluster l with
      | none => none
      | some s => State.placeAll lid n s

/-- Places what the launch places at once: its next cluster, or all of them (03 R70). -/
def State.placeNext (lid : Nat) (s : State) : Option State :=
  match s.launch lid with
  | none => none
  | some l => if l.flags % 2 = 1 then s.placeAll lid (l.clusters - l.nextCluster)
              else s.placeCluster l

-- cancellation (02 R58 to R60)

/-- Removes a warp from every list in which it waits. -/
def State.dropWaiter (wid : Nat) (s : State) : State :=
  let s := s.modBlock (blkOf wid) (fun b => { b with cbufs := b.cbufs.map (fun x =>
    { x with resWait := x.resWait.filter (fun g => g / 32 != wid),
             acqWait := x.acqWait.filter (fun g => g / 32 != wid) }) })
  { s with cores := s.cores.map (fun e => (e.1,
    { e.2 with grow := e.2.grow.filter (fun g => g.wid != wid),
               racq := e.2.racq.filter (fun r => r.wid != wid) })) }

/-- A sequencer is bound to a group of the warp. -/
def State.isBound (s : State) (wid : Nat) : Bool :=
  (s.core (s.coreOf wid)).seqs.any (fun o => match o with | some b => b.wid == wid | none => false)

/-- Requests of an LNX of the warp are not yet answered: they run to their end first (09 R218). -/
def State.lnxPending (s : State) (wid : Nat) : Bool :=
  match s.warp wid with
  | some w => w.lnx.any (fun q => q.reply.isNone && q.fault.isNone)
  | none => false

/-- Copy commands of a launch that have not started are discarded (02 R58). -/
def State.dropCopies (lid : Nat) (s : State) : State :=
  let keep (e : QEntry) : Bool := match e with | .copy c => c.launch != lid | _ => true
  { s with
    cores := s.cores.map (fun e => (e.1, { e.2 with queue := e.2.queue.filter keep })),
    spill := s.spill.map (fun e => (e.1, e.2.filter (fun x => keep x.e))),
    saved := s.saved.map (fun e => (e.1, e.2.filter keep)),
    engines := s.engines.filter (fun e => keep (.copy e.2.cmd) || e.2.started) }

/-- A warp stops without EXIT: its lanes end, its waits and parked sub-warps with it, and the copy commands
of its launch that have not started (02 R58). A warp that has exited is not stopped. -/
def State.stopWarp (wid : Nat) (s : State) : State :=
  if (s.warp wid).all (fun w => w.live == 0) then s
  else
  let s := ((s.unbind wid 0xFFFFFFFF).dropWaiter wid).dropPackets (fun x => x == wid)
  let s := s.dropCopies (s.lidOf wid)
  let s := s.modBlock (blkOf wid) (fun b => { b with stopping := true })
  let s := s.modWarp wid (fun w =>
    { w with
      lanes := w.lanes.map (fun l => if l.st = .live then { l with st := .exited } else l),
      jOut := List.replicate 16 0, jWait := List.replicate 16 0, bars := [],
      wsync := List.replicate 2 { fixed := 0, arrived := 0 }, parked := [], handler := none,
      graft := none, emul := 0, waits := [], lnx := [], arrivals := [], gangFault := none })
  s.blockCheck (blkOf wid) false

/-- Saved blocks of a launch are discarded with their warps (02 R58). -/
def State.dropSaved (lid : Nat) (s : State) : State :=
  let ids := (s.blocks.filter (fun e => e.2.launch == lid && e.2.savedOn.isSome)).map Prod.fst
  { s with blocks := s.blocks.filter (fun e => !ids.contains e.1),
           warps := s.warps.filter (fun e => !ids.contains (blkOf e.1)),
           saved := s.saved.filter (fun e => !ids.contains e.1) }

/-- Cancels one launch (02 R58): nothing more starts, unbound warps stop at once, bound ones at
the end of their run. No effect once its counter is zero (02 R59, R60). A launch that was resident when the
host was lost and is cancelled as well keeps the status set first: 02 R58 and 12 R281 do not say which
(DESIGN CHOICE, log entry 103). -/
def State.cancelOne (lid : Nat) (st : BitVec 16) (s : State) : State :=
  match s.launch lid with
  | none => s
  | some l =>
    if l.cancelled || l.stage == .ending || l.stage == .done then s
    else
      let s := (s.dropSaved lid).dropCopies lid
      let left := (s.blocks.filter (fun e => e.2.launch == lid && !e.2.done)).length
      let s := s.modLaunch lid (fun L =>
        { L with cancelled := true, status := if L.status = 0 then st else L.status,
                 blocksLeft := left, stage := if left = 0 then .ending else L.stage })
      let ws := (s.warps.map Prod.fst).filter (fun w =>
        ((s.block (blkOf w)).map (·.launch)) == some lid)
      let s := ws.foldl (fun s w => if s.isBound w || s.lnxPending w then s else s.stopWarp w) s
      if st = stCancelled then
        (s.launches.filter (fun e => e.2.tailOf == some lid && e.2.stage == .waiting)).foldl
          (fun s e => s.modLaunch e.1 (fun L => { L.end stCancelled with cancelled := true })) s
      else s

def State.cancelLaunch (lid : Nat) (s : State) : State := s.cancelOne lid stCancelled

/-- Cancels the launches of a graph (02 R59). -/
def State.cancelGraph (g : Nat) (s : State) : State :=
  ((s.launches.filter (fun e => e.2.graph == g)).map Prod.fst).foldl (fun s l => s.cancelLaunch l)
    (s.modGraph g (fun x => { x with cancelled := true }))

/-- Cancels the graphs of a phase (02 R59). -/
def State.cancelPhase (job num : Nat) (s : State) : State :=
  ((s.graphs.filter (fun e => e.2.job == job && e.2.phase == num)).map Prod.fst).foldl
    (fun s g => s.cancelGraph g) s

/-- Cancels a job: its phases, and the job is FROZEN (02 R59; 03 R64). -/
def State.cancelJob (j : Nat) (s : State) : State :=
  if s.jState j = 0 then s
  else
    (((s.graphs.filter (fun e => e.2.job == j)).map Prod.fst).foldl (fun s g => s.cancelGraph g) s
      ).setRegF (jOff j + 0xC) 8 2 3

/-- A launch of a cancelled launch's warp: the warp stops at its run boundary (02 R58). -/
def State.stopIfCancelled (wid : Nat) (s : State) : State :=
  match s.launchOf wid with
  | none => s
  | some l => if l.cancelled && !s.isBound wid && !s.lnxPending wid then s.stopWarp wid else s

end Sys2Proof.Machine
end

