-- ==== Sys2Proof/Machine/Operands.lean ====
section
/-!
DEFINITION. Operand forms: sources read at 32 or 64 bits, memory addresses, the registers each
instruction reads and writes, and its latency (14 R301 to R304, R310; 17 R376).
-/

set_option Elab.async false

namespace Sys2Proof.Machine

-- reading and writing at a width (16 R328)

/-- Rd(x, n): a lane's register, or the even pair that begins at it. -/
def Warp.rdW (w : Warp) (l : Nat) (w64 : Bool) (r : LSpec) : DWord :=
  if w64 then w.rdL64 l r else (w.rdL l r).setWidth 64

/-- Wr(x, n, v). -/
def Warp.wrW (l : Nat) (w64 : Bool) (d : LSpec) (x : DWord) (w : Warp) : Warp :=
  if w64 then w.wrL64 l d x else w.wrL l d (loW x)

/-- U(x, n) for the group of a context. -/
def State.rdUW (s : State) (c : Ctx) (w64 : Bool) (u : USpec) : DWord :=
  if w64 then s.rdU64 c u else (s.rdU c u).setWidth 64

def State.wrUW (c : Ctx) (w64 : Bool) (u : USpec) (x : DWord) (s : State) : State :=
  if w64 then s.wrU64 c u x else s.wrU c u (loW x)

/-- The source b of a class B form (15 R321). -/
def srcB (w : Warp) (l : Nat) (w64 : Bool) : BSrc → DWord
  | .reg r => w.rdW l w64 r
  | .imm i => i.signExtend 64

/-- A source that may be uniform (14 R301). -/
def srcLU (s : State) (c : Ctx) (w : Warp) (l : Nat) (w64 : Bool) : LUSrc → DWord
  | .reg r => w.rdW l w64 r
  | .uni u => s.rdUW c w64 u

/-- The source b of a wide form (15 R323). -/
def srcW (s : State) (c : Ctx) (w : Warp) (l : Nat) (w64 : Bool) : WSrc → DWord
  | .reg r => w.rdW l w64 r
  | .uni u => s.rdUW c w64 u
  | .imm i => i.signExtend 64
  | .imm7 i => i.signExtend 64

/-- The source b of a uniform class B form (18 R414). -/
def srcU (s : State) (c : Ctx) (w64 : Bool) : USrc → DWord
  | .reg u => s.rdUW c w64 u
  | .imm i => i.signExtend 64

/-- The address of a memory operand in a lane: 64 bits in `.g`, 32 bits elsewhere (17 R376). -/
def MemOp.addr (s : State) (c : Ctx) (w : Warp) (l : Nat) (m : MemOp) (imm : DWord) : DWord :=
  let off := (((w.rdL l m.off).signExtend 64) <<< m.scale.val) + imm
  match m.space with
  | .g => s.rdU64 c m.base + off
  | _ => (loW ((s.rdU c m.base).setWidth 64 + off)).setWidth 64

-- which registers an instruction names

/-- Registers named by an instruction: the set, the first specifier code and how many follow. -/
structure Use where
  uset : Bool
  code : Nat
  n : Nat
deriving DecidableEq, Repr

def useL (n : Nat) (r : LSpec) : List Use := [{ uset := false, code := LSpec.code r, n := n }]
def useU (n : Nat) (u : USpec) : List Use := [{ uset := true, code := USpec.code u, n := n }]
def nW (w64 : Bool) : Nat := if w64 then 2 else 1
def useB (n : Nat) : BSrc → List Use
  | .reg r => useL n r
  | .imm _ => []
def useUS (n : Nat) : USrc → List Use
  | .reg u => useU n u
  | .imm _ => []
def useLU (n : Nat) : LUSrc → List Use
  | .reg r => useL n r
  | .uni u => useU n u
def useW (n : Nat) : WSrc → List Use
  | .reg r => useL n r
  | .uni u => useU n u
  | _ => []
def useM (m : MemOp) : List Use :=
  useU (match m.space with | .g => 2 | _ => 1) m.base ++ useL 1 m.off
def useBf : BfSel → List Use
  | .reg c => useL 1 c
  | .imm _ _ => []
def ldRegs : LdTy → Nat
  | .b64 => 2
  | .b128 => 4
  | _ => 1
def stRegs : StTy → Nat
  | .b64 => 2
  | .b128 => 4
  | _ => 1

/-- Registers that a wide form reads and writes. -/
def wideUse : WideOp → List Use × List Use
  | .int _ _ ty d a b => (useL (nW ty.wide64) a ++ useW (nW ty.wide64) b, useL (nW ty.wide64) d)
  | .iabs _ ty d b => (useW (nW ty.wide64) b, useL (nW ty.wide64) d)
  | .lea _ _ d a b => (useL 1 a ++ useW 2 b, useL 2 d)
  | .icmp _ w64 _ _ a b => (useL (nW w64) a ++ useW (nW w64) b, [])
  | .sel _ d a b => (useL 1 a ++ useW 1 b, useL 1 d)
  | .logic _ w d a b => (useL (nW w.is64) a ++ useW (nW w.is64) b, useL (nW w.is64) d)
  | .shift _ w d a b => (useL (nW w.is64) a ++ useW 1 b, useL (nW w.is64) d)
  | .bits op w d a _ => (useL (nW w.is64) a, useL (nW (w.is64 && op == .brev)) d)
  | .mov w d b => (useW (nW w.is64) b, useL (nW w.is64) d)
  | .flt _ _ d a b => (useL 1 a ++ useLU 1 b, useL 1 d)
  | .fmin d a b => (useL 1 a ++ useLU 1 b, useL 1 d)
  | .fmax d a b => (useL 1 a ++ useLU 1 b, useL 1 d)
  | .fcmp _ _ a b => (useL 1 a ++ useLU 1 b, [])
  | .frnd _ d b => (useLU 1 b, useL 1 d)
  | .dadd _ d a b => (useL 2 a ++ useLU 2 b, useL 2 d)
  | .dmul _ d a b => (useL 2 a ++ useLU 2 b, useL 2 d)
  | .dcmp _ _ a b => (useL 2 a ++ useLU 2 b, [])
  | .pkadd _ _ d a b => (useL 1 a ++ useLU 1 b, useL 1 d)
  | .pkmul _ _ d a b => (useL 1 a ++ useLU 1 b, useL 1 d)
  | .pkmin _ d a b => (useL 1 a ++ useLU 1 b, useL 1 d)
  | .pkmax _ d a b => (useL 1 a ++ useLU 1 b, useL 1 d)
  | .mfn _ d b => (useLU 1 b, useL 1 d)
  | .sxpk _ d a => (useL 1 a, useL 1 d)
  | .sxupk _ d a => (useL 1 a, useL 1 d)

/-- The v, t and s registers that an instruction reads, and those it writes (14 R304). The steps
of device agents and hints name none. -/
def regUse : Instr → List Use × List Use
  | .and w d a b => (useL (nW w.is64) a ++ useB (nW w.is64) b, useL (nW w.is64) d)
  | .or w d a b => (useL (nW w.is64) a ++ useB (nW w.is64) b, useL (nW w.is64) d)
  | .xor w d a b => (useL (nW w.is64) a ++ useB (nW w.is64) b, useL (nW w.is64) d)
  | .atom op ty _ _ m d b c =>
    (useM m ++ useL (nW ty.wide64) b ++ (if op == .cas then useL (nW ty.wide64) c else []),
     useL (nW ty.wide64) d)
  | .red _ ty _ _ m b => (useM m ++ useL (nW ty.wide64) b, [])
  | .bar _ cnt => (useUS 1 cnt, [])
  | .cbar _ cnt => (useUS 1 cnt, [])
  | .bfx w _ d a f => (useL (nW w.is64) a ++ useBf f, useL (nW w.is64) d)
  | .bfi w d a b f =>
    (useL (nW w.is64) a ++ useLU (nW w.is64) b ++ useBf f, useL (nW w.is64) d)
  | .brev w d a => (useL (nW w.is64) a, useL (nW w.is64) d)
  | .clz w d a => (useL (nW w.is64) a, useL 1 d)
  | .popc w d a => (useL (nW w.is64) a, useL 1 d)
  | .brx rel a => (useL (nW (!rel)) a, [])
  | .call d a ind _ => ((if ind then useL 2 a else []), useL 2 d)
  | .cbrsv d _ => ([], useU 1 d)
  | .cbacq d _ => ([], useU 1 d)
  | .cpy d a len c =>
    ((if c.dkind.val == 2 then [] else
        useU (nW (c.dkind.val == 1 || c.dspace.val == 0)) d) ++
      useU (nW (c.skind.val == 1 || c.sspace.val == 0)) a ++
      (match len with | .uni b => useU 1 b | .imm _ => []), [])
  | .cpyw _ b => (useUS 1 b, [])
  | .cvt _ _ dt st d b => (useLU (nW st.wide64) b, useL (nW dt.wide64) d)
  | .dadd _ d a b => (useL 2 a ++ useL 2 b, useL 2 d)
  | .dmul _ d a b => (useL 2 a ++ useL 2 b, useL 2 d)
  | .dfma _ d a b c => (useL 2 a ++ useLU 2 b ++ useL 2 c, useL 2 d)
  | .dcmp _ _ a b => (useL 2 a ++ useL 2 b, [])
  | .fadd _ d a b => (useL 1 a ++ useL 1 b, useL 1 d)
  | .fsub _ d a b => (useL 1 a ++ useL 1 b, useL 1 d)
  | .fmul _ d a b => (useL 1 a ++ useL 1 b, useL 1 d)
  | .fcmp _ _ a b => (useL 1 a ++ useL 1 b, [])
  | .ffma _ d a b c => (useL 1 a ++ useLU 1 b ++ useL 1 c, useL 1 d)
  | .fmax d a b => (useL 1 a ++ useL 1 b, useL 1 d)
  | .fmin d a b => (useL 1 a ++ useL 1 b, useL 1 d)
  | .frnd _ d b => (useL 1 b, useL 1 d)
  | .fshf _ _ d a b sh =>
    (useL 1 a ++ useLU 1 b ++ (match sh with | .reg c => useL 1 c | .imm _ => []), useL 1 d)
  | .gang b => (useU 1 b, [])
  | .gret t => (match t with | none => [] | some u => useU 2 u, [])
  | .hret t => (match t with | none => [] | some u => useU 2 u, [])
  | .iabs _ ty d b => (useL (nW ty.wide64) b, useL (nW ty.wide64) d)
  | .iadd _ ty d a b => (useL (nW ty.wide64) a ++ useL (nW ty.wide64) b, useL (nW ty.wide64) d)
  | .isub _ ty d a b => (useL (nW ty.wide64) a ++ useL (nW ty.wide64) b, useL (nW ty.wide64) d)
  | .imul _ ty d a b => (useL (nW ty.wide64) a ++ useL (nW ty.wide64) b, useL (nW ty.wide64) d)
  | .imulhi ty d a b => (useL (nW ty.wide64) a ++ useL (nW ty.wide64) b, useL (nW ty.wide64) d)
  | .imin ty d a b => (useL (nW ty.wide64) a ++ useL (nW ty.wide64) b, useL (nW ty.wide64) d)
  | .imax ty d a b => (useL (nW ty.wide64) a ++ useL (nW ty.wide64) b, useL (nW ty.wide64) d)
  | .icmp _ w64 _ _ a b => (useL (nW w64) a ++ useL (nW w64) b, [])
  | .idp4 _ _ _ d a b c => (useL 1 a ++ useLU 1 b ++ useL 1 c, useL 1 d)
  | .imad _ ty d a b c =>
    (useL (nW ty.wide64) a ++ useLU (nW ty.wide64) b ++ useL (nW ty.wide64) c,
     useL (nW ty.wide64) d)
  | .jarm _ m => (match m with | .uni b => useU 1 b | _ => [], [])
  | .launch _ d a => (useU 2 a, useU 2 d)
  | .ld _ _ ty _ m d _ => (useM m, useL (ldRegs ty) d)
  | .lea _ _ d a b => (useL 1 a ++ useL 2 b, useL 2 d)
  | .lnx _ d a b c base _ _ _ => (useL 1 a ++ useL 8 b ++ useU 2 base, useL 2 d ++ useL 1 c)
  | .logic3 w d a b c _ =>
    (useL (nW w.is64) a ++ useLU (nW w.is64) b ++ useL (nW w.is64) c, useL (nW w.is64) d)
  | .matchLanes w _ d a => (useL (nW w.is64) a, useL 1 d)
  | .mfn _ d b => (useL 1 b, useL 1 d)
  | .mma _ a b f => (useU 4 a ++ useU 4 b ++ useL 1 f, [])
  | .mmat _ a b f => (useU 4 a ++ useU 4 b ++ useL 1 f, [])
  | .mov w d b => (useB (nW w.is64) b, useL (nW w.is64) d)
  | .movi w keep d _ _ => ((if keep then useL (nW w.is64) d else []), useL (nW w.is64) d)
  | .pkadd _ _ d a b => (useL 1 a ++ useL 1 b, useL 1 d)
  | .pkmul _ _ d a b => (useL 1 a ++ useL 1 b, useL 1 d)
  | .pkmin _ d a b => (useL 1 a ++ useL 1 b, useL 1 d)
  | .pkmax _ d a b => (useL 1 a ++ useL 1 b, useL 1 d)
  | .pkfma _ _ d a b c => (useL 1 a ++ useLU 1 b ++ useL 1 c, useL 1 d)
  | .psel d a b sl =>
    (useL 1 a ++ useLU 1 b ++ (match sl with | .reg c => useL 1 c | .imm _ => []), useL 1 d)
  | .racq b => (useU 1 b, [])
  | .rdctl d r => ([], useU r.wide d)
  | .wrctl r a => (useU r.wide a, [])
  | .rds d sp => ([], useL (nW sp.wide64) d)
  | .redx _ ty _ d a => (useL (nW ty.wide64) a, useL (nW ty.wide64) d)
  | .scan _ ty _ _ d a => (useL (nW ty.wide64) a, useL (nW ty.wide64) d)
  | .ret a => (useL 2 a, [])
  | .sarm _ a => (useU 2 a, [])
  | .sel _ d a b => (useL 1 a ++ useL 1 b, useL 1 d)
  | .shfl _ w d a k _ =>
    (useL (nW w.is64) a ++
      (match k with | .reg r => useL 1 r | .uni u => useU 1 u | .imm _ => []),
     useL (nW w.is64) d)
  | .shl w d a b => (useL (nW w.is64) a ++ useB 1 b, useL (nW w.is64) d)
  | .shr w d a b => (useL (nW w.is64) a ++ useB 1 b, useL (nW w.is64) d)
  | .sar w d a b => (useL (nW w.is64) a ++ useB 1 b, useL (nW w.is64) d)
  | .sld d _ _ => ([], useL 1 d)
  | .st _ _ ty _ m d _ => (useM m ++ useL (stRegs ty) d, [])
  | .sxpk _ d a => (useL 1 a, useL 1 d)
  | .sxupk _ d a => (useL 1 a, useL 1 d)
  | .tld _ a => (useU 4 a, [])
  | .tst _ a => (useU 4 a, [])
  | .tstat _ d _ => ([], useU 1 d)
  | .uadd _ ty d a b => (useU (nW ty.wide64) a ++ useU (nW ty.wide64) b, useU (nW ty.wide64) d)
  | .usub _ ty d a b => (useU (nW ty.wide64) a ++ useU (nW ty.wide64) b, useU (nW ty.wide64) d)
  | .umul _ ty d a b => (useU (nW ty.wide64) a ++ useU (nW ty.wide64) b, useU (nW ty.wide64) d)
  | .umad _ ty d a b c =>
    (useU (nW ty.wide64) a ++ useU (nW ty.wide64) b ++ useU (nW ty.wide64) c,
     useU (nW ty.wide64) d)
  | .uand w d a b => (useU (nW w.is64) a ++ useUS (nW w.is64) b, useU (nW w.is64) d)
  | .uor w d a b => (useU (nW w.is64) a ++ useUS (nW w.is64) b, useU (nW w.is64) d)
  | .uxor w d a b => (useU (nW w.is64) a ++ useUS (nW w.is64) b, useU (nW w.is64) d)
  | .ushl w d a b => (useU (nW w.is64) a ++ useUS 1 b, useU (nW w.is64) d)
  | .ushr w d a b => (useU (nW w.is64) a ++ useUS 1 b, useU (nW w.is64) d)
  | .usar w d a b => (useU (nW w.is64) a ++ useUS 1 b, useU (nW w.is64) d)
  | .umov w d b => (useUS (nW w.is64) b, useU (nW w.is64) d)
  | .umovi w keep d _ _ => ((if keep then useU (nW w.is64) d else []), useU (nW w.is64) d)
  | .ucmp _ w64 _ _ a b => (useU (nW w64) a ++ useU (nW w64) b, [])
  | .usel _ d a b => (useU 1 a ++ useU 1 b, useU 1 d)
  | .ulea _ _ d a b => (useU 1 a ++ useU 2 b, useU 2 d)
  | .vote mode _ d _ _ => ([], if mode == .ballot then useL 1 d else [])
  | .waita _ w _ _ m d b _ => (useM m ++ useL (nW w.is64) b, useL (nW w.is64) d)
  | .wcall base q _ => (useU 2 base ++ useL 4 q, [])
  | .wsync b => (useU 1 b, [])
  | .wideForm op => wideUse op
  | _ => ([], [])

/-- A use lies within the warp's allotments; the graft and handler banks are the exceptions
(14 R304). -/
def Use.ok (w : Warp) (l : Nat) (u : Use) : Bool :=
  (List.range u.n).all (fun k =>
    let code := u.code + k
    if u.code < 112 then
      if u.uset then
        decide (code < w.sregs) || (decide (96 ≤ code) && (w.inHandler l || w.inGraft l))
      else decide (code < w.vregs) || (decide (104 ≤ code) && w.inGraft l)
    else true)

/-- Register keys of a use as lane `l` names it: a vector or temporary register by its code (below 4096),
a uniform one by its poison key; specials have none. -/
def Use.keys (w : Warp) (l : Nat) (u : Use) : List Nat :=
  if u.uset then
    if u.code < 112 then (List.range u.n).map (fun k => w.scode l (u.code + k)) else []
  else if u.code < 120 then (List.range u.n).map (fun k => w.vcode l (u.code + k)) else []

/-- The keys of a use outside handler and graft mode, in the low half. -/
def Use.plainKeys (u : Use) : List Nat :=
  if u.uset then
    if u.code < 112 then (List.range u.n).map (fun k => ukey 0 (u.code + k)) else []
  else if u.code < 120 then (List.range u.n).map (fun k => u.code + k) else []

def keysOf (w : Warp) (l : Nat) (us : List Use) : List Nat := us.flatMap (Use.keys w l)

-- flags, rejoin masks and wait counters that an instruction names (01 R9, R37)

/-- Flags of lanes, uniform flags, rejoin masks and wait counters by number. -/
structure FlagUse where
  f : List Nat := []
  g : List Nat := []
  j : List Nat := []
  w : List Nat := []

/-- Flag of a branch condition. -/
def condFlag : BrCond → List Nat
  | .always => []
  | .flag n => [n.val]
  | .notFlag n => [n.val]

/-- The flags, masks and counters that an instruction reads. -/
def flagReads : Instr → FlagUse
  | .bra c _ => { f := condFlag c }
  | .ubra c _ => { g := condFlag c }
  | .sel n _ _ _ => { f := [n.val] }
  | .usel n _ _ _ => { g := [n.val] }
  | .wideForm (.sel n _ _ _) => { f := [n.val] }
  | .vote _ _ _ _ a => { f := [a.val] }
  | .jwait n => { j := [n.val] }
  | .jdrop n => { j := [n.val] }
  | .cpyw n _ => { w := [n.val] }
  | _ => {}

/-- Those that it writes. -/
def flagWrites : Instr → FlagUse
  | .icmp _ _ _ n _ _ => { f := [n.val] }
  | .fcmp _ n _ _ => { f := [n.val] }
  | .dcmp _ n _ _ => { f := [n.val] }
  | .wideForm (.icmp _ _ _ n _ _) => { f := [n.val] }
  | .wideForm (.fcmp _ n _ _) => { f := [n.val] }
  | .wideForm (.dcmp _ n _ _) => { f := [n.val] }
  | .vote mode _ _ fd _ => if mode = .ballot then {} else { f := [fd.val] }
  | .shfl _ _ _ _ _ f => { f := (f.map (·.val)).toList }
  | .sld _ _ f => { f := (f.map (·.val)).toList }
  | .reggrow n _ => { g := [n.val] }
  | .ucmp _ _ _ n _ _ => { g := [n.val] }
  | .jarm n _ => { j := [n.val] }
  | _ => {}

/-- Poison keys of a use that concern a whole group. -/
def FlagUse.groupKeys (half : Nat) (x : FlagUse) : List Nat :=
  x.g.map (gkey half) ++ x.j.map jkey ++ x.w.map (wkey half)

-- classes of instructions (01 R22)

/-- The classes whose results a check recomputes; the others are commit-issued (01 R22). -/
def isSpeculative : Instr → Bool
  | .ld strong acq .. => !strong && !acq
  | .rds _ sp => sp != .gtime && sp != .clock
  | .st .. | .atom .. | .red .. | .lnx .. | .waita .. | .fence .. | .racq .. | .rdctl .. | .exit
  | .bkpt | .yield | .part .. | .gang .. | .wsync .. | .bar .. | .cbar .. | .mma .. | .mmat ..
  | .tld .. | .tst .. | .tzero .. | .twait .. | .tstat .. | .cpy .. | .cpyw .. | .cbrsv .. | .cbcmt ..
  | .cbacq .. | .cbrel .. | .sarm .. | .sdis .. | .reggrow .. | .regshr .. | .launch .. | .cancel ..
  | .wcall .. | .wrctl .. | .hret .. | .gret .. | .ckpt => false
  | _ => true

/-- Weak loads with no ordering modifier, which alone may be value-predicted (01 R20, R22). -/
def isWeakLoad : Instr → Bool
  | .ld strong acq .. => !strong && !acq
  | _ => false

/-- Loads performed at their check: weak loads and stream loads (01 R17, R22). -/
def isCheckedLoad : Instr → Bool
  | .sld .. => true
  | i => isWeakLoad i

/-- Instructions whose sources lie in other lanes too (01 R14 condition 5, R22). -/
def isCrossLane : Instr → Bool
  | .shfl .. | .vote .. | .redx .. | .scan .. | .matchLanes .. | .sxpk .. | .sxupk ..
  | .wideForm (.sxpk ..) | .wideForm (.sxupk ..) => true
  | _ => false

-- stream records (07 R163)

/-- Bits of a stream record. -/
def rcF (r : BitVec 512) (lo w : Nat) : Nat := bitsOf r.toNat lo w
def rcEsize (r : BitVec 512) : Nat := rcF r 384 3

/-- Registers that an element of a stream fills (07 R166). -/
def rcRegs (r : BitVec 512) : Nat :=
  match rcEsize r with
  | 3 => 2
  | 4 => 4
  | _ => 1

/-- The registers that an instruction writes: those of SLD by the stream's width (07 R166). -/
def State.destUse (s : State) (wid : Nat) (i : Instr) : List Use :=
  match i with
  | .sld d n _ =>
    match ((s.block (blkOf wid)).bind (fun b => b.streams.getD n.val none)) with
    | some z => useL (rcRegs z.rcd) d
    | none => useL 1 d
  | i => (regUse i).2

/-- Latency of the registers an instruction writes (14 R310); none: variable. -/
def latency : Instr → Option Nat
  | .imul _ ty _ _ _ | .imulhi ty _ _ _ | .imad _ ty _ _ _ _ | .umul _ ty _ _ _
  | .umad _ ty _ _ _ _ => some (if ty.wide64 then 8 else 4)
  | .dadd .. | .dmul .. | .dfma .. | .dcmp .. => some 8
  | .shfl .. | .vote .. | .redx .. | .scan .. | .matchLanes .. | .sxpk .. | .sxupk .. => some 8
  | .rds _ sp => if sp = .gtime ∨ sp = .clock then none else some 8
  | .wideForm op =>
    match op with
    | .int op _ ty _ _ _ =>
      some (if ty.wide64 && (op == .mul || op == .mulhi) then 8 else 4)
    | .dadd .. | .dmul .. | .dcmp .. | .sxpk .. | .sxupk .. => some 8
    | .mfn .. => none
    | _ => some 4
  | .ld .. | .sld .. | .atom .. | .lnx .. | .mfn .. | .waita .. | .rdctl .. | .cbrsv .. | .cbacq ..
  | .launch .. | .tstat .. | .reggrow .. => none
  | _ => some 4

/-- The instructions that must be the last of their run (04 R87, 17 R366). -/
def endsRun : Instr → Bool
  | .bra .. | .brx .. | .call .. | .ret .. | .ubra .. | .jwait .. | .exit | .yield | .wsync ..
  | .bar .. | .cbar .. | .hret .. | .gret .. => true
  | _ => false

end Sys2Proof.Machine
end

