-- ==== Sys2Proof/Machine/Issue.lean ====
section
/-!
DEFINITION. Issue of warp instructions: fetching a run, choosing the next group, the checks made
before an instruction, what follows its effect, and the bodies shared by families (01 R13, R30,
R37; 03 R80, R81; 04 R83 to R87; 11 R248 to R252, R263; 14 R304, R307 to R309).
-/

set_option Elab.async false

namespace Sys2Proof.Machine

-- fetching a run (14 R307, R308; 11 R252, R263)

/-- A word of code: the graft region by offset, else memory through the checker cache (01 R13). -/
def State.fetchWord (core asid : Nat) (priv inGraft : Bool) (gen : Nat) (va : DWord) (s : State) :
    Except FaultInfo Word × State :=
  if inGraft then
    (.ok (BitVec.ofNat 32 (leNat (rdFMap (s.graftOf gen).region va.toNat 4))), s)
  else
    match s.translate core asid va.toNat .fetch priv with
    | .bad f => (.error f, s)
    | .held _ => (.error heldFault, s)
    | .ok p =>
      if p.mt = 1 then
        if s.poisonedR p.loc 4 then (.error (poisonFault va.toNat), s)
        else (.ok (BitVec.ofNat 32 (leNat (s.rdMem p.loc 4))), s)
      else
        let (c, s) := s.ccLine core (p.loc / 128)
        if bitOf c.bad (p.loc % 128 / 64) then (.error (poisonFault va.toNat), s)
        else (.ok (BitVec.ofNat 32 (leNat ((c.data.drop (p.loc % 128)).take 4))), s)

/-- `n` words of code. -/
def State.fetchWords (core asid : Nat) (priv inGraft : Bool) (gen : Nat) :
    Nat → DWord → State → Except FaultInfo (List Word) × State
  | 0, _, s => (.ok [], s)
  | n + 1, va, s =>
    match s.fetchWord core asid priv inGraft gen va with
    | (.error f, s) => (.error f, s)
    | (.ok w, s) =>
      match State.fetchWords core asid priv inGraft gen n (va + 4) s with
      | (.error f, s) => (.error f, s)
      | (.ok ws, s) => (.ok (w :: ws), s)

/-- BAD_TARGET at an address (10 R219). -/
def badTarget (va : DWord) : FaultInfo := { code := 0x03, addr := va }

/-- RunAt (14 R307): the body so far in `ws`, `n` instructions, next word at `q`. -/
def State.runAt (core asid : Nat) (priv inGraft : Bool) (gen : Nat) (p : DWord) :
    Nat → Nat → List Word → DWord → State → Except FaultInfo Run × State
  | 0, _, _, _, s => (.error (badTarget p), s)
  | fuel + 1, n, ws, q, s =>
    match s.fetchWord core asid priv inGraft gen q with
    | (.error f, s) => (.error f, s)
    | (.ok w, s) =>
      if bitsOf w.toNat 24 8 = 0xFC then
        if 1 ≤ n ∧ bitsOf w.toNat 19 5 = n - 1 ∧ bitsOf w.toNat 9 7 = ws.length then
          match s.fetchWords core asid priv inGraft gen 3 (q + 4) with
          | (.error f, s) => (.error f, s)
          | (.ok t, s) => (.ok { words := ws, count := n, trailer := w :: t }, s)
        else (.error (badTarget p), s)
      else if n = 24 then (.error (badTarget p), s)
      else
        match s.fetchWords core asid priv inGraft gen (lengthOf w - 1) (q + 4) with
        | (.error f, s) => (.error f, s)
        | (.ok t, s) =>
          State.runAt core asid priv inGraft gen p fuel (n + 1) (ws ++ w :: t)
            (q + BitVec.ofNat 64 (4 * lengthOf w)) s

/-- Name k of a trailer. -/
def trName (t : List Word) (k : Nat) : Nat := bitsOf (t.getD 1 0).toNat (8 * k) 8
/-- Names in use. -/
def trNN (t : List Word) : Nat := bitsOf (t.getD 0 0).toNat 16 3

/-- The trailer keeps the table of 14 R308. -/
def trailerOk (t : List Word) (count : Nat) : Bool :=
  let nn := trNN t
  decide (nn ≤ 4) && bitsOf (t.getD 0 0).toNat 0 9 == 0 && bitsOf (t.getD 3 0).toNat 16 16 == 0 &&
  (List.range 4).all (fun k =>
    if k < nn then decide (trName t k % 128 < 112) else trName t k == 0) &&
  (List.range 24).all (fun k => decide (k < count) || stallCode t k == 0)

/-- The register keys that a trailer names, as lane `l` names registers (14 R308). -/
def trNames (t : List Word) (w : Warp) (l : Nat) : List Nat :=
  (List.range (min 4 (trNN t))).map (fun k =>
    let x := trName t k
    if 128 ≤ x then w.scode l (x - 128) else w.vcode l x)

-- the checking scoreboard (01 R30)

/-- Gap of a stall code (14 R309). -/
def gapOf (sc : Nat) : Nat := 2 ^ sc

/-- Changes the part of each producer that concerns lanes `m`. -/
def splitProducers (m : Mask) (f : Producer → Option Producer) (ps : List Producer) :
    List Producer :=
  ps.flatMap (fun p =>
    let rest := if p.mask &&& ~~~m = 0 then [] else [{ p with mask := p.mask &&& ~~~m }]
    if p.mask &&& m = 0 then rest
    else rest ++ (f { p with mask := p.mask &&& m }).toList)

/-- An instruction of lanes `m` commits: it becomes the producer of what it writes, and its gap
counts for every producer of those lanes. -/
def noteCommit (m : Mask) (keys : List Nat) (lat : Option Nat) (sc : Nat) (ps : List Producer) :
    List Producer :=
  let ps := ps.filterMap (fun p =>
    if keys.contains p.key then
      if 4096 ≤ p.key ∨ p.mask &&& ~~~m = 0 then none else some { p with mask := p.mask &&& ~~~m }
    else some p)
  let new := keys.map (fun k =>
    ({ mask := m, key := k, varLat := lat.isNone, latency := lat.getD 0, gap := 0, runsAgo := 0,
       named := false } : Producer))
  splitProducers m (fun p => some { p with gap := p.gap + gapOf sc }) (ps ++ new)

/-- A run of lanes `m` ends under a trailer. -/
def noteRunEnd (m : Mask) (names : List Nat) (ps : List Producer) : List Producer :=
  splitProducers m (fun p =>
    let p := { p with runsAgo := p.runsAgo + 1, named := p.named || names.contains p.key }
    if p.varLat then (if p.named then none else some p)
    else if 1 < p.runsAgo then none else some p) ps

/-- A register read is undersized (01 R30). -/
def undersized (m : Mask) (keys : List Nat) (ps : List Producer) : Bool :=
  ps.any (fun p => p.mask &&& m != 0 && keys.contains p.key &&
    (if p.varLat then p.runsAgo == 0 || !p.named
     else decide (p.runsAgo ≤ 1) && decide (p.gap < p.latency)))

/-- Sets the binding of a sequencer. -/
def State.setSeq (core part seq : Nat) (b : Option Binding) (s : State) : State :=
  s.modCore core (fun k => { k with seqs := lput none (2 * part + seq) b k.seqs })

-- groups of a warp (04 R83, R84; 02 R51)

/-- Lanes held by the bindings of a warp. -/
def State.boundLanes (s : State) (wid : Nat) : Mask :=
  (s.core (s.coreOf wid)).seqs.foldl (fun m o =>
    match o with
    | some b => if b.wid = wid then m ||| b.mask else m
    | none => m) 0

/-- Lanes that wait at a barrier, a JWAIT or inside a run, that are parked, or that wait for graft mode. -/
def Warp.heldLanes (w : Warp) : Mask :=
  let m := w.bars.foldl (fun m b => m ||| b.mask) 0
  let m := w.wsync.foldl (fun m b => m ||| b.arrived) m
  let m := w.jWait.foldl (fun m b => m ||| b) m
  let m := w.waits.foldl (fun m b => m ||| b.mask) m
  w.parked.foldl (fun m p => m ||| p.mask) (m ||| w.emul)

/-- The block's warps do not run: it is saved, or not yet resumed (10 R237; 07 R177). -/
def State.blockOff (s : State) (blk : Nat) : Bool :=
  match s.block blk with
  | none => true
  | some b => b.savedOn.isSome || b.resumeWait

/-- The block is a victim: its warps start no new run (10 R237). -/
def State.isVictim (s : State) (blk : Nat) : Bool :=
  match s.block blk with
  | none => false
  | some b => s.pre.any (fun r =>
      r.victims.any (fun v => v.launch == b.launch && v.cluster == b.cluster))

/-- Lanes that stand inside a run. -/
def Warp.midRun (w : Warp) : Mask :=
  maskOf ((List.range 32).filter (fun l => (w.lane l).st == .live && (w.lane l).run.isSome))

/-- Lanes that may form issue groups (04 R83): those of a victim only to finish their run. -/
def State.candLanes (s : State) (wid : Nat) (w : Warp) : Mask :=
  let m := w.live &&& ~~~w.heldLanes &&& ~~~s.boundLanes wid
  let m := if s.isVictim (blkOf wid) then m &&& w.midRun else m
  if s.blockOff (blkOf wid) then 0
  else if w.waits = [] then m
  else
    match w.handler with
    | none => 0
    | some h =>
      if w.waits.all (fun b => ((b.tag.map (·.why)) == some .waita) &&
          (lanesOf b.mask).all (fun l => (w.lane l).pc == h.pc)) then m &&& h.mask
      else 0

/-- What lanes of one group share: address, run with its generation and SCORE, half, mode. -/
def Warp.groupKey (w : Warp) (l : Nat) : Nat × Option (Nat × Nat × Bool) × Nat × Bool × Bool :=
  let x := w.lane l
  (x.pc.toNat, x.run.map (fun r => (r.toNat, x.gen, x.score)), w.half l, w.inHandler l, w.inGraft l)

/-- The candidate groups of lanes (04 R83, R99). -/
def Warp.groups (w : Warp) : Nat → List Nat → List Mask
  | 0, _ => []
  | fuel + 1, ls =>
    match ls with
    | [] => []
    | l :: _ =>
      let same := ls.filter (fun k => w.groupKey k == w.groupKey l)
      maskOf same :: Warp.groups w fuel (ls.filter (fun k => w.groupKey k != w.groupKey l))

/-- Largest pass count in a group. -/
def Warp.passed (w : Warp) (m : Mask) : Nat := ((lanesOf m).map (fun l => (w.lane l).pass)).foldl max 0

/-- Order of groups: lowest program counter, then lowest lane (04 R84). -/
def Warp.groupRank (w : Warp) (m : Mask) : Nat :=
  32 * (w.lane (lowLane m)).pc.toNat + lowLane m

/-- NextGroup (04 R84): the group and the warp with its pass counts updated. -/
def State.nextGroup (s : State) (wid : Nat) (w : Warp) : Option (Mask × Warp) :=
  let gs := w.groups 32 (lanesOf (s.candLanes wid w))
  match gs.find? (fun g => w.inGraft (lowLane g)) with
  | some g => some (g, w)
  | none =>
    let gs' := if w.lastYield then gs.filter (fun g => g &&& w.lastRun == 0) else gs
    let gs := if gs' = [] then gs else gs'
    let late := gs.filter (fun g => decide (16 ≤ w.passed g))
    let pick := if late = [] then minBy w.groupRank gs
      else
        let top := (late.map w.passed).foldl max 0
        minBy w.groupRank (late.filter (fun g => w.passed g == top))
    match pick with
    | none => none
    | some n =>
      let others := gs.foldl (fun m g => m ||| g) 0 &&& ~~~n
      some (n, (w.modLanes others (fun l => { l with pass := min 16 (l.pass + 1) })).modLanes n
        (fun l => { l with pass := 0 }))

/-- Binds a group to a sequencer at its run start, or inside a run after a resumption (03 R80). At a run
start temporaries are zero, and the mode, SCORE, the speculation level and the slot generation in force
are taken, which the run keeps to its end (01 R13, R28, R34; 04 R86; 11 R256). -/
def State.bindGroup (core part seq wid : Nat) (m : Mask) (s : State) : State :=
  match s.warp wid with
  | none => s
  | some w =>
    let l0 := w.lane (lowLane m)
    let g := w.inGraft (lowLane m)
    let atStart := l0.run.isNone
    let start := l0.run.getD l0.pc
    let gen := if g then (w.graft.map (·.gen)).getD 0 else if atStart then s.graft.gen else l0.gen
    let b : Binding := { wid := wid, mask := m, start := start, inGraft := g, gen := gen,
                         run := none, tag := none }
    let lv := (s.core core).level
    let w := if atStart then
        { ((w.setTemps m []).modLanes m (fun l => { l with gen := gen, score := w.score })) with
          effilk := w.hdrilk || w.ilk || lv == 5, level := lv }
      else w
    let w := { w with yielded := false, lastYield := false }
    State.setSeq core part seq (some b) { s with warps := tset wid w s.warps }

/-- Frees a sequencer. -/
def State.freeSeq (core part seq : Nat) (s : State) : State :=
  s.setSeq core part seq none

/-- A sequencer whose group has no lane left in its run is free; a cancelled launch's warp then
stops (02 R58, 03 R80). -/
def State.settle (core part seq wid : Nat) (s : State) : State :=
  let s := match s.seqAt core part seq, s.warp wid with
    | some b, some w =>
      if w.inRun b = [] then
        (s.freeSeq core part seq).modWarp wid (fun w =>
          { w with lastRun := b.mask, lastYield := w.yielded })
      else s
    | some _, none => s.freeSeq core part seq
    | none, _ => s
  s.stopIfCancelled wid

-- before and after an instruction's own effect

/-- ILLEGAL_ENCODING (10 R219). -/
def illEnc : FaultInfo := { code := 0x02 }

/-- The checks of 14 R304 and 04 R87: the group fault of an instruction that breaks them. -/
def preFault (i : Instr) (c : Ctx) (w : Warp) : Option FaultInfo :=
  let l := lowLane c.mask
  let (rd, wr) := regUse i
  if !i.wf || !(rd ++ wr).all (Use.ok w l) || (endsRun i && !c.last) then some illEnc
  else if c.score && !w.effilk && undersized c.mask (keysOf w l rd) w.producers then
    some { code := 0x0A }
  else none

/-- Lanes whose entries that the instruction reads are poisoned: their own registers and flags, or an entry of
the whole group (01 R37; DEDUCED, log entry 26). -/
def poisonLanes (i : Instr) (c : Ctx) (w : Warp) : List Nat :=
  if w.bad = [] then []
  else
    let l0 := lowLane c.mask
    let ks := keysOf w l0 (regUse i).1
    let fl := flagReads i
    let grp := ks.filter (fun k => decide (4096 ≤ k)) ++ fl.groupKeys (w.half l0)
    if grp.any w.bad.contains then lanesOf c.mask
    else (lanesOf c.mask).filter (fun l =>
      ks.any (fun k => decide (k < 4096) && w.bad.contains (32 * k + l)) ||
        fl.f.any (fun n => w.bad.contains (fkey l n)))

/-- Lanes go on after an instruction: to the next one, or past the trailer. -/
def State.advance (c : Ctx) (m : Mask) (s : State) : State :=
  s.modWarp c.wid (fun w => w.modLanes m (fun l => { l with
    pc := if c.last then c.nxt else c.pc + BitVec.ofNat 64 (4 * c.n),
    run := if c.last then none else some c.start, retry := 0, bkpt := none }))

/-- Lanes leave the run for their targets; a lane not listed falls through (04 R87). -/
def State.jumpTo (c : Ctx) (m : Mask) (t : List (Nat × DWord)) (s : State) : State :=
  s.modWarp c.wid (fun w => foldLanes m (fun l w => w.modLane l (fun x => { x with
    pc := ((t.find? (fun e => e.1 == l)).map Prod.snd).getD c.nxt, run := none, retry := 0,
    bkpt := none })) w)

/-- The bound group leaves its sequencer and waits with a tag (02 R51; 03 R80; DEDUCED, log entry 119). -/
def State.park2wait (c : Ctx) (tag : WaitTag) (s : State) : State :=
  match s.seqAt c.core c.part c.seq with
  | none => s
  | some b =>
    if b.wid = c.wid then
      (s.freeSeq c.core c.part c.seq).modWarp c.wid (fun w =>
        { w with waits := w.waits ++ [{ b with tag := some tag }] })
    else s

/-- START of a warp's launch (02 R56): the time of its first commit. -/
def State.noteStart (wid : Nat) (s : State) : State :=
  match s.block (blkOf wid) with
  | none => s
  | some b => s.modLaunch b.launch (fun L =>
      { L with startT := if L.startT = 0 then s.gtime else L.startT })

/-- Poison marks of the flags, rejoin masks and wait counters that lanes `m` write are cleared (01 R37). -/
def Warp.cleanFlags (i : Instr) (m : Mask) (w : Warp) : Warp :=
  if w.bad = [] then w
  else
    let x := flagWrites i
    let ks := (lanesOf m).flatMap (fun l => x.f.map (fkey l)) ++ x.groupKeys (w.half (lowLane m))
    { w with bad := w.bad.filter (fun k => !ks.contains k) }

/-- Scoreboard, marks and counters after lanes `m` have committed an instruction (01 R30, R33, R37; 02
R56). -/
def State.noteDone (i : Instr) (c : Ctx) (m : Mask) (s : State) : State :=
  if m = 0 then s
  else
    let us := s.destUse c.wid i
    let s := s.modWarp c.wid (fun w =>
      let ps := noteCommit m (keysOf w (lowLane m) us) (latency i) c.sc w.producers
      let ps := if c.last then noteRunEnd m (trNames (c.raw.drop c.n) w (lowLane m)) ps else ps
      Warp.cleanFlags i m { w with producers := ps })
    let s := s.modCore c.core (fun k => { k with winCommits := k.winCommits + 1 })
    s.noteStart c.wid

/-- What follows an instruction's own effect: where its lanes go, the faults it raised, and its
sequencer. -/
def applyRes (i : Instr) (c : Ctx) (pre : List (Nat × FaultInfo)) (r : Res) : State :=
  let fs := pre ++ r.faults
  let ok := c.mask &&& ~~~maskOf (fs.map Prod.fst)
  let s := match r.flow with
    | .seq => (r.s.noteDone i c ok).advance c ok
    | .jump t => (r.s.noteDone i c ok).jumpTo c ok t
    | .stay why phase arg => if ok = 0 then r.s else r.s.park2wait c { why := why, phase := phase, arg := arg }
    | .placed => r.s.noteDone i c ok
  let s := if fs = [] then s else s.takeFaults c.at c.n c.last fs
  s.settle c.core c.part c.seq c.wid

/-- The context of an instruction that comes back from a wait no longer carries the tag. -/
def State.clearTag (c : Ctx) (s : State) : State :=
  if c.tag.isNone then s
  else s.setSeq c.core c.part c.seq ((s.seqAt c.core c.part c.seq).map (fun b => { b with tag := none }))

-- mismatches (01 R15, R24, R30 to R35)

/-- A core fails: issue stops, its packets go, and every cluster with a block there is moved (01 R35). -/
def State.failCore (core : Nat) (s : State) : State :=
  if (s.core core).failed then s
  else
    let vs := nubNat [] ((s.resident core).filterMap (fun e =>
      if e.2.done then none else some (2 ^ 40 * e.2.launch + e.2.cluster)))
    let r : PreReq :=
      { launch := none, die := core / Config.coresPerDie,
        victims := vs.map (fun v => { launch := v / 2 ^ 40, cluster := v % 2 ^ 40, time := s.gtime }),
        cores := [core], gone := [], abandoned := 0 }
    let s := s.modCore core (fun k => { k with failed := true, out := [] })
    State.record 35 { s with pre := s.pre ++ [r] }

/-- Classes of mismatch (01 R15). -/
inductive MisClass where | value | operand | result
deriving DecidableEq, Repr

/-- Counts a mismatch of a launch's instruction: %mismatch, the launch, the window, and the third one at
level 5 (01 R31 to R35). `stall`: its packet carried STALL. -/
def State.countMismatch (core lid : Nat) (cls : MisClass) (stall : Bool) (s : State) : State :=
  let up (n : Nat) : Nat := min 0xFFFF (n + 1)
  let s := s.modCore core (fun k =>
    let k := match cls with
      | .value => { k with mmValue := up k.mmValue }
      | .operand => { k with mmOperand := up k.mmOperand }
      | .result => { k with mmResult := up k.mmResult }
    { k with winMis := k.winMis + (if stall then 0 else 1),
             winLevel5 := k.winLevel5 + (if k.level = 5 then 1 else 0) })
  let s := s.modLaunch lid (fun L => { L with mismatch := satInc L.mismatch })
  if 3 ≤ (s.core core).winLevel5 then s.failCore core else s

/-- Discards every uncommitted packet of a partition (01 R24). -/
def State.discard (core part : Nat) (s : State) : State :=
  s.modCore core (fun k => { k with out := k.out.filter (fun e => e.1 != part) })

/-- A mismatch in a partition: discard, restart and count (01 R24). -/
def State.mismatch (core part lid : Nat) (cls : MisClass) (stall : Bool) (s : State) : State :=
  State.countMismatch core lid cls stall (s.discard core part)

/-- What an instruction comes to on its context: the faults found before its own effect, the instruction's
own answer, and whether it is undersized (01 R30, R37). -/
def instrRes (i : Instr) (body : Ctx → State → Res) (c : Ctx) (w : Warp) (s : State) :
    List (Nat × FaultInfo) × Res × Bool :=
  if c.tag.isSome then ([], body c (s.clearTag c), false)
  else
    match preFault i c w with
    | some f => ([], Res.fault c f s, f.code == 0x0A)
    | none =>
      let bad := poisonLanes i c w
      if bad = [] then ([], body c s, false)
      else
        -- a lane with a poisoned source takes a lower code that its operands incur as well (10 R220)
        let low := (body { c with mask := maskOf bad } s).faults.filter (fun e => decide (e.2.code.toNat < 7))
        let pre := bad.map (fun l =>
          ((low.find? (fun e => e.1 == l)).getD (l, ({ code := 0x07, cause := 2 } : FaultInfo))))
        let m := c.mask &&& ~~~maskOf bad
        if m = 0 then (pre, Res.ok s, false) else (pre, body { c with mask := m } s, false)

/-- A warp instruction on its issue context: checks, effect, and what follows. An undersized one is an
OPERAND mismatch as well (01 R30, R31); whether an issue turn's packet carried STALL is free (log entry
100). -/
def State.runInstr (i : Instr) (body : Ctx → State → Res) (c : Ctx) (s : State) : State :=
  match s.warp c.wid with
  | none => s
  | some w =>
    let (pre, r, short) := instrRes i body c w s
    if short then
      let (n, t) := r.s.free
      applyRes i c pre { r with s := State.mismatch c.core c.part (t.lidOf c.wid) .operand (n % 2 == 1) t }
    else applyRes i c pre r

/-- The meaning of a warp instruction from its own effect: it needs a sequencer with a bound
group, which the turn names. -/
def issue (i : Instr) (body : Ctx → State → Res) (s : State) : Host.Outcome State Fault Refusal :=
  match s.ctx? with
  | none => .fault .noIssueGroup
  | some c => .next (s.runInstr i body c).finish

-- the issue turn up to the decoded instruction

/-- What an issue turn comes to: an instruction to execute, or nothing more to do. -/
inductive Prep where
  | exec (i : Instr) (s : State)
  | done (s : State)

/-- What the fetch of a binding's run comes to: it may issue, it waits, or it has taken a fault. -/
inductive Start where
  | go
  | wait
  | fault (code : BitVec 8)
deriving DecidableEq, Repr

/-- A fault at the first instruction of a run that could not be fetched: its record shows the run start
(07 R161; 10 R223). -/
def State.fetchFault (core part seq : Nat) (b : Binding) (f : FaultInfo) (words : Word × Word)
    (s : State) : Start × State :=
  match s.warp b.wid with
  | none => (.wait, s.freeSeq core part seq)
  | some w =>
    let x := w.lane (lowLane b.mask)
    let a : FaultAt := { wid := b.wid, pc := x.pc, shown := b.start, run := x.run, nxt := x.nxt,
                         words := words, gen := b.gen, score := x.score }
    (.fault f.code,
     (s.takeFaults a (lengthOf words.1) false ((lanesOf b.mask).map (fun l => (l, f)))).settle
       core part seq b.wid)

/-- Number of the segment whose translation word stands at an address of the launch's own area
(11 R263). -/
def Launch.segAt (l : Launch) (va : DWord) : Option Nat :=
  let a := va.toNat
  if l.pedric && decide (l.trbase + 0x80 ≤ a) && (a - l.trbase) % 8 == 0 &&
      decide ((a - l.trbase - 0x80) / 8 < l.nseg) then some ((a - l.trbase - 0x80) / 8)
  else none

/-- Where the translator sends a lane whose SUCC names a segment that the launch does not have: one byte
past the address of its translation word, at which no run starts (11 R263; log entry 101). -/
def succBad (trbase seg : Nat) : DWord := BitVec.ofNat 64 (trbase + 0x80 + 8 * seg + 1)

/-- A lane stands where `succBad` sent it. -/
def Launch.pastSegs (l : Launch) (va : DWord) : Bool :=
  l.pedric && decide (l.trbase + 0x80 + 8 * l.nseg ≤ va.toNat) && (va.toNat - l.trbase) % 8 == 1

/-- The fault of a failed segment: its code; what else the record of such a code holds is free, but
that of FORMAT_INVALID and QUOTA (10 R219; 11 R263). -/
def State.segFault (code : Nat) (s : State) : FaultInfo × State :=
  if code = 0x16 ∨ code = 0x0B then ({ code := BitVec.ofNat 8 code }, s)
  else
    let (a, s) := s.free
    let (b, s) := s.free
    ({ code := BitVec.ofNat 8 code, cause := BitVec.ofNat 8 a, addr := BitVec.ofNat 64 b }, s)

/-- The group claims an untranslated segment by a compare-and-swap with `.ar` and leaves its
sequencer while the translator works (11 R263). -/
def State.claimSegment (core part seq seg : Nat) (b : Binding) (l : Launch) (va : Nat) (priv : Bool)
    (s : State) : Start × State :=
  match s.translate core (s.asidOf b.wid) va .rw priv with
  | .bad f => s.fetchFault core part seq b f (0, 0)
  | .held _ => (.wait, s)
  | .ok p =>
    if !s.released core b.wid b.mask .pkg || s.lnxHead (p.loc / 128) then (.wait, s.freeSeq core part seq)
    else
      let (g, s) := s.perform (some core) p.loc (natLe 8 1)
      let s := s.ackNow false core b.wid (lowLane b.mask) p.loc g (BitVec.ofNat 64 va)
      (.wait, State.freeSeq core part seq { s with xlat := s.xlat ++ [(l.id, seg)] })

/-- EnterSegment, one attempt (11 R263): enter translated code, take the failed segment's fault,
claim an untranslated segment for the translator, or leave the sequencer and try again. -/
def State.tryEnterSegment (core part seq seg : Nat) (b : Binding) (s : State) : Start × State :=
  match s.launchOf b.wid, s.warp b.wid with
  | some l, some w =>
    let va := l.trbase + 0x80 + 8 * seg
    let priv := w.inHandler (lowLane b.mask)
    match s.translate core (s.asidOf b.wid) va .read priv with
    | .bad f => s.fetchFault core part seq b f (0, 0)
    | .held _ => (.wait, s)
    | .ok p =>
      if s.poisonedR p.loc 8 then s.fetchFault core part seq b (poisonFault va) (0, 0)
      else
        let x := leNat (s.rdMem p.loc 8)
        let s := s.acquire core b.wid .pkg
        match x % 4 with
        | 2 =>
          let t := BitVec.ofNat 64 (bitsOf x 7 48 * 128)
          let s := s.modWarp b.wid (fun w =>
            w.modLanes b.mask (fun y => { y with pc := t, run := none }))
          (.wait, s.setSeq core part seq (some { b with start := t }))
        | 3 =>
          let (f, s) := s.segFault (bitsOf x 56 8)
          s.fetchFault core part seq b f (0, 0)
        | 1 => (.wait, s.freeSeq core part seq)
        | _ => s.claimSegment core part seq seg b l va priv
  | _, _ => (.wait, s)

/-- Fetches the run of a binding that has none yet. -/
def State.startRun (core part seq : Nat) (b : Binding) (s : State) : Start × State :=
  match s.warp b.wid with
  | none => (.wait, s.freeSeq core part seq)
  | some w =>
    let l0 := lowLane b.mask
    let priv := w.inHandler l0 || w.inGraft l0
    let x := w.lane l0
    let own := if b.inGraft || x.run.isSome then none else s.launchOf b.wid
    match own.bind (fun l => l.segAt b.start) with
    | some seg => s.tryEnterSegment core part seq seg b
    | none =>
      let noSeg := own.any (fun l =>
        l.pedric && b.start == BitVec.ofNat 64 (l.code + roleEntry (l.role w.role)))
      if own.any (fun l => l.pastSegs b.start) then
        State.fetchFault core part seq { b with start := b.start - 1 } (badTarget (b.start - 1)) (0, 0) s
      else if b.start.toNat % 4 ≠ 0 || noSeg then
        s.fetchFault core part seq b (badTarget b.start) (0, 0)
      else
        match s.runAt core (s.asidOf b.wid) priv b.inGraft b.gen b.start 25 0 [] b.start with
        | (.error f, s) =>
          if f = heldFault then (.wait, s) else s.fetchFault core part seq b f (0, 0)
        | (.ok r, s) =>
          if !trailerOk r.trailer r.count then
            s.fetchFault core part seq b illEnc
              (recWords (r.words.take (lengthOf (r.words.getD 0 0))))
          else
            let nxt := b.start + BitVec.ofNat 64 (4 * (r.words.length + 4))
            let s := s.modWarp b.wid (fun w => w.modLanes b.mask (fun l =>
              { l with run := some b.start, nxt := nxt }))
            (.go, s.setSeq core part seq (some { b with run := some r }))

/-- A fault of a whole group before its instruction is decoded (11 R250; 14 R299). -/
def State.groupFault (c : Ctx) (f : FaultInfo) (s : State) : State :=
  (s.takeFaults c.at c.n c.last ((lanesOf c.mask).map (fun l => (l, f)))).settle
    c.core c.part c.seq c.wid

/-- What the slots and then the decoder make of an instruction (11 R248 to R250; 14 R299). -/
inductive Found where
  | fault (f : FaultInfo)
  | emulate (slot : Nat)
  | instr (i : Instr)
deriving DecidableEq, Repr

def State.found (s : State) (c : Ctx) (w : Warp) : Found :=
  let act := if c.inGraft then GAct.native
    else graftAct (s.graftOf c.gen).slots w.g16 c.n c.raw
  match act with
  | .trap k => .fault { code := 0x13, cause := BitVec.ofNat 8 k }
  | .emulate k => .emulate k
  | _ =>
    match decode c.words with
    | .ok i => .instr i
    | .error .illegalOpcode => .fault { code := 0x01 }
    | .error .illegalEncoding => .fault illEnc

/-- A group reaches an EMULATE: it enters graft mode, or is held until the warp's graft mode ends (11 R250,
R252). -/
def State.emulateInstr (c : Ctx) (k : Nat) (s : State) : State :=
  let s := if (s.warp c.wid).any (fun w => w.graft.isSome) then
      (s.unbind c.wid c.mask).modWarp c.wid (fun w => { w with emul := w.emul ||| c.mask })
    else s.enterGraft c.at c.mask k c.n [c.raw.getD 0 0, c.raw.getD 1 0] c.last none
  s.settle c.core c.part c.seq c.wid

/-- The graft slots, then the decoder (11 R248 to R252; 14 R299). -/
def State.prepCtx (c : Ctx) (s : State) : Prep :=
  match s.warp c.wid with
  | none => .done s
  | some w =>
    match s.found c w with
    | .fault f => .done (s.groupFault c f)
    | .emulate k => .done (s.emulateInstr c k)
    | .instr i => .exec i s

/-- The core does not run: it has failed, or the device has stopped (01 R35; 13 R297). -/
def State.coreHalted (s : State) (core : Nat) : Bool :=
  (s.core core).failed || s.regF 0x290000 0 2 == 2

/-- The warp that the WARP field of a packet names: the one in that slot of the partition (01 R11). -/
def State.packetWarp (s : State) (core part k : Nat) : Option Nat :=
  ((s.coreWarps core).find? (fun e => e.2.part == part && e.2.slot == k)).map Prod.fst

/-- Retire packets of a warp are outstanding: its instructions commit from them (01 R14). -/
def State.inFlight (s : State) (core wid : Nat) : Bool :=
  (s.core core).out.any (fun e => e.2.wid == wid)

/-- Outstanding packets of a partition. -/
def State.partOut (s : State) (core part : Nat) : List Outstanding :=
  ((s.core core).out.filter (fun e => e.1 == part)).map Prod.snd

/-- A warp runs in lockstep: the level in force for it is 5 (01 R33, R34). -/
def State.lockstep (s : State) (wid : Nat) : Bool := (s.warp wid).any (fun w => w.level == 5)

/-- A partition holds as many uncommitted instructions as it may when a warp would add one: 64, or one
where it or a warp with a packet outstanding runs in lockstep (01 R23, R33). -/
def State.partFull (s : State) (core part wid : Nat) : Bool :=
  let os := s.partOut core part
  decide ((if s.lockstep wid || os.any (fun o => s.lockstep o.wid) then 1 else 64) ≤ os.length)

/-- An issue turn (03 R80): fetches the run when the binding has none, then prepares the next
instruction of the group. -/
def State.prepare (core part seq : Nat) (s : State) : Prep :=
  match s.seqAt core part seq with
  | none => .done s
  | some b =>
    if s.coreHalted core || s.inFlight core b.wid || s.partFull core part b.wid then .done s
    else
    let (st, s) := if b.run.isSome then (Start.go, s) else s.startRun core part seq b
    if st = .go then
      match s.ctx? with
      | none => .done (s.settle core part seq b.wid)
      | some c => s.prepCtx c
    else .done s

/-- A waiting group tries its instruction again on a free sequencer of its partition (02 R51). -/
def State.retry (wid k : Nat) (s : State) : Prep :=
  match s.warp wid with
  | none => .done s
  | some w =>
    match w.waits[k]? with
    | none => .done s
    | some b =>
      let core := s.coreOf wid
      match [0, 1].find? (fun q => (s.seqAt core w.part q).isNone) with
      | none => .done s
      | some q =>
        if s.isBound wid || s.coreHalted core then .done s
        else
          let s := s.modWarp wid (fun w => { w with waits := w.waits.eraseIdx k })
          let s := s.setSeq core w.part q (some b)
          let s : State := { s with turn := .issue core w.part q }
          match s.ctx? with
          | none => .done (s.settle core w.part q wid)
          | some c => s.prepCtx c

-- bodies shared by families

/-- Each lane of the group is changed by `f`, which reads the warp as it was. -/
def laneStep (c : Ctx) (f : Warp → Nat → Warp → Warp) (s : State) : Res :=
  Res.ok (s.modWarp c.wid (fun w => foldLanes c.mask (f w) w))

/-- Each lane writes one value. -/
def laneAlu (w64 : Bool) (d : LSpec) (v : State → Ctx → Warp → Nat → DWord) (c : Ctx) (s : State) :
    Res :=
  laneStep c (fun w l => Warp.wrW l w64 d (v s c w l)) s

/-- Each lane writes one flag. -/
def laneFlag (n : Nat) (v : State → Ctx → Warp → Nat → Bool) (c : Ctx) (s : State) : Res :=
  laneStep c (fun w l => Warp.wrF l n (v s c w l)) s

/-- Each lane writes one value and raises floating-point flags (05 R106). -/
def laneFp (w64 : Bool) (d : LSpec) (v : State → Ctx → Warp → Nat → Nat × BitVec 5) (c : Ctx)
    (s : State) : Res :=
  laneStep c (fun w l x =>
    let r := v s c w l
    (Warp.wrW l w64 d (BitVec.ofNat 64 r.1) x).orFpf l r.2) s

/-- Each lane writes one flag and raises floating-point flags. -/
def laneFpFlag (n : Nat) (v : State → Ctx → Warp → Nat → Bool × BitVec 5) (c : Ctx) (s : State) :
    Res :=
  laneStep c (fun w l x =>
    let r := v s c w l
    (Warp.wrF l n r.1 x).orFpf l r.2) s

/-- A uniform instruction writes one value once for its group (16 R329). -/
def uniAlu (w64 : Bool) (d : USpec) (v : State → Ctx → DWord) (c : Ctx) (s : State) : Res :=
  Res.ok (s.wrUW c w64 d (v s c))

end Sys2Proof.Machine
end

