-- ==== Sys2Proof/Machine/Control.lean ====
section
/-!
DEFINITION. Control flow: branches, calls, rejoin masks, barriers, fences, the ends of threads,
handler and graft returns, tile size, breakpoints (04 R87 to R100; 08 R190, R191; 10 R228, R229;
11 R253; 16 R336 to R343; 17 R356, R360, R366, R372, R373; 18 R391, R402, R415, R420, R421).
-/

set_option Elab.async false

namespace Sys2Proof.Machine

-- release and acquire inside an instruction (08 R189, R190)

/-- ReleaseFence at a scope for the lanes of a group, then `k` for the lanes that raise no fault
for lost stores (08 R190; 12 R279, R281). -/
def withRelease (sc : Scope) (k : Ctx → State → Res) (c : Ctx) (s : State) : Res :=
  if !s.released c.core c.wid c.mask sc then Res.wait .release 0 0 s
  else
    let fs := s.lostFaults c.wid c.mask
    if fs = [] then k c s
    else
      let s := s.forgetLost c.wid c.mask
      let m := c.mask &&& ~~~maskOf (fs.map Prod.fst)
      if m = 0 then { s := s, faults := fs, flow := .seq }
      else
        let r := k { c with mask := m } s
        { r with faults := fs ++ r.faults }

/-- Orders that release before the access, and those that acquire after it (08 R189). -/
def ordRel : Ord4 → Bool
  | .rel | .ar | .sc => true
  | _ => false
def ordAcq : Ord4 → Bool
  | .acq | .ar | .sc => true
  | _ => false

/-- A group fault (10 R219). -/
def gfault (f : FaultInfo) (c : Ctx) (s : State) : Res := Res.fault c f s

/-- FENCE: ReleaseFence, AcquireFence, or both (08 R191; 17 R360). -/
def bodyFence (ord : Ord4) (sc : Scope) : Ctx → State → Res :=
  fun c s =>
    let k : Ctx → State → Res := fun c s => Res.ok (if ordAcq ord then s.acquire c.core c.wid sc else s)
    if ordRel ord then withRelease sc k c s else k c s

/-- The meaning of FENCE. -/
def execFence (ord : Ord4) (sc : Scope) (s : State) : Host.Outcome State Fault Refusal :=
  issue (.fence ord sc) (bodyFence ord sc) s

-- branches

/-- The lanes selected by a condition on flags. -/
def condLanes (s : State) (c : Ctx) : BrCond → List Nat
  | .always => lanesOf c.mask
  | .flag n => (lanesOf c.mask).filter (fun l =>
      match s.warp c.wid with | some w => w.rdF l n.val | none => false)
  | .notFlag n => (lanesOf c.mask).filter (fun l =>
      match s.warp c.wid with | some w => !w.rdF l n.val | none => false)

/-- Target of a relative branch (16 R340). -/
def relTarget (c : Ctx) (imm : BitVec 25) : DWord := c.pc + (imm.signExtend 64 <<< 2)

/-- BRA: the taken lanes go to the target, the others fall through (16 R340). -/
def bodyBra (c : BrCond) (imm : BitVec 25) : Ctx → State → Res :=
  fun x s => { s := s, faults := [],
               flow := .jump ((condLanes s x c).map (fun l => (l, relTarget x imm))) }

/-- The meaning of BRA. -/
def execBra (c : BrCond) (imm : BitVec 25) (s : State) : Host.Outcome State Fault Refusal :=
  issue (.bra c imm) (bodyBra c imm) s

/-- A target with a nonzero bit in [63:55] (16 R342). -/
def highBits (t : DWord) : Bool := t >>> 55 != 0

/-- Lanes with targets of their own: bad targets fault, the others write a link and go
(16 R342, R343). -/
def goLanes (link : Option LSpec) (t : Warp → Nat → DWord) (c : Ctx) (s : State) : Res :=
  match s.warp c.wid with
  | none => Res.ok s
  | some w =>
    let ts := (lanesOf c.mask).map (fun l => (l, t w l))
    let bad := ts.filter (fun e => highBits e.2)
    let good := ts.filter (fun e => !highBits e.2)
    let s := match link with
      | none => s
      | some d => s.modWarp c.wid (fun w =>
          good.foldl (fun w e => w.wrL64 e.1 d c.nxt) w)
    { s := s, faults := bad.map (fun e => (e.1, badTarget e.2)), flow := .jump good }

/-- BRX: each lane goes to its own target (16 R342). -/
def bodyBrx (rel : Bool) (a : LSpec) : Ctx → State → Res :=
  fun c s => goLanes none (fun w l =>
    if rel then c.pc + (w.rdL l a).signExtend 64 else w.rdL64 l a) c s

/-- The meaning of BRX. -/
def execBrx (rel : Bool) (a : LSpec) (s : State) : Host.Outcome State Fault Refusal :=
  issue (.brx rel a) (bodyBrx rel a) s

/-- CALL: each lane writes its link and goes to the target (16 R343). -/
def bodyCall (d a : LSpec) (ind : Bool) (imm : BitVec 25) : Ctx → State → Res :=
  fun c s => goLanes (some d) (fun w l => if ind then w.rdL64 l a else relTarget c imm) c s

/-- The meaning of CALL. -/
def execCall (d a : LSpec) (ind : Bool) (imm : BitVec 25) (s : State) : Host.Outcome State Fault
    Refusal :=
  issue (.call d a ind imm) (bodyCall d a ind imm) s

/-- RET: each lane goes to the address in a pair (18 R402). -/
def bodyRet (a : LSpec) : Ctx → State → Res :=
  goLanes none (fun w l => w.rdL64 l a)

/-- The meaning of RET. -/
def execRet (a : LSpec) (s : State) : Host.Outcome State Fault Refusal :=
  issue (.ret a) (bodyRet a) s

/-- The truth of a uniform condition. -/
def uniCond (s : State) (c : Ctx) : BrCond → Bool
  | .always => true
  | .flag n => (match s.warp c.wid with | some w => w.rdG (lowLane c.mask) n.val | none => false)
  | .notFlag n => (match s.warp c.wid with | some w => !w.rdG (lowLane c.mask) n.val | none => false)

/-- UBRA: the whole group goes one way (18 R415). -/
def bodyUbra (c : BrCond) (imm : BitVec 25) : Ctx → State → Res :=
  fun x s => { s := s, faults := [],
               flow := .jump (if uniCond s x c then
                 (lanesOf x.mask).map (fun l => (l, relTarget x imm)) else []) }

/-- The meaning of UBRA. -/
def execUbra (c : BrCond) (imm : BitVec 25) (s : State) : Host.Outcome State Fault Refusal :=
  issue (.ubra c imm) (bodyUbra c imm) s

-- rejoin masks (04 R88 to R91)

/-- The mask operand of a half as bits of the warp (04 R99). -/
def Ctx.halfBits (w : Warp) (c : Ctx) (m : Word) : Mask :=
  if w.g16 then (m &&& 0xFFFF) <<< (16 * w.half (lowLane c.mask)) else m

/-- JARM's mask; none: a form that G16 mode does not have (17 R372). -/
def jarmMask (s : State) (c : Ctx) (w : Warp) : JMask → Option Mask
  | .uni b => some (Ctx.halfBits w c (s.rdU c b))
  | .low i => some (Ctx.halfBits w c (i.setWidth 32))
  | .high i => if w.g16 then none else some ((i.setWidth 32) <<< 16)
  | .all => some (Ctx.halfBits w c 0xFFFFFFFF)

/-- JARM: Jarm(n, M, A) (04 R89; 17 R372). -/
def bodyJarm (n : Fin 16) (m : JMask) : Ctx → State → Res :=
  fun c s =>
    match s.warp c.wid with
    | none => Res.ok s
    | some w =>
      match jarmMask s c w m with
      | none => Res.fault c illEnc s
      | some M =>
        let hm := w.halfMask (w.half (lowLane c.mask))
        let s := s.modWarp c.wid (fun w => Warp.release n.val { w with
          jOut := lput 0 n.val ((w.jOut.getD n.val 0 &&& ~~~hm) |||
            (M &&& w.live &&& ~~~w.jWait.getD n.val 0 &&& hm)) w.jOut })
        Res.ok s

/-- The meaning of JARM. -/
def execJarm (n : Fin 16) (m : JMask) (s : State) : Host.Outcome State Fault Refusal :=
  issue (.jarm n m) (bodyJarm n m) s

/-- JDROP: Jdrop(n, A) (04 R89; 17 R373). -/
def bodyJdrop (n : Fin 16) : Ctx → State → Res :=
  fun c s => Res.ok (s.modWarp c.wid (fun w => Warp.release n.val { w with
    jOut := lput 0 n.val (w.jOut.getD n.val 0 &&& ~~~c.mask) w.jOut }))

/-- The meaning of JDROP. -/
def execJdrop (n : Fin 16) (s : State) : Host.Outcome State Fault Refusal :=
  issue (.jdrop n) (bodyJdrop n) s

/-- The group leaves its sequencer and stands at this instruction. -/
def State.standHere (c : Ctx) (s : State) : State :=
  (s.unbind c.wid c.mask).modWarp c.wid (fun w => w.modLanes c.mask (fun l =>
    { l with words := recWords c.words, retry := 0, bkpt := none }))

/-- JWAIT: Jwait(n, A), and rejoin deadlock (04 R89, R91; 17 R373). -/
def bodyJwait (n : Fin 16) : Ctx → State → Res :=
  fun c s =>
    let s := (s.standHere c).modWarp c.wid (fun w => Warp.release n.val { w with
      jOut := lput 0 n.val (w.jOut.getD n.val 0 &&& ~~~c.mask) w.jOut,
      jWait := lput 0 n.val (w.jWait.getD n.val 0 ||| c.mask) w.jWait })
    { s := s.rejoinCheck c.wid, faults := [], flow := .placed }

/-- The meaning of JWAIT. -/
def execJwait (n : Fin 16) (s : State) : Host.Outcome State Fault Refusal :=
  issue (.jwait n) (bodyJwait n) s

-- barriers (04 R95 to R98; 16 R336, R337; 18 R420)

/-- A group reaches a block or cluster barrier; its release is done (04 R96; 16 R337). Where two groups of a
warp bring different counts to one instance, the later group faults: the spec says so of different
instances only (DESIGN CHOICE, log entry 98). -/
def barrierArrive (cl : Bool) (inst count : Nat) (c : Ctx) (s : State) : Res :=
  match s.warp c.wid with
  | some w =>
    let h := w.half (lowLane c.mask)
    let cause := if cl then 2 else 1
    let clash := w.bars.any (fun x => x.half == h &&
      (x.cluster != cl || x.inst != inst || x.count != count))
    if clash then Res.fault c (barFault cause inst) s
    else
      let s := (s.standHere c).modWarp c.wid (fun w =>
        if w.bars.any (fun x => x.half == h) then
          { w with bars := w.bars.map (fun x =>
              if x.half = h then { x with mask := x.mask ||| c.mask } else x) }
        else { w with bars := w.bars ++ [{ half := h, cluster := cl, inst := inst, count := count,
                                           mask := c.mask, arrived := false }] })
      { s := s.tryArrive cl inst (c.wid, h), faults := [], flow := .placed }
  | none => Res.ok s

/-- The count operand (16 R336). -/
def barCount (s : State) (c : Ctx) : USrc → Nat
  | .imm i => i.toNat
  | .reg u => (s.rdU c u).toNat

/-- BAR: a release at .block, then the arrival (16 R337; 08 R194). -/
def bodyBar (inst : Fin 16) (count : USrc) : Ctx → State → Res :=
  fun c s => withRelease .block (barrierArrive false inst.val (barCount s c count)) c s

/-- The meaning of BAR. -/
def execBar (inst : Fin 16) (count : USrc) (s : State) : Host.Outcome State Fault Refusal :=
  issue (.bar inst count) (bodyBar inst count) s

/-- CBAR: a release at .cluster, then the arrival (16 R337; 08 R194). -/
def bodyCbar (inst : Fin 4) (count : USrc) : Ctx → State → Res :=
  fun c s => withRelease .cluster (barrierArrive true inst.val (barCount s c count)) c s

/-- The meaning of CBAR. -/
def execCbar (inst : Fin 4) (count : USrc) (s : State) : Host.Outcome State Fault Refusal :=
  issue (.cbar inst count) (bodyCbar inst count) s

/-- WSYNC's arrival (04 R98): lanes outside the fixed mask or with another mask fault. Masks that differ only
in lanes that are not live count as the same (DESIGN CHOICE, log entry 99). -/
def wsyncArrive (m : Mask) (c : Ctx) (s : State) : Res :=
  match s.warp c.wid with
  | none => Res.ok s
  | some w =>
    let h := w.half (lowLane c.mask)
    let x := w.wsync.getD h { fixed := 0, arrived := 0 }
    let fixed := if x.fixed = 0 then m &&& w.live else x.fixed
    let same := decide (m &&& w.live = fixed &&& w.live)
    let inM := if same && m != 0 then c.mask &&& fixed else 0
    let out := c.mask &&& ~~~inM
    let fs := (lanesOf out).map (fun l => (l, barFault 3 0))
    if inM = 0 then { s := s, faults := fs, flow := .seq }
    else
      let s := (s.standHere { c with mask := inM }).modWarp c.wid (fun w => { w with
        wsync := lput { fixed := 0, arrived := 0 } h
          { fixed := fixed, arrived := x.arrived ||| inM } w.wsync })
      { s := s.wsyncCheck c.wid h, faults := fs, flow := .placed }

/-- WSYNC: a release at .warp, then the arrival (04 R98; 18 R420). -/
def bodyWsync (b : USpec) : Ctx → State → Res :=
  fun c s =>
    let m := match s.warp c.wid with
      | some w => Ctx.halfBits w c (s.rdU c b)
      | none => 0
    withRelease .warp (wsyncArrive m) c s

/-- The meaning of WSYNC. -/
def execWsync (b : USpec) (s : State) : Host.Outcome State Fault Refusal :=
  issue (.wsync b) (bodyWsync b) s

-- the ends of threads and small system instructions

/-- EXIT ends its lanes (17 R356). -/
def bodyExit  : Ctx → State → Res :=
  fun c s => { s := (s.noteStart c.wid).exitLanes c.wid c.mask, faults := [], flow := .placed }

/-- The meaning of EXIT. -/
def execExit  (s : State) : Host.Outcome State Fault Refusal :=
  issue .exit bodyExit s

/-- YIELD marks its warp yielded (18 R421). -/
def bodyYield  : Ctx → State → Res :=
  fun c s => Res.ok (s.modWarp c.wid (fun w => { w with yielded := true }))

/-- The meaning of YIELD. -/
def execYield  (s : State) : Host.Outcome State Fault Refusal :=
  issue .yield bodyYield s

/-- BKPT faults, but for lanes resumed at it (16 R339). -/
def bodyBkpt  : Ctx → State → Res :=
  fun c s =>
    let skip (l : Nat) : Bool := match s.warp c.wid with
      | some w => (w.lane l).bkpt == some c.pc
      | none => false
    { s := s, faults := ((lanesOf c.mask).filter (fun l => !skip l)).map (fun l =>
        (l, { code := 0x15 })), flow := .seq }

/-- The meaning of BKPT. -/
def execBkpt  (s : State) : Host.Outcome State Fault Refusal :=
  issue .bkpt bodyBkpt s

/-- PART sets the tile size of the warp (18 R391). -/
def bodyPart (code : Fin 8) : Ctx → State → Res :=
  fun c s =>
    match s.warp c.wid with
    | none => Res.ok s
    | some w =>
      if w.g16 && code.val == 5 then Res.fault c illEnc s
      else Res.ok (s.modWarp c.wid (fun w => { w with tile := 2 ^ code.val }))

/-- The meaning of PART. -/
def execPart (code : Fin 8) (s : State) : Host.Outcome State Fault Refusal :=
  issue (.part code) (bodyPart code) s

/-- PRIVILEGE (10 R229). -/
def privFault : FaultInfo := { code := 0x11 }

/-- Lanes start afresh at a run start, with temporaries zero (10 R228, 11 R253). -/
def Warp.restartAt (m : Mask) (t : DWord) (w : Warp) : Warp :=
  (w.setTemps m []).modLanes m (fun l =>
    { l with pc := t, run := none, retry := 0, bkpt := none, elem := none })

/-- HRET resumes its lanes at the faulting instruction or at a run start (10 R228; 17 R366). -/
def bodyHret (target : Option USpec) : Ctx → State → Res :=
  fun c s =>
    match s.warp c.wid with
    | none => Res.ok s
    | some w =>
      match w.handler with
      | none => Res.fault c privFault s
      | some h =>
        if !c.inHandler || c.inGraft then Res.fault c privFault s
        else
          let t := target.map (s.rdU64 c)
          let s := s.unbind c.wid c.mask
          let s := s.modWarp c.wid (fun w => match t with
            | none => w.resumeAt c.mask h.resume
            | some t => w.restartAt c.mask t)
          { s := s.leaveHandler c.wid c.mask, faults := [], flow := .placed }

/-- The meaning of HRET. -/
def execHret (target : Option USpec) (s : State) : Host.Outcome State Fault Refusal :=
  issue (.hret target) (bodyHret target) s

/-- The result of a graft routine (11 R253): a lane-set or uniform destination that the warp could
name, from v110 or s108. -/
def Warp.graftResult (g : GraftMode) (m : Mask) (w : Warp) : Warp :=
  let w0 := (g.words.getD 0 0).toNat
  let d := bitsOf w0 14 7
  let n := if g.ctrl.getLsbD 22 then 2 else 1
  let l0 := lowLane m
  if bitOf w0 31 then
    (List.range n).foldl (fun w k =>
      if (d + k < w.sregs ∨ (96 ≤ d + k ∧ w.inHandler l0)) ∧ d + k < 112 then
        w.wrS l0 (d + k) (g.bank.getD (12 + k) 0)
      else w) w
  else
    (List.range n).foldl (fun w k =>
      foldLanes m (fun l w =>
        let x := fget 0 (32 * (6 + k) + l) g.regs
        if d + k < w.vregs ∨ (112 ≤ d + k ∧ d + k < 120) then w.wrV l (d + k) x else w) w) w

/-- Lanes leave graft mode with the routine's result and stand after the instruction. -/
def Warp.graftReturn (g : GraftMode) (m : Mask) (w : Warp) : Warp :=
  let rest := g.mask &&& ~~~m
  let w := { w with graft := if rest = 0 then none else some { g with mask := rest },
                    emul := if rest = 0 then 0 else w.emul }
  let w := w.setTemps m g.temps
  let w := if g.ctrl.getLsbD 23 then w.graftResult g m else w
  w.modLanes m (fun l => { l with
    pc := if g.atEnd then g.nxt else g.after, run := if g.atEnd then none else g.run,
    nxt := g.nxt, gen := g.gen, score := g.score, retry := 0, bkpt := none, elem := none })

/-- GRET leaves graft mode (11 R253; 17 R366). -/
def bodyGret (target : Option USpec) : Ctx → State → Res :=
  fun c s =>
    match s.warp c.wid with
    | none => Res.ok s
    | some w =>
      match w.graft with
      | none => Res.fault c privFault s
      | some g =>
        if !c.inGraft then Res.fault c privFault s
        else
          let t := target.map (s.rdU64 c)
          let s := s.unbind c.wid c.mask
          let s := match t with
            | none => (s.modWarp c.wid (Warp.graftReturn g c.mask)).graftNext c.wid
            | some t => (s.modWarp c.wid (Warp.restartAt c.mask t)).leaveGraft c.wid c.mask
          { s := s, faults := [], flow := .placed }

/-- The meaning of GRET. -/
def execGret (target : Option USpec) (s : State) : Host.Outcome State Fault Refusal :=
  issue (.gret target) (bodyGret target) s

end Sys2Proof.Machine
end

