-- ==== Sys2Proof/Machine/Flags.lean ====
section
/-!
DEFINITION. Integer arithmetic: typed operands, wrapping and saturation, compares, shifts, bit
fields and byte selection (05 R101; 16 R330, R338, R341; 17 R364 to R371, R379 to R381, R388;
18 R394, R406). Every value is carried as 64 bits; a 32-bit result uses the low half.
-/

set_option Elab.async false

namespace Sys2Proof.Machine

/-- Width of an integer type (05 R101). -/
def ityBits : ITy → Nat
  | .s8 | .z8 => 8
  | .s16 | .z16 => 16
  | .s32 | .z32 => 32
  | .s64 | .z64 => 64

def itySigned : ITy → Bool
  | .s8 | .s16 | .s32 | .s64 => true
  | _ => false

/-- The low `w` bits of a value as a signed or unsigned integer (05 R101). -/
def intOf (sg : Bool) (w : Nat) (x : DWord) : Int :=
  if sg then sintOf w x.toNat else ((x.toNat % 2 ^ w : Nat) : Int)

/-- Smallest and largest value of a width. -/
def intMin (sg : Bool) (w : Nat) : Int := if sg then -((2 ^ (w - 1) : Nat) : Int) else 0
def intMax (sg : Bool) (w : Nat) : Int :=
  if sg then ((2 ^ (w - 1) : Nat) : Int) - 1 else ((2 ^ w : Nat) : Int) - 1

/-- Clamps an exact value to a type (05 R101). -/
def clampInt (sg : Bool) (w : Nat) (e : Int) : Int := max (intMin sg w) (min (intMax sg w) e)

/-- An exact result reduced or clamped to width `w` and extended by its sign (05 R101). -/
def fitInt (sat sg : Bool) (w : Nat) (e : Int) : DWord :=
  let y := if sat then clampInt sg w e else e
  let r := wrapInt w y
  BitVec.ofNat 64 (if sg then wrapInt 64 (sintOf w r) else r)

/-- The exact value of an integer operation (17 R368). -/
def intExact (op : IntOp) (w : Nat) (x y : Int) : Int :=
  match op with
  | .add => x + y
  | .sub => x - y
  | .mul => x * y
  | .mulhi => Int.fdiv (x * y) ((2 ^ w : Nat) : Int)
  | .min => min x y
  | .max => max x y

/-- IADD and its mould (17 R368). -/
def intAlu (op : IntOp) (sat : Bool) (ty : ITy) (a b : DWord) : DWord :=
  let sg := itySigned ty
  let w := ityBits ty
  fitInt sat sg w (intExact op w (intOf sg w a) (intOf sg w b))

/-- IMAD (17 R371). -/
def intMad (sat : Bool) (ty : ITy) (a b c : DWord) : DWord :=
  let sg := itySigned ty
  let w := ityBits ty
  fitInt sat sg w (intOf sg w a * intOf sg w b + intOf sg w c)

/-- IABS (17 R367). -/
def intAbs (sat : Bool) (ty : ITy) (b : DWord) : DWord :=
  let sg := itySigned ty
  let w := ityBits ty
  fitInt (sat && sg) sg w (((intOf sg w b).natAbs : Nat) : Int)

/-- Byte `i` of a word. -/
def byteAt (x : DWord) (i : Nat) : DWord := (x >>> (8 * i)) &&& 0xFF

/-- IDP4 (17 R370). -/
def intDp4 (sat za zb : Bool) (a b c : DWord) : DWord :=
  let sg := !(za && zb)
  let e := (List.range 4).foldl (fun (e : Int) i =>
    e + intOf (!za) 8 (byteAt a i) * intOf (!zb) 8 (byteAt b i)) (intOf sg 32 c)
  fitInt sat sg 32 e

/-- The truth of an integer comparison (17 R369). -/
def icmpTrue (c : ICond) (x y : Int) : Bool :=
  match c with
  | .eq => x == y
  | .ne => x != y
  | .lt => decide (x < y)
  | .le => decide (x ≤ y)
  | .gt => decide (y < x)
  | .ge => decide (y ≤ x)

/-- ICMP on two values (17 R369). -/
def intCmp (c : ICond) (w64 uns : Bool) (x y : DWord) : Bool :=
  let w := if w64 then 64 else 32
  icmpTrue c (intOf (!uns) w x) (intOf (!uns) w y)

/-- AND, OR, XOR (16 R330). -/
def logicAlu (op : LogicOp) (x y : DWord) : DWord :=
  match op with
  | .and => x &&& y
  | .or => x ||| y
  | .xor => x ^^^ y

/-- SHL, SHR, SAR at width W, the amount in bits [7:0] of `q` (18 R406). -/
def shiftAlu (op : ShiftOp) (W : Nat) (x q : DWord) : DWord :=
  let n := q.toNat % 256
  let v := x.toNat % 2 ^ W
  match op with
  | .shl => BitVec.ofNat 64 (v * 2 ^ n % 2 ^ W)
  | .shr => BitVec.ofNat 64 (v / 2 ^ n)
  | .sar => BitVec.ofNat 64 (wrapInt W (Int.fdiv (sintOf W v) ((2 ^ n : Nat) : Int)))

/-- POPC, CLZ, BREV at width W (16 R341). -/
def bitsAlu (op : BitOp) (W : Nat) (x : DWord) : DWord :=
  let v := x.toNat % 2 ^ W
  match op with
  | .popc => BitVec.ofNat 64 ((List.range W).filter (bitOf v)).length
  | .clz => BitVec.ofNat 64 (if v = 0 then W else W - 1 - Nat.log2 v)
  | .brev => BitVec.ofNat 64
      ((List.range W).foldl (fun r i => r + (if bitOf v i then 2 ^ (W - 1 - i) else 0)) 0)

/-- BFX (16 R338). -/
def bfxAlu (W : Nat) (sext : Bool) (x : DWord) (pos len : Nat) : DWord :=
  let f := bitsOf (x.toNat % 2 ^ W) pos len
  if len = 0 then 0
  else if sext then BitVec.ofNat 64 (wrapInt 64 (sintOf len f))
  else BitVec.ofNat 64 f

/-- BFI (16 R338). -/
def bfiAlu (W : Nat) (x y : DWord) (pos len : Nat) : DWord :=
  if len = 0 then y
  else BitVec.ofNat 64 (putBits (y.toNat % 2 ^ W) pos len (bitsOf x.toNat 0 len))

/-- Position and length of a bit field from a register (16 R338). -/
def bfReg (W : Nat) (q : Word) : Nat × Nat :=
  let pos := min (q.toNat % 256) W
  (pos, min (bitsOf q.toNat 8 8) (W - pos))

/-- FSHF (17 R364). -/
def fshfAlu (right clamp : Bool) (a b : Word) (sh : Nat) : Word :=
  let x := b.toNat * 2 ^ 32 + a.toNat
  let n := if clamp then min sh 32 else sh % 32
  if right then BitVec.ofNat 32 (x / 2 ^ n) else BitVec.ofNat 32 (x * 2 ^ n % 2 ^ 64 / 2 ^ 32)

/-- LOGIC3 (17 R381). -/
def logic3Alu (lut : Nat) (a b c : DWord) : DWord :=
  BitVec.ofNat 64 ((List.range 64).foldl (fun r i =>
    let k := b2n (a.getLsbD i) + 2 * b2n (b.getLsbD i) + 4 * b2n (c.getLsbD i)
    r + (if bitOf lut k then 2 ^ i else 0)) 0)

/-- PSEL (18 R394). -/
def pselAlu (a b : Word) (slct : Nat) : Word :=
  let src (j : Nat) : Nat := bitsOf (a.toNat + 2 ^ 32 * b.toNat) (8 * j) 8
  BitVec.ofNat 32 ((List.range 4).foldl (fun r i =>
    let q := bitsOf slct (5 * i) 5
    let v := match q / 8 with
      | 0 => src (q % 8)
      | 1 => if src (q % 8) ≥ 128 then 0xFF else 0
      | 2 => 0
      | _ => 0xFF
    r + v * 2 ^ (8 * i)) 0)

/-- LEA (17 R379). -/
def leaAlu (zx : Bool) (shift : Nat) (a : Word) (b : DWord) : DWord :=
  b + ((if zx then a.setWidth 64 else a.signExtend 64) <<< shift)

/-- MOVI (17 R388). -/
def moviAlu (keep : Bool) (hw : Nat) (imm : BitVec 16) (old : DWord) : DWord :=
  if keep then BitVec.ofNat 64 (putBits old.toNat (16 * hw) 16 imm.toNat)
  else (imm.setWidth 64) <<< (16 * hw)

end Sys2Proof.Machine
end

