-- ==== Sys2Proof/Machine/Float.lean ====
section
/-!
DEFINITION. Floating point, computed exactly and rounded once: formats, NaNs, flags, sums,
products, fused multiply-add, minimum, maximum, comparison, conversions and the shared-exponent
blocks (05 R102 to R108, R111 to R114; 16 R350 to R354; 17 R357 to R363; 18 R392).
-/

set_option Elab.async false

namespace Sys2Proof.Machine

/-- A format: exponent bits and fraction bits (05 R102). -/
structure Fmt where
  eb : Nat
  mb : Nat
deriving DecidableEq, Repr

def fmtF16 : Fmt := { eb := 5, mb := 10 }
def fmtBf16 : Fmt := { eb := 8, mb := 7 }
def fmtF32 : Fmt := { eb := 8, mb := 23 }
def fmtF64 : Fmt := { eb := 11, mb := 52 }

def Fmt.bias (f : Fmt) : Nat := 2 ^ (f.eb - 1) - 1
def Fmt.width (f : Fmt) : Nat := 1 + f.eb + f.mb
/-- The canonical quiet NaN (05 R102). -/
def Fmt.nan (f : Fmt) : Nat := (2 ^ f.eb - 1) * 2 ^ f.mb + 2 ^ (f.mb - 1)
/-- Infinity of a sign. -/
def Fmt.inf (f : Fmt) (neg : Bool) : Nat :=
  (2 ^ f.eb - 1) * 2 ^ f.mb + b2n neg * 2 ^ (f.eb + f.mb)
/-- The largest finite value of a sign. -/
def Fmt.big (f : Fmt) (neg : Bool) : Nat :=
  (2 ^ f.eb - 1) * 2 ^ f.mb - 1 + b2n neg * 2 ^ (f.eb + f.mb)
/-- Zero of a sign. -/
def Fmt.zer (f : Fmt) (neg : Bool) : Nat := b2n neg * 2 ^ (f.eb + f.mb)
/-- Exponent of the smallest unit of the format. -/
def Fmt.qmin (f : Fmt) : Int := 1 - (f.bias : Int) - (f.mb : Int)

/-- Flags of `%fpflags` (05 R106). -/
def fNV : BitVec 5 := 16
def fDZ : BitVec 5 := 8
def fOF : BitVec 5 := 4
def fUF : BitVec 5 := 2
def fNX : BitVec 5 := 1

/-- A value read from a format: a finite nonzero one is m * 2^e. -/
inductive Fv where
  | nan (sig : Bool)
  | inf (neg : Bool)
  | zer (neg : Bool)
  | fin (neg : Bool) (m : Nat) (e : Int)
deriving DecidableEq, Repr

/-- Reads a value (05 R102). -/
def fpRead (f : Fmt) (x : Nat) : Fv :=
  let fr := bitsOf x 0 f.mb
  let ex := bitsOf x f.mb f.eb
  let neg := bitOf x (f.eb + f.mb)
  if ex = 2 ^ f.eb - 1 then
    if fr = 0 then .inf neg else .nan (!(bitOf fr (f.mb - 1)))
  else if ex = 0 then
    if fr = 0 then .zer neg else .fin neg fr f.qmin
  else .fin neg (2 ^ f.mb + fr) (f.qmin + (ex : Int) - 1)

def Fv.isNan : Fv → Bool
  | .nan _ => true
  | _ => false
def Fv.isSig : Fv → Bool
  | .nan b => b
  | _ => false
def Fv.neg : Fv → Fv
  | .nan b => .nan b
  | .inf n => .inf (!n)
  | .zer n => .zer (!n)
  | .fin n m e => .fin (!n) m e

/-- Rounds m * 2^e to a multiple of 2^q: the multiple, and whether it is exact (05 R103). -/
def roundAt (rnd : Rnd) (neg : Bool) (m : Nat) (e q : Int) : Nat × Bool :=
  if q ≤ e then (m * 2 ^ (e - q).toNat, true)
  else
    let s := (q - e).toNat
    let lo := m % 2 ^ s
    let hi := m / 2 ^ s
    let up := match rnd with
      | .rn => decide (2 ^ s < 2 * lo) || (2 * lo == 2 ^ s && hi % 2 == 1)
      | .rz => false
      | .rp => !neg && lo != 0
      | .rm => neg && lo != 0
    (hi + b2n up, lo == 0)

/-- Exponent of the leading bit of m * 2^e. -/
def topExp (m : Nat) (e : Int) : Int := (Nat.log2 m : Int) + e

/-- Rounds a finite nonzero value into a format once, with its flags (05 R103, R107). -/
def fpRound (f : Fmt) (rnd : Rnd) (neg : Bool) (m : Nat) (e : Int) : Nat × BitVec 5 :=
  let qu := topExp m e - (f.mb : Int)
  let (ru, _) := roundAt rnd neg m e qu
  let eu := topExp ru qu
  if eu > (f.bias : Int) then
    let up := match rnd with
      | .rn => true
      | .rz => false
      | .rp => !neg
      | .rm => neg
    (if up then f.inf neg else f.big neg, fOF ||| fNX)
  else
    let q := max qu f.qmin
    let (r, exact) := roundAt rnd neg m e q
    let bits := (q - f.qmin).toNat * 2 ^ f.mb + r
    let tiny := decide (eu < 1 - (f.bias : Int))
    (bits + b2n neg * 2 ^ (f.eb + f.mb),
     if exact then 0 else if tiny then fUF ||| fNX else fNX)

/-- Writes an exact value in a format. -/
def fpWrite (f : Fmt) (rnd : Rnd) : Fv → Nat × BitVec 5
  | .nan _ => (f.nan, 0)
  | .inf n => (f.inf n, 0)
  | .zer n => (f.zer n, 0)
  | .fin n m e => fpRound f rnd n m e

/-- Exact product; none: 0 times infinity (05 R104). NaN operands are the caller's. -/
def fpMulX : Fv → Fv → Option Fv
  | .nan b, _ => some (.nan b)
  | _, .nan b => some (.nan b)
  | .inf _, .zer _ => none
  | .zer _, .inf _ => none
  | .inf a, .inf b => some (.inf (a != b))
  | .inf a, .fin b _ _ => some (.inf (a != b))
  | .fin a _ _, .inf b => some (.inf (a != b))
  | .zer a, .zer b => some (.zer (a != b))
  | .zer a, .fin b _ _ => some (.zer (a != b))
  | .fin a _ _, .zer b => some (.zer (a != b))
  | .fin a m e, .fin b n g => some (.fin (a != b) (m * n) (e + g))

/-- A signed multiple of 2^e as a value; the sign of an exact zero by the rounding (05 R103). -/
def fpOfInt (rnd : Rnd) (x : Int) (e : Int) : Fv :=
  if x = 0 then .zer (rnd == .rm) else .fin (decide (x < 0)) x.natAbs e

def sgn (neg : Bool) (m : Nat) : Int := if neg then -(m : Int) else (m : Int)

/-- Exact sum; none: infinity minus infinity (05 R103, R104). -/
def fpAddX (rnd : Rnd) : Fv → Fv → Option Fv
  | .nan b, _ => some (.nan b)
  | _, .nan b => some (.nan b)
  | .inf a, .inf b => if a = b then some (.inf a) else none
  | .inf a, _ => some (.inf a)
  | _, .inf b => some (.inf b)
  | .zer a, .zer b => some (.zer (if a = b then a else rnd == .rm))
  | .zer _, y => some y
  | x, .zer _ => some x
  | .fin a m e, .fin b n g =>
    let k := min e g
    some (fpOfInt rnd (sgn a (m * 2 ^ (e - k).toNat) + sgn b (n * 2 ^ (g - k).toNat)) k)

/-- A result with NaN operands and invalid operations settled (05 R104). -/
def fpFinish (f : Fmt) (rnd : Rnd) (ops : List Fv) (r : Option Fv) : Nat × BitVec 5 :=
  let nv := if ops.any Fv.isSig then fNV else 0
  match r with
  | none => (f.nan, fNV)
  | some v => if ops.any Fv.isNan then (f.nan, nv) else fpWrite f rnd v

def fpAdd (f : Fmt) (rnd : Rnd) (a b : Nat) : Nat × BitVec 5 :=
  let x := fpRead f a
  let y := fpRead f b
  fpFinish f rnd [x, y] (fpAddX rnd x y)
def fpSub (f : Fmt) (rnd : Rnd) (a b : Nat) : Nat × BitVec 5 :=
  let x := fpRead f a
  let y := fpRead f b
  fpFinish f rnd [x, y] (fpAddX rnd x y.neg)
def fpMul (f : Fmt) (rnd : Rnd) (a b : Nat) : Nat × BitVec 5 :=
  let x := fpRead f a
  let y := fpRead f b
  fpFinish f rnd [x, y] (fpMulX x y)
def fpOp (op : FltOp) (f : Fmt) (rnd : Rnd) (a b : Nat) : Nat × BitVec 5 :=
  match op with
  | .add => fpAdd f rnd a b
  | .sub => fpSub f rnd a b
  | .mul => fpMul f rnd a b
/-- Fused multiply-add; 0 times infinity is invalid even beside a NaN addend (05 R103, R104). -/
def fpFma (f : Fmt) (rnd : Rnd) (a b c : Nat) : Nat × BitVec 5 :=
  let x := fpRead f a
  let y := fpRead f b
  let z := fpRead f c
  fpFinish f rnd [x, y, z] ((fpMulX x y).bind (fun p => fpAddX rnd p z))

/-- Order of two values that are no NaN: -1, 0 or 1; zeros equal. -/
def fpOrd (x y : Fv) : Int :=
  let key (v : Fv) (k : Int) : Int := match v with
    | .fin n m e => sgn n (m * 2 ^ (e - k).toNat)
    | _ => 0
  match x, y with
  | .inf a, .inf b => if a = b then 0 else if a then -1 else 1
  | .inf a, _ => if a then -1 else 1
  | _, .inf b => if b then 1 else -1
  | x, y =>
    let k := match x, y with
      | .fin _ _ e, .fin _ _ g => min e g
      | .fin _ _ e, _ => e
      | _, .fin _ _ g => g
      | _, _ => 0
    Int.sign (key x k - key y k)

/-- FMIN and FMAX of two encodings (05 R105, 17 R362). -/
def fpMinMax (mx : Bool) (f : Fmt) (a b : Nat) : Nat × BitVec 5 :=
  let x := fpRead f a
  let y := fpRead f b
  let fl := if x.isSig || y.isSig then fNV else 0
  let neg (v : Fv) : Bool := match v with | .zer n => n | _ => false
  if x.isNan && y.isNan then (f.nan, fl)
  else if x.isNan then (b, fl)
  else if y.isNan then (a, fl)
  else
    let o := fpOrd x y
    let aLess := decide (o < 0) || (o == 0 && neg x)
    (if aLess != mx then a else b, fl)

/-- The truth of a float comparison and its flags (05 R105, 16 R354). -/
def fpCmp (c : FCond) (f : Fmt) (a b : Nat) : Bool × BitVec 5 :=
  let x := fpRead f a
  let y := fpRead f b
  let nan := x.isNan || y.isNan
  let o := fpOrd x y
  (match c with
   | .eq => !nan && o == 0
   | .ne => nan || o != 0
   | .lt => !nan && decide (o < 0)
   | .le => !nan && decide (o ≤ 0)
   | .gt => !nan && decide (0 < o)
   | .ge => !nan && decide (0 ≤ o)
   | .num => !nan
   | .nan => nan, if x.isSig || y.isSig then fNV else 0)

/-- FRND (17 R363). -/
def fpIntegral (rnd : Rnd) (b : Nat) : Nat × BitVec 5 :=
  match fpRead fmtF32 b with
  | .nan s => (fmtF32.nan, if s then fNV else 0)
  | .inf _ => (b, 0)
  | .zer _ => (b, 0)
  | .fin n m e =>
    if 0 ≤ e then (b, 0)
    else
      let (r, exact) := roundAt rnd n m e 0
      if exact then (b, 0)
      else if r = 0 then (fmtF32.zer n, fNX)
      else ((fpRound fmtF32 .rn n r 0).1, fNX)

/-- A packed pair (05 R108): each half by itself, flags ORed. -/
def fpPair (g : Nat → Nat → Nat → Nat × BitVec 5) (a b c : Word) : Word × BitVec 5 :=
  let h (x : Word) (i : Nat) : Nat := bitsOf x.toNat (16 * i) 16
  let r0 := g (h a 0) (h b 0) (h c 0)
  let r1 := g (h a 1) (h b 1) (h c 1)
  (BitVec.ofNat 32 (r1.1 * 2 ^ 16 + r0.1), r0.2 ||| r1.2)

/-- The format of a packed pair (18 R392). -/
def pkFmt (bf : Bool) : Fmt := if bf then fmtBf16 else fmtF16

-- conversions (05 R111, 16 R350, R351)

def ctyFmt : CTy → Fmt
  | .f16 => fmtF16
  | .bf16 => fmtBf16
  | .f64 => fmtF64
  | _ => fmtF32

/-- Width and signedness of an integer conversion type. -/
def ctyInt : CTy → Nat × Bool
  | .s8 => (8, true)
  | .s16 => (16, true)
  | .s32 => (32, true)
  | .s64 => (64, true)
  | .z8 => (8, false)
  | .z16 => (16, false)
  | .z32 => (32, false)
  | _ => (64, false)

/-- Float to float. -/
def cvtFF (sat : Bool) (rnd : Rnd) (dt sty : CTy) (x : Nat) : Nat × BitVec 5 :=
  let f := ctyFmt sty
  let g := ctyFmt dt
  let v := fpRead f (x % 2 ^ f.width)
  if v.isNan then (g.nan, if v.isSig then fNV else 0)
  else if dt = sty then (x % 2 ^ f.width, 0)
  else
    let (r, fl) := fpWrite g rnd v
    match v with
    | .fin n _ _ => (if sat ∧ r = g.inf n then g.big n else r, fl)
    | _ => (r, fl)

/-- Float to integer: rounded, clamped, a NaN gives 0. -/
def cvtFI (rnd : Rnd) (dt sty : CTy) (x : Nat) : DWord × BitVec 5 :=
  let f := ctyFmt sty
  let (w, sg) := ctyInt dt
  match fpRead f (x % 2 ^ f.width) with
  | .nan _ => (0, fNV)
  | .inf n => (BitVec.ofInt 64 (if n then intMin sg w else intMax sg w), fNV)
  | .zer _ => (0, 0)
  | .fin n m e =>
    let (r, exact) := roundAt rnd n m e 0
    let v := sgn n r
    let c := clampInt sg w v
    (BitVec.ofInt 64 c, if c ≠ v then fNV else if exact then 0 else fNX)

/-- Integer to float. -/
def cvtIF (rnd : Rnd) (dt sty : CTy) (x : DWord) : Nat × BitVec 5 :=
  let (w, sg) := ctyInt sty
  let v := intOf sg w x
  let g := ctyFmt dt
  if v = 0 then (0, 0) else fpRound g rnd (decide (v < 0)) v.natAbs 0

/-- CVT of one value; the result as 64 bits (16 R351). -/
def cvtAlu (sat : Bool) (rnd : Rnd) (dt sty : CTy) (x : DWord) : DWord × BitVec 5 :=
  match sty.isFloat, dt.isFloat with
  | true, true =>
    let (r, fl) := cvtFF sat rnd dt sty x.toNat
    (BitVec.ofNat 64 r, fl)
  | true, false => cvtFI rnd dt sty x.toNat
  | false, true =>
    let (r, fl) := cvtIF rnd dt sty x
    (BitVec.ofNat 64 r, fl)
  | false, false =>
    let (w, sg) := ctyInt sty
    let (w', sg') := ctyInt dt
    (fitInt sat sg' w' (intOf sg w x), 0)

-- shared-exponent blocks (05 R112 to R114)

/-- Mantissa bits of a shared-exponent format. -/
def sxBits : SxFmt → Nat
  | .sx7 => 7
  | .sx4 => 4
  | .sx2 => 2

/-- SxDecode as an exact value (05 R113). -/
def sxValue (m : Nat) (blk : Nat) (i : Nat) : Fv :=
  let E := bitsOf blk 0 8
  let mu := bitsOf blk (8 + i / 2) 1
  let el := bitsOf blk (16 + (m + 1) * i) (m + 1)
  let M := el % 2 ^ m
  let neg := bitOf el m
  if E = 255 then .nan false
  else if M = 0 then .zer neg
  else .fin neg M ((E : Int) - 127 - mu - (m - 1))

/-- The delivered binary32 value. -/
def sxDecode (m : Nat) (blk i : Nat) : Nat := (fpWrite fmtF32 .rn (sxValue m blk i)).1

/-- Q(v, E, u) of 05 R114; none: infinite. -/
def sxQ (m E u : Nat) (v : Fv) : Option Nat :=
  match v with
  | .inf _ => none
  | .fin _ a e => some (roundAt .rn false a e ((E : Int) - 127 - u - (m - 1))).1
  | _ => some 0

/-- SxEncode: the block as a number, and its flags (05 R114). -/
def sxEncode (m : Nat) (xs : List Nat) : Nat × BitVec 5 :=
  let vs := xs.map (fpRead fmtF32)
  let top := 2 ^ m - 1
  if vs.any Fv.isNan then (255, if vs.any Fv.isSig then fNV else 0)
  else
    let isInf (v : Fv) : Bool := match v with | .inf _ => true | _ => false
    let tops := vs.filterMap (fun v => match v with | .fin _ a e => some (topExp a e) | _ => none)
    let E : Nat := match tops with
      | [] => if vs.any isInf then 254 else 0
      | t :: r => (max 0 (min 254 (r.foldl max t + 127))).toNat
    let at' (i : Nat) : Fv := vs.getD i (.zer false)
    let le (o : Option Nat) : Bool := match o with | some q => decide (q ≤ top) | none => false
    let mu (p : Nat) : Nat := b2n (le (sxQ m E 1 (at' (2 * p))) && le (sxQ m E 1 (at' (2 * p + 1))))
    let neg (i : Nat) : Nat := bitsOf (xs.getD i 0) 31 1
    let mag (i : Nat) : Nat := match sxQ m E (mu (i / 2)) (at' i) with
      | some q => min q top
      | none => top
    let blk := (List.range 8).foldl (fun b p => b + mu p * 2 ^ (8 + p)) E
    let blk := (List.range 16).foldl (fun b i =>
      b + (mag i + neg i * 2 ^ m) * 2 ^ (16 + (m + 1) * i)) blk
    let ovf := (List.range 16).any (fun i =>
      match sxQ m E (mu (i / 2)) (at' i) with | some q => decide (top < q) | none => false)
    let nx := (List.range 16).any (fun i =>
      isInf (at' i) || sxDecode m blk i != xs.getD i 0)
    (blk, (if ovf then fOF else 0) ||| (if nx then fNX else 0))

end Sys2Proof.Machine
end

