-- ==== Sys2Proof/Machine/Spaces.lean ====
section
/-!
DEFINITION. Reaching memory from a lane: bounds, the places of the five spaces, translation of each
piece, and reads and stores of a group (07 R146 to R152; 08 R184, R187, R188; 10 R219).
-/

set_option Elab.async false

namespace Sys2Proof.Machine

/-- SPACE_BOUNDS with its cause and offset (10 R219). -/
def boundsFault (cause off : Nat) : FaultInfo :=
  { code := 0x12, cause := BitVec.ofNat 8 cause, addr := BitVec.ofNat 64 off }

/-- MISALIGNED (10 R219). -/
def misaligned (a : DWord) : FaultInfo := { code := 0x04, addr := a }

/-- The place of `n` bytes at offset `o` of scratch space 1 `.k`, 2 `.q` or 3 `.x` of a block
(07 R148, R150 to R152). -/
def State.scratchPlace (s : State) (blk sp o n : Nat) : Except FaultInfo Place :=
  match s.block blk with
  | none => .ok .gone
  | some b =>
    match s.launch b.launch with
    | none => .ok .gone
    | some l =>
      match sp with
      | 1 => if o + n > l.kscr then .error (boundsFault 1 o) else .ok (.scr b.core (b.kbase + o))
      | 2 =>
        if o + n > l.qscr * l.clSize then .error (boundsFault 2 o)
        else
          match s.blocks.find? (fun e => e.2.launch == b.launch && e.2.cluster == b.cluster &&
              e.2.rank == o / l.qscr) with
          | some e => .ok (.scr e.2.core (e.2.qbase + o % l.qscr))
          | none => .ok .gone
      | _ =>
        if o + n > 65536 * l.xsize ∨ l.xbase + l.xsize > 2048 then .error (boundsFault 3 o)
        else .ok (.chip (65536 * l.xbase + o))

/-- The fault of the lowest code, the first among equals (10 R220). -/
def leastFault (fs : List FaultInfo) : Option FaultInfo := minBy (fun f => f.code.toNat) fs

/-- A part of one access: its place, its virtual address or offset, its bytes. -/
structure Piece where
  place : Place
  va : DWord
  n : Nat
deriving DecidableEq, Repr

/-- Translated pieces of `n` bytes at a virtual address, split at lines. -/
def State.globPieces (s : State) (core asid : Nat) (priv : Bool) (a : Acc) :
    Nat → DWord → Nat → Except FaultInfo (List Piece)
  | 0, _, _ => .ok []
  | fuel + 1, va, n =>
    if n = 0 then .ok []
    else
      let k := min n (128 - va.toNat % 128)
      match s.translate core asid va.toNat a priv with
      | .bad f => .error f
      | .held _ => .error heldFault
      | .ok p =>
        match State.globPieces s core asid priv a fuel (va + BitVec.ofNat 64 k) (n - k) with
        | .error f => .error f
        | .ok r => .ok ({ place := .glob p, va := va, n := k } :: r)

/-- Address of byte `o` of a lane's private slice (07 R149). -/
def State.sliceAddr (s : State) (wid l o : Nat) : DWord :=
  match s.block (blkOf wid), s.launchOf wid with
  | some b, some L => BitVec.ofNat 64
      (L.lsbase + 32 * L.lsize * (b.num L * L.warpsPB + wid % 32) + 128 * (o / 4) + 4 * l + o % 4)
  | _, _ => 0

/-- The pieces of a lane-private access: its 4-byte words, each at its own address; of the faults of several
words the lowest code (07 R149; 10 R220). -/
def State.slicePieces (s : State) (c : Ctx) (l : Nat) (a : Acc) (o n : Nat) :
    Except FaultInfo (List Piece) :=
  let ws := if n ≤ 4 then [(o, n)] else (List.range (n / 4)).map (fun k => (o + 4 * k, 4))
  ws.foldl (fun acc w =>
    match acc, s.globPieces c.core (s.asidOf c.wid) (c.inHandler || c.inGraft) a 3
          (s.sliceAddr c.wid l w.1) w.2 with
    | .error f, .error g => .error (if g.code.toNat < f.code.toNat then g else f)
    | .error f, .ok _ => .error f
    | .ok _, .error g => .error g
    | .ok ps, .ok q => .ok (ps ++ q)) (.ok [])

/-- The pieces of a lane's access of `n` bytes at an address of a space, or its fault (07 R147 to
R152). -/
def State.reach (s : State) (c : Ctx) (l : Nat) (sp : Space) (addr : DWord) (n : Nat) (a : Acc) :
    Except FaultInfo (List Piece) :=
  let o := addr.toNat
  let one (k : Nat) : Except FaultInfo (List Piece) :=
    match s.scratchPlace (blkOf c.wid) k o n with
    | .error f => .error f
    | .ok p => .ok [{ place := p, va := addr, n := n }]
  if o % n ≠ 0 then .error (misaligned addr)
  else
    match sp with
    | .g => s.globPieces c.core (s.asidOf c.wid) (c.inHandler || c.inGraft) a 2 addr n
    | .k => one 1
    | .q => one 2
    | .x => one 3
    | .l =>
      if o + n > ((s.launchOf c.wid).map Launch.lsize).getD 0 then .error (boundsFault 4 o)
      else s.slicePieces c l a o n

/-- A scope acts at most as the widest sharing scope of its space (07 R146, 08 R187). -/
def effScope (sp : Space) (sc : Scope) : Scope :=
  match sp with
  | .g => sc
  | .x => match sc with
    | .node | .pod | .sys => .pkg
    | sc => sc
  | .q => match sc with
    | .thread | .tile | .warp | .block => sc
    | _ => .cluster
  | .k => match sc with
    | .thread | .tile | .warp => sc
    | _ => .block
  | .l => .thread

/-- Some of these lanes have a strong write that is not acknowledged (08 R188). -/
def State.strongBusy (s : State) (core wid : Nat) (m : Mask) : Bool :=
  (s.core core).sq.any (fun e => e.wid == wid && e.strong &&
    e.writes.any (fun w => m.getLsbD w.1))

/-- Reads the pieces of a lane's access in order, with the thread's own earlier stores put in where the access
is weak; poison makes the lane fault (01 R19; 08 R186; 12 R284). -/
def State.readPieces (c : Ctx) (l : Nat) (strong : Bool) :
    List Piece → State → Except FaultInfo (List Byte) × State
  | [], s => (.ok [], s)
  | p :: r, s =>
    let (x, s) : Option (List Byte) × State :=
      match p.place with
      | .glob ph =>
        if strong then s.strongLoad c.core ph p.n else s.weakLoad c.core c.wid l ph p.n
      | pl =>
        let bs := s.rdScratch pl p.n
        (some (match pl.key with
          | some k => if strong then bs else fwdBytes (s.core c.core).sq c.wid l k bs
          | none => bs), { s with fresh := s.fresh + 1 })
    match x with
    | none => (.error (poisonFault p.va.toNat), s)
    | some bs =>
      match State.readPieces c l strong r s with
      | (.error f, s) => (.error f, s)
      | (.ok q, s) => (.ok (bs ++ q), s)

/-- The reach of every lane of a group. -/
abbrev Reached := List (Nat × Except FaultInfo (List Piece))

/-- Some lane's access is held (12 R269, R271): the group waits. -/
def anyHeld (rs : Reached) : Bool :=
  rs.any (fun r => match r.2 with | .error f => decide (f = heldFault) | .ok _ => false)

/-- The lanes whose accesses fault before they are performed. -/
def reachFaults (rs : Reached) : List (Nat × FaultInfo) :=
  rs.filterMap (fun r => match r.2 with | .error f => some (r.1, f) | .ok _ => none)

/-- The lanes whose accesses are performed. -/
def reachOk (rs : Reached) : List (Nat × List Piece) :=
  rs.filterMap (fun r => match r.2 with | .ok p => some (r.1, p) | .error _ => none)

/-- The bytes that pieces of lanes touch, as (lane, place, length). -/
def touches (rs : List (Nat × List Piece)) : List (Nat × Nat × Nat) :=
  rs.flatMap (fun r => r.2.filterMap (fun p => p.place.key.map (fun k => (r.1, k, p.n))))

/-- A thread's earlier write to a byte of these is not performed yet (08 R179). -/
def State.ownPending (s : State) (core wid : Nat) (ts : List (Nat × Nat × Nat)) : Bool :=
  (s.core core).sq.any (fun e => e.wid == wid && e.gwct.isNone &&
    readsMeet (e.writes.map (fun w => (w.1, w.2.1, w.2.2.length))) ts)

/-- A strong access of a group waits for its threads' earlier strong accesses, and for their earlier writes
to its bytes (08 R179, R188). -/
def State.strongWaits (s : State) (c : Ctx) (rs : Reached) : Bool :=
  s.strongBusy c.core c.wid c.mask || s.ownPending c.core c.wid (touches (reachOk rs))

/-- A load of a group: each lane that does not fault reads its bytes, lane by lane, and `k` takes
them (17 R377, R378). -/
def loadGroup (c : Ctx) (strong : Bool) (rs : Reached) (k : Nat → List Byte → State → State)
    (s : State) : Res :=
  if anyHeld rs || (strong && s.strongWaits c rs) then Res.wait .strong 0 0 s
  else
    let s := s.recheckMeet c.core c.wid none (touches (reachOk rs))
    let (fs, s) := (reachOk rs).foldl (fun (t : List (Nat × FaultInfo) × State) r =>
      match t.2.readPieces c r.1 strong r.2 with
      | (.error f, s) => (t.1 ++ [(r.1, f)], s)
      | (.ok bs, s) => (t.1, k r.1 bs s)) ([], s)
    { s := s, faults := reachFaults rs ++ fs, flow := .seq }

-- stores (17 R408, R409)

/-- One lane's write to a piece. -/
structure LaneWrite where
  lane : Nat
  piece : Piece
  bytes : List Byte
deriving DecidableEq, Repr

/-- The writes of a lane's bytes to its pieces. -/
def cutWrites (l : Nat) : List Piece → List Byte → List LaneWrite
  | [], _ => []
  | p :: r, bs => { lane := l, piece := p, bytes := bs.take p.n } :: cutWrites l r (bs.drop p.n)

/-- Places the writes of one instruction in the store queue, one entry for each line; writes to a lost host
are marked lost (01 R9, R14; 08 R184, R185; 12 R281). -/
def State.storeWrites (c : Ctx) (strong : Bool) (ws : List LaneWrite) (s : State) : State :=
  let hostLost (w : LaneWrite) : Bool := match w.piece.place with | .glob p => s.writeDropped p.loc | _ => false
  let keep := (ws.filter (fun w => !hostLost w)).filterMap (fun w => w.piece.place.key.map (fun k => (w, k)))
  let s : State := { s with lost := s.lost ++ (ws.filter hostLost).map (fun w =>
    ({ wid := c.wid, lane := w.lane, addr := w.piece.va, host := true } : LostStore)) }
  let lid := s.lidOf c.wid
  let asid := s.asidOf c.wid
  (nubNat [] (keep.map (fun x => x.2 / 128))).foldl (fun s line =>
    let xs := keep.filter (fun x => x.2 / 128 == line)
    s.modCore c.core (fun k =>
      let e : SqEntry := { id := k.nextSq, wid := c.wid, launch := lid, line := line,
                           writes := xs.map (fun x => (x.1.lane, x.2, x.1.bytes)),
                           vas := if isScratch (128 * line) then [] else xs.map (fun x => x.1.piece.va),
                           strong := strong, asid := asid, gwct := none }
      { k with nextSq := k.nextSq + 1, sq := k.sq ++ [e] })) s

/-- A store of a group: the checks of its threads' later loads of the bytes are made again (01 R19; 17 R409,
R410). -/
def storeGroup (strong : Bool) (rs : Reached) (data : Nat → List Byte) (c : Ctx) (s : State) : Res :=
  if anyHeld rs then Res.wait .strong 0 0 s
  else
    let ws := (reachOk rs).flatMap (fun r => cutWrites r.1 r.2 (data r.1))
    let s := s.recheckMeet c.core c.wid none (touches (reachOk rs))
    { s := s.storeWrites c strong ws, faults := reachFaults rs, flow := .seq }

end Sys2Proof.Machine
end

