-- ==== Sys2Proof/Machine/LoadStore.lean ====
section
/-!
DEFINITION. Loads, stores, atomics, waits on memory, stream loads, prefetches and hints (07 R165,
R166; 08 R186 to R189, R195, R196; 15 R325; 16 R331 to R335; 17 R376 to R378; 18 R393, R407 to
R410, R417, R418).
-/

set_option Elab.async false

namespace Sys2Proof.Machine

/-- Bytes of a load type (17 R376). -/
def ldBytes : LdTy → Nat
  | .z8 | .s8 => 1
  | .z16 | .s16 => 2
  | .b32 => 4
  | .b64 => 8
  | .b128 => 16

/-- Bytes of a store type (18 R408). -/
def stBytes : StTy → Nat
  | .b8 => 1
  | .b16 => 2
  | .b32 => 4
  | .b64 => 8
  | .b128 => 16

/-- The register values of loaded bytes, lowest address first (17 R377). -/
def ldWords (ty : LdTy) (bs : List Byte) : List Word :=
  match ty with
  | .z8 | .z16 => [BitVec.ofNat 32 (leNat bs)]
  | .s8 => [(BitVec.ofNat 8 (leNat bs)).signExtend 32]
  | .s16 => [(BitVec.ofNat 16 (leNat bs)).signExtend 32]
  | .b32 => [BitVec.ofNat 32 (leNat bs)]
  | .b64 => (List.range 2).map (fun k => BitVec.ofNat 32 (leNat ((bs.drop (4 * k)).take 4)))
  | .b128 => (List.range 4).map (fun k => BitVec.ofNat 32 (leNat ((bs.drop (4 * k)).take 4)))

/-- Writes words to consecutive registers of a lane. -/
def Warp.putWords (l : Nat) (d : LSpec) (ws : List Word) (w : Warp) : Warp :=
  (ws.foldl (fun (t : Nat × Warp) x => (t.1 + 1, t.2.wrL l (LSpec.plus d t.1) x)) (0, w)).2

/-- The reach of each lane of a group at its memory operand (17 R376). -/
def memReach (s : State) (c : Ctx) (m : MemOp) (imm : DWord) (n : Nat) (a : Acc) : Reached :=
  match s.warp c.wid with
  | none => []
  | some w => (lanesOf c.mask).map (fun l =>
      (l, s.reach c l m.space (MemOp.addr s c w l m imm) n a))

/-- LD: a weak load through a lease, a strong one at the home, and acquire after it (17 R377). -/
def bodyLd (strong acq : Bool) (ty : LdTy) (sc : Option Scope) (m : MemOp) (d : LSpec) (imm :
    BitVec 16) : Ctx → State → Res :=
  fun c s =>
    let rs := memReach s c m (imm.signExtend 64) (ldBytes ty) .read
    let r := loadGroup c (strong || acq) rs (fun l bs s =>
      s.modWarp c.wid (Warp.putWords l d (ldWords ty bs))) s
    match r.flow with
    | .seq => if acq then { r with s := r.s.acquire c.core c.wid (effScope m.space (sc.getD .pkg)) } else r
    | _ => r

/-- The meaning of LD. -/
def execLd (strong acq : Bool) (ty : LdTy) (sc : Option Scope) (m : MemOp) (d : LSpec) (imm :
    BitVec 16) (s : State) : Host.Outcome State Fault Refusal :=
  issue (.ld strong acq ty sc m d imm) (bodyLd strong acq ty sc m d imm) s

/-- The low bytes of a lane's data registers (18 R408). -/
def stData (w : Warp) (l : Nat) (ty : StTy) (d : LSpec) : List Byte :=
  ((List.range (stRegs ty)).flatMap (fun k => natLe 4 (w.rdL l (LSpec.plus d k)).toNat)).take
    (stBytes ty)

/-- ST: a release first where it has one, then each lane's bytes to the store queue (18 R409). -/
def bodySt (strong rel : Bool) (ty : StTy) (sc : Option Scope) (m : MemOp) (d : LSpec) (imm :
    BitVec 16) : Ctx → State → Res :=
  fun c s =>
    let k : Ctx → State → Res := fun c s =>
      match s.warp c.wid with
      | none => Res.ok s
      | some w => storeGroup (strong || rel) (memReach s c m (imm.signExtend 64) (stBytes ty) .write)
          (fun l => stData w l ty d) c s
    if rel then withRelease (effScope m.space (sc.getD .pkg)) k c s else k c s

/-- The meaning of ST. -/
def execSt (strong rel : Bool) (ty : StTy) (sc : Option Scope) (m : MemOp) (d : LSpec) (imm :
    BitVec 16) (s : State) : Host.Outcome State Fault Refusal :=
  issue (.st strong rel ty sc m d imm) (bodySt strong rel ty sc m d imm) s

-- atomics (16 R331 to R335)

/-- One element's new value for a float type. -/
def atomFloat (op : AOp) (f : Fmt) (old n : Nat) : Nat :=
  match op with
  | .min => (fpMinMax false f old n).1
  | .max => (fpMinMax true f old n).1
  | _ => (fpAdd f .rn old n).1

/-- Both elements of a packed word. -/
def atomPair (op : AOp) (f : Fmt) (old n : Nat) : Nat :=
  atomFloat op f (bitsOf old 0 16) (bitsOf n 0 16) +
    65536 * atomFloat op f (bitsOf old 16 16) (bitsOf n 16 16)

/-- The new value of an atomic, or none where a compare fails (16 R332). -/
def atomNew (op : AOp) (ty : ATy) (old n cmp : Nat) : Option Nat :=
  let w := if ty.wide64 then 64 else 32
  let sg := match ty with | .s32 | .s64 => true | _ => false
  let lt (x y : Nat) : Bool :=
    if sg then decide (sintOf w x < sintOf w y) else decide (x < y)
  match op with
  | .exch => some n
  | .cas => if old = cmp then some n else none
  | .and => some (old &&& n)
  | .or => some (old ||| n)
  | .xor => some (old ^^^ n)
  | op =>
    match ty with
    | .f32 => some (atomFloat op fmtF32 old n)
    | .f16 => some (atomPair op fmtF16 old n)
    | .bf16 => some (atomPair op fmtBf16 old n)
    | _ =>
      match op with
      | .min => some (cond (lt n old) n old)
      | .max => some (cond (lt old n) n old)
      | _ => some ((old + n) % 2 ^ w)

/-- A core's contention counter of a line, 0 where it holds none (08 R196). -/
def State.predCtr (s : State) (core line : Nat) : Nat :=
  (((s.core core).pred.find? (fun p => p.line == line)).map (·.ctr)).getD 0

/-- An atomic of the core on the line is placed at a core (08 R196). -/
def State.corePlaced (s : State) (core line : Nat) : Bool :=
  isDev (128 * line) && !s.hostBias (128 * line) && decide (s.predCtr core line < 2)

/-- The core asks for a line's ownership, and the home does not grant it before its latest lease has passed
(08 R196). -/
def State.ownLater (s : State) (core line : Nat) : Bool :=
  s.corePlaced core line && (s.lineMeta line).owner != some core && decide (s.gtime < s.latestLease line)

/-- The contention predictor's choice for a line: its entry is allocated at 0 in place of the least
recently used, and below 2 the core becomes the owner (08 R196). -/
def State.predict (core line : Nat) (s : State) : State :=
  let k := s.core core
  let ctr := s.predCtr core line
  let rest := k.pred.filter (fun p => p.line != line)
  let rest := if rest.length < 64 then rest
    else match minBy (fun (p : PredEntry) => p.stamp) rest with
      | none => rest
      | some v => rest.filter (fun p => p.line != v.line)
  let s := s.modCore core (fun k => { k with pred := rest ++ [{ line := line, ctr := ctr, stamp := s.tick }] })
  let m := s.lineMeta line
  if m.owner = some core then s
  else
    let s := if m.owner.isSome then (s.recall line).trainPred core line else s
    if 2 ≤ ctr then s
    else { s with lines := tset line { s.lineMeta line with owner := some core } s.lines }

/-- Performs one lane's atomic at its place: the old value, or the lane's fault (16 R332, R335;
08 R195; 12 R272, R281). -/
def State.atomAt (c : Ctx) (l : Nat) (isRed : Bool) (p : Piece)
    (f : Nat → Option Nat) (s : State) : Except FaultInfo Nat × State :=
  match p.place with
  | .glob ph =>
    if s.writeDropped ph.loc then
      if isRed then
        let e : LostStore := { wid := c.wid, lane := l, addr := p.va, host := true }
        (.ok 0, { s with lost := s.lost ++ [e] })
      else (.error { code := 0x10, addr := p.va }, s)
    else if s.poisonedR ph.loc p.n then (.error (poisonFault p.va.toNat), s)
    else
      let old := leNat (s.rdMem ph.loc p.n)
      match f old with
      | none => (.ok old, (s.recallFrom (some c.core) (ph.loc / 128)).refresh c.core (ph.loc / 128))
      | some v =>
        let s := if isDev ph.loc && !s.hostBias ph.loc then s.predict c.core (ph.loc / 128) else s
        let (g, s) := s.perform (some c.core) ph.loc (natLe p.n v)
        (.ok old, s.ackNow isRed c.core c.wid l ph.loc g p.va)
  | pl =>
    let old := leNat (s.rdScratch pl p.n)
    match f old with
    | none => (.ok old, { s with fresh := s.fresh + 1 })
    | some v =>
      let s := s.wrScratch pl (natLe p.n v)
      (.ok old, (State.modWarp c.wid (Warp.raiseLwct s.gtime) { s with fresh := s.fresh + 1 }))

/-- A group's atomics may not be performed yet: an access is held, an earlier access of their threads comes
first, a line waits for its ownership, or an LNX stands at its head (08 R179, R188, R196; 09 R216). -/
def State.atomWaits (s : State) (c : Ctx) (rs : Reached) : Bool :=
  anyHeld rs || s.strongWaits c rs || (reachOk rs).any (fun r => r.2.any (fun p => match p.place with
    | .glob ph => s.ownLater c.core (ph.loc / 128) || s.lnxHead (ph.loc / 128)
    | _ => false))

/-- The atomics of a group, performed in lane order (16 R333, R334). -/
def atomGroup (isRed : Bool) (rs : Reached) (f : Nat → Nat → Option Nat)
    (k : Nat → Nat → State → State) (c : Ctx) (s : State) : Res :=
  if s.atomWaits c rs then Res.wait .strong 0 0 s
  else
    let s := s.recheckMeet c.core c.wid none (touches (reachOk rs))
    let (fs, s) := (reachOk rs).foldl (fun (t : List (Nat × FaultInfo) × State) r =>
      match r.2 with
      | [] => t
      | p :: _ =>
        match t.2.atomAt c r.1 isRed p (f r.1) with
        | (.error e, s) => (t.1 ++ [(r.1, e)], s)
        | (.ok old, s) => (t.1, k r.1 old s)) ([], s)
    { s := s, faults := reachFaults rs ++ fs, flow := .seq }

/-- An atomic with its ordering (16 R334; 08 R189). -/
def atomOrdered (ord : Ord4) (sc : Scope) (k : Ctx → State → Res) (c : Ctx) (s : State) : Res :=
  let r := if ordRel ord then withRelease sc k c s else k c s
  match r.flow with
  | .seq => if ordAcq ord then { r with s := r.s.acquire c.core c.wid sc } else r
  | _ => r

/-- ATOM: read, compute and write at one instant in each lane; the old value returns (16 R332). -/
def bodyAtom (op : AOp) (ty : ATy) (ord : Ord4) (sc : Scope) (m : MemOp) (d b c : LSpec) : Ctx →
    State → Res :=
  fun x s => atomOrdered ord (effScope m.space sc) (fun x s =>
    match s.warp x.wid with
    | none => Res.ok s
    | some w =>
      let w64 := ty.wide64
      atomGroup false (memReach s x m 0 (if w64 then 8 else 4) .rw)
        (fun l old => atomNew op ty old (w.rdW l w64 b).toNat (w.rdW l w64 c).toNat)
        (fun l old s => s.modWarp x.wid (Warp.wrW l w64 d (BitVec.ofNat 64 old))) x s) x s

/-- The meaning of ATOM. -/
def execAtom (op : AOp) (ty : ATy) (ord : Ord4) (sc : Scope) (m : MemOp) (d b c : LSpec) (s :
    State) : Host.Outcome State Fault Refusal :=
  issue (.atom op ty ord sc m d b c) (bodyAtom op ty ord sc m d b c) s

/-- RED: as ATOM, with no value returned (16 R332). -/
def bodyRed (op : AOp) (ty : ATy) (ord : Ord4) (sc : Scope) (m : MemOp) (b : LSpec) : Ctx → State
    → Res :=
  fun x s => atomOrdered ord (effScope m.space sc) (fun x s =>
    match s.warp x.wid with
    | none => Res.ok s
    | some w =>
      let w64 := ty.wide64
      atomGroup true (memReach s x m 0 (if w64 then 8 else 4) .rw)
        (fun l old => atomNew op ty old (w.rdW l w64 b).toNat 0) (fun _ _ s => s) x s) x s

/-- The meaning of RED. -/
def execRed (op : AOp) (ty : ATy) (ord : Ord4) (sc : Scope) (m : MemOp) (b : LSpec) (s : State) :
    Host.Outcome State Fault Refusal :=
  issue (.red op ty ord sc m b) (bodyRed op ty ord sc m b) s

-- WAITA (18 R417, R418)

/-- The comparison of a sample with the lane's operand. -/
def waitTrue (cd : WCond) (n : Nat) (x y : Nat) : Bool :=
  match cd with
  | .eq => x == y
  | .ne => x != y
  | .uge => decide (y ≤ x)
  | .ult => decide (x < y)
  | .sge => decide (sintOf n y ≤ sintOf n x)
  | .slt => decide (sintOf n x < sintOf n y)

/-- One round of samples of the lanes that have had no true one yet: what each true one read, and
the lanes that fault. -/
def State.sampleAll (c : Ctx) (cd : WCond) (w64 : Bool) (m : MemOp) (b : LSpec) (imm : DWord)
    (s : State) : List (Nat × FaultInfo) × State :=
  match s.warp c.wid with
  | none => ([], s)
  | some w =>
    (lanesOf c.mask).foldl (fun (t : List (Nat × FaultInfo) × State) l =>
      let a := MemOp.addr s c w l m imm
      if w.waitaDone.any (fun e => e.1 == l) then t
      else if m.space == .g && s.wcallFault.contains (c.wid, a) then
        (t.1 ++ [(l, { code := 0x16, addr := a })], t.2)
      else
        match s.reach c l m.space a (if w64 then 8 else 4) .read with
        | .error f => if f = heldFault then t else (t.1 ++ [(l, f)], t.2)
        | .ok ps =>
          match t.2.readPieces c l true ps with
          | (.error f, s) => (t.1 ++ [(l, f)], s)
          | (.ok bs, s) =>
            let x := leNat bs
            if waitTrue cd (if w64 then 64 else 32) x (w.rdW l w64 b).toNat then
              (t.1, s.modWarp c.wid (fun w =>
                { w with waitaDone := w.waitaDone ++ [(l, BitVec.ofNat 64 x)] }))
            else (t.1, s)) ([], s)

/-- WAITA: waits until every lane has had one true sample; the faults of a call's drain arrive
here (10 R234; 18 R418). -/
def bodyWaita (c : WCond) (w : Width) (acq : Bool) (sc : Scope) (m : MemOp) (d b : LSpec) (imm :
    BitVec 13) : Ctx → State → Res :=
  fun x s =>
    let rs := memReach s x m (imm.signExtend 64) (if w.is64 then 8 else 4) .read
    if s.strongWaits x rs then Res.wait .strong 0 0 s
    else
      let fresh := (x.tag.map (·.why)) != some .waita
      let s := if fresh then s.modWarp x.wid (fun w => { w with
          waitaDone := w.waitaDone.filter (fun e => !x.mask.getLsbD e.1) }) else s
      let (fs, s) := s.sampleAll x c w.is64 m b (imm.signExtend 64)
      let s : State := { s with wcallFault := s.wcallFault.filter (fun e =>
        !(e.1 == x.wid && fs.any (fun f => f.2.code == 0x16 && f.2.addr == e.2))) }
      let rest := x.mask &&& ~~~maskOf (fs.map Prod.fst)
      let got := ((s.warp x.wid).map (·.waitaDone)).getD []
      if (lanesOf rest).all (fun l => got.any (fun e => e.1 == l)) then
        let s := s.recheckMeet x.core x.wid none (touches (reachOk rs))
        let s := s.modWarp x.wid (fun v => foldLanes rest (fun l v =>
          Warp.wrW l w.is64 d (((got.find? (fun e => e.1 == l)).map Prod.snd).getD 0) v) v)
        { s := if acq && rest != 0 then s.acquire x.core x.wid (effScope m.space sc) else s,
          faults := fs, flow := .seq }
      else { s := s, faults := fs, flow := .stay .waita 0 0 }

/-- The meaning of WAITA. -/
def execWaita (c : WCond) (w : Width) (acq : Bool) (sc : Scope) (m : MemOp) (d b : LSpec) (imm :
    BitVec 13) (s : State) : Host.Outcome State Fault Refusal :=
  issue (.waita c w acq sc m d b imm) (bodyWaita c w acq sc m d b imm) s

-- stream loads (07 R163 to R166; 18 R407)

def rcInd (r : BitVec 512) : Bool := rcF r 387 1 == 1
def rcIwidth (r : BitVec 512) : Nat := rcF r 388 2
def rcIscale (r : BitVec 512) : Nat := rcF r 390 3
def rcIspace (r : BitVec 512) : Nat := rcF r 393 3
def rcSpace (r : BitVec 512) : Nat := rcF r 396 3
def rcCount (r : BitVec 512) (k : Nat) : Nat := rcF r (64 + 64 * k) 32
def rcStride (r : BitVec 512) (k : Nat) : Int := sintOf 32 (rcF r (96 + 64 * k) 32)

/-- Elements of a record (07 R164). -/
def rcTotal (r : BitVec 512) : Nat := rcCount r 0 * rcCount r 1 * rcCount r 2 * rcCount r 3

/-- A record is valid (07 R164). -/
def rcValid (r : BitVec 512) : Bool :=
  decide (rcTotal r ≠ 0) && decide (rcTotal r ≤ 2 ^ 48) && decide (rcEsize r ≤ 4) &&
    decide (rcSpace r ≤ 3) && decide (rcIspace r ≤ 3) && rcF r 399 17 == 0 && rcF r 416 96 == 0 &&
    (rcInd r || (rcIspace r == 0 && rcIscale r == 0 && rcIwidth r == 0 && rcF r 320 64 == 0))

/-- The walk's offset for element n (07 R164). -/
def rcOff (r : BitVec 512) (n : Nat) : Int :=
  let c0 := rcCount r 0
  let c1 := rcCount r 1
  let c2 := rcCount r 2
  (n % c0 : Nat) * rcStride r 0 + (n / c0 % c1 : Nat) * rcStride r 1 +
    (n / (c0 * c1) % c2 : Nat) * rcStride r 2 + (n / (c0 * c1 * c2) : Nat) * rcStride r 3

/-- The space of a record's code. -/
def rcSp (k : Nat) : Space :=
  match k with
  | 0 => .g
  | 1 => .k
  | 2 => .q
  | _ => .x

/-- An address modulo its space's width (07 R164). -/
def rcWrap (k : Nat) (x : Int) : DWord := BitVec.ofNat 64 (wrapInt (if k = 0 then 64 else 32) x)

/-- One lane's read of element n: its bytes, or its fault (07 R164, R166). None: held. -/
def State.elemRead (c : Ctx) (l : Nat) (r : BitVec 512) (n : Nat) (s : State) :
    Except FaultInfo (List Byte) × State :=
  let data (x : Int) (s : State) : Except FaultInfo (List Byte) × State :=
    match s.reach c l (rcSp (rcSpace r)) (rcWrap (rcSpace r) x) (2 ^ rcEsize r) .read with
    | .error f => (.error f, s)
    | .ok ps => s.readPieces c l false ps
  if rcInd r then
    match s.reach c l (rcSp (rcIspace r))
        (rcWrap (rcIspace r) ((rcF r 320 64 : Int) + rcOff r n)) (2 ^ rcIwidth r) .read with
    | .error f => (.error f, s)
    | .ok ps =>
      match s.readPieces c l false ps with
      | (.error f, s) => (.error f, s)
      | (.ok bs, s) => data ((rcF r 0 64 : Int) + (leNat bs * 2 ^ rcIscale r : Nat)) s
  else data ((rcF r 0 64 : Int) + rcOff r n) s

/-- The pieces that element n of a lane reads: its index's, then its own (07 R164). -/
def State.elemPieces (s : State) (c : Ctx) (l : Nat) (r : BitVec 512) (n : Nat) : List Piece :=
  let data (x : Int) : List Piece :=
    match s.reach c l (rcSp (rcSpace r)) (rcWrap (rcSpace r) x) (2 ^ rcEsize r) .read with
    | .error _ => []
    | .ok ps => ps
  if rcInd r then
    match s.reach c l (rcSp (rcIspace r))
        (rcWrap (rcIspace r) ((rcF r 320 64 : Int) + rcOff r n)) (2 ^ rcIwidth r) .read with
    | .error _ => []
    | .ok ps =>
      match (s.readPieces c l false ps).1 with
      | .error _ => ps
      | .ok bs => ps ++ data ((rcF r 0 64 : Int) + (leNat bs * 2 ^ rcIscale r : Nat))
  else data ((rcF r 0 64 : Int) + rcOff r n)

/-- The effective address of element n: its own, or that of its index (DEDUCED, log entry 106). -/
def elemAddr (r : BitVec 512) (n : Nat) : DWord :=
  if rcInd r then rcWrap (rcIspace r) ((rcF r 320 64 : Int) + rcOff r n)
  else rcWrap (rcSpace r) ((rcF r 0 64 : Int) + rcOff r n)

/-- The destination fits an element (07 R166; 14 R304). -/
def sldDestOk (w : Warp) (l n : Nat) (d : LSpec) : Bool :=
  match d with
  | .v k => k.val % n == 0 && Use.ok w l { uset := false, code := k.val, n := n }
  | .t k => k.val % n == 0
  | _ => true

/-- Each active lane's element number: the next ones from the position, or the number at which it
faulted before (07 R166). -/
def sldNumbers (c : Ctx) (w : Warp) (pos : Nat) : List (Nat × Nat) × Nat :=
  (lanesOf c.mask).foldl (fun (t : List (Nat × Nat) × Nat) l =>
    match (w.lane l).elem with
    | some n => (t.1 ++ [(l, n)], t.2)
    | none => (t.1 ++ [(l, t.2)], t.2 + 1)) ([], pos)

/-- SLD with the reads of its elements as `rd` gives them by lane and number: the position advances past
every element, a faulting lane keeps its number (07 R166; 18 R407). -/
def sldWith (rd : BitVec 512 → Nat → Nat → State → Except FaultInfo (List Byte) × State) (d : LSpec)
    (n : Fin 8) (f : Option (Fin 8)) (c : Ctx) (s : State) : Res :=
  match s.warp c.wid, s.block (blkOf c.wid) with
  | some w, some b =>
    match b.streams.getD n.val none with
    | none => Res.fault c { code := 0x16 } s
    | some z =>
      let k := rcRegs z.rcd
      let total := rcTotal z.rcd
      if !sldDestOk w (lowLane c.mask) k d then Res.fault c illEnc s
      else
        let (es, pos) := sldNumbers c w z.pos
        let rs := es.map (fun e => (e.1, e.2, if e.2 < total then (rd z.rcd e.1 e.2 s).1 else .ok []))
        if rs.any (fun e => match e.2.2 with
            | .error g => decide (g = heldFault)
            | .ok _ => false) then Res.wait .strong 0 0 s
        else
          let z' : Stream := { z with pos := min pos total }
          let s := s.modBlock (blkOf c.wid) (fun b =>
            { b with streams := lput none n.val (some z') b.streams })
          let (fs, s) := es.foldl (fun (t : List (Nat × FaultInfo) × State) e =>
            let got := decide (e.2 < total)
            let (x, s) := if got then rd z.rcd e.1 e.2 t.2 else (.ok [], t.2)
            match x with
            | .error g => (t.1 ++ [(e.1, g)], s.modWarp c.wid (fun w =>
                w.modLane e.1 (fun y => { y with elem := some e.2 })))
            | .ok bs =>
              let ws := (List.range k).map (fun i =>
                BitVec.ofNat 32 (leNat ((bs.drop (4 * i)).take 4)))
              (t.1, s.modWarp c.wid (fun w =>
                let w := Warp.putWords e.1 d ws w
                let w := match f with
                  | some p => Warp.wrF e.1 p.val got w
                  | none => w
                w.modLane e.1 (fun y => { y with elem := none }))))
            ([], s)
          { s := s, faults := fs, flow := .seq }
  | _, _ => Res.ok s

/-- SLD: the next elements of a stream slot, in lane order (07 R166; 18 R407). -/
def bodySld (d : LSpec) (n : Fin 8) (f : Option (Fin 8)) : Ctx → State → Res :=
  fun c s => sldWith (fun r l k s => s.elemRead c l r k) d n f c s

/-- The meaning of SLD. -/
def execSld (d : LSpec) (n : Fin 8) (f : Option (Fin 8)) (s : State) : Host.Outcome State Fault
    Refusal :=
  issue (.sld d n f) (bodySld d n f) s

-- no architectural effect

/-- The memory operand of a PREF, none where a field holds a value that its entry does not define
(15 R325; 18 R393). -/
def prefOp (w : Warp) (l : Nat) (a base : Fin 128) (scale : Fin 4) (low : Fin 16) : Option MemOp :=
  match lspecOf a.val, uspecOf base.val with
  | some o, some b =>
    let m : MemOp := { space := .g, base := b, off := o, scale := scale }
    if low.val = 0 ∧ base.val % 2 = 0 ∧ (useM m).all (Use.ok w l) = true then some m else none
  | _, _ => none

/-- Brings the line of one lane's address into its home slice, or into the core's L1 under a lease; an access
that would fault, or would have to wait, is dropped (18 R393). -/
def State.prefetch (c : Ctx) (home : Bool) (va : Nat) (s : State) : State :=
  match s.translate c.core (s.asidOf c.wid) va .read (c.inHandler || c.inGraft) with
  | .ok p =>
    let line := p.loc / 128
    if !s.leasable line then s
    else if home then { s with lines := tset line (s.lineMeta line) s.lines }
    else s.l1Fill c.core line
  | _ => s

/-- PREF fetches the line of each lane's address; it changes only time and never faults (18 R393; 07 R148). -/
def bodyPref (a base : Fin 128) (scale : Fin 4) (home : Bool) (low : Fin 16) (imm : BitVec 32) :
    Ctx → State → Res :=
  fun c s =>
    match s.warp c.wid with
    | none => Res.ok s
    | some w =>
      match prefOp w (lowLane c.mask) a base scale low with
      | none => Res.ok s
      | some m =>
        let vas := (lanesOf c.mask).map (fun l => (MemOp.addr s c w l m (imm.signExtend 64)).toNat)
        Res.ok (vas.foldl (fun s va => s.prefetch c home va) s)

/-- The meaning of PREF. -/
def execPref (a base : Fin 128) (scale : Fin 4) (home : Bool) (low : Fin 16) (imm : BitVec 32) (s
    : State) : Host.Outcome State Fault Refusal :=
  issue (.pref a base scale home low imm) (bodyPref a base scale home low imm) s

/-- HINT: an unimplemented hint executes as a no-op (15 R325). -/
def bodyHint (_uset : Bool) (_op : Fin 3) (_hd : Bool) (_d : Fin 128) (_payload : BitVec 14)
    (_more : List Word) : Ctx → State → Res :=
  fun _ s => Res.ok s

/-- The meaning of HINT. -/
def execHint (uset : Bool) (op : Fin 3) (hd : Bool) (d : Fin 128) (payload : BitVec 14) (more :
    List Word) (s : State) : Host.Outcome State Fault Refusal :=
  issue (.hint uset op hd d payload more) (bodyHint uset op hd d payload more) s

end Sys2Proof.Machine
end

