-- ==== Sys2Proof/Machine/Copy.lean ====
section
/-!
DEFINITION. Stream slots, circular buffers, copy commands and copy engines (07 R163 to R177; 08
R197; 16 R345, R347 to R349; 18 R403, R404).
-/

set_option Elab.async false

namespace Sys2Proof.Machine

-- stream slots (07 R165)

/-- SARM reads, validates and arms a stream record (07 R165). -/
def bodySarm (n : Fin 8) (a : USpec) : Ctx → State → Res :=
  fun c s =>
    let va := s.rdU64 c a
    if va.toNat % 64 ≠ 0 then Res.fault c (misaligned va) s
    else
      match s.globPieces c.core (s.asidOf c.wid) (c.inHandler || c.inGraft) .read 2 va 64 with
      | .error f => if f = heldFault then Res.wait .strong 0 0 s else Res.fault c f s
      | .ok ps =>
        match s.readPieces c (lowLane c.mask) false ps with
        | (.error f, s) => Res.fault c f s
        | (.ok bs, s) =>
          let r : BitVec 512 := BitVec.ofNat 512 (leNat bs)
          if !rcValid r then Res.fault c { code := 0x16, addr := va } s
          else
            let z : Stream := { rcd := r, pos := 0 }
            Res.ok (s.modBlock (blkOf c.wid) (fun b =>
              { b with streams := lput none n.val (some z) b.streams }))

/-- The meaning of SARM. -/
def execSarm (n : Fin 8) (a : USpec) (s : State) : Host.Outcome State Fault Refusal :=
  issue (.sarm n a) (bodySarm n a) s

/-- SDIS disarms a stream slot (07 R165). -/
def bodySdis (n : Fin 8) : Ctx → State → Res :=
  fun c s => Res.ok (s.modBlock (blkOf c.wid) (fun b =>
    { b with streams := lput none n.val none b.streams }))

/-- The meaning of SDIS. -/
def execSdis (n : Fin 8) (s : State) : Host.Outcome State Fault Refusal :=
  issue (.sdis n) (bodySdis n) s

-- circular buffers (07 R168)

def State.cbuf (s : State) (blk n : Nat) : Option CBuf :=
  (s.block blk).bind (fun b => b.cbufs[n]?)

def State.setCbuf (blk n : Nat) (x : CBuf) (s : State) : State :=
  s.modBlock blk (fun b => { b with cbufs := b.cbufs.set n x })

/-- The `.k` offset of a slot. -/
def CBuf.off (x : CBuf) (i : Nat) : Nat := x.base + i * x.slotb

/-- Reserve(b) for a waiter: the slot, or none while it has to wait behind others or for a free
slot; a software reservation is remembered in order (07 R168). -/
def CBuf.reserve (x : CBuf) (who : Nat) (soft : Bool) : Option (Nat × CBuf) :=
  if x.slots.getD x.pr .acquired = .free ∧ (x.resWait = [] ∨ x.resWait.head? = some who) then
    some (x.pr, { x with slots := x.slots.set x.pr .reserved, pr := (x.pr + 1) % x.nslot,
                         sw := if soft then x.sw ++ [x.pr] else x.sw,
                         resWait := x.resWait.filter (· != who) })
  else none

/-- Advance(b) (07 R168). -/
def CBuf.advance : Nat → CBuf → CBuf
  | 0, x => x
  | n + 1, x =>
    if x.slots.getD x.pf .free = .committed then
      CBuf.advance n { x with slots := x.slots.set x.pf .filled, pf := (x.pf + 1) % x.nslot }
    else x

/-- A slot becomes COMMITTED. -/
def CBuf.commit (x : CBuf) (i : Nat) : CBuf :=
  CBuf.advance x.nslot { x with slots := x.slots.set i .committed }

/-- A waiter joins a list once. -/
def joinWait (who : Nat) (l : List Nat) : List Nat := if l.contains who then l else l ++ [who]

/-- The wider of two scopes. -/
def scopeNo : Scope → Nat
  | .thread => 0 | .tile => 1 | .warp => 2 | .block => 3 | .cluster => 4
  | .die => 5 | .pkg => 6 | .node => 7 | .pod => 8 | .sys => 9

def widest (a b : Scope) : Scope := if scopeNo a < scopeNo b then b else a

/-- CBRSV: Reserve, waiting while the next slot is not FREE (16 R345). -/
def bodyCbrsv (d : USpec) (n : Fin 16) : Ctx → State → Res :=
  fun c s =>
    match s.cbuf (blkOf c.wid) n.val with
    | none => Res.fault c (boundsFault 1 0) s
    | some x =>
      match x.reserve c.who true with
      | some (i, x) =>
        Res.ok ((s.setCbuf (blkOf c.wid) n.val x).wrU c d (BitVec.ofNat 32 (x.off i)))
      | none => Res.wait .cbrsv 0 0
          (s.setCbuf (blkOf c.wid) n.val { x with resWait := joinWait c.who x.resWait })

/-- The meaning of CBRSV. -/
def execCbrsv (d : USpec) (n : Fin 16) (s : State) : Host.Outcome State Fault Refusal :=
  issue (.cbrsv d n) (bodyCbrsv d n) s

/-- CBCMT: a release at .block, then Commit (16 R345; 07 R169). -/
def bodyCbcmt (n : Fin 16) : Ctx → State → Res :=
  fun c s =>
    match s.cbuf (blkOf c.wid) n.val with
    | none => Res.fault c (boundsFault 1 0) s
    | some x =>
      match x.sw with
      | [] => Res.fault c (barFault 6 n.val) s
      | i :: r => withRelease .block (fun c s =>
          Res.ok (s.setCbuf (blkOf c.wid) n.val (CBuf.commit { x with sw := r } i))) c s

/-- The meaning of CBCMT. -/
def execCbcmt (n : Fin 16) (s : State) : Host.Outcome State Fault Refusal :=
  issue (.cbcmt n) (bodyCbcmt n) s

/-- CBACQ: Acquire, then an acquire; a slot marked by a faulted copy faults and is freed (16 R345;
07 R169, R175; 08 R197). -/
def bodyCbacq (d : USpec) (n : Fin 16) : Ctx → State → Res :=
  fun c s =>
    match s.cbuf (blkOf c.wid) n.val with
    | none => Res.fault c (boundsFault 1 0) s
    | some x =>
      if x.slots.getD x.ca .free = .filled ∧ (x.acqWait = [] ∨ x.acqWait.head? = some c.who) then
        let i := x.ca
        let x : CBuf := { x with ca := (x.ca + 1) % x.nslot,
                                 acqWait := x.acqWait.filter (· != c.who) }
        match x.marks.find? (fun e => e.1 == i) with
        | some e =>
          Res.fault c e.2 (s.setCbuf (blkOf c.wid) n.val
            { x with slots := x.slots.set i .free, marks := x.marks.filter (fun y => y.1 != i),
                     rels := x.rels.filter (fun y => y.1 != i) })
        | none =>
          let sc := match x.rels.find? (fun e => e.1 == i) with
            | some e => e.2
            | none => .block
          let s := s.setCbuf (blkOf c.wid) n.val
            { x with slots := x.slots.set i .acquired, acq := x.acq ++ [i],
                     rels := x.rels.filter (fun y => y.1 != i) }
          Res.ok ((s.wrU c d (BitVec.ofNat 32 (x.off i))).acquire c.core c.wid sc)
      else Res.wait .cbacq 0 0
          (s.setCbuf (blkOf c.wid) n.val { x with acqWait := joinWait c.who x.acqWait })

/-- The meaning of CBACQ. -/
def execCbacq (d : USpec) (n : Fin 16) (s : State) : Host.Outcome State Fault Refusal :=
  issue (.cbacq d n) (bodyCbacq d n) s

/-- CBREL: Release (16 R345). -/
def bodyCbrel (n : Fin 16) : Ctx → State → Res :=
  fun c s =>
    match s.cbuf (blkOf c.wid) n.val with
    | none => Res.fault c (boundsFault 1 0) s
    | some x =>
      match x.acq with
      | [] => Res.fault c (barFault 6 n.val) s
      | i :: r => Res.ok (s.setCbuf (blkOf c.wid) n.val
          { x with slots := x.slots.set i .free, acq := r })

/-- The meaning of CBREL. -/
def execCbrel (n : Fin 16) (s : State) : Host.Outcome State Fault Refusal :=
  issue (.cbrel n) (bodyCbrel n) s

-- CPY and CPYW (07 R170 to R172, R176; 16 R347 to R349)

/-- An address operand of CPY: a pair for `.g` and streams, else a 32-bit offset (16 R347). -/
def cpyAddr (s : State) (c : Ctx) (u : USpec) (stream : Bool) (sp : Nat) : DWord :=
  if stream || sp == 0 then s.rdU64 c u else (s.rdU c u).setWidth 64

/-- The checks of R171 that the decoder has not made: the failed one of the lowest code, the first of its
table among equals (10 R220). -/
def State.cpyFault (s : State) (blk : Nat) (k : CpyCtl) (sa da : DWord) (len : Nat) :
    Option FaultInfo :=
  let sStr := k.skind.val == 1
  let dStr := k.dkind.val == 1
  let buf := k.dkind.val == 2
  let linear := !sStr && !dStr
  let cb := s.cbuf blk k.cb.val
  let range (sp : Nat) (a : DWord) : List FaultInfo :=
    if !linear || sp == 0 then []
    else match s.scratchPlace blk sp a.toNat len with
      | .error f => [f]
      | .ok _ => []
  let test (b : Bool) (f : FaultInfo) : List FaultInfo := if b then [f] else []
  leastFault (
    test ((sStr && k.sspace.val != 0) || (dStr && k.dspace.val != 0)) { code := 0x16 } ++
    test (!linear && len != 0) { code := 0x16 } ++
    test (linear && sa.toNat % 16 != 0) (misaligned sa) ++
    test (linear && !buf && da.toNat % 16 != 0) (misaligned da) ++
    test (linear && len % 16 != 0) (misaligned 0) ++
    test (sStr && sa.toNat % 64 != 0) (misaligned sa) ++
    test (dStr && da.toNat % 64 != 0) (misaligned da) ++
    test (buf && cb.isNone) (boundsFault 1 0) ++
    test (buf && linear && decide (((cb.map (·.slotb)).getD 0) < len)) (boundsFault 1 0) ++
    range k.sspace.val sa ++ (if buf then [] else range k.dspace.val da))

/-- CPY: its checks, then one command in the core's queue or spill ring (16 R348; 07 R170, R171).
-/
def bodyCpy (d a : USpec) (len : CpyLen) (c : CpyCtl) : Ctx → State → Res :=
  fun x s =>
    let buf := c.dkind.val == 2
    let sa := cpyAddr s x a (c.skind.val == 1) c.sspace.val
    let da := if buf then 0 else cpyAddr s x d (c.dkind.val == 1) c.dspace.val
    let n := match len with
      | .uni b => (s.rdU x b).toNat
      | .imm n => n.toNat
    match s.warp x.wid with
    | none => Res.ok s
    | some w =>
      match s.cpyFault (blkOf x.wid) c sa da n with
      | some f => Res.fault x f s
      | none =>
        let k : CopyCmd :=
          { ctl := if buf then { c with dspace := 0 } else c, saddr := sa, daddr := da, len := n,
            launch := ((s.block (blkOf x.wid)).map (·.launch)).getD 0, blk := blkOf x.wid,
            wid := x.wid, half := w.half (lowLane x.mask), progress := 0,
            priv := x.inHandler || x.inGraft, capt := if c.acq then w.lwct else 0,
            captSq := if c.acq then ((s.core x.core).sq.filter (fun e => e.wid == x.wid)).map (·.id)
              else [], slot := none }
        match s.placeEntry x.core (s.jobOf x.wid) (.copy k) with
        | .ok s => Res.ok s
        | .error f => if f = heldFault then Res.wait .spill 0 0 s else Res.fault x f s

/-- The meaning of CPY. -/
def execCpy (d a : USpec) (len : CpyLen) (c : CpyCtl) (s : State) : Host.Outcome State Fault
    Refusal :=
  issue (.cpy d a len c) (bodyCpy d a len c) s

/-- The scope at which a CPYW for value `v` acquires: the widest RSCOPE of the commands with REL that brought
the counter up to `v`, `.block` when there is none (08 R197; DEDUCED, log entry 109). -/
def WaitCtr.acqScope (k : WaitCtr) (v : Word) : Scope :=
  (k.rels.filter (fun e => decide ((v - e.1).toNat < 2 ^ 31))).foldl (fun a e => widest a e.2) .block

/-- CPYW waits for a counter, then raises %lwct, takes a pending error and acquires (16 R349; 07
R175, R176; 08 R197). -/
def bodyCpyw (n : Fin 4) (b : USrc) : Ctx → State → Res :=
  fun c s =>
    match s.warp c.wid with
    | none => Res.ok s
    | some w =>
      let l := lowLane c.mask
      let k := w.wctr l n.val
      let v : Word := match b with
        | .imm i => i.setWidth 32
        | .reg u => s.rdU c u
      if (k.val - v).toNat < 2 ^ 31 then
        match k.err with
        | some f => Res.fault c f (s.modWarp c.wid (Warp.setWctr l n.val { k with err := none }))
        | none =>
          Res.ok ((s.modWarp c.wid (Warp.raiseLwct k.time)).acquire c.core c.wid (k.acqScope v))
      else Res.wait .cpyw 0 0 s

/-- The meaning of CPYW. -/
def execCpyw (n : Fin 4) (b : USrc) (s : State) : Host.Outcome State Fault Refusal :=
  issue (.cpyw n b) (bodyCpyw n b) s

-- copy engines (07 R173 to R175)

/-- Engine number of a die's engine. -/
def engNo (die e : Nat) : Nat := Config.enginesPerDie * die + e

/-- Waiter number of an engine in a buffer's list. -/
def engWait (e : Nat) : Nat := 2 ^ 40 + e

/-- An earlier command of the block aimed at the buffer has not reserved yet (07 R173). -/
def State.bufferHeld (s : State) (k : CopyCmd) : Bool :=
  k.ctl.dkind.val == 2 && s.engines.any (fun e =>
    e.2.cmd.blk == k.blk && e.2.cmd.ctl.dkind.val == 2 && e.2.cmd.ctl.cb == k.ctl.cb &&
      e.2.slot.isNone)

/-- An engine takes a command; aimed at a buffer it reserves its slot, or waits for it (07 R173). -/
def State.startEngine (e core : Nat) (k : CopyCmd) (s : State) : State :=
  let eng : Engine := { cmd := k, core := core, slot := k.slot, started := false, total := 0,
                        unit := 0, srec := 0, drec := 0, gwct := 0, fault := none, written := false }
  if k.ctl.dkind.val = 2 ∧ k.slot = none then
    match s.cbuf k.blk k.ctl.cb.val with
    | none => { s with engines := tset e eng s.engines }
    | some x =>
      match x.reserve (engWait e) false with
      | some (i, x) => State.setCbuf k.blk k.ctl.cb.val x
          { s with engines := tset e { eng with slot := some i } s.engines }
      | none => State.setCbuf k.blk k.ctl.cb.val
          { x with resWait := joinWait (engWait e) x.resWait }
          { s with engines := tset e eng s.engines }
  else { s with engines := tset e eng s.engines }

/-- Hands the copy command at a place of a core's queue to an engine (07 R173). -/
def State.handCopy (core e idx : Nat) (s : State) : State :=
  match (s.core core).queue[idx]? with
  | some (.copy k) =>
    if s.bufferHeld k || (tget e s.engines).isSome then s
    else (s.modCore core (fun c => { c with queue := c.queue.eraseIdx idx })).startEngine e core k
  | _ => s

/-- Job of a queue entry. -/
def State.entryJob (s : State) : QEntry → Nat
  | .copy k => ((s.launch k.launch).map (·.job)).getD 0
  | .trap wid _ => s.jobOf wid
  | .wcall r => r.job
  | .wmore j _ => j

/-- The entry that a queue hands on next: the oldest, past calls of other jobs that wait for room in
their ring or for their last entries (03 R75; 10 R234). -/
def State.nextEntry (s : State) (core : Nat) : Option (Nat × QEntry) :=
  let q := (s.core core).queue
  let stuck (e : QEntry) : Bool := match e with
    | .wcall r => r.phase != 0 || decide (r.here < 9)
    | .wmore _ _ => true
    | _ => false
  ((List.range q.length).find? (fun i =>
    match q[i]? with
    | none => false
    | some e => (q.take i).all (fun x => stuck x && s.entryJob x != s.entryJob e) &&
        !(decide (i ≠ 0) && stuck e))).bind (fun i => (q[i]?).map (fun e => (i, e)))

/-- ENGINE_TAKE: a free engine takes the next copy command of a core queue of its die (07 R173).
Which core's, where several have one, is free. -/
def evEngineTake (die engine : Nat) (s : State) : State :=
  let e := engNo die engine
  let cs := (dieCores die).filter (fun c => match s.nextEntry c with
    | some (_, .copy k) => !s.bufferHeld k
    | _ => false)
  if Config.dies ≤ die ∨ Config.enginesPerDie ≤ engine ∨ cs = [] ∨ (tget e s.engines).isSome then s
  else
    let c := cs.getD (Config.freeNat s.fresh % cs.length) 0
    match s.nextEntry c with
    | some (i, _) => s.handCopy c e i
    | none => s

/-- The meaning of ENGINE_TAKE. -/
def execEngineTake (die engine : Nat) (s : State) : Host.Outcome State Fault Refusal :=
  .next (evEngineTake die engine s).finish

/-- The address space through which an engine acts for a command (07 R161, R162). -/
def State.cmdVia (s : State) (k : CopyCmd) : Via :=
  { asid := s.jAsid (((s.launch k.launch).map (·.job)).getD 0),
    die := (((s.block k.blk).map (·.core)).getD 0) / Config.coresPerDie, priv := k.priv }

/-- Reads of an engine: aligned, bounded and translated as accesses of their own width; a lost
peer's line arrives poisoned (07 R164, R175; 12 R279). -/
def State.engRead (s : State) (k : CopyCmd) (sp : Nat) (a : DWord) (n : Nat) :
    Except FaultInfo (List Byte) :=
  if a.toNat % n ≠ 0 then .error (misaligned a)
  else if sp = 0 then
    match s.vRead (s.cmdVia k) a.toNat n with
    | .ok bs => .ok bs
    | .error f => .error (if f.code = 0x0F then poisonFault a.toNat else f)
  else
    match s.scratchPlace k.blk sp a.toNat n with
    | .error f => .error f
    | .ok p => .ok (s.rdScratch p n)

/-- Writes of an engine, with their GWCT. -/
def State.engWrite (k : CopyCmd) (sp : Nat) (a : DWord) (bs : List Byte) (s : State) :
    Except FaultInfo Nat × State :=
  let n := bs.length
  if a.toNat % n ≠ 0 then (.error (misaligned a), s)
  else if sp = 0 then s.vWrite (s.cmdVia k) a.toNat bs
  else
    match s.scratchPlace k.blk sp a.toNat n with
    | .error f => (.error f, s)
    | .ok p => (.ok s.gtime, { s.wrScratch p bs with fresh := s.fresh + 1 })

/-- Address of element n of a stream for an engine, index read included. -/
def State.engElem (s : State) (k : CopyCmd) (r : BitVec 512) (n : Nat) : Except FaultInfo DWord :=
  if rcInd r then
    match s.engRead k (rcIspace r) (rcWrap (rcIspace r) ((rcF r 320 64 : Int) + rcOff r n))
        (2 ^ rcIwidth r) with
    | .error f => .error f
    | .ok bs => .ok (rcWrap (rcSpace r)
        ((rcF r 0 64 : Int) + (leNat bs * 2 ^ rcIscale r : Nat)))
  else .ok (rcWrap (rcSpace r) ((rcF r 0 64 : Int) + rcOff r n))

/-- Where unit `n` of a side lies: its space and address. -/
def State.engUnit (s : State) (g : Engine) (dst : Bool) (n : Nat) : Except FaultInfo (Nat × DWord) :=
  let k := g.cmd
  let stream := if dst then k.ctl.dkind.val == 1 else k.ctl.skind.val == 1
  let r := if dst then g.drec else g.srec
  if stream then
    match s.engElem k r n with
    | .error f => .error f
    | .ok a => .ok (rcSpace r, a)
  else if dst && k.ctl.dkind.val == 2 then
    match s.cbuf k.blk k.ctl.cb.val with
    | none => .error (boundsFault 1 0)
    | some x =>
      if x.slotb < (n + 1) * g.unit then .error (boundsFault 1 (n * g.unit))
      else .ok (1, BitVec.ofNat 64 (x.off (g.slot.getD 0) + n * g.unit))
  else
    let sp := if dst then k.ctl.dspace.val else k.ctl.sspace.val
    let a := if dst then k.daddr else k.saddr
    .ok (sp, rcWrap sp ((a.toNat : Int) + (n * g.unit : Nat)))

/-- Moves units `n` and up: the engine with its largest GWCT, and the fault that stopped it. -/
def State.engUnits (g : Engine) : Nat → Nat → State → Option FaultInfo × Engine × State
  | 0, _, s => (none, g, s)
  | m + 1, n, s =>
    match s.engUnit g false n, s.engUnit g true n with
    | .error f, _ => (some f, g, s)
    | .ok _, .error f => (some f, g, s)
    | .ok (ss, sa), .ok (ds, da) =>
      match s.engRead g.cmd ss sa g.unit with
      | .error f => (some f, g, s)
      | .ok bs =>
        match s.engWrite g.cmd ds da bs with
        | (.error f, s) => (some f, g, s)
        | (.ok t, s) =>
          let s := s.modLaunch g.cmd.launch (fun L => { L with lastGwct := max L.lastGwct t })
          State.engUnits { g with gwct := max g.gwct t, written := true } m (n + 1) s

/-- A stream record as an engine reads it (07 R174 step 2). -/
def State.engRecord (s : State) (k : CopyCmd) (a : DWord) : Except FaultInfo (BitVec 512) :=
  match s.engRead k 0 a 64 with
  | .error f => .error f
  | .ok bs =>
    let r : BitVec 512 := BitVec.ofNat 512 (leNat bs)
    if rcValid r then .ok r else .error { code := 0x16 }

/-- Steps 1 and 2 of R174: the acquire is over, and the records are read. None: it waits. -/
def State.engBegin (g : Engine) (s : State) : Option Engine :=
  let k := g.cmd
  let sq := (s.core g.core).sq
  if k.ctl.dkind.val = 2 ∧ g.slot = none then none
  else if k.ctl.acq && (sq.any (fun e => k.captSq.contains e.id) ||
      (scopeWide k.ctl.ascope && decide (s.gtime < k.capt))) then none
  else
    let rd (on : Bool) (a : DWord) : Except FaultInfo (BitVec 512) :=
      if on then s.engRecord k a else .ok 0
    let sOn := k.ctl.skind.val == 1
    let dOn := k.ctl.dkind.val == 1
    let stop (f : FaultInfo) : Option Engine :=
      if f = heldFault then none else some { g with started := true, fault := some f }
    match rd sOn k.saddr with
    | .error f => stop f
    | .ok sr =>
      match rd dOn k.daddr with
      | .error f => stop f
      | .ok dr =>
        let g : Engine := { g with started := true, srec := sr, drec := dr }
        if sOn && dOn && (rcTotal sr != rcTotal dr || rcEsize sr != rcEsize dr) then
          stop { code := 0x16 }
        else if sOn then some { g with total := rcTotal sr, unit := 2 ^ rcEsize sr }
        else if dOn then some { g with total := rcTotal dr, unit := 2 ^ rcEsize dr }
        else some { g with total := k.len / 16, unit := 16 }

/-- The units moved that PROGRESS counts: bytes of a linear transfer, else elements. -/
def Engine.done (g : Engine) : Nat :=
  if g.cmd.ctl.skind.val = 1 ∨ g.cmd.ctl.dkind.val = 1 then g.cmd.progress else g.cmd.progress / 16

/-- Units of a chunk (07 R174). -/
def chunkUnits : Nat := 256

/-- An engine's fault as CPYW or CBACQ reports it (10 R219). -/
def Engine.mark (g : Engine) (f : FaultInfo) : FaultInfo :=
  { f with addr := g.cmd.saddr, aux0 := g.cmd.daddr, aux1 := BitVec.ofNat 64 g.cmd.progress,
           engine := true }

/-- Step 6 of R174, with the error mark of R175. -/
def State.engFinish (e : Nat) (g : Engine) (s : State) : State :=
  let k := g.cmd
  let rel := if k.ctl.rel && g.fault.isNone then some k.ctl.rscope else none
  let s : State := { s with engines := tdel e s.engines }
  let s := if k.ctl.dkind.val = 2 then
      match s.cbuf k.blk k.ctl.cb.val, g.slot with
      | some x, some i =>
        let ms := match g.fault with | some f => x.marks ++ [(i, g.mark f)] | none => x.marks
        let rs := match rel with | some sc => x.rels ++ [(i, sc)] | none => x.rels
        s.setCbuf k.blk k.ctl.cb.val (CBuf.commit { x with marks := ms, rels := rs } i)
      | _, _ => s
    else
      s.modWarp k.wid (fun w =>
        let l := 16 * k.half
        let c := w.wctr l k.ctl.wctr.val
        let err := match c.err, g.fault with
          | some f, _ => some f
          | none, some f => some (g.mark f)
          | none, none => none
        let rl := match rel with
          | some sc => c.rels ++ [(c.val + 1, sc)]
          | none => c.rels
        w.setWctr l k.ctl.wctr.val
          { val := c.val + 1, time := max c.time g.gwct, err := err, rels := rl })
  s.sweep

/-- One move of an engine: it reserves, begins, moves one chunk, or completes (07 R173 to R175). -/
def State.engineStep (e : Nat) (s : State) : State :=
  match tget e s.engines with
  | none => s
  | some g =>
    let k := g.cmd
    if k.ctl.dkind.val = 2 ∧ g.slot = none then
      match s.cbuf k.blk k.ctl.cb.val with
      | none => s
      | some x =>
        match x.reserve (engWait e) false with
        | some (i, x) => State.setCbuf k.blk k.ctl.cb.val x
            { s with engines := tset e { g with slot := some i } s.engines }
        | none => s
    else if !g.started then
      match s.engBegin g with
      | none => s
      | some g => { s with engines := tset e g s.engines }
    else if g.fault.isNone && decide (g.done < g.total) then
      let n := min chunkUnits (g.total - g.done)
      let (f, g', s) := State.engUnits g n g.done s
      match f with
      | some f =>
        if f = heldFault then { s with engines := tset e { g' with cmd := k } s.engines }
        else { s with engines := tset e { g' with fault := some f } s.engines }
      | none =>
        let u := if k.ctl.skind.val = 1 ∨ k.ctl.dkind.val = 1 then n else 16 * n
        let k' : CopyCmd := { k with progress := k.progress + u }
        { s with engines := tset e { g' with cmd := k' } s.engines }
    else if s.gtime < g.gwct ∨ s.inval ≠ [] then s
    else s.engFinish e g

/-- COPY_COMPLETE: an engine moves on with its command, chunk by chunk, to its completion (07
R174, R175). -/
def evCopyComplete (die engine : Nat) (s : State) : State :=
  if Config.dies ≤ die ∨ Config.enginesPerDie ≤ engine then s else s.engineStep (engNo die engine)

/-- The meaning of COPY_COMPLETE. -/
def execCopyComplete (die engine : Nat) (s : State) : Host.Outcome State Fault Refusal :=
  .next (evCopyComplete die engine s).finish

end Sys2Proof.Machine
end

