-- ==== Sys2Proof/Machine/IntAlu.lean ====
section
/-!
DEFINITION. Integer arithmetic, logic, shifts, bit fields, moves and selects of the lane set, and
NOP (16 R330, R338, R341; 17 R364, R367 to R371, R379, R381, R387, R388; 18 R390, R394, R404,
R406).
-/

set_option Elab.async false

namespace Sys2Proof.Machine

/-- A lane's two sources of one integer operation. -/
def bodyInt (op : IntOp) (sat : Bool) (ty : ITy) (d a b : LSpec) : Ctx → State → Res :=
  laneAlu ty.wide64 d (fun _ _ w l =>
    intAlu op sat ty (w.rdW l ty.wide64 a) (w.rdW l ty.wide64 b))

def bodyLogic (op : LogicOp) (wd : Width) (d a : LSpec) (b : BSrc) : Ctx → State → Res :=
  laneAlu wd.is64 d (fun _ _ w l => logicAlu op (w.rdW l wd.is64 a) (srcB w l wd.is64 b))

def bodyShift (op : ShiftOp) (wd : Width) (d a : LSpec) (b : BSrc) : Ctx → State → Res :=
  laneAlu wd.is64 d (fun _ _ w l =>
    shiftAlu op (if wd.is64 then 64 else 32) (w.rdW l wd.is64 a) (srcB w l false b))

def bodyBits (op : BitOp) (wd : Width) (d a : LSpec) : Ctx → State → Res :=
  laneAlu (wd.is64 && op == .brev) d (fun _ _ w l =>
    bitsAlu op (if wd.is64 then 64 else 32) (w.rdW l wd.is64 a))

/-- Position and length of a bit field in a lane (16 R338). -/
def bfSel (wd : Width) (w : Warp) (l : Nat) : BfSel → Nat × Nat
  | .imm p n => (p.toNat, n.toNat)
  | .reg c => bfReg (if wd.is64 then 64 else 32) (w.rdL l c)

/-- AND of each lane (16 R330). -/
def bodyAnd (w : Width) (d a : LSpec) (b : BSrc) : Ctx → State → Res :=
  bodyLogic .and w d a b

/-- The meaning of AND. -/
def execAnd (w : Width) (d a : LSpec) (b : BSrc) (s : State) : Host.Outcome State Fault Refusal :=
  issue (.and w d a b) (bodyAnd w d a b) s

/-- OR of each lane (16 R330). -/
def bodyOr (w : Width) (d a : LSpec) (b : BSrc) : Ctx → State → Res :=
  bodyLogic .or w d a b

/-- The meaning of OR. -/
def execOr (w : Width) (d a : LSpec) (b : BSrc) (s : State) : Host.Outcome State Fault Refusal :=
  issue (.or w d a b) (bodyOr w d a b) s

/-- XOR of each lane (16 R330). -/
def bodyXor (w : Width) (d a : LSpec) (b : BSrc) : Ctx → State → Res :=
  bodyLogic .xor w d a b

/-- The meaning of XOR. -/
def execXor (w : Width) (d a : LSpec) (b : BSrc) (s : State) : Host.Outcome State Fault Refusal :=
  issue (.xor w d a b) (bodyXor w d a b) s

/-- BFX of each lane (16 R338). -/
def bodyBfx (w : Width) (sext : Bool) (d a : LSpec) (f : BfSel) : Ctx → State → Res :=
  laneAlu w.is64 d (fun _ _ x l =>
    let p := bfSel w x l f
    bfxAlu (if w.is64 then 64 else 32) sext (x.rdW l w.is64 a) p.1 p.2)

/-- The meaning of BFX. -/
def execBfx (w : Width) (sext : Bool) (d a : LSpec) (f : BfSel) (s : State) : Host.Outcome State
    Fault Refusal :=
  issue (.bfx w sext d a f) (bodyBfx w sext d a f) s

/-- BFI of each lane (16 R338). -/
def bodyBfi (w : Width) (d a : LSpec) (b : LUSrc) (f : BfSel) : Ctx → State → Res :=
  laneAlu w.is64 d (fun s c x l =>
    let p := bfSel w x l f
    bfiAlu (if w.is64 then 64 else 32) (x.rdW l w.is64 a) (srcLU s c x l w.is64 b) p.1 p.2)

/-- The meaning of BFI. -/
def execBfi (w : Width) (d a : LSpec) (b : LUSrc) (f : BfSel) (s : State) : Host.Outcome State
    Fault Refusal :=
  issue (.bfi w d a b f) (bodyBfi w d a b f) s

/-- BREV of each lane (16 R341). -/
def bodyBrev (w : Width) (d a : LSpec) : Ctx → State → Res :=
  bodyBits .brev w d a

/-- The meaning of BREV. -/
def execBrev (w : Width) (d a : LSpec) (s : State) : Host.Outcome State Fault Refusal :=
  issue (.brev w d a) (bodyBrev w d a) s

/-- CLZ of each lane (16 R341). -/
def bodyClz (w : Width) (d a : LSpec) : Ctx → State → Res :=
  bodyBits .clz w d a

/-- The meaning of CLZ. -/
def execClz (w : Width) (d a : LSpec) (s : State) : Host.Outcome State Fault Refusal :=
  issue (.clz w d a) (bodyClz w d a) s

/-- POPC of each lane (16 R341). -/
def bodyPopc (w : Width) (d a : LSpec) : Ctx → State → Res :=
  bodyBits .popc w d a

/-- The meaning of POPC. -/
def execPopc (w : Width) (d a : LSpec) (s : State) : Host.Outcome State Fault Refusal :=
  issue (.popc w d a) (bodyPopc w d a) s

/-- FSHF of each lane (17 R364). -/
def bodyFshf (right clamp : Bool) (d a : LSpec) (b : LUSrc) (sh : FshSrc) : Ctx → State → Res :=
  laneAlu false d (fun s c w l =>
    let n := match sh with
      | .reg r => (w.rdL l r).toNat
      | .imm i => i.toNat
    (fshfAlu right clamp (w.rdL l a) (loW (srcLU s c w l false b)) n).setWidth 64)

/-- The meaning of FSHF. -/
def execFshf (right clamp : Bool) (d a : LSpec) (b : LUSrc) (sh : FshSrc) (s : State) :
    Host.Outcome State Fault Refusal :=
  issue (.fshf right clamp d a b sh) (bodyFshf right clamp d a b sh) s

/-- IABS of each lane (17 R367). -/
def bodyIabs (sat : Bool) (ty : ITy) (d b : LSpec) : Ctx → State → Res :=
  laneAlu ty.wide64 d (fun _ _ w l => intAbs sat ty (w.rdW l ty.wide64 b))

/-- The meaning of IABS. -/
def execIabs (sat : Bool) (ty : ITy) (d b : LSpec) (s : State) : Host.Outcome State Fault Refusal
    :=
  issue (.iabs sat ty d b) (bodyIabs sat ty d b) s

/-- IADD of each lane (17 R368). -/
def bodyIadd (sat : Bool) (ty : ITy) (d a b : LSpec) : Ctx → State → Res :=
  bodyInt .add sat ty d a b

/-- The meaning of IADD. -/
def execIadd (sat : Bool) (ty : ITy) (d a b : LSpec) (s : State) : Host.Outcome State Fault
    Refusal :=
  issue (.iadd sat ty d a b) (bodyIadd sat ty d a b) s

/-- ISUB of each lane (17 R368). -/
def bodyIsub (sat : Bool) (ty : ITy) (d a b : LSpec) : Ctx → State → Res :=
  bodyInt .sub sat ty d a b

/-- The meaning of ISUB. -/
def execIsub (sat : Bool) (ty : ITy) (d a b : LSpec) (s : State) : Host.Outcome State Fault
    Refusal :=
  issue (.isub sat ty d a b) (bodyIsub sat ty d a b) s

/-- IMUL of each lane (17 R368). -/
def bodyImul (sat : Bool) (ty : ITy) (d a b : LSpec) : Ctx → State → Res :=
  bodyInt .mul sat ty d a b

/-- The meaning of IMUL. -/
def execImul (sat : Bool) (ty : ITy) (d a b : LSpec) (s : State) : Host.Outcome State Fault
    Refusal :=
  issue (.imul sat ty d a b) (bodyImul sat ty d a b) s

/-- IMULHI of each lane (17 R368). -/
def bodyImulhi (ty : ITy) (d a b : LSpec) : Ctx → State → Res :=
  bodyInt .mulhi false ty d a b

/-- The meaning of IMULHI. -/
def execImulhi (ty : ITy) (d a b : LSpec) (s : State) : Host.Outcome State Fault Refusal :=
  issue (.imulhi ty d a b) (bodyImulhi ty d a b) s

/-- IMIN of each lane (17 R368). -/
def bodyImin (ty : ITy) (d a b : LSpec) : Ctx → State → Res :=
  bodyInt .min false ty d a b

/-- The meaning of IMIN. -/
def execImin (ty : ITy) (d a b : LSpec) (s : State) : Host.Outcome State Fault Refusal :=
  issue (.imin ty d a b) (bodyImin ty d a b) s

/-- IMAX of each lane (17 R368). -/
def bodyImax (ty : ITy) (d a b : LSpec) : Ctx → State → Res :=
  bodyInt .max false ty d a b

/-- The meaning of IMAX. -/
def execImax (ty : ITy) (d a b : LSpec) (s : State) : Host.Outcome State Fault Refusal :=
  issue (.imax ty d a b) (bodyImax ty d a b) s

/-- ICMP of each lane (17 R369). -/
def bodyIcmp (c : ICond) (w64 uns : Bool) (n : Fin 8) (a b : LSpec) : Ctx → State → Res :=
  laneFlag n.val (fun _ _ w l => intCmp c w64 uns (w.rdW l w64 a) (w.rdW l w64 b))

/-- The meaning of ICMP. -/
def execIcmp (c : ICond) (w64 uns : Bool) (n : Fin 8) (a b : LSpec) (s : State) : Host.Outcome
    State Fault Refusal :=
  issue (.icmp c w64 uns n a b) (bodyIcmp c w64 uns n a b) s

/-- IDP4 of each lane (17 R370). -/
def bodyIdp4 (sat za zb : Bool) (d a : LSpec) (b : LUSrc) (c : LSpec) : Ctx → State → Res :=
  laneAlu false d (fun s x w l =>
    intDp4 sat za zb (w.rdW l false a) (srcLU s x w l false b) (w.rdW l false c))

/-- The meaning of IDP4. -/
def execIdp4 (sat za zb : Bool) (d a : LSpec) (b : LUSrc) (c : LSpec) (s : State) : Host.Outcome
    State Fault Refusal :=
  issue (.idp4 sat za zb d a b c) (bodyIdp4 sat za zb d a b c) s

/-- IMAD of each lane (17 R371). -/
def bodyImad (sat : Bool) (ty : ITy) (d a : LSpec) (b : LUSrc) (c : LSpec) : Ctx → State → Res :=
  laneAlu ty.wide64 d (fun s x w l =>
    intMad sat ty (w.rdW l ty.wide64 a) (srcLU s x w l ty.wide64 b) (w.rdW l ty.wide64 c))

/-- The meaning of IMAD. -/
def execImad (sat : Bool) (ty : ITy) (d a : LSpec) (b : LUSrc) (c : LSpec) (s : State) :
    Host.Outcome State Fault Refusal :=
  issue (.imad sat ty d a b c) (bodyImad sat ty d a b c) s

/-- LEA of each lane (17 R379). -/
def bodyLea (zx : Bool) (shift : Fin 4) (d a b : LSpec) : Ctx → State → Res :=
  laneAlu true d (fun _ _ w l => leaAlu zx shift.val (w.rdL l a) (w.rdL64 l b))

/-- The meaning of LEA. -/
def execLea (zx : Bool) (shift : Fin 4) (d a b : LSpec) (s : State) : Host.Outcome State Fault
    Refusal :=
  issue (.lea zx shift d a b) (bodyLea zx shift d a b) s

/-- LOGIC3 of each lane (17 R381). -/
def bodyLogic3 (w : Width) (d a : LSpec) (b : LUSrc) (c : LSpec) (lut : BitVec 8) : Ctx → State →
    Res :=
  laneAlu w.is64 d (fun s x wp l =>
    logic3Alu lut.toNat (wp.rdW l w.is64 a) (srcLU s x wp l w.is64 b) (wp.rdW l w.is64 c))

/-- The meaning of LOGIC3. -/
def execLogic3 (w : Width) (d a : LSpec) (b : LUSrc) (c : LSpec) (lut : BitVec 8) (s : State) :
    Host.Outcome State Fault Refusal :=
  issue (.logic3 w d a b c lut) (bodyLogic3 w d a b c lut) s

/-- MOV of each lane (17 R387). -/
def bodyMov (w : Width) (d : LSpec) (b : BSrc) : Ctx → State → Res :=
  laneAlu w.is64 d (fun _ _ wp l => srcB wp l w.is64 b)

/-- The meaning of MOV. -/
def execMov (w : Width) (d : LSpec) (b : BSrc) (s : State) : Host.Outcome State Fault Refusal :=
  issue (.mov w d b) (bodyMov w d b) s

/-- MOVI of each lane (17 R388). -/
def bodyMovi (w : Width) (keep : Bool) (d : LSpec) (hw : Fin 4) (imm : BitVec 16) : Ctx → State →
    Res :=
  laneAlu w.is64 d (fun _ _ wp l => moviAlu keep hw.val imm (wp.rdW l w.is64 d))

/-- The meaning of MOVI. -/
def execMovi (w : Width) (keep : Bool) (d : LSpec) (hw : Fin 4) (imm : BitVec 16) (s : State) :
    Host.Outcome State Fault Refusal :=
  issue (.movi w keep d hw imm) (bodyMovi w keep d hw imm) s

/-- PSEL of each lane (18 R394). -/
def bodyPsel (d a : LSpec) (b : LUSrc) (sel : PselSrc) : Ctx → State → Res :=
  laneAlu false d (fun s c w l =>
    let q := match sel with
      | .imm i => i.toNat
      | .reg r => (w.rdL l r).toNat % 2 ^ 20
    (pselAlu (w.rdL l a) (loW (srcLU s c w l false b)) q).setWidth 64)

/-- The meaning of PSEL. -/
def execPsel (d a : LSpec) (b : LUSrc) (sel : PselSrc) (s : State) : Host.Outcome State Fault
    Refusal :=
  issue (.psel d a b sel) (bodyPsel d a b sel) s

/-- SEL of each lane (18 R404). -/
def bodySel (n : Fin 8) (d a b : LSpec) : Ctx → State → Res :=
  laneAlu false d (fun _ _ w l => w.rdW l false (if w.rdF l n.val then a else b))

/-- The meaning of SEL. -/
def execSel (n : Fin 8) (d a b : LSpec) (s : State) : Host.Outcome State Fault Refusal :=
  issue (.sel n d a b) (bodySel n d a b) s

/-- SHL of each lane (18 R406). -/
def bodyShl (w : Width) (d a : LSpec) (b : BSrc) : Ctx → State → Res :=
  bodyShift .shl w d a b

/-- The meaning of SHL. -/
def execShl (w : Width) (d a : LSpec) (b : BSrc) (s : State) : Host.Outcome State Fault Refusal :=
  issue (.shl w d a b) (bodyShl w d a b) s

/-- SHR of each lane (18 R406). -/
def bodyShr (w : Width) (d a : LSpec) (b : BSrc) : Ctx → State → Res :=
  bodyShift .shr w d a b

/-- The meaning of SHR. -/
def execShr (w : Width) (d a : LSpec) (b : BSrc) (s : State) : Host.Outcome State Fault Refusal :=
  issue (.shr w d a b) (bodyShr w d a b) s

/-- SAR of each lane (18 R406). -/
def bodySar (w : Width) (d a : LSpec) (b : BSrc) : Ctx → State → Res :=
  bodyShift .sar w d a b

/-- The meaning of SAR. -/
def execSar (w : Width) (d a : LSpec) (b : BSrc) (s : State) : Host.Outcome State Fault Refusal :=
  issue (.sar w d a b) (bodySar w d a b) s

/-- NOP changes nothing (18 R390). -/
def bodyNop  : Ctx → State → Res :=
  fun _ s => Res.ok s

/-- The meaning of NOP. -/
def execNop  (s : State) : Host.Outcome State Fault Refusal :=
  issue .nop bodyNop s

end Sys2Proof.Machine
end

