-- ==== Sys2Proof/Machine/Mfn.lean ====
section
/-!
DEFINITION. The special functions of MFN, correctly rounded (05 R109, R110). An irrational value
is computed to more than 360 binary places and marked inexact by an odd last bit, far beyond
what rounding to binary32 can depend on (log entry 40).
-/

set_option Elab.async false

namespace Sys2Proof.Machine

/-- Binary places of the fixed-point computations. -/
def fxP : Nat := 420

/-- Sum of `n` terms of an exponential series: acc + t + t z / k + ... -/
def expSum : Nat → Nat → Nat → Nat → Nat → Nat
  | 0, _, _, _, acc => acc
  | n + 1, k, z, t, acc => expSum n (k + 1) z (t * z / 2 ^ fxP / k) (acc + t)

/-- e^z for z below 1, in fixed point. -/
def fxExp (z : Nat) : Nat := expSum 100 1 z (2 ^ fxP) 0

/-- Sum of y^(2k+1) / (2k+1). -/
def atanhSum : Nat → Nat → Nat → Nat → Nat → Nat
  | 0, _, _, _, acc => acc
  | n + 1, k, y2, t, acc => atanhSum n (k + 2) y2 (t * y2 / 2 ^ fxP) (acc + t / k)

/-- 2 artanh y, in fixed point. -/
def fxAtanh2 (y : Nat) : Nat := 2 * atanhSum 150 1 (y * y / 2 ^ fxP) y 0

/-- ln 2 = 2 artanh (1/3). -/
def fxLn2 : Nat := fxAtanh2 (2 ^ fxP / 3)

/-- Alternating sum of y^(2k+1) / (2k+1): arctangent. -/
def atanSum : Nat → Nat → Nat → Nat → Bool → Int → Int
  | 0, _, _, _, _, acc => acc
  | n + 1, k, y2, t, neg, acc =>
    atanSum n (k + 2) y2 (t * y2 / 2 ^ fxP) (!neg) (acc + (if neg then -(t / k : Int) else (t / k : Int)))

/-- arctan (1/d). -/
def fxAtanInv (d : Nat) : Int :=
  atanSum 190 1 (2 ^ fxP / (d * d)) (2 ^ fxP / d) false 0

/-- pi = 16 arctan (1/5) - 4 arctan (1/239). -/
def fxPi : Nat := (16 * fxAtanInv 5 - 4 * fxAtanInv 239).toNat

/-- Alternating sum of a sine or cosine series: t - t z2 / (k (k + 1)) + ... -/
def trigSum : Nat → Nat → Nat → Nat → Bool → Int → Int
  | 0, _, _, _, _, acc => acc
  | n + 1, k, z2, t, neg, acc =>
    trigSum n (k + 2) z2 (t * z2 / 2 ^ fxP / (k * (k + 1))) (!neg)
      (acc + (if neg then -(t : Int) else (t : Int)))

def fxSin (z : Nat) : Nat := (trigSum 70 2 (z * z / 2 ^ fxP) z false 0).toNat
def fxCos (z : Nat) : Nat := (trigSum 70 1 (z * z / 2 ^ fxP) (2 ^ fxP) false 0).toNat

/-- Rounds an inexact fixed-point magnitude `v * 2^(e - fxP)` to nearest. -/
def fxRound (neg : Bool) (v : Nat) (e : Int) : Nat × BitVec 5 :=
  fpRound fmtF32 .rn neg (2 * v + 1) (e - fxP - 1)

/-- Integer square root, bit by bit from 2^(n-1). -/
def isqrt : Nat → Nat → Nat → Nat
  | 0, _, r => r
  | n + 1, v, r => isqrt n v (if (r + 2 ^ n) * (r + 2 ^ n) ≤ v then r + 2 ^ n else r)

def one32 : Nat := 0x3F800000

/-- 1 / x (exact when the significand is a power of two). -/
def mfnRcp (neg : Bool) (m : Nat) (e : Int) : Nat × BitVec 5 :=
  let q := 2 ^ 200 / m
  let st := b2n (2 ^ 200 % m != 0)
  fpRound fmtF32 .rn neg (2 * q + st) (-e - 201)

/-- sqrt x. -/
def mfnSqrt (m : Nat) (e : Int) : Nat × BitVec 5 :=
  let (m, e) := if e % 2 = 0 then (m, e) else (2 * m, e - 1)
  let v := m * 2 ^ 120
  let r := isqrt 80 v 0
  fpRound fmtF32 .rn false (2 * r + b2n (r * r != v)) (e / 2 - 61)

/-- 1 / sqrt x. -/
def mfnRsq (m : Nat) (e : Int) : Nat × BitVec 5 :=
  let (m, e) := if e % 2 = 0 then (m, e) else (2 * m, e - 1)
  let r := isqrt 125 (2 ^ 240 / m) 0
  fpRound fmtF32 .rn false (2 * r + b2n (r * r * m != 2 ^ 240)) (-(e / 2) - 121)

/-- 2^(k + f / 2^fxP) for an integer k and a fraction f. -/
def fxPow2 (f : Nat) : Nat := fxExp (f * fxLn2 / 2 ^ fxP)

/-- 2^x. Magnitudes of 2^13 and more only overflow or underflow. -/
def mfnEx2 (neg : Bool) (m : Nat) (e : Int) : Nat × BitVec 5 :=
  if topExp m e ≥ 13 then
    if neg then fpRound fmtF32 .rn false 1 (-8192) else fpRound fmtF32 .rn false 1 8192
  else
    let x := Int.fdiv (sgn neg m * 2 ^ (fxP + (e + 200).toNat)) (2 ^ 200)
    let k := Int.fdiv x (2 ^ fxP)
    let f := (x - k * 2 ^ fxP).toNat
    if f = 0 then fpRound fmtF32 .rn false 1 k else fxRound false (fxPow2 f) k

/-- log2 x for a positive x. -/
def mfnLg2 (m : Nat) (e : Int) : Nat × BitVec 5 :=
  let t := Nat.log2 m
  let k := (t : Int) + e
  if m = 2 ^ t then
    if k = 0 then (0, 0) else fpRound fmtF32 .rn (decide (k < 0)) k.natAbs 0
  else
    let y := (m - 2 ^ t) * 2 ^ fxP / (m + 2 ^ t)
    let v := k * 2 ^ fxP + (fxAtanh2 y * 2 ^ fxP / fxLn2 : Nat)
    fxRound (decide (v < 0)) v.natAbs 0

/-- sin (pi r) for r = n / 2^fxP in (0, 1): the magnitude; exact 1 at one half. -/
def sinHalf (n : Nat) : Option Nat :=
  if 2 * n = 2 ^ fxP then none
  else
    let n := if 2 * n > 2 ^ fxP then 2 ^ fxP - n else n
    if 4 * n ≤ 2 ^ fxP then some (fxSin (n * fxPi / 2 ^ fxP))
    else some (fxCos ((2 ^ (fxP - 1) - n) * fxPi / 2 ^ fxP))

/-- sin (pi x) for the exact |x| = n / 2^fxP, with the sign of the result. -/
def sinPos (neg : Bool) (n : Nat) : Nat × BitVec 5 :=
  let r := n % 2 ^ fxP
  let neg := neg != (n / 2 ^ fxP % 2 == 1)
  match sinHalf r with
  | none => (one32 + b2n neg * 2 ^ 31, 0)
  | some v => fxRound neg v 0

/-- |x| modulo 2 in fixed point, exact for a binary32 x. -/
def fxMod2 (m : Nat) (e : Int) : Nat :=
  if e ≥ 1 then 0 else m * 2 ^ ((fxP : Int) + e).toNat % 2 ^ (fxP + 1)

/-- sin (pi x), signs of integers as 05 R110. -/
def mfnSinpi (neg : Bool) (m : Nat) (e : Int) : Nat × BitVec 5 :=
  let n := fxMod2 m e
  if n % 2 ^ fxP = 0 then (fmtF32.zer neg, 0) else sinPos neg n

/-- cos (pi x) = sin (pi (x + 1/2)). -/
def mfnCospi (m : Nat) (e : Int) : Nat × BitVec 5 :=
  let n := fxMod2 m e + 2 ^ (fxP - 1)
  if n % 2 ^ fxP = 0 then (0, 0) else sinPos false (n % 2 ^ (fxP + 1))

/-- tanh x = (1 - u) / (1 + u) with u = 2^(-2 |x| / ln 2). -/
def mfnTanh (neg : Bool) (m : Nat) (e : Int) : Nat × BitVec 5 :=
  if topExp m e ≥ 7 then fxRound neg (2 ^ fxP - 1) 0
  else
    let x2 := m * 2 ^ (fxP + 1 + (e + 200).toNat) / 2 ^ 200
    let y := x2 * 2 ^ fxP / fxLn2
    let k := y / 2 ^ fxP
    let f := y % 2 ^ fxP
    let u := if f = 0 then 2 ^ fxP / 2 ^ k
      else fxPow2 (2 ^ fxP - f) / 2 ^ (k + 1)
    fxRound neg ((2 ^ fxP - u) * 2 ^ fxP / (2 ^ fxP + u)) 0

/-- MFN on a binary32 encoding (05 R109, R110). -/
def mfnAlu (fn : MfnFn) (x : Nat) : Nat × BitVec 5 :=
  let bad : Nat × BitVec 5 := (fmtF32.nan, fNV)
  match fpRead fmtF32 x with
  | .nan s => (fmtF32.nan, if s then fNV else 0)
  | .zer n =>
    match fn with
    | .rcp => (fmtF32.inf n, fDZ)
    | .rsq => (fmtF32.inf n, fDZ)
    | .sqrt | .sinpi | .tanh => (fmtF32.zer n, 0)
    | .ex2 | .cospi => (one32, 0)
    | .lg2 => (fmtF32.inf true, fDZ)
  | .inf n =>
    match fn with
    | .rcp => (fmtF32.zer n, 0)
    | .rsq => if n then bad else (0, 0)
    | .sqrt | .lg2 => if n then bad else (fmtF32.inf false, 0)
    | .ex2 => if n then (0, 0) else (fmtF32.inf false, 0)
    | .sinpi | .cospi => bad
    | .tanh => (one32 + b2n n * 2 ^ 31, 0)
  | .fin n m e =>
    match fn with
    | .rcp => mfnRcp n m e
    | .rsq => if n then bad else mfnRsq m e
    | .sqrt => if n then bad else mfnSqrt m e
    | .ex2 => mfnEx2 n m e
    | .lg2 => if n then bad else mfnLg2 m e
    | .sinpi => mfnSinpi n m e
    | .cospi => mfnCospi m e
    | .tanh => mfnTanh n m e

end Sys2Proof.Machine
end

