-- ==== Sys2Proof/Machine/FloatAlu.lean ====
section
/-!
DEFINITION. Floating point, conversions, special functions and packed pairs of the lane set
(16 R350 to R354; 17 R357 to R363, R383; 18 R392).
-/

set_option Elab.async false

namespace Sys2Proof.Machine

/-- Each lane computes a binary32 operation on two registers. -/
def bodyF2 (g : Nat → Nat → Nat × BitVec 5) (d a : LSpec) (b : LUSrc) : Ctx → State → Res :=
  laneFp false d (fun s c w l => g (w.rdL l a).toNat (loW (srcLU s c w l false b)).toNat)

/-- Each lane computes a binary64 operation on two pairs. -/
def bodyD2 (g : Nat → Nat → Nat × BitVec 5) (d a : LSpec) (b : LUSrc) : Ctx → State → Res :=
  laneFp true d (fun s c w l => g (w.rdL64 l a).toNat (srcLU s c w l true b).toNat)

/-- Each lane compares two values of a format. -/
def bodyCmp (k : FCond) (w64 : Bool) (n : Nat) (a : LSpec) (b : LUSrc) : Ctx → State → Res :=
  laneFpFlag n (fun s c w l => fpCmp k (if w64 then fmtF64 else fmtF32) (w.rdW l w64 a).toNat
    (srcLU s c w l w64 b).toNat)

/-- Each lane computes a packed operation on each half (05 R108). -/
def bodyPk (g : Nat → Nat → Nat → Nat × BitVec 5) (d a : LSpec) (b : LUSrc) (c3 : LSpec) :
    Ctx → State → Res :=
  laneFp false d (fun s c w l =>
    let r := fpPair g (w.rdL l a) (loW (srcLU s c w l false b)) (w.rdL l c3)
    (r.1.toNat, r.2))

/-- FADD of each lane (17 R357). -/
def bodyFadd (rnd : Rnd) (d a b : LSpec) : Ctx → State → Res :=
  bodyF2 (fpAdd fmtF32 rnd) d a (.reg b)

/-- The meaning of FADD. -/
def execFadd (rnd : Rnd) (d a b : LSpec) (s : State) : Host.Outcome State Fault Refusal :=
  issue (.fadd rnd d a b) (bodyFadd rnd d a b) s

/-- FSUB of each lane (17 R357). -/
def bodyFsub (rnd : Rnd) (d a b : LSpec) : Ctx → State → Res :=
  bodyF2 (fpSub fmtF32 rnd) d a (.reg b)

/-- The meaning of FSUB. -/
def execFsub (rnd : Rnd) (d a b : LSpec) (s : State) : Host.Outcome State Fault Refusal :=
  issue (.fsub rnd d a b) (bodyFsub rnd d a b) s

/-- FMUL of each lane (17 R357). -/
def bodyFmul (rnd : Rnd) (d a b : LSpec) : Ctx → State → Res :=
  bodyF2 (fpMul fmtF32 rnd) d a (.reg b)

/-- The meaning of FMUL. -/
def execFmul (rnd : Rnd) (d a b : LSpec) (s : State) : Host.Outcome State Fault Refusal :=
  issue (.fmul rnd d a b) (bodyFmul rnd d a b) s

/-- FCMP of each lane (17 R358). -/
def bodyFcmp (c : FCond) (n : Fin 8) (a b : LSpec) : Ctx → State → Res :=
  bodyCmp c false n.val a (.reg b)

/-- The meaning of FCMP. -/
def execFcmp (c : FCond) (n : Fin 8) (a b : LSpec) (s : State) : Host.Outcome State Fault Refusal
    :=
  issue (.fcmp c n a b) (bodyFcmp c n a b) s

/-- FFMA of each lane (17 R361). -/
def bodyFfma (rnd : Rnd) (d a : LSpec) (b : LUSrc) (c : LSpec) : Ctx → State → Res :=
  laneFp false d (fun s x w l =>
    fpFma fmtF32 rnd (w.rdL l a).toNat (loW (srcLU s x w l false b)).toNat (w.rdL l c).toNat)

/-- The meaning of FFMA. -/
def execFfma (rnd : Rnd) (d a : LSpec) (b : LUSrc) (c : LSpec) (s : State) : Host.Outcome State
    Fault Refusal :=
  issue (.ffma rnd d a b c) (bodyFfma rnd d a b c) s

/-- FMAX of each lane (17 R362). -/
def bodyFmax (d a b : LSpec) : Ctx → State → Res :=
  bodyF2 (fpMinMax true fmtF32) d a (.reg b)

/-- The meaning of FMAX. -/
def execFmax (d a b : LSpec) (s : State) : Host.Outcome State Fault Refusal :=
  issue (.fmax d a b) (bodyFmax d a b) s

/-- FMIN of each lane (17 R362). -/
def bodyFmin (d a b : LSpec) : Ctx → State → Res :=
  bodyF2 (fpMinMax false fmtF32) d a (.reg b)

/-- The meaning of FMIN. -/
def execFmin (d a b : LSpec) (s : State) : Host.Outcome State Fault Refusal :=
  issue (.fmin d a b) (bodyFmin d a b) s

/-- FRND of each lane (17 R363). -/
def bodyFrnd (rnd : Rnd) (d b : LSpec) : Ctx → State → Res :=
  laneFp false d (fun _ _ w l => fpIntegral rnd (w.rdL l b).toNat)

/-- The meaning of FRND. -/
def execFrnd (rnd : Rnd) (d b : LSpec) (s : State) : Host.Outcome State Fault Refusal :=
  issue (.frnd rnd d b) (bodyFrnd rnd d b) s

/-- DADD of each lane (16 R353). -/
def bodyDadd (rnd : Rnd) (d a b : LSpec) : Ctx → State → Res :=
  bodyD2 (fpAdd fmtF64 rnd) d a (.reg b)

/-- The meaning of DADD. -/
def execDadd (rnd : Rnd) (d a b : LSpec) (s : State) : Host.Outcome State Fault Refusal :=
  issue (.dadd rnd d a b) (bodyDadd rnd d a b) s

/-- DMUL of each lane (16 R353). -/
def bodyDmul (rnd : Rnd) (d a b : LSpec) : Ctx → State → Res :=
  bodyD2 (fpMul fmtF64 rnd) d a (.reg b)

/-- The meaning of DMUL. -/
def execDmul (rnd : Rnd) (d a b : LSpec) (s : State) : Host.Outcome State Fault Refusal :=
  issue (.dmul rnd d a b) (bodyDmul rnd d a b) s

/-- DFMA of each lane (16 R353). -/
def bodyDfma (rnd : Rnd) (d a : LSpec) (b : LUSrc) (c : LSpec) : Ctx → State → Res :=
  laneFp true d (fun s x w l =>
    fpFma fmtF64 rnd (w.rdL64 l a).toNat (srcLU s x w l true b).toNat (w.rdL64 l c).toNat)

/-- The meaning of DFMA. -/
def execDfma (rnd : Rnd) (d a : LSpec) (b : LUSrc) (c : LSpec) (s : State) : Host.Outcome State
    Fault Refusal :=
  issue (.dfma rnd d a b c) (bodyDfma rnd d a b c) s

/-- DCMP of each lane (16 R354). -/
def bodyDcmp (c : FCond) (n : Fin 8) (a b : LSpec) : Ctx → State → Res :=
  bodyCmp c true n.val a (.reg b)

/-- The meaning of DCMP. -/
def execDcmp (c : FCond) (n : Fin 8) (a b : LSpec) (s : State) : Host.Outcome State Fault Refusal
    :=
  issue (.dcmp c n a b) (bodyDcmp c n a b) s

/-- CVT of each lane (16 R351). -/
def bodyCvt (sat : Bool) (rnd : Rnd) (dt st : CTy) (d : LSpec) (b : LUSrc) : Ctx → State → Res :=
  laneFp dt.wide64 d (fun s c w l =>
    let r := cvtAlu sat rnd dt st (srcLU s c w l st.wide64 b)
    (r.1.toNat, r.2))

/-- The meaning of CVT. -/
def execCvt (sat : Bool) (rnd : Rnd) (dt st : CTy) (d : LSpec) (b : LUSrc) (s : State) :
    Host.Outcome State Fault Refusal :=
  issue (.cvt sat rnd dt st d b) (bodyCvt sat rnd dt st d b) s

/-- MFN of each lane (17 R383). -/
def bodyMfn (fn : MfnFn) (d b : LSpec) : Ctx → State → Res :=
  laneFp false d (fun _ _ w l => mfnAlu fn (w.rdL l b).toNat)

/-- The meaning of MFN. -/
def execMfn (fn : MfnFn) (d b : LSpec) (s : State) : Host.Outcome State Fault Refusal :=
  issue (.mfn fn d b) (bodyMfn fn d b) s

/-- PKADD of each lane (18 R392). -/
def bodyPkadd (bf : Bool) (rnd : Rnd) (d a b : LSpec) : Ctx → State → Res :=
  bodyPk (fun x y _ => fpAdd (pkFmt bf) rnd x y) d a (.reg b) .zero

/-- The meaning of PKADD. -/
def execPkadd (bf : Bool) (rnd : Rnd) (d a b : LSpec) (s : State) : Host.Outcome State Fault
    Refusal :=
  issue (.pkadd bf rnd d a b) (bodyPkadd bf rnd d a b) s

/-- PKMUL of each lane (18 R392). -/
def bodyPkmul (bf : Bool) (rnd : Rnd) (d a b : LSpec) : Ctx → State → Res :=
  bodyPk (fun x y _ => fpMul (pkFmt bf) rnd x y) d a (.reg b) .zero

/-- The meaning of PKMUL. -/
def execPkmul (bf : Bool) (rnd : Rnd) (d a b : LSpec) (s : State) : Host.Outcome State Fault
    Refusal :=
  issue (.pkmul bf rnd d a b) (bodyPkmul bf rnd d a b) s

/-- PKMIN of each lane (18 R392). -/
def bodyPkmin (bf : Bool) (d a b : LSpec) : Ctx → State → Res :=
  bodyPk (fun x y _ => fpMinMax false (pkFmt bf) x y) d a (.reg b) .zero

/-- The meaning of PKMIN. -/
def execPkmin (bf : Bool) (d a b : LSpec) (s : State) : Host.Outcome State Fault Refusal :=
  issue (.pkmin bf d a b) (bodyPkmin bf d a b) s

/-- PKMAX of each lane (18 R392). -/
def bodyPkmax (bf : Bool) (d a b : LSpec) : Ctx → State → Res :=
  bodyPk (fun x y _ => fpMinMax true (pkFmt bf) x y) d a (.reg b) .zero

/-- The meaning of PKMAX. -/
def execPkmax (bf : Bool) (d a b : LSpec) (s : State) : Host.Outcome State Fault Refusal :=
  issue (.pkmax bf d a b) (bodyPkmax bf d a b) s

/-- PKFMA of each lane (18 R392). -/
def bodyPkfma (bf : Bool) (rnd : Rnd) (d a : LSpec) (b : LUSrc) (c : LSpec) : Ctx → State → Res :=
  bodyPk (fpFma (pkFmt bf) rnd) d a b c

/-- The meaning of PKFMA. -/
def execPkfma (bf : Bool) (rnd : Rnd) (d a : LSpec) (b : LUSrc) (c : LSpec) (s : State) :
    Host.Outcome State Fault Refusal :=
  issue (.pkfma bf rnd d a b c) (bodyPkfma bf rnd d a b c) s

end Sys2Proof.Machine
end

