-- ==== Sys2Proof/Machine/CrossLane.lean ====
section
/-!
DEFINITION. Cross-lane work within partition tiles, shared-exponent packing over the halves of a
warp, and special values (04 R93, R94, R99; 05 R114, R118, R119; 17 R382; 18 R398 to R400, R405,
R411, R416).
-/

set_option Elab.async false

namespace Sys2Proof.Machine

/-- First lane of the partition tile of a lane (04 R93). -/
def Warp.tileBase (w : Warp) (l : Nat) : Nat := l / w.tile * w.tile

/-- The lanes of a lane's tile. -/
def Warp.tileLanes (w : Warp) (l : Nat) : List Nat :=
  (List.range w.tile).map (fun k => w.tileBase l + k)

/-- The active lanes of a lane's tile (04 R94). -/
def Ctx.counted (c : Ctx) (w : Warp) (l : Nat) : List Nat :=
  (w.tileLanes l).filter c.mask.getLsbD

/-- A ballot: bit k for lane k of the tile (04 R94). -/
def Warp.ballot (w : Warp) (l : Nat) (ls : List Nat) : Word :=
  BitVec.ofNat 32 ((ls.map (fun k => 2 ^ (k - w.tileBase l))).sum)

/-- The lane that SHFL reads (18 R405). -/
def shflSrc (mode : ShflMode) (n i : Nat) (k : Word) : Nat :=
  let kn := k.toNat
  match mode with
  | .at => kn % n
  | .rot => (i + kn) % 2 ^ 32 % n
  | .flip => (i ^^^ kn) % n
  | .rev => (2 ^ 32 + n - 1 - i + kn) % 2 ^ 32 % n

/-- The value that a source lane provides, and whether it is live (04 R94). A temporary of a live lane that
stands between two runs still holds what the lane's last run left, until its next run is bound (DESIGN
CHOICE, log entry 105). -/
def Warp.provided (w : Warp) (w64 : Bool) (a : LSpec) (k : Nat) : DWord × Bool :=
  if (w.lane k).st = .live then (w.rdW k w64 a, true) else (0, false)

/-- Operand k of SHFL (18 R405). -/
def shflK (s : State) (c : Ctx) (w : Warp) (l : Nat) : ShflSrc → Word
  | .imm i => i.setWidth 32
  | .reg r => w.rdL l r
  | .uni u => s.rdU c u

/-- SHFL of each lane: the value of the source lane, zero when it has exited (18 R405). -/
def bodyShfl (mode : ShflMode) (w : Width) (d a : LSpec) (k : ShflSrc) (f : Option (Fin 8)) : Ctx
    → State → Res :=
  fun c s => laneStep c (fun x l y =>
    let t := x.tileBase l
    let r := x.provided w.is64 a (t + shflSrc mode x.tile (l - t) (shflK s c x l k))
    let y := Warp.wrW l w.is64 d r.1 y
    match f with
    | none => y
    | some p => Warp.wrF l p.val r.2 y) s

/-- The meaning of SHFL. -/
def execShfl (mode : ShflMode) (w : Width) (d a : LSpec) (k : ShflSrc) (f : Option (Fin 8)) (s :
    State) : Host.Outcome State Fault Refusal :=
  issue (.shfl mode w d a k f) (bodyShfl mode w d a k f) s

/-- MATCH of each lane (17 R382). -/
def bodyMatchLanes (w : Width) (all : Bool) (d a : LSpec) : Ctx → State → Res :=
  laneAlu false d (fun _ c wp l =>
    let cs := c.counted wp l
    let e := cs.filter (fun k => wp.rdW k w.is64 a == wp.rdW l w.is64 a)
    (if all then (if e.length = cs.length then wp.ballot l cs else 0)
     else wp.ballot l e).setWidth 64)

/-- The meaning of MATCH. -/
def execMatchLanes (w : Width) (all : Bool) (d a : LSpec) (s : State) : Host.Outcome State Fault
    Refusal :=
  issue (.matchLanes w all d a) (bodyMatchLanes w all d a) s

/-- What a counted lane contributes to a vote (18 R416). -/
def Warp.votes (w : Warp) (neg : Bool) (a l : Nat) : Bool := w.rdF l a != neg

/-- VOTE of each lane (18 R416). -/
def bodyVote (mode : VoteMode) (neg : Bool) (d : LSpec) (fd : Fin 8) (a : Fin 8) : Ctx → State →
    Res :=
  match mode with
  | .ballot => laneAlu false d (fun _ c w l =>
      (w.ballot l ((c.counted w l).filter (w.votes neg a.val))).setWidth 64)
  | .any => laneFlag fd.val (fun _ c w l => (c.counted w l).any (w.votes neg a.val))
  | .all => laneFlag fd.val (fun _ c w l => (c.counted w l).all (w.votes neg a.val))
  | .eq => laneFlag fd.val (fun _ c w l =>
      (c.counted w l).all (fun k => w.votes neg a.val k == w.votes neg a.val l))

/-- The meaning of VOTE. -/
def execVote (mode : VoteMode) (neg : Bool) (d : LSpec) (fd : Fin 8) (a : Fin 8) (s : State) :
    Host.Outcome State Fault Refusal :=
  issue (.vote mode neg d fd a) (bodyVote mode neg d fd a) s

-- reductions and scans (05 R118, R119)

/-- Width and signedness of a reduction type. -/
def rtyInt : RTy → Bool × Nat
  | .s32 => (true, 32)
  | .z32 => (false, 32)
  | .s64 => (true, 64)
  | _ => (false, 64)

def rtyFmt : RTy → Fmt
  | .f64 => fmtF64
  | _ => fmtF32

/-- The operator on two values, an identity among them (05 R119; DEDUCED, log entry 68). -/
def ropVal (op : ROp) (ty : RTy) (sat : Bool) (x y : DWord) : DWord × BitVec 5 :=
  if ty.isFloat then
    let f := rtyFmt ty
    let r := match op with
      | .min => fpMinMax false f x.toNat y.toNat
      | .max => fpMinMax true f x.toNat y.toNat
      | _ => fpAdd f .rn x.toNat y.toNat
    (BitVec.ofNat 64 r.1, r.2)
  else
    let (sg, w) := rtyInt ty
    (match op with
     | .add => fitInt sat sg w (intOf sg w x + intOf sg w y)
     | .min => fitInt false sg w (min (intOf sg w x) (intOf sg w y))
     | .max => fitInt false sg w (max (intOf sg w x) (intOf sg w y))
     | .and => x &&& y
     | .or => x ||| y
     | .xor => x ^^^ y, 0)

/-- The operator on nodes, collecting flags. -/
def ropNode (op : ROp) (ty : RTy) (sat : Bool) (x y : DWord) (fl : BitVec 5) : DWord × BitVec 5 :=
  let r := ropVal op ty sat x y
  (r.1, fl ||| r.2)

/-- The identity of an operator (05 R119). -/
def ropIdent (op : ROp) (ty : RTy) : DWord :=
  if ty.isFloat then
    let f := rtyFmt ty
    BitVec.ofNat 64 (match op with
      | .min => f.inf false
      | .max => f.inf true
      | _ => f.zer true)
  else
    let (sg, w) := rtyInt ty
    match op with
    | .min => BitVec.ofInt 64 (intMax sg w)
    | .max => BitVec.ofInt 64 (intMin sg w)
    | .and => BitVec.allOnes 64
    | _ => 0

/-- TreeReduce (05 R118): pairs of neighbours, level by level. -/
def treeLevel (op : ROp) (ty : RTy) (sat : Bool) : List DWord → BitVec 5 → List DWord × BitVec 5
  | x :: y :: r, fl =>
    let (z, fl) := ropNode op ty sat x y fl
    let (zs, fl) := treeLevel op ty sat r fl
    (z :: zs, fl)
  | xs, fl => (xs, fl)

def treeReduce (op : ROp) (ty : RTy) (sat : Bool) : Nat → List DWord → BitVec 5 → DWord × BitVec 5
  | 0, xs, fl => (xs.headD 0, fl)
  | n + 1, xs, fl =>
    let (ys, fl) := treeLevel op ty sat xs fl
    treeReduce op ty sat n ys fl

/-- One level of TreeScan at distance `d` (05 R118). -/
def scanLevel (op : ROp) (ty : RTy) (sat : Bool) (d : Nat) (xs : List DWord) (fl : BitVec 5) :
    List DWord × BitVec 5 :=
  (List.range xs.length).foldl (fun (acc : List DWord × BitVec 5) i =>
    if i < d then (acc.1 ++ [xs.getD i 0], acc.2)
    else
      let (z, f) := ropNode op ty sat (xs.getD (i - d) 0) (xs.getD i 0) acc.2
      (acc.1 ++ [z], f)) ([], fl)

def treeScan (op : ROp) (ty : RTy) (sat : Bool) : Nat → Nat → List DWord → BitVec 5 →
    List DWord × BitVec 5
  | 0, _, xs, fl => (xs, fl)
  | n + 1, d, xs, fl =>
    let (ys, fl) := scanLevel op ty sat d xs fl
    treeScan op ty sat n (2 * d) ys fl

/-- The values at the positions of a lane's tile: a lane outside the group supplies the operator's identity
(04 R94; 05 R119). -/
def Ctx.nodes (c : Ctx) (w : Warp) (l : Nat) (op : ROp) (ty : RTy) (a : LSpec) : List DWord :=
  (w.tileLanes l).map (fun k => if c.mask.getLsbD k then w.rdW k ty.wide64 a else ropIdent op ty)

/-- Levels of a tree over a tile. -/
def Warp.levels (w : Warp) : Nat := Nat.log2 w.tile

/-- REDX of each lane: the root of its tile's tree (18 R400). -/
def bodyRedx (op : ROp) (ty : RTy) (sat : Bool) (d a : LSpec) : Ctx → State → Res :=
  laneFp ty.wide64 d (fun _ c w l =>
    let r := treeReduce op ty sat w.levels (c.nodes w l op ty a) 0
    (r.1.toNat, r.2))

/-- The meaning of REDX. -/
def execRedx (op : ROp) (ty : RTy) (sat : Bool) (d a : LSpec) (s : State) : Host.Outcome State
    Fault Refusal :=
  issue (.redx op ty sat d a) (bodyRedx op ty sat d a) s

/-- SCAN of each lane: its prefix, or with EXC the one before it (18 R400). -/
def bodyScan (op : ROp) (ty : RTy) (sat exc : Bool) (d a : LSpec) : Ctx → State → Res :=
  laneFp ty.wide64 d (fun _ c w l =>
    let r := treeScan op ty sat w.levels 1 (c.nodes w l op ty a) 0
    let i := l - w.tileBase l
    let v := if exc then (if i = 0 then ropIdent op ty else r.1.getD (i - 1) 0) else r.1.getD i 0
    (v.toNat, r.2))

/-- The meaning of SCAN. -/
def execScan (op : ROp) (ty : RTy) (sat exc : Bool) (d a : LSpec) (s : State) : Host.Outcome State
    Fault Refusal :=
  issue (.scan op ty sat exc d a) (bodyScan op ty sat exc d a) s

-- shared-exponent blocks (05 R114)

/-- What a lane supplies to SXPK or SXUPK: zero once exited or never launched. -/
def Warp.supply (w : Warp) (a : LSpec) (k : Nat) : Word :=
  if (w.lane k).st = .live then w.rdL k a else 0

/-- SXPK of each lane: its word of its half's block (05 R114; 18 R411). -/
def bodySxpk (fmt : SxFmt) (d a : LSpec) : Ctx → State → Res :=
  laneFp false d (fun _ _ w l =>
    let h := l / 16 * 16
    let r := sxEncode (sxBits fmt) ((List.range 16).map (fun j => (w.supply a (h + j)).toNat))
    (bitsOf r.1 (32 * (l % 16)) 32, r.2))

/-- The meaning of SXPK. -/
def execSxpk (fmt : SxFmt) (d a : LSpec) (s : State) : Host.Outcome State Fault Refusal :=
  issue (.sxpk fmt d a) (bodySxpk fmt d a) s

/-- SXUPK of each lane: its element of its half's block (05 R113, R114; 18 R411). -/
def bodySxupk (fmt : SxFmt) (d a : LSpec) : Ctx → State → Res :=
  laneAlu false d (fun _ _ w l =>
    let h := l / 16 * 16
    let blk := (List.range 5).foldl (fun b j => b + (w.supply a (h + j)).toNat * 2 ^ (32 * j)) 0
    BitVec.ofNat 64 (sxDecode (sxBits fmt) blk (l % 16)))

/-- The meaning of SXUPK. -/
def execSxupk (fmt : SxFmt) (d a : LSpec) (s : State) : Host.Outcome State Fault Refusal :=
  issue (.sxupk fmt d a) (bodySxupk fmt d a) s

-- special values (18 R398, R399)

/-- A special value in a lane; the times are the group's sample. -/
def spValue (sp : Special) (smp : Nat) (s : State) (c : Ctx) (w : Warp) (l : Nat) : DWord :=
  let n32 (code : Nat) : DWord := (s.special c.wid l code).setWidth 64
  match sp with
  | .lane => BitVec.ofNat 64 (w.laneNo l)
  | .tid => BitVec.ofNat 64 (w.tid l)
  | .warp => n32 0x71
  | .block => n32 0x72
  | .cluster => n32 0x73
  | .clusterrank => n32 0x74
  | .launch => pair (s.special c.wid l 0x79) (s.special c.wid l 0x7A)
  | .role => n32 0x75
  | .core => n32 0x76
  | .gtime => BitVec.ofNat 64 smp
  | .clock => BitVec.ofNat 64 smp
  | .part => n32 0x77
  | .gang => n32 0x78

/-- 160ths of a cycle of a clock of 1.1 GHz, slowed by the steps of 13 R296, since the release of reset. -/
def State.cycles160 (s : State) : Nat := s.clkCount + 11 * s.clkRate * (s.gtime - s.clkSince)

/-- The sample of a time read: global time, or the core's cycle count, whose clock has run within 100 parts
per million of its rate since its last read (18 R399; log entry 42). -/
def State.sample (sp : Special) (core : Nat) (s : State) : Nat × State :=
  match sp with
  | .gtime => (s.gtime, s)
  | .clock =>
    let (n, s) := s.free
    let d := s.cycles160 - (s.core core).clockAt
    let k := (s.core core).clock + (d - d / 10000) + n % (2 * (d / 10000) + 1)
    (k / 160, s.modCore core (fun c => { c with clock := k, clockAt := s.cycles160 }))
  | _ => (0, s)

/-- RDS of each lane: a special value, sampled once for the group (18 R398, R399). -/
def bodyRds (d : LSpec) (sp : Special) : Ctx → State → Res :=
  fun c s =>
    let (n, s) := s.sample sp c.core
    laneAlu sp.wide64 d (spValue sp n) c s

/-- The meaning of RDS. -/
def execRds (d : LSpec) (sp : Special) (s : State) : Host.Outcome State Fault Refusal :=
  issue (.rds d sp) (bodyRds d sp) s

end Sys2Proof.Machine
end

