-- ==== Sys2Proof/Machine/Grove.lean ====
section
/-!
DEFINITION. Grove routines: LNX, the routine table, validation, and the slice machine (09 R202 to
R218).
-/

set_option Elab.async false

namespace Sys2Proof.Machine

-- validation (09 R206, R209)

def gOp (w : Nat) : Nat := bitsOf w 27 5

/-- The I bit, field b and imm12 agree (09 R209). -/
def gImmOk (w : Nat) : Bool :=
  if bitOf w 17 then bitsOf w 18 3 == 0 else bitsOf w 0 12 == 0

/-- A word keeps its layout (09 R209): reserved bits zero and field values valid. -/
def gWordOk (w : Nat) : Bool :=
  match gOp w with
  | 0x00 | 0x01 => bitsOf w 0 17 == 0 && (bitOf w 23 || bitsOf w 21 2 == 0)
  | 0x02 | 0x03 => !bitOf w 12 && gImmOk w && decide (bitsOf w 15 2 ≤ 2)
  | 0x04 | 0x05 => !bitOf w 12 && gImmOk w && decide (bitsOf w 15 2 ≤ 1)
  | 0x06 | 0x07 | 0x08 | 0x09 | 0x0A => !bitOf w 12 && gImmOk w && bitsOf w 15 2 == 0
  | 0x0B => bitsOf w 12 2 == 0 && gImmOk w && decide (bitsOf w 14 3 ≤ 5)
  | 0x0C => bitsOf w 0 15 == 0
  | 0x0D | 0x0E | 0x0F => bitsOf w 0 18 == 0
  | 0x10 => bitsOf w 18 3 == 0 && bitsOf w 0 6 == 0 && decide (bitsOf w 12 6 + bitsOf w 6 6 ≤ 63)
  | 0x11 => bitsOf w 18 3 == 0 && bitsOf w 0 5 == 0 && decide (bitsOf w 12 6 + bitsOf w 6 6 ≤ 63)
  | 0x12 => bitsOf w 0 21 == 0
  | 0x13 => bitsOf w 16 5 == 0
  | 0x14 => bitsOf w 18 6 == 0 && decide (bitsOf w 15 3 ≤ 4) && bitsOf w 0 15 == 0
  | 0x15 => bitsOf w 24 3 == 0 && bitsOf w 18 3 == 0 && bitsOf w 0 15 == 0
  | _ => false

/-- Cause found in the entry alone: 1, 2, or 0 (09 R206). -/
def gEntryCause (en : Bool) (e : Nat) : Nat :=
  if !en || !bitOf e 0 then 1 else if bitsOf e 55 9 ≠ 0 ∨ bitOf e 6 then 2 else 0

/-- Cause found in the code words: 3, 4, or 0. -/
def gCodeCause (ws : List Word) : Nat :=
  if ws.any (fun w => decide (0x16 ≤ gOp w.toNat)) then 3
  else if ws.all (fun w => gWordOk w.toNat) then 0 else 4

-- the slice machine (09 R209, R210, R212)

/-- What a routine sees: scratch registers, line words, return word, status byte. -/
structure SliceM where
  x : List Nat
  line : List Nat
  ret : Nat
  stat : Nat
deriving DecidableEq, Repr

def SliceM.rd (m : SliceM) (k : Nat) : Nat := m.x.getD k 0
def SliceM.wr (k v : Nat) (m : SliceM) : SliceM := { m with x := m.x.set k (v % 2 ^ 64) }
def SliceM.flag (b : Bool) (v : Nat) (m : SliceM) : SliceM :=
  if b then { m with stat := m.stat ||| v } else m

/-- Lane widths of field LW. -/
def gWidth (k : Nat) : Nat := 64 / 2 ^ k

/-- A lane-wise operation of width `w`; `f` answers the lane's result and its status bits. -/
def gLanes (w : Nat) (f : Nat → Nat → Nat × Nat) (a b : Nat) : Nat × Nat :=
  (List.range (64 / w)).foldl (fun t k =>
    let r := f (bitsOf a (w * k) w) (bitsOf b (w * k) w)
    (t.1 + r.1 % 2 ^ w * 2 ^ (w * k), t.2 ||| r.2)) (0, 0)

/-- ADD and SUB of one lane (09 R210). -/
def gAdd (neg : Bool) (sat w : Nat) (a b : Nat) : Nat × Nat :=
  let op (x y : Int) : Int := if neg then x - y else x + y
  if sat = 1 then
    let e := op (sintOf w a) (sintOf w b)
    let r := max (-(2 ^ (w - 1) : Int)) (min (2 ^ (w - 1) - 1) e)
    (wrapInt w r, if r = e then 0 else 2)
  else
    let e := op (a : Int) (b : Int)
    let top : Int := 2 ^ w - 1
    if sat = 2 then
      let r := max 0 (min top e)
      (r.toNat, if r = e then 0 else 2)
    else (wrapInt w e, if e < 0 ∨ top < e then 1 else 0)

/-- MIN and MAX of one lane. -/
def gMin (mx uns : Bool) (w : Nat) (a b : Nat) : Nat × Nat :=
  let lt := if uns then decide (a < b) else decide (sintOf w a < sintOf w b)
  (if lt == mx then b else a, 0)

/-- The comparison of CSET (09 R209). -/
def gCond (k a b : Nat) : Bool :=
  match k with
  | 0 => a == b
  | 1 => a != b
  | 2 => decide (sintOf 64 a < sintOf 64 b)
  | 3 => decide (a < b)
  | 4 => decide (sintOf 64 a ≤ sintOf 64 b)
  | _ => decide (a ≤ b)

/-- Status bits of a floating-point operation: NV and OF only. -/
def gFpStat (f : BitVec 5) : Nat :=
  (if f &&& fNV != 0 then 8 else 0) + (if f &&& fOF != 0 then 4 else 0)

/-- Every lane of width `w` holds the low bits of `x` (09 R209). -/
def gSplat (w x : Nat) : Nat :=
  ((List.range (64 / w)).map (fun k => x % 2 ^ w * 2 ^ (w * k))).sum

/-- One slice instruction (09 R210). -/
def gExec (args : List DWord) (gt : Nat) (w : Nat) (m : SliceM) : SliceM :=
  let d := bitsOf w 24 3
  let a := m.rd (bitsOf w 21 3)
  let b := if bitOf w 17 then wrapInt 64 (sintOf 12 (bitsOf w 0 12)) else m.rd (bitsOf w 18 3)
  let lw := gWidth (bitsOf w 13 2)
  let bl := if bitOf w 17 then gSplat lw b else b
  let put (r : Nat × Nat) : SliceM := (m.wr d r.1).flag true r.2
  let slot := bitsOf w 17 4
  let idx := if bitOf w 23 then ((args.getD (bitsOf w 21 2) 0).toNat + slot) % 16 else slot
  let fp (n : Nat) (f : Nat → Nat → Nat × BitVec 5) : SliceM :=
    put (gLanes n (fun x y => let r := f x y; (r.1, gFpStat r.2)) a b)
  match gOp w with
  | 0x00 => m.wr d (m.line.getD idx 0)
  | 0x01 => { m with line := m.line.set idx (m.rd d) }
  | 0x02 => put (gLanes lw (gAdd false (bitsOf w 15 2) lw) a bl)
  | 0x03 => put (gLanes lw (gAdd true (bitsOf w 15 2) lw) a bl)
  | 0x04 => put (gLanes lw (gMin false (bitOf w 15) lw) a bl)
  | 0x05 => put (gLanes lw (gMin true (bitOf w 15) lw) a bl)
  | 0x06 => m.wr d (a &&& b)
  | 0x07 => m.wr d (a ||| b)
  | 0x08 => m.wr d (a ^^^ b)
  | 0x09 => put (gLanes lw (fun x y => (x * 2 ^ (y % lw), 0)) a bl)
  | 0x0A => put (gLanes lw (fun x y => (x / 2 ^ (y % lw), 0)) a bl)
  | 0x0B => m.wr d (b2n (gCond (bitsOf w 14 3) a b))
  | 0x0C => m.wr d (if m.rd (bitsOf w 15 3) ≠ 0 then a else m.rd (bitsOf w 18 3))
  | 0x0D => fp 32 (fpAdd fmtF32 .rn)
  | 0x0E => fp 32 (fpMinMax true fmtF32)
  | 0x0F => fp 16 (fpAdd fmtBf16 .rn)
  | 0x10 =>
    let p := bitsOf w 12 6
    let n := bitsOf w 6 6 + 1
    m.wr d (putBits (m.rd d) p n (bitsOf a 0 n))
  | 0x11 =>
    let n := bitsOf w 6 6 + 1
    let v := bitsOf a (bitsOf w 12 6) n
    m.wr d (if bitOf w 5 then wrapInt 64 (sintOf n v) else v)
  | 0x12 => m.wr d ((List.range 64).filter (bitOf a)).length
  | 0x13 =>
    let hw := bitsOf w 22 2
    let v := bitsOf w 0 16
    m.wr d (if bitOf w 21 then putBits (m.rd d) (16 * hw) 16 v else v * 2 ^ (16 * hw))
  | 0x14 =>
    let k := bitsOf w 15 3
    m.wr d (if k ≤ 3 then (args.getD k 0).toNat else gt)
  | 0x15 => { m with ret := a, stat := putBits m.stat 4 3 (bitsOf w 15 3) }
  | _ => m

/-- Global time after `k` slice instructions of a routine that took its line at `t`: two core cycles of 1.1 GHz
each (00 R2; 09 R215; log entry 107). -/
def gTime (t k : Nat) : Nat := t + 20 * k / 11

/-- A run of a routine on a line taken at time `t`: the line's new words, the return word and the status
byte. -/
def gRun (ws : List Word) (args : List DWord) (t : Nat) (line : List Nat) : SliceM :=
  (ws.foldl (fun (p : Nat × SliceM) w => (p.1 + 1, gExec args (gTime t p.1) w.toNat p.2))
    (0, { x := List.replicate 8 0, line := line, ret := 0, stat := 0 })).2

-- entries at the slices (09 R204 to R207)

/-- Routine table base of a job's `%grovebase`. -/
def State.gbase (s : State) (job : Nat) : Nat := bitsOf (fget 0 job s.grovebase).toNat 9 46

/-- `%grovebase.EN`. -/
def State.gEn (s : State) (job : Nat) : Bool := (fget 0 job s.grovebase).getLsbD 0

/-- The cached entry of a request at its slice. -/
def State.gEntry (s : State) (wid : Nat) (q : LnxReq) : Option GroveEntry :=
  s.grove.find? (fun e => e.slice == homeSlice q.pa && e.asid == s.asidOf wid &&
    e.base == s.gbase (s.jobOf wid) && e.index == q.index)

/-- A read of table or code: a leaf with P = 1 is accepted (09 R205). None: held. -/
def State.gRead (s : State) (die asid va n : Nat) : Option (Except FaultInfo (List Byte)) :=
  match s.dieLeaf die asid va with
  | .error f => some (.error f)
  | .ok (e, sh) =>
    match s.checkLeaf e sh va .read true with
    | .bad f => some (.error f)
    | .held _ => none
    | .ok p => if s.poisonedR p.loc n then some (.error (poisonFault va))
               else some (.ok (s.rdMem p.loc n))

/-- Fetches and validates an entry: its code words and cause, or a failed read. None: held. -/
def State.gFetch (s : State) (wid : Nat) (q : LnxReq) :
    Option (Except FaultInfo (List Word × Nat)) :=
  let job := s.jobOf wid
  let asid := s.asidOf wid
  let die := s.coreOf wid / Config.coresPerDie
  if !s.gEn job then some (.ok ([], 1))
  else
    match s.gRead die asid (s.gbase job * 512 + 8 * q.index) 8 with
    | none => none
    | some (.error f) => some (.error f)
    | some (.ok eb) =>
      let e := leNat eb
      if gEntryCause true e ≠ 0 then some (.ok ([], gEntryCause true e))
      else
        match s.gRead die asid (bitsOf e 7 48 * 128) 128 with
        | none => none
        | some (.error f) => some (.error f)
        | some (.ok cb) =>
          let ws := (List.range (bitsOf e 1 5 + 1)).map (fun k =>
            BitVec.ofNat 32 (leNat ((cb.drop (4 * k)).take 4)))
          some (.ok (ws, gCodeCause ws))

/-- Changes the request of a lane. -/
def State.modLnx (wid lane : Nat) (f : LnxReq → LnxReq) (s : State) : State :=
  s.modWarp wid (fun w => { w with lnx := w.lnx.map (fun q => if q.lane = lane then f q else q) })

/-- An unanswered request of a lane. -/
def State.openLnx (s : State) (wid lane : Nat) : Option LnxReq :=
  (s.warp wid).bind (fun w =>
    w.lnx.find? (fun q => q.lane == lane && q.reply.isNone && q.fault.isNone))

/-- GROVE_INVALID and GROVE_FAULT (10 R219). -/
def groveFault (code : BitVec 8) (cause : Nat) (q : LnxReq) : FaultInfo :=
  { code := code, cause := BitVec.ofNat 8 cause, addr := q.va, aux0 := BitVec.ofNat 64 q.index }

/-- Another warp's request waits at the head of the line's queue (09 R205). -/
def State.lnxBehind (s : State) (wid line : Nat) : Bool :=
  State.lnxHead { s with warps := s.warps.filter (fun e => e.1 != wid) } line

/-- GROVE_ENTRY_FETCH: a slice without the entry fetches, validates and caches it, while the request waits at
the head of its line's queue; a failed read is the request's GROVE_FAULT (09 R205, R206). -/
def evGroveEntryFetch (wid lane : Nat) (s : State) : State :=
  match s.openLnx wid lane with
    | none => s
    | some q =>
      if (s.gEntry wid q).isSome || s.lnxBehind wid (q.pa / 128) then s
      else
        let s := s.modLnx wid lane (fun q => { q with head := true })
        match s.gFetch wid q with
        | none => s
        | some (.error _) => (s.modLnx wid lane (fun q =>
            { q with fault := some (groveFault 0x0D 1 q) })).stopIfCancelled wid
        | some (.ok (ws, cause)) =>
          let sl := homeSlice q.pa
          let e : GroveEntry := { slice := sl, asid := s.asidOf wid, base := s.gbase (s.jobOf wid),
                                  index := q.index, code := ws, cause := cause, stamp := s.tick }
          let mine := s.grove.filter (fun x => x.slice == sl)
          let old := if mine.length < 16 then none
            else minBy (fun (x : GroveEntry) => x.stamp) mine
          let kept := match old with
            | none => s.grove
            | some o => s.grove.filter (fun x => x != o)
          { s with grove := kept ++ [e] }

/-- The meaning of GROVE_ENTRY_FETCH. -/
def execGroveEntryFetch (wid lane : Nat) (s : State) : Host.Outcome State Fault Refusal :=
  .next (evGroveEntryFetch wid lane s).finish

/-- Serves one request that finds its entry: the routine runs `errs` times in error before it ends
well, at most twice; while EN is 0 it takes cause 1 (09 R202, R213, R215 to R217). -/
def State.serveLnx (wid lane errs : Nat) (s : State) : State :=
  match s.openLnx wid lane with
  | none => s
  | some q =>
    if !s.gEn (s.jobOf wid) then
      s.modLnx wid lane (fun q => { q with fault := some (groveFault 0x0C 1 q) })
    else
    match s.gEntry wid q with
    | none => s
    | some e =>
      let s : State := { s with grove := s.grove.map (fun x =>
        if x = e then { x with stamp := s.tick } else x) }
      if e.cause ≠ 0 then
        s.modLnx wid lane (fun q => { q with fault := some (groveFault 0x0C e.cause q) })
      else if s.poisonedR q.pa 128 then
        s.modLnx wid lane (fun q => { q with reply := some (0, 0x80) })
      else if 3 ≤ errs then
        s.modLnx wid lane (fun q => { q with fault := some (groveFault 0x0D 2 q) })
      else
        let line := (List.range 16).map (fun k => leNat (s.rdMem (q.pa + 8 * k) 8))
        let m := gRun e.code q.args s.gtime line
        let s : State := { s with gtime := gTime s.gtime e.code.length, fresh := s.fresh + 1 }
        let (g, s) := s.perform none q.pa (m.line.flatMap (natLe 8))
        let s := s.ackNow false (s.coreOf wid) wid lane q.pa g q.va
        s.modLnx wid lane (fun q =>
          { q with reply := some (BitVec.ofNat 64 m.ret, BitVec.ofNat 8 m.stat) })

/-- LNX_REQUEST_SERVE: the requests of one LNX to one line are served together, in increasing lane
order, each with its own count of errors, the base-4 digits of `errs` (09 R216). -/
def evLnxRequestServe (wid lane errs : Nat) (s : State) : State :=
  match s.openLnx wid lane with
    | none => s
    | some q =>
      if s.lineHeld (q.pa / 128) || s.lnxBehind wid (q.pa / 128) then s
      else
        let ls := (((s.warp wid).map (·.lnx)).getD []).filter (fun x =>
          x.pa == q.pa && x.reply.isNone && x.fault.isNone)
        if s.gEn (s.jobOf wid) && ls.any (fun x => (s.gEntry wid x).isNone) then s
        else
          let s := (ls.foldl (fun (t : Nat × State) x =>
            (t.1 / 4, t.2.serveLnx wid x.lane (t.1 % 4))) (errs, s)).2
          s.stopIfCancelled wid

/-- The meaning of LNX_REQUEST_SERVE. -/
def execLnxRequestServe (wid lane errs : Nat) (s : State) : Host.Outcome State Fault Refusal :=
  .next (evLnxRequestServe wid lane errs s).finish

-- LNX (09 R214 to R218)

/-- The four arguments of a lane (09 R214). -/
def lnxArgs (w : Warp) (l : Nat) (b : LSpec) : List DWord :=
  (List.range 4).map (fun k => pair (w.rdL l (LSpec.plus b (2 * k))) (w.rdL l (LSpec.plus b (2 * k + 1))))

/-- A lane's request, or its fault (09 R215). -/
def State.lnxCheck (s : State) (c : Ctx) (l : Nat) (va : DWord) (args : List DWord) (index : Nat) :
    Except FaultInfo LnxReq :=
  if va.toNat % 128 ≠ 0 then .error (misaligned va)
  else
    match s.leafOf c.core (s.asidOf c.wid) va.toNat with
    | .error f => .error f
    | .ok (e, sh) =>
      let pa := bitsOf e 12 40 * 2 ^ 12 / 2 ^ sh * 2 ^ sh + va.toNat % 2 ^ sh
      let far := bitsOf e 6 2 != 0 || decide (Config.deviceTop ≤ pa)
      let prot := pfault 4 .rw va.toNat
      match s.checkLeaf e sh va.toNat .rw (c.inHandler || c.inGraft) with
      | .bad f => .error (if far && decide (6 < f.code.toNat) then prot else f)
      | .held _ => .error (if far then prot else heldFault)
      | .ok p =>
        if far then .error prot
        else .ok { lane := l, va := va, pa := p.pa, index := index, args := args, reply := none,
                   fault := none, head := false }

/-- Sends the requests of a group; it waits for the replies. -/
def lnxSend (a b : LSpec) (base : USpec) (scale index : Nat) (imm : BitVec 10) (c : Ctx)
    (s : State) : Res :=
  match s.warp c.wid with
  | none => Res.ok s
  | some w =>
    let rs := (lanesOf c.mask).map (fun l =>
      let va := s.rdU64 c base + ((w.rdL l a).signExtend 64 <<< scale) + (imm.signExtend 64 <<< 7)
      (l, s.lnxCheck c l va (lnxArgs w l b) index))
    let held := rs.any (fun r => match r.2 with
      | .error f => decide (f = heldFault)
      | .ok _ => false)
    let busy := s.ownPending c.core c.wid (rs.filterMap (fun r => match r.2 with
      | .ok q => some (r.1, q.pa, 128)
      | .error _ => none))
    if held || busy || s.strongBusy c.core c.wid c.mask then Res.wait .strong 0 0 s
    else
      let fs := rs.filterMap (fun r => match r.2 with | .error f => some (r.1, f) | .ok _ => none)
      let qs := rs.filterMap (fun r => match r.2 with | .ok q => some q | .error _ => none)
      let s := s.modWarp c.wid (fun w => { w with
        lnx := w.lnx.filter (fun q => !c.mask.getLsbD q.lane) ++ qs })
      { s := s, faults := fs, flow := if qs = [] then .seq else .stay .lnx 1 0 }

/-- LNX: each lane's request runs a routine on its line; the group commits at the last reply (09
R214 to R218). -/
def bodyLnx (ord : Ord4) (d a b c : LSpec) (base : USpec) (scale : Fin 4) (index : Fin 64) (imm :
    BitVec 10) : Ctx → State → Res :=
  fun x s =>
    if (x.tag.map (·.why)) = some .lnx then
      match s.warp x.wid with
      | none => Res.ok s
      | some w =>
        let qs := w.lnx.filter (fun q => x.mask.getLsbD q.lane)
        if qs.any (fun q => q.reply.isNone && q.fault.isNone) then Res.wait .lnx 1 0 s
        else
          let s := s.recheckMeet x.core x.wid none (qs.map (fun q => (q.lane, q.pa, 128)))
          let s := s.modWarp x.wid (fun w =>
            { w with lnx := w.lnx.filter (fun q => !x.mask.getLsbD q.lane) })
          let s := qs.foldl (fun s q => match q.reply with
            | some r => s.modWarp x.wid (fun w =>
                (w.wrL64 q.lane d r.1).wrL q.lane c (r.2.setWidth 32))
            | none => s) s
          { s := if ordAcq ord then s.acquire x.core x.wid .pkg else s,
            faults := qs.filterMap (fun q => q.fault.map (fun f => (q.lane, f))), flow := .seq }
    else
      let k := lnxSend a b base scale.val index.val imm
      if ordRel ord then withRelease .pkg k x s else k x s

/-- The meaning of LNX. -/
def execLnx (ord : Ord4) (d a b c : LSpec) (base : USpec) (scale : Fin 4) (index : Fin 64) (imm :
    BitVec 10) (s : State) : Host.Outcome State Fault Refusal :=
  issue (.lnx ord d a b c base scale index imm) (bodyLnx ord d a b c base scale index imm) s

end Sys2Proof.Machine
end

