-- ==== Sys2Proof/Machine/Matrix.lean ====
section
/-!
DEFINITION. The matrix engine: gangs and the latch, the matrix queue, multiplication, its checks,
tile transfers and status (05 R115, R116; 06 R120 to R145; 17 R365, R384, R385; 18 R412).
-/

set_option Elab.async false

namespace Sys2Proof.Machine

-- arithmetic of one element (05 R115, R116)

/-- The result of an element with the tile's flags NV, OF, UF. -/
structure AccR where
  val : Word
  nv : Bool := false
  ovf : Bool := false
  unf : Bool := false

def isFinNz : Fv → Bool
  | .fin _ _ _ => true
  | _ => false
def isPInf : Fv → Bool
  | .inf n => !n
  | _ => false
def isNInf : Fv → Bool
  | .inf n => n
  | _ => false
def isNZero : Fv → Bool
  | .zer n => n
  | _ => false

/-- A sum of truncated terms in units of 2^qe (05 R115). -/
def truncSum (qe : Int) (ts : List Fv) : Int :=
  (ts.map (fun t => match t with
    | .fin n m e => sgn n (if qe ≤ e then m * 2 ^ (e - qe).toNat else m / 2 ^ (qe - e).toNat)
    | _ => 0)).sum

/-- Rounds a nonzero S, in units of 2^qe, to binary32: nearest-even, with overflow to infinity and
small results to zero (05 R115). -/
def accRound (S qe : Int) : AccR :=
  let neg := decide (S < 0)
  let u := topExp S.natAbs qe - 23
  let m := (roundAt .rn neg S.natAbs qe u).1
  let top := topExp m u
  let fr := if m = 2 ^ 24 then 0 else m - 2 ^ 23
  if 127 < top then { val := BitVec.ofNat 32 (fmtF32.inf neg), ovf := true }
  else if top < -126 then { val := BitVec.ofNat 32 (fmtF32.zer neg), unf := true }
  else { val := BitVec.ofNat 32 ((top + 127).toNat * 2 ^ 23 + fr + b2n neg * 2 ^ 31) }

/-- Accumulate (05 R115) on the exact accumulator and products; none: 0 times infinity. -/
def accumulate (c : Fv) (ps : List (Option Fv)) : AccR :=
  let ts := c :: ps.filterMap id
  let nan : AccR := { val := BitVec.ofNat 32 fmtF32.nan, nv := true }
  if ps.any Option.isNone || ts.any Fv.isNan || (ts.any isPInf && ts.any isNInf) then nan
  else if ts.any isPInf then { val := BitVec.ofNat 32 (fmtF32.inf false) }
  else if ts.any isNInf then { val := BitVec.ofNat 32 (fmtF32.inf true) }
  else if !ts.any isFinNz then { val := BitVec.ofNat 32 (fmtF32.zer (ts.all isNZero)) }
  else
    let tops := ts.filterMap (fun t => match t with | .fin _ m e => some (topExp m e) | _ => none)
    let qe := tops.foldl max (tops.headD 0) - 40
    let S := truncSum qe ts
    if S = 0 then { val := 0 } else accRound S qe

-- formats (06 R124, R125)

def fmFmt (w : Word) : Nat := bitsOf w.toNat 0 4
def fmMask (w : Word) : Nat := bitsOf w.toNat 26 2
def fmDiag (w : Word) : Int := sintOf 8 (bitsOf w.toNat 18 8)
/-- K-step of a format. -/
def fmK (f : Nat) : Nat := [8, 32, 32, 64, 64, 128, 256].getD f 0
/-- Bytes of an operand row. -/
def fmRow (f : Nat) : Nat := [32, 64, 64, 72, 64, 96, 128].getD f 0

/-- Element k of an operand row as an exact value (06 R123, R125; 05 R113). -/
def opFloat (f : Nat) (row : List Byte) (k : Nat) : Fv :=
  let at' (w : Nat) : Nat := leNat ((row.drop (w * k)).take w)
  let sx (m n : Nat) : Fv := sxValue m (leNat ((row.drop (n * (k / 16))).take n)) (k % 16)
  match f with
  | 0 => fpRead fmtF32 (at' 4)
  | 1 => fpRead fmtF16 (at' 2)
  | 2 => fpRead fmtBf16 (at' 2)
  | 3 => sx 7 18
  | 5 => sx 4 12
  | _ => sx 2 8

/-- Element k of an 8-bit integer row. -/
def opInt (z : Bool) (row : List Byte) (k : Nat) : Int :=
  let x := (row.getD k 0).toNat
  if z then (x : Int) else sintOf 8 x

/-- Row i of fetched operand bytes. -/
def opRow (f : Nat) (bs : List Byte) (i : Nat) : List Byte := (bs.drop (fmRow f * i)).take (fmRow f)

/-- An element that MMAT masks (06 R135). -/
def isMasked (cmd : MCmd) (i j : Nat) : Bool :=
  cmd.op == .mmat && decide (fmDiag cmd.fmt < (j : Int) - (i : Int))

/-- The constant of a masked element (06 R124, R135). -/
def maskVal (fmt : Word) (old : Word) : Word :=
  match fmMask fmt with
  | 0 => old
  | 1 => 0
  | _ => if fmFmt fmt = 4 then 0x80000000 else 0xFF800000

/-- The rows of an operand as exact values. -/
def opFloats (f : Nat) (bs : List Byte) : List (List Fv) :=
  (List.range 64).map (fun i => (List.range (fmK f)).map (opFloat f (opRow f bs i)))

/-- The rows of an 8-bit integer operand. -/
def opInts (z : Bool) (bs : List Byte) : List (List Int) :=
  (List.range 64).map (fun i => (List.range 64).map (opInt z (opRow 4 bs i)))

/-- The rows of both operands, read once for a command: floats, or integers for format 4. -/
structure OpRows where
  fa : List (List Fv)
  fb : List (List Fv)
  ia : List (List Int)
  ib : List (List Int)

def MCmd.rows (cmd : MCmd) : OpRows :=
  let f := fmFmt cmd.fmt
  if f = 4 then
    { fa := [], fb := [], ia := opInts (cmd.fmt.getLsbD 4) cmd.abytes,
      ib := opInts (cmd.fmt.getLsbD 5) cmd.bbytes }
  else { fa := opFloats f cmd.abytes, fb := opFloats f cmd.bbytes, ia := [], ib := [] }

/-- The exact integer sum of products of element (i, j). -/
def OpRows.intSum (r : OpRows) (i j : Nat) : Int :=
  (List.zipWith (· * ·) (r.ia.getD i []) (r.ib.getD j [])).sum

/-- Element (i, j) as R115 or R116 gives it. -/
def mmaElem (cmd : MCmd) (r : OpRows) (old : Word) (i j : Nat) : AccR :=
  if isMasked cmd i j then { val := maskVal cmd.fmt old }
  else if fmFmt cmd.fmt = 4 then { val := BitVec.ofInt 32 (old.toInt + r.intSum i j) }
  else accumulate (fpRead fmtF32 old.toNat) (List.zipWith fpMulX (r.fa.getD i []) (r.fb.getD j []))

/-- All element indexes of a tile. -/
def tileIdx : List (Nat × Nat) :=
  (List.range 64).flatMap (fun i => (List.range 64).map (fun j => (i, j)))

-- hidden sums (06 R122, R138)

/-- The finite FP32 value of an element in units of 2^-149; others count nothing. -/
def f32Units (w : Word) : Int :=
  match fpRead fmtF32 w.toNat with
  | .fin n m e => sgn n (m * 2 ^ (e + 149).toNat)
  | _ => 0

/-- Both readings of a row or column sum. -/
def sumOf (elems : FMap Word) (ks : List Nat) : Int × Word :=
  ks.foldl (fun t k =>
    let x := fget 0 k elems
    (t.1 + f32Units x, t.2 + x)) (0, 0)

def rowKeys (i : Nat) : List Nat := (List.range 64).map (fun j => 64 * i + j)
def colKeys (j : Nat) : List Nat := (List.range 64).map (fun i => 64 * i + j)

/-- The hidden row and column sums of a tile's elements: rows 0 to 63, columns 64 to 127. -/
def tileSums (elems : FMap Word) : FMap (Int × Word) :=
  (List.range 64).foldl (fun m i =>
    fset (0, 0) (64 + i) (sumOf elems (colKeys i)) (fset (0, 0) i (sumOf elems (rowKeys i)) m)) []

/-- Rows, or columns, whose hidden sums differ from the elements'. -/
def sumsOff (t : Tile) (base : Nat) (keys : Nat → List Nat) : List Nat :=
  (List.range 64).filter (fun i => fget (0, 0) (base + i) t.sums != sumOf t.elems (keys i))

/-- Saturating count of corrections (06 R145). -/
def satCorr (n : Nat) : Nat := min 255 (n + 1)

/-- MATRIX_UNCORRECTABLE (10 R219). -/
def uncorrectable (tile : Nat) : FaultInfo := { code := 0x0E, aux0 := BitVec.ofNat 64 tile }

/-- Poison of a tile (10 R219). -/
def tilePoison (tile : Nat) : FaultInfo :=
  { code := 0x07, cause := 3, aux0 := BitVec.ofNat 64 tile }

/-- A tile becomes poisoned; each warp that arrived for the command has a fault pending (06 R140). -/
def Tile.poison (cause : Nat) (f : FaultInfo) (warps : List Nat) (t : Tile) : Tile :=
  { t with pcause := cause, pinfo := some f,
           pending := t.pending ++ (warps.map (fun w => (w, f))).filter (fun e =>
             !t.pending.any (fun x => x.1 == e.1)) }

/-- Compares a tile with its hidden sums, as TST and a block save do; a single element is corrected
from them (06 R138, R139). The count of corrections is 0 or 1. -/
def Tile.compare (tile : Nat) (warps : List Nat) (t : Tile) : Tile × Nat :=
  match sumsOff t 0 rowKeys, sumsOff t 64 colKeys with
  | [], [] => (t, 0)
  | [i], [j] =>
    let x := fget 0 (64 * i + j) t.elems
    let d := (fget (0, 0) i t.sums).2 - (sumOf t.elems (rowKeys i)).2
    let t' : Tile := { t with elems := fset 0 (64 * i + j) (x + d) t.elems, corr := satCorr t.corr }
    if sumsOff t' 0 rowKeys = [] ∧ sumsOff t' 64 colKeys = [] then (t', 1)
    else (t.poison 2 (uncorrectable tile) warps, 0)
  | _, _ => (t.poison 2 (uncorrectable tile) warps, 0)

-- tiles of a block

def State.tile (s : State) (blk t : Nat) : Tile :=
  match s.block blk with
  | some b => b.tiles.getD t Tile.init
  | none => Tile.init

def State.modTile (blk t : Nat) (f : Tile → Tile) (s : State) : State :=
  s.modBlock blk (fun b => { b with tiles := lput Tile.init t (f (b.tiles.getD t Tile.init)) b.tiles })

/-- A correction adds 1 to the launch's ABFT (06 R139). -/
def State.countAbft (blk n : Nat) (s : State) : State :=
  s.modLaunch (((s.block blk).map (·.launch)).getD 0) (fun L =>
    { L with abft := min (2 ^ 32 - 1) (L.abft + n) })

-- checks at arrival (06 R126)

def dBase (d : BitVec 128) : Nat := bitsOf d.toNat 0 64
def dStride (d : BitVec 128) : Nat := bitsOf d.toNat 64 32
def dSpace (d : BitVec 128) : Nat := bitsOf d.toNat 96 3
def dPin (d : BitVec 128) : Bool := d.getLsbD 99

/-- FORMAT_INVALID (10 R219). -/
def fmtInvalid : FaultInfo := { code := 0x16 }

/-- A reserved field of a descriptor is set, or its space is invalid. -/
def descBad (d : BitVec 128) : Bool :=
  bitsOf d.toNat 100 28 != 0 || decide (3 < dSpace d) ||
    (if dSpace d = 0 then bitsOf d.toNat 55 9 != 0 else bitsOf d.toNat 32 32 != 0)

/-- The format word breaks R126. -/
def fmtBad (op : MOp) (w : Word) : Bool :=
  decide (7 ≤ fmFmt w) || fmMask w == 3 || (fmFmt w != 4 && bitsOf w.toNat 4 2 != 0) ||
    (op == .mma && (fmMask w != 0 || bitsOf w.toNat 18 8 != 0)) ||
    bitsOf w.toNat 28 4 != 0 || bitsOf w.toNat 6 10 != 0

def isMul (op : MOp) : Bool := op == .mma || op == .mmat

/-- The descriptors that a command reads. -/
def opDescs (op : MOp) (da db : BitVec 128) : List (BitVec 128) :=
  match op with
  | .mma | .mmat => [da, db]
  | .tld | .tst => [da]
  | .tzero => []

/-- Bounds of a descriptor's rows (06 R126). -/
def State.descBounds (s : State) (blk row : Nat) (d : BitVec 128) : Option FaultInfo :=
  if dStride d < row then some (boundsFault (dSpace d) (dBase d))
  else if dSpace d = 0 ∨ 3 < dSpace d then none
  else
    match s.scratchPlace blk (dSpace d) (dBase d) (63 * dStride d + row) with
    | .error f => some f
    | .ok _ => none

/-- The checks of R126: the failed one of the lowest code. The row bytes of an invalid format are
not known. -/
def State.matrixCheck (s : State) (c : Ctx) (w : Warp) (op : MOp) (da db : BitVec 128)
    (fmts : List Word) : Option FaultInfo :=
  let fw := fmts.headD 0
  let ds := opDescs op da db
  let al := if isMul op then 8 else 16
  let row := if isMul op then (if 7 ≤ fmFmt fw then none else some (fmRow (fmFmt fw))) else some 256
  let div : List FaultInfo :=
    if !fmts.all (fun x => x == fw) || w.live &&& ~~~c.mask != 0 then [{ code := 0x08 }] else []
  let inv : List FaultInfo :=
    if (isMul op && fmtBad op fw) || ds.any descBad then [fmtInvalid] else []
  let mis := (ds.filter (fun d => dBase d % al != 0 || dStride d % al != 0)).map
    (fun d => misaligned (BitVec.ofNat 64 (dBase d)))
  let bnd := match row with
    | some n => ds.filterMap (fun d => s.descBounds (blkOf c.wid) n d)
    | none => []
  leastFault (div ++ inv ++ mis ++ bnd)

-- pending faults (06 R129, R130, R140)

/-- A fault held for the warp's latch, and the state without it. -/
def State.takeGang (c : Ctx) (s : State) : Option (FaultInfo × State) :=
  match (s.warp c.wid).bind (·.gangFault) with
  | none => none
  | some f => some (f, s.modWarp c.wid (fun w => { w with gangFault := none }))

/-- A fault pending for the warp at a tile, and the state without it. -/
def State.takePending (c : Ctx) (tile : Nat) (s : State) : Option (FaultInfo × State) :=
  match (s.tile (blkOf c.wid) tile).pending.find? (fun e => e.1 == c.wid) with
  | none => none
  | some e => some (e.2, s.modTile (blkOf c.wid) tile (fun t =>
      { t with pending := t.pending.filter (fun x => x.1 != c.wid) }))

/-- A tile specifier at or above TILES (06 R120). -/
def State.tileBad (s : State) (c : Ctx) (tile : Nat) : Bool :=
  match s.block (blkOf c.wid) with
  | some b => decide (b.tiles.length ≤ tile)
  | none => true

-- arrival and dispatch (06 R128, R129, R131)

/-- The other members of a gang that exist, by wid. -/
def State.members (s : State) (wid : Nat) (gang : Mask) : List Nat :=
  (s.warpsOf (blkOf wid)).filter (fun x => x != wid && gang.getLsbD (x % 32))

/-- Places a command in the core's matrix queue. -/
def State.dispatchM (core : Nat) (m : MCmd) (s : State) : State :=
  s.modCore core (fun k => { k with mq := k.mq ++ [m] })

/-- The command of an arrival. -/
def Arrival.cmd (a : Arrival) (id blk : Nat) (warps : List (Nat × Nat)) : MCmd :=
  { id := id, op := a.op, blk := blk, tile := a.tile, da := a.da, db := a.db, fmt := a.fmt,
    warps := warps, priv := a.priv, stage := .queued, abytes := [], bbytes := [], early := [], units := 0,
    gwct := 0, bad := none }

/-- What members compare (06 R129). -/
def Arrival.same (a b : Arrival) : Bool :=
  a.op == b.op && a.tile == b.tile && a.da == b.da && a.db == b.db && a.fmt == b.fmt

/-- The latch discards a gang's arrivals; the other members fault later (06 R129). -/
def State.discardGang (wid : Nat) (others : List Nat) (f : FaultInfo) (s : State) : State :=
  let s := s.modWarp wid (fun w => { w with arrivals := [], arrCount := 0 })
  others.foldl (fun s x => s.modWarp x (fun w =>
    { w with arrivals := [], arrCount := 0, gangFault := some f })) s

/-- A member's arrival (06 R128, R129). -/
def gangArrive (a : Arrival) (w : Warp) (c : Ctx) (s : State) : Res :=
  let n := w.arrCount + 1
  let a : Arrival := { a with ord := n }
  let others := s.members c.wid w.gang
  let arr (x : Nat) : Option Arrival :=
    ((s.warp x).map (·.arrivals)).bind (fun as => as.find? (fun y => y.ord == n))
  let all := decide (others.length + 1 = maskCount w.gang)
  if 4 ≤ w.arrivals.length then Res.wait .latch 0 0 s
  else if all && others.all (fun x => (arr x).isSome) then
    let agree := others.all (fun x =>
      (match arr x with | some y => y.same a | none => false) &&
        ((s.warp x).map (·.gang)) == some w.gang)
    if !agree then
      let f : FaultInfo := { code := 0x08, aux0 := BitVec.ofNat 64 n }
      Res.fault c f (s.discardGang c.wid others f)
    else if 16 ≤ (s.core c.core).mq.length then Res.wait .mqueue 0 0 s
    else
      let ws := (c.wid, a.capt) :: others.map (fun x => (x, ((arr x).map (·.capt)).getD 0))
      -- a gang's command reaches privileged pages when every member arrived so (log entry 46)
      let p := a.priv && others.all (fun x => ((arr x).map (·.priv)).getD false)
      let s := s.dispatchM c.core (({ a with priv := p } : Arrival).cmd s.tick (blkOf c.wid) ws)
      let s := s.modWarp c.wid (fun w => { w with arrCount := n })
      Res.ok (others.foldl (fun s x => s.modWarp x (fun w =>
        { w with arrivals := w.arrivals.filter (fun y => y.ord != n) })) s)
  else Res.ok (s.modWarp c.wid (fun w => { w with arrivals := w.arrivals ++ [a], arrCount := n }))

/-- A matrix command: the fault of the lowest code among its own checks and the pending ones, or its
arrival (06 R126 to R129, R131, R140; 10 R220). -/
def matrixArrive (op : MOp) (tile : Nat) (da db : BitVec 128) (fmts : Warp → List Word) (c : Ctx)
    (s : State) : Res :=
  match s.warp c.wid with
  | none => Res.ok s
  | some w =>
    let t := s.tile (blkOf c.wid) tile
    let uses := op == .tst || isMul op
    let fs := fmts w
    let own : List (FaultInfo × State) :=
      (if s.tileBad c tile then [(boundsFault 0 0, s)] else []) ++ (s.takeGang c).toList ++
      (if uses then
        (match s.takePending c tile with
         | some x => [x]
         | none => (t.pinfo.map (fun f => (f, s))).toList)
       else []) ++
      ((s.matrixCheck c w op da db fs).map (fun f => (f, s))).toList
    match minBy (fun (e : FaultInfo × State) => e.1.code.toNat) own with
    | some (f, s) => Res.fault c f s
    | none =>
      let a : Arrival := { op := op, tile := tile, da := da, db := db, fmt := fs.headD 0, ord := 0,
                           priv := c.inHandler || c.inGraft, capt := (s.core c.core).nextSq }
      if w.gang = 0 then
        if 16 ≤ (s.core c.core).mq.length then Res.wait .mqueue 0 0 s
        else Res.ok (s.dispatchM c.core (a.cmd s.tick (blkOf c.wid) [(c.wid, a.capt)]))
      else gangArrive a w c s

/-- The 128 bits of four uniform registers (06 R123). -/
def State.rdDesc (s : State) (c : Ctx) (u : USpec) : BitVec 128 :=
  match u with
  | .zero => 0
  | u =>
    let r (k : Nat) : Nat := (s.rdUCode c.wid (lowLane c.mask) (USpec.code u + k)).toNat
    BitVec.ofNat 128 (r 0 + 2 ^ 32 * r 1 + 2 ^ 64 * r 2 + 2 ^ 96 * r 3)

/-- The format words of the group's lanes. -/
def laneFmts (f : LSpec) (c : Ctx) (w : Warp) : List Word := (lanesOf c.mask).map (fun l => w.rdL l f)

/-- MMA arrives with both descriptors and its format words (17 R384). -/
def bodyMma (tile : Fin 32) (a b : USpec) (f : LSpec) : Ctx → State → Res :=
  fun c s => matrixArrive .mma tile.val (s.rdDesc c a) (s.rdDesc c b) (laneFmts f c) c s

/-- The meaning of MMA. -/
def execMma (tile : Fin 32) (a b : USpec) (f : LSpec) (s : State) : Host.Outcome State Fault
    Refusal :=
  issue (.mma tile a b f) (bodyMma tile a b f) s

/-- MMAT arrives as MMA, with the triangular mask (17 R384). -/
def bodyMmat (tile : Fin 32) (a b : USpec) (f : LSpec) : Ctx → State → Res :=
  fun c s => matrixArrive .mmat tile.val (s.rdDesc c a) (s.rdDesc c b) (laneFmts f c) c s

/-- The meaning of MMAT. -/
def execMmat (tile : Fin 32) (a b : USpec) (f : LSpec) (s : State) : Host.Outcome State Fault
    Refusal :=
  issue (.mmat tile a b f) (bodyMmat tile a b f) s

/-- TLD arrives with one descriptor (18 R412). -/
def bodyTld (tile : Fin 32) (a : USpec) : Ctx → State → Res :=
  fun c s => matrixArrive .tld tile.val (s.rdDesc c a) 0 (fun _ => []) c s

/-- The meaning of TLD. -/
def execTld (tile : Fin 32) (a : USpec) (s : State) : Host.Outcome State Fault Refusal :=
  issue (.tld tile a) (bodyTld tile a) s

/-- TST arrives with one descriptor (18 R412). -/
def bodyTst (tile : Fin 32) (a : USpec) : Ctx → State → Res :=
  fun c s => matrixArrive .tst tile.val (s.rdDesc c a) 0 (fun _ => []) c s

/-- The meaning of TST. -/
def execTst (tile : Fin 32) (a : USpec) (s : State) : Host.Outcome State Fault Refusal :=
  issue (.tst tile a) (bodyTst tile a) s

/-- TZERO arrives with none (18 R412). -/
def bodyTzero (tile : Fin 32) : Ctx → State → Res :=
  fun c s => matrixArrive .tzero tile.val 0 0 (fun _ => []) c s

/-- The meaning of TZERO. -/
def execTzero (tile : Fin 32) (s : State) : Host.Outcome State Fault Refusal :=
  issue (.tzero tile) (bodyTzero tile) s

/-- GANG: pending faults, the wait for undispatched arrivals, then the new mask (06 R127; 17
R365). -/
def bodyGang (b : USpec) : Ctx → State → Res :=
  fun c s =>
    match s.takeGang c with
    | some (f, s) => Res.fault c f s
    | none =>
      match s.warp c.wid, s.block (blkOf c.wid) with
      | some w, some k =>
        let m := s.rdU c b
        if w.arrivals ≠ [] then Res.wait .gang 0 0 s
        else if m ≠ 0 ∧ (m.getLsbD w.num = false ∨ 2 ^ k.nwarps ≤ m.toNat) then
          Res.fault c (barFault 5 0) s
        else Res.ok (s.modWarp c.wid (fun w => { w with gang := m, arrCount := 0 }))
      | _, _ => Res.ok s

/-- The meaning of GANG. -/
def execGang (b : USpec) (s : State) : Host.Outcome State Fault Refusal :=
  issue (.gang b) (bodyGang b) s

/-- A command for which a TWAIT waits: dispatched when the wait began, or an arrival of its own. -/
def waitsFor (c : Ctx) (tile lim : Nat) (m : MCmd) : Bool :=
  m.blk == blkOf c.wid && m.tile == tile &&
    (decide (m.id < lim) || m.warps.any (fun x => x.1 == c.wid))

/-- TWAIT: waits for the tile's commands, then raises %lwct (06 R142; 18 R412). -/
def bodyTwait (tile : Fin 32) : Ctx → State → Res :=
  fun c s =>
    match s.takeGang c with
    | some (f, s) => Res.fault c f s
    | none =>
      if s.tileBad c tile.val then Res.fault c (boundsFault 0 0) s
      else
        let lim := match c.tag with
          | some t => t.arg
          | none => s.tick + 1
        let own := (((s.warp c.wid).map (·.arrivals)).getD []).any (fun a => a.tile == tile.val)
        if own || (s.core c.core).mq.any (waitsFor c tile.val lim) then Res.wait .twait 0 lim s
        else
          match s.takePending c tile.val with
          | some (f, s) => Res.fault c f s
          | none =>
            let ts := (s.tile (blkOf c.wid) tile.val).tsts.filter (fun x =>
              decide (x.id < lim) || x.warps.contains c.wid)
            let g := (ts.map (·.gwct)).foldl max 0
            Res.ok (s.modWarp c.wid (Warp.raiseLwct g))

/-- The meaning of TWAIT. -/
def execTwait (tile : Fin 32) (s : State) : Host.Outcome State Fault Refusal :=
  issue (.twait tile) (bodyTwait tile) s

/-- Commands that name a tile, dispatched or recorded, and not complete (06 R145). -/
def State.pendCount (s : State) (core blk tile : Nat) : Nat :=
  let q := ((s.core core).mq.filter (fun m => m.blk == blk && m.tile == tile)).length
  let rec' := (s.warpsOf blk).flatMap (fun x =>
    match s.warp x with
    | some w => (w.arrivals.filter (fun a => a.tile == tile)).map (fun a => w.gang.toNat * 2 ^ 32 + a.ord)
    | none => [])
  min 255 (q + (nubNat [] rec').length)

/-- The status word (06 R145). -/
def Tile.status (pend : Nat) (t : Tile) : Word :=
  BitVec.ofNat 32 (t.corr * 2 ^ 24 + pend * 2 ^ 16 + t.pcause * 2 ^ 12 + b2n (t.pcause != 0) * 2 ^ 11 +
    b2n t.nv * 4 + b2n t.ovf * 2 + b2n t.unf)

/-- TSTAT: the status word, and with CLR its sticky parts cleared (06 R145; 18 R412). -/
def bodyTstat (clr : Bool) (d : USpec) (tile : Fin 32) : Ctx → State → Res :=
  fun c s =>
    if s.tileBad c tile.val then Res.fault c (boundsFault 0 0) s
    else
      let t := s.tile (blkOf c.wid) tile.val
      let s := s.wrU c d (t.status (s.pendCount c.core (blkOf c.wid) tile.val))
      Res.ok (if clr then s.modTile (blkOf c.wid) tile.val (fun t =>
        { t with corr := 0, nv := false, ovf := false, unf := false }) else s)

/-- The meaning of TSTAT. -/
def execTstat (clr : Bool) (d : USpec) (tile : Fin 32) (s : State) : Host.Outcome State Fault
    Refusal :=
  issue (.tstat clr d tile) (bodyTstat clr d tile) s

-- execution (06 R131, R133, R134)

/-- Bytes of scratch from an offset of a space, 8-byte unit by unit: a row of `.q` may cross into the next
block's contribution (06 R123; 07 R151). -/
def State.scratchRow (s : State) (blk sp : Nat) : Nat → Nat → Except FaultInfo (List Byte)
  | 0, _ => .ok []
  | k + 1, a =>
    match s.scratchPlace blk sp a 8 with
    | .error f => .error f
    | .ok p =>
      match State.scratchRow s blk sp k (a + 8) with
      | .error f => .error f
      | .ok bs => .ok (s.rdScratch p 8 ++ bs)

/-- The address space through which a block's matrix commands act (07 R161, R162). -/
def State.tileVia (s : State) (m : MCmd) : Via :=
  { asid := s.jAsid ((((s.block m.blk).bind (fun b => s.launch b.launch)).map (·.job)).getD 0),
    die := (((s.block m.blk).map (·.core)).getD 0) / Config.coresPerDie, priv := m.priv }

/-- `n` bytes of an operand at `a` as the tile fetch unit reads them, or cause 1 or 3 with the fault (06
R133, R140). None: held. -/
def State.fetchBytes (s : State) (m : MCmd) (sp a n : Nat) : Option (Except (Nat × FaultInfo) (List Byte)) :=
  if sp = 0 then
    match s.vRead (s.tileVia m) a n with
    | .ok bs => some (.ok bs)
    | .error f =>
      if f = heldFault then none
      else if f.code = 0x05 ∨ f.code = 0x06 then some (.error (3, f))
      else some (.error (1, tilePoison m.tile))
  else
    match s.scratchRow m.blk sp (n / 8) a with
    | .error f => some (.error (3, f))
    | .ok bs => some (.ok bs)

/-- The bytes of a row, units read early as they were then (06 R133). -/
def MCmd.mixed (m : MCmd) (opB : Bool) : Nat → List Byte → List Byte
  | _, [] => []
  | a, b :: r =>
    (match tget (2 * (a / 16) + b2n opB) m.early with
     | some u => u.getD (a % 16) b
     | none => b) :: MCmd.mixed m opB (a + 1) r

/-- A row of an operand. -/
def State.fetchRow (s : State) (m : MCmd) (opB : Bool) (i n : Nat) :
    Option (Except (Nat × FaultInfo) (List Byte)) :=
  let d := if opB then m.db else m.da
  let a := dBase d + i * dStride d
  match s.fetchBytes m (dSpace d) a n with
  | some (.ok bs) => some (.ok (m.mixed opB a bs))
  | x => x

/-- Rows `i` and up of an operand. -/
def State.fetchRows (s : State) (m : MCmd) (opB : Bool) (n : Nat) :
    Nat → Nat → Option (Except (Nat × FaultInfo) (List Byte))
  | 0, _ => some (.ok [])
  | k + 1, i =>
    match s.fetchRow m opB i n with
    | none => none
    | some (.error e) => some (.error e)
    | some (.ok r) =>
      match State.fetchRows s m opB n k (i + 1) with
      | none => none
      | some (.error e) => some (.error e)
      | some (.ok rs) => some (.ok (r ++ rs))

/-- Every access that the members committed before their arrivals has been performed (06 R133). -/
def State.membersDone (s : State) (core : Nat) (m : MCmd) : Bool :=
  (s.core core).sq.all (fun e => !m.warps.any (fun x => x.1 == e.wid && decide (e.id < x.2)))

/-- The lines that `n` bytes at `a` touch, where they translate (06 R134). -/
def State.rowLines (s : State) (v : Via) (a n : Nat) : List Nat :=
  ((List.range ((n + 127) / 128)).map (fun k => a + 128 * k) ++ [a + (n - 1)]).filterMap (fun x =>
    match s.devTranslate v x .read with
    | .ok p => some (p.loc / 128)
    | _ => none)

/-- Lines of an operand in memory. -/
def State.operandLines (s : State) (v : Via) (row : Nat) (d : BitVec 128) : List Nat :=
  if row = 0 then []
  else nubNat [] ((List.range 64).flatMap (fun i => s.rowLines v (dBase d + i * dStride d) row))

/-- Pins or unpins an operand's lines, at most 2,048 a slice (06 R134). -/
def State.pinOperand (m : MCmd) (row : Nat) (d : BitVec 128) (s : State) : State :=
  let own := (m.warps.map Prod.fst).foldl min (2 ^ 64)
  let rest := s.pins.filter (fun p => !(p.blk == m.blk && p.owner == own && p.base == dBase d))
  if dSpace d ≠ 0 then s
  else if !dPin d then { s with pins := rest }
  else
    let held := rest.flatMap (·.lines)
    let new := (s.operandLines (s.tileVia m) row d).foldl (fun ls l =>
      if 2048 ≤ ((held ++ ls).filter (fun x => homeSlice (128 * x) == homeSlice (128 * l))).length then ls
      else ls ++ [l]) []
    { s with pins := rest ++ [{ blk := m.blk, owner := own, base := dBase d, lines := new }] }

/-- Replaces the command at a place of the queue. -/
def State.setM (core idx : Nat) (m : MCmd) (s : State) : State :=
  s.modCore core (fun k => { k with mq := k.mq.set idx m })

/-- The fetch of a command's operands: what it answers goes into the command. None: held. -/
def State.fetchM (s : State) (m : MCmd) : Option MCmd :=
  let row := if isMul m.op then fmRow (fmFmt m.fmt) else 256
  match m.op with
  | .tzero | .tst => some { m with stage := .started }
  | .tld =>
    match s.fetchRows m false row 64 0 with
    | none => none
    | some (.error e) => some { m with stage := .started, bad := some e }
    | some (.ok bs) => some { m with stage := .started, abytes := bs }
  | _ =>
    match s.fetchRows m false row 64 0 with
    | none => none
    | some (.error e) => some { m with stage := .started, bad := some e }
    | some (.ok as) =>
      match s.fetchRows m true row 64 0 with
      | none => none
      | some (.error e) => some { m with stage := .started, bad := some e }
      | some (.ok bs) => some { m with stage := .started, abytes := as, bbytes := bs }

/-- A queued command may start: a unit is free, the earlier commands on its tile and its members' earlier
accesses are done (06 R131, R133). -/
def State.mayStart (s : State) (core idx : Nat) (m : MCmd) : Bool :=
  let q := (s.core core).mq
  let before := (q.take idx).any (fun x => x.blk == m.blk && x.tile == m.tile)
  let busy := (q.filter (fun x => x.stage == .started && isMul x.op == isMul m.op)).length
  m.stage == .queued && !before && s.membersDone core m &&
    decide (busy < (if isMul m.op then 4 else 1))

/-- The tile fetch unit reads the aligned 16-byte unit at `addr` of an operand before the others (06 R133). -/
def evTileFetchUnit (core idx addr : Nat) (opB : Bool) (s : State) : State :=
  match (s.core core).mq[idx]? with
  | none => s
  | some m =>
    if !s.mayStart core idx m || (opB && !isMul m.op) || m.op == .tst || m.op == .tzero then s
    else
      match s.fetchBytes m (dSpace (if opB then m.db else m.da)) (addr / 16 * 16) 16 with
      | some (.ok bs) => s.setM core idx { m with early := tset (2 * (addr / 16) + b2n opB) bs m.early }
      | _ => s

/-- MATRIX_START: a queued command starts on a free unit, or the tile fetch unit, after the
earlier commands on its tile, and its operands are fetched (06 R131, R133). -/
def evMatrixStart (core idx : Nat) (s : State) : State :=
  match (s.core core).mq[idx]? with
  | none => s
  | some m =>
    if !s.mayStart core idx m then s
    else
      match s.fetchM m with
      | none => s
      | some m' =>
        let row := if isMul m.op then fmRow (fmFmt m.fmt) else 256
        let ds := match m.op with
          | .tst => []
          | op => opDescs op m.da m.db
        (ds.foldl (fun s d => s.pinOperand m row d) s).setM core idx m'

/-- The meaning of MATRIX_START. -/
def execMatrixStart (core idx : Nat) (s : State) : Host.Outcome State Fault Refusal :=
  .next (evMatrixStart core idx s).finish

/-- A command is complete: it leaves the queue (06 R131). -/
def State.doneM (core idx : Nat) (s : State) : State :=
  State.sweep (s.modCore core (fun k => { k with mq := k.mq.eraseIdx idx }))

-- the check array (06 R137 to R139)

/-- An exact value in units of 2^-400. -/
def units400 : Fv → Int
  | .fin n m e => sgn n (m * 2 ^ (e + 400).toNat)
  | _ => 0

def isFinite : Fv → Bool
  | .nan _ => false
  | .inf _ => false
  | _ => true

/-- What the check array compares for one element: whether it is checked directly, and its terms
O, P and Mag. -/
structure ChkElem where
  direct : Bool
  o : Int
  p : Int
  mag : Int

/-- The check terms of element (i, j) (06 R137). -/
def chkElem (cmd : MCmd) (r : OpRows) (old new : Word) (i j : Nat) : ChkElem :=
  if isMasked cmd i j then { direct := true, o := 0, p := 0, mag := 0 }
  else if fmFmt cmd.fmt = 4 then
    { direct := false, o := new.toInt, p := old.toInt + r.intSum i j, mag := 0 }
  else
    let x := fpRead fmtF32 old.toNat
    let y := fpRead fmtF32 new.toNat
    let as := r.fa.getD i []
    let bs := r.fb.getD j []
    if !(isFinite x && isFinite y && as.all isFinite && bs.all isFinite) then
      { direct := true, o := 0, p := 0, mag := 0 }
    else
      let ts := units400 x :: List.zipWith (fun a b =>
        match fpMulX a b with | some v => units400 v | none => 0) as bs
      { direct := false, o := units400 y, p := ts.sum, mag := (ts.map (fun t => (t.natAbs : Int))).sum }

/-- A difference exceeds 2^-20 Mag + 2^-120, in units of 2^-400 (06 R137). -/
def offBy (mag d : Nat) : Bool := decide (mag + 2 ^ 280 * 2 ^ 20 < d * 2 ^ 20)

/-- A row or column of sum-checked elements fails (06 R137). -/
def sumFails (f : Nat) (es : List ChkElem) : Bool :=
  let es := es.filter (fun e => !e.direct)
  let o : Int := (es.map (·.o)).sum
  let p : Int := (es.map (·.p)).sum
  let mag : Int := (es.map (·.mag)).sum
  if f = 4 then wrapInt 32 (o - p) != 0
  else offBy mag.toNat (o - p).natAbs

/-- What the array finds: failing direct checks, rows and columns. -/
def findings (cmd : MCmd) (r : OpRows) (old new good : Nat → Nat → Word) :
    List (Nat × Nat) × List Nat × List Nat :=
  let g := (List.range 64).map (fun i => (List.range 64).map (fun j =>
    chkElem cmd r (old i j) (new i j) i j))
  let at' (i j : Nat) : ChkElem := (g.getD i []).getD j { direct := true, o := 0, p := 0, mag := 0 }
  let f := fmFmt cmd.fmt
  (tileIdx.filter (fun e => (at' e.1 e.2).direct && new e.1 e.2 != good e.1 e.2),
   (List.range 64).filter (fun i => sumFails f ((List.range 64).map (at' i))),
   (List.range 64).filter (fun j => sumFails f ((List.range 64).map (fun i => at' i j))))

/-- Writes all elements of a tile. -/
def elemsOf (v : Nat → Nat → Word) : FMap Word :=
  (tileIdx.map (fun e => (64 * e.1 + e.2, v e.1 e.2))).filter (fun e => e.2 != 0)

/-- A completed multiplication: the unit's result with its deviations, checked and corrected, or
the tile poisoned (06 R137 to R140). The count is of corrections. -/
def mulResult (cmd : MCmd) (dev : List Deviation) (recheckOk : Bool) (t : Tile) : Tile × Nat :=
  let r := cmd.rows
  let was := tileIdx.map (fun e => fget 0 (64 * e.1 + e.2) t.elems)
  let old (i j : Nat) : Word := was.getD (64 * i + j) 0
  let rs := (List.range 64).map (fun i => (List.range 64).map (fun j => mmaElem cmd r (old i j) i j))
  let at' (i j : Nat) : AccR := (rs.getD i []).getD j { val := 0 }
  let good (i j : Nat) : Word := (at' i j).val
  let new (i j : Nat) : Word :=
    match dev.find? (fun d => d.row.val == i && d.col.val == j) with
    | some d => d.val
    | none => good i j
  let fix (x y : Nat) (i j : Nat) : Word := if i = x ∧ j = y then good i j else new i j
  let fl (p : AccR → Bool) : Bool := rs.any (fun r => r.any p)
  let t : Tile := { t with nv := t.nv || fl (·.nv), ovf := t.ovf || fl (·.ovf),
                           unf := t.unf || fl (·.unf) }
  let fin (v : Nat → Nat → Word) (n : Nat) : Tile × Nat :=
    let e := elemsOf v
    ({ t with elems := e, sums := tileSums e, corr := if n = 0 then t.corr else satCorr t.corr }, n)
  let dead : Tile × Nat :=
    (Tile.poison 2 (uncorrectable cmd.tile) (cmd.warps.map Prod.fst) { t with elems := elemsOf new }, 0)
  match findings cmd r old new good with
  | ([], [], []) => fin new 0
  | ([e], [], []) => fin (fix e.1 e.2) 1
  | ([], [i], [j]) =>
    let r := findings cmd r old (fix i j) good
    if recheckOk && !r.2.1.contains i && !r.2.2.contains j then fin (fix i j) 1 else dead
  | _ => dead

/-- MATRIX_CHECK: a unit has finished a multiplication, with what it delivered wrong, and the
check array decides (06 R137 to R140). -/
def evMatrixCheck (core idx : Nat) (dev : List Deviation) (recheckOk : Bool) (s : State) : State
    :=
  match (s.core core).mq[idx]? with
  | none => s
  | some m =>
    if m.stage != .started || !isMul m.op then s
    else
      let t := s.tile m.blk m.tile
      let ws := m.warps.map Prod.fst
      let (t', n) : Tile × Nat :=
        match t.pinfo, m.bad with
        | some f, _ => (t.poison t.pcause f ws, 0)
        | none, some e => (t.poison e.1 e.2 ws, 0)
        | none, none => mulResult m dev recheckOk t
      ((s.modTile m.blk m.tile (fun _ => t')).countAbft m.blk n).doneM core idx

/-- The meaning of MATRIX_CHECK. -/
def execMatrixCheck (core idx : Nat) (dev : List Deviation) (recheckOk : Bool) (s : State) :
    Host.Outcome State Fault Refusal :=
  .next (evMatrixCheck core idx dev recheckOk s).finish

-- transfers (06 R138, R141)

/-- Writes the bytes of a row of scratch, 8-byte unit by unit (06 R123; 07 R151). -/
def State.scratchStore (blk sp : Nat) : Nat → Nat → List Byte → State → Except FaultInfo State
  | 0, _, _, s => .ok s
  | k + 1, a, bs, s =>
    match s.scratchPlace blk sp a 8 with
    | .error f => .error f
    | .ok p => State.scratchStore blk sp k (a + 8) (bs.drop 8) (s.wrScratch p (bs.take 8))

/-- Bytes of row `i` of a tile. -/
def Tile.rowBytes (t : Tile) (i : Nat) : List Byte :=
  (rowKeys i).flatMap (fun e => natLe 4 (fget 0 e t.elems).toNat)

/-- Writes `n` bytes from byte `o` of row `i` of a TST: nothing of a row that faults or is held is written (06
R141). -/
def State.storePart (m : MCmd) (t : Tile) (i o n : Nat) (s : State) : Except FaultInfo Nat × State :=
  let bs := ((t.rowBytes i).drop o).take n
  let a := dBase m.da + i * dStride m.da
  if dSpace m.da = 0 then
    match s.devPlaces (s.tileVia m) a 18 256 with
    | .error f => (.error f, s)
    | .ok _ => s.vWrite (s.tileVia m) (a + o) bs
  else
    match State.scratchStore m.blk (dSpace m.da) (n / 8) (a + o) bs s with
    | .error f => (.error f, s)
    | .ok t => (.ok s.gtime, t)

/-- Writes a tile's rows from row `i` on, row `i` from byte `o`: the largest GWCT, and the fault that
ended it. None: held. -/
def State.storeRows (m : MCmd) (t : Tile) :
    Nat → Nat → Nat → Nat → State → Option (Option FaultInfo × Nat × State)
  | 0, _, _, g, s => some (none, g, s)
  | k + 1, i, o, g, s =>
    match s.storePart m t i o (256 - o) with
    | (.ok g', s) => State.storeRows m t k (i + 1) 0 (max g g') s
    | (.error f, s) => if f = heldFault then none else some (some f, g, s)

/-- The GWCTs of a TST's writes are kept for the warps that wait for it (06 R141, R142). -/
def State.keepTst (m : MCmd) (g : Nat) (s : State) : State :=
  let lid := ((s.block m.blk).map (·.launch)).getD 0
  let d : TstDone := { id := m.id, warps := m.warps.map Prod.fst, gwct := g }
  (s.modTile m.blk m.tile (fun t => { t with tsts := t.tsts ++ [d] })).modLaunch lid
    (fun L => { L with lastGwct := max L.lastGwct g })

/-- The tile as a TST reads it: compared with its hidden sums, corrected or poisoned (06 R138, R139). -/
def State.checkTile (m : MCmd) (s : State) : State :=
  let (t', n) := (s.tile m.blk m.tile).compare m.tile (m.warps.map Prod.fst)
  (s.modTile m.blk m.tile (fun _ => t')).countAbft m.blk n

/-- A TST's rows are written: its GWCT is kept, or its fault is pending (06 R141, R142). -/
def State.storeTile (core idx : Nat) (m : MCmd) (s : State) : State :=
  let ws := m.warps.map Prod.fst
  match (s.tile m.blk m.tile).pinfo with
  | some f => (s.modTile m.blk m.tile (fun t => t.poison t.pcause f ws)).doneM core idx
  | none =>
    let s1 := s.checkTile m
    let t := s1.tile m.blk m.tile
    if t.pcause ≠ 0 then s1.doneM core idx
    else
      match s1.storeRows m t (64 - m.units / 16) (m.units / 16) (16 * (m.units % 16)) m.gwct with
      | none => s
      | some (some f, g, s2) =>
        ((s2.modTile m.blk m.tile (fun t =>
          { t with pending := t.pending ++ (ws.map (fun w => (w, f))) })).keepTst m g).doneM core idx
      | some (none, g, s2) => (s2.keepTst m g).doneM core idx

/-- The tile fetch unit writes the next 16-byte unit of a TST before the others (06 R141). -/
def evTileStoreUnit (core idx : Nat) (s : State) : State :=
  match (s.core core).mq[idx]? with
  | none => s
  | some m =>
    if m.stage != .started || m.op != .tst || 1024 ≤ m.units || (s.tile m.blk m.tile).pinfo.isSome then s
    else
      let s1 := s.checkTile m
      let t := s1.tile m.blk m.tile
      if t.pcause ≠ 0 then s1
      else
        match s1.storePart m t (m.units / 16) (16 * (m.units % 16)) 16 with
        | (.error _, _) => s
        | (.ok g, s2) => s2.setM core idx { m with units := m.units + 1, gwct := max m.gwct g }

/-- An ECC error in a tile poisons it; no command failed, so no warp has a fault pending (06 R122, R140). -/
def evTileEcc (blk tile : Nat) (s : State) : State :=
  if ((s.block blk).map (fun b => b.tiles.length)).getD 0 ≤ tile then s
  else s.modTile blk tile (Tile.poison 2 (uncorrectable tile) [])

/-- TILE_TRANSFER_COMPLETE: the tile fetch unit finishes a TLD, TST or TZERO (06 R141). -/
def evTileTransferComplete (core idx : Nat) (s : State) : State :=
  match (s.core core).mq[idx]? with
  | none => s
  | some m =>
    if m.stage != .started || isMul m.op then s
    else
      match m.op with
      | .tst => s.storeTile core idx m
      | .tld =>
        match m.bad with
        | some e => (s.modTile m.blk m.tile (Tile.poison e.1 e.2 (m.warps.map Prod.fst))).doneM core idx
        | none =>
          let e := (List.range 4096).foldl (fun x k =>
            fset 0 k (BitVec.ofNat 32 (leNat ((m.abytes.drop (4 * k)).take 4))) x) []
          (s.modTile m.blk m.tile (fun t =>
            { Tile.init with elems := e, sums := tileSums e, tsts := t.tsts })).doneM core idx
      | _ => (s.modTile m.blk m.tile (fun t => { Tile.init with tsts := t.tsts })).doneM core idx

/-- The meaning of TILE_TRANSFER_COMPLETE. -/
def execTileTransferComplete (core idx : Nat) (s : State) : Host.Outcome State Fault Refusal :=
  .next (evTileTransferComplete core idx s).finish

end Sys2Proof.Machine
end

