-- ==== Sys2Proof/Machine/System.lean ====
section
/-!
DEFINITION. Control registers, allotments, device-side launches and cancels, service calls, remote
acquires and checkpoints (01 R28, R31; 03 R73, R78; 08 R200; 10 R225, R232 to R236; 11 R257, R261,
R264; 16 R344, R346; 17 R374, R375; 18 R395 to R397, R401, R419).
-/

set_option Elab.async false

namespace Sys2Proof.Machine

-- control registers (18 R396, R397)

/-- %chkmode of a warp; LEVEL is the level in force for it (01 R28, R34). -/
def Warp.chkmode (w : Warp) : Nat :=
  2 * b2n w.score + 4 * b2n w.ilk + 8 * b2n w.hdrilk + 16 * b2n w.effilk + 32 * w.level

/-- %mismatch of a core (01 R31). -/
def Core.mismatch (k : Core) : Nat :=
  k.mmSoft + 2 ^ 16 * k.mmOperand + 2 ^ 32 * k.mmResult + 2 ^ 48 * k.mmValue

/-- Offset of a job's capability-list address (11 R264). -/
def capOff (j : Nat) : Nat := 0x201000 + 8 * j

/-- The value of a control register as a number (18 R396). -/
def State.rdCtl (s : State) (c : Ctx) (w : Warp) : CtlReg → Nat
  | .fpflags => ((lanesOf c.mask).foldl (fun f l => f ||| (w.lane l).fpf) (0 : BitVec 5)).toNat
  | .chkmode => w.chkmode
  | .lwct => w.lwct
  | .trapbase => ((s.launchOf c.wid).map (fun L => L.trapbase.toNat)).getD 0
  | .grovebase => (fget 0 (s.jobOf c.wid) s.grovebase).toNat
  | .callq => (fget 0 (s.jobOf c.wid) s.callq).toNat
  | .asid => s.asidOf c.wid
  | .ctxsave => (s.reg64 (saOff (s.jobOf c.wid))).toNat +
      2 ^ 64 * (s.reg64 (saOff (s.jobOf c.wid) + 8)).toNat
  | .capbase => (s.reg64 (capOff (s.jobOf c.wid))).toNat
  | .mismatch => (s.core c.core).mismatch
  | .graftgen => (s.graftOf c.gen).gen % 2 ^ 16 + 2 ^ 16 * (s.graftOf c.gen).imgver

/-- Writes the 32-bit parts of a value to consecutive uniform registers. -/
def State.putU (c : Ctx) : Nat → USpec → Nat → State → State
  | 0, _, _, s => s
  | n + 1, u, x, s =>
    let s := s.wrU c u (BitVec.ofNat 32 x)
    match u with
    | .s k => if h : k.val + 1 < 112 then State.putU c n (.s ⟨k.val + 1, h⟩) (x / 2 ^ 32) s else s
    | _ => s

/-- RDCTL returns the value in force at its commit (18 R397). -/
def bodyRdctl (d : USpec) (r : CtlReg) : Ctx → State → Res :=
  fun c s =>
    match s.warp c.wid with
    | none => Res.ok s
    | some w => Res.ok (s.putU c r.wide d (s.rdCtl c w r))

/-- The meaning of RDCTL. -/
def execRdctl (d : USpec) (r : CtlReg) (s : State) : Host.Outcome State Fault Refusal :=
  issue (.rdctl d r) (bodyRdctl d r) s

/-- Drops every cached grove entry of an address space (09 R207). -/
def State.dropGrove (asid : Nat) (s : State) : State :=
  { s with grove := s.grove.filter (fun e => e.asid != asid) }

/-- Reserved bits of the writable 64-bit control registers (09 R202; 10 R225, R232). -/
def ctlReserved : CtlReg → DWord
  | .trapbase => 0xFF80000000000002
  | .grovebase => 0xFF800000000001FE
  | .callq => 0xFF80000000000E0E
  | _ => 0

/-- WRCTL writes %fpflags, %chkmode, %trapbase, %grovebase or %callq; the rest are privileged (18
R396, R397). -/
def bodyWrctl (r : CtlReg) (a : USpec) : Ctx → State → Res :=
  fun c s =>
    let x := s.rdU64 c a
    let y := s.rdU c a
    if x &&& ctlReserved r ≠ 0 ∧ ctlReserved r ≠ 0 then Res.fault c illEnc s
    else
      match r with
      | .fpflags => Res.ok (s.modWarp c.wid (fun w =>
          w.modLanes c.mask (fun l => { l with fpf := y.setWidth 5 })))
      | .chkmode => Res.ok (s.modWarp c.wid (fun w =>
          { w with ilk := y.getLsbD 2, score := y.getLsbD 1 }))
      | .trapbase => Res.ok (s.modLaunch (((s.block (blkOf c.wid)).map (·.launch)).getD 0)
          (fun L => { L with trapbase := x }))
      | .grovebase => Res.ok (State.dropGrove (s.asidOf c.wid)
          { s with grovebase := fset 0 (s.jobOf c.wid) x s.grovebase })
      | .callq => Res.ok { s with callq := fset 0 (s.jobOf c.wid) x s.callq }
      | _ => Res.fault c privFault s

/-- The meaning of WRCTL. -/
def execWrctl (r : CtlReg) (a : USpec) (s : State) : Host.Outcome State Fault Refusal :=
  issue (.wrctl r a) (bodyWrctl r a) s

-- allotments (03 R78, R79; 18 R401)

/-- A warp's allotment becomes `a`: registers added are zero, registers lost are discarded. -/
def Warp.allot (a : Nat) (w : Warp) : Warp :=
  let lo := 32 * min a w.vregs
  let out (k : Nat) : Bool := decide (lo ≤ k) && decide (k < 3584)
  { w with vregs := a, v := feraseIf out w.v, bad := w.bad.filter (fun k => !out k) }

/-- Blocked requests of a partition that have no answer, in order. -/
def State.growQueue (s : State) (core p : Nat) : List GrowReq :=
  (s.core core).grow.filter (fun g => g.part == p && g.answer.isNone)

/-- A request fits the free warp-registers of its partition. -/
def State.growFits (s : State) (core : Nat) (g : GrowReq) : Bool :=
  match s.warp g.wid with
  | some w => decide (g.want ≤ w.vregs + s.freeRegs core g.part)
  | none => false

/-- Answers a request; a grant changes the allotment. -/
def State.growAnswer (core : Nat) (g : GrowReq) (ok : Bool) (s : State) : State :=
  let s := s.modCore core (fun k => { k with grow := k.grow.map (fun x =>
    if x.who = g.who then { x with answer := some ok } else x) })
  (if ok then s.modWarp g.wid (Warp.allot g.want) else s).unskip

/-- REGGROW raises the warp's allotment, at once, when granted, or not at all (18 R401; 03 R78).
-/
def bodyReggrow (n : Fin 8) (v : Fin 16) : Ctx → State → Res :=
  fun c s =>
    match s.warp c.wid with
    | none => Res.ok s
    | some w =>
      let done (b : Bool) (s : State) : Res :=
        Res.ok (s.modWarp c.wid (Warp.wrG (lowLane c.mask) n.val b))
      let want := 8 * v.val
      match (s.core c.core).grow.find? (fun g => g.who == c.who) with
      | some g =>
        match g.answer with
        | none => Res.wait .reggrow 0 0 s
        | some b => done b (s.modCore c.core (fun k =>
            { k with grow := k.grow.filter (fun x => x.who != c.who) }))
      | none =>
        if want ≤ w.vregs then done true s
        else
          let g : GrowReq := { who := c.who, wid := c.wid, part := c.part, want := want, answer := none }
          if s.growQueue c.core c.part = [] ∧ s.growFits c.core g then
            done true (s.modWarp c.wid (Warp.allot want))
          else Res.wait .reggrow 0 0 (s.modCore c.core (fun k => { k with grow := k.grow ++ [g] }))

/-- The meaning of REGGROW. -/
def execReggrow (n : Fin 8) (v : Fin 16) (s : State) : Host.Outcome State Fault Refusal :=
  issue (.reggrow n v) (bodyReggrow n v) s

/-- REGSHR returns registers (18 R401). -/
def bodyRegshr (v : Fin 16) : Ctx → State → Res :=
  fun c s =>
    match s.warp c.wid with
    | none => Res.ok s
    | some w =>
      if w.vregs < 8 * v.val then Res.fault c illEnc s
      else Res.ok ((s.modWarp c.wid (Warp.allot (8 * v.val))).unskip)

/-- The meaning of REGSHR. -/
def execRegshr (v : Fin 16) (s : State) : Host.Outcome State Fault Refusal :=
  issue (.regshr v) (bodyRegshr v) s

/-- REGGROW_GRANT: the oldest blocked request of a partition is granted when it fits (03 R78). -/
def evReggrowGrant (core part : Nat) (s : State) : State :=
  match s.growQueue core part with
  | [] => s
  | g :: _ => if s.growFits core g then s.growAnswer core g true else s

/-- The meaning of REGGROW_GRANT. -/
def execReggrowGrant (core part : Nat) (s : State) : Host.Outcome State Fault Refusal :=
  .next (evReggrowGrant core part s).finish

/-- REGGROW_FAIL: the oldest blocked request fails, unless it is granted in that cycle (03 R79).
When 1,024 cycles have passed without a commit is the schedule's (log entry 1). -/
def evReggrowFail (core part : Nat) (s : State) : State :=
  match s.growQueue core part with
  | [] => s
  | g :: _ => s.growAnswer core g (s.growFits core g)

/-- The meaning of REGGROW_FAIL. -/
def execReggrowFail (core part : Nat) (s : State) : Host.Outcome State Fault Refusal :=
  .next (evReggrowFail core part s).finish

-- device-side launches and cancels

/-- Puts an accepted launch, with its graph slot, into its graph (02 R53; 03 R66). -/
def State.putLaunch (l : Launch) (s : State) : State :=
  { s with launches := tset l.id l s.launches, nextLaunch := s.nextLaunch + 1,
           slotsUsed := s.slotsUsed + 1 }

/-- LAUNCH places a node of the issuing launch's graph (03 R73; 17 R374, R375). -/
def bodyLaunch (tail : Bool) (d a : USpec) : Ctx → State → Res :=
  fun c s =>
    let va := s.rdU64 c a
    if va.toNat % 128 ≠ 0 then Res.fault c (misaligned va) s
    else withRelease .pkg (fun c s =>
      match s.launchOf c.wid with
      | none => Res.ok s
      | some P =>
        if Config.graphSlots ≤ s.slotsUsed then Res.wait .launch 0 0 s
        else
          let off := s.jState P.job == 3 ||
            ((tget P.graph s.graphs).map (·.cancelled)).getD false
          let l := { Launch.new s.nextLaunch P.job P.queue none P.graph P.phase with
            checked := true, tailOf := if tail then some P.id else none, parent := some P.id }
          match s.accept l va.toNat off with
          | none => Res.wait .launch 0 0 s
          | some l =>
            let s := (s.putLaunch l).modGraph P.graph (fun g => { g with left := g.left + 1 })
            Res.ok (s.wrU64 c d (BitVec.ofNat 64 l.id))) c s

/-- The meaning of LAUNCH. -/
def execLaunch (tail : Bool) (d a : USpec) (s : State) : Host.Outcome State Fault Refusal :=
  issue (.launch tail d a) (bodyLaunch tail d a) s

/-- CANCEL cancels the launch, graph, phase or job of the issuing warp (16 R344). -/
def bodyCancel (level : CancelLevel) : Ctx → State → Res :=
  fun c s =>
    match s.launchOf c.wid with
    | none => Res.ok s
    | some L =>
      Res.ok (match level with
        | .launch => s.cancelLaunch L.id
        | .graph => s.cancelGraph L.graph
        | .phase => s.cancelPhase L.job L.phase
        | .job => s.cancelJob L.job)

/-- The meaning of CANCEL. -/
def execCancel (level : CancelLevel) (s : State) : Host.Outcome State Fault Refusal :=
  issue (.cancel level) (bodyCancel level) s

-- calls (10 R232 to R234; 18 R419)

/-- The call captured at commit. -/
def State.wcallRec (s : State) (c : Ctx) (w : Warp) (L : Launch) (base : DWord) (q : LSpec)
    (svc : BitVec 16) : WcallRec :=
  { here := 9, job := L.job, launch := L.id, block := ((s.block (blkOf c.wid)).map (fun b => b.num L)).getD 0,
    base := base, wid := c.wid, mask := c.mask, svc := svc, warpNum := w.warpNo (lowLane c.mask),
    reqs := (lanesOf c.mask).map (fun l =>
      (l, (List.range 4).map (fun k => w.rdL l (LSpec.plus q k)))), phase := 0,
    sq := (s.core c.core).nextSq, time := 0, n := 0 }

/-- WCALL stores 0 to DONE and queues the call (10 R234; 18 R419). -/
def bodyWcall (base : USpec) (q : LSpec) (svc : BitVec 16) : Ctx → State → Res :=
  fun c s =>
    match s.warp c.wid, s.launchOf c.wid with
    | some w, some L =>
      let b := s.rdU64 c base
      if !(fget 0 L.job s.callq).getLsbD 0 then Res.fault c { code := 0x16 } s
      else if b.toNat % 1024 ≠ 0 then Res.fault c (misaligned b) s
      else
        match s.reach c (lowLane c.mask) .g b 8 .write with
        | .error f => if f = heldFault then Res.wait .strong 0 0 s else Res.fault c f s
        | .ok ps =>
          match s.placeEntry c.core L.job (.wcall (s.wcallRec c w L b q svc)) with
          | .error f => if f = heldFault then Res.wait .spill 0 0 s else Res.fault c f s
          | .ok s =>
            let s := s.recheckMeet c.core c.wid none (touches [(lowLane c.mask, ps)])
            Res.ok (s.storeWrites c true (cutWrites (lowLane c.mask) ps (List.replicate 8 0)))
    | _, _ => Res.ok s

/-- The meaning of WCALL. -/
def execWcall (base : USpec) (q : LSpec) (svc : BitVec 16) (s : State) : Host.Outcome State Fault
    Refusal :=
  issue (.wcall base q svc) (bodyWcall base q svc) s

-- remote acquires and checkpoints

/-- Sends the request of a remote acquire, unless the number names no core (08 R200). -/
def racqSend (n : Nat) (c : Ctx) (s : State) : Res :=
  if Config.cores ≤ n || (s.core n).disabled then Res.ok (s.acquire c.core c.wid .pkg)
  else
    let r : RacqReq := { who := c.who, wid := c.wid, ids := (s.core n).sq.map (·.id), time := s.lastGwct }
    Res.wait .racq 1 n (s.modCore n (fun k => { k with racq := k.racq ++ [r] }))

/-- RACQ: RemoteAcquire, once for the group (08 R200; 18 R395). -/
def bodyRacq (b : USpec) : Ctx → State → Res :=
  fun c s =>
    let n := (s.rdU c b).toNat
    match c.tag with
    | some t =>
      if t.why = .racq then
        if (s.core t.arg).racq.any (fun r => r.who == c.who) then Res.wait .racq 1 t.arg s
        else Res.ok (s.acquire c.core c.wid .pkg)
      else withRelease .pkg (racqSend n) c s
    | none => withRelease .pkg (racqSend n) c s

/-- The meaning of RACQ. -/
def execRacq (b : USpec) (s : State) : Host.Outcome State Fault Refusal :=
  issue (.racq b) (bodyRacq b) s

/-- CKPT requests a new undo-log interval and commits once it has begun (12 R288; 16 R346). -/
def bodyCkpt  : Ctx → State → Res :=
  fun c s =>
    match c.tag with
    | some t => if t.arg < s.interval then Res.ok s else Res.wait .ckpt 0 t.arg s
    | none =>
      if s.regF 0x280008 0 2 = 3 then
        Res.wait .ckpt 0 s.interval { s with undoStarting := some s.gtime }
      else Res.ok s

/-- The meaning of CKPT. -/
def execCkpt  (s : State) : Host.Outcome State Fault Refusal :=
  issue .ckpt bodyCkpt s

/-- SUCC reached natively raises ILLEGAL_OPCODE (11 R261; 15 R326). -/
def bodySucc (_kind : Fin 4) (_flag : Fin 8) (_low : BitVec 19) (_seg0 _seg1 : Word) : Ctx → State
    → Res :=
  fun c s => Res.fault c { code := 0x01 } s

/-- The meaning of SUCC. -/
def execSucc (kind : Fin 4) (flag : Fin 8) (low : BitVec 19) (seg0 seg1 : Word) (s : State) :
    Host.Outcome State Fault Refusal :=
  issue (.succ kind flag low seg0 seg1) (bodySucc kind flag low seg0 seg1) s

end Sys2Proof.Machine
end

