-- ==== Sys2Proof/Machine/Uniform.lean ====
section
/-!
DEFINITION. The uniform ALU: each instruction executes once for its group (16 R329; 18 R414).
-/

set_option Elab.async false

namespace Sys2Proof.Machine

def bodyUInt (op : IntOp) (sat : Bool) (ty : ITy) (d a b : USpec) : Ctx → State → Res :=
  uniAlu ty.wide64 d (fun s c =>
    intAlu op sat ty (s.rdUW c ty.wide64 a) (s.rdUW c ty.wide64 b))

def bodyULogic (op : LogicOp) (wd : Width) (d a : USpec) (b : USrc) : Ctx → State → Res :=
  uniAlu wd.is64 d (fun s c => logicAlu op (s.rdUW c wd.is64 a) (srcU s c wd.is64 b))

def bodyUShift (op : ShiftOp) (wd : Width) (d a : USpec) (b : USrc) : Ctx → State → Res :=
  uniAlu wd.is64 d (fun s c =>
    shiftAlu op (if wd.is64 then 64 else 32) (s.rdUW c wd.is64 a) (srcU s c false b))

/-- UADD (18 R414, as 17 R368). -/
def bodyUadd (sat : Bool) (ty : ITy) (d a b : USpec) : Ctx → State → Res :=
  bodyUInt .add sat ty d a b

/-- The meaning of UADD. -/
def execUadd (sat : Bool) (ty : ITy) (d a b : USpec) (s : State) : Host.Outcome State Fault
    Refusal :=
  issue (.uadd sat ty d a b) (bodyUadd sat ty d a b) s

/-- USUB (18 R414, as 17 R368). -/
def bodyUsub (sat : Bool) (ty : ITy) (d a b : USpec) : Ctx → State → Res :=
  bodyUInt .sub sat ty d a b

/-- The meaning of USUB. -/
def execUsub (sat : Bool) (ty : ITy) (d a b : USpec) (s : State) : Host.Outcome State Fault
    Refusal :=
  issue (.usub sat ty d a b) (bodyUsub sat ty d a b) s

/-- UMUL (18 R414, as 17 R368). -/
def bodyUmul (sat : Bool) (ty : ITy) (d a b : USpec) : Ctx → State → Res :=
  bodyUInt .mul sat ty d a b

/-- The meaning of UMUL. -/
def execUmul (sat : Bool) (ty : ITy) (d a b : USpec) (s : State) : Host.Outcome State Fault
    Refusal :=
  issue (.umul sat ty d a b) (bodyUmul sat ty d a b) s

/-- UMAD (18 R414, as 17 R371). -/
def bodyUmad (sat : Bool) (ty : ITy) (d a b c : USpec) : Ctx → State → Res :=
  uniAlu ty.wide64 d (fun s x =>
    intMad sat ty (s.rdUW x ty.wide64 a) (s.rdUW x ty.wide64 b) (s.rdUW x ty.wide64 c))

/-- The meaning of UMAD. -/
def execUmad (sat : Bool) (ty : ITy) (d a b c : USpec) (s : State) : Host.Outcome State Fault
    Refusal :=
  issue (.umad sat ty d a b c) (bodyUmad sat ty d a b c) s

/-- UAND (18 R414, as 16 R330). -/
def bodyUand (w : Width) (d a : USpec) (b : USrc) : Ctx → State → Res :=
  bodyULogic .and w d a b

/-- The meaning of UAND. -/
def execUand (w : Width) (d a : USpec) (b : USrc) (s : State) : Host.Outcome State Fault Refusal
    :=
  issue (.uand w d a b) (bodyUand w d a b) s

/-- UOR (18 R414, as 16 R330). -/
def bodyUor (w : Width) (d a : USpec) (b : USrc) : Ctx → State → Res :=
  bodyULogic .or w d a b

/-- The meaning of UOR. -/
def execUor (w : Width) (d a : USpec) (b : USrc) (s : State) : Host.Outcome State Fault Refusal :=
  issue (.uor w d a b) (bodyUor w d a b) s

/-- UXOR (18 R414, as 16 R330). -/
def bodyUxor (w : Width) (d a : USpec) (b : USrc) : Ctx → State → Res :=
  bodyULogic .xor w d a b

/-- The meaning of UXOR. -/
def execUxor (w : Width) (d a : USpec) (b : USrc) (s : State) : Host.Outcome State Fault Refusal
    :=
  issue (.uxor w d a b) (bodyUxor w d a b) s

/-- USHL (18 R414, as 18 R406). -/
def bodyUshl (w : Width) (d a : USpec) (b : USrc) : Ctx → State → Res :=
  bodyUShift .shl w d a b

/-- The meaning of USHL. -/
def execUshl (w : Width) (d a : USpec) (b : USrc) (s : State) : Host.Outcome State Fault Refusal
    :=
  issue (.ushl w d a b) (bodyUshl w d a b) s

/-- USHR (18 R414, as 18 R406). -/
def bodyUshr (w : Width) (d a : USpec) (b : USrc) : Ctx → State → Res :=
  bodyUShift .shr w d a b

/-- The meaning of USHR. -/
def execUshr (w : Width) (d a : USpec) (b : USrc) (s : State) : Host.Outcome State Fault Refusal
    :=
  issue (.ushr w d a b) (bodyUshr w d a b) s

/-- USAR (18 R414, as 18 R406). -/
def bodyUsar (w : Width) (d a : USpec) (b : USrc) : Ctx → State → Res :=
  bodyUShift .sar w d a b

/-- The meaning of USAR. -/
def execUsar (w : Width) (d a : USpec) (b : USrc) (s : State) : Host.Outcome State Fault Refusal
    :=
  issue (.usar w d a b) (bodyUsar w d a b) s

/-- UMOV (18 R414, as 17 R387). -/
def bodyUmov (w : Width) (d : USpec) (b : USrc) : Ctx → State → Res :=
  uniAlu w.is64 d (fun s c => srcU s c w.is64 b)

/-- The meaning of UMOV. -/
def execUmov (w : Width) (d : USpec) (b : USrc) (s : State) : Host.Outcome State Fault Refusal :=
  issue (.umov w d b) (bodyUmov w d b) s

/-- UMOVI (18 R414, as 17 R388). -/
def bodyUmovi (w : Width) (keep : Bool) (d : USpec) (hw : Fin 4) (imm : BitVec 16) : Ctx → State →
    Res :=
  uniAlu w.is64 d (fun s c => moviAlu keep hw.val imm (s.rdUW c w.is64 d))

/-- The meaning of UMOVI. -/
def execUmovi (w : Width) (keep : Bool) (d : USpec) (hw : Fin 4) (imm : BitVec 16) (s : State) :
    Host.Outcome State Fault Refusal :=
  issue (.umovi w keep d hw imm) (bodyUmovi w keep d hw imm) s

/-- UCMP writes a uniform flag (18 R414, as 17 R369). -/
def bodyUcmp (c : ICond) (w64 uns : Bool) (n : Fin 8) (a b : USpec) : Ctx → State → Res :=
  fun x s => Res.ok (s.modWarp x.wid (fun w =>
    Warp.wrG (lowLane x.mask) n.val (intCmp c w64 uns (s.rdUW x w64 a) (s.rdUW x w64 b)) w))

/-- The meaning of UCMP. -/
def execUcmp (c : ICond) (w64 uns : Bool) (n : Fin 8) (a b : USpec) (s : State) : Host.Outcome
    State Fault Refusal :=
  issue (.ucmp c w64 uns n a b) (bodyUcmp c w64 uns n a b) s

/-- USEL by a uniform flag (18 R414). -/
def bodyUsel (n : Fin 8) (d a b : USpec) : Ctx → State → Res :=
  uniAlu false d (fun s c =>
    let g := match s.warp c.wid with
      | some w => w.rdG (lowLane c.mask) n.val
      | none => false
    s.rdUW c false (if g then a else b))

/-- The meaning of USEL. -/
def execUsel (n : Fin 8) (d a b : USpec) (s : State) : Host.Outcome State Fault Refusal :=
  issue (.usel n d a b) (bodyUsel n d a b) s

/-- ULEA (18 R414, as 17 R379). -/
def bodyUlea (zx : Bool) (shift : Fin 4) (d a b : USpec) : Ctx → State → Res :=
  uniAlu true d (fun s c => leaAlu zx shift.val (s.rdU c a) (s.rdU64 c b))

/-- The meaning of ULEA. -/
def execUlea (zx : Bool) (shift : Fin 4) (d a b : USpec) (s : State) : Host.Outcome State Fault
    Refusal :=
  issue (.ulea zx shift d a b) (bodyUlea zx shift d a b) s

end Sys2Proof.Machine
end

