-- ==== Sys2Proof/Machine/Wide.lean ====
section
/-!
DEFINITION. The wide form: a one-word lane-set operation with a register, uniform or immediate
source b (15 R323).
-/

set_option Elab.async false

namespace Sys2Proof.Machine

/-- The one-word operation that the wide form names, on its wider source (15 R323). -/
def bodyWideForm (op : WideOp) : Ctx → State → Res :=
  match op with
  | .int o sat ty d a b => laneAlu ty.wide64 d (fun s c w l =>
      intAlu o sat ty (w.rdW l ty.wide64 a) (srcW s c w l ty.wide64 b))
  | .iabs sat ty d b => laneAlu ty.wide64 d (fun s c w l =>
      intAbs sat ty (srcW s c w l ty.wide64 b))
  | .lea zx sh d a b => laneAlu true d (fun s c w l =>
      leaAlu zx sh.val (w.rdL l a) (srcW s c w l true b))
  | .icmp k w64 uns n a b => laneFlag n.val (fun s c w l =>
      intCmp k w64 uns (w.rdW l w64 a) (srcW s c w l w64 b))
  | .sel n d a b => laneAlu false d (fun s c w l =>
      if w.rdF l n.val then w.rdW l false a else srcW s c w l false b)
  | .logic o wd d a b => laneAlu wd.is64 d (fun s c w l =>
      logicAlu o (w.rdW l wd.is64 a) (srcW s c w l wd.is64 b))
  | .shift o wd d a b => laneAlu wd.is64 d (fun s c w l =>
      shiftAlu o (if wd.is64 then 64 else 32) (w.rdW l wd.is64 a) (srcW s c w l false b))
  | .bits o wd d a _ => bodyBits o wd d a
  | .mov wd d b => laneAlu wd.is64 d (fun s c w l => srcW s c w l wd.is64 b)
  | .flt o rnd d a b => bodyF2 (fpOp o fmtF32 rnd) d a b
  | .fmin d a b => bodyF2 (fpMinMax false fmtF32) d a b
  | .fmax d a b => bodyF2 (fpMinMax true fmtF32) d a b
  | .fcmp k n a b => bodyCmp k false n.val a b
  | .frnd rnd d b => laneFp false d (fun s c w l =>
      fpIntegral rnd (loW (srcLU s c w l false b)).toNat)
  | .dadd rnd d a b => bodyD2 (fpAdd fmtF64 rnd) d a b
  | .dmul rnd d a b => bodyD2 (fpMul fmtF64 rnd) d a b
  | .dcmp k n a b => bodyCmp k true n.val a b
  | .pkadd bf rnd d a b => bodyPk (fun x y _ => fpAdd (pkFmt bf) rnd x y) d a b .zero
  | .pkmul bf rnd d a b => bodyPk (fun x y _ => fpMul (pkFmt bf) rnd x y) d a b .zero
  | .pkmin bf d a b => bodyPk (fun x y _ => fpMinMax false (pkFmt bf) x y) d a b .zero
  | .pkmax bf d a b => bodyPk (fun x y _ => fpMinMax true (pkFmt bf) x y) d a b .zero
  | .mfn fn d b => laneFp false d (fun s c w l => mfnAlu fn (loW (srcLU s c w l false b)).toNat)
  | .sxpk fmt d a => bodySxpk fmt d a
  | .sxupk fmt d a => bodySxupk fmt d a

/-- The meaning of WIDE_FORM. -/
def execWideForm (op : WideOp) (s : State) : Host.Outcome State Fault Refusal :=
  issue (.wideForm op) (bodyWideForm op) s

end Sys2Proof.Machine
end

