-- ==== Sys2Proof/Machine/Bodies.lean ====
section
/-!
DEFINITION. The effect of each warp instruction by its constructor, for the commit stage and for the end
of a release wait (01 R14; 08 R190); a step of a device agent has none.
-/

set_option Elab.async false

namespace Sys2Proof.Machine

/-- The effect of a warp instruction. -/
def bodyOf : Instr → Option (Ctx → State → Res)
  | .and w d a b => some (bodyAnd w d a b)
  | .or w d a b => some (bodyOr w d a b)
  | .xor w d a b => some (bodyXor w d a b)
  | .atom op ty ord sc m d b c => some (bodyAtom op ty ord sc m d b c)
  | .red op ty ord sc m b => some (bodyRed op ty ord sc m b)
  | .bar inst count => some (bodyBar inst count)
  | .cbar inst count => some (bodyCbar inst count)
  | .bfx w sext d a f => some (bodyBfx w sext d a f)
  | .bfi w d a b f => some (bodyBfi w d a b f)
  | .bkpt => some (bodyBkpt)
  | .bra c imm => some (bodyBra c imm)
  | .brev w d a => some (bodyBrev w d a)
  | .clz w d a => some (bodyClz w d a)
  | .popc w d a => some (bodyPopc w d a)
  | .brx rel a => some (bodyBrx rel a)
  | .call d a ind imm => some (bodyCall d a ind imm)
  | .cancel level => some (bodyCancel level)
  | .cbrsv d n => some (bodyCbrsv d n)
  | .cbcmt n => some (bodyCbcmt n)
  | .cbacq d n => some (bodyCbacq d n)
  | .cbrel n => some (bodyCbrel n)
  | .ckpt => some (bodyCkpt)
  | .cpy d a len c => some (bodyCpy d a len c)
  | .cpyw n b => some (bodyCpyw n b)
  | .cvt sat rnd dt st d b => some (bodyCvt sat rnd dt st d b)
  | .dadd rnd d a b => some (bodyDadd rnd d a b)
  | .dmul rnd d a b => some (bodyDmul rnd d a b)
  | .dfma rnd d a b c => some (bodyDfma rnd d a b c)
  | .dcmp c n a b => some (bodyDcmp c n a b)
  | .exit => some (bodyExit)
  | .fadd rnd d a b => some (bodyFadd rnd d a b)
  | .fsub rnd d a b => some (bodyFsub rnd d a b)
  | .fmul rnd d a b => some (bodyFmul rnd d a b)
  | .fcmp c n a b => some (bodyFcmp c n a b)
  | .fence ord sc => some (bodyFence ord sc)
  | .ffma rnd d a b c => some (bodyFfma rnd d a b c)
  | .fmax d a b => some (bodyFmax d a b)
  | .fmin d a b => some (bodyFmin d a b)
  | .frnd rnd d b => some (bodyFrnd rnd d b)
  | .fshf right clamp d a b sh => some (bodyFshf right clamp d a b sh)
  | .gang b => some (bodyGang b)
  | .gret target => some (bodyGret target)
  | .hret target => some (bodyHret target)
  | .iabs sat ty d b => some (bodyIabs sat ty d b)
  | .iadd sat ty d a b => some (bodyIadd sat ty d a b)
  | .isub sat ty d a b => some (bodyIsub sat ty d a b)
  | .imul sat ty d a b => some (bodyImul sat ty d a b)
  | .imulhi ty d a b => some (bodyImulhi ty d a b)
  | .imin ty d a b => some (bodyImin ty d a b)
  | .imax ty d a b => some (bodyImax ty d a b)
  | .icmp c w64 uns n a b => some (bodyIcmp c w64 uns n a b)
  | .idp4 sat za zb d a b c => some (bodyIdp4 sat za zb d a b c)
  | .imad sat ty d a b c => some (bodyImad sat ty d a b c)
  | .jarm n m => some (bodyJarm n m)
  | .jdrop n => some (bodyJdrop n)
  | .jwait n => some (bodyJwait n)
  | .launch tail d a => some (bodyLaunch tail d a)
  | .ld strong acq ty sc m d imm => some (bodyLd strong acq ty sc m d imm)
  | .lea zx shift d a b => some (bodyLea zx shift d a b)
  | .lnx ord d a b c base scale index imm => some (bodyLnx ord d a b c base scale index imm)
  | .logic3 w d a b c lut => some (bodyLogic3 w d a b c lut)
  | .matchLanes w all d a => some (bodyMatchLanes w all d a)
  | .mfn fn d b => some (bodyMfn fn d b)
  | .mma tile a b f => some (bodyMma tile a b f)
  | .mmat tile a b f => some (bodyMmat tile a b f)
  | .mov w d b => some (bodyMov w d b)
  | .movi w keep d hw imm => some (bodyMovi w keep d hw imm)
  | .nop => some (bodyNop)
  | .part code => some (bodyPart code)
  | .pkadd bf rnd d a b => some (bodyPkadd bf rnd d a b)
  | .pkmul bf rnd d a b => some (bodyPkmul bf rnd d a b)
  | .pkmin bf d a b => some (bodyPkmin bf d a b)
  | .pkmax bf d a b => some (bodyPkmax bf d a b)
  | .pkfma bf rnd d a b c => some (bodyPkfma bf rnd d a b c)
  | .pref a base scale home low imm => some (bodyPref a base scale home low imm)
  | .hint uset op hd d payload more => some (bodyHint uset op hd d payload more)
  | .psel d a b sel => some (bodyPsel d a b sel)
  | .racq b => some (bodyRacq b)
  | .rdctl d r => some (bodyRdctl d r)
  | .wrctl r a => some (bodyWrctl r a)
  | .rds d sp => some (bodyRds d sp)
  | .redx op ty sat d a => some (bodyRedx op ty sat d a)
  | .scan op ty sat exc d a => some (bodyScan op ty sat exc d a)
  | .reggrow n v => some (bodyReggrow n v)
  | .regshr v => some (bodyRegshr v)
  | .ret a => some (bodyRet a)
  | .sarm n a => some (bodySarm n a)
  | .sdis n => some (bodySdis n)
  | .sel n d a b => some (bodySel n d a b)
  | .shfl mode w d a k f => some (bodyShfl mode w d a k f)
  | .shl w d a b => some (bodyShl w d a b)
  | .shr w d a b => some (bodyShr w d a b)
  | .sar w d a b => some (bodySar w d a b)
  | .sld d n f => some (bodySld d n f)
  | .st strong rel ty sc m d imm => some (bodySt strong rel ty sc m d imm)
  | .succ kind flag low seg0 seg1 => some (bodySucc kind flag low seg0 seg1)
  | .sxpk fmt d a => some (bodySxpk fmt d a)
  | .sxupk fmt d a => some (bodySxupk fmt d a)
  | .tld tile a => some (bodyTld tile a)
  | .tst tile a => some (bodyTst tile a)
  | .tzero tile => some (bodyTzero tile)
  | .twait tile => some (bodyTwait tile)
  | .tstat clr d tile => some (bodyTstat clr d tile)
  | .uadd sat ty d a b => some (bodyUadd sat ty d a b)
  | .usub sat ty d a b => some (bodyUsub sat ty d a b)
  | .umul sat ty d a b => some (bodyUmul sat ty d a b)
  | .umad sat ty d a b c => some (bodyUmad sat ty d a b c)
  | .uand w d a b => some (bodyUand w d a b)
  | .uor w d a b => some (bodyUor w d a b)
  | .uxor w d a b => some (bodyUxor w d a b)
  | .ushl w d a b => some (bodyUshl w d a b)
  | .ushr w d a b => some (bodyUshr w d a b)
  | .usar w d a b => some (bodyUsar w d a b)
  | .umov w d b => some (bodyUmov w d b)
  | .umovi w keep d hw imm => some (bodyUmovi w keep d hw imm)
  | .ucmp c w64 uns n a b => some (bodyUcmp c w64 uns n a b)
  | .usel n d a b => some (bodyUsel n d a b)
  | .ulea zx shift d a b => some (bodyUlea zx shift d a b)
  | .ubra c imm => some (bodyUbra c imm)
  | .vote mode neg d fd a => some (bodyVote mode neg d fd a)
  | .waita c w acq sc m d b imm => some (bodyWaita c w acq sc m d b imm)
  | .wcall base q svc => some (bodyWcall base q svc)
  | .wsync b => some (bodyWsync b)
  | .yield => some (bodyYield)
  | .wideForm op => some (bodyWideForm op)
  | _ => none

end Sys2Proof.Machine
end

