-- ==== Sys2Proof/Machine/Queues.lean ====
section
/-!
DEFINITION. Queues, packets, graphs, phases, jobs and the dispatcher's choice; the end of a launch
(02 R53 to R60; 03 R61 to R73; 08 R198).
-/

set_option Elab.async false

namespace Sys2Proof.Machine

-- control blocks

/-- Sets an ERR bit, and FROZEN where it freezes (03 R62). -/
def State.qFail (q bit : Nat) (s : State) : State :=
  let s := s.setReg (qOff q + 0x1C) (s.reg (qOff q + 0x1C) ||| BitVec.ofNat 32 (2 ^ bit))
  if bit = 0 ∨ bit = 2 ∨ bit = 3 then s.setRegF (qOff q + 8) 23 1 1 else s

/-- QUEUE_DOORBELL: a write to TAIL; one too far ahead freezes the queue and is ignored until
rewritten (03 R62). -/
def evQueueDoorbell (q : Nat) (tail : Word) (s : State) : State :=
  if Config.queues ≤ q then s
  else
  let s := s.setReg (qOff q + 0x10) tail
  let far := decide (2 ^ s.qRlog q < (tail - s.qHead q).toNat)
  let s := s.modQueue q (fun x => { x with badTail := far })
  if far then s.qFail q 3 else s

/-- The meaning of QUEUE_DOORBELL. -/
def execQueueDoorbell (q : Nat) (tail : Word) (s : State) : Host.Outcome State Fault Refusal :=
  .next (evQueueDoorbell q tail s).finish

/-- ERR_CLEAR: ones clear ERR bits; with no freezing bit left the queue thaws (03 R62). -/
def evErrClear (q : Nat) (bits : Word) (s : State) : State :=
  if Config.queues ≤ q then s
  else
  let e := s.qErr q &&& ~~~bits
  let s := s.setReg (qOff q + 0x1C) e
  if e &&& 0xD = 0 then
    (s.setRegF (qOff q + 8) 23 1 0).modQueue q (fun x => { x with pkts := x.pkts.map (fun p =>
      if p.st = .stuck then { p with st := .acting } else p) })
  else s

/-- The meaning of ERR_CLEAR. -/
def execErrClear (q : Nat) (bits : Word) (s : State) : Host.Outcome State Fault Refusal :=
  .next (evErrClear q bits s).finish

-- packet fields (03 R65)

def pkType (d : BitVec 512) : Nat := bitsOf d.toNat 0 8
def pkFlags (d : BitVec 512) : Nat := bitsOf d.toNat 8 8
def pkOrder (d : BitVec 512) : Bool := d.getLsbD 8
def pkSub (d : BitVec 512) : Nat := bitsOf d.toNat 16 8
def pkCount (d : BitVec 512) : Nat := bitsOf d.toNat 32 32
def pkAddr (d : BitVec 512) : Nat := bitsOf d.toNat 64 64
def pkValue (d : BitVec 512) : Nat := bitsOf d.toNat 128 64
def pkEdge (d : BitVec 512) (k : Nat) : Nat := bitsOf d.toNat (192 + 16 * k) 16
/-- EDGE fields that name a node. -/
def pkEdges (d : BitVec 512) : List Nat :=
  ((List.range 8).map (pkEdge d)).filter (· != 0xFFFF)

/-- A packet that does not freeze its queue with BADPKT (03 R62, R65, R66). -/
def pkOk (d : BitVec 512) : Bool :=
  let t := pkType d
  let subs := match t with
    | 3 => 2
    | 4 => 4
    | 5 => 2
    | 6 => 4
    | _ => 1
  decide (t ≤ 6) && decide (pkSub d < subs) && decide (pkFlags d < 4) &&
    bitsOf d.toNat 24 8 == 0 && bitsOf d.toNat 320 192 == 0 &&
    (t == 1 || pkEdges d == []) &&
    (match t with
     | 1 => true
     | 2 => decide (1 ≤ pkCount d) && decide (pkCount d ≤ 4096)
     | _ => pkCount d == 0) &&
    (t == 1 || t == 4 || t == 5 || t == 6 || pkAddr d == 0) &&
    (t == 4 || t == 5 || pkValue d == 0)

-- reading packets (03 R62)

/-- A WAIT packet of the queue is read and not complete. -/
def QState.waiting (x : QState) : Bool :=
  x.pkts.any (fun p => pkType p.data == 4 && p.st != .done && p.node.isNone)

/-- The dispatcher may read the queue's next packet. -/
def State.mayRead (s : State) (q : Nat) : Bool :=
  let j := s.jState (s.qJob q)
  decide (q < Config.queues) && !s.hostLost && s.qEn q && !s.qFrozen q && (j == 1 || j == 3) && s.qHead q != s.qTail q &&
    !(s.queue q).badTail && !(s.queue q).waiting

/-- The packet at HEAD, or the ERR bit of a queue that freezes at it; none: it cannot be read now. -/
def State.peekPacket (s : State) (q : Nat) : Option (Except Nat (BitVec 512)) :=
  if !s.mayRead q then none
  else
    let va := (s.reg64 (qOff q)).toNat + 64 * ((s.qHead q).toNat % 2 ^ s.qRlog q)
    match s.vRead (via (s.jAsid (s.qJob q))) va 64 with
    | .error f => if f = heldFault then none else some (.error 2)
    | .ok bs =>
      let d : BitVec 512 := BitVec.ofNat 512 (leNat bs)
      if !pkOk d then some (.error 0)
      else if (pkType d == 1 || (s.queue q).fill.isSome) && decide (Config.graphSlots ≤ s.slotsUsed)
      then none
      else some (.ok d)

/-- The graph being filled was read from a FROZEN job: its nodes complete as they are read (02 R59). -/
def State.fillFrozen (s : State) (q : Nat) : Option Nat :=
  match (s.queue q).fill with
  | none => none
  | some g => if (tget g s.graphs).any (fun x => x.cancelled && x.checked) then some g else none

/-- The graph of one launch that a LAUNCH packet forms when it is read (02 R39). -/
def State.loneGraph (q : Nat) (s : State) : Nat × State :=
  let (g, s) := s.newGraph (s.qJob q) q none 1
  (g, s.modGraph g (fun x => { x with read := 1, checked := true }))

/-- Enters a packet read: its number, TYPE, graph slot and graph (02 R39; 03 R62, R66). -/
def State.enterPacket (q : Nat) (d : BitVec 512) (s : State) : State :=
  let n := (s.qHead q).toNat
  let fill := (s.queue q).fill
  let fz := s.fillFrozen q
  let isL := pkType d == 1
  let (lone, s) : Option Nat × State :=
    if fill.isNone && isL then (let (g, t) := s.loneGraph q; (some g, t)) else (none, s)
  let p : Pkt := { num := n, data := d, st := .held, refs := [], node := if fz.isSome then none else fill,
                   graph := if fz.isSome then (if isL then fz else none) else lone,
                   cancel := s.jState (s.qJob q) == 3 || fz.isSome }
  let s := s.setReg (qOff q + 0x14) (s.qHead q + 1)
  let s := s.modQueue q (fun x =>
    { x with pkts := x.pkts ++ [p], kinds := x.kinds ++ [pkType d] })
  let used := if isL ∨ (fill.isSome ∧ fz.isNone) then s.slotsUsed + 1 else s.slotsUsed
  let s : State := { s with slotsUsed := used }
  match fill with
  | none => s
  | some g =>
    let full := ((tget g s.graphs).map (fun x => decide (x.count ≤ x.read + 1))).getD true
    let s := s.modGraph g (fun x =>
      { x with read := x.read + 1, badNode := x.badNode || !isL,
               left := if fz.isSome && !isL then x.left - 1 else x.left })
    let s := if full then s.modQueue q (fun x => { x with fill := none }) else s
    if fz.isSome then s.graphCheckDone g else s

/-- A read packet by its number. -/
def State.pkt (s : State) (q n : Nat) : Option Pkt := (s.queue q).pkts.find? (fun p => p.num == n)

def State.modPkt (q n : Nat) (f : Pkt → Pkt) (s : State) : State :=
  s.modQueue q (fun x => { x with pkts := x.pkts.map (fun p => if p.num = n then f p else p) })

/-- A GRAPH packet opens its graph, whose nodes are the next packets (03 R66). Read from a FROZEN job it
completes at once, and its nodes complete CANCELLED as they are read (02 R59). The nodes of a GRAPH
packet that itself stood as a node of a failed graph are the next packets not yet read: the spec does not
say which (DESIGN CHOICE, log entry 102). -/
def State.openGraph (q n : Nat) (d : BitVec 512) (s : State) : State :=
  if (s.queue q).fill.isSome then s
  else
    let fz := (s.pkt q n).any (·.cancel)
    let (g, s) := s.newGraph (s.qJob q) q (if fz then none else some n) (pkCount d)
    let s := s.modQueue q (fun x => { x with fill := some g })
    if fz then (s.modGraph g (fun x => { x with cancelled := true, checked := true })).pktDone q n
    else s.modPkt q n (fun p => { p with refs := [g], st := .acting })

/-- Packet `n` of the queue, of a TYPE and a SUB that the step asks for, read now if it is the next
one; with what follows from reading any packet. -/
def State.takePacket (q n : Nat) (want : BitVec 512 → Bool) (s : State) : Option Pkt × State :=
  match s.pkt q n with
  | some p => (if want p.data ∧ p.node.isNone ∧ p.st ≠ .done then some p else none, s)
  | none =>
    if n ≠ (s.qHead q).toNat then (none, s)
    else
      match s.peekPacket q with
      | none => (none, s)
      | some (.error b) => (none, s.qFail q b)
      | some (.ok d) =>
        if !want d then (none, s)
        else
          let s := s.enterPacket q d
          match s.pkt q n with
          | none => (none, s)
          | some p =>
            if p.node.isSome then (none, s)
            else if pkType d = 2 ∧ p.graph.isNone ∧ !(p.cancel && (s.queue q).fill.isSome) then
              let s := s.openGraph q n d
              (s.pkt q n, s)
            else (some p, s)

/-- Every earlier packet of the queue has completed (03 R65). -/
def State.pktFirst (s : State) (q n : Nat) : Bool := (s.qDone q).toNat == n

/-- A packet may act: its ORDER flag holds it no longer, and the queue is not frozen at it. -/
def State.mayAct (s : State) (q : Nat) (p : Pkt) : Bool :=
  p.st != .stuck && (!pkOrder p.data || s.pktFirst q p.num)

/-- What a packet does when it acts; one read from a FROZEN job completes without effect (02 R59). -/
def State.actPacket (q n : Nat) (want : BitVec 512 → Bool) (f : Pkt → State → State) (s : State) :
    State :=
  match s.takePacket q n want with
  | (none, s) => s
  | (some p, s) =>
    if p.cancel && p.st == .held then s.pktDone q n
    else if !s.mayAct q p then s
    else f p s

/-- A packet of a TYPE. -/
def isType (t : Nat) (d : BitVec 512) : Bool := pkType d == t
/-- A packet of a TYPE and a SUB. -/
def isTypeSub (t k : Nat) (d : BitVec 512) : Bool := pkType d == t && pkSub d == k

/-- NOP_PACKET: NOP completes when it is read (03 R67). -/
def evNopPacket (q n : Nat) (s : State) : State :=
  s.actPacket q n (isType 0) (fun _ s => s.pktDone q n)

/-- The meaning of NOP_PACKET. -/
def execNopPacket (q n : Nat) (s : State) : Host.Outcome State Fault Refusal :=
  .next (evNopPacket q n s).finish

-- launches (02 R39, R53; 03 R66, R72)

/-- A launch packet of a cancelled unit: its job is FROZEN, it or its graph is cancelled (02 R58, R59). -/
def State.packetOff (s : State) (q : Nat) (p : Pkt) (g : Nat) : Bool :=
  s.jState (s.qJob q) == 3 || p.cancel || (tget g s.graphs).any (·.cancelled)

/-- Accepts the launch of a LAUNCH packet as node `k` of a graph; `bad`: it completes with
FORMAT_INVALID, its header read only for its record (03 R66). None: a read has to wait. -/
def State.acceptPacket (q : Nat) (p : Pkt) (g k : Nat) (inGraph bad : Bool) (s : State) :
    Option State :=
  let job := s.qJob q
  let x := tget g s.graphs
  let off := s.packetOff q p g
  let l : Launch := { Launch.new s.nextLaunch job q (some p.num) g ((x.map (·.phase)).getD 0) with
    checked := !(inGraph && pkOrder p.data) || bad, node := k,
    preds := if inGraph then pkCount p.data else 0,
    edges := if inGraph && !bad then pkEdges p.data else [] }
  match s.accept l (pkAddr p.data) (off || bad) with
  | none => none
  | some l =>
    let l := if bad then { l with status := stFormat, cancelled := false } else l
    some (State.modPkt q p.num (fun y => { y with st := .acting, refs := [l.id], node := none })
      { s with launches := tset l.id l s.launches, nextLaunch := s.nextLaunch + 1 })

/-- Accepts the launch of a LAUNCH packet outside a graph, in the graph it formed when it was read (02 R39);
a COUNT or an EDGE makes it invalid, unless it is cancelled (02 R59; 03 R66). -/
def State.launchAlone (q : Nat) (p : Pkt) (s : State) : State :=
  match p.graph with
  | none => s
  | some g =>
    let bad := !s.packetOff q p g && (pkCount p.data != 0 || pkEdges p.data != [])
    match s.acceptPacket q p g 0 false bad with
    | none => s
    | some t => (t.modGraph g (fun x => { x with nodes := x.nodes ++ [s.nextLaunch] })).markReady

/-- LAUNCH_PACKET: the packet is read and its launch accepted; a node is only read, and a cancelled one is
held no longer (02 R59; 03 R62, R66, R67). -/
def evLaunchPacket (q n : Nat) (s : State) : State :=
  match s.takePacket q n (isType 1) with
  | (none, s) => s
  | (some p, s) =>
    if p.st == .held && (p.graph.any (s.packetOff q p) || s.mayAct q p) then s.launchAlone q p else s

/-- The meaning of LAUNCH_PACKET. -/
def execLaunchPacket (q n : Nat) (s : State) : Host.Outcome State Fault Refusal :=
  .next (evLaunchPacket q n s).finish

/-- GRAPH_PACKET: the packet opens a graph whose nodes are the next COUNT packets (03 R66). -/
def evGraphPacket (q n : Nat) (s : State) : State :=
  match s.takePacket q n (isType 2) with
  | (none, s) => s
  | (some p, s) =>
    if p.st ≠ .held then s else s.openGraph q n p.data

/-- The meaning of GRAPH_PACKET. -/
def execGraphPacket (q n : Nat) (s : State) : Host.Outcome State Fault Refusal :=
  .next (evGraphPacket q n s).finish

/-- The node packets of a graph, in ring order. -/
def State.nodePkts (s : State) (q g : Nat) : List Pkt :=
  (s.queue q).pkts.filter (fun p => p.node == some g)

/-- The graph fails the check of 03 R66. -/
def graphFails (ps : List Pkt) : Bool :=
  let n := ps.length
  let es := (List.range n).map (fun k => ((ps[k]?).map (fun p => pkEdges p.data)).getD [])
  ps.any (fun p => pkType p.data != 1) ||
  (List.range n).any (fun k =>
    (es.getD k []).any (fun e => decide (e ≤ k) || decide (n ≤ e)) ||
    ((ps[k]?).map (fun p => pkCount p.data)).getD 0 != ((es.map (fun x => x.count k)).sum))

/-- Accepts the nodes of a graph from node `k` on; a packet that is no LAUNCH becomes one of its own
type, and gives back its graph slot. None: a read has to wait. -/
def State.acceptNodes (q g : Nat) (bad : Bool) : Nat → List Pkt → State → Option State
  | _, [], s => some s
  | k, p :: r, s =>
    if pkType p.data = 1 then
      let id := s.nextLaunch
      match State.acceptPacket q p g k true bad s with
      | none => none
      | some s => State.acceptNodes q g bad (k + 1) r
          (State.modGraph g (fun x => { x with nodes := x.nodes ++ [id] }) s)
    else
      State.acceptNodes q g bad (k + 1) r
        ((State.modPkt q p.num (fun y => { y with node := none })
          { s with slotsUsed := s.slotsUsed - 1 }).modGraph g
            (fun x => { x with left := x.left - 1, nodes := x.nodes ++ [0] }))

/-- GRAPH_CHECK: all nodes read, the edges and counts are checked; a failed graph sets GRAPHBAD
and fails every node (03 R66). -/
def evGraphCheck (g : Nat) (s : State) : State :=
  match tget g s.graphs with
  | none => s
  | some x =>
    let q := x.queue
    match x.pkt.bind (s.pkt q) with
    | none => s
    | some p =>
      if x.checked || decide (x.read < x.count) || !s.mayAct q p then s
      else
        let ps := s.nodePkts q g
        let bad := graphFails ps && s.jState x.job != 3
        match State.acceptNodes q g bad 0 ps s with
        | none => s
        | some s =>
          let s := s.modGraph g (fun x => { x with checked := true })
          let s := if bad then s.qFail q 6 else s
          (s.graphCheckDone g).markReady

/-- The meaning of GRAPH_CHECK. -/
def execGraphCheck (g : Nat) (s : State) : Host.Outcome State Fault Refusal :=
  .next (evGraphCheck g s).finish

-- phases and jobs (03 R64, R67)

/-- Closes a job's open phase. -/
def State.closePhase (j : Nat) (s : State) : State :=
  s.modPhase j (s.jPhase j) (fun p => { p with closed := true })

/-- Opens a phase of a job. -/
def State.openPhase (j num : Nat) (s : State) : State :=
  let x : Phase := { job := j, num := num, left := 0, closed := false }
  let s : State := { s with phases := s.phases ++ [x] }
  (s.setReg (jOff j + 0x14) (BitVec.ofNat 32 num)).setReg (jOff j + 0x18)
    (BitVec.ofNat 32 (s.jOpenPh j + 1))

/-- PHASE_PACKET: the lead queue closes the open phase and opens the next; elsewhere PHASEBAD (03
R62, R67). -/
def evPhasePacket (q n : Nat) (s : State) : State :=
  s.actPacket q n (isTypeSub 3 0) (fun _ s =>
    let j := s.qJob q
    if !s.qLead q then (s.qFail q 4).pktDone q n
    else
      let old := s.jPhase j
      ((((s.closePhase j).openPhase j (old + 1)).phaseCheck j old).markReady).pktDone q n)

/-- The meaning of PHASE_PACKET. -/
def execPhasePacket (q n : Nat) (s : State) : Host.Outcome State Fault Refusal :=
  .next (evPhasePacket q n s).finish

/-- PHASE_CLOSE_PACKET: the lead queue closes the phase and the job is CLOSING (03 R67). -/
def evPhaseClosePacket (q n : Nat) (s : State) : State :=
  s.actPacket q n (isTypeSub 3 1) (fun _ s =>
    let j := s.qJob q
    if !s.qLead q then (s.qFail q 4).pktDone q n
    else (((s.closePhase j).setRegF (jOff j + 0xC) 8 2 2).phaseCheck j (s.jPhase j)).pktDone q n)

/-- The meaning of PHASE_CLOSE_PACKET. -/
def execPhaseClosePacket (q n : Nat) (s : State) : Host.Outcome State Fault Refusal :=
  .next (evPhaseClosePacket q n s).finish

/-- JOB_OPEN: 1 written to STATE of a job in OFF opens it, with phase 0 (03 R64; 09 R202; 10
R232). -/
def evJobOpen (j : Nat) (s : State) : State :=
  if Config.jobs ≤ j ∨ s.jState j ≠ 0 then s
  else
    let s := (s.setRegF (jOff j + 0xC) 8 2 1).setReg (jOff j + 0x18) 0
    State.openPhase j 0 { s with grovebase := fset 0 j 0 s.grovebase, callq := fset 0 j 0 s.callq }

/-- The meaning of JOB_OPEN. -/
def execJobOpen (j : Nat) (s : State) : Host.Outcome State Fault Refusal :=
  .next (evJobOpen j s).finish

/-- JOB_REOPEN: 1 written to STATE of a FROZEN job ends the freeze (03 R64). -/
def evJobReopen (j : Nat) (s : State) : State :=
  if Config.jobs ≤ j ∨ s.jState j ≠ 3 then s else (s.setRegF (jOff j + 0xC) 8 2 1).markReady

/-- The meaning of JOB_REOPEN. -/
def execJobReopen (j : Nat) (s : State) : Host.Outcome State Fault Refusal :=
  .next (evJobReopen j s).finish

-- waits and signals (03 R67)

/-- The compare of a WAIT packet. -/
def waitPkt (d : BitVec 512) (x : Nat) : Bool :=
  match pkSub d with
  | 0 => x == pkValue d
  | 1 => x != pkValue d
  | 2 => decide (pkValue d ≤ x)
  | _ => decide (x < pkValue d)

/-- The word at a packet's address, as the dispatcher reads it. A misaligned address counts as a faulting
access, of WAIT too: the spec does not say so (DESIGN CHOICE, log entry 56). -/
def State.pktWord (s : State) (q : Nat) (d : BitVec 512) : Except FaultInfo Nat :=
  if pkAddr d % 8 ≠ 0 then .error (misaligned (BitVec.ofNat 64 (pkAddr d)))
  else
    match s.vRead (via (s.jAsid (s.qJob q))) (pkAddr d) 8 with
    | .error f => .error f
    | .ok bs => .ok (leNat bs)

/-- The access of a packet faults: the queue is frozen at that packet (03 R67). -/
def State.pktFault (q n : Nat) (f : FaultInfo) (s : State) : State :=
  if f = heldFault then s else (s.modPkt q n (fun p => { p with st := .stuck })).qFail q 2

/-- One sample of a WAIT packet. -/
def State.samplePkt (q : Nat) (p : Pkt) (s : State) : State :=
  match s.pktWord q p.data with
  | .error f => s.pktFault q p.num f
  | .ok x => if waitPkt p.data x then s.pktDone q p.num else s

/-- WAIT_PACKET: read, it holds later packets until its word compares true; the first sample is
taken (03 R67). -/
def evWaitPacket (q n : Nat) (s : State) : State :=
  s.actPacket q n (isType 4) (fun p s =>
    if p.st = .held then
      (s.modPkt q n (fun p => { p with st := .acting })).samplePkt q p
    else s)

/-- The meaning of WAIT_PACKET. -/
def execWaitPacket (q n : Nat) (s : State) : Host.Outcome State Fault Refusal :=
  .next (evWaitPacket q n s).finish

/-- WAIT_PACKET_SAMPLE: the word of a WAIT packet that waits is read again (03 R67). -/
def evWaitPacketSample (q n : Nat) (s : State) : State :=
  match s.pkt q n with
  | some p => if pkType p.data = 4 ∧ p.st = .acting then s.samplePkt q p else s
  | none => s

/-- The meaning of WAIT_PACKET_SAMPLE. -/
def execWaitPacketSample (q n : Nat) (s : State) : Host.Outcome State Fault Refusal :=
  .next (evWaitPacketSample q n s).finish

/-- Performs the access of a SIGNAL packet. -/
def State.signalPkt (q : Nat) (p : Pkt) (s : State) : State :=
  let d := p.data
  let add := pkSub d == 1
  let old := if add then s.pktWord q d else .ok 0
  match old with
  | .error f => s.pktFault q p.num f
  | .ok x =>
    if pkAddr d % 8 ≠ 0 then s.pktFault q p.num (misaligned (BitVec.ofNat 64 (pkAddr d)))
    else
      match s.vWrite (via (s.jAsid (s.qJob q))) (pkAddr d) (natLe 8 ((x + pkValue d) % 2 ^ 64)) with
      | (.error f, _) => s.pktFault q p.num f
      | (.ok _, s) => s.pktDone q p.num

/-- SIGNAL_STORE_PACKET: a strong release store at .sys once every earlier packet has completed
(03 R67). -/
def evSignalStorePacket (q n : Nat) (s : State) : State :=
  s.actPacket q n (isTypeSub 5 0) (fun p s => if s.pktFirst q n then s.signalPkt q p else s)

/-- The meaning of SIGNAL_STORE_PACKET. -/
def execSignalStorePacket (q n : Nat) (s : State) : Host.Outcome State Fault Refusal :=
  .next (evSignalStorePacket q n s).finish

/-- SIGNAL_ADD_PACKET: a strong release atomic add at .sys (03 R67). -/
def evSignalAddPacket (q n : Nat) (s : State) : State :=
  s.actPacket q n (isTypeSub 5 1) (fun p s => if s.pktFirst q n then s.signalPkt q p else s)

/-- The meaning of SIGNAL_ADD_PACKET. -/
def execSignalAddPacket (q n : Nat) (s : State) : Host.Outcome State Fault Refusal :=
  .next (evSignalAddPacket q n s).finish

-- cancels (02 R58, R59; 03 R68)

/-- Packet `n` of the queue has completed. -/
def State.pktIsDone (s : State) (q n : Nat) : Bool :=
  match s.pkt q n with
  | some p => p.st == .done
  | none => true

/-- A CANCEL packet acts once with `f`, then completes when `ended`. -/
def cancelPkt (q n : Nat) (valid : Pkt → State → Bool) (f : Pkt → State → State)
    (ended : Pkt → State → Bool) (p : Pkt) (s : State) : State :=
  if p.st = .held ∧ !valid p s then (s.qFail q 5).pktDone q n
  else
    let s := if p.st = .held then
        (f p s).modPkt q n (fun p => { p with st := .acting }) else s
    match s.pkt q n with
    | some p => if ended p s then s.pktDone q n else s
    | none => s

/-- The target is a packet of this queue already read, of TYPE `t`. -/
def validTarget (q t : Nat) (p : Pkt) (s : State) : Bool :=
  ((s.queue q).kinds[pkAddr p.data]?) == some t

/-- CANCEL_LAUNCH_PACKET: cancels the launch of a LAUNCH packet of this queue (03 R68). -/
def evCancelLaunchPacket (q n : Nat) (s : State) : State :=
  s.actPacket q n (isTypeSub 6 0) (cancelPkt q n (validTarget q 1)
    (fun p s =>
      match s.pkt q (pkAddr p.data) with
      | none => s
      | some t =>
        match t.refs with
        | [] => s.modPkt q t.num (fun t => { t with cancel := true })
        | l :: _ => s.cancelLaunch l)
    (fun p s => s.pktIsDone q (pkAddr p.data)))

/-- The meaning of CANCEL_LAUNCH_PACKET. -/
def execCancelLaunchPacket (q n : Nat) (s : State) : Host.Outcome State Fault Refusal :=
  .next (evCancelLaunchPacket q n s).finish

/-- CANCEL_GRAPH_PACKET: cancels the graph of a GRAPH packet of this queue (03 R68). -/
def evCancelGraphPacket (q n : Nat) (s : State) : State :=
  s.actPacket q n (isTypeSub 6 1) (cancelPkt q n (validTarget q 2)
    (fun p s =>
      match (s.pkt q (pkAddr p.data)).bind (fun t => t.refs.head?) with
      | none => s
      | some g => s.cancelGraph g)
    (fun p s => s.pktIsDone q (pkAddr p.data)))

/-- The meaning of CANCEL_GRAPH_PACKET. -/
def execCancelGraphPacket (q n : Nat) (s : State) : Host.Outcome State Fault Refusal :=
  .next (evCancelGraphPacket q n s).finish

/-- CANCEL_PHASE_PACKET: cancels the graphs of the job's open phase (03 R68). -/
def evCancelPhasePacket (q n : Nat) (s : State) : State :=
  s.actPacket q n (isTypeSub 6 2) (cancelPkt q n (fun _ _ => true)
    (fun _ s =>
      let j := s.qJob q
      let gs := (s.graphs.filter (fun e => e.2.job == j && e.2.phase == s.jPhase j)).map Prod.fst
      (s.cancelPhase j (s.jPhase j)).modPkt q n (fun p => { p with refs := gs }))
    (fun p s => p.refs.all (fun g => (tget g s.graphs).isNone)))

/-- The meaning of CANCEL_PHASE_PACKET. -/
def execCancelPhasePacket (q n : Nat) (s : State) : Host.Outcome State Fault Refusal :=
  .next (evCancelPhasePacket q n s).finish

/-- CANCEL_JOB_PACKET: cancels a job, another one only from a queue with PRIV (03 R62, R68). -/
def evCancelJobPacket (q n : Nat) (s : State) : State :=
  s.actPacket q n (isTypeSub 6 3) (cancelPkt q n
    (fun p s => decide (pkAddr p.data < 4096) && (pkAddr p.data == s.qJob q || s.qPriv q))
    (fun p s =>
      let j := pkAddr p.data
      let on := s.jState j != 0
      (s.cancelJob j).modPkt q n (fun p => { p with refs := if on then [j] else [] }))
    (fun p _ => p.refs == []))

/-- The meaning of CANCEL_JOB_PACKET. -/
def execCancelJobPacket (q n : Nat) (s : State) : Host.Outcome State Fault Refusal :=
  .next (evCancelJobPacket q n s).finish

-- the dispatcher's choice (03 R69, R70)

/-- Jobs with a deficit or a ready launch. -/
def State.dueJobs (s : State) : List Nat :=
  nubNat [] (((s.bar2.map Prod.fst).filterMap (fun k =>
      if 0x40000 ≤ k ∧ k < 0x50000 ∧ k % 16 = 7 then some ((k - 0x40000) / 16) else none)) ++
    (s.launches.filter (fun e => s.isReady e.2)).map (fun e => e.2.job))

/-- REFILL: each job's deficit grows by 32 times its weight, at most 1,024 times, while it has a
ready launch, and is 0 otherwise; one refill for every 1,000 ns of global time (03 R69). -/
def evRefill  (s : State) : State :=
  if s.gtime / 1000 ≤ s.refilled then s
  else
  (s.dueJobs).foldl (fun t j =>
    let d := if s.launches.any (fun e => e.2.job == j && s.isReady e.2) then
        min (s.jDeficit j + 32 * s.jWeight j) (1024 * s.jWeight j) else 0
    t.setReg (jOff j + 0x1C) (BitVec.ofInt 32 d)) (State.markReady { s with refilled := s.refilled + 1 })

/-- The meaning of REFILL. -/
def execRefill  (s : State) : Host.Outcome State Fault Refusal :=
  .next (evRefill s).finish

-- the end of a launch (02 R55 to R57; 08 R198)

/-- The completion record (02 R56). -/
def Launch.record (l : Launch) (pcap now : Nat) : List Byte :=
  let prio := if l.nextCluster = 0 then (if l.noPrio || !l.hdrRead then 0 else min l.hprio pcap)
    else l.prio
  natLe 2 l.status.toNat ++ natLe 2 l.first.toNat ++ natLe 4 l.faults ++ natLe 8 l.id ++
  natLe 8 l.startT ++ natLe 8 now ++ natLe 4 l.coresUsed.length ++ natLe 4 l.mismatch ++
  natLe 4 l.abft ++ natLe 4 l.preempt ++ natLe 4 l.tag ++ natLe 4 l.blocksExited ++
  natLe 2 l.job ++ natLe 1 prio ++ natLe 5 0

/-- The launch's own writes have passed their GWCTs and its commands have ended (02 R55). -/
def State.launchQuiet (s : State) (l : Launch) : Bool :=
  s.cores.all (fun k => k.2.sq.all (fun e => e.launch != l.id)) &&
    s.blocks.all (fun b => b.2.launch != l.id) && s.xlat.all (fun x => x.1 != l.id) && s.inval == [] && decide (l.lastGwct ≤ s.gtime)

/-- Drops every lease of the device (08 R198). -/
def State.dropAllLeases (s : State) : State :=
  { s with cores := s.cores.map (fun e => (e.1, { e.2 with
      cc := [], l1 := [], out := e.2.out.map (fun o => (o.1, o.2.uncheck)) })) }

/-- Writes the completion record, unless there is none; a fault drops it, and a lost
host's is not written (12 R281). None: it has to wait. -/
def State.writeRecord (l : Launch) (s : State) : Option State :=
  if l.recordA = 0 then some (s.modLaunch l.id (fun L => { L with endStep := 3, endTime := s.gtime }))
  else if l.recordA % 64 ≠ 0 then
    some ((s.modLaunch l.id (fun L => { L with endStep := 3, endTime := s.gtime })).qFail l.queue 1)
  else
    match s.vWrite (via (s.jAsid l.job)) l.recordA (l.record (s.jPcap l.job) s.gtime) with
    | (.ok g, t) => some (t.modLaunch l.id (fun L => { L with endStep := 3, endTime := g }))
    | (.error f, t) =>
      let t' := t.modLaunch l.id (fun L => { L with endStep := 3, endTime := t.gtime })
      if f = heldFault then none
      else if f.code = 0x10 then some t'
      else some (t'.qFail l.queue 1)

/-- Stores the signal, unless there is none; a fault, or the loss of the host that holds the word, drops it
and sets SIGFAULT (02 R55). None: it has to wait. -/
def State.writeSignal (l : Launch) (s : State) : Option State :=
  if l.signalA = 0 then some s
  else if l.signalA % 8 ≠ 0 then some (s.qFail l.queue 7)
  else
    match s.vWrite (via (s.jAsid l.job)) l.signalA (natLe 8 l.sigval) with
    | (.ok _, t) => some t
    | (.error f, t) =>
      if f = heldFault then none else some (t.qFail l.queue 7)

/-- USED of a job's save area (10 R236). -/
def State.setUsed (j : Nat) (s : State) : State :=
  s.setReg (saOff j + 0xC) (BitVec.ofNat 32
    (((s.ranges.filter (fun r => r.job == j)).map (·.units)).sum))

/-- Steps 4 and 5 of 02 R55: the interrupt, the graph's counter and edges, the launch's packet, and
its graph slot and save ranges. -/
def State.resolveLaunch (l : Launch) (s : State) : State :=
  let s := if l.flags / 2 % 2 = 1 then s.raise (s.qIrqv l.queue) else s
  let nodes := ((tget l.graph s.graphs).map (·.nodes)).getD []
  let succ := l.edges.filterMap (fun e => nodes[e]?)
  let s := if l.status = 0 then
      succ.foldl (fun s k => s.modLaunch k (fun L => { L with preds := L.preds - 1 })) s
    else succ.foldl (fun s k => s.cancelLaunch k) s
  let s : State := { s with
    launches := tdel l.id s.launches, slotsUsed := s.slotsUsed - 1,
    clusters := s.clusters.filter (fun c => c.launch != l.id),
    ranges := s.ranges.filter (fun r => r.launch != l.id) }
  let s := (s.setUsed l.job).modGraph l.graph (fun g => { g with left := g.left - 1 })
  let s := match l.pkt with
    | some n => s.pktDone l.queue n
    | none => s
  (s.graphCheckDone l.graph).markReady

/-- LAUNCH_COMPLETE: the steps of 02 R55, one after another: its writes, the kernel boundary, the
record, the signal, the interrupt and the graph. -/
def evLaunchComplete (l : Nat) (s : State) : State :=
  match s.launch l with
  | none => s
  | some L =>
    if L.stage ≠ .ending ∨ !(L.checked || L.cancelled) then s
    else
      match L.endStep with
      | 0 =>
        if !s.launchQuiet L then s
        else
          let w := s.cores.flatMap (fun k => k.2.sq.map (fun e => (k.1, e.id)))
          s.modLaunch l (fun L => { L with endStep := 1, endWait := w })
      | 1 =>
        if L.endWait.any (fun w => (s.core w.1).sq.any (fun e => e.id == w.2)) then s
        else s.modLaunch l (fun L => { L with endStep := 2, endTime := s.lastGwct })
      | 2 => if s.gtime < L.endTime ∨ s.inval ≠ [] then s
             else (State.writeRecord L s.dropAllLeases).getD s
      | _ =>
        if s.gtime < L.endTime then s
        else
          match s.writeSignal L with
          | none => s
          | some s => s.resolveLaunch L

/-- The meaning of LAUNCH_COMPLETE. -/
def execLaunchComplete (l : Nat) (s : State) : Host.Outcome State Fault Refusal :=
  .next (evLaunchComplete l s).finish

end Sys2Proof.Machine
end

