-- ==== Sys2Proof/Machine/Traps.lean ====
section
/-!
DEFINITION. What leaves the core queues: copy commands, trap records and calls; handler entry, the
fault ring and resumption; remote acquires and samples (03 R75 to R77; 08 R200; 10 R226 to R234;
18 R418).
-/

set_option Elab.async false

namespace Sys2Proof.Machine

-- trap records (10 R226, R227, R230, R231)

/-- A drained trap record: its sub-warp waits for the handler or for the host. -/
def State.trapDrained (wid id : Nat) (s : State) : State :=
  s.modWarp wid (fun w => { w with parked := w.parked.map (fun p =>
    if p.id = id then { p with st := if p.record.host then .hostWait else .handlerWait } else p) })

/-- HANDLER_ENTRY: the first handler-bound sub-warp whose record has drained enters handler mode
(10 R227); the parked lanes of a victim or of a saved block stop where they stand (10 R237, R242). -/
def evHandlerEntry (wid : Nat) (s : State) : State :=
  if s.isVictim (blkOf wid) || s.blockOff (blkOf wid) then s else s.enterHandler wid

/-- The meaning of HANDLER_ENTRY. -/
def execHandlerEntry (wid : Nat) (s : State) : Host.Outcome State Fault Refusal :=
  .next (evHandlerEntry wid s).finish

/-- FRLOG of a job's fault ring. -/
def State.frLog (s : State) (j : Nat) : Nat := s.regF (frOff j + 8) 0 8

/-- The fault ring takes another record, or is disabled (10 R231). -/
def State.frRoom (s : State) (j : Nat) : Bool :=
  s.frLog j == 0 ||
    decide ((s.reg (frOff j + 0xC) - s.reg (frOff j + 0x10)).toNat < 2 ^ s.frLog j)

/-- Sub-warps of a core that wait for the host, with their warps. -/
def State.hostWaiters (s : State) (core : Nat) : List (Nat × Parked) :=
  s.warps.flatMap (fun e => if s.coreOf e.1 = core then
    (e.2.parked.filter (fun p => p.st == .hostWait)).map (fun p => (e.1, p)) else [])

/-- A sub-warp stands at `st` on its way. -/
def State.setPark (wid id : Nat) (st : ParkSt) (s : State) : State :=
  s.modWarp wid (fun w => { w with parked := w.parked.map (fun p =>
    if p.id = id then { p with st := st } else p) })

/-- The time at which the release after a written record ends (10 R231). -/
def Parked.postTime (p : Parked) : Option Nat :=
  match p.st with
  | .hostPost t => some t
  | _ => none

/-- Sub-warps whose record is written and not yet counted, with their warps. -/
def State.hostPosts (s : State) : List (Nat × Parked) :=
  s.warps.flatMap (fun e => (e.2.parked.filter (fun p => p.postTime.isSome)).map (fun p => (e.1, p)))

/-- Numbers a record and counts it: PRODUCE and the interrupt (10 R231). -/
def State.hostDelivered (wid id j : Nat) (s : State) : State :=
  let n := s.reg (frOff j + 0xC)
  let s := s.modWarp wid (fun w => { w with parked := w.parked.map (fun p =>
    if p.id = id then { p with st := .host, record := { p.record with seq := n.setWidth 24 } }
    else p) })
  (s.setReg (frOff j + 0xC) (n + 1)).raise (s.regF (frOff j + 8) 8 8)

/-- Writes the record of a sub-warp in its job's ring, and leaves it until the release has ended; a faulting
write sets WFAULT, and a lost host's record is dropped (10 R231; 12 R281). -/
def State.recordWrite (core wid : Nat) (p : Parked) (s : State) : State :=
  let j := s.jobOf wid
  let n := s.reg (frOff j + 0xC)
  if s.hostLost then s.setPark wid p.id .host
  else if s.frLog j = 0 then s.hostDelivered wid p.id j
  else
    let r : FaultRec := { p.record with seq := n.setWidth 24, host := true }
    let va := (s.reg64 (frOff j)).toNat + 64 * (n.toNat % 2 ^ s.frLog j)
    match s.vWrite (viaCore (s.jAsid j) core) va r.bytes with
    | (.ok g, t) => t.setPark wid p.id (.hostPost g)
    | (.error f, t) =>
      if f = heldFault then s else (t.setRegF (frOff j + 8) 16 1 1).hostDelivered wid p.id j

/-- HOST_FAULT_RECORD: a written record of a core whose release at .sys has ended is counted; else the
oldest host-bound record whose ring has room is written, one of a job at a time (10 R231). -/
def evHostFaultRecord (core : Nat) (s : State) : State :=
  let posts := s.hostPosts
  let mine := posts.filter (fun e => s.coreOf e.1 == core)
  match mine.find? (fun e => e.2.postTime.any (fun t => decide (t ≤ s.gtime)) && s.inval == []) with
  | some e => s.hostDelivered e.1 e.2.id (s.jobOf e.1)
  | none =>
    match minBy (fun e => e.2.id) ((s.hostWaiters core).filter (fun e =>
        s.frRoom (s.jobOf e.1) && posts.all (fun x => s.jobOf x.1 != s.jobOf e.1))) with
    | none => s
    | some e => s.recordWrite core e.1 e.2

/-- The meaning of HOST_FAULT_RECORD. -/
def execHostFaultRecord (core : Nat) (s : State) : Host.Outcome State Fault Refusal :=
  .next (evHostFaultRecord core s).finish

/-- The parked sub-warp of a job that a RESUME names (10 R231). -/
def State.resumeTarget (s : State) (j : Nat) (seq : BitVec 24) : Option (Nat × Parked) :=
  (s.warps.flatMap (fun e => if s.jobOf e.1 = j then
    (e.2.parked.filter (fun p => p.st == .host && p.record.seq == seq)).map (fun p => (e.1, p))
    else [])).head?

/-- A sub-warp is parked no longer. -/
def State.unpark (wid id : Nat) (s : State) : State :=
  s.modWarp wid (fun w => { w with parked := w.parked.filter (fun q => q.id != id) })

/-- RESUME_RETRY: a RESUME with action 0 acts as HRET for the whole sub-warp (10 R228, R231); that of a saved
block acts once the block runs again (10 R242; DEDUCED, log entry 111). -/
def evResumeRetry (j : Nat) (seq : BitVec 24) (s : State) : State :=
  match s.resumeTarget j seq with
  | none => s
  | some (wid, p) =>
    if s.blockOff (blkOf wid) then s.setPark wid p.id (.resumed false)
    else (s.unpark wid p.id).modWarp wid (Warp.resumeAt p.mask p.resume)

/-- The meaning of RESUME_RETRY. -/
def execResumeRetry (j : Nat) (seq : BitVec 24) (s : State) : Host.Outcome State Fault Refusal :=
  .next (evResumeRetry j seq s).finish

/-- RESUME_END: a RESUME with action 1 acts as EXIT (10 R228, R231; log entry 111). -/
def evResumeEnd (j : Nat) (seq : BitVec 24) (s : State) : State :=
  match s.resumeTarget j seq with
  | none => s
  | some (wid, p) =>
    if s.blockOff (blkOf wid) then s.setPark wid p.id (.resumed true)
    else (s.unpark wid p.id).exitLanes wid p.mask

/-- The meaning of RESUME_END. -/
def execResumeEnd (j : Nat) (seq : BitVec 24) (s : State) : Host.Outcome State Fault Refusal :=
  .next (evResumeEnd j seq s).finish

-- calls at drain (10 R232 to R234)

/-- Bytes 0x010 to 0x03F of a call block, and its requests. -/
def WcallRec.header (r : WcallRec) (core : Nat) : List Byte :=
  natLe 4 r.mask.toNat ++ natLe 4 r.svc.toNat ++ natLe 8 r.launch ++ natLe 4 r.block ++
    natLe 2 r.warpNum ++ natLe 2 core ++ natLe 24 0

def WcallRec.requests (r : WcallRec) : List Byte :=
  (List.range 32).flatMap (fun l =>
    match r.reqs.find? (fun e => e.1 == l) with
    | some e => (List.range 4).flatMap (fun k => natLe 4 (e.2.getD k 0).toNat)
    | none => natLe 16 0)

/-- The notice of a call, without its last field (10 R233). -/
def WcallRec.notice (r : WcallRec) (core n : Nat) : List Byte :=
  natLe 8 r.base.toNat ++ natLe 8 n ++ (r.header core).take 32 ++ natLe 2 r.job ++ natLe 6 0

/-- Fields of %callq (10 R232). -/
def State.cqBase (s : State) (j : Nat) : Nat := bitsOf (fget 0 j s.callq).toNat 12 43 * 4096
def State.cqSize (s : State) (j : Nat) : Nat := 2 ^ (bitsOf (fget 0 j s.callq).toNat 4 4 + 4)
def State.cqIrq (s : State) (j : Nat) : Bool := (fget 0 j s.callq).getLsbD 8

/-- The job's lead queue. -/
def State.leadQueue (s : State) (j : Nat) : Option Nat :=
  ((s.bar2.map Prod.fst).filterMap (fun k =>
    if k < 0x40000 ∧ k % 16 = 2 then some (k / 16) else none)).find? (fun q =>
      s.qLead q && s.qJob q == j)

/-- What a drain step of a call comes to: it goes on, waits, or ends with a fault or not. -/
inductive CallStep where
  | on (r : WcallRec) (s : State)
  | stay
  | ended (fault : Bool) (s : State)

/-- Writes of a call at one virtual address after another; a fault ends the call (10 R234). -/
def State.callWrites (v : Via) : List (Nat × List Byte) → Nat → State → Except FaultInfo Nat × State
  | [], g, s => (.ok g, s)
  | w :: r, g, s =>
    match s.vWrite v w.1 w.2 with
    | (.error f, s) => (.error f, s)
    | (.ok t, s) => State.callWrites v r (max g t) s

/-- A drain step that writes: it waits while a write is held, and a fault ends the call (10 R234). -/
def State.callPut (v : Via) (ws : List (Nat × List Byte)) (k : Nat → State → CallStep) (s : State) : CallStep :=
  match State.callWrites v ws 0 s with
  | (.ok g, t) => k g t
  | (.error f, t) => if f = heldFault then .stay else .ended true t

/-- The release of a call has ended: its writes have passed their GWCT, its store to DONE is acknowledged,
and no replica is still to be invalidated (08 R190; 10 R234; 12 R278). -/
def State.callReleased (s : State) (core : Nat) (r : WcallRec) : Bool :=
  decide (r.time ≤ s.gtime) && s.inval == [] && (s.core core).sq.all (fun e => e.id != r.sq)

/-- Steps of the drain of a call: the block's header and requests as weak stores; after a release, and once the
ring has room, the notice's number and the notice; after another, NSEQ and the interrupt (10 R234). -/
def State.callStep (core : Nat) (r : WcallRec) (s : State) : CallStep :=
  let v := viaCore (s.jAsid r.job) core
  let b := r.base.toNat
  let q := s.cqBase r.job
  let size := s.cqSize r.job
  let slot (n : Nat) : Nat := q + 64 + 64 * (n % size)
  if r.phase = 0 then
    s.callPut v [(b + 0x10, r.header core), (b + 0x40, r.requests)]
      (fun g t => .on { r with phase := 1, time := g } t)
  else if !s.callReleased core r then .stay
  else if r.phase = 1 then
    match s.vRead v q 16 with
    | .error f => if f = heldFault then .stay else .ended true s
    | .ok bs =>
      let n := leNat (bs.take 8)
      if (n + 2 ^ 64 - leNat (bs.drop 8)) % 2 ^ 64 = size then .stay
      else s.callPut v [(q, natLe 8 (n + 1)), (b + 8, natLe 8 n), (slot n, r.notice core n)]
        (fun g t => .on { r with phase := 2, time := g, n := n } t)
  else
    s.callPut v [(slot r.n + 0x38, natLe 8 (r.n + 1))] (fun _ t =>
      .ended false (match t.leadQueue r.job with
        | some k => if t.cqIrq r.job then t.raise (t.qIrqv k) else t
        | none => t))

/-- A drain step of the call at a place of a core's queue. -/
def State.callDrain (core i : Nat) (r : WcallRec) (s : State) : State :=
  match s.callStep core r with
  | .stay => s
  | .on r t => t.modCore core (fun k => { k with queue := k.queue.set i (.wcall r) })
  | .ended bad t =>
    let t := t.modCore core (fun k => { k with queue := k.queue.eraseIdx i })
    if bad then { t with wcallFault := t.wcallFault ++ [(r.wid, r.base)] } else t

/-- A call may take a drain step: it has begun one, or the queue hands it on next. -/
def State.callAt (s : State) (core : Nat) (i : Nat) : Option WcallRec :=
  match (s.core core).queue[i]? with
  | some (.wcall r) =>
    if r.phase ≠ 0 ∨ (s.nextEntry core).any (fun e => e.1 == i) then some r else none
  | _ => none

/-- WCALL_DRAIN: the first call of the core's queue that can go on takes its next drain step (10
R234). -/
def evWcallDrain (core : Nat) (s : State) : State :=
  let go (i : Nat) : Bool := match s.callAt core i with
    | some r => (match s.callStep core r with | .stay => false | _ => true)
    | none => false
  match (List.range (s.core core).queue.length).find? go with
  | none => s
  | some i => match s.callAt core i with
    | some r => s.callDrain core i r
    | none => s

/-- The meaning of WCALL_DRAIN. -/
def execWcallDrain (core : Nat) (s : State) : Host.Outcome State Fault Refusal :=
  .next (evWcallDrain core s).finish

-- the core queue (03 R75 to R77)

/-- The lowest free engine of the die of a core. -/
def State.freeEngine (s : State) (core : Nat) : Option Nat :=
  ((List.range Config.enginesPerDie).map (engNo (core / Config.coresPerDie))).find?
    (fun e => (tget e s.engines).isNone)

/-- QUEUE_HAND_ON: the oldest entry goes to an engine, to the handler path or the host, or to the
drain step of calls (03 R75; 07 R173; 10 R226, R234). -/
def evQueueHandOn (core : Nat) (s : State) : State :=
  match s.nextEntry core with
  | none => s
  | some (i, .copy _) =>
    match s.freeEngine core with
    | some e => s.handCopy core e i
    | none => s
  | some (i, .trap wid id) =>
    (s.modCore core (fun k => { k with queue := k.queue.eraseIdx i })).trapDrained wid id
  | some (i, .wcall r) => s.callDrain core i r
  | some (_, .wmore _ _) => s

/-- The meaning of QUEUE_HAND_ON. -/
def execQueueHandOn (core : Nat) (s : State) : Host.Outcome State Fault Refusal :=
  .next (evQueueHandOn core s).finish

/-- Waiting trap records enter the ring when it has room; one whose write faults waits for the queue
(03 R77). -/
def State.promote (core job : Nat) : Nat → State → State
  | 0, s => s
  | n + 1, s =>
    let key := spillKey job core
    let es := tgetD [] key s.spill
    let k := (es.takeWhile (fun e => e.st != .noRoom)).length
    match es[k]? with
    | none => s
    | some x =>
      if s.jQuota job < ringCount es + x.e.weight then s
      else
        let (bs, t) := s.entryBytes x.e
        match t.ringWrite job core (fget 0 key t.spillHead + ringCount es) bs with
        | (none, t) => State.promote core job n
            { t with spill := tset key (es.set k { x with st := .inRing }) t.spill }
        | (some f, t) =>
          if f = heldFault then s
          else State.promote core job n
            { t with spill := tset key (es.set k { x with st := .faulted }) t.spill }

/-- SPILL_REFILL: the entries at the head of a job's spill path enter the core queue while it has room (03
R76, R77). -/
def evSpillRefill (core job : Nat) (s : State) : State :=
  let key := spillKey job core
  match tgetD [] key s.spill with
  | [] => s
  | x :: r =>
    match x.e.split (s.queueFree core) with
    | (none, _) => s.promote core job (r.length + 1)
    | (some e, left) =>
      let s := s.modCore core (fun k => { k with queue := queuePut e k.queue })
      let head := fget 0 key s.spillHead + (if x.st = .inRing then e.weight else 0)
      let r := match left with
        | none => r
        | some y => { x with e := y } :: r
      let s : State := { s with
        spill := if r = [] then tdel key s.spill else tset key r s.spill,
        spillHead := fset 0 key head s.spillHead }
      s.promote core job r.length

/-- The meaning of SPILL_REFILL. -/
def execSpillRefill (core job : Nat) (s : State) : Host.Outcome State Fault Refusal :=
  .next (evSpillRefill core job s).finish

-- remote acquires and samples

/-- RACQ_REMOTE: requests whose writes are acknowledged take the time to wait for; those whose
time has passed drop the core's leases and end (08 R200). -/
def evRacqRemote (core : Nat) (s : State) : State :=
  let k := s.core core
  let acked (r : RacqReq) : Bool := !(k.sq.any (fun e => r.ids.contains e.id))
  let ends (r : RacqReq) : Bool := r.ids == [] && decide (r.time ≤ s.gtime) && s.inval == []
  let left := (k.racq.filter (fun r => !ends r)).map (fun r =>
    if r.ids != [] && acked r then { r with ids := [], time := max r.time s.lastGwct } else r)
  let s := if k.racq.any ends then s.dropLeases core else s
  s.modCore core (fun k => { k with racq := left })

/-- The meaning of RACQ_REMOTE. -/
def execRacqRemote (core : Nat) (s : State) : Host.Outcome State Fault Refusal :=
  .next (evRacqRemote core s).finish

/-- WAITA_SAMPLE: lanes of a waiting WAITA sample their words again (18 R418). -/
def evWaitaSample (wid : Nat) (s : State) : State :=
  match s.warp wid with
  | none => s
  | some w =>
    (w.waits.filter (fun b => (b.tag.map (·.why)) == some .waita)).foldl (fun s b =>
      match s.warp wid with
      | none => s
      | some w =>
        match b.run.bind (fun r => bindCtx s (s.coreOf wid) w.part 0 b r w) with
        | none => s
        | some c =>
          match decode c.words with
          | .ok (.waita cd wd _ _ m _ b imm) =>
            if s.strongWaits c (memReach s c m (imm.signExtend 64) (if wd.is64 then 8 else 4) .read) then s
            else (s.sampleAll c cd wd.is64 m b (imm.signExtend 64)).2
          | _ => s) s

/-- The meaning of WAITA_SAMPLE. -/
def execWaitaSample (wid : Nat) (s : State) : Host.Outcome State Fault Refusal :=
  .next (evWaitaSample wid s).finish

end Sys2Proof.Machine
end

