-- ==== Sys2Proof/Machine/Preempt.lean ====
section
/-!
DEFINITION. Spatial pre-emption: requests, victims, saving and resuming blocks, and the moves of a
failed core (01 R35; 03 R71; 07 R177; 08 R199; 10 R236 to R243).
-/

set_option Elab.async false

namespace Sys2Proof.Machine

-- victims (03 R71)

/-- Blocks of a cluster that are resident and not complete. -/
def State.clusterBlocks (s : State) (l k : Nat) : List (Nat × Block) :=
  s.blocks.filter (fun e => e.2.launch == l && e.2.cluster == k && !e.2.done && e.2.savedOn.isNone)

/-- The unit in which a cluster is chosen, saved or abandoned: itself, or all of a co-resident
launch (02 R52; 10 R237). -/
def State.victimUnit (s : State) (l k : Nat) : List (Nat × Nat) :=
  match s.launch l with
  | some L =>
    if L.flags % 2 = 1 then
      (s.clusters.filter (fun c => c.launch == l && s.clusterBlocks l c.idx != [])).map
        (fun c => (l, c.idx))
    else [(l, k)]
  | none => []

/-- Effective priority of a resident launch. -/
def State.resPrio (s : State) (l : Nat) : Nat := ((s.launch l).map s.effPrio).getD 0

/-- Sorts by a key, smallest first. -/
def sortBy {α : Type} [DecidableEq α] (key : α → Nat) : Nat → List α → List α
  | 0, _ => []
  | n + 1, xs =>
    match minBy key xs with
    | none => []
    | some x => x :: sortBy key n (xs.erase x)

/-- The parked sub-warps of a warp in creation order, the one in handler mode among them (10 R228): number,
lanes, record and saved temporaries. -/
def Warp.parkedSet (w : Warp) : List (Nat × Mask × FaultRec × FMap Word) :=
  let h := (w.handler.map (fun h => (h.id, h.mask, h.record, h.temps))).toList
  let ps := w.parked.map (fun p => (p.id, p.mask, p.record, p.temps))
  sortBy (fun (x : Nat × Mask × FaultRec × FMap Word) => x.1) (ps.length + 1) (h ++ ps)

/-- Parked part of a warp section (10 R239). -/
def parkedBytes (w : Warp) : Nat :=
  let n := w.parkedSet.length
  if n = 0 then 0 else alignUp 128 (1024 + 64 * n)

/-- Bytes of a warp section (10 R239). -/
def Warp.sectionBytes (w : Warp) : Nat :=
  896 + alignUp 128 (4 * (if w.g16 then 2 else 1) * w.sregs) + 128 * w.vregs + parkedBytes w

/-- Copy commands of a block that engines, the core queue and the spill path hold, in that order, and those
saved before that no queue has taken yet (07 R177). -/
def State.blockCopies (s : State) (blk : Nat) : List QEntry :=
  let mine (e : QEntry) : Bool := match e with | .copy c => c.blk == blk | _ => false
  let core := ((s.block blk).map (·.core)).getD 0
  (s.engines.filter (fun e => e.2.cmd.blk == blk)).map
      (fun e => QEntry.copy { e.2.cmd with slot := e.2.slot }) ++
    (s.core core).queue.filter mine ++
    s.spill.flatMap (fun e => (e.2.map (·.e)).filter mine) ++ tgetD [] blk s.saved

/-- Image size of a block (10 R240). -/
def State.imageSize (s : State) (blk : Nat) : Nat :=
  match s.block blk with
  | none => 0
  | some b =>
    let L := s.launch b.launch
    1536 + 128 * (((s.blockCopies blk).length + 1) / 2) +
      ((s.warpsOf blk).map (fun wid => match s.warp wid with
        | some w => w.sectionBytes
        | none => 0)).sum +
      (L.map (fun L => L.kscr + L.qscr)).getD 0 + 22656 * b.tiles.length

/-- Units of an image. -/
def unitsFor (n : Nat) : Nat := (n + 65535) / 65536

/-- First fit from SABASE (10 R236). -/
def State.fitRange (s : State) (j : Nat) (rs : List SaveRange) (units : Nat) : Option Nat :=
  let size := (s.reg (saOff j + 8)).toNat
  let mine := rs.filter (fun r => r.job == j)
  minBy id ((0 :: mine.map (fun r => r.base + r.units)).filter (fun b =>
    decide (b + units ≤ size) &&
      mine.all (fun r => decide (b + units ≤ r.base) || decide (r.base + r.units ≤ b))))

/-- The save areas take the images of these blocks beside the ranges held. -/
def State.unitFits (s : State) : List Nat → List SaveRange → Bool
  | [], _ => true
  | blk :: r, rs =>
    match s.block blk with
    | none => State.unitFits s r rs
    | some b =>
      let j := ((s.launch b.launch).map (·.job)).getD 0
      let n := unitsFor (s.imageSize blk)
      match s.fitRange j rs n with
      | none => false
      | some base => State.unitFits s r
          (rs ++ [{ job := j, launch := b.launch, blk := blk, base := base, units := n }])

/-- Blocks of a unit. -/
def State.unitBlocks (s : State) (u : List (Nat × Nat)) : List Nat :=
  u.flatMap (fun c => (s.clusterBlocks c.1 c.2).map Prod.fst)

/-- A cluster is a victim of some request already. -/
def State.taken (s : State) (l k : Nat) : Bool :=
  s.pre.any (fun r => r.victims.any (fun v => v.launch == l && v.cluster == k))

/-- Candidate clusters on a die in victim order: lowest priority, newest launch, newest cluster first
(03 R71). -/
def State.candidates (s : State) (L : Launch) (d : Nat) (gone : List (Nat × Nat)) :
    List (Nat × Nat) :=
  let p := s.effPrio L
  let own := decide (s.coreLimit L.job ≤ (s.jobCores L.job).length)
  let cs := s.clusters.filter (fun c =>
    let ok := match s.launch c.launch with
      | some v => (!own || v.job == L.job) && decide (s.effPrio v < p) && v.id != L.id &&
          !v.cancelled
      | none => false
    ok && !gone.contains (c.launch, c.idx) && !s.taken c.launch c.idx &&
      (s.clusterBlocks c.launch c.idx).any (fun b => b.2.core / Config.coresPerDie == d) &&
      s.unitFits (s.unitBlocks (s.victimUnit c.launch c.idx)) s.ranges)
  (sortBy (fun (c : Cluster) => 2 ^ 80 * s.resPrio c.launch + 2 ^ 40 * (2 ^ 40 - 1 - c.launch) +
    (2 ^ 40 - 1 - c.placedSeq)) cs.length cs).map (fun c => (c.launch, c.idx))

/-- Blocks of a launch that fit a core as it now stands, at most `n` (03 R71). -/
def State.fitsNow (l : Launch) (core : Nat) : Nat → State → Nat
  | 0, _ => 0
  | n + 1, s =>
    if s.roomFor l l.costs core then 1 + State.fitsNow l core n (s.placeBlock l 0 0 core) else 0

/-- Blocks of the launch's next cluster that a die could hold once the cores `held` are empty. -/
def State.dieCount (s : State) (L : Launch) (d : Nat) (held : List Nat) : Nat :=
  ((dieCores d).map (fun c =>
    if held.contains c then L.perEmpty
    else if (s.coresFor L L.costs d).contains c then State.fitsNow L c 16 s else 0)).sum

/-- Cores of a die that clusters hold. -/
def State.heldCores (s : State) (d : Nat) (u : List (Nat × Nat)) : List Nat :=
  nubNat [] (u.flatMap (fun c => ((s.clusterBlocks c.1 c.2).map (fun b => b.2.core)).filter
    (fun c => c / Config.coresPerDie == d)))

/-- Units taken in order until the count is met; none: it is never met. -/
def State.takeUnits (s : State) (L : Launch) (d : Nat) :
    Nat → List (Nat × Nat) → List (Nat × Nat) → Option (List (Nat × Nat))
  | 0, _, _ => none
  | n + 1, u, cs =>
    if L.clSize ≤ s.dieCount L d (s.heldCores d u) then some u
    else
      match cs.filter (fun c => !u.contains c) with
      | [] => none
      | c :: r => State.takeUnits s L d n (u ++ s.victimUnit c.1 c.2) r

/-- PREEMPT_REQUEST: a launch skipped for 1,000 ns requests the victims of the die that needs the fewest. A
die whose count is met with no victim at all is passed over: it has room, and a request that names no
core is none (03 R71; 10 R237; DESIGN CHOICE, log entry 112). -/
def evPreemptRequest (l : Nat) (s : State) : State :=
  match s.launch l with
  | none => s
  | some L =>
    if !L.skipped || !s.isReady L || decide (s.gtime < L.skipSince + 1000) ||
        s.pre.any (fun r => r.launch == some l) then s
    else
      let picks := (List.range Config.dies).filterMap (fun d =>
        let cs := s.candidates L d []
        (s.takeUnits L d (cs.length + 1) [] cs).map (fun u => (d, u)))
      match minBy (fun x => x.2.length) (picks.filter (fun x => x.2 != [])) with
      | none => s
      | some (d, u) =>
        let r : PreReq :=
          { launch := some l, die := d, cores := s.heldCores d u, gone := [], abandoned := 0,
            victims := u.map (fun c => { launch := c.1, cluster := c.2, time := s.gtime }) }
        { s with pre := s.pre ++ [r] }

/-- The meaning of PREEMPT_REQUEST. -/
def execPreemptRequest (l : Nat) (s : State) : Host.Outcome State Fault Refusal :=
  .next (evPreemptRequest l s).finish

-- stopping and abandoning (10 R237)

/-- Every live lane of the warp stands at a run boundary, parked or waiting at a barrier. -/
def State.atBoundary (s : State) (wid : Nat) (w : Warp) : Bool :=
  !s.isBound wid && w.waits == [] && w.lnx == [] && w.graft.isNone &&
    w.live &&& ~~~w.heldLanes &&& w.midRun == 0

/-- Every warp of a block stands at a run boundary; those of a failed core have stopped. -/
def State.blockStill (s : State) (blk : Nat) : Bool :=
  ((s.block blk).map (fun b => (s.core b.core).failed)).getD true ||
    (s.warpsOf blk).all (fun wid => match s.warp wid with
      | some w => s.atBoundary wid w
      | none => true)

/-- Changes a request. -/
def State.modReq (k : Nat) (f : PreReq → PreReq) (s : State) : State :=
  { s with pre := (s.pre.zipIdx).map (fun e => if e.2 = k then f e.1 else e.1) }

/-- A request whose victims are all saved or complete, and whose cores are vacated, ends; its launch
is placed on that die (03 R71). With no victim at all nothing was gained: the launch waits anew
(10 R243). -/
def State.endRequests (s : State) : State :=
  let idle (r : PreReq) : Bool := r.victims == [] && r.cores == []
  let s := s.pre.foldl (fun s r =>
    match r.launch with
    | some l => if idle r then s.modLaunch l (fun L =>
        { L with die := some r.die, skipSince := s.gtime, skipped := false }) else s
    | none => s) s
  { s with pre := s.pre.filter (fun r => !idle r) }

/-- A victim unit is abandoned: it runs on, and the next candidate on the die is chosen until four
have been abandoned (10 R237). -/
def State.abandon (k : Nat) (u : List (Nat × Nat)) (s : State) : State :=
  match s.pre[k]? with
  | none => s
  | some r =>
    let left := r.victims.filter (fun v => !u.contains (v.launch, v.cluster))
    let r : PreReq := { r with victims := left, gone := r.gone ++ u, abandoned := r.abandoned + 1 }
    let s := s.modReq k (fun _ => r)
    match r.launch.bind s.launch with
    | none => s
    | some L =>
      let have' := left.map (fun v => (v.launch, v.cluster))
      let more := if 4 ≤ r.abandoned then none
        else
          let cs := s.candidates L r.die r.gone
          s.takeUnits L r.die (cs.length + 1) have' cs
      let new := ((more.getD have').filter (fun c => !have'.contains c)).map (fun c =>
        ({ launch := c.1, cluster := c.2, time := s.gtime } : Victim))
      let vs := left ++ new
      let s := s.modReq k (fun r => { r with
        victims := vs,
        cores := (r.cores.filter (fun c => (s.resident c).any (fun b => b.2.held))) ++
          s.heldCores r.die (vs.map (fun v => (v.launch, v.cluster))) })
      s.endRequests

/-- A unit of a victim is not at run boundaries 2,000 ns after its choice. -/
def State.overdue (s : State) (v : Victim) : Bool :=
  decide (v.time + 2000 ≤ s.gtime) &&
    !((s.unitBlocks (s.victimUnit v.launch v.cluster)).all s.blockStill)

/-- PREEMPT_ABANDON: a victim with a warp not at a run boundary 2,000 ns after its choice is
abandoned (10 R237). -/
def evPreemptAbandon (req : Nat) (s : State) : State :=
  match s.pre[req]? with
  | none => s
  | some r =>
    if r.launch.isNone then s
    else
      match r.victims.find? s.overdue with
      | none => s
      | some v => s.abandon req (s.victimUnit v.launch v.cluster)

/-- The meaning of PREEMPT_ABANDON. -/
def execPreemptAbandon (req : Nat) (s : State) : Host.Outcome State Fault Refusal :=
  .next (evPreemptAbandon req s).finish

-- images (10 R238, R239): how a section's fields are packed within it is the model's (log entry 113)

/-- Zeros up to a multiple of 128. -/
def pad128 (bs : List Byte) : List Byte := bs ++ List.replicate (alignUp 128 bs.length - bs.length) 0

/-- Zeros up to `n` bytes, or the first `n`. -/
def padTo (n : Nat) (bs : List Byte) : List Byte := bs.take n ++ List.replicate (n - bs.length) 0

/-- Numbers for the states that an image holds. -/
def LaneSt.num : LaneSt → Nat | .live => 0 | .exited => 1 | .never => 2
def SlotSt.num : SlotSt → Nat | .free => 0 | .reserved => 1 | .committed => 2 | .filled => 3 | .acquired => 4
def MOp.num : MOp → Nat | .mma => 0 | .mmat => 1 | .tzero => 2 | .tld => 3 | .tst => 4

/-- The header section (10 R238). -/
def State.headerImage (s : State) (blk : Nat) (b : Block) : List Byte :=
  let ws := (s.warpsOf blk).filterMap s.warp
  padTo 256 (natLe 8 b.launch ++ natLe 4 (((s.launch b.launch).map b.num).getD 0) ++ natLe 4 b.cluster ++
    natLe 4 b.rank ++ natLe 2 b.nwarps ++ natLe 2 (b.core / Config.coresPerDie) ++
    natLe 4 (s.blockCopies blk).length ++ natLe 4 ((ws.map (fun w => w.parkedSet.length)).sum))

/-- A circular buffer: slot states, Pr, Pf, Ca, and the order of reservations (10 R238). -/
def CBuf.image (c : CBuf) : List Byte :=
  let st := (List.range 64).foldl (fun n k => n + 2 ^ (3 * k) * (c.slots.getD k .free).num) 0
  padTo 32 (natLe 24 st ++ [c.pr, c.pf, c.ca].flatMap (natLe 1) ++ c.sw.flatMap (natLe 1))

/-- A stream slot: armed, record, position (10 R238). -/
def streamImage (x : Option Stream) : List Byte :=
  match x with
  | some st => natLe 8 1 ++ natLe 64 st.rcd.toNat ++ natLe 8 st.pos
  | none => natLe 80 0

/-- The arrival state of a barrier (10 R238). -/
def Barrier.image (b : Barrier) : List Byte :=
  natLe 2 ((b.need.map (· + 1)).getD 0) ++ natLe 2 b.arrived ++ natLe 2 b.first

/-- The barrier section: BAR 0 to 15, CBAR 0 to 3 (10 R238). -/
def State.barImage (s : State) (b : Block) : List Byte :=
  let cb := ((s.clusters.find? (fun x => x.launch == b.launch && x.idx == b.cluster)).map (·.cbar)).getD []
  padTo 128 ((List.range 16).flatMap (fun k => (b.bars.getD k Barrier.idle).image) ++
    (List.range 4).flatMap (fun k => (cb.getD k Barrier.idle).image))

/-- Flags, %fpflags, pass count and state of a lane (10 R239). -/
def Lane.image (x : Lane) : List Byte :=
  natLe 1 x.f.toNat ++ natLe 1 x.fpf.toNat ++ natLe 1 x.pass ++ natLe 1 x.st.num

/-- The warp state part (10 R239). -/
def Warp.stateImage (w : Warp) : List Byte :=
  let js := (List.range 16).flatMap (fun n =>
    natLe 4 (w.jOut.getD n 0).toNat ++ natLe 4 (w.jWait.getD n 0).toNat)
  let cs := (List.range 8).flatMap (fun n =>
    let c := w.w.getD n WaitCtr.zero
    natLe 4 c.val.toNat ++ natLe 8 c.time ++ natLe 1 ((c.err.map (·.code.toNat)).getD 0))
  let mode := b2n w.hdrilk + 2 * b2n w.ilk + 4 * b2n w.score + 8 * b2n w.effilk + 16 * w.level
  padTo 256 (js ++ cs ++ natLe 8 w.lwct ++ natLe 1 mode ++ natLe 4 w.gang.toNat ++
    [0, 1].flatMap (fun h => natLe 1 (w.g.getD h 0).toNat) ++ natLe 1 w.tile ++ natLe 1 (b2n w.yielded) ++
    natLe 4 w.age ++ natLe 1 w.vregs ++ natLe 1 w.sregs ++ natLe 1 w.parkedSet.length)

/-- An undispatched latch arrival (10 R239; 06 R128). -/
def Arrival.image (a : Arrival) : List Byte :=
  padTo 48 (natLe 16 a.da.toNat ++ natLe 16 a.db.toNat ++ natLe 4 a.fmt.toNat ++ natLe 1 a.op.num ++
    natLe 1 a.tile ++ natLe 4 a.ord ++ natLe 1 (b2n a.priv))

/-- The latch and the handler bank (10 R239). -/
def Warp.latchImage (w : Warp) : List Byte :=
  padTo 192 (w.arrivals.flatMap Arrival.image) ++
    (List.range 16).flatMap (fun k => natLe 4 ((w.handler.map (fun (h : Handler) => h.bank.getD k 0)).getD 0).toNat)

/-- The registers of a warp section: uniform banks, then vector registers (10 R239). -/
def Warp.regImage (w : Warp) : List Byte :=
  pad128 ((if w.g16 then [0, 1] else [0]).flatMap (fun h =>
    (List.range w.sregs).flatMap (fun n => natLe 4 (fget 0 (128 * h + n) w.u).toNat))) ++
  (List.range w.vregs).flatMap (fun n =>
    (List.range 32).flatMap (fun l => natLe 4 (fget 0 (32 * n + l) w.v).toNat))

/-- The parked part: the saved temporaries of all lanes, then the fault records (10 R239). -/
def Warp.parkedImage (w : Warp) : List Byte :=
  let ps := w.parkedSet
  if ps.isEmpty then []
  else
    let tmp (t l : Nat) : Word :=
      ((ps.find? (fun p => p.2.1.getLsbD l)).map (fun p => fget 0 (32 * t + l) p.2.2.2)).getD 0
    pad128 ((List.range 8).flatMap (fun t => (List.range 32).flatMap (fun l => natLe 4 (tmp t l).toNat)) ++
      ps.flatMap (fun p => p.2.2.1.bytes))

/-- A warp section (10 R239). -/
def Warp.image (w : Warp) : List Byte :=
  (List.range 32).flatMap (fun l => natLe 8 (w.lane l).pc.toNat) ++
    (List.range 32).flatMap (fun l => (w.lane l).image) ++ w.stateImage ++ w.latchImage ++ w.regImage ++
    w.parkedImage

/-- The `.k` scratch and the `.q` contribution of a block. -/
def State.blockScratch (s : State) (b : Block) : List Byte :=
  match s.launch b.launch with
  | none => []
  | some L => rdFMap (s.core b.core).scratch b.kbase L.kscr ++
      rdFMap (s.core b.core).scratch b.qbase L.qscr

/-- A tile: elements, the hidden sums with both readings, and status word and pending state (06 R122; 10
R238). -/
def Tile.image (t : Tile) : List Byte :=
  let sum (k : Nat) : List Byte :=
    let x := fget (0, 0) k t.sums
    padTo 48 (natLe 40 (x.1 % 2 ^ 320).toNat ++ natLe 4 x.2.toNat)
  (List.range 4096).flatMap (fun k => natLe 4 (fget 0 k t.elems).toNat) ++
    (List.range 128).flatMap sum ++
    padTo 128 (natLe 4 (t.status 0).toNat ++
      (t.pinfo.map (fun (f : FaultInfo) => natLe 1 f.code.toNat ++ natLe 8 f.addr.toNat)).getD [] ++
      t.pending.flatMap (fun e => natLe 1 (e.1 % 32) ++ natLe 1 e.2.code.toNat))

/-- A block's image (10 R238). -/
def State.blockImage (s : State) (blk : Nat) : List Byte :=
  match s.block blk with
  | none => []
  | some b =>
    s.headerImage blk b ++ padTo 512 (b.cbufs.flatMap CBuf.image) ++
      (List.range 8).flatMap (fun k => streamImage (b.streams.getD k none)) ++ s.barImage b ++
      pad128 ((s.blockCopies blk).flatMap (fun e => match e with
        | .copy c => c.bytes b.slot
        | _ => [])) ++
      ((s.warpsOf blk).filterMap s.warp).flatMap Warp.image ++ s.blockScratch b ++ b.tiles.flatMap Tile.image

-- an image read back (10 R242; log entry 113)

/-- The number in `n` bytes of an image from an offset. -/
def imgAt (bs : List Byte) (off n : Nat) : Nat := leNat ((bs.drop off).take n)

/-- The fault record in 64 bytes; the model's own lanes stay (10 R223). -/
def FaultRec.ofBytes (r : FaultRec) (bs : List Byte) : FaultRec :=
  let at' (o n : Nat) : Nat := imgAt bs o n
  let fl := at' 2 1
  { r with
    info := { code := BitVec.ofNat 8 (at' 0 1), cause := BitVec.ofNat 8 (at' 1 1), addr := BitVec.ofNat 64 (at' 24 8),
              aux0 := BitVec.ofNat 64 (at' 32 8), aux1 := BitVec.ofNat 64 (at' 40 8), engine := bitOf fl 2 }
    nested := bitOf fl 0, graft := bitOf fl 1, host := bitOf fl 3, warp := at' 3 1
    pc := BitVec.ofNat 64 (at' 8 8), words := (BitVec.ofNat 32 (at' 16 4), BitVec.ofNat 32 (at' 20 4))
    launch := at' 48 8, block := at' 56 4, core := at' 60 1, seq := BitVec.ofNat 24 (at' 61 3) }

/-- Saved temporaries of lanes as an image holds them. -/
def tempsOf (bs : List Byte) (m : Mask) : FMap Word :=
  (List.range 8).foldl (fun a t => (lanesOf m).foldl (fun a l =>
    fset 0 (32 * t + l) (BitVec.ofNat 32 (imgAt bs (4 * (32 * t + l)) 4)) a) a) []

/-- A warp as its section holds it: lane addresses, flags and pass counts, the handler bank, registers, and
temporaries and records of parked sub-warps. -/
def Warp.ofImage (bs : List Byte) (w : Warp) : Warp :=
  let half (h n : Nat) : Nat := 896 + 4 * (w.sregs * h + n)
  let v0 := 896 + alignUp 128 (4 * (if w.g16 then 2 else 1) * w.sregs)
  let pk := bs.drop (v0 + 128 * w.vregs)
  let ids := w.parkedSet.map (fun p => p.1)
  let rcd (id : Nat) (r : FaultRec) : FaultRec := r.ofBytes ((pk.drop (1024 + 64 * ids.idxOf id)).take 64)
  let lane (l : Nat) (x : Lane) : Lane :=
    { x with pc := BitVec.ofNat 64 (imgAt bs (8 * l) 8), f := BitVec.ofNat 8 (imgAt bs (256 + 4 * l) 1),
             fpf := BitVec.ofNat 5 (imgAt bs (257 + 4 * l) 1), pass := imgAt bs (258 + 4 * l) 1 }
  { w with
    lanes := w.lanes.zipIdx.map (fun e => lane e.2 e.1)
    handler := w.handler.map (fun h =>
      { h with bank := (List.range 16).map (fun k => BitVec.ofNat 32 (imgAt bs (832 + 4 * k) 4)),
               temps := tempsOf pk h.mask, record := rcd h.id h.record })
    u := (if w.g16 then [0, 1] else [0]).foldl (fun u h => (List.range w.sregs).foldl (fun u n =>
      fset 0 (128 * h + n) (BitVec.ofNat 32 (imgAt bs (half h n) 4)) u) u) w.u
    v := (List.range (32 * w.vregs)).foldl (fun v k =>
      fset 0 k (BitVec.ofNat 32 (imgAt bs (v0 + 4 * k) 4)) v) w.v
    parked := w.parked.map (fun p =>
      { p with pc := BitVec.ofNat 64 (imgAt bs (8 * lowLane p.mask) 8), temps := tempsOf pk p.mask,
               record := rcd p.id p.record }) }

/-- A copy command as an image holds it (07 R170). -/
def CopyCmd.ofBytes (bs : List Byte) (c : CopyCmd) : CopyCmd :=
  { c with ctl := (cpyCtlOf (imgAt bs 0 4)).getD c.ctl, saddr := BitVec.ofNat 64 (imgAt bs 8 8),
           daddr := BitVec.ofNat 64 (imgAt bs 16 8), len := imgAt bs 24 4, progress := imgAt bs 40 8 }

/-- A tile as its section holds it. -/
def Tile.ofImage (bs : List Byte) (t : Tile) : Tile :=
  let sum (k : Nat) : Int × Word :=
    let x := imgAt bs (16384 + 48 * k) 40
    (if x < 2 ^ 319 then (x : Int) else (x : Int) - 2 ^ 320, BitVec.ofNat 32 (imgAt bs (16384 + 48 * k + 40) 4))
  { t with
    elems := (List.range 4096).foldl (fun e k => fset 0 k (BitVec.ofNat 32 (imgAt bs (4 * k) 4)) e) t.elems
    sums := (List.range 128).foldl (fun m k => fset (0, 0) k (sum k) m) t.sums }

/-- The warps of a block from the sections of its image. -/
def State.warpsBack : List Nat → List Byte → State → State
  | [], _, s => s
  | wid :: r, bs, s =>
    match s.warp wid with
    | none => State.warpsBack r bs s
    | some w => State.warpsBack r (bs.drop w.sectionBytes) (s.modWarp wid (Warp.ofImage bs))

/-- Takes a saved block's state from its image, its scratch at its new place. -/
def State.readBack (l : Launch) (blk core kb : Nat) (bs : List Byte) (s : State) : State :=
  let cmds := tgetD [] blk s.saved
  let cmds := cmds.zipIdx.map (fun e => match e.1 with
    | .copy c => .copy (c.ofBytes (bs.drop (1536 + 64 * e.2)))
    | x => x)
  let bs := bs.drop (1536 + 128 * ((cmds.length + 1) / 2))
  let n := ((s.warpsOf blk).filterMap s.warp).map Warp.sectionBytes
  let scr := bs.drop n.sum
  let s := State.warpsBack (s.warpsOf blk) bs s
  let s : State := { s with saved := if cmds = [] then s.saved else tset blk cmds s.saved }
  let s := s.modCore core (fun k => { k with scratch := wrMem kb (scr.take (l.kscr + l.qscr)) k.scratch })
  s.modBlock blk (fun b => { b with tiles := b.tiles.zipIdx.map (fun e =>
    e.1.ofImage (scr.drop (l.kscr + l.qscr + 22656 * e.2))) })

-- saving (10 R237; 07 R177; 08 R199)

/-- The block is drained: its writes are acknowledged, no matrix command of it is held, and the
engines that hold its commands stand at chunk boundaries with what they wrote complete. -/
def State.drained (s : State) (blk : Nat) : Bool :=
  s.cores.all (fun k => k.2.sq.all (fun e => blkOf e.wid != blk) &&
    k.2.mq.all (fun m => m.blk != blk)) && s.inval == [] &&
  s.engines.all (fun e => e.2.cmd.blk != blk ||
    (e.2.fault.isNone && decide (e.2.gwct ≤ s.gtime)))

/-- The block's copy commands leave the engines, the queue and the spill path. -/
def State.pullCopies (blk : Nat) (s : State) : State :=
  let keep (e : QEntry) : Bool := match e with | .copy c => c.blk != blk | _ => true
  let es := (s.engines.filter (fun e => e.2.cmd.blk == blk)).map (fun e => engWait e.1)
  State.modBlock blk (fun b => { b with cbufs := b.cbufs.map (fun x =>
      { x with resWait := x.resWait.filter (fun w => !es.contains w) }) })
    { s with
      engines := s.engines.filter (fun e => e.2.cmd.blk != blk),
      cores := s.cores.map (fun e => (e.1, { e.2 with queue := e.2.queue.filter keep })),
      spill := (s.spill.map (fun e => (e.1, e.2.filter (fun x => keep x.e)))).filter
        (fun e => e.2 != []) }

/-- A block save compares the tiles with their hidden sums; a single element is corrected (06 R138, R139). -/
def State.compareTiles (blk : Nat) (s : State) : State :=
  match s.block blk with
  | none => s
  | some b =>
    (List.range b.tiles.length).foldl (fun s k =>
      let (t, n) := (s.tile blk k).compare k []
      (s.modTile blk k (fun _ => t)).countAbft blk n) s

/-- Writes an image by 16-byte stores until one faults or is held: the fault, the largest GWCT (10 R237,
R239). -/
def State.imageWrites (v : Via) (va : Nat) : Nat → List Byte → Nat → State → Option FaultInfo × Nat × State
  | 0, _, g, s => (none, g, s)
  | n + 1, bs, g, s =>
    match s.vWrite v va (bs.take 16) with
    | (.error f, s) => (some f, g, s)
    | (.ok t, s) => State.imageWrites v (va + 16) n (bs.drop 16) (max g t) s

/-- How far the images of a unit have come: ranges taken with their times, launches whose images are written in
full, and the fault that ended it. -/
structure SaveRun where
  s : State
  done : List (SaveRange × Nat) := []
  bad : Option FaultInfo := none

/-- Takes a block's range and writes its image (10 R236, R237). -/
def SaveRun.put (blk : Nat) (x : SaveRun) : SaveRun :=
  match x.bad, x.s.block blk with
  | some _, _ => x
  | none, none => x
  | none, some b =>
    let j := ((x.s.launch b.launch).map (·.job)).getD 0
    let bs := x.s.blockImage blk
    let n := unitsFor bs.length
    match x.s.fitRange j (x.s.ranges ++ x.done.map Prod.fst) n with
    | none => { x with bad := some { code := 0x0B } }
    | some base =>
      let va := (x.s.reg64 (saOff j)).toNat + 65536 * base
      match x.s.imageWrites (viaCore (x.s.jAsid j) b.core) va ((bs.length + 15) / 16) bs 0 with
      | (some f, _, t) => { x with s := t, bad := some f }
      | (none, g, t) =>
        { x with s := t.modLaunch b.launch (fun L => { L with preempt := satInc L.preempt }),
                 done := x.done ++ [({ job := j, launch := b.launch, blk := blk, base := base, units := n }, g)] }

/-- A block whose image is written is saved: its commands and range, and its place in the order of saves;
its packets go with it (01 R27; 07 R177). -/
def State.takeBlock (e : SaveRange × Nat) (s : State) : State :=
  let blk := e.1.blk
  let cmds := s.blockCopies blk
  let s := (s.pullCopies blk).dropPackets (fun w => blkOf w == blk)
  let order := s.nextSave
  let s : State := { s with
    saved := if cmds = [] then s.saved else tset blk cmds s.saved, ranges := s.ranges ++ [e.1],
    nextSave := order + 1, pins := s.pins.filter (fun p => p.blk != blk) }
  (s.modBlock blk (fun b => { b with
    savedOn := some b.core, held := true, saveOrder := order, imageAt := e.2, resumeWait := false })).setUsed e.1.job

/-- What the save of a unit comes to: it waits, it ends with a fault, its blocks as before and the image
bytes written standing, or it is saved. -/
inductive SaveRes where
  | wait
  | bad (f : FaultInfo) (s : State)
  | ok (s : State)

/-- Saves the blocks of a unit (10 R237). -/
def State.saveAll (bs : List Nat) (s : State) : SaveRes :=
  let x := bs.foldl (fun x b => SaveRun.put b x) { s := bs.foldl (fun s b => s.compareTiles b) s }
  match x.bad with
  | none => .ok (x.done.foldl (fun s e => s.takeBlock e) x.s)
  | some f =>
    let abft (e : Nat × Launch) : Nat := ((s.launch e.1).map (·.abft)).getD e.2.abft
    if f = heldFault then .wait
    else .bad f { x.s with
      blocks := s.blocks, launches := x.s.launches.map (fun e => (e.1, { e.2 with abft := abft e })) }

/-- PREEMPT_SAVE: the victim unit of a block, at run boundaries and drained, is saved whole;
without room or on a fault it is abandoned, or stays on its failed core (10 R237, R243). -/
def evPreemptSave (blk : Nat) (s : State) : State :=
  match s.block blk with
  | none => s
  | some b =>
    match s.pre.findIdx? (fun r =>
        r.victims.any (fun v => v.launch == b.launch && v.cluster == b.cluster)) with
    | none => s
    | some k =>
      let forced := ((s.pre[k]?).bind (·.launch)).isNone
      let u := if forced then [(b.launch, b.cluster)] else s.victimUnit b.launch b.cluster
      let bs := s.unitBlocks u
      let out (s : State) : State := s.modReq k (fun r =>
        { r with victims := r.victims.filter (fun v => !u.contains (v.launch, v.cluster)) })
      if bs = [] then (out s).endRequests
      else if !(bs.all (fun x => s.blockStill x && s.drained x)) then s
      else
        match s.saveAll bs with
        | .wait => s
        | .ok t => out t
        | .bad f t =>
          if forced then t.record 35
          else if f.code = 0x0B then t.abandon k u
          else (t.abandon k u).record 237

/-- The meaning of PREEMPT_SAVE. -/
def execPreemptSave (blk : Nat) (s : State) : Host.Outcome State Fault Refusal :=
  .next (evPreemptSave blk s).finish

/-- Sets the speculation level of a core, as LEVEL shows it (01 R33; 13 R298). -/
def State.setLevel (core level : Nat) (s : State) : State :=
  (s.modCore core (fun k => { k with level := level })).setRegF (csOff core) 0 3 level

/-- FLOOR of a core (13 R298). -/
def State.floorOf (s : State) (core : Nat) : Nat := s.regF (csOff core) 4 3

/-- The logical core has no physical core: it is disabled and the device is degraded (01 R35; 13
R292). -/
def State.disableCore (core : Nat) (s : State) : State :=
  ((s.modCore core (fun k => { k with failed := false, disabled := true })).setRegF (csOff core) 7 1 1
    ).setRegF 0x290000 2 1 1

/-- A spare takes a failed core's logical number, at level 5 in minimal mode, or the core is disabled (01 R34,
R35). -/
def State.replaceCore (core : Nat) (s : State) : State :=
  let d := core / Config.coresPerDie
  let used := fget 0 d s.spares
  match (List.range Config.sparesPerDie).find? (fun k => !bitOf used k) with
  | some n =>
    let s := State.modCore core (fun k => { Core.init with
        queue := k.queue, racq := k.racq, nextSq := k.nextSq, clock := k.clock, clockAt := k.clockAt,
        mmValue := k.mmValue, mmResult := k.mmResult, mmOperand := k.mmOperand,
        mmSoft := k.mmSoft })
      { s with spares := fset 0 d (used + 2 ^ n) s.spares }
    let lv := if s.regF 0x290000 3 1 = 1 then 5 else s.floorOf core
    (s.setLevel core lv).setRegF (csOff core) 8 8 (Config.coresPerDie + n)
  | none => s.disableCore core

/-- CORE_VACATE: every image taken from a core is acknowledged, and its resources are free; a
failed core is replaced (10 R237; 01 R35). -/
def evCoreVacate (core : Nat) (s : State) : State :=
  let waits := s.pre.any (fun r => r.victims.any (fun v =>
      (s.clusterBlocks v.launch v.cluster).any (fun b => b.2.core == core))) || s.inval != [] ||
    s.blocks.any (fun e => e.2.core == core && e.2.savedOn.isSome && e.2.held && decide (s.gtime < e.2.imageAt))
  if waits then s
  else
    let s : State := { s with
      blocks := s.blocks.map (fun e =>
        if e.2.core = core ∧ e.2.savedOn.isSome then (e.1, { e.2 with held := false }) else e),
      pre := s.pre.map (fun r => { r with cores := r.cores.filter (· != core) }) }
    let s := if (s.core core).failed && s.resident core == [] then s.replaceCore core else s
    s.unskip.endRequests

/-- The meaning of CORE_VACATE. -/
def execCoreVacate (core : Nat) (s : State) : Host.Outcome State Fault Refusal :=
  .next (evCoreVacate core s).finish

-- resuming (10 R242; 07 R177; 08 R199)

/-- Warp-registers of a saved block's warps, growth included. -/
def State.savedCosts (s : State) (blk nwarps : Nat) : List Nat :=
  (List.range nwarps).map (fun k => ((s.warp (32 * blk + k)).map (fun w => w.vregs + 8)).getD 0)

/-- A saved block's image read back; none: a page or a poisoned byte of it cannot be read (log entry 113). -/
def State.imageBack (l : Launch) (blk core : Nat) (s : State) : Option (List Byte) :=
  (s.ranges.find? (fun r => r.blk == blk)).bind (fun r =>
    match s.vRead (viaCore (s.jAsid l.job) core) ((s.reg64 (saOff l.job)).toNat + 65536 * r.base)
        (s.imageSize blk) with
    | .ok bs => some bs
    | .error _ => none)

/-- A saved block stands on a core again with the state of its image, not yet running; `saveOrder` tells
whether it has moved. -/
def State.restoreBlock (l : Launch) (blk core : Nat) (bs : List Byte) (s : State) : State :=
  let p0 := pickPart ((List.range 4).map (s.freeRegs core))
  let kb := s.scratchBase core (l.kscr + l.qscr)
  let slot := s.freeSlot core
  let slots := s.warpSlots core
  let moved := if ((s.block blk).map (·.core)) = some core then 0 else 1
  let s := s.modBlock blk (fun b => { b with
    saveOrder := moved, core := core, slot := slot, p0 := p0, kbase := kb, qbase := kb + l.kscr, savedOn := none,
    held := false, imageAt := 0, resumeWait := true })
  let s := s.readBack l blk core kb bs
  let s : State := { s with
    warps := s.warps.map (fun e =>
      if blkOf e.1 = blk then
        let p := (p0 + e.2.num) % 4
        (e.1, { e.2 with part := p, slot := (slots p).getD (e.2.num / 4) 0 })
      else e),
    ranges := s.ranges.filter (fun r => r.blk != blk) }
  let s := (s.setUsed l.job).modLaunch l.id (fun L => { L with
    coresUsed := if L.coresUsed.contains core then L.coresUsed else L.coresUsed ++ [core] })
  s.setReg (jOff l.job + 0x1C) (BitVec.ofInt 32 (s.jDeficit l.job - l.warpsPB))

/-- Places the saved blocks of a cluster on a die (03 R70). -/
def State.restoreOn (l : Launch) (d : Nat) : List Nat → State → Option State
  | [], s => some s
  | b :: r, s =>
    let cs := s.savedCosts b l.warpsPB
    match minBy (fun c => (s.coreWarps c).length) (s.coresFor l cs d) with
    | none => none
    | some c =>
      match s.imageBack l b c with
      | none => none
      | some bs => State.restoreOn l d r (s.restoreBlock l b c bs)

/-- Saved blocks of a cluster, in rank order. -/
def State.savedBlocks (s : State) (l k : Nat) : List Nat :=
  (s.blocks.filter (fun e => e.2.launch == l && e.2.cluster == k && e.2.savedOn.isSome)).map Prod.fst

/-- Places a saved cluster on the first die that takes it (10 R242). -/
def State.restoreCluster (l : Launch) (k : Nat) (s : State) : Option State :=
  (s.dieOrder l l.costs).findSome? (fun d => State.restoreOn l d (s.savedBlocks l.id k) s)

/-- Restores a launch's oldest saved cluster, or all of a co-resident launch. -/
def State.restoreNext (l : Launch) (s : State) : Option State :=
  let ks := s.savedClusters l.id
  let ks := if l.flags % 2 = 1 then ks else ks.take 1
  let r := ks.foldl (fun (t : Option State) k => t.bind (State.restoreCluster l k)) (some s)
  r.map (fun t => (t.modLaunch l.id (fun L =>
    { L with readySince := t.gtime + 1, die := none })).markReady)

/-- Saved copy commands are placed in the core queue or the spill ring, as far as they go (07 R177).
-/
def State.placeSaved (core job : Nat) : List QEntry → State → List QEntry × State
  | [], s => ([], s)
  | e :: r, s =>
    match s.placeEntry core job e with
    | .ok t => State.placeSaved core job r t
    | .error _ => (e :: r, s)

/-- A RESUME that named a sub-warp of a saved block acts (10 R231; log entry 111). -/
def State.lateResumes (blk : Nat) (s : State) : State :=
  (s.warpsOf blk).foldl (fun s wid =>
    (((s.warp wid).map (·.parked)).getD []).foldl (fun s p =>
      match p.st with
      | .resumed true => (s.unpark wid p.id).exitLanes wid p.mask
      | .resumed false => (s.unpark wid p.id).modWarp wid (Warp.resumeAt p.mask p.resume)
      | _ => s) s) s

/-- A restored block begins to run: its commands are placed, and on another core its warps have
waited for their writes and dropped that core's leases (07 R177; 08 R199). -/
def State.beginBlock (blk : Nat) (s : State) : State :=
  match s.block blk with
  | none => s
  | some b =>
    if !b.resumeWait then s
    else
      let j := ((s.launch b.launch).map (·.job)).getD 0
      let (rest, s) := State.placeSaved b.core j (tgetD [] blk s.saved) s
      let s : State := { s with saved := if rest = [] then tdel blk s.saved else tset blk rest s.saved }
      let ok := b.saveOrder == 0 || (s.warpsOf blk).all (fun wid =>
        ((s.warp wid).map (fun w => decide (w.lwct ≤ s.gtime))).getD true)
      if rest ≠ [] ∨ !ok then s
      else
        let s := if b.saveOrder = 0 then s else s.dropLeases b.core
        (s.modBlock blk (fun b => { b with resumeWait := false, saveOrder := 0 })).lateResumes blk

/-- BLOCK_RESUME: the oldest saved cluster of the chosen launch is placed again; placed clusters
begin to run once their commands and writes allow it (10 R242). -/
def evBlockResume (l cluster : Nat) (s : State) : State :=
  let s := match s.launch l with
    | some L =>
      if s.pickBest = some l ∧ (s.savedClusters l).head? = some cluster then
        (s.restoreNext L).getD s
      else s
    | none => s
  ((s.clusterBlocks l cluster).map Prod.fst).foldl (fun s b => s.beginBlock b) s

/-- The meaning of BLOCK_RESUME. -/
def execBlockResume (l cluster : Nat) (s : State) : Host.Outcome State Fault Refusal :=
  .next (evBlockResume l cluster s).finish

/-- PICK_LAUNCH: the chosen ready launch is placed, its saved clusters first, or marked skipped
when it fits nowhere (03 R69, R70; 10 R242). -/
def evPickLaunch  (s : State) : State :=
  let s := s.markReady
  match s.pickBest.bind s.launch with
  | none => s
  | some L =>
    let r := if s.savedClusters L.id = [] then (s.placeNext L.id).map State.markReady
      else s.restoreNext L
    match r with
    | some s => s
    | none => s.modLaunch L.id (fun L => { L with skipped := true, skipSince := s.gtime })

/-- The meaning of PICK_LAUNCH. -/
def execPickLaunch  (s : State) : Host.Outcome State Fault Refusal :=
  .next (evPickLaunch s).finish

end Sys2Proof.Machine
end

