-- ==== Sys2Proof/Machine/Slices.lean ====
section
/-!
DEFINITION. Home slices, leases, stores on their way, ownership, walks and shootdowns (01 R17;
07 R154, R155, R162; 08 R178 to R185, R195, R196; 10 R245; 12 R269, R272).
-/

set_option Elab.async false

namespace Sys2Proof.Machine

-- reads

/-- SLICE_READ_REQUEST: the home answers a core's read request with the line and a lease, kept in
L1 (08 R181, R182). -/
def evSliceReadRequest (core line : Nat) (s : State) : State :=
  if s.leasable line then s.l1Fill core line else s

/-- The meaning of SLICE_READ_REQUEST. -/
def execSliceReadRequest (core line : Nat) (s : State) : Host.Outcome State Fault Refusal :=
  .next (evSliceReadRequest core line s).finish

/-- CHECKER_LINE_FILL: a line that the checker cache requests arrives under a lease (01 R17; 08
R181). -/
def evCheckerLineFill (core line : Nat) (s : State) : State :=
  if s.leasable line then
    let (c, s) := s.fetchLine line
    s.modCore core (fun k => { k with cc := c :: k.cc.filter (fun x => x.line != line) })
  else s

/-- The meaning of CHECKER_LINE_FILL. -/
def execCheckerLineFill (core line : Nat) (s : State) : Host.Outcome State Fault Refusal :=
  .next (evCheckerLineFill core line s).finish

-- writes

/-- Two entries hold writes of one lane. -/
def sqShare (x e : SqEntry) : Bool := x.writes.any (fun a => e.writes.any (fun b => a.1 == b.1))

/-- Two entries hold writes of one lane to one byte. -/
def sqOverlap (x e : SqEntry) : Bool :=
  x.line == e.line && x.writes.any (fun a => e.writes.any (fun b =>
    a.1 == b.1 && decide (a.2.1 < b.2.1 + b.2.2.length) &&
      decide (b.2.1 < a.2.1 + a.2.2.length)))

/-- Entry `e` comes after `x`: an unperformed earlier write of the same thread to a byte of it, or an
unacknowledged earlier strong write of the same thread to a strong one (08 R179, R188). -/
def sqAfter (x e : SqEntry) : Bool :=
  decide (x.id < e.id) && x.wid == e.wid &&
    ((x.gwct.isNone && sqOverlap x e) || (x.strong && e.strong && sqShare x e))

/-- An entry of a core's store queue. -/
def State.sqEntry (s : State) (core id : Nat) : Option SqEntry :=
  (s.core core).sq.find? (fun e => e.id == id)

/-- The entry may be performed as far as the queue's order goes. -/
def State.sqReady (s : State) (core : Nat) (e : SqEntry) : Bool :=
  e.gwct.isNone && !(s.core core).sq.any (fun x => sqAfter x e)

/-- Puts the bytes of an entry's writes, in lane order (08 R178; 18 R409). -/
def State.putAll (ws : List (Nat × Nat × List Byte)) (s : State) : State :=
  ws.foldl (fun s w => if isScratch w.2.1 then s.wrKey w.2.1 w.2.2 else s.putBytes w.2.1 w.2.2) s

/-- A line takes a core's write now: not while its page or the host holds it, an LNX stands at its head, or
its peer's ports retrain (09 R216; 12 R269, R271, R274). -/
def State.lineTakes (s : State) (line : Nat) : Bool :=
  !s.lineHeld line && !s.lnxHead line && !(isPeer (128 * line) && s.stalled (peerOf (128 * line)))

/-- Gives an entry its GWCT. -/
def State.setGwct (core id g : Nat) (s : State) : State :=
  s.modCore core (fun k => { k with sq := k.sq.map (fun x =>
    if x.id = id then { x with gwct := some g } else x) })

/-- SLICE_WRITE: the home slice, or a peer's, performs the writes of a committed instruction to a line and
gives their GWCT; writes to scratch are performed where they stand (08 R178, R184; 12 R276). -/
def evSliceWrite (core id : Nat) (s : State) : State :=
  match s.sqEntry core id with
  | none => s
  | some e =>
    if !s.sqReady core e then s
    else if isScratch (128 * e.line) then (s.putAll e.writes).setGwct core id s.gtime
    else if isHost (128 * e.line) || !s.lineTakes e.line then s
    else
      let (g, s) := s.arrive (some core) e.line
      (s.putAll e.writes).setGwct core id g

/-- The meaning of SLICE_WRITE. -/
def execSliceWrite (core id : Nat) (s : State) : Host.Outcome State Fault Refusal :=
  .next (evSliceWrite core id s).finish

/-- HOST_WINDOW_RESPONSE: a host-window write's CXL completion arrives, and its GWCT is that time
(08 R184; 12 R272). -/
def evHostWindowResponse (core id : Nat) (s : State) : State :=
  match s.sqEntry core id with
  | none => s
  | some e =>
    if !isHost (128 * e.line) || !s.hostUp || !s.sqReady core e then s
    else
      State.setGwct core id s.gtime (State.putAll e.writes { s with lastGwct := max s.lastGwct s.gtime })

/-- The meaning of HOST_WINDOW_RESPONSE. -/
def execHostWindowResponse (core id : Nat) (s : State) : Host.Outcome State Fault Refusal :=
  .next (evHostWindowResponse core id s).finish

/-- WRITE_ACK: the acknowledgement leaves the store queue, updates the core's copies and raises %lwct, after
those of the thread's earlier writes to the same bytes (01 R19; 08 R179, R185); a write with replicas waits
for them, one to host memory for its completion (12 R272, R278). -/
def evWriteAck (core id : Nat) (s : State) : State :=
  match s.sqEntry core id with
  | none => s
  | some e =>
    match e.gwct with
    | none => s
    | some g =>
      if s.inval.any (fun x => x.2.2 == e.line) || (isHost (128 * e.line) && decide (s.gtime < g)) ||
          (s.core core).sq.any (fun x => decide (x.id < id) && x.wid == e.wid && sqOverlap x e) then s
      else
        let s := s.modCore core (fun k => { k with sq := k.sq.filter (fun x => x.id != id) })
        let s := (s.modWarp e.wid (Warp.raiseLwct g)).refresh core e.line
        (s.modLaunch e.launch (fun L => { L with lastGwct := max L.lastGwct g })).sweep

/-- The meaning of WRITE_ACK. -/
def execWriteAck (core id : Nat) (s : State) : Host.Outcome State Fault Refusal :=
  .next (evWriteAck core id s).finish

-- the slice's own lines

/-- SLICE_EVICT: a slice writes an unpinned line back and drops it; an unexpired lease raises its
horizon (07 R155; 08 R182; 06 R134). -/
def evSliceEvict (line : Nat) (s : State) : State :=
  match tget line s.lines with
  | none => s
  | some _ =>
    if isPeer (128 * line) || s.pins.any (fun p => p.lines.contains line) then s
    else
      let s := s.recall line
      let late := s.latestLease line
      let sl := homeSlice (128 * line)
      let h := if s.gtime < late then max (fget 0 sl s.horizon) late else fget 0 sl s.horizon
      State.writeBack line { s with lines := tdel line s.lines, horizon := fset 0 sl h s.horizon,
                                    hostCopies := s.hostCopies.filter (· != line) }

/-- The meaning of SLICE_EVICT. -/
def execSliceEvict (line : Nat) (s : State) : Host.Outcome State Fault Refusal :=
  .next (evSliceEvict line s).finish

/-- OWNERSHIP_RECALL: the home takes a line back from the core that owns it, and that core's
predictor learns it (08 R196). -/
def evOwnershipRecall (line : Nat) (s : State) : State :=
  s.recall line

/-- The meaning of OWNERSHIP_RECALL. -/
def execOwnershipRecall (line : Nat) (s : State) : Host.Outcome State Fault Refusal :=
  .next (evOwnershipRecall line s).finish

/-- PREDICTOR_DECAY: 4,096 core cycles without a recall take 1 from the counters (08 R196). -/
def evPredictorDecay (core : Nat) (s : State) : State :=
  s.modCore core (fun k => { k with pred := k.pred.map (fun p => { p with ctr := p.ctr - 1 }) })

/-- The meaning of PREDICTOR_DECAY. -/
def execPredictorDecay (core : Nat) (s : State) : Host.Outcome State Fault Refusal :=
  .next (evPredictorDecay core s).finish

-- translation (07 R162)

/-- Entries of a core's TLB, and of a die's shared translation cache (07 R162). -/
def tlbEntries : Nat := 2048
def dieEntries : Nat := 32768

/-- The page shift of a translation: that of its leaf, or of the group that CH declares (07 R160). -/
def chShift (leaf shift : Nat) (group : Bool) : Nat :=
  if bitOf leaf 5 && group then (if shift = 16 then 21 else if shift = 29 then 33 else shift) else shift

/-- PAGE_WALK: a walk that ends well leaves its leaf in the core's TLB and the die's cache, and its table
entries with the walkers; one that faults caches nothing (07 R162). Where the leaf has CH it may serve its
whole group: which, is free (07 R160; log entry 96). -/
def evPageWalk (core asid : Nat) (va : BitVec 55) (s : State) : State :=
  let die := core / Config.coresPerDie
  match s.walkVia die asid va.toNat with
  | .error _ => s
  | .ok (e, sh, ts) =>
    let (k, s) := s.free
    let sh := chShift e sh (k % 2 == 1)
    let x : TlbEntry := { asid := asid, vpage := va.toNat / 2 ^ sh, shift := sh,
                          leaf := BitVec.ofNat 64 e }
    let held := ts.map (fun a => (die, a, BitVec.ofNat 64 (s.tentry die a)))
    let s : State := { s with
      dieTlb := ((die, x) :: s.dieTlb.filter (fun y => y != (die, x))).take dieEntries,
      walkCache := held ++ s.walkCache.filter (fun y => !held.any (fun h => h.1 == y.1 && h.2.1 == y.2.1)) }
    s.modCore core (fun k => { k with
      tlb := (x :: k.tlb.filter (fun y => y != x)).take tlbEntries })

/-- The meaning of PAGE_WALK. -/
def execPageWalk (core asid : Nat) (va : BitVec 55) (s : State) : Host.Outcome State Fault Refusal
    :=
  .next (evPageWalk core asid va s).finish

/-- A virtual address lies in a shootdown's range; length 0 is the whole address space (10 R244). -/
def inShoot (va len x : Nat) : Bool := len == 0 || (decide (va ≤ x) && decide (x < va + len))

/-- A TLB entry maps some of a shootdown's range. -/
def tlbInShoot (va len : Nat) (e : TlbEntry) : Bool :=
  len == 0 || (decide (e.vpage * 2 ^ e.shift < va + len) &&
    decide (va < (e.vpage + 1) * 2 ^ e.shift))

/-- GO of the shootdown registers: translations go from every TLB, die's cache and walker (10 R244, R245). -/
def State.shootGo (s : State) : State :=
  let a := s.regF 0x170010 16 16
  let va := (s.reg64 0x170000).toNat
  let len := (s.reg64 0x170008).toNat
  let sq := s.cores.flatMap (fun k => (k.2.sq.filter (fun e => e.asid == a && e.gwct.isNone &&
    e.vas.any (fun x => inShoot va len x.toNat))).map (fun e => (k.1, e.id)))
  let lnx := s.warps.flatMap (fun w => if s.asidOf w.1 = a then
    (w.2.lnx.filter (fun q => q.reply.isNone && q.fault.isNone &&
      inShoot va len q.va.toNat)).map (fun q => (w.1, q.lane)) else [])
  let keep (e : TlbEntry) : Bool := !(tlbInShoot va len e && (e.asid == a || e.leaf.getLsbD 8))
  let s : State := { s with
    shoot := some { asid := a, va := va, len := len, pend := sq, lnx := lnx },
    dieTlb := s.dieTlb.filter (fun e => keep e.2), walkCache := [],
    cores := s.cores.map (fun k => (k.1, { k.2 with tlb := k.2.tlb.filter keep })) }
  (State.dropGrove a s).setRegF 0x170014 1 1 1

/-- Every access that a shootdown waits for has been performed or has faulted. -/
def State.shootDone (s : State) (x : Shoot) : Bool :=
  x.pend.all (fun p => match s.sqEntry p.1 p.2 with
    | some e => e.gwct.isSome
    | none => true) &&
  x.lnx.all (fun p => (s.openLnx p.1 p.2).isNone)

/-- SHOOTDOWN: GO drops the translations and the grove entries; BUSY clears once the older
accesses are performed (10 R245). -/
def evShootdown  (s : State) : State :=
  match s.shoot with
  | none => s.shootGo
  | some x =>
    if s.shootDone x then State.setRegF 0x170014 1 1 0 { s with shoot := none } else s

/-- The meaning of SHOOTDOWN. -/
def execShootdown  (s : State) : Host.Outcome State Fault Refusal :=
  .next (evShootdown s).finish

end Sys2Proof.Machine
end

