-- ==== Sys2Proof/Machine/Host.lean ====
section
/-!
DEFINITION. The host: bias flips, its accesses to device memory, snoops, the host window, and the
loss of its link (12 R267 to R272, R281 to R284).
-/

set_option Elab.async false

namespace Sys2Proof.Machine

-- bias flips (12 R270, R271, R283)

/-- CUR follows the bias of the page at BPAGE (12 R270). -/
def State.updCur (s : State) : State :=
  s.setRegF 0x220014 4 1 (fget 0 ((s.reg64 0x220000).toNat / 4096) s.bias)

/-- Line addresses of an object's innermost runs: the byte offsets at which they start (12 R277). -/
def State.objRuns (s : State) (o : Nat) : List Nat :=
  let b := (s.reg64 (objOff o)).toNat
  let f (k : Nat) : Nat := (s.reg (objOff o + k)).toNat
  (List.range (f 0x24)).flatMap (fun k => (List.range (f 0x20)).flatMap (fun j =>
    (List.range (f 0x1C)).map (fun i => b + i * f 0x0C + j * f 0x10 + k * f 0x14)))

/-- The object covers a line (12 R277). -/
def State.objCovers (s : State) (o line : Nat) : Bool :=
  (s.objRuns o).any (fun a => decide (a ≤ 128 * line) &&
    decide (128 * line < a + (s.reg (objOff o + 0x18)).toNat))

/-- OSTATE, KIND and V of an object. -/
def State.oState (s : State) (o : Nat) : Nat := s.regF (objOff o + 0x28) 0 8
def State.oKind (s : State) (o : Nat) : Nat := s.regF (objOff o + 8) 1 1
def State.oV (s : State) (o : Nat) : Bool := s.regF (objOff o + 8) 0 1 == 1

/-- Sorts numbers, without repeats. -/
def sortNat (xs : List Nat) : List Nat :=
  (xs.foldl (fun (m : FMap Unit) x => finsert x () m) []).map Prod.fst

/-- Pages of an object, in address order. -/
def State.objPages (s : State) (o : Nat) : List Nat :=
  let e := (s.reg (objOff o + 0x18)).toNat
  sortNat ((s.objRuns o).flatMap (fun a =>
    (List.range ((a + e - 1) / 4096 - a / 4096 + 1)).map (fun k => a / 4096 + k)))

/-- Ends a flip with its result. -/
def State.flipEnd (st : Nat) (s : State) : State :=
  State.updCur (((State.setRegF 0x220014 3 1 0 { s with flip := none })).setRegF 0x220014 16 16 st)

/-- GO of the bias control block, with TOHOST as given (12 R270, R271). -/
def State.flipGo (toHost : Bool) (s : State) : State :=
  if s.flip.isSome then s
  else
    let s := s.setRegF 0x220014 1 1 (b2n toHost)
    let pg := (s.reg64 0x220000).toNat
    let n := (s.reg 0x220010).toNat
    let start (ps : List Nat) : State :=
      State.setRegF 0x220014 3 1 1
        { s with flip := some { pages := ps, toHost := toHost, lost := s.hostLost } }
    if s.regF 0x220014 0 1 = 1 then
      if 4096 ≤ n ∨ !(s.oV n && s.oState n == 1 && s.oKind n == 1) then s.flipEnd 3
      else start (s.objPages n)
    else if pg % 4096 ≠ 0 ∨ n = 0 ∨ 2 ^ 20 < n ∨ Config.deviceTop < pg + 4096 * n then s.flipEnd 1
    else start ((List.range n).map (fun k => pg / 4096 + k))

/-- BIAS_FLIP_TO_HOST: GO with TOHOST = 1 (12 R271). -/
def evBiasFlipToHost  (s : State) : State :=
  s.flipGo true

/-- The meaning of BIAS_FLIP_TO_HOST. -/
def execBiasFlipToHost  (s : State) : Host.Outcome State Fault Refusal :=
  .next (evBiasFlipToHost s).finish

/-- BIAS_FLIP_TO_DEVICE: GO with TOHOST = 0 (12 R271). -/
def evBiasFlipToDevice  (s : State) : State :=
  s.flipGo false

/-- The meaning of BIAS_FLIP_TO_DEVICE. -/
def execBiasFlipToDevice  (s : State) : Host.Outcome State Fault Refusal :=
  .next (evBiasFlipToDevice s).finish

/-- Lines of a page. -/
def pageLines (p : Nat) : List Nat := (List.range 32).map (fun k => 32 * p + k)

/-- A page reaches host bias: its home slices write its lines back and drop them (12 R271). -/
def State.pageToHost (p : Nat) (s : State) : State :=
  let s := (pageLines p).foldl (fun s ln =>
    State.writeBack ln { s with lines := tdel ln s.lines }) s
  { s with bias := fset 0 p 1 s.bias }

/-- Poisons a line that the host held when it was lost (12 R281, R283). -/
def State.poisonLine (ln : Nat) (s : State) : State :=
  State.setPoison (128 * ln) (State.setPoison (128 * ln + 64) { s with snoop := fset 0 ln 0 s.snoop })

/-- A page reaches device bias; with the host lost, the lines it held are poisoned (12 R271, R283). -/
def State.pageToDevice (p : Nat) (s : State) : State :=
  let s := (pageLines p).foldl (fun s ln =>
    if fget 0 ln s.snoop = 0 then s else s.poisonLine ln) s
  { s with bias := fset 0 p 0 s.bias }

/-- BIAS_FLIP_PAGE_DONE: the flip ends on its page: to host once every lease of its lines has
passed, to device once the host holds none of them or is lost (12 R271, R283). -/
def evBiasFlipPageDone  (s : State) : State :=
  match s.flip with
  | none => s
  | some f =>
    match f.pages with
    | [] => s.flipEnd (if f.lost then 2 else 0)
    | p :: r =>
      let ok := if f.toHost then (pageLines p).all (fun ln => decide (s.latestLease ln ≤ s.gtime))
        else f.lost || (pageLines p).all (fun ln => fget 0 ln s.snoop == 0)
      if !ok then s
      else
        let s := if f.toHost then s.pageToHost p else s.pageToDevice p
        let s := State.updCur { s with flip := some { f with pages := r } }
        if r = [] then s.flipEnd (if f.lost then 2 else 0) else s

/-- The meaning of BIAS_FLIP_PAGE_DONE. -/
def execBiasFlipPageDone  (s : State) : Host.Outcome State Fault Refusal :=
  .next (evBiasFlipPageDone s).finish

-- the host's accesses to device memory (12 R269)

/-- The host's requests reach the device. -/
def State.hostOn (s : State) : Bool := s.hostUp && !s.hostLost

/-- HOST_MEM_READ: a read is answered with the line; only in host bias may the host keep a copy
(12 R269). -/
def evHostMemRead (pa : Nat) (keep : Bool) (s : State) : State :=
  if !s.hostOn || Config.deviceTop ≤ pa || decide (s.flipPage = some (pa / 4096)) then s
  else if s.hostBias pa then
    if keep then { s with snoop := fset 0 (pa / 128) 2 s.snoop } else s
  else s.recall (pa / 128)

/-- The meaning of HOST_MEM_READ. -/
def execHostMemRead (pa : Nat) (keep : Bool) (s : State) : Host.Outcome State Fault Refusal :=
  .next (evHostMemRead pa keep s).finish

/-- Poisons the half-lines that `n` bytes from an address touch. -/
def State.poisonRange (pa n : Nat) (s : State) : State :=
  if n = 0 then s
  else (List.range ((pa + n - 1) / 64 - pa / 64 + 1)).foldl (fun s k =>
    s.setPoison (64 * (pa / 64 + k))) s

/-- The host's CXL.mem write of bytes. In host bias the host's own copy of the line may be gone
afterwards. -/
def State.hostWrite (pa : Nat) (bytes : List Byte) (poison : Bool) (s : State) : State :=
  let s := (s.perform none pa bytes).2
  let s := if poison then s.poisonRange pa bytes.length else s
  if s.hostBias pa && fget 0 (pa / 128) s.snoop != 0 then
    let (f, s) := s.free
    if f % 2 = 0 then s else { s with snoop := fset 0 (pa / 128) 0 s.snoop }
  else s

/-- HOST_MEM_WRITE: a write of at most a line is performed at the home slice, or at the controller
in host bias; CXL poison poisons the half-lines it writes (12 R269, R284). -/
def evHostMemWrite (pa : Nat) (bytes : List Byte) (poison : Bool) (s : State) : State :=
  if !s.hostOn || decide (128 < pa % 128 + bytes.length) || decide (Config.deviceTop < pa + bytes.length) ||
      decide (s.flipPage = some (pa / 4096)) || s.lnxHead (pa / 128) then s
  else s.hostWrite pa bytes poison

/-- The meaning of HOST_MEM_WRITE. -/
def execHostMemWrite (pa : Nat) (bytes : List Byte) (poison : Bool) (s : State) : Host.Outcome
    State Fault Refusal :=
  .next (evHostMemWrite pa bytes poison s).finish

/-- What the host keeps after a snoop: nothing for a write, an atomic or a flip; for a read it may
keep a clean copy. -/
def State.keptAfter (s : State) (line : Nat) : Nat × State :=
  let inv := s.cores.any (fun k => k.2.sq.any (fun e => e.line == line && e.gwct.isNone)) ||
    decide (s.flipPage = some (line / 32))
  if inv then (0, s)
  else
    let (f, s) := s.free
    (f % 2, s)

/-- BISNP_RESPONSE: the host answers a back-invalidate snoop, its written-back data goes to DRAM,
and the held access may be performed (12 R269, R271). -/
def evBisnpResponse (line : Nat) (data : Option (List Byte)) (s : State) : State :=
  if !s.hostOn || fget 0 line s.snoop == 0 then s
  else
    let s := match data with
      | some bs => if bs.length = 128 then (s.perform none (128 * line) bs).2 else s
      | none => s
    let (k, s) := s.keptAfter line
    { s with snoop := fset 0 line k s.snoop }

/-- The meaning of BISNP_RESPONSE. -/
def execBisnpResponse (line : Nat) (data : Option (List Byte)) (s : State) : Host.Outcome State
    Fault Refusal :=
  .next (evBisnpResponse line data s).finish

/-- Bytes that only something outside the device knows: free values (log entry 2). -/
def State.freeBytes (n : Nat) (s : State) : List Byte × State :=
  ((List.range n).map (fun k => BitVec.ofNat 8 (Config.freeNat (s.fresh + k))),
   { s with fresh := s.fresh + n })

/-- HOST_SNOOP: the host snoops a line of its window; the slice drops its copy, and where the host
takes ownership it may change the line (12 R272). -/
def evHostSnoop (line : Nat) (excl : Bool) (s : State) : State :=
  if !isHost (128 * line) || !s.hostOn then s
  else
    let s : State := { s with hostCopies := s.hostCopies.filter (· != line) }
    if !excl then s
    else
      let (bs, s) := s.freeBytes 128
      { s with mem := wrMem (128 * line) bs s.mem, poison := poisonAfter (128 * line) 128 s.poison }

/-- The meaning of HOST_SNOOP. -/
def execHostSnoop (line : Nat) (excl : Bool) (s : State) : Host.Outcome State Fault Refusal :=
  .next (evHostSnoop line excl s).finish

-- the host link (12 R281)

/-- PHASE (13 R292). -/
def State.phaseNo (s : State) : Nat := s.regF 0x290000 0 2

/-- HOST_LINK_DOWN: the host link leaves the active state, which AER reports as Surprise Down (12 R267,
R281). -/
def evHostLinkDown  (s : State) : State :=
  if s.hostUp then { s with hostUp := false, hostDownAt := s.gtime, aer := s.aer ||| 0x20 } else s

/-- The meaning of HOST_LINK_DOWN. -/
def execHostLinkDown  (s : State) : Host.Outcome State Fault Refusal :=
  .next (evHostLinkDown s).finish

/-- Store-queue entries that hold unacknowledged writes, and what becomes of them: lost (12 R279,
R281). -/
def State.loseStores (p : SqEntry → Bool) (host : Bool) (s : State) : State :=
  let gone := s.cores.flatMap (fun k => k.2.sq.filter p)
  { s with
    lost := s.lost ++ gone.flatMap (fun e => (List.range e.writes.length).map (fun k =>
      ({ wid := e.wid, lane := (e.writes.getD k (0, 0, [])).1, addr := e.vas.getD k 0,
         host := host } : LostStore))),
    cores := s.cores.map (fun k => (k.1, { k.2 with sq := k.2.sq.filter (fun e => !p e) })) }

/-- The rules that hold from the moment the host is lost (12 R281). -/
def State.loseHost (s : State) : State :=
  let s := s.loseStores (fun e => isHost (128 * e.line)) true
  let s := (s.snoop.map Prod.fst).foldl (fun s ln =>
    if s.hostBias (128 * ln) then s.poisonLine ln else s) s
  let run := nubNat [] ((s.blocks.filter (fun b => !b.2.done)).map (fun b => b.2.launch))
  let s := run.foldl (fun s l => s.modLaunch l (fun L =>
    { L with status := if L.status = 0 then 0x10 else L.status })) s
  State.setRegF 0x290000 0 2 3
    { s with hostLost := true, flip := s.flip.map (fun f => { f with lost := true }) }

/-- HOST_LINK_LOSS: 20,000 ns after the link left the active state the host is lost (12 R281). -/
def evHostLinkLoss  (s : State) : State :=
  if s.hostUp || s.hostLost || s.phaseNo != 1 || decide (s.gtime < s.hostDownAt + 20000) then s
  else s.loseHost

/-- The meaning of HOST_LINK_LOSS. -/
def execHostLinkLoss  (s : State) : Host.Outcome State Fault Refusal :=
  .next (evHostLinkLoss s).finish

end Sys2Proof.Machine
end

