-- ==== Sys2Proof/Machine/Fabric.lean ====
section
/-!
DEFINITION. Fabric ports, the loss of peers, coherence objects and their replicas (12 R273 to R280).
-/

set_option Elab.async false

namespace Sys2Proof.Machine

-- ports (12 R273, R274; 11 R265)

/-- STATE of a port: 0 down, 1 training, 2 active, 3 retraining, 4 dead. -/
def State.portState (s : State) (p : Nat) : Nat := s.regF (portOff p) 0 3

/-- Sets data of a capability-list entry: bits [lo + w - 1 : lo] of entry `k` (11 R265). -/
def State.setCap (k lo w v : Nat) (s : State) : State :=
  let e := BitVec.ofNat 64 (putBits (s.caplist.getD k 0).toNat lo w v)
  { s with caplist := s.caplist.set k e }

/-- The capability list's count of trained ports follows the ports (11 R265). -/
def State.updPorts (s : State) : State :=
  s.setCap 5 40 8 ((List.range Config.ports).filter (fun p => s.portState p == 2)).length

/-- The fan-outs in progress: incomplete while a sharer they wait for is unreachable (12 R280). -/
def State.updFan (s : State) : State :=
  (nubNat [] (s.inval.map (fun x => x.1))).foldl (fun s o =>
    s.setRegF (objOff o + 0x28) 0 8
      (if s.inval.any (fun x => x.1 == o && s.unreachPeer x.2.1) then 3 else 2)) s

/-- A port changes its state. -/
def State.setPort (p st : Nat) (s : State) : State :=
  (s.setRegF (portOff p) 0 3 st).updPorts.updFan

/-- Failed lanes of a port: data lanes 0 to 7, and the spare as 8. -/
def State.badLanes (s : State) (p : Nat) : List Nat :=
  (List.range 9).filter (fun k => bitOf (fget 0 p s.portLanes) k)

/-- What a port shows of its lanes once `bad` have failed: with one data lane failed the spare carries it at
full width; with two lanes failed it runs at 4 data lanes, the spare carrying what it carried unless it
is one of them (12 R273, R274; DEDUCED, log entry 115). -/
def State.showLanes (p : Nat) (bad : List Nat) (s : State) : State :=
  let o := portOff p
  let s := if bad.contains 8 then (s.setRegF o 3 1 0).setRegF o 8 8 0
    else if bad.length = 1 then (s.setRegF o 3 1 1).setRegF o 8 8 8 else s
  if bad.length = 2 then s.setRegF o 4 4 4 else s

/-- LANE_FAILURE: the first failed data lane of an active port goes to the spare and the second failed lane
halves the width, each by a retraining; a third is fatal. A spare that fails unused carries nothing, and
only counts (12 R274; DEDUCED, log entry 115). -/
def evLaneFailure (port lane : Nat) (s : State) : State :=
  let m := fget 0 port s.portLanes
  if Config.ports ≤ port || 9 ≤ lane || bitOf m lane || (s.portState port != 2 && s.portState port != 3) then s
  else
    let s : State := { s with portLanes := fset 0 port (m + 2 ^ lane) s.portLanes }
    let bad := s.badLanes port
    if 3 ≤ bad.length ∨ bad = [8] then s
    else
      let o := portOff port
      let s : State := if s.portState port = 3 then s else
        { s with portTime := fset 0 port (s.gtime + 1) s.portTime }
      let s := s.setReg (o + 4) (BitVec.ofNat 32 (min (2 ^ 32 - 1) ((s.reg (o + 4)).toNat + 1)))
      (s.showLanes port bad).setPort port 3

/-- The meaning of LANE_FAILURE. -/
def execLaneFailure (port lane : Nat) (s : State) : Host.Outcome State Fault Refusal :=
  .next (evLaneFailure port lane s).finish

/-- A port that is down begins to train, in the start's step 6 (12 R273; 13 R291); in minimal mode every port
stays down (13 R295). -/
def evPortTrain (port : Nat) (s : State) : State :=
  if Config.ports ≤ port || s.phaseNo != 0 || s.regF 0x290000 3 1 == 1 || s.portState port != 0 then s
  else s.setPort port 1

/-- The link of a port that is up replays flits, and its FEC corrects flits: RETRY and FECC, saturating (12
R273). -/
def evPortFlits (port retry fec : Nat) (s : State) : State :=
  if Config.ports ≤ port || (s.portState port != 2 && s.portState port != 3) then s
  else
    let bump (o n : Nat) (s : State) : State :=
      s.setReg o (BitVec.ofNat 32 (min (2 ^ 32 - 1) ((s.reg o).toNat + n)))
    bump (portOff port + 12) fec (bump (portOff port + 8) retry s)

/-- RETRAIN_COMPLETE: a retraining ends within 12,000 ns and the port is active again (12 R274).
-/
def evRetrainComplete (port : Nat) (s : State) : State :=
  if s.portState port == 3 && decide ((s.badLanes port).length < 3) &&
      decide (s.gtime + 1 ≤ fget 0 port s.portTime + 12000) then
    s.setPort port 2
  else s

/-- The meaning of RETRAIN_COMPLETE. -/
def execRetrainComplete (port : Nat) (s : State) : Host.Outcome State Fault Refusal :=
  .next (evRetrainComplete port s).finish

/-- A peer whose last port has died, among those that the port led to (12 R279). -/
def State.cutOff (s : State) (port dev : Nat) : Bool :=
  Config.reaches port dev && (List.range Config.ports).all (fun p =>
    !Config.reaches p dev || s.portState p == 4)

/-- PORT_DEAD: a third lane failure, or a retraining that has not ended within 12,000 ns, makes
the port dead; peers that it was the last way to are declared lost (12 R274, R279). -/
def evPortDead (port : Nat) (lostDevs : List Nat) (s : State) : State :=
  let late := s.portState port == 3 && decide (fget 0 port s.portTime + 12000 < s.gtime + 1)
  if Config.ports ≤ port || s.portState port == 4 ||
      !(late || decide (3 ≤ (s.badLanes port).length)) then s
  else
    let s := (s.setRegF (portOff port) 3 5 0).setPort port 4
    { s with peerLost := s.peerLost ++
        lostDevs.filter (fun d => s.cutOff port d && !s.peerLost.contains d) }

/-- The meaning of PORT_DEAD. -/
def execPortDead (port : Nat) (lostDevs : List Nat) (s : State) : Host.Outcome State Fault Refusal
    :=
  .next (evPortDead port lostDevs s).finish

-- the loss of a peer (12 R279, R280)

/-- Number of devices that hold replicas of an object (12 R277). -/
def State.updNshr (o : Nat) (s : State) : State :=
  s.setRegF (objOff o + 0x28) 8 8
    (nubNat [] ((tgetD [] o s.sharers).map Prod.fst)).length

/-- Raises what writes of a line wait for (12 R278): the line's latest lease, the GWCTs of its
performed writes in store queues, of the engines, and of the waits of whole devices and cores. -/
def State.raiseGwct (line t : Nat) (s : State) : State :=
  let m := s.lineMeta line
  { s with
    lines := tset line { m with latest := max m.latest t } s.lines,
    lastGwct := max s.lastGwct t,
    cores := s.cores.map (fun k => (k.1, { k.2 with
      sq := k.2.sq.map (fun e =>
        if e.line = line then { e with gwct := e.gwct.map (fun g => max g t) } else e),
      racq := k.2.racq.map (fun r => if r.ids = [] then { r with time := max r.time t } else r) })),
    engines := s.engines.map (fun e =>
      (e.1, if e.2.written then { e.2 with gwct := max e.2.gwct t } else e.2)),
    launches := s.launches.map (fun e =>
      (e.1, if e.2.endStep = 2 then { e.2 with endTime := max e.2.endTime t } else e.2)) }

/-- A fan-out of an object has ended: the object is valid again, or removed (12 R277, R278). -/
def State.fanDone (o : Nat) (s : State) : State :=
  if s.inval.any (fun x => x.1 == o) then s.updFan
  else s.setRegF (objOff o + 0x28) 0 8 (b2n (s.oV o))

/-- A sharer is done with a line: it has acknowledged, or been declared lost at `t` (12 R278, R280). -/
def State.sharerDone (o dev line t : Nat) (s : State) : State :=
  let s : State := { s with
    inval := s.inval.filter (fun x => x != (o, dev, line)),
    sharers := tset o ((tgetD [] o s.sharers).filter (fun x => x != (dev, line))) s.sharers }
  ((s.raiseGwct line t).updNshr o).fanDone o

/-- DISC of an object (12 R277). -/
def State.countDisc (o : Nat) (s : State) : State :=
  s.setReg (objOff o + 0x2C) (BitVec.ofNat 32 (min (2 ^ 32 - 1) ((s.reg (objOff o + 0x2C)).toNat + 1)))

/-- Drops what the device holds of a peer's memory (12 R279). -/
def State.dropPeerLines (dev : Nat) (s : State) : State :=
  let keep (c : CLine) : Bool := !(isPeer (128 * c.line) && peerOf (128 * c.line) == dev)
  { s with cores := s.cores.map (fun k => (k.1, { k.2 with cc := k.2.cc.filter keep,
                                                           l1 := k.2.l1.filter keep })) }

/-- A peer leaves every object's sharer list (12 R279, R280). -/
def State.dropSharer (dev : Nat) (s : State) : State :=
  let pend := s.inval.filter (fun x => x.2.1 == dev)
  let s := pend.foldl (fun s x => s.sharerDone x.1 dev x.2.2 s.gtime) s
  let objs := (s.sharers.filter (fun e => e.2.any (fun x => x.1 == dev))).map Prod.fst
  objs.foldl (fun s o => State.updNshr o
    { s with sharers := tset o ((tgetD [] o s.sharers).filter (fun x => x.1 != dev)) s.sharers }) s

/-- PEER_LOST: the effects of a declaration: LOST, leases and replicas, sharers, and the
outstanding stores (12 R279, R280). -/
def evPeerLost (dev : Nat) (s : State) : State :=
  if !s.peerLost.contains dev then s
  else
    let s : State := { s with peerLost := s.peerLost.filter (· != dev),
                              peersGone := dev :: s.peersGone.filter (· != dev) }
    let s := (s.apertures dev).foldl (fun s o => s.setRegF o 31 1 1) s
    let s := (s.dropPeerLines dev).dropSharer dev
    s.loseStores (fun e => isPeer (128 * e.line) && peerOf (128 * e.line) == dev) false

/-- The meaning of PEER_LOST. -/
def execPeerLost (dev : Nat) (s : State) : Host.Outcome State Fault Refusal :=
  .next (evPeerLost dev s).finish

/-- PEER_REMOVAL_REPORT: the fabric management reports a removal, which declares the peer lost (12
R279). -/
def evPeerRemovalReport (dev : Nat) (s : State) : State :=
  if s.peerLost.contains dev then s else { s with peerLost := s.peerLost ++ [dev] }

/-- The meaning of PEER_REMOVAL_REPORT. -/
def execPeerRemovalReport (dev : Nat) (s : State) : Host.Outcome State Fault Refusal :=
  .next (evPeerRemovalReport dev s).finish

-- coherence objects (12 R277, R278)

/-- Objects with V = 1. -/
def State.liveObjs (s : State) : List Nat :=
  (s.bar2.filter (fun e => decide (0x90000 ≤ e.1) && decide (e.1 < 0xA0000) && e.1 % 16 == 2 &&
    bitOf e.2.toNat 0)).map (fun e => (e.1 - 0x90002) / 16)

/-- A kind-0 object that is valid, its fan-outs included, and covers a line. -/
def State.replObj (s : State) (line : Nat) : Option Nat :=
  s.liveObjs.find? (fun o => s.oKind o == 0 && decide (1 ≤ s.oState o) && decide (s.oState o ≤ 3) &&
    s.objCovers o line)

/-- REPLICA_READ: a peer's read of a line takes a replica while its kind-0 object has fewer than
16 sharers, and a lease otherwise; a lost peer's message is counted and dropped (12 R276, R278,
R279). -/
def evReplicaRead (dev line : Nat) (s : State) : State :=
  if 2 ^ 32 ≤ line || (Config.peerPart dev).toNat != s.myPart || s.hostBias (128 * line) || s.lineHeld line then s
  else
    match s.replObj line with
    | none => if s.peersGone.contains dev then s else (s.grantLease line).2
    | some o =>
      let sh := tgetD [] o s.sharers
      if s.peersGone.contains dev then s.countDisc o
      else if sh.contains (dev, line) then s
      else if sh.any (fun x => x.1 == dev) || decide (s.regF (objOff o + 0x28) 8 8 < 16) then
        State.updNshr o { s with sharers := tset o (sh ++ [(dev, line)]) s.sharers }
      else (s.grantLease line).2

/-- The meaning of REPLICA_READ. -/
def execReplicaRead (dev line : Nat) (s : State) : Host.Outcome State Fault Refusal :=
  .next (evReplicaRead dev line s).finish

/-- A message of a peer about a line of this device: it is served, refused to another partition or held, or
discarded and counted where the peer has been lost (12 R275, R276, R279). -/
def State.fromPeer (dev line : Nat) (serve : State → State) (s : State) : State :=
  if 2 ^ 32 ≤ line || (Config.peerPart dev).toNat != s.myPart then s
  else if s.peersGone.contains dev then ((s.replObj line).map (fun o => s.countDisc o)).getD s
  else if !s.lineTakes line then s
  else serve s

/-- A peer's store of bytes of one line is performed at its home slice here (12 R276, R278). -/
def evPeerStore (dev loc : Nat) (bytes : List Byte) (s : State) : State :=
  if bytes = [] ∨ 128 < loc % 128 + bytes.length then s
  else s.fromPeer dev (loc / 128) (fun s => (s.perform none loc bytes).2)

/-- A peer's ATOM or RED is performed at its home slice here; the old value goes back to the peer (12 R276). -/
def evPeerAtomic (dev loc : Nat) (op : AOp) (ty : ATy) (n cmp : Nat) (s : State) : State :=
  let k := if ty.wide64 then 8 else 4
  if loc % k ≠ 0 then s
  else s.fromPeer dev (loc / 128) (fun s =>
    if s.poisonedR loc k then s
    else
      match atomNew op ty (leNat (s.rdMem loc k)) n cmp with
      | none => s.recall (loc / 128)
      | some v => (s.perform none loc (natLe k v)).2)

/-- INVALIDATION_ACK: a sharer's acknowledgement raises the write's GWCT to its expiry plus 100
ns; a lost peer's is counted and dropped (12 R278, R279). -/
def evInvalidationAck (obj dev line expiry : Nat) (s : State) : State :=
  if s.peersGone.contains dev then s.countDisc obj
  else if s.inval.contains (obj, dev, line) then s.sharerDone obj dev line (expiry + 100)
  else s

/-- The meaning of INVALIDATION_ACK. -/
def execInvalidationAck (obj dev line expiry : Nat) (s : State) : Host.Outcome State Fault Refusal
    :=
  .next (evInvalidationAck obj dev line expiry s).finish

/-- REPLICA_INVALIDATION: the home of a replica invalidates it: no more leases are granted on what
it held, and the line is the home's to change; from a lost peer it is discarded (12 R278, R279). -/
def evReplicaInvalidation (line : Nat) (s : State) : State :=
  if !isPeer (128 * line) || s.peersGone.contains (peerOf (128 * line)) then s
  else
    let (bs, s) := s.freeBytes 128
    { s with mem := wrMem (128 * line) bs s.mem }

/-- The meaning of REPLICA_INVALIDATION. -/
def execReplicaInvalidation (line : Nat) (s : State) : Host.Outcome State Fault Refusal :=
  .next (evReplicaInvalidation line s).finish

/-- OBJECT_DECLARE: V becomes 1 once the entry's last removal has ended (12 R277). -/
def evObjectDeclare (o : Nat) (s : State) : State :=
  if 4096 ≤ o || s.oV o || s.inval.any (fun x => x.1 == o) then s
  else (s.setRegF (objOff o + 8) 0 1 1).setRegF (objOff o + 0x28) 0 8 0

/-- The meaning of OBJECT_DECLARE. -/
def execObjectDeclare (o : Nat) (s : State) : Host.Outcome State Fault Refusal :=
  .next (evObjectDeclare o s).finish

/-- Lines that the shape names, those named twice counted twice. -/
def State.objSize (s : State) (o : Nat) : Nat :=
  let f (k : Nat) : Nat := (s.reg (objOff o + k)).toNat
  f 0x1C * f 0x20 * f 0x24 * (f 0x18 / 128)

/-- Lines of device memory that the object covers, each counted once (12 R277). -/
def State.objLines (s : State) (o : Nat) : Nat :=
  ((List.range (Config.deviceTop / 128)).filter (s.objCovers o)).length

/-- A shape keeps the limits of 12 R277. -/
def State.shapeOk (s : State) (o : Nat) : Bool :=
  let b := (s.reg64 (objOff o)).toNat
  let f (k : Nat) : Nat := (s.reg (objOff o + k)).toNat
  b % 128 == 0 && f 0x08 / 4 == 0 && f 0x0C % 128 == 0 && f 0x10 % 128 == 0 && f 0x14 % 128 == 0 &&
    decide (f 0x18 ≠ 0) && f 0x18 % 128 == 0 && decide (1 ≤ f 0x1C) && decide (1 ≤ f 0x20) &&
    decide (1 ≤ f 0x24) &&
    decide (b + (f 0x1C - 1) * f 0x0C + (f 0x20 - 1) * f 0x10 + (f 0x24 - 1) * f 0x14 + f 0x18 ≤
      Config.deviceTop) &&
    (decide (s.objSize o ≤ 2 ^ 22) || decide (s.objLines o ≤ 2 ^ 22))

/-- Two objects share a line. -/
def State.objMeet (s : State) (o p : Nat) : Bool :=
  let e := (s.reg (objOff o + 0x18)).toNat
  let e' := (s.reg (objOff p + 0x18)).toNat
  (s.objRuns o).any (fun a => (s.objRuns p).any (fun b =>
    decide (a < b + e') && decide (b < a + e)))

/-- OBJECT_VALIDATE: a declared object is valid, or is rejected for its shape or an overlap, and V
returns to 0 (12 R277). -/
def evObjectValidate (o : Nat) (s : State) : State :=
  if 4096 ≤ o || !s.oV o || s.oState o != 0 then s
  else if !s.shapeOk o then (s.setRegF (objOff o + 8) 0 1 0).setRegF (objOff o + 0x28) 0 8 5
  else if s.liveObjs.any (fun p => p != o && decide (1 ≤ s.oState p) && decide (s.oState p ≤ 3) &&
      s.objMeet o p) then
    (s.setRegF (objOff o + 8) 0 1 0).setRegF (objOff o + 0x28) 0 8 4
  else s.setRegF (objOff o + 0x28) 0 8 1

/-- The meaning of OBJECT_VALIDATE. -/
def execObjectValidate (o : Nat) (s : State) : Host.Outcome State Fault Refusal :=
  .next (evObjectValidate o s).finish

/-- OBJECT_REMOVE: V becomes 0, every replica is invalidated, and the entry is invalid once they
have answered (12 R277). -/
def evObjectRemove (o : Nat) (s : State) : State :=
  if 4096 ≤ o || !s.oV o then s
  else
    let new := ((tgetD [] o s.sharers).map (fun x => (o, x.1, x.2))).filter
      (fun x => !s.inval.contains x)
    State.fanDone o (State.setRegF (objOff o + 8) 0 1 0 { s with inval := s.inval ++ new })

/-- The meaning of OBJECT_REMOVE. -/
def execObjectRemove (o : Nat) (s : State) : Host.Outcome State Fault Refusal :=
  .next (evObjectRemove o s).finish

end Sys2Proof.Machine
end

