-- ==== Sys2Proof/Machine/Undo.lean ====
section
/-!
DEFINITION. The patrol of the root stacks and the undo log (12 R285 to R290).
-/

set_option Elab.async false

namespace Sys2Proof.Machine

/-- Saturating 32-bit increment of a register. -/
def State.bumpReg (off : Nat) (s : State) : State :=
  s.setReg off (BitVec.ofNat 32 (min (2 ^ 32 - 1) ((s.reg off).toNat + 1)))

/-- The half-line in DRAM is written back poisoned (12 R285). -/
def State.poisonDram (pa : Nat) (s : State) : State :=
  match tget (pa / 128) s.dram with
  | none => s.setPoison pa
  | some d =>
    let p := if pa / 64 % 2 = 0 then (16, d.poison.2) else (d.poison.1, 16)
    { s with dram := tset (pa / 128) { d with poison := p } s.dram }

/-- PATROL_SCRUB: a read of DRAM finds an error: corrected, or the half-line is written back
poisoned; the stack's counters tell (12 R285, R286). -/
def evPatrolScrub (pa : Nat) (correctable : Bool) (s : State) : State :=
  if Config.deviceTop ≤ pa then s
  else
    let o := 0x281000 + 0x10 * stackOf pa
    if correctable then s.bumpReg o
    else State.poisonDram pa ((s.bumpReg (o + 4)).setReg64 (o + 8) (BitVec.ofNat 64 (pa / 64 * 64)))

/-- The meaning of PATROL_SCRUB. -/
def execPatrolScrub (pa : Nat) (correctable : Bool) (s : State) : Host.Outcome State Fault Refusal
    :=
  .next (evPatrolScrub pa correctable s).finish

/-- A new interval begins now (12 R288). -/
def State.newInterval (s : State) : State :=
  let n := s.reg64 0x280010
  let s : State := { s with undoLog := [], undoFill := [], undoWarned := false, undoStarting := none }
  let s := (s.setReg64 0x280010 (n + 1)).setReg64 0x280000 (BitVec.ofNat 64 s.gtime)
  (s.setRegF 0x280008 4 1 0).setReg 0x28000C 0

/-- UNDO_START: an interval starts, for START or for the CKPTs that ask for it (12 R288). -/
def evUndoStart  (s : State) : State :=
  s.newInterval

/-- The meaning of UNDO_START. -/
def execUndoStart  (s : State) : Host.Outcome State Fault Refusal :=
  .next (evUndoStart s).finish

/-- Puts a line's bytes and poison back. -/
def State.putLine (line : Nat) (bytes : List Byte) (p : Nat × Nat) (s : State) : State :=
  { s with mem := wrMem (128 * line) bytes s.mem,
           poison := fset 0 (2 * line + 1) p.2 (fset 0 (2 * line) p.1 s.poison) }

/-- Every cached line is discarded: what became dirty in this interval falls back to DRAM, the leases
end, and what peers still lease stays in the horizons (12 R290). -/
def State.discardLines (s : State) : State :=
  let s := s.dram.foldl (fun s d =>
    if d.2.interval = s.interval then s.putLine d.1 d.2.bytes d.2.poison else s) s
  let s := s.lines.foldl (fun s e =>
    let sl := homeSlice (128 * e.1)
    if isPeer (128 * e.1) || decide (e.2.latest ≤ s.gtime) then s
    else { s with horizon := fset 0 sl (max (fget 0 sl s.horizon) e.2.latest) s.horizon }) s
  { s with dram := [], lines := [], hostCopies := [],
           cores := s.cores.map (fun k => (k.1, { k.2 with cc := [], l1 := [] })) }

/-- A restore may go ahead (12 R290). -/
def State.mayRestore (s : State) : Bool :=
  s.regF 0x280008 4 1 == 0 && s.blocks == [] &&
    (s.bar2.filter (fun e => decide (0x40000 ≤ e.1) && decide (e.1 < 0x50000) && e.1 % 16 == 3)).all
      (fun e => bitsOf e.2.toNat 8 2 == 0 || bitsOf e.2.toNat 8 2 == 3)

/-- UNDO_RESTORE: device memory returns to its content at the interval's start, or the restore is
refused (12 R290). -/
def evUndoRestore  (s : State) : State :=
  if !s.mayRestore then s.setRegF 0x280008 16 8 2
  else
    let log := s.undoLog
    let s := log.foldl (fun s e => s.putLine e.line e.bytes e.poison) s.discardLines
    s.newInterval.setRegF 0x280008 16 8 1

/-- The meaning of UNDO_RESTORE. -/
def execUndoRestore  (s : State) : Host.Outcome State Fault Refusal :=
  .next (evUndoRestore s).finish

end Sys2Proof.Machine
end

