-- ==== Sys2Proof/Machine/Graft.lean ====
section
/-!
DEFINITION. Patch images: their loading, their checks, activation and retirement; the shipped vendor
image (11 R246, R247, R254 to R258).
-/

set_option Elab.async false

namespace Sys2Proof.Machine

/-- A run of instructions with a trailer of equal stall codes and no names (14 R308). -/
def runOf (is : List Instr) (sc : Nat) : List Word :=
  let ws := is.flatMap encode
  let n := is.length
  let codes (lo hi : Nat) : Nat := ((List.range hi).filter (fun k => decide (lo + k < n))).foldl
    (fun x k => x + sc * 4 ^ k) 0
  ws ++ [BitVec.ofNat 32 (0xFC000000 + (n - 1) * 2 ^ 19 + ws.length * 2 ^ 9), 0,
    BitVec.ofNat 32 (codes 0 16), BitVec.ofNat 32 (codes 16 8)]

-- the shipped vendor image (11 R257, R258)

/-- Slot 24, which emulates IXADD. -/
def ixaddSlot : BitVec 512 :=
  BitVec.ofNat 512 (0x1E000000 + 0xFF000000 * 2 ^ 64 + 0xE8800040 * 2 ^ 256)

/-- The routine at region offset 0x100. -/
def ixaddRun : List Word :=
  runOf [.ushr .b32 (.s 110) (.s 98) (.imm 21), .uand .b32 (.s 110) (.s 110) (.imm 7),
    .wideForm (.shift .shl .b32 (.v 110) (.v 104) (.uni (.s 110))),
    .iadd false .s32 (.v 110) (.v 110) (.v 106), .gret none] 2

/-- The generation that the shipped vendor image leaves: the first activation. -/
def vendorGen : GraftGen :=
  { slots := (List.replicate 32 (0 : BitVec 512)).set 24 ixaddSlot,
    region := wrMem 0x100 (ixaddRun.flatMap (fun w => natLe 4 w.toNat)) [],
    imgver := Config.shippedImgVer, gen := 1 }

-- the checks of an image (11 R255)

/-- A field of an image, by byte offset. -/
def imgF (img : List Byte) (off n : Nat) : Nat := leNat ((img.drop off).take n)

/-- A slot breaks step 5 of 11 R255 in an image whose half begins at `half`. -/
def slotBad (x : BitVec 512) (half : Nat) : Bool :=
  let c := slotF x 256 32
  let arg := bitsOf c 0 16
  let fk := bitOf c 28
  let move (m : Nat) : Bool := bitsOf m 12 3 != 0 || decide (57 < bitsOf m 6 6) || decide (57 < bitsOf m 0 6)
  slotF x 320 192 != 0 || bitsOf c 16 6 != 0 || bitsOf c 26 2 == 3 || bitsOf c 24 2 == 3 ||
    (if bitsOf c 26 2 = 2 then decide (4 * arg < half) || decide (half + 0x20000 ≤ 4 * arg)
     else if fk && bitsOf c 26 2 == 0 then
       let code := bitsOf arg 0 8
       decide (code < 1) || decide (0x16 < code) || code == 0x14
     else arg != 0) ||
    move (slotF x 288 16) || move (slotF x 304 16)

/-- Slot k of an image. -/
def imgSlot (img : List Byte) (k : Nat) : BitVec 512 := BitVec.ofNat 512 (imgF img (128 + 64 * k) 64)

/-- Steps 2 to 5 of 11 R255: STATUS. -/
def imgStatus (img : List Byte) (len fuse : Nat) (sigOk : Bool) : Nat :=
  let kind := imgF img 6 1
  let tgt := imgF img 0x14 4
  let rlen := imgF img 0x0C 4
  let roff := imgF img 0x10 4
  if !sigOk then 2
  else if imgF img 0 4 ≠ 0x47465431 ∨ imgF img 4 2 ≠ 1 ∨ 1 < kind then 3
  else if bitsOf tgt 0 4 ≠ Config.generation ∨ !bitOf tgt (4 + Config.stepping) ∨ bitsOf tgt 20 12 ≠ 0 then 3
  else if rlen % 128 ≠ 0 ∨ 0x20000 < rlen then 3
  else if len ≠ 2560 + rlen then 6
  else if roff ≠ (if kind = 0 then 0 else 0x20000) ∨ imgF img 7 1 ≠ 0 ∨ imgF img 0x20 96 ≠ 0 then 3
  else if imgF img 0x18 8 < fuse then 4
  else if (List.range 32).any (fun k => slotBad (imgSlot img k) roff) ||
      (kind == 1 && (List.range 8).any (fun k => imgSlot img (24 + k) != 0)) then 5
  else 0

/-- The generation that an image makes of the one in force (11 R255, R257). -/
def GraftGen.after (g : GraftGen) (img : List Byte) : GraftGen :=
  let code := (img.drop 2176).take (imgF img 0x0C 4)
  let ss := (List.range 32).map (imgSlot img)
  let gen := (g.gen + 1) % 2 ^ 16
  if imgF img 6 1 = 0 then
    { slots := ss, region := wrMem 0 code [], imgver := imgF img 8 4, gen := gen }
  else
    { slots := ss.take 24 ++ g.slots.drop 24,
      region := wrMem 0x20000 code (feraseIf (fun k => decide (0x20000 ≤ k)) g.region),
      imgver := imgF img 8 4, gen := gen }

/-- The graft load registers show the generation in force: GRAFTGEN, and its 32 slots in SLOTS (11 R246, R254,
R257). -/
def State.updGraftReg (s : State) : State :=
  let s := s.setReg64 0x200010 (BitVec.ofNat 64 (s.graft.imgver * 2 ^ 16 + s.graft.gen))
  s.graft.slots.zipIdx.foldl (fun s e => (List.range 16).foldl (fun s k =>
    s.setReg (0x200800 + 64 * e.2 + 4 * k) (BitVec.ofNat 32 (slotF e.1 (32 * k) 32))) s) s

/-- STATUS of the graft load registers. -/
def State.graftStatus (n : Nat) (s : State) : State := s.setRegF 0x20000C 8 8 n

/-- GRAFT_LOAD: GO copies, verifies and checks an image, and fixes the time of its activation; on
any fault nothing changes in force (11 R255, R256). -/
def evGraftLoad (copyOk sigOk : Bool) (s : State) : State :=
  if s.regF 0x20000C 1 1 = 1 then s
  else
    let a := (s.reg64 0x200000).toNat
    let n := (s.reg 0x200008).toNat
    if !copyOk || decide (a % 128 ≠ 0) || decide (Config.deviceTop < a + n) || s.poisonedR a n then s.graftStatus 7
    else
      let img := s.rdMem a n
      let st := imgStatus img n s.fuse sigOk
      if st ≠ 0 then s.graftStatus st
      else
        let (d, s) := s.free
        let s : State := { s with fuse := imgF img 0x18 8,
                                  graftNew := some (s.gtime + 2000 + d, s.graft.after img) }
        (s.setRegF 0x20000C 1 1 1).graftStatus 0

/-- The meaning of GRAFT_LOAD. -/
def execGraftLoad (copyOk sigOk : Bool) (s : State) : Host.Outcome State Fault Refusal :=
  .next (evGraftLoad copyOk sigOk s).finish

/-- GRAFT_ACTIVATE: from time T on, runs bind the new generation (11 R256). -/
def evGraftActivate  (s : State) : State :=
  match s.graftNew with
  | none => s
  | some (t, g) =>
    if s.gtime < t then s
    else State.updGraftReg { s with graftOld := some s.graft, graft := g, graftNew := none }

/-- The meaning of GRAFT_ACTIVATE. -/
def execGraftActivate  (s : State) : Host.Outcome State Fault Refusal :=
  .next (evGraftActivate s).finish

/-- Something is still bound to a generation: a run, a waiting group, a group in graft mode, a sub-warp that
awaits it, or lanes that stand or will resume inside a run of it (11 R251, R256). -/
def State.genBound (s : State) (gen : Nat) : Bool :=
  s.cores.any (fun k => k.2.seqs.any (fun o => (o.map (·.gen)) == some gen)) ||
  s.warps.any (fun w => w.2.waits.any (fun b => b.gen == gen) ||
    (w.2.graft.map (·.gen)) == some gen ||
    w.2.lanes.any (fun l => l.st == .live && l.run.isSome && l.gen == gen) ||
    w.2.handler.any (fun h => h.run.isSome && h.gen == gen) ||
    w.2.parked.any (fun p => (p.run.isSome && p.gen == gen) ||
      (match p.st with | .graftWait _ g => g == gen | _ => false)))

/-- GRAFT_RETIRE: the old generation ends when nothing is bound to it, and BUSY clears (11 R256).
-/
def evGraftRetire  (s : State) : State :=
  match s.graftOld with
  | none => s
  | some g =>
    if s.genBound g.gen then s else State.setRegF 0x20000C 1 1 0 { s with graftOld := none }

/-- The meaning of GRAFT_RETIRE. -/
def execGraftRetire  (s : State) : Host.Outcome State Fault Refusal :=
  .next (evGraftRetire s).finish

end Sys2Proof.Machine
end

