-- ==== Sys2Proof/Machine/Pedric.lean ====
section
/-!
DEFINITION. Pedric segments: entering them and translating them to native runs (11 R260 to R263).
The spec does not fix the words of the native code: the translator here is the model's (log entry 43).
-/

set_option Elab.async false

namespace Sys2Proof.Machine

/-- The bound group of a warp that stands at a segment entry without a run. -/
def State.segBinding (s : State) (wid : Nat) : Option (Nat × Binding × Nat) :=
  (List.range 8).findSome? (fun k =>
    match (s.core (s.coreOf wid)).seqs.getD k none with
    | some b =>
      if b.wid = wid ∧ b.run.isNone ∧ b.inGraft = false then
        ((s.launchOf wid).bind (fun l => l.segAt b.start)).map (fun seg => (k, b, seg))
      else none
    | none => none)

/-- ENTER_SEGMENT: a bound group at a segment entry reads the translation word and enters, faults,
waits, or has the segment translated (11 R263). -/
def evEnterSegment (wid : Nat) (s : State) : State :=
  match s.segBinding wid with
  | none => s
  | some (k, b, seg) => (s.tryEnterSegment (s.coreOf wid) (k / 2) (k % 2) seg b).2

/-- The meaning of ENTER_SEGMENT. -/
def execEnterSegment (wid : Nat) (s : State) : Host.Outcome State Fault Refusal :=
  .next (evEnterSegment wid s).finish

-- reading a segment (11 R259, R260)

/-- What a word opens in a segment. -/
inductive SegWord where | plain | succ | exit | bad
deriving DecidableEq, Repr

/-- Sorts a first word: SUCC (U 0x7B), EXIT, the words that 11 R260 forbids (BRA 0x74, BRX 0x53, CALL
0x75, RET 0x54 of the lane set, UBRA and TRL of the uniform set), and the rest. -/
def segWord (w : Word) : SegWord :=
  let op := bitsOf w.toNat 24 8
  if op = 0xFB then .succ
  else if w = 0x57000000 then .exit
  else if op = 0x74 ∨ op = 0x53 ∨ op = 0x75 ∨ op = 0x54 ∨ op = 0xE2 ∨ op = 0xFC then .bad
  else .plain

/-- A word of a job's memory for the translator. -/
def State.segRead (s : State) (asid va n : Nat) : Except FaultInfo (List Word) :=
  match s.vRead (via asid) va (4 * n) with
  | .error f => .error f
  | .ok bs => .ok ((List.range n).map (fun k => BitVec.ofNat 32 (leNat ((bs.drop (4 * k)).take 4))))

/-- The instructions of a segment up to its SUCC or EXIT; an invalid one answers FORMAT_INVALID. -/
def State.segInstrs (s : State) (asid : Nat) : Nat → Nat → Nat → Except FaultInfo (List (List Word))
  | 0, _, _ => .error { code := 0x16 }
  | fuel + 1, va, used =>
    match s.segRead asid va 1 with
    | .error f => .error f
    | .ok ws =>
      let w := ws.getD 0 0
      let n := lengthOf w
      if 4096 < used + n ∨ segWord w = .bad then .error { code := 0x16 }
      else
        match s.segRead asid va n with
        | .error f => .error f
        | .ok ws =>
          if segWord w = .plain then
            match State.segInstrs s asid fuel (va + 4 * n) (used + n) with
            | .error f => .error f
            | .ok r => .ok (ws :: r)
          else .ok [ws]

/-- A SUCC keeps 11 R261. -/
def succOk (ws : List Word) : Bool :=
  let w := (ws.getD 0 0).toNat
  let k := bitsOf w 22 2
  k != 3 && bitsOf w 0 19 == 0 && (k != 0 || (bitsOf w 19 3 == 0 && ws.getD 2 0 == 0))

-- cutting into runs (14 R307 to R310)

/-- What the cutter holds: code so far, the open run's words and instruction count, the registers
whose variable-latency results no trailer has named, and those of the open run. -/
structure Cut where
  out : List Word
  body : List Word
  n : Nat
  pend : List Nat
  fresh : List Nat
deriving DecidableEq, Repr

/-- The name of a register key in a trailer (14 R308). -/
def nameOf (k : Nat) : Nat := if 4096 ≤ k then 128 + (k - 4096) else k

/-- A register that a trailer can name. -/
def nameable (k : Nat) : Bool := decide (k < 112) || decide (4096 ≤ k)

/-- A trailer for `n` instructions of `nw` words, with its names; every stall code is 3, which covers
every fixed latency (14 R309, R310). -/
def cutTrailer (n nw : Nat) (names : List Nat) : List Word :=
  let nm := (List.range names.length).foldl (fun x k => x + nameOf (names.getD k 0) * 256 ^ k) 0
  let codes (lo hi : Nat) : Nat :=
    ((List.range hi).filter (fun k => decide (lo + k < n))).foldl (fun x k => x + 3 * 4 ^ k) 0
  [BitVec.ofNat 32 (0xFC000000 + (n - 1) * 2 ^ 19 + names.length * 2 ^ 16 + nw * 2 ^ 9),
    BitVec.ofNat 32 nm, BitVec.ofNat 32 (codes 0 16), BitVec.ofNat 32 (codes 16 8)]

/-- Closes the open run, naming up to four registers. -/
def Cut.close (c : Cut) : Cut :=
  if c.n = 0 then c
  else
    { out := c.out ++ c.body ++ cutTrailer c.n c.body.length (c.pend.take 4), body := [], n := 0,
      pend := c.pend.drop 4, fresh := [] }

/-- Runs of one NOP name what is left. -/
def Cut.nameRest : Nat → Cut → Cut
  | 0, c => c
  | fuel + 1, c =>
    if c.pend = [] then c
    else Cut.nameRest fuel (Cut.close { c with body := encode .nop, n := 1 })

/-- Ends the open run with every pending result named. -/
def Cut.flush (c : Cut) : Cut :=
  let c := c.close
  Cut.nameRest c.pend.length c

/-- Adds an instruction: a new run begins before it when the open one is full or when it reads a
variable-latency result of the open one, and after it when it must end its run. -/
def Cut.add (c : Cut) (ws : List Word) : Cut :=
  let i := (decode ws).toOption
  let use := (i.map regUse).getD ([], [])
  let c := if c.n = 24 ∨ (use.1.flatMap Use.plainKeys).any (fun k => nameable k && c.fresh.contains k) then c.flush
    else c
  let new := match i with
    | some i => if (latency i).isNone then (use.2.flatMap Use.plainKeys).filter nameable else []
    | none => []
  let c : Cut := { c with body := c.body ++ ws, n := c.n + 1,
                          pend := c.pend ++ new.filter (fun k => !c.pend.contains k),
                          fresh := c.fresh ++ new }
  if (i.map endsRun).getD false then c.flush else c

/-- A 64-bit constant in a pair of temporaries. -/
def moviPair (d : LSpec) (x : Nat) : List Instr :=
  (List.range 4).map (fun k => Instr.movi .b64 (k != 0) d (Fin.ofNat 4 k)
    (BitVec.ofNat 16 (x / 2 ^ (16 * k))))

/-- The native branch to a SUCC's successors, as one run: their translation word addresses in
temporaries, the choice by the lane's flag, and BRX; a segment that the launch does not have faults. -/
def succRun (trbase nseg : Nat) (ws : List Word) : List Word :=
  let w := (ws.getD 0 0).toNat
  let at' (k : Nat) : Nat :=
    let seg := (ws.getD k 0).toNat
    if seg < nseg then trbase + 0x80 + 8 * seg else (succBad trbase seg).toNat
  let n : Fin 8 := Fin.ofNat 8 (bitsOf w 19 3)
  let pick := match bitsOf w 22 2 with
    | 0 => moviPair (.t 0) (at' 1)
    | 1 => moviPair (.t 0) (at' 2) ++ moviPair (.t 2) (at' 1) ++
        [.sel n (.t 0) (.t 0) (.t 2), .sel n (.t 1) (.t 1) (.t 3)]
    | _ => moviPair (.t 0) (at' 1) ++ moviPair (.t 2) (at' 2) ++
        [.sel n (.t 0) (.t 0) (.t 2), .sel n (.t 1) (.t 1) (.t 3)]
  runOf (pick ++ [.brx false (.t 0)]) 3

/-- The native code of a segment. -/
def segCode (trbase nseg : Nat) (is : List (List Word)) : List Word :=
  let last := is.getLastD []
  let c := is.dropLast.foldl Cut.add { out := [], body := [], n := 0, pend := [], fresh := [] }
  if segWord (last.getD 0 0) = .succ then (Cut.flush c).out ++ succRun trbase nseg last
  else (Cut.add c last).out

-- Translate (11 R262, R263)

/-- The first byte of the code region, from TRBASE. -/
def Launch.codeRegion (l : Launch) : Nat := alignUp 128 (0x80 + 8 * l.nseg)

/-- A segment's native code, or the fault that makes it a failed one. -/
def State.segNative (s : State) (asid : Nat) (l : Launch) (seg : Nat) : Except FaultInfo (List Word) :=
  match s.segRead asid (l.code + 0x80 + 4 * seg) 1 with
  | .error f => .error f
  | .ok o =>
    match s.segInstrs asid 4097 (l.code + (o.getD 0 0).toNat) 0 with
    | .error f => .error f
    | .ok is =>
      let last := is.getLastD []
      if segWord (last.getD 0 0) = .succ && !succOk last then .error { code := 0x16 }
      else .ok (segCode l.trbase l.nseg is)

/-- Adds a size to NEXT: the old NEXT. -/
def State.segAlloc (asid trbase size : Nat) (s : State) : Except FaultInfo Nat × State :=
  match s.vRead (via asid) trbase 8 with
  | .error f => (.error f, s)
  | .ok bs =>
    match s.vWrite (via asid) trbase (natLe 8 (leNat bs + size)) with
    | (.error f, s) => (.error f, s)
    | (.ok _, s) => (.ok (leNat bs), s)

/-- The translation word of a translation (11 R262): code allocated and written, or a fault code. -/
def State.segBuild (asid : Nat) (l : Launch) (seg : Nat) (s : State) : Option (Nat × State) :=
  let failed (f : FaultInfo) (s : State) : Option (Nat × State) :=
    if f = heldFault then none else some (3 + f.code.toNat * 2 ^ 56, s)
  let code := s.segNative asid l seg
  let size := match code with | .ok ws => alignUp 128 (4 * ws.length) | .error _ => 0
  match code with
  | .error f => failed f s
  | .ok ws =>
    match s.segAlloc asid l.trbase size with
    | (.error f, s) => failed f s
    | (.ok old, s) =>
      let o := l.codeRegion + old
      if 65536 * l.trsize < o + size then failed { code := 0x0B } s
      else
        match s.vWrite (via asid) (l.trbase + o) (ws.flatMap (fun w => natLe 4 w.toNat)) with
        | (.error f, s) => failed f s
        | (.ok _, s) => some (2 + (l.trbase + o) / 128 * 2 ^ 7, s)

/-- SEGMENT_TRANSLATE: a claimed segment is cut into runs, its code is allocated and written, and
its translation word published (11 R263). -/
def evSegmentTranslate (l seg : Nat) (s : State) : State :=
  match s.launch l with
  | none => s
  | some L =>
    if !s.xlat.contains (l, seg) then s
    else
      let asid := s.jAsid L.job
      match s.segBuild asid L seg with
      | none => s
      | some (v, t) =>
        match t.vWrite (via asid) (L.trbase + 0x80 + 8 * seg) (natLe 8 v) with
        | (.error f, t') => if f = heldFault then s
            else { t' with xlat := t'.xlat.filter (fun x => x != (l, seg)) }
        | (.ok g, t') =>
          let t' := t'.modLaunch l (fun L => { L with lastGwct := max L.lastGwct g })
          { t' with xlat := t'.xlat.filter (fun x => x != (l, seg)) }

/-- The meaning of SEGMENT_TRANSLATE. -/
def execSegmentTranslate (l seg : Nat) (s : State) : Host.Outcome State Fault Refusal :=
  .next (evSegmentTranslate l seg s).finish

end Sys2Proof.Machine
end

