-- ==== Sys2Proof/Machine/Checked.lean ====
section
/-!
DEFINITION. The checked machine: retire packets, checks, commits, mismatches, speculation levels and
failed cores; picking a warp, and the end of a release wait (01 R9 to R37; 03 R80, R81; 08 R190).
-/

set_option Elab.async false

namespace Sys2Proof.Machine

-- picking a warp (03 R81)

/-- Some live lane of the warp neither waits nor is parked. -/
def Warp.canRun (w : Warp) : Bool := w.live &&& ~~~w.heldLanes != 0

/-- Warps of a partition that are bound to no sequencer. -/
def State.unbound (s : State) (core part : Nat) : List (Nat × Warp) :=
  (s.coreWarps core).filter (fun e => e.2.part == part && !s.isBound e.1 && !s.blockOff (blkOf e.1))

/-- Those with a ready group. -/
def State.readyWarps (s : State) (core part : Nat) : List (Nat × Warp) :=
  (s.unbound core part).filter (fun e => (s.nextGroup e.1 e.2).isSome)

/-- The oldest of some warps. -/
def oldest (ws : List (Nat × Warp)) : Option (Nat × Warp) :=
  minBy (fun (e : Nat × Warp) => e.2.age) ws

/-- Out-of-order pick is off for a warp: by its core's level where its group is at a run start, by the level in
force for it inside a run (01 R33, R34). -/
def State.inOrder (s : State) (core : Nat) (e : Nat × Warp) : Bool :=
  decide (3 ≤ (match s.nextGroup e.1 e.2 with
    | some (m, w) => if (w.lane (lowLane m)).run.isNone then (s.core core).level else w.level
    | none => (s.core core).level))

/-- PickWarp: the warp whose group is bound; `starved` are those ready but unpicked for 64 core cycles, and
a warp for which out-of-order pick is off goes only if it is the oldest that can run (01 R33; 03 R81). -/
def State.pickFrom (s : State) (core part : Nat) (starved : List Nat) : Option (Nat × Warp) :=
  let first := (oldest ((s.unbound core part).filter (fun e => e.2.canRun))).map Prod.fst
  let cand := (s.readyWarps core part).filter (fun e => !s.inOrder core e || first == some e.1)
  let late := cand.filter (fun e => starved.contains e.1)
  if late != [] then oldest late
  else
    let fresh := cand.filter (fun e => !e.2.yielded)
    if fresh = [] then oldest cand else oldest fresh

/-- PICK_WARP: a free sequencer of a partition binds the chosen warp's next group (03 R80, R81; 04
R84). -/
def evPickWarp (core part seq : Nat) (starved : List Nat) (s : State) : State :=
  if (s.seqAt core part seq).isSome || 2 ≤ seq || 4 ≤ part || s.coreHalted core then s
  else
    match s.pickFrom core part starved with
    | none => s
    | some (wid, w) =>
      match s.nextGroup wid w with
      | none => s
      | some (m, w) => State.bindGroup core part seq wid m { s with warps := tset wid w s.warps }

/-- The meaning of PICK_WARP. -/
def execPickWarp (core part seq : Nat) (starved : List Nat) (s : State) : Host.Outcome State Fault
    Refusal :=
  .next (evPickWarp core part seq starved s).finish

-- the end of a release wait (08 R190)

/-- Runs the instruction that a group comes back to from its wait. -/
def State.runPrepared (p : Prep) : State :=
  match p with
  | .done s => s
  | .exec i s =>
    match bodyOf i, s.ctx? with
    | some body, some c => s.runInstr i body c
    | _, _ => s

/-- RELEASE_WAIT_END: the first release wait of a warp that may end does, and its instruction goes
on (08 R190). -/
def evReleaseWaitEnd (wid : Nat) (s : State) : State :=
  match s.warp wid with
  | none => s
  | some w =>
    match w.waits.findIdx? (fun b => (b.tag.map (·.why)) == some .release &&
        s.released (s.coreOf wid) wid b.mask .block) with
    | none => s
    | some k => State.runPrepared (s.retry wid k)

/-- The meaning of RELEASE_WAIT_END. -/
def execReleaseWaitEnd (wid : Nat) (s : State) : Host.Outcome State Fault Refusal :=
  .next (evReleaseWaitEnd wid s).finish

-- retire packets (01 R11, R20, R23)

/-- The instruction that a packet claims. -/
def packetInstr (p : RetirePacket) : Option Instr := (decode p.words).toOption

/-- A finding that says nothing yet. -/
def Outstanding.fresh (wid : Nat) (p : RetirePacket) : Outstanding :=
  { wid := wid, p := p, checked := false, ran := false, dst := [], faults := [], addrs := [], reads := [],
    srec := none }

/-- RETIRE_PACKET: the packet of the warp in its slot is held for its check and commit. Only a weak load may be
value-predicted, and a packet that the level in force for its warp or a full partition forbids is not sent
(01 R11, R20, R23, R33, R34). -/
def evRetirePacket (core part : Nat) (p : RetirePacket) (s : State) : State :=
  match s.packetWarp core part p.warp with
  | none => s
  | some wid =>
    let lv := ((s.warp wid).map (·.level)).getD 0
    if 4 ≤ part || s.coreHalted core || s.blockOff (blkOf wid) || (p.sr && 2 ≤ lv) ||
        (p.vp && (1 ≤ lv || !(packetInstr p).any isWeakLoad)) || s.partFull core part wid then s
    else s.modCore core (fun k => { k with out := k.out ++ [(part, Outstanding.fresh wid p)] })

/-- The meaning of RETIRE_PACKET. -/
def execRetirePacket (core part : Nat) (p : RetirePacket) (s : State) : Host.Outcome State Fault
    Refusal :=
  .next (evRetirePacket core part p s).finish

/-- Replaces the `idx`-th packet of a partition. -/
def setOut (part : Nat) (o : Outstanding) : Nat → List (Nat × Outstanding) → List (Nat × Outstanding)
  | _, [] => []
  | n, e :: r =>
    if e.1 = part then (if n = 0 then (part, o) :: r else e :: setOut part o (n - 1) r)
    else e :: setOut part o n r

/-- Removes the `idx`-th packet of a partition. -/
def dropOut (part : Nat) : Nat → List (Nat × Outstanding) → List (Nat × Outstanding)
  | _, [] => []
  | n, e :: r =>
    if e.1 = part then (if n = 0 then r else e :: dropOut part (n - 1) r)
    else e :: dropOut part n r

/-- The sequencer to which a warp is bound. -/
def State.seqOf (s : State) (core part wid : Nat) : Option (Nat × Binding) :=
  [0, 1].findSome? (fun q =>
    match s.seqAt core part q with
    | some b => if b.wid = wid then some (q, b) else none
    | none => none)

-- registers by key, as packets claim them (01 R11)

/-- A register of the architectural register file by its key, for a lane. -/
def Warp.rdKey (w : Warp) (l k : Nat) : Word :=
  if k < 1024 then fget 0 (32 * k + l) w.v
  else if k < 4096 then ((w.graft.map (fun g => fget 0 (32 * (k - 1128) + l) g.regs)).getD 0)
  else if k < handlerKey then fget 0 (k - 4096) w.u
  else if k < graftKey then (w.handler.map (fun h => h.bank.getD (k - handlerKey) 0)).getD 0
  else (w.graft.map (fun g => g.bank.getD (k - graftKey) 0)).getD 0

/-- The warp with a register by its key set for a lane. -/
def Warp.setKey (l k : Nat) (x : Word) (w : Warp) : Warp :=
  if k < 1024 then { w with v := fset 0 (32 * k + l) x w.v }
  else if k < 4096 then
    { w with graft := w.graft.map (fun g => { g with regs := fset 0 (32 * (k - 1128) + l) x g.regs }) }
  else if k < handlerKey then { w with u := fset 0 (k - 4096) x w.u }
  else if k < graftKey then
    { w with handler := w.handler.map (fun h => { h with bank := lput 0 (k - handlerKey) x h.bank }) }
  else { w with graft := w.graft.map (fun g => { g with bank := lput 0 (k - graftKey) x g.bank }) }

/-- The warp with the operands that a packet claims. -/
def applyClaims (p : RetirePacket) (w : Warp) : Warp :=
  let w := (p.srcv ++ p.srcu).foldl (fun w x => w.setKey x.lane x.key x.val) w
  p.srcf.foldl (fun w x => w.modLane x.lane (fun l => { l with f := x.val.setWidth 8 })) w

/-- What an instruction writes in lanes, as claims: registers, flags and rejoin masks by their keys. -/
def State.dstClaims (s : State) (wid : Nat) (i : Instr) (w : Warp) (m : Mask) : List Claim :=
  let l0 := lowLane m
  let x := flagWrites i
  let regs := (keysOf w l0 (s.destUse wid i)).flatMap (fun k =>
    if 4096 ≤ k then [({ key := k, lane := 0, val := w.rdKey 0 k } : Claim)]
    else (lanesOf m).map (fun l => { key := k, lane := l, val := w.rdKey l k }))
  regs ++ x.f.flatMap (fun n => (lanesOf m).map (fun l =>
      { key := fkey 0 n, lane := l, val := BitVec.ofNat 32 (b2n (w.rdF l n)) })) ++
    x.g.map (fun n => { key := gkey (w.half l0) n, lane := 0, val := BitVec.ofNat 32 (b2n (w.rdG l0 n)) }) ++
    x.j.map (fun n => { key := jkey n, lane := 0, val := w.jOut.getD n 0 })

-- checks (01 R12, R17 to R19, R22, R36)

/-- Effective addresses of an instruction's active lanes (condition 6 of 01 R14); of SLD, those of the elements
that it reads. -/
def State.addrsOf (s : State) (c : Ctx) (w : Warp) (i : Instr) : List (Nat × DWord) :=
  let mem (m : MemOp) (imm : DWord) : List (Nat × DWord) :=
    (lanesOf c.mask).map (fun l => (l, MemOp.addr s c w l m imm))
  match i with
  | .ld _ _ _ _ m _ imm => mem m (imm.signExtend 64)
  | .st _ _ _ _ m _ imm => mem m (imm.signExtend 64)
  | .atom _ _ _ _ m _ _ _ => mem m 0
  | .red _ _ _ _ m _ => mem m 0
  | .waita _ _ _ _ m _ _ imm => mem m (imm.signExtend 64)
  | .lnx _ _ a _ _ base scale _ imm => (lanesOf c.mask).map (fun l =>
      (l, s.rdU64 c base + ((w.rdL l a).signExtend 64 <<< scale.val) + (imm.signExtend 64 <<< 7)))
  | .sld _ n _ =>
    match (s.block (blkOf c.wid)).bind (fun b => b.streams.getD n.val none) with
    | none => []
    | some z => ((sldNumbers c w z.pos).1.filter (fun e => decide (e.2 < rcTotal z.rcd))).map
        (fun e => (e.1, elemAddr z.rcd e.2))
  | _ => []

/-- The record of the stream slot that an instruction reads. -/
def State.streamOf (s : State) (wid : Nat) : Instr → Option (BitVec 512)
  | .sld _ n _ => ((s.block (blkOf wid)).bind (fun b => b.streams.getD n.val none)).map (·.rcd)
  | _ => none

/-- The context of a packet, of its claimed words at its claimed address. -/
def packetCtx (core part : Nat) (o : Outstanding) (w : Warp) : Ctx :=
  let l0 := lowLane o.p.mask
  let pc := o.p.pc.setWidth 64
  { core := core, part := part, seq := 0, wid := o.wid, mask := o.p.mask, pc := pc, start := pc, nxt := pc,
    words := o.p.words, raw := o.p.words, n := o.p.words.length, idx := 0, last := false, sc := 0,
    gen := o.p.gen.toNat, score := false, inGraft := w.inGraft l0, inHandler := w.inHandler l0, tag := none }

/-- The pieces that each lane's load reads, or its fault. -/
def State.loadPieces (s : State) (c : Ctx) (w : Warp) (i : Instr) : Reached :=
  match i with
  | .ld _ _ ty _ m _ imm => memReach s c m (imm.signExtend 64) (ldBytes ty) .read
  | .sld _ n _ =>
    match (s.block (blkOf c.wid)).bind (fun b => b.streams.getD n.val none) with
    | none => []
    | some z => ((sldNumbers c w z.pos).1.filter (fun e => decide (e.2 < rcTotal z.rcd))).map
        (fun e => (e.1, .ok (s.elemPieces c e.1 z.rcd e.2)))
  | _ => []

/-- The reads of a load's lanes, in lane order: words or faults, and the state that fetching its lines leaves. -/
def State.loadReads (c : Ctx) (w : Warp) (i : Instr) (rs : Reached) (s : State) :
    List (Nat × Except FaultInfo (List Word)) × State :=
  let keep (l : Nat) (ws : List Byte → List Word) (x : Except FaultInfo (List Byte) × State)
      (t : List (Nat × Except FaultInfo (List Word))) : List (Nat × Except FaultInfo (List Word)) × State :=
    (t ++ [(l, x.1.map ws)], x.2)
  match i with
  | .ld _ _ ty _ _ _ _ => rs.foldl (fun (t : List (Nat × Except FaultInfo (List Word)) × State) r =>
      keep r.1 (ldWords ty) (match r.2 with
        | .ok ps => t.2.readPieces c r.1 false ps
        | .error f => (.error f, t.2)) t.1) ([], s)
  | .sld _ n _ =>
    match (s.block (blkOf c.wid)).bind (fun b => b.streams.getD n.val none) with
    | none => ([], s)
    | some z =>
      let words (bs : List Byte) : List Word := (List.range (rcRegs z.rcd)).map (fun k =>
        BitVec.ofNat 32 (leNat ((bs.drop (4 * k)).take 4)))
      (sldNumbers c w z.pos).1.foldl (fun (t : List (Nat × Except FaultInfo (List Word)) × State) e =>
        if e.2 < rcTotal z.rcd then keep e.1 words (t.2.elemRead c e.1 z.rcd e.2) t.1
        else (t.1 ++ [(e.1, .ok (words []))], t.2)) ([], s)
  | _ => ([], s)

/-- The claims of a load's words in a lane: the registers of its destination. -/
def State.loadClaims (s : State) (wid : Nat) (i : Instr) (w : Warp) (l : Nat) (ws : List Word) : List Claim :=
  (keysOf w l (s.destUse wid i)).zipIdx.map (fun e => { key := e.1, lane := l, val := ws.getD e.2 0 })

/-- Performs a load at its check, from the operands that its packet claims; none while an access is held. The
lines it needs come to the checker cache (01 R17 to R19, R22). -/
def State.checkLoad (core part : Nat) (o : Outstanding) (i : Instr) (w : Warp) (s : State) :
    Option (Outstanding × State) :=
  let w' := applyClaims o.p w
  let c := packetCtx core part o w'
  let t : State := { s with warps := tset o.wid w' s.warps }
  let rs := t.loadPieces c w' i
  let (xs, u) := State.loadReads c w' i rs t
  let faults := xs.filterMap (fun x => match x.2 with | .error f => some (x.1, f) | .ok _ => none)
  if anyHeld rs || faults.any (fun e => decide (e.2 = heldFault)) then none
  else
    some ({ o with
      checked := true, ran := true, faults := faults, addrs := t.addrsOf c w' i,
      dst := xs.flatMap (fun x => match x.2 with
        | .ok ws => t.loadClaims o.wid i w' x.1 ws
        | .error _ => []),
      reads := touches (reachOk rs), srec := t.streamOf o.wid i }, { u with warps := s.warps })

/-- The run of a packet's bound group is fetched at its first check (01 R13); where the fetch waits or
faults, the commit sees to it. -/
def State.fetchAtCheck (core part wid : Nat) (s : State) : State :=
  match s.seqOf core part wid with
  | none => s
  | some (q, b) =>
    if b.run.isSome then s
    else
      match s.startRun core part q b with
      | (.go, t) => t
      | _ => s

/-- A check's findings: a load is performed, anything else is recomputed at its commit from the same operands,
which it verifies (01 R12, R14). Loads of the same thread that come later and share a byte are checked
again (08 R179). -/
def State.checkOne (core part idx : Nat) (o : Outstanding) (s : State) : State :=
  let put (o : Outstanding) (s : State) : State := s.modCore core (fun k => { k with out := setOut part o idx k.out })
  match s.warp o.wid, (packetInstr o.p) with
  | some w, some i =>
    if isCheckedLoad i then
      match s.checkLoad core part o i w with
      | none => s
      | some (o, s) => (put o s).recheckMeet core o.wid (some o.p.seq) o.reads
    else put { o with checked := true } s
  | _, _ => put { o with checked := true } s

/-- CHECK: a checker group checks a packet; each retry after a residue error counts in SOFT, and three errors
in a row fail the core (01 R12, R13, R17, R36). -/
def evCheck (core part idx errs : Nat) (s : State) : State :=
  match (s.partOut core part)[idx]? with
  | none => s
  | some o =>
    let s := s.modCore core (fun k => { k with mmSoft := min 0xFFFF (k.mmSoft + min errs 2) })
    if 3 ≤ errs then s.failCore core
    else if s.coreHalted core || s.blockOff (blkOf o.wid) then s
    else State.checkOne core part idx o (s.fetchAtCheck core part o.wid)

/-- The meaning of CHECK. -/
def execCheck (core part idx errs : Nat) (s : State) : Host.Outcome State Fault Refusal :=
  .next (evCheck core part idx errs s).finish

-- commits (01 R14 to R16, R24)

/-- Two claimed fields say the same. -/
def sameSet {α : Type} [DecidableEq α] (a b : List α) : Bool := a.all b.contains && b.all a.contains

/-- Condition 5 of 01 R14 fails: a claimed operand differs from architectural state, or one that the packet has
room for is not claimed for an active lane. -/
def sourceBad (i : Instr) (c : Ctx) (w : Warp) (p : RetirePacket) : Bool :=
  let ks := keysOf w (lowLane c.mask) (regUse i).1
  let lk := ks.filter (fun k => decide (k < 4096))
  let uk := ks.filter (fun k => decide (4096 ≤ k))
  let ls := lanesOf c.mask
  p.srcv.any (fun x => w.rdKey x.lane x.key != x.val) || p.srcu.any (fun x => w.rdKey x.lane x.key != x.val) ||
    p.srcf.any (fun x => (w.lane x.lane).f.setWidth 32 != x.val) ||
    (decide (lk.length ≤ 6) &&
      lk.any (fun k => ls.any (fun l => !p.srcv.any (fun x => x.key == k && x.lane == l)))) ||
    (decide (uk.length ≤ 4) && uk.any (fun k => !p.srcu.any (fun x => x.key == k))) ||
    (!(flagReads i).f.isEmpty && ls.any (fun l => !p.srcf.any (fun x => x.lane == l)))

/-- Condition 5 or 6 of 01 R14 fails: an operand, or an address. -/
def State.operandBad (s : State) (i : Instr) (c : Ctx) (w : Warp) (p : RetirePacket) : Bool :=
  sourceBad i c w p ||
    !sameSet p.addr ((s.addrsOf c w i).map (fun x => (x.1, x.2.setWidth 55)))

/-- What a check found for a load stands at its commit: the packet's operands are right, and the addresses and
the stream's record are still those it used (01 R14 to R18; 07 R166). -/
def State.stands (s : State) (i : Instr) (c : Ctx) (w : Warp) (o : Outstanding) : Bool :=
  isCheckedLoad i && o.ran && !s.operandBad i c w o.p && o.p.mask == c.mask && (packetInstr o.p) == some i &&
    o.addrs == s.addrsOf c w i && o.srec == s.streamOf c.wid i

/-- A load's finding for a lane, as bytes of its registers. -/
def Outstanding.found (o : Outstanding) (l : Nat) : Except FaultInfo (List Byte) :=
  match o.faults.find? (fun e => e.1 == l) with
  | some e => .error e.2
  | none => .ok ((o.dst.filter (fun x => x.lane == l)).flatMap (fun x => natLe 4 x.val.toNat))

/-- The effect that commits: of a load whose finding stands, the values and faults found at its check, with
the slot's advance at its commit; else the instruction's own (01 R16 to R18, R22). -/
def State.commitBody (s : State) (i : Instr) (body : Ctx → State → Res) (c : Ctx) (w : Warp)
    (o : Outstanding) : Ctx → State → Res :=
  if s.stands i c w o then
    match i with
    | .sld d n f => fun c s => sldWith (fun _ l _ s => (o.found l, s)) d n f c s
    | _ => fun c s =>
      { s := s.modWarp c.wid (fun w => o.dst.foldl (fun w d =>
          if c.mask.getLsbD d.lane then w.wrV d.lane (d.key % 1024) d.val else w) w),
        faults := o.faults.filter (fun e => c.mask.getLsbD e.1), flow := .seq }
  else body

/-- The lanes that jump, and the target of the lowest (01 R11, NEXT). -/
def nextOf (f : Flow) : Mask × DWord :=
  match f with
  | .jump t => (maskOf (t.map Prod.fst), (t.head?.map Prod.snd).getD 0)
  | _ => (0, 0)

/-- The fault that a check found, as FCLAIM codes it: the lowest code; 0 where none. -/
def codeOf (fs : List (Nat × FaultInfo)) : Nat :=
  ((minBy (fun (e : Nat × FaultInfo) => e.2.code.toNat) fs).map (fun e => e.2.code.toNat)).getD 0

/-- Conditions 3, 4 and 7 of 01 R14 hold for a packet at its context; `code`: the fault found, if that is
known. -/
def placeOk (p : RetirePacket) (c : Ctx) (words : List Word) (code : Option Nat) : Bool :=
  p.pc.setWidth 64 == c.pc && p.mask == c.mask && p.words == words && p.gen.toNat == c.gen % 2 ^ 16 &&
    code.all (fun k => p.fclaim.toNat == k)

/-- NEXT as claimed. -/
def nextOk (p : RetirePacket) (n : Mask × DWord) : Bool :=
  p.nextMask == n.1 && (n.1 == 0 || p.nextPc.setWidth 64 == n.2)

/-- The class of a packet's mismatch with the instruction that commits, if any; `r` is what the check came to,
on lanes with no flags raised before it. Where several conditions fail, OPERAND comes before VALUE, and
VALUE before RESULT (01 R14, R15; log entry 117). -/
def State.mismatchOf (s : State) (i : Instr) (c : Ctx) (w : Warp) (p : RetirePacket)
    (fs : List (Nat × FaultInfo)) (r : Res) : Option MisClass :=
  let ok := c.mask &&& ~~~maskOf (fs.map Prod.fst)
  let w2 := (r.s.warp c.wid).getD w
  let waits := match r.flow with | .stay _ _ _ => true | _ => false
  let dstOk := sameSet p.dst (s.dstClaims c.wid i w2 ok)
  let fpf := (lanesOf ok).filterMap (fun l =>
    if (w2.lane l).fpf = 0 then none else some (l, (w2.lane l).fpf))
  if s.operandBad i c w p then some .operand
  else if isCheckedLoad i && !waits && !dstOk then some .value
  else if !placeOk p c c.words (if waits then none else some (codeOf fs)) ||
      (isSpeculative i && !waits && !(dstOk && sameSet (p.fpf.filter (fun e => e.2 != 0)) fpf &&
        nextOk p (nextOf r.flow))) then some .result
  else none

/-- A mismatch, where there is one, discards and counts (01 R24, R31). -/
def State.judge (core part lid : Nat) (stall : Bool) (cls : Option MisClass) (s : State) : State :=
  match cls with
  | none => s
  | some k => State.mismatch core part lid k stall s

/-- Commits an instruction from its packet with the Heartwood's own result (01 R14 to R16, R24, R30). -/
def State.commitInstr (i : Instr) (body : Ctx → State → Res) (c : Ctx) (o : Outstanding) (s : State) : State :=
  match s.warp c.wid with
  | none => s
  | some w =>
    let lid := s.lidOf c.wid
    let body := s.commitBody i body c w o
    let (pre, r, short) := instrRes i body c w s
    if short then
      applyRes i c pre { r with s := State.mismatch c.core c.part lid .operand o.p.stall r.s }
    else
      let w0 := w.modLanes c.mask (fun l => { l with fpf := 0 })
      let (pre0, r0, _) := instrRes i body c w0 { s with warps := tset c.wid w0 s.warps }
      let cls := s.mismatchOf i c w o.p (pre0 ++ r0.faults) r0
      State.judge c.core c.part lid o.p.stall cls (applyRes i c pre r)

/-- What stands before an instruction, from its packet: a fault of the slots or the decoder, or the entry of a
routine, which commits like a taken branch, as far as the packet claims it rightly (01 R14 to R16; 11
R250). -/
def State.commitFound (c : Ctx) (w : Warp) (o : Outstanding) (s : State) : State :=
  let lid := s.lidOf c.wid
  let p := o.p
  let none' : Bool := p.dst.isEmpty && p.fpf.all (fun e => e.2 == 0)
  match s.found c w with
  | .fault f =>
    let ok := placeOk p c c.words (some f.code.toNat) && none' && nextOk p (0, 0)
    State.judge c.core c.part lid p.stall (if ok then none else some .result) (s.groupFault c f)
  | .emulate k =>
    let va := BitVec.ofNat 64 (4 * slotF ((s.graftOf c.gen).slots.getD k 0) 256 16)
    let ok := placeOk p c c.words (some 0) && none' && nextOk p (c.mask, va)
    State.judge c.core c.part lid p.stall (if ok then none else some .result) (s.emulateInstr c k)
  | .instr i =>
    match bodyOf i with
    | some body => s.commitInstr i body c o
    | none => s

/-- Commits the instruction at which a bound group stands, once its run is fetched; a fetch that faults is the
instruction's fault (01 R13, R16). -/
def State.commitPacket (core part idx : Nat) (o : Outstanding) (q : Nat) (b : Binding) (s : State) : State :=
  let drop (s : State) : State := s.modCore core (fun k => { k with out := dropOut part idx k.out })
  let lid := s.lidOf o.wid
  let (st, s) := if b.run.isSome then (Start.go, s) else s.startRun core part q b
  match st with
  | .wait => s
  | .fault code =>
    State.judge core part lid o.p.stall (if o.p.fclaim.toNat = code.toNat then none else some .result) (drop s)
  | .go =>
    let s : State := { drop s with turn := .issue core part q }
    match s.ctx?, s.warp o.wid with
    | some c, some w => s.commitFound c w o
    | _, _ => s.settle core part q o.wid

/-- An earlier packet of the same warp is outstanding (01 R14 condition 1). -/
def State.notOldest (s : State) (core part idx : Nat) (o : Outstanding) : Bool :=
  let os := s.partOut core part
  (List.range os.length).any (fun k => match os[k]? with
    | some x => k != idx && x.wid == o.wid && decide ((o.p.seq - x.p.seq).toNat % 256 < 128) &&
        (o.p.seq != x.p.seq || decide (k < idx))
    | none => false)

/-- COMMIT: the oldest checked packet of a warp is verified against architectural state and its
instruction commits with the Heartwood's own result; a mismatch discards the partition's other
packets. `bad` names register entries whose ECC failed (01 R14 to R16, R24, R37). -/
def evCommit (core part idx : Nat) (bad : List Nat) (s : State) : State :=
  match (s.partOut core part)[idx]? with
  | none => s
  | some o =>
    if !o.checked || s.notOldest core part idx o || s.coreHalted core || s.blockOff (blkOf o.wid) then s
    else
      match s.seqOf core part o.wid with
      | none => s
      | some (q, b) => State.commitPacket core part idx o q b
          (s.modWarp o.wid (fun w => { w with bad := nubNat [] (w.bad ++ bad) }))

/-- The meaning of COMMIT. -/
def execCommit (core part idx : Nat) (bad : List Nat) (s : State) : Host.Outcome State Fault
    Refusal :=
  .next (evCommit core part idx bad s).finish

-- windows (01 R33; 13 R296, R297)

/-- STEPTH (13 R296). -/
def State.stepth (s : State) : Nat := s.regF 0x290010 16 5

/-- The supply trim after a window, in mV above the band's bottom (13 R297). -/
def trimAfter (level trim mis com th : Nat) : Nat :=
  if 4 ≤ level then 85
  else
    let t := min trim 60
    if mis * 2 ^ th > com then min 60 (t + 10)
    else if 16 * (mis * 2 ^ th) < max com 1 then t - 5
    else t

/-- The level after a window: a raise after two windows above the threshold, a lowering after 64 below a quarter
of it (01 R33). -/
def State.levelAfter (s : State) (core above below : Nat) : Nat :=
  let k := s.core core
  if 2 ≤ above then max k.level (min 5 (k.winStart + 1))
  else if 64 ≤ below then max (s.floorOf core) (k.level - 1)
  else k.level

/-- MISMATCH_WINDOW: at a window's end the rate moves the core's level and its supply trim. Both counts of
consecutive windows start again after a level change, so a third window above the threshold raises no more
than the second did (01 R33, R34; 13 R297; DESIGN CHOICE, log entry 118). -/
def evMismatchWindow (core : Nat) (s : State) : State :=
  let k := s.core core
  let th := s.stepth
  let above := if k.winMis * 2 ^ th > k.winCommits then k.above + 1 else 0
  let below := if 4 * (k.winMis * 2 ^ th) < max k.winCommits 1 then k.below + 1 else 0
  let lv := s.levelAfter core above below
  let tr := trimAfter k.level k.trim k.winMis k.winCommits th
  let s := s.setLevel core lv
  s.modCore core (fun k => { k with
    winMis := 0, winCommits := 0, winLevel5 := 0, winStart := lv, trim := tr,
    above := if 2 ≤ above then 0 else above, below := if 64 ≤ below then 0 else below })

/-- The meaning of MISMATCH_WINDOW. -/
def execMismatchWindow (core : Nat) (s : State) : Host.Outcome State Fault Refusal :=
  .next (evMismatchWindow core s).finish

end Sys2Proof.Machine
end

