-- ==== Sys2Proof/Machine/Boot.lean ====
section
/-!
DEFINITION. Starts, resets, power and cooling, and writes to the registers of BAR 2 (00 R6; 03 R61 to
R64; 07 R152, R157; 10 R230, R236, R244; 11 R254, R264, R265; 12 R270 to R287; 13 R291 to R298).
-/

set_option Elab.async false

namespace Sys2Proof.Machine

-- resets (12 R281; 13 R294)

/-- Device reset with package power on: memory, chip scratch, the fuse counter, time, the history of
interrupts and records, what AER reports (log entry 114), FAILS and REASON stay. -/
def State.deviceReset (s : State) : State :=
  let fails := s.regF 0x290000 8 4
  let reason := s.regF 0x290000 16 8
  let r : State := { State.reset with
    turn := s.turn, tick := s.tick, fresh := s.fresh, gtime := s.gtime, refilled := s.gtime / 1000, clkSince := s.gtime,
    irqs := s.irqs, mgmt := s.mgmt,
    mem := s.mem, poison := s.poison, chip := s.chip, fuse := s.fuse, aer := s.aer }
  ((r.setRegF 0x290000 8 4 fails).setRegF 0x290000 16 8 reason).setRegF 0x290000 3 1 (b2n (fails == 3))

/-- PACKAGE_POWER_OFF: package power is removed and comes back: only the fuse counter, and what
lies outside the device, stay (13 R294). -/
def evPackagePowerOff  (s : State) : State :=
  { State.reset with
    turn := s.turn, tick := s.tick, fresh := s.fresh, gtime := s.gtime, refilled := s.gtime / 1000, clkSince := s.gtime,
    irqs := s.irqs, mgmt := s.mgmt,
    mem := feraseIf (fun a => decide (a < Config.deviceTop)) s.mem,
    poison := feraseIf (fun h => decide (64 * h < Config.deviceTop)) s.poison, fuse := s.fuse }

/-- The meaning of PACKAGE_POWER_OFF. -/
def execPackagePowerOff  (s : State) : Host.Outcome State Fault Refusal :=
  .next (evPackagePowerOff s).finish

-- starts (13 R291 to R295)

/-- A failed start (13 R293 to R295): FAILS and a restart in full mode; a minimal start stops. -/
def State.startFails (reason : Nat) (s : State) : State :=
  let s := s.setRegF 0x290000 16 8 reason
  if s.regF 0x290000 3 1 = 1 then s.setRegF 0x290000 0 2 2
  else (s.setRegF 0x290000 8 4 (min 3 (s.regF 0x290000 8 4 + 1))).deviceReset

/-- An entry of the capability list (11 R265). -/
def capEntry (k : Nat) (last : Bool) (data : Nat) : DWord :=
  BitVec.ofNat 64 (data * 2 ^ 32 + (if last then 0 else 8 * (k + 1)) * 2 ^ 16 + 2 ^ 8 + k)

/-- The capability list after a start (11 R265, R266). -/
def capList (minimal : Bool) (trained floor : Nat) : List DWord :=
  [capEntry 0 false ((if minimal then 2 else 3) + Config.generation * 2 ^ 8 + Config.stepping * 2 ^ 12),
   capEntry 1 false (32 + 24 * 2 ^ 8 + 256 * 2 ^ 16), capEntry 2 false (64 + 32 * 2 ^ 8 + 16 * 2 ^ 16),
   capEntry 3 false 2, capEntry 4 false (1 + 0x31 * 2 ^ 8),
   capEntry 5 false (Config.ports + trained * 2 ^ 8), capEntry 6 false 1,
   capEntry 7 false (5 + floor * 2 ^ 8), capEntry 8 true 4096]

/-- The highest FLOOR among cores, in the capability list (11 R265). -/
def State.updFloor (s : State) : State :=
  s.setCap 7 40 3 (((List.range Config.cores).map s.floorOf).foldl max 0)

/-- How the host finds the list (11 R264): the DVSEC ID of the capability that names it, and the list's offset
in BAR 0, the 64-bit field at DVSEC offset 0x0C. -/
def dvsecId : Nat := 0x0011
def capListOffset : Nat := 0x00010000

/-- The 8-byte word at a BAR 0 offset, as far as the spec lays BAR 0 out: the capability list (11 R264, R265). -/
def State.bar0 (s : State) (off : Nat) : DWord :=
  if capListOffset ≤ off then s.caplist.getD ((off - capListOffset) / 8) 0 else 0

/-- Maps the logical cores of a die to physical ones: a failed one to the lowest good spare, or it is
disabled (01 R35; 13 R291 step 3). -/
def State.mapDie (bad : List Nat) (d : Nat) (s : State) : State :=
  let badSp := ((List.range Config.sparesPerDie).filter (fun k => bad.contains (68 * d + 64 + k))).foldl
    (fun m k => m + 2 ^ k) 0
  let s : State := { s with spares := fset 0 d badSp s.spares }
  (List.range Config.coresPerDie).foldl (fun s k =>
    let c := Config.coresPerDie * d + k
    if bad.contains (68 * d + k) then s.replaceCore c else s.setRegF (csOff c) 8 8 k) s

/-- Enables the dies of a start, in minimal mode with level 5 on every core (13 R291, R295). -/
def State.mapCores (r : StartReport) (dies : List Nat) (minimal : Bool) (s : State) : State :=
  let s := dies.foldl (fun s d => s.mapDie r.failedCores d) s
  let off := (List.range Config.dies).filter (fun d => !dies.contains d)
  let s := off.foldl (fun s d => (dieCores d).foldl (fun s c => s.disableCore c) s) s
  if minimal then
    (dies.flatMap dieCores).foldl (fun s c =>
      if (s.core c).disabled then s else s.setLevel c 5) s
  else s

/-- The dies that a start enables: all four, or in minimal mode the lowest that passes (13 R295). -/
def startDies (r : StartReport) (minimal : Bool) : List Nat :=
  let good := (List.range Config.dies).filter (fun d => r.dieOk.getD d false)
  if minimal then good.take 1 else good

/-- The firmware image that runs, by its version: the first of the flash's two that passes steps 1 and 2
(13 R291, R294). -/
def startImage (r : StartReport) (fuse : Nat) : Option Word :=
  if r.fwSigOk ∧ fuse ≤ r.fwArc then some r.fwVer
  else if r.fw2SigOk ∧ fuse ≤ r.fw2Arc then some r.fw2Ver
  else none

/-- The first step of a start that fails, as its reason; where neither image passes, that of the second, tried
last (13 R291, R293, R294; log entry 120). -/
def startReason (r : StartReport) (minimal : Bool) (fuse : Nat) : Nat :=
  if startImage r fuse = none then (if r.fw2SigOk then 2 else 1)
  else if !r.stacksOk then 3
  else if startDies r minimal = [] ∨ (!minimal ∧ (startDies r minimal).length < Config.dies) then 4
  else if !r.timeOk then 5
  else if !minimal && (!r.vendorOk || decide (r.vendorArc < fuse)) then 6
  else if !r.hostOk then 7
  else if !r.inTime then 8
  else 0

/-- A start that reaches PHASE = 1. -/
def State.startDone (r : StartReport) (minimal : Bool) (s : State) : State :=
  let ds := startDies r minimal
  let ports := if minimal then [] else (nubNat [] r.ports).filter (fun p => decide (p < Config.ports))
  let s := s.mapCores r ds minimal
  let s : State := { s with
    hostUp := true, caplist := capList minimal ports.length 0,
    graft := if minimal then GraftGen.clear else vendorGen,
    fuse := if minimal then s.fuse else r.vendorArc }
  let s := (List.range Config.ports).foldl (fun s p =>
    if ports.contains p then (s.setRegF (portOff p) 0 3 2).setRegF (portOff p) 4 4 8
    else s.setRegF (portOff p) 0 3 0) s
  let s := (s.updFloor.updGraftReg).setRegF 0x290000 4 4
    (ds.foldl (fun m d => m + 2 ^ d) 0)
  let s := if minimal then (s.setRegF 0x290000 3 1 1).setRegF 0x290000 8 4 3
    else s.setRegF 0x290000 8 4 0
  s.setRegF 0x290000 0 2 1

/-- DEVICE_START: the steps of a start with what its tests find; it ends ready, or fails (13 R291,
R294, R295). -/
def evDeviceStart (r : StartReport) (s : State) : State :=
  if s.phaseNo ≠ 0 then s
  else
    let minimal := s.regF 0x290000 8 4 == 3
    let s := s.setRegF 0x290000 3 1 (b2n minimal)
    let why := startReason r minimal s.fuse
    let s := match startImage r s.fuse with
      | some v => s.setReg 0x290004 v
      | none => s
    if why = 0 then s.startDone r minimal else s.startFails why

/-- The meaning of DEVICE_START. -/
def execDeviceStart (r : StartReport) (s : State) : Host.Outcome State Fault Refusal :=
  .next (evDeviceStart r s).finish

/-- WATCHDOG_EXPIRE: a start that takes too long fails (13 R291, R293). -/
def evWatchdogExpire  (s : State) : State :=
  if s.phaseNo ≠ 0 then s else s.startFails 8

/-- The meaning of WATCHDOG_EXPIRE. -/
def execWatchdogExpire  (s : State) : Host.Outcome State Fault Refusal :=
  .next (evWatchdogExpire s).finish

/-- SUPPLY_FAULT: a supply fault ends the start (13 R293). -/
def evSupplyFault  (s : State) : State :=
  if s.phaseNo ≠ 0 then s else s.startFails 10

/-- The meaning of SUPPLY_FAULT. -/
def execSupplyFault  (s : State) : Host.Outcome State Fault Refusal :=
  .next (evSupplyFault s).finish

/-- Every job is OFF. -/
def State.jobsOff (s : State) : Bool :=
  (s.bar2.filter (fun e => decide (0x40000 ≤ e.1) && decide (e.1 < 0x50000) && e.1 % 16 == 3)).all
    (fun e => bitsOf e.2.toNat 8 2 == 0)

/-- FAILS_CLEAR: FAILS is cleared and the device restarts in full mode; ignored while any job is
not OFF (13 R295). -/
def evFailsClear  (s : State) : State :=
  if s.jobsOff then (s.setRegF 0x290000 8 4 0).deviceReset else s

/-- The meaning of FAILS_CLEAR. -/
def execFailsClear  (s : State) : Host.Outcome State Fault Refusal :=
  .next (evFailsClear s).finish

/-- HOST_LINK_RETURN: within 20,000 ns the link is active again; after that, or on a stopped
device, it resets and starts (12 R281; 13 R297). -/
def evHostLinkReturn  (s : State) : State :=
  if s.hostUp || s.phaseNo == 0 then s
  else if s.hostLost || s.phaseNo == 2 || decide (s.hostDownAt + 20000 ≤ s.gtime) then s.deviceReset
  else { s with hostUp := true }

/-- The meaning of HOST_LINK_RETURN. -/
def execHostLinkReturn  (s : State) : Host.Outcome State Fault Refusal :=
  .next (evHostLinkReturn s).finish

-- power and cooling (13 R296, R297)

/-- TEMP and THROT. -/
def State.setTemp (temp : Nat) (s : State) : State :=
  s.setRegF 0x290014 24 8 (min temp 255)

/-- THROT, and the clock's rate: full, or one of the lower 16ths, which the spec leaves free (13 R296; log
entry 42). -/
def State.setThrot (held : Bool) (s : State) : State :=
  let (n, s) := s.free
  let s := s.setRegF 0x290014 16 1 (b2n held)
  { s with clkSince := s.gtime, clkCount := s.cycles160, clkRate := if held then 1 + n % 15 else 16 }

/-- POWER_WINDOW: a 1 ms window's power and temperature; the clock is held down while either limit
is passed (13 R296, R297). -/
def evPowerWindow (power temp : Nat) (s : State) : State :=
  let s := (s.setTemp temp).setRegF 0x290014 0 16 (min power 65535)
  s.setThrot (decide (s.regF 0x290010 0 16 < power) || decide (100 ≤ temp))

/-- The meaning of POWER_WINDOW. -/
def execPowerWindow (power temp : Nat) (s : State) : Host.Outcome State Fault Refusal :=
  .next (evPowerWindow power temp s).finish

/-- THERMAL_THROTTLE: at 100 degrees the thermal limit holds the clock down (13 R297). -/
def evThermalThrottle (temp : Nat) (s : State) : State :=
  if temp < 100 then s else (s.setTemp temp).setThrot true

/-- The meaning of THERMAL_THROTTLE. -/
def execThermalThrottle (temp : Nat) (s : State) : Host.Outcome State Fault Refusal :=
  .next (evThermalThrottle temp s).finish

/-- THERMAL_TRIP: at 110 degrees every core stops, with PHASE 2 and REASON 9 (13 R297). -/
def evThermalTrip  (s : State) : State :=
  ((s.setTemp (max 110 (s.regF 0x290014 24 8))).setRegF 0x290000 16 8 9).setRegF 0x290000 0 2 2

/-- The meaning of THERMAL_TRIP. -/
def execThermalTrip  (s : State) : Host.Outcome State Fault Refusal :=
  .next (evThermalTrip s).finish

-- register writes (00 R6)

/-- FLOOR_WRITE: FLOOR is stored, at most 5, and raises a lower LEVEL (01 R33, R34; 11 R265; 13
R298). -/
def evFloorWrite (core level : Nat) (s : State) : State :=
  if Config.cores ≤ core then s
  else
    let f := min level 5
    let s := (s.setRegF (csOff core) 4 3 f).updFloor
    if (s.core core).level < f then s.setLevel core f else s

/-- The meaning of FLOOR_WRITE. -/
def execFloorWrite (core level : Nat) (s : State) : Host.Outcome State Fault Refusal :=
  .next (evFloorWrite core level s).finish

/-- Values between limits. -/
def clampNat (lo hi n : Nat) : Nat := max lo (min hi n)

/-- A 32-bit mask of bits [hi:lo]. -/
def maskBits (hi lo : Nat) : Nat := 2 ^ (hi + 1) - 2 ^ lo

/-- RW bits of the word at an offset of a queue block (03 R61). -/
def State.rwQueue (s : State) (q o : Nat) : Nat :=
  let idle := !s.qEn q
  if o = 0 ∨ o = 4 then (if idle then maskBits 31 0 else 0)
  else if o = 8 then (if idle then maskBits 19 0 else 0) + maskBits 22 20 + maskBits 31 24
  else 0

/-- RW bits of the word at an offset of an object (12 R277). -/
def State.rwObject (s : State) (n o : Nat) : Nat :=
  if s.oV n || s.inval.any (fun x => x.1 == n) then 0
  else if o = 8 then maskBits 1 1
  else if o < 0x28 then maskBits 31 0
  else 0

/-- RW bits of a word that has no behaviour of its own; what is written to a reserved field is ignored (00 R6).
An SPQUOTA above 2^20 and a CORES above 256 are stored as written: the spec gives the range and not what
such a write does (03 R63; DESIGN CHOICE, log entry 116). -/
def State.rwBits (s : State) (off : Nat) : Nat :=
  if off < 0x100000 then s.rwQueue (off / 0x40) (off % 0x40)
  else if off < 0x140000 then
    match off % 0x40 with
    | 0x00 | 0x04 | 0x08 | 0x10 => maskBits 31 0
    | 0x0C => maskBits 7 0 + maskBits 31 16
    | _ => 0
  else if off < 0x150000 then
    match off % 0x10 with
    | 0 | 4 => maskBits 15 0
    | _ => 0
  else if off < 0x170000 then
    match off % 0x20 with
    | 0x00 | 0x04 | 0x10 => maskBits 31 0
    | 0x08 => maskBits 15 0
    | _ => 0
  else if off < 0x170010 then maskBits 31 0
  else if off = 0x170010 then maskBits 31 16
  else if 0x180000 ≤ off ∧ off < 0x200000 then
    (if off % 8 = 0 then maskBits 31 16 + maskBits 0 0 else maskBits 19 0)
  else if off = 0x200000 ∨ off = 0x200004 ∨ off = 0x200008 then maskBits 31 0
  else if 0x201000 ≤ off ∧ off < 0x209000 then
    (if off % 8 = 0 then maskBits 31 3 else maskBits 22 0)
  else if 0x210000 ≤ off ∧ off < 0x218000 then (if off % 8 = 0 then maskBits 21 0 else 0)
  else if off = 0x220000 ∨ off = 0x220004 ∨ off = 0x220010 then maskBits 31 0
  else if off = 0x220014 then maskBits 1 0
  else if off = 0x230000 ∨ off = 0x230004 then
    (if (List.range Config.ports).any (fun p => s.portState p != 0) then 0
     else if off = 0x230000 then maskBits 20 0 else maskBits 15 0)
  else if 0x240000 ≤ off ∧ off < 0x280000 then s.rwObject ((off - 0x240000) / 0x40) (off % 0x40)
  else if off = 0x280008 then maskBits 1 0 + maskBits 31 24
  else if off = 0x290010 then maskBits 20 0
  else if 0x2A0000 ≤ off ∧ off < 0x2B0000 then
    (if off % 0x10 < 0xC ∧ s.reg (off / 0x10 * 0x10 + 0xC) = 0 then maskBits 31 0 else 0)
  else 0

/-- Stored values that stay within limits: RLOG, PCAP, FRLOG, STEPTH, PLIMIT. -/
def storedAs (off x : Nat) : Nat :=
  let put (lo w v : Nat) : Nat := putBits x lo w v
  if off < 0x100000 ∧ off % 0x40 = 8 then put 0 8 (clampNat 4 16 (bitsOf x 0 8))
  else if 0x100000 ≤ off ∧ off < 0x140000 ∧ off % 0x40 = 0xC then put 0 8 (min 7 (bitsOf x 0 8))
  else if 0x150000 ≤ off ∧ off < 0x170000 ∧ off % 0x20 = 8 then
    let f := bitsOf x 0 8
    put 0 8 (if f = 0 then 0 else clampNat 4 16 f)
  else if off = 0x290010 then
    putBits (put 0 16 (clampNat 1200 2400 (bitsOf x 0 16))) 16 5 (clampNat 6 20 (bitsOf x 16 5))
  else x

/-- Bits that writing 1 clears (00 R6): WFAULT of a fault ring and LOST of an aperture. -/
def State.w1c (off : Nat) (val : Word) (s : State) : State :=
  if 0x150000 ≤ off ∧ off < 0x170000 ∧ off % 0x20 = 8 then
    if val.getLsbD 16 then s.setRegF off 16 1 0 else s
  else if 0x210000 ≤ off ∧ off < 0x218000 ∧ off % 8 = 0 then
    if val.getLsbD 31 then
      State.setRegF off 31 1 0
        { s with peersGone := s.peersGone.filter (· != s.regF off 0 21) }
    else s
  else s

/-- REGISTER_WRITE: a 32-bit write at a BAR 2 offset stores the writable fields that have no
behaviour of their own, and clears write-one-to-clear bits (00 R6). -/
def evRegisterWrite (off : Nat) (val : Word) (s : State) : State :=
  if off % 4 ≠ 0 then s
  else
    let m := s.rwBits off
    let old := (s.reg off).toNat
    let x := (List.range 32).foldl (fun x k => if bitOf m k then putBits x k 1 (bitsOf val.toNat k 1) else x) old
    let s := s.setReg off (BitVec.ofNat 32 (storedAs off x))
    (s.w1c off val).updCur

/-- The meaning of REGISTER_WRITE. -/
def execRegisterWrite (off : Nat) (val : Word) (s : State) : Host.Outcome State Fault Refusal :=
  .next (evRegisterWrite off val s).finish

end Sys2Proof.Machine
end

