-- ==== Sys2Proof/Machine/Dispatch.lean ====
section
/-!
DEFINITION. One arm per constructor of Instr: each a call of the meaning of its instruction.
-/

namespace Sys2Proof.Machine

/-- The meaning of an instruction, or of a step of a device agent. -/
def exec (i : Instr) (s : State) : Host.Outcome State Fault Refusal :=
  match i with
  | .retirePacket core part p => Sys2Proof.Machine.execRetirePacket core part p s
  | .check core part idx errs => Sys2Proof.Machine.execCheck core part idx errs s
  | .commit core part idx bad => Sys2Proof.Machine.execCommit core part idx bad s
  | .checkerLineFill core line => Sys2Proof.Machine.execCheckerLineFill core line s
  | .mismatchWindow core => Sys2Proof.Machine.execMismatchWindow core s
  | .pickWarp core part seq starved => Sys2Proof.Machine.execPickWarp core part seq starved s
  | .reggrowGrant core part => Sys2Proof.Machine.execReggrowGrant core part s
  | .reggrowFail core part => Sys2Proof.Machine.execReggrowFail core part s
  | .queueDoorbell q tail => Sys2Proof.Machine.execQueueDoorbell q tail s
  | .errClear q bits => Sys2Proof.Machine.execErrClear q bits s
  | .nopPacket q n => Sys2Proof.Machine.execNopPacket q n s
  | .launchPacket q n => Sys2Proof.Machine.execLaunchPacket q n s
  | .graphPacket q n => Sys2Proof.Machine.execGraphPacket q n s
  | .graphCheck g => Sys2Proof.Machine.execGraphCheck g s
  | .phasePacket q n => Sys2Proof.Machine.execPhasePacket q n s
  | .phaseClosePacket q n => Sys2Proof.Machine.execPhaseClosePacket q n s
  | .waitPacket q n => Sys2Proof.Machine.execWaitPacket q n s
  | .waitPacketSample q n => Sys2Proof.Machine.execWaitPacketSample q n s
  | .signalStorePacket q n => Sys2Proof.Machine.execSignalStorePacket q n s
  | .signalAddPacket q n => Sys2Proof.Machine.execSignalAddPacket q n s
  | .cancelLaunchPacket q n => Sys2Proof.Machine.execCancelLaunchPacket q n s
  | .cancelGraphPacket q n => Sys2Proof.Machine.execCancelGraphPacket q n s
  | .cancelPhasePacket q n => Sys2Proof.Machine.execCancelPhasePacket q n s
  | .cancelJobPacket q n => Sys2Proof.Machine.execCancelJobPacket q n s
  | .jobOpen j => Sys2Proof.Machine.execJobOpen j s
  | .jobReopen j => Sys2Proof.Machine.execJobReopen j s
  | .refill => Sys2Proof.Machine.execRefill s
  | .pickLaunch => Sys2Proof.Machine.execPickLaunch s
  | .preemptRequest l => Sys2Proof.Machine.execPreemptRequest l s
  | .preemptAbandon req => Sys2Proof.Machine.execPreemptAbandon req s
  | .preemptSave blk => Sys2Proof.Machine.execPreemptSave blk s
  | .coreVacate core => Sys2Proof.Machine.execCoreVacate core s
  | .blockResume l cluster => Sys2Proof.Machine.execBlockResume l cluster s
  | .launchComplete l => Sys2Proof.Machine.execLaunchComplete l s
  | .queueHandOn core => Sys2Proof.Machine.execQueueHandOn core s
  | .spillRefill core job => Sys2Proof.Machine.execSpillRefill core job s
  | .handlerEntry wid => Sys2Proof.Machine.execHandlerEntry wid s
  | .hostFaultRecord core => Sys2Proof.Machine.execHostFaultRecord core s
  | .resumeRetry j seq => Sys2Proof.Machine.execResumeRetry j seq s
  | .resumeEnd j seq => Sys2Proof.Machine.execResumeEnd j seq s
  | .wcallDrain core => Sys2Proof.Machine.execWcallDrain core s
  | .matrixStart core idx => Sys2Proof.Machine.execMatrixStart core idx s
  | .matrixCheck core idx dev recheckOk => Sys2Proof.Machine.execMatrixCheck core idx dev recheckOk s
  | .engineTake die engine => Sys2Proof.Machine.execEngineTake die engine s
  | .copyComplete die engine => Sys2Proof.Machine.execCopyComplete die engine s
  | .sliceReadRequest core line => Sys2Proof.Machine.execSliceReadRequest core line s
  | .sliceWrite core id => Sys2Proof.Machine.execSliceWrite core id s
  | .writeAck core id => Sys2Proof.Machine.execWriteAck core id s
  | .sliceEvict line => Sys2Proof.Machine.execSliceEvict line s
  | .ownershipRecall line => Sys2Proof.Machine.execOwnershipRecall line s
  | .predictorDecay core => Sys2Proof.Machine.execPredictorDecay core s
  | .pageWalk core asid va => Sys2Proof.Machine.execPageWalk core asid va s
  | .racqRemote core => Sys2Proof.Machine.execRacqRemote core s
  | .waitaSample wid => Sys2Proof.Machine.execWaitaSample wid s
  | .lnxRequestServe wid lane errs => Sys2Proof.Machine.execLnxRequestServe wid lane errs s
  | .groveEntryFetch wid lane => Sys2Proof.Machine.execGroveEntryFetch wid lane s
  | .shootdown => Sys2Proof.Machine.execShootdown s
  | .graftLoad copyOk sigOk => Sys2Proof.Machine.execGraftLoad copyOk sigOk s
  | .graftActivate => Sys2Proof.Machine.execGraftActivate s
  | .graftRetire => Sys2Proof.Machine.execGraftRetire s
  | .enterSegment wid => Sys2Proof.Machine.execEnterSegment wid s
  | .segmentTranslate l seg => Sys2Proof.Machine.execSegmentTranslate l seg s
  | .biasFlipToHost => Sys2Proof.Machine.execBiasFlipToHost s
  | .biasFlipToDevice => Sys2Proof.Machine.execBiasFlipToDevice s
  | .hostMemRead pa keep => Sys2Proof.Machine.execHostMemRead pa keep s
  | .hostMemWrite pa bytes poison => Sys2Proof.Machine.execHostMemWrite pa bytes poison s
  | .bisnpResponse line data => Sys2Proof.Machine.execBisnpResponse line data s
  | .hostLinkLoss => Sys2Proof.Machine.execHostLinkLoss s
  | .hostLinkReturn => Sys2Proof.Machine.execHostLinkReturn s
  | .laneFailure port lane => Sys2Proof.Machine.execLaneFailure port lane s
  | .retrainComplete port => Sys2Proof.Machine.execRetrainComplete port s
  | .portDead port lostDevs => Sys2Proof.Machine.execPortDead port lostDevs s
  | .peerLost dev => Sys2Proof.Machine.execPeerLost dev s
  | .peerRemovalReport dev => Sys2Proof.Machine.execPeerRemovalReport dev s
  | .replicaRead dev line => Sys2Proof.Machine.execReplicaRead dev line s
  | .invalidationAck obj dev line expiry => Sys2Proof.Machine.execInvalidationAck obj dev line expiry s
  | .objectDeclare o => Sys2Proof.Machine.execObjectDeclare o s
  | .objectValidate o => Sys2Proof.Machine.execObjectValidate o s
  | .objectRemove o => Sys2Proof.Machine.execObjectRemove o s
  | .patrolScrub pa correctable => Sys2Proof.Machine.execPatrolScrub pa correctable s
  | .undoStart => Sys2Proof.Machine.execUndoStart s
  | .undoRestore => Sys2Proof.Machine.execUndoRestore s
  | .deviceStart r => Sys2Proof.Machine.execDeviceStart r s
  | .watchdogExpire => Sys2Proof.Machine.execWatchdogExpire s
  | .thermalTrip => Sys2Proof.Machine.execThermalTrip s
  | .supplyFault => Sys2Proof.Machine.execSupplyFault s
  | .powerWindow power temp => Sys2Proof.Machine.execPowerWindow power temp s
  | .failsClear => Sys2Proof.Machine.execFailsClear s
  | .floorWrite core level => Sys2Proof.Machine.execFloorWrite core level s
  | .registerWrite off val => Sys2Proof.Machine.execRegisterWrite off val s
  | .and w d a b => Sys2Proof.Machine.execAnd w d a b s
  | .or w d a b => Sys2Proof.Machine.execOr w d a b s
  | .xor w d a b => Sys2Proof.Machine.execXor w d a b s
  | .atom op ty ord sc m d b c => Sys2Proof.Machine.execAtom op ty ord sc m d b c s
  | .red op ty ord sc m b => Sys2Proof.Machine.execRed op ty ord sc m b s
  | .bar inst count => Sys2Proof.Machine.execBar inst count s
  | .cbar inst count => Sys2Proof.Machine.execCbar inst count s
  | .bfx w sext d a f => Sys2Proof.Machine.execBfx w sext d a f s
  | .bfi w d a b f => Sys2Proof.Machine.execBfi w d a b f s
  | .bkpt => Sys2Proof.Machine.execBkpt s
  | .bra c imm => Sys2Proof.Machine.execBra c imm s
  | .brev w d a => Sys2Proof.Machine.execBrev w d a s
  | .clz w d a => Sys2Proof.Machine.execClz w d a s
  | .popc w d a => Sys2Proof.Machine.execPopc w d a s
  | .brx rel a => Sys2Proof.Machine.execBrx rel a s
  | .call d a ind imm => Sys2Proof.Machine.execCall d a ind imm s
  | .cancel level => Sys2Proof.Machine.execCancel level s
  | .cbrsv d n => Sys2Proof.Machine.execCbrsv d n s
  | .cbcmt n => Sys2Proof.Machine.execCbcmt n s
  | .cbacq d n => Sys2Proof.Machine.execCbacq d n s
  | .cbrel n => Sys2Proof.Machine.execCbrel n s
  | .ckpt => Sys2Proof.Machine.execCkpt s
  | .cpy d a len c => Sys2Proof.Machine.execCpy d a len c s
  | .cpyw n b => Sys2Proof.Machine.execCpyw n b s
  | .cvt sat rnd dt st d b => Sys2Proof.Machine.execCvt sat rnd dt st d b s
  | .dadd rnd d a b => Sys2Proof.Machine.execDadd rnd d a b s
  | .dmul rnd d a b => Sys2Proof.Machine.execDmul rnd d a b s
  | .dfma rnd d a b c => Sys2Proof.Machine.execDfma rnd d a b c s
  | .dcmp c n a b => Sys2Proof.Machine.execDcmp c n a b s
  | .exit => Sys2Proof.Machine.execExit s
  | .fadd rnd d a b => Sys2Proof.Machine.execFadd rnd d a b s
  | .fsub rnd d a b => Sys2Proof.Machine.execFsub rnd d a b s
  | .fmul rnd d a b => Sys2Proof.Machine.execFmul rnd d a b s
  | .fcmp c n a b => Sys2Proof.Machine.execFcmp c n a b s
  | .fence ord sc => Sys2Proof.Machine.execFence ord sc s
  | .ffma rnd d a b c => Sys2Proof.Machine.execFfma rnd d a b c s
  | .fmax d a b => Sys2Proof.Machine.execFmax d a b s
  | .fmin d a b => Sys2Proof.Machine.execFmin d a b s
  | .frnd rnd d b => Sys2Proof.Machine.execFrnd rnd d b s
  | .fshf right clamp d a b sh => Sys2Proof.Machine.execFshf right clamp d a b sh s
  | .gang b => Sys2Proof.Machine.execGang b s
  | .gret target => Sys2Proof.Machine.execGret target s
  | .hret target => Sys2Proof.Machine.execHret target s
  | .iabs sat ty d b => Sys2Proof.Machine.execIabs sat ty d b s
  | .iadd sat ty d a b => Sys2Proof.Machine.execIadd sat ty d a b s
  | .isub sat ty d a b => Sys2Proof.Machine.execIsub sat ty d a b s
  | .imul sat ty d a b => Sys2Proof.Machine.execImul sat ty d a b s
  | .imulhi ty d a b => Sys2Proof.Machine.execImulhi ty d a b s
  | .imin ty d a b => Sys2Proof.Machine.execImin ty d a b s
  | .imax ty d a b => Sys2Proof.Machine.execImax ty d a b s
  | .icmp c w64 uns n a b => Sys2Proof.Machine.execIcmp c w64 uns n a b s
  | .idp4 sat za zb d a b c => Sys2Proof.Machine.execIdp4 sat za zb d a b c s
  | .imad sat ty d a b c => Sys2Proof.Machine.execImad sat ty d a b c s
  | .jarm n m => Sys2Proof.Machine.execJarm n m s
  | .jdrop n => Sys2Proof.Machine.execJdrop n s
  | .jwait n => Sys2Proof.Machine.execJwait n s
  | .launch tail d a => Sys2Proof.Machine.execLaunch tail d a s
  | .ld strong acq ty sc m d imm => Sys2Proof.Machine.execLd strong acq ty sc m d imm s
  | .lea zx shift d a b => Sys2Proof.Machine.execLea zx shift d a b s
  | .lnx ord d a b c base scale index imm => Sys2Proof.Machine.execLnx ord d a b c base scale index imm s
  | .logic3 w d a b c lut => Sys2Proof.Machine.execLogic3 w d a b c lut s
  | .matchLanes w all d a => Sys2Proof.Machine.execMatchLanes w all d a s
  | .mfn fn d b => Sys2Proof.Machine.execMfn fn d b s
  | .mma tile a b f => Sys2Proof.Machine.execMma tile a b f s
  | .mmat tile a b f => Sys2Proof.Machine.execMmat tile a b f s
  | .mov w d b => Sys2Proof.Machine.execMov w d b s
  | .movi w keep d hw imm => Sys2Proof.Machine.execMovi w keep d hw imm s
  | .nop => Sys2Proof.Machine.execNop s
  | .part code => Sys2Proof.Machine.execPart code s
  | .pkadd bf rnd d a b => Sys2Proof.Machine.execPkadd bf rnd d a b s
  | .pkmul bf rnd d a b => Sys2Proof.Machine.execPkmul bf rnd d a b s
  | .pkmin bf d a b => Sys2Proof.Machine.execPkmin bf d a b s
  | .pkmax bf d a b => Sys2Proof.Machine.execPkmax bf d a b s
  | .pkfma bf rnd d a b c => Sys2Proof.Machine.execPkfma bf rnd d a b c s
  | .pref a base scale home low imm => Sys2Proof.Machine.execPref a base scale home low imm s
  | .hint uset op hd d payload more => Sys2Proof.Machine.execHint uset op hd d payload more s
  | .psel d a b sel => Sys2Proof.Machine.execPsel d a b sel s
  | .racq b => Sys2Proof.Machine.execRacq b s
  | .rdctl d r => Sys2Proof.Machine.execRdctl d r s
  | .wrctl r a => Sys2Proof.Machine.execWrctl r a s
  | .rds d sp => Sys2Proof.Machine.execRds d sp s
  | .redx op ty sat d a => Sys2Proof.Machine.execRedx op ty sat d a s
  | .scan op ty sat exc d a => Sys2Proof.Machine.execScan op ty sat exc d a s
  | .reggrow n v => Sys2Proof.Machine.execReggrow n v s
  | .regshr v => Sys2Proof.Machine.execRegshr v s
  | .ret a => Sys2Proof.Machine.execRet a s
  | .sarm n a => Sys2Proof.Machine.execSarm n a s
  | .sdis n => Sys2Proof.Machine.execSdis n s
  | .sel n d a b => Sys2Proof.Machine.execSel n d a b s
  | .shfl mode w d a k f => Sys2Proof.Machine.execShfl mode w d a k f s
  | .shl w d a b => Sys2Proof.Machine.execShl w d a b s
  | .shr w d a b => Sys2Proof.Machine.execShr w d a b s
  | .sar w d a b => Sys2Proof.Machine.execSar w d a b s
  | .sld d n f => Sys2Proof.Machine.execSld d n f s
  | .st strong rel ty sc m d imm => Sys2Proof.Machine.execSt strong rel ty sc m d imm s
  | .succ kind flag low seg0 seg1 => Sys2Proof.Machine.execSucc kind flag low seg0 seg1 s
  | .sxpk fmt d a => Sys2Proof.Machine.execSxpk fmt d a s
  | .sxupk fmt d a => Sys2Proof.Machine.execSxupk fmt d a s
  | .tld tile a => Sys2Proof.Machine.execTld tile a s
  | .tst tile a => Sys2Proof.Machine.execTst tile a s
  | .tzero tile => Sys2Proof.Machine.execTzero tile s
  | .twait tile => Sys2Proof.Machine.execTwait tile s
  | .tstat clr d tile => Sys2Proof.Machine.execTstat clr d tile s
  | .uadd sat ty d a b => Sys2Proof.Machine.execUadd sat ty d a b s
  | .usub sat ty d a b => Sys2Proof.Machine.execUsub sat ty d a b s
  | .umul sat ty d a b => Sys2Proof.Machine.execUmul sat ty d a b s
  | .umad sat ty d a b c => Sys2Proof.Machine.execUmad sat ty d a b c s
  | .uand w d a b => Sys2Proof.Machine.execUand w d a b s
  | .uor w d a b => Sys2Proof.Machine.execUor w d a b s
  | .uxor w d a b => Sys2Proof.Machine.execUxor w d a b s
  | .ushl w d a b => Sys2Proof.Machine.execUshl w d a b s
  | .ushr w d a b => Sys2Proof.Machine.execUshr w d a b s
  | .usar w d a b => Sys2Proof.Machine.execUsar w d a b s
  | .umov w d b => Sys2Proof.Machine.execUmov w d b s
  | .umovi w keep d hw imm => Sys2Proof.Machine.execUmovi w keep d hw imm s
  | .ucmp c w64 uns n a b => Sys2Proof.Machine.execUcmp c w64 uns n a b s
  | .usel n d a b => Sys2Proof.Machine.execUsel n d a b s
  | .ulea zx shift d a b => Sys2Proof.Machine.execUlea zx shift d a b s
  | .ubra c imm => Sys2Proof.Machine.execUbra c imm s
  | .vote mode neg d fd a => Sys2Proof.Machine.execVote mode neg d fd a s
  | .waita c w acq sc m d b imm => Sys2Proof.Machine.execWaita c w acq sc m d b imm s
  | .wcall base q svc => Sys2Proof.Machine.execWcall base q svc s
  | .wsync b => Sys2Proof.Machine.execWsync b s
  | .yield => Sys2Proof.Machine.execYield s
  | .wideForm op => Sys2Proof.Machine.execWideForm op s
  | .releaseWaitEnd wid => Sys2Proof.Machine.execReleaseWaitEnd wid s
  | .tileTransferComplete core idx => Sys2Proof.Machine.execTileTransferComplete core idx s
  | .biasFlipPageDone => Sys2Proof.Machine.execBiasFlipPageDone s
  | .hostSnoop line excl => Sys2Proof.Machine.execHostSnoop line excl s
  | .hostWindowResponse core id => Sys2Proof.Machine.execHostWindowResponse core id s
  | .replicaInvalidation line => Sys2Proof.Machine.execReplicaInvalidation line s
  | .hostLinkDown => Sys2Proof.Machine.execHostLinkDown s
  | .thermalThrottle temp => Sys2Proof.Machine.execThermalThrottle temp s
  | .packagePowerOff => Sys2Proof.Machine.execPackagePowerOff s

end Sys2Proof.Machine
end

