-- ==== Sys2Proof/Machine/FirstRun.lean ====
section
/-!
DEFINITION. A program placed from outside the machine: one run of one instruction, mapped, resident
and bound to a sequencer, so that the next step issues it (log entry 3).
-/

set_option Elab.async false

namespace Sys2Proof.Machine

/-- The steps of device agents, as against warp instructions. -/
def isEvent : Instr → Bool
  | .retirePacket .. | .check .. | .commit .. | .checkerLineFill .. | .mismatchWindow ..
  | .pickWarp .. | .reggrowGrant .. | .reggrowFail .. | .queueDoorbell .. | .errClear ..
  | .nopPacket .. | .launchPacket .. | .graphPacket .. | .graphCheck .. | .phasePacket ..
  | .phaseClosePacket .. | .waitPacket .. | .waitPacketSample .. | .signalStorePacket ..
  | .signalAddPacket .. | .cancelLaunchPacket .. | .cancelGraphPacket ..
  | .cancelPhasePacket .. | .cancelJobPacket .. | .jobOpen .. | .jobReopen .. | .refill
  | .pickLaunch | .preemptRequest .. | .preemptAbandon .. | .preemptSave .. | .coreVacate ..
  | .blockResume .. | .launchComplete .. | .queueHandOn .. | .spillRefill .. | .handlerEntry ..
  | .hostFaultRecord .. | .resumeRetry .. | .resumeEnd .. | .wcallDrain .. | .matrixStart ..
  | .matrixCheck .. | .engineTake .. | .copyComplete .. | .sliceReadRequest .. | .sliceWrite ..
  | .writeAck .. | .sliceEvict .. | .ownershipRecall .. | .predictorDecay .. | .pageWalk ..
  | .racqRemote .. | .waitaSample .. | .lnxRequestServe .. | .groveEntryFetch .. | .shootdown
  | .graftLoad .. | .graftActivate | .graftRetire | .enterSegment .. | .segmentTranslate ..
  | .biasFlipToHost | .biasFlipToDevice | .hostMemRead .. | .hostMemWrite ..
  | .bisnpResponse .. | .hostLinkLoss | .hostLinkReturn | .laneFailure .. | .retrainComplete ..
  | .portDead .. | .peerLost .. | .peerRemovalReport .. | .replicaRead .. | .invalidationAck ..
  | .objectDeclare .. | .objectValidate .. | .objectRemove .. | .patrolScrub .. | .undoStart
  | .undoRestore | .deviceStart .. | .watchdogExpire | .thermalTrip | .supplyFault
  | .powerWindow .. | .failsClear | .floorWrite .. | .registerWrite .. | .releaseWaitEnd ..
  | .tileTransferComplete .. | .biasFlipPageDone | .hostSnoop .. | .hostWindowResponse ..
  | .replicaInvalidation .. | .hostLinkDown | .thermalThrottle .. | .packagePowerOff => true
  | _ => false

/-- Address of the placed run, virtual and physical. -/
def placedVa : Nat := 0x40000

/-- The run of one instruction: its words and an empty trailer (14 R307, R308). -/
def placedRun (nbits w : Nat) : List Word :=
  let ws := tableWords nbits w
  let n := lengthOf (ws.getD 0 0)
  ws.take n ++ [BitVec.ofNat 32 (0xFC000000 + n * 2 ^ 9), 0, 0, 0]

/-- Bytes of words, each least significant byte first (00 R5). -/
def wordsBytes (ws : List Word) : List Byte := ws.flatMap (fun w => natLe 4 w.toNat)

/-- The launch of the placed run: generation 3, stepping 1, with scratch, tiles, buffers, barriers
and four roles' worth of room left to it. -/
def placedLaunch : Launch :=
  { Launch.new 0 0 0 none 0 0 with
    hdr := BitVec.ofNat 1024 (3 + 1 * 2 ^ 32 + 32 * 2 ^ 48 + 1 * 2 ^ 56 +
      placedVa * 2 ^ 64 + 1 * 2 ^ 128 + 1 * 2 ^ 160 + 1 * 2 ^ 192 + 0x10010101 * 2 ^ 224 +
      0x1000 * 2 ^ 256 + 0x1000 * 2 ^ 288 + 0x1000 * 2 ^ 320 +
      (112 * 2 ^ 32 + 112 * 2 ^ 40 + 1 * 2 ^ 48) * 2 ^ 768),
    hdrRead := true, khw := BitVec.ofNat 32 0x31000000,
    cbdesc := [BitVec.ofNat 128 (2 * 2 ^ 32 + 128 * 2 ^ 64)],
    stage := .running, checked := true, nextCluster := 1, blocksLeft := 1 }

/-- The warp of the placed run, with lanes 0 to 3 live. -/
def placedWarp : Warp :=
  let w := placedLaunch.newWarp 0 0 0 0
  { w with lanes := (List.range 32).map (fun k =>
      Lane.fresh (if k < 4 then .live else .never) (BitVec.ofNat 64 placedVa)) }

/-- The block of the placed run, on core 0. -/
def placedBlock : Block :=
  { launch := 0, cluster := 0, rank := 0, core := 0, slot := 0, done := false, p0 := 0, kbase := 0,
    qbase := 0x1000, bars := List.replicate 16 Barrier.idle,
    cbufs := placedLaunch.cbdesc.map CBuf.ofDesc, streams := List.replicate 8 none,
    tiles := List.replicate 32 Tile.init, nwarps := 1, stopping := false, savedOn := none,
    held := false, saveOrder := 0, imageAt := 0, resumeWait := false }

/-- Maps the low 512 MiB of job 0's address space onto itself, places the run and its warp, and
binds the warp to sequencer 0 of partition 0 of core 0. -/
def State.placeRun (nbits w : Nat) (s : State) : State :=
  let mem := wrMem 0x10000 (natLe 8 0x20003) s.mem
  let mem := wrMem 0x20000 (natLe 8 0x1D) mem
  let mem := wrMem placedVa (wordsBytes (placedRun nbits w)) mem
  let b : Binding := { wid := 0, mask := 0xF, start := BitVec.ofNat 64 placedVa, inGraft := false,
                       gen := s.graft.gen, run := none, tag := none }
  let s : State := { s with
    mem := mem, turn := .issue 0 0 0, dieTlb := [], walkCache := [], blocks := tset 0 placedBlock s.blocks,
    warps := tset 0 placedWarp s.warps, launches := tset 0 placedLaunch s.launches }
  let s := (s.setReg (rootOff (s.jAsid 0)) 0x10001).setReg (rootOff (s.jAsid 0) + 4) 0
  s.modCore 0 (fun k => { k with seqs := (k.seqs.set 0 (some b)), tlb := [], cc := [] })

end Sys2Proof.Machine
end

