-- ==== Sys2Proof/Machine/Outside.lean ====
section
/-!
DEFINITION. What comes from outside the cores with no instruction that names it (01 R31; 06 R122, R133, R141;
12 R273, R276).
-/

set_option Elab.async false

namespace Sys2Proof.Machine

/-- The management core clears a core's %mismatch (01 R31). -/
def evClearMismatch (core : Nat) (s : State) : State :=
  s.modCore core (fun k => { k with mmValue := 0, mmResult := 0, mmOperand := 0, mmSoft := 0 })

/-- The effect of what comes from outside. -/
def State.fromOutside (e : Outside) (s : State) : State :=
  match e with
  | .clearMismatch core => evClearMismatch core s
  | .tileEcc blk tile => evTileEcc blk tile s
  | .tileFetchUnit core idx addr opB => evTileFetchUnit core idx addr opB s
  | .tileStoreUnit core idx => evTileStoreUnit core idx s
  | .portTrain port => evPortTrain port s
  | .portFlits port retry fec => evPortFlits port retry fec s
  | .peerStore dev loc bytes => evPeerStore dev loc bytes s
  | .peerAtomic dev loc op ty n cmp => evPeerAtomic dev loc op ty n cmp s

end Sys2Proof.Machine
end

