-- ==== Sys2Proof/Machine/Step.lean ====
section
/-!
DEFINITION. One step of the machine: the agent that the turn names acts (log entry 1).
-/

set_option Elab.async false

namespace Sys2Proof.Machine

/-- Runs what an issue turn has prepared. -/
def runPrep : Prep → Host.Outcome State Fault Refusal
  | .exec i s => exec i s
  | .done s => .next s.finish

/-- One step. A step of a device agent that no agent takes, such as a warp instruction named as
one, passes without effect. -/
def step (s : State) : Host.Outcome State Fault Refusal :=
  match s.turn with
  | .idle => .next s.finish
  | .take i => if isEvent i then exec i s else .next s.finish
  | .issue core part seq => runPrep (s.prepare core part seq)
  | .resume wid k => runPrep (s.retry wid k)
  | .outside e => .next (s.fromOutside e).finish

/-- The same state with one instruction placed where the next step fetches (log entry 3). -/
def State.withFetchWord (s : State) (nbits w : Nat) : State := s.placeRun nbits w

end Sys2Proof.Machine
end

