-- ==== Sys2Proof/Safety.lean ====
section
/-!
DEFINITION. Safe steps and runs, and the terms in which claims speak of a warp instruction: when it
issues with nothing in its way, and what it leaves alone. The model answers a next state in every
safe step; faults of the spec are next states (10 R219 to R221), so a step is unsafe only where the
model itself stops.
-/

set_option Elab.async false

namespace Sys2Proof

open Machine

/-- A step that answers a next state. -/
def SafeStep (s : State) : Prop := ∃ t, step s = .next t

/-- One step leads from s to t. -/
def Steps (s t : State) : Prop := step s = .next t

/-- The states that steps reach. -/
inductive Reaches : State → State → Prop where
  | refl (s : State) : Reaches s s
  | tail {s t u : State} : Reaches s t → Steps t u → Reaches s u

/-- A property that every step keeps. -/
def Invariant (P : State → Prop) : Prop := ∀ s t, P s → Steps s t → P t

/-- The value of the low bits of a word as an integer of a type (05 R101). -/
def ITy.val (ty : ITy) (x : DWord) : Int :=
  if itySigned ty then (x.setWidth (ityBits ty)).toInt else ((x.setWidth (ityBits ty)).toNat : Int)

/-- Smallest and largest integer of a type (05 R101). -/
def ITy.low (ty : ITy) : Int := if itySigned ty then -(2 : Int) ^ (ityBits ty - 1) else 0
def ITy.high (ty : ITy) : Int :=
  if itySigned ty then (2 : Int) ^ (ityBits ty - 1) - 1 else (2 : Int) ^ ityBits ty - 1

/-- An exact result as a type's result: clamped under `.sat`, else modulo 2^w, then extended by its
sign or with zeros (05 R101). -/
def ITy.narrow (ty : ITy) (sat : Bool) (e : Int) : DWord :=
  let y := if sat then max ty.low (min ty.high e) else e
  let r := BitVec.ofInt (ityBits ty) y
  if itySigned ty then r.signExtend 64 else r.setWidth 64

namespace Machine

/-- The launch of a warp has not been cancelled (02 R58). -/
def Going (s : State) (wid : Nat) : Prop := ∀ L, s.launchOf wid = some L → L.cancelled = false

/-- Instruction `i` issues for the group of `c`, not coming back from a wait, and nothing stands in its
way: the checks of 14 R304 and 01 R30 pass, no entry of the warp is poisoned (01 R37), and the launch
goes on. -/
structure Issues (i : Instr) (s : State) (c : Ctx) (w : Warp) : Prop where
  ctx : s.ctx? = some c
  warp : s.warp c.wid = some w
  first : c.tag = none
  legal : preFault i c w = none
  clean : w.bad = []
  going : Going s c.wid

/-- Address at which the lanes of a context stand after an instruction that falls through. -/
def Ctx.follow (c : Ctx) : DWord := if c.last then c.nxt else c.pc + BitVec.ofNat 64 (4 * c.n)

/-- A lane after an instruction that falls through (04 R83, R86). -/
def Lane.follow (c : Ctx) (x : Lane) : Lane :=
  { x with pc := c.follow, run := if c.last then none else some c.start, retry := 0, bkpt := none }

/-- A lane after an instruction that ends its run: at its target, or past the trailer (04 R87). -/
def Lane.leave (c : Ctx) (t : Option DWord) (x : Lane) : Lane :=
  { x with pc := t.getD c.nxt, run := none, retry := 0, bkpt := none }

/-- Nothing but warp `wid`, the sequencers and the commit count of a core, the first-instruction time
of launches, and the counters of the step has changed: memory, the scratch spaces, every register of
BAR 2, every other warp, block, launch, queue and core. -/
structure RestKept (wid core : Nat) (s t : State) : Prop where
  rest : { t with turn := s.turn, tick := s.tick, fresh := s.fresh, gtime := s.gtime,
                  warps := s.warps, cores := s.cores, launches := s.launches } = s
  warps : ∀ k, k ≠ wid → t.warp k = s.warp k
  cores : ∀ k, k ≠ core → t.core k = s.core k
  core : { t.core core with seqs := (s.core core).seqs, winCommits := (s.core core).winCommits } =
    s.core core
  launches : ∀ k, (t.launch k).map (fun L => { L with startT := 0 }) =
    (s.launch k).map (fun L => { L with startT := 0 })

/-- What a warp keeps when lanes of it execute: all but registers, lanes, the uniform file, flags, banks, and the
scoreboard and schedule of its sequencer. -/
def WarpKept (w w' : Warp) : Prop :=
  { w' with v := w.v, u := w.u, g := w.g, lanes := w.lanes, bad := w.bad, graft := w.graft,
            handler := w.handler, producers := w.producers, lastRun := w.lastRun,
            lastYield := w.lastYield } = w ∧
  w'.graft.map (fun g => { g with regs := [], bank := [] }) =
    w.graft.map (fun g => { g with regs := [], bank := [] }) ∧
  w'.handler.map (fun h => { h with bank := [] }) = w.handler.map (fun h => { h with bank := [] })

/-- Nothing of the uniform side has changed: registers, flags, banks (14 R303). -/
def UniKept (w w' : Warp) : Prop :=
  w'.u = w.u ∧ w'.g = w.g ∧ w'.handler = w.handler ∧
    w'.graft.map (fun g => g.bank) = w.graft.map (fun g => g.bank)

/-- Number of the register that a lane-set specifier writes: v0 to v111, t0 to t7 as 112 to 119; the
zero specifier discards (14 R302). -/
def LSpec.writes : LSpec → Option Nat
  | .v n => some n.val
  | .t n => some (112 + n.val)
  | .zero => none
  | .lane => none

/-- Registers after a write of `x` to destination `d`: one register, or a pair, low word first
(14 R304); the other registers are not written. -/
def dstRegs (d : LSpec) (w64 : Bool) (x : DWord) (n : Nat) : Option Word :=
  if w64 ∧ LSpec.writes (LSpec.plus d 1) = some n then some (hiW x)
  else if LSpec.writes d = some n then some (loW x) else none

/-- A lane-set instruction has completed from `s` to `t` for the group of `c`: lane `l` of the group
holds `regs l n` in each register `n` it wrote, its record is `ln l` of what it was, and nothing else
has changed. -/
def LaneDone (c : Ctx) (s t : State) (w : Warp) (regs : Nat → Nat → Option Word)
    (ln : Nat → Lane → Lane) : Prop :=
  RestKept c.wid c.core s t ∧ ∃ w', t.warp c.wid = some w' ∧ WarpKept w w' ∧ UniKept w w' ∧
    (∀ l n, l < 32 → n < 120 → w'.rdV l n =
      if c.mask.getLsbD l then (regs l n).getD (w.rdV l n) else w.rdV l n) ∧
    (∀ l, l < 32 → w'.lane l = if c.mask.getLsbD l then ln l (w.lane l) else w.lane l)

/-- A lane-set instruction that writes one value per lane to `d`. -/
def LaneWrites (c : Ctx) (s t : State) (w : Warp) (w64 : Bool) (d : LSpec) (x : Nat → DWord) : Prop :=
  LaneDone c s t w (fun l => dstRegs d w64 (x l)) (fun _ => Lane.follow c)

/-- The same, and the lane's %fpflags take the flags raised (05 R106). -/
def LaneFpWrites (c : Ctx) (s t : State) (w : Warp) (w64 : Bool) (d : LSpec)
    (x : Nat → DWord × BitVec 5) : Prop :=
  LaneDone c s t w (fun l => dstRegs d w64 (x l).1)
    (fun l y => Lane.follow c { y with fpf := y.fpf ||| (x l).2 })

/-- Flag `n` of a lane's flags set to `b`, the others kept. -/
def putFlag (n : Nat) (b : Bool) (f : BitVec 8) : BitVec 8 :=
  if b then f ||| BitVec.twoPow 8 n else f &&& ~~~BitVec.twoPow 8 n

/-- A lane-set instruction that writes flag `n` of each lane. -/
def LaneFlags (c : Ctx) (s t : State) (w : Warp) (n : Fin 8) (b : Nat → Bool) : Prop :=
  LaneDone c s t w (fun _ _ => none)
    (fun l y => Lane.follow c { y with f := putFlag n.val (b l) y.f })

/-- Where uniform register `n` lives for the group whose lowest lane is `l`: the graft bank, the
handler bank, or the file of the lane's half (10 R227, 11 R252, 04 R100). -/
def Warp.uniPlace (w : Warp) (l n : Nat) : Nat × Nat × Nat :=
  if w.inGraft l ∧ 96 ≤ n then (2, 0, n)
  else if w.inHandler l ∧ 96 ≤ n then (1, 0, n)
  else (0, w.half l, n)

/-- Uniform registers after a write of `x` to destination `d`. -/
def uniRegs (d : USpec) (w64 : Bool) (x : DWord) (n : Nat) : Option Word :=
  match d with
  | .s k => if w64 ∧ n = k.val + 1 then some (hiW x) else if n = k.val then some (loW x) else none
  | _ => none

/-- A uniform instruction has completed from `s` to `t` for the group of `c`: the uniform registers
as the group names them hold what it wrote, uniform flag `n` of its half is `b` for each `(n, b)` of
`fl`, every lane of the group has gone on, and nothing else has changed. -/
def UniDone (c : Ctx) (s t : State) (w : Warp) (regs : Nat → Option Word) (fl : List (Nat × Bool)) :
    Prop :=
  RestKept c.wid c.core s t ∧ ∃ w', t.warp c.wid = some w' ∧ WarpKept w w' ∧ w'.v = w.v ∧
    w'.graft.map (fun g => g.regs) = w.graft.map (fun g => g.regs) ∧
    (∀ l n, l < 32 → n < 112 → w'.rdS l n =
      if w.uniPlace l n = w.uniPlace (lowLane c.mask) n then (regs n).getD (w.rdS l n)
      else w.rdS l n) ∧
    (∀ l n, l < 32 → n < 8 → w'.rdG l n =
      if w.half l = w.half (lowLane c.mask) then ((fl.find? (fun e => e.1 == n)).map Prod.snd).getD
        (w.rdG l n) else w.rdG l n) ∧
    (∀ l, l < 32 → w'.lane l = if c.mask.getLsbD l then Lane.follow c (w.lane l) else w.lane l)

/-- A uniform instruction that writes one value to `d`. -/
def UniWrites (c : Ctx) (s t : State) (w : Warp) (w64 : Bool) (d : USpec) (x : DWord) : Prop :=
  UniDone c s t w (uniRegs d w64 x) []

/-- In every state in which a lane-set instruction issues with nothing in its way it completes, and
its one effect is to write `x` to `d` in each lane of its group. -/
def LaneResult (i : Instr) (w64 : Bool) (d : LSpec) (x : State → Ctx → Warp → Nat → DWord) : Prop :=
  ∀ s c w, Issues i s c w → ∃ t, exec i s = .next t ∧ LaneWrites c s t w w64 d (x s c w)

/-- The same for an instruction that also raises floating-point flags. -/
def LaneFpResult (i : Instr) (w64 : Bool) (d : LSpec)
    (x : State → Ctx → Warp → Nat → DWord × BitVec 5) : Prop :=
  ∀ s c w, Issues i s c w → ∃ t, exec i s = .next t ∧ LaneFpWrites c s t w w64 d (x s c w)

/-- The same for an instruction that writes one lane flag. -/
def LaneFlagResult (i : Instr) (n : Fin 8) (b : State → Ctx → Warp → Nat → Bool) : Prop :=
  ∀ s c w, Issues i s c w → ∃ t, exec i s = .next t ∧ LaneFlags c s t w n (b s c w)

/-- The same for an instruction that writes one lane flag and raises floating-point flags. -/
def LaneFpFlagResult (i : Instr) (n : Fin 8) (b : State → Ctx → Warp → Nat → Bool × BitVec 5) : Prop :=
  ∀ s c w, Issues i s c w → ∃ t, exec i s = .next t ∧ LaneDone c s t w (fun _ _ => none)
    (fun l y => Lane.follow c { y with f := putFlag n.val (b s c w l).1 y.f,
                                       fpf := y.fpf ||| (b s c w l).2 })

/-- The same for a uniform instruction that writes one value. -/
def UniResult (i : Instr) (w64 : Bool) (d : USpec) (x : State → Ctx → DWord) : Prop :=
  ∀ s c w, Issues i s c w → ∃ t, exec i s = .next t ∧ UniWrites c s t w w64 d (x s c)

/-- The bytes that a piece of an access reads where no store of its thread waits in the store queue: at
the home when strong or host-coherent, else through a valid lease or a fresh copy of the line (01 R17,
08 R183, R188); scratch at its place. -/
def Piece.bytes (s : State) (c : Ctx) (strong : Bool) (p : Piece) : List Byte :=
  match p.place with
  | .glob ph =>
    if strong || ph.mt == 1 then s.rdMem ph.loc p.n
    else
      match (s.core c.core).cc.find? (fun x => x.line == ph.loc / 128 && s.leaseValid x) with
      | some x => (x.data.drop (ph.loc % 128)).take p.n
      | none => s.rdMem ph.loc p.n
  | .scr k o => rdFMap (s.core k).scratch o p.n
  | .chip o => rdFMap s.chip o p.n
  | .gone => []

/-- Such a read meets no poison and stays in its line (12 R284). -/
def Piece.clean (s : State) (c : Ctx) (strong : Bool) (p : Piece) : Prop :=
  match p.place with
  | .glob ph => ph.loc % 128 + p.n ≤ 128 ∧
    (if strong || ph.mt == 1 then s.poisonedR ph.loc p.n = false
     else
      match (s.core c.core).cc.find? (fun x => x.line == ph.loc / 128 && s.leaseValid x) with
      | some x => bitOf x.bad (ph.loc % 128 / 64) = false
      | none => s.poisoned ph.loc = false)
  | .gone => False
  | _ => True

/-- No store of a warp waits in the store queue of its core. -/
def NoStores (s : State) (c : Ctx) : Prop := ∀ e ∈ (s.core c.core).sq, e.wid ≠ c.wid

/-- Packets held for commit, without what their checks found (01 R14). -/
def unmarked (out : List (Nat × Outstanding)) : List (Nat × Outstanding) :=
  out.map (fun e => (e.1, { e.2 with checked := false, ran := false }))

/-- What reads of a core move: leases and shared copies of lines, cached copies, predictors, the count of
free values, and whether the checks of held packets stand. -/
def Loaded (s s1 : State) : Prop :=
  { s1 with fresh := s.fresh, lines := s.lines, hostCopies := s.hostCopies, cores := s.cores } = s ∧
  ∀ k, { s1.core k with cc := (s.core k).cc, l1 := (s.core k).l1, pred := (s.core k).pred,
                        out := (s.core k).out } = s.core k ∧
    unmarked (s1.core k).out = unmarked (s.core k).out

/-- What writes performed for warp `wid` move beside memory: poison, the images and the log of undo, write
completion times, store queues, and what reads move. -/
structure Performed (wid : Nat) (s s1 : State) (w w1 : Warp) : Prop where
  rest : { s1 with fresh := s.fresh, mem := s.mem, poison := s.poison, dram := s.dram,
                   lines := s.lines, hostCopies := s.hostCopies, lastGwct := s.lastGwct,
                   undoLog := s.undoLog, undoFill := s.undoFill, undoWarned := s.undoWarned,
                   bar2 := s.bar2, irqs := s.irqs, inval := s.inval, chip := s.chip,
                   warps := s.warps, cores := s.cores, launches := s.launches } = s
  own : s1.warp wid = some w1
  lwct : w1 = { w with lwct := w1.lwct }
  warps : ∀ k, k ≠ wid → s1.warp k = s.warp k
  cores : ∀ k, { s1.core k with cc := (s.core k).cc, l1 := (s.core k).l1, pred := (s.core k).pred,
                                sq := (s.core k).sq, nextSq := (s.core k).nextSq, out := (s.core k).out,
                                scratch := (s.core k).scratch } = s.core k
  outs : ∀ k, unmarked (s1.core k).out = unmarked (s.core k).out
  launches : ∀ k, (s1.launch k).map (fun L => { L with lastGwct := 0 }) =
    (s.launch k).map (fun L => { L with lastGwct := 0 })

/-- Words written to consecutive registers from `d`, as the registers they change (17 R377). -/
def wordRegs (d : LSpec) (ws : List Word) (n : Nat) : Option Word :=
  ((List.range ws.length).find? (fun k => decide (LSpec.writes (LSpec.plus d k) = some n))).map
    (fun k => ws.getD k 0)

/-- The instruction of a group comes back from its wait under `tag` (02 R51). -/
structure Resumes (s : State) (c : Ctx) (w : Warp) (tag : WaitTag) : Prop where
  ctx : s.ctx? = some c
  warp : s.warp c.wid = some w
  tag : c.tag = some tag
  going : Going s c.wid

/-- The group of `c` has left its sequencer and waits under `tag`, from `s` to `t`; nothing of its warp
but its waits has changed, from `w` to `w'`. -/
def GroupWaits (c : Ctx) (tag : WaitTag) (s t : State) (w w' : Warp) : Prop :=
  RestKept c.wid c.core s t ∧ t.seqAt c.core c.part c.seq = none ∧ t.warp c.wid = some w' ∧
  ∃ b, s.seqAt c.core c.part c.seq = some b ∧
    w' = { w with waits := w.waits ++ [{ b with tag := some tag }] }

/-- AcquireFence of a warp on its core at a scope (08 R190): from .cluster up the core's leases go, and what
was found under them; below, what the warp's own loads were found to read is checked again. -/
def acquired (core wid : Nat) (sc : Scope) (s : State) : State :=
  s.modCore core (fun k => { k with
    cc := if scopeWide sc then [] else k.cc, l1 := if scopeWide sc then [] else k.l1,
    out := k.out.map (fun e =>
      if (scopeWide sc || e.2.wid == wid) && e.2.ran then (e.1, { e.2 with checked := false, ran := false })
      else e) })

/-- Nothing keeps a group's fault from its trap: no slot acts on it (11 R251), the core queue has
room and the job's spill path on the core is empty (03 R75), and groups that wait are of other lanes. -/
structure TrapReady (f : FaultInfo) (s : State) (c : Ctx) (w : Warp) : Prop where
  slots : ∀ l, l < 32 → s.faultAct c.at l f = .deliver f
  spill : tgetD [] (spillKey (s.jobOf c.wid) c.core) s.spill = []
  space : qWeight (s.core c.core).queue + 1 ≤ 64
  apart : ∀ b ∈ w.waits, b.wid = c.wid ∧ b.mask ≠ 0 ∧ b.mask &&& c.mask = 0

/-- The record of a group fault (10 R223). -/
def Ctx.record (c : Ctx) (f : FaultInfo) (b : Block) (L : Launch) (w : Warp) : FaultRec :=
  let l := lowLane c.mask
  { info := f, seq := 0, core := c.core, block := b.num L, launch := L.id,
    words := (c.words.getD 0 0, c.words.getD 1 0), pc := c.pc, mask := c.mask, warp := w.warpNo l,
    nested := w.inHandler l, graft := w.inGraft l,
    host := w.inHandler l || w.inGraft l || !L.trapbase.getLsbD 0 }

/-- The sub-warp of a group fault, parked at its instruction with its temporaries (10 R221, R225). -/
def Ctx.park (c : Ctx) (r : FaultRec) (ts : FMap Word) (id : Nat) (L : Launch) (w : Warp) :
    Parked :=
  { id := id, mask := c.mask, pc := c.pc, run := some c.start, nxt := c.nxt, record := r, temps := ts,
    st := .queued, gen := c.gen, score := c.score, elems := w.elems c.mask,
    entry := L.trapbase &&& 0x7FFFFFFFFFFFFC }

/-- The group of `c` has trapped with fault `f`, from `s` to `t` (10 R220 to R227): its lanes are one
more parked sub-warp that stands at the instruction with its temporaries, bound for the handler entry
of %trapbase; the trap record is the last entry of the core queue; FAULTS counts it and FIRST keeps
the first code; and nothing else has changed. -/
structure GroupTrap (f : FaultInfo) (c : Ctx) (b : Block) (L : Launch) (s t : State) (w : Warp) :
    Prop where
  rest : { t with turn := s.turn, tick := s.tick, fresh := s.fresh, gtime := s.gtime,
                  warps := s.warps, cores := s.cores, launches := s.launches,
                  nextPark := s.nextPark } = s
  id : t.nextPark = s.nextPark + 1
  warps : ∀ k, k ≠ c.wid → t.warp k = s.warp k
  cores : ∀ k, k ≠ c.core → t.core k = s.core k
  core : { t.core c.core with seqs := (s.core c.core).seqs } =
    { s.core c.core with queue := (s.core c.core).queue ++ [.trap c.wid s.nextPark] }
  launch : t.launch b.launch = some { L with
    first := if L.faults = 0 then f.code else L.first,
    faults := min (L.faults + 1) (2 ^ 32 - 1) }
  launches : ∀ k, k ≠ b.launch → t.launch k = s.launch k
  parked : ∃ w' ts, t.warp c.wid = some w' ∧
    w' = { w with lanes := w'.lanes, lastRun := w'.lastRun, lastYield := w'.lastYield,
                  parked := w.parked ++ [c.park (c.record f b L w) ts s.nextPark L w] } ∧
    (∀ k l, k < 8 → l < 32 → c.mask.getLsbD l = true →
      fget 0 (32 * k + l) ts = fget 0 (32 * (112 + k) + l) w.v) ∧
    (∀ l, l < 32 → w'.lane l = if c.mask.getLsbD l then
      { w.lane l with pc := c.pc, run := some c.start, nxt := c.nxt, gen := c.gen, score := c.score }
      else w.lane l)

/-- In every state in which the instruction issues and `pre` holds, and in which nothing keeps the
fault from its trap, the group traps with fault `f`, and that is all. -/
def TrapsWith (i : Instr) (f : State → Ctx → Warp → FaultInfo) (pre : State → Ctx → Warp → Prop) :
    Prop :=
  ∀ s c w b L, Issues i s c w → pre s c w → TrapReady (f s c w) s c w →
    s.block (blkOf c.wid) = some b → s.launch b.launch = some L →
    ∃ t, exec i s = .next t ∧ GroupTrap (f s c w) c b L s t w

/-- `d` is the next packet of queue `q`, and the dispatcher may read it (03 R62, R65): the queue is
enabled and not frozen, its job is OPEN, and no WAIT holds it. -/
structure NextPacket (q : Nat) (d : BitVec 512) (s : State) : Prop where
  range : q < 16384
  host : s.hostLost = false
  enabled : s.qEn q = true
  thawed : s.qFrozen q = false
  job : s.jState (s.qJob q) = 1
  more : s.qHead q ≠ s.qTail q
  tail : (s.queue q).badTail = false
  free : ∀ p ∈ (s.queue q).pkts, p.num ≠ (s.qHead q).toNat ∧ (pkType p.data = 4 → p.st = .done)
  valid : pkOk d = true
  read : s.vRead (via (s.jAsid (s.qJob q)))
    ((s.reg64 (qOff q)).toNat + 64 * ((s.qHead q).toNat % 2 ^ s.qRlog q)) 64 = .ok (natLe 64 d.toNat)

/-- Packet `d` is read (03 R62): HEAD moves on, and the packet waits to act; a LAUNCH has formed a graph of
one launch (02 R39). -/
def State.packetIn (q : Nat) (d : BitVec 512) (s : State) (g : Option Nat := none) : State :=
  let p : Pkt := { num := (s.qHead q).toNat, data := d, st := .held, refs := [], node := none,
                   graph := g, cancel := false }
  (s.setReg (qOff q + 0x14) (s.qHead q + 1)).modQueue q (fun x =>
    { x with pkts := x.pkts ++ [p], kinds := x.kinds ++ [pkType d] })

/-- Packet `p` of queue `q` is read and may act now (03 R65). -/
structure HeldPacket (q : Nat) (p : Pkt) (s : State) : Prop where
  range : q < 16384
  here : (s.queue q).pkts.find? (fun x => x.num == p.num) = some p
  held : p.st = .held
  alone : p.node = none
  kept : p.cancel = false
  order : pkOrder p.data = true → (s.qDone q).toNat = p.num
  num : p.num < 2 ^ 32

/-- Packet `p` of queue `q` has completed, from `u` to `t` (03 R65, R67): its interrupt is raised, DONE
moves past it if it is the first, and nothing else has changed. -/
structure PacketEnds (q : Nat) (p : Pkt) (u t : State) : Prop where
  irqs : t.irqs = u.irqs ++ if p.data.getLsbD 9 && !u.hostLost then [u.qIrqv q] else []
  first : (u.qDone q).toNat = p.num →
    (∀ x ∈ (u.queue q).pkts, x.num = (p.num + 1) % 2 ^ 32 → x.st ≠ .done) →
    t.qDone q = u.qDone q + 1 ∧
      (t.queue q).pkts = (u.queue q).pkts.filter (fun x => x.num != p.num)
  later : ∀ x, (u.queue q).pkts.find? (fun x => x.num == (u.qDone q).toNat) = some x →
    x.st ≠ .done → x.num ≠ p.num → t.qDone q = u.qDone q ∧
      (t.queue q).pkts = (u.queue q).pkts.map (fun x => if x.num = p.num then { x with st := .done }
        else x)
  queue : { t.queue q with pkts := (u.queue q).pkts } = u.queue q
  queues : ∀ k, k ≠ q → t.queue k = u.queue k
  regs : ∀ o, o % 4 = 0 → o ≠ qOff q + 0x18 → t.reg o = u.reg o
  rest : { t with turn := u.turn, tick := u.tick, fresh := u.fresh, gtime := u.gtime, bar2 := u.bar2,
                  queues := u.queues, irqs := u.irqs } = u

end Machine

end Sys2Proof
end

