-- ==== Sys2Proof/Certificates/Slice0/Obligations.lean ====
section
/-!
DEFINITION. The statements for the provers. Each docstring cites the rules of spec/ that it rests on.
A statement about a warp instruction has the premise `Issues`: the instruction issues for the first
time, its checks pass, no register it names is poisoned and its launch has not been cancelled.
-/

set_option Elab.async false

open Sys2Proof Sys2Proof.Machine

/-- IADD, ISUB, IMUL, IMULHI, IMIN, IMAX, IMAD and their wide forms: the exact result of the typed
sources, narrowed or clamped into d, and nothing else (05 R101; 17 R368, R371; 15 R323). -/
def Obligations.IntegerArithmetic : Prop :=
  (∀ sat ty d a b,
    LaneResult (.iadd sat ty d a b) ty.wide64 d (fun _ _ w l => ty.narrow sat
      (ty.val (w.rdW l ty.wide64 a) + ty.val (w.rdW l ty.wide64 b))) ∧
    LaneResult (.isub sat ty d a b) ty.wide64 d (fun _ _ w l => ty.narrow sat
      (ty.val (w.rdW l ty.wide64 a) - ty.val (w.rdW l ty.wide64 b))) ∧
    LaneResult (.imul sat ty d a b) ty.wide64 d (fun _ _ w l => ty.narrow sat
      (ty.val (w.rdW l ty.wide64 a) * ty.val (w.rdW l ty.wide64 b)))) ∧
  (∀ ty d a b,
    LaneResult (.imulhi ty d a b) ty.wide64 d (fun _ _ w l => ty.narrow false
      (ty.val (w.rdW l ty.wide64 a) * ty.val (w.rdW l ty.wide64 b) / 2 ^ ityBits ty)) ∧
    LaneResult (.imin ty d a b) ty.wide64 d (fun _ _ w l => ty.narrow false
      (min (ty.val (w.rdW l ty.wide64 a)) (ty.val (w.rdW l ty.wide64 b)))) ∧
    LaneResult (.imax ty d a b) ty.wide64 d (fun _ _ w l => ty.narrow false
      (max (ty.val (w.rdW l ty.wide64 a)) (ty.val (w.rdW l ty.wide64 b))))) ∧
  (∀ sat ty d a b e,
    LaneResult (.imad sat ty d a b e) ty.wide64 d (fun s c w l => ty.narrow sat
      (ty.val (w.rdW l ty.wide64 a) * ty.val (srcLU s c w l ty.wide64 b) +
        ty.val (w.rdW l ty.wide64 e)))) ∧
  (∀ op sat ty d a b,
    LaneResult (.wideForm (.int op sat ty d a b)) ty.wide64 d (fun s c w l =>
      let x := ty.val (w.rdW l ty.wide64 a)
      let y := ty.val (srcW s c w l ty.wide64 b)
      ty.narrow sat (match op with
        | .add => x + y
        | .sub => x - y
        | .mul => x * y
        | .mulhi => x * y / 2 ^ ityBits ty
        | .min => min x y
        | .max => max x y)))

/-- IABS, one-word and wide: |x| for signed types, the most negative value returned unchanged or, with
.sat, the type's maximum; the operand unchanged for unsigned types (17 R367). -/
def Obligations.AbsoluteValue : Prop :=
  (∀ sat ty d b, ∃ x : DWord → DWord,
    LaneResult (.iabs sat ty d b) ty.wide64 d (fun _ _ w l => x (w.rdW l ty.wide64 b)) ∧
    (∀ d b, LaneResult (.wideForm (.iabs sat ty d b)) ty.wide64 d
      (fun s c w l => x (srcW s c w l ty.wide64 b))) ∧
    (∀ y, itySigned ty = true → ty.val y ≠ ty.low → ty.val (x y) = |ty.val y|) ∧
    (∀ y, itySigned ty = true → ty.val y = ty.low →
      ty.val (x y) = if sat then ty.high else ty.low) ∧
    (∀ y, itySigned ty = false → ty.val (x y) = ty.val y) ∧
    (∀ y, x y = ty.narrow false (ty.val (x y))))

/-- AND, OR, XOR, SHL, SHR, SAR and their wide forms, LOGIC3 and FSHF (16 R330; 17 R364, R381; 18 R406). -/
def Obligations.LogicAndShifts : Prop :=
  (∀ wd d a b,
    LaneResult (.and wd d a b) wd.is64 d (fun _ _ w l => w.rdW l wd.is64 a &&& srcB w l wd.is64 b) ∧
    LaneResult (.or wd d a b) wd.is64 d (fun _ _ w l => w.rdW l wd.is64 a ||| srcB w l wd.is64 b) ∧
    LaneResult (.xor wd d a b) wd.is64 d (fun _ _ w l => w.rdW l wd.is64 a ^^^ srcB w l wd.is64 b)) ∧
  (∀ op wd d a b, LaneResult (.wideForm (.logic op wd d a b)) wd.is64 d (fun s c w l =>
    let x := w.rdW l wd.is64 a
    let y := srcW s c w l wd.is64 b
    match op with
    | .and => x &&& y
    | .or => x ||| y
    | .xor => x ^^^ y)) ∧
  (∀ d a b,
    LaneResult (.shl .b32 d a b) false d (fun _ _ w l =>
      (w.rdL l a <<< ((srcB w l false b).toNat % 256)).setWidth 64) ∧
    LaneResult (.shr .b32 d a b) false d (fun _ _ w l =>
      (w.rdL l a >>> ((srcB w l false b).toNat % 256)).setWidth 64) ∧
    LaneResult (.sar .b32 d a b) false d (fun _ _ w l =>
      ((w.rdL l a).sshiftRight ((srcB w l false b).toNat % 256)).setWidth 64) ∧
    LaneResult (.shl .b64 d a b) true d (fun _ _ w l =>
      w.rdL64 l a <<< ((srcB w l false b).toNat % 256)) ∧
    LaneResult (.shr .b64 d a b) true d (fun _ _ w l =>
      w.rdL64 l a >>> ((srcB w l false b).toNat % 256)) ∧
    LaneResult (.sar .b64 d a b) true d (fun _ _ w l =>
      (w.rdL64 l a).sshiftRight ((srcB w l false b).toNat % 256))) ∧
  (∀ op wd d a b, LaneResult (.wideForm (.shift op wd d a b)) wd.is64 d (fun s c w l =>
    let n := (srcW s c w l false b).toNat % 256
    match op, wd with
    | .shl, .b32 => (w.rdL l a <<< n).setWidth 64
    | .shr, .b32 => (w.rdL l a >>> n).setWidth 64
    | .sar, .b32 => ((w.rdL l a).sshiftRight n).setWidth 64
    | .shl, .b64 => w.rdL64 l a <<< n
    | .shr, .b64 => w.rdL64 l a >>> n
    | .sar, .b64 => (w.rdL64 l a).sshiftRight n)) ∧
  (∀ wd d a b e lut s c w, Issues (.logic3 wd d a b e lut) s c w → ∃ t x,
    exec (.logic3 wd d a b e lut) s = .next t ∧ LaneWrites c s t w wd.is64 d x ∧
    ∀ l k, k < 64 → (x l).getLsbD k = lut.getLsbD
      (((w.rdW l wd.is64 a).getLsbD k).toNat + 2 * ((srcLU s c w l wd.is64 b).getLsbD k).toNat +
        4 * ((w.rdW l wd.is64 e).getLsbD k).toNat)) ∧
  (∀ right clamp d a b sh, LaneResult (.fshf right clamp d a b sh) false d (fun s c w l =>
    let n := (match sh with
      | .reg r => (w.rdL l r).toNat
      | .imm i => i.toNat)
    let n := if clamp then min n 32 else n % 32
    let x := loW (srcLU s c w l false b) ++ w.rdL l a
    if right then ((x >>> n).setWidth 32).setWidth 64 else (x <<< n) >>> 32))

/-- BREV, CLZ, POPC and their wide forms, BFX and BFI with immediate and register fields (16 R338, R341). -/
def Obligations.BitFieldsAndCounts : Prop :=
  (∀ i d a, (i = .brev .b64 d a ∨ ∃ b, i = .wideForm (.bits .brev .b64 d a b)) →
    LaneResult i true d (fun _ _ w l => (w.rdL64 l a).reverse)) ∧
  (∀ i d a, (i = .brev .b32 d a ∨ ∃ b, i = .wideForm (.bits .brev .b32 d a b)) →
    LaneResult i false d (fun _ _ w l => (w.rdL l a).reverse.setWidth 64)) ∧
  (∀ i wd d a, (i = .popc wd d a ∨ ∃ b, i = .wideForm (.bits .popc wd d a b)) →
    LaneResult i false d (fun _ _ w l => BitVec.ofNat 64
      ((List.range 64).countP (fun k => (w.rdW l wd.is64 a).getLsbD k)))) ∧
  (∀ i wd d a, (i = .clz wd d a ∨ ∃ b, i = .wideForm (.bits .clz wd d a b)) →
    ∀ s c w, Issues i s c w → ∃ (t : State) (n : Nat → Nat), exec i s = .next t ∧
      LaneWrites c s t w false d (fun l => BitVec.ofNat 64 (n l)) ∧
      ∀ l, let W := if wd.is64 then 64 else 32
        n l ≤ W ∧ (∀ k, W - n l ≤ k → (w.rdW l wd.is64 a).getLsbD k = false) ∧
        (n l < W → (w.rdW l wd.is64 a).getLsbD (W - 1 - n l) = true)) ∧
  (∀ wd sext d a f s c w, Issues (.bfx wd sext d a f) s c w → ∃ t x,
    exec (.bfx wd sext d a f) s = .next t ∧ LaneWrites c s t w wd.is64 d x ∧
    ∀ l, let W := if wd.is64 then 64 else 32
      let pos := (match f with
        | .imm p _ => p.toNat
        | .reg r => min ((w.rdL l r).extractLsb' 0 8).toNat W)
      let len := (match f with
        | .imm _ n => n.toNat
        | .reg r => min ((w.rdL l r).extractLsb' 8 8).toNat (W - pos))
      ∀ k, k < W → (x l).getLsbD k =
        if k < len then (w.rdW l wd.is64 a).getLsbD (pos + k)
        else if sext ∧ 0 < len then (w.rdW l wd.is64 a).getLsbD (pos + len - 1) else false) ∧
  (∀ wd d a b f s c w, Issues (.bfi wd d a b f) s c w → ∃ t x,
    exec (.bfi wd d a b f) s = .next t ∧ LaneWrites c s t w wd.is64 d x ∧
    ∀ l, let W := if wd.is64 then 64 else 32
      let pos := (match f with
        | .imm p _ => p.toNat
        | .reg r => min ((w.rdL l r).extractLsb' 0 8).toNat W)
      let len := (match f with
        | .imm _ n => n.toNat
        | .reg r => min ((w.rdL l r).extractLsb' 8 8).toNat (W - pos))
      ∀ k, k < W → (x l).getLsbD k =
        if pos ≤ k ∧ k < pos + len then (w.rdW l wd.is64 a).getLsbD (k - pos)
        else (srcLU s c w l wd.is64 b).getLsbD k)

/-- MOV, MOVI, SEL, LEA, PSEL, IDP4 and the wide forms of MOV, SEL and LEA (17 R370, R379, R387, R388;
18 R394, R404).

ICMP, its wide form, and UCMP (17 R369; 18 R414). -/
def Obligations.MovesSelectsAndCompares : Prop :=
  (
  (∀ wd d b, LaneResult (.mov wd d b) wd.is64 d (fun _ _ w l => srcB w l wd.is64 b)) ∧
  (∀ wd d b, LaneResult (.wideForm (.mov wd d b)) wd.is64 d
    (fun s c w l => srcW s c w l wd.is64 b)) ∧
  (∀ wd d hw imm, LaneResult (.movi wd false d hw imm) wd.is64 d
    (fun _ _ _ _ => imm.setWidth 64 <<< (16 * hw.val))) ∧
  (∀ wd d hw imm s c w, Issues (.movi wd true d hw imm) s c w → ∃ t x,
    exec (.movi wd true d hw imm) s = .next t ∧ LaneWrites c s t w wd.is64 d x ∧
    ∀ l k, (x l).getLsbD k = if 16 * hw.val ≤ k ∧ k < 16 * hw.val + 16
      then imm.getLsbD (k - 16 * hw.val) else (w.rdW l wd.is64 d).getLsbD k) ∧
  (∀ n d a b, LaneResult (.sel n d a b) false d (fun _ _ w l =>
    if (w.lane l).f.getLsbD n.val then w.rdW l false a else w.rdW l false b)) ∧
  (∀ n d a b, LaneResult (.wideForm (.sel n d a b)) false d (fun s c w l =>
    if (w.lane l).f.getLsbD n.val then w.rdW l false a else srcW s c w l false b)) ∧
  (∀ zx sh d a b, LaneResult (.lea zx sh d a b) true d (fun _ _ w l => w.rdL64 l b +
    (if zx then (w.rdL l a).setWidth 64 else (w.rdL l a).signExtend 64) <<< sh.val)) ∧
  (∀ zx sh d a b, LaneResult (.wideForm (.lea zx sh d a b)) true d (fun s c w l =>
    srcW s c w l true b +
      (if zx then (w.rdL l a).setWidth 64 else (w.rdL l a).signExtend 64) <<< sh.val)) ∧
  (∀ d a b sel s c w, Issues (.psel d a b sel) s c w → ∃ t x,
    exec (.psel d a b sel) s = .next t ∧ LaneWrites c s t w false d x ∧
    ∀ l i, i < 4 →
      let sl := (match sel with
        | .imm v => v
        | .reg r => (w.rdL l r).setWidth 20)
      let src := (srcLU s c w l false b).setWidth 32 ++ w.rdL l a
      let byte := src.extractLsb' (8 * (sl.extractLsb' (5 * i) 3).toNat) 8
      (x l).extractLsb' (8 * i) 8 = match (sl.extractLsb' (5 * i + 3) 2).toNat with
        | 0 => byte
        | 1 => if byte.getLsbD 7 then 0xFF#8 else 0#8
        | 2 => 0#8
        | _ => 0xFF#8) ∧
  (∀ sat za zb d a b e, LaneResult (.idp4 sat za zb d a b e) false d (fun s c w l =>
    let ty := if za && zb then ITy.z32 else ITy.s32
    let v (z : Bool) (y : DWord) (k : Nat) : Int :=
      if z then ((y.extractLsb' (8 * k) 8).toNat : Int) else (y.extractLsb' (8 * k) 8).toInt
    let p (k : Nat) : Int := v za (w.rdW l false a) k * v zb (srcLU s c w l false b) k
    ty.narrow sat (ty.val (w.rdW l false e) + (p 0 + p 1 + p 2 + p 3))))) ∧
  (
  let truth (k : ICond) (w64 uns : Bool) (x y : DWord) : Bool :=
    let lt := if w64 then (if uns then x.ult y else x.slt y)
      else (if uns then (x.setWidth 32).ult (y.setWidth 32)
        else (x.setWidth 32).slt (y.setWidth 32))
    let eq := if w64 then x == y else x.setWidth 32 == y.setWidth 32
    match k with
    | .eq => eq
    | .ne => !eq
    | .lt => lt
    | .le => lt || eq
    | .gt => !(lt || eq)
    | .ge => !lt
  (∀ k w64 uns n a b, LaneFlagResult (.icmp k w64 uns n a b) n (fun _ _ w l =>
    truth k w64 uns (w.rdW l w64 a) (w.rdW l w64 b))) ∧
  (∀ k w64 uns n a b, LaneFlagResult (.wideForm (.icmp k w64 uns n a b)) n (fun s c w l =>
    truth k w64 uns (w.rdW l w64 a) (srcW s c w l w64 b))) ∧
  (∀ k w64 uns n a b s c w, Issues (.ucmp k w64 uns n a b) s c w → ∃ t,
    exec (.ucmp k w64 uns n a b) s = .next t ∧ UniDone c s t w (fun _ => none)
      [(n.val, truth k w64 uns (s.rdUW c w64 a) (s.rdUW c w64 b))]))

/-- UADD, USUB, UMUL, UMAD, UAND, UOR, UXOR, USHL, USHR, USAR, UMOV, UMOVI, USEL, ULEA (16 R329; 18 R414). -/
def Obligations.UniformArithmetic : Prop :=
  (∀ sat ty d a b,
    UniResult (.uadd sat ty d a b) ty.wide64 d (fun s c => ty.narrow sat
      (ty.val (s.rdUW c ty.wide64 a) + ty.val (s.rdUW c ty.wide64 b))) ∧
    UniResult (.usub sat ty d a b) ty.wide64 d (fun s c => ty.narrow sat
      (ty.val (s.rdUW c ty.wide64 a) - ty.val (s.rdUW c ty.wide64 b))) ∧
    UniResult (.umul sat ty d a b) ty.wide64 d (fun s c => ty.narrow sat
      (ty.val (s.rdUW c ty.wide64 a) * ty.val (s.rdUW c ty.wide64 b))) ∧
    ∀ e, UniResult (.umad sat ty d a b e) ty.wide64 d (fun s c => ty.narrow sat
      (ty.val (s.rdUW c ty.wide64 a) * ty.val (s.rdUW c ty.wide64 b) +
        ty.val (s.rdUW c ty.wide64 e)))) ∧
  (∀ wd d a b,
    UniResult (.uand wd d a b) wd.is64 d (fun s c => s.rdUW c wd.is64 a &&& srcU s c wd.is64 b) ∧
    UniResult (.uor wd d a b) wd.is64 d (fun s c => s.rdUW c wd.is64 a ||| srcU s c wd.is64 b) ∧
    UniResult (.uxor wd d a b) wd.is64 d (fun s c => s.rdUW c wd.is64 a ^^^ srcU s c wd.is64 b)) ∧
  (∀ d a b,
    UniResult (.ushl .b32 d a b) false d (fun s c =>
      (s.rdU c a <<< ((srcU s c false b).toNat % 256)).setWidth 64) ∧
    UniResult (.ushr .b32 d a b) false d (fun s c =>
      (s.rdU c a >>> ((srcU s c false b).toNat % 256)).setWidth 64) ∧
    UniResult (.usar .b32 d a b) false d (fun s c =>
      ((s.rdU c a).sshiftRight ((srcU s c false b).toNat % 256)).setWidth 64) ∧
    UniResult (.ushl .b64 d a b) true d (fun s c =>
      s.rdU64 c a <<< ((srcU s c false b).toNat % 256)) ∧
    UniResult (.ushr .b64 d a b) true d (fun s c =>
      s.rdU64 c a >>> ((srcU s c false b).toNat % 256)) ∧
    UniResult (.usar .b64 d a b) true d (fun s c =>
      (s.rdU64 c a).sshiftRight ((srcU s c false b).toNat % 256))) ∧
  (∀ wd d b, UniResult (.umov wd d b) wd.is64 d (fun s c => srcU s c wd.is64 b)) ∧
  (∀ wd d hw imm, UniResult (.umovi wd false d hw imm) wd.is64 d
    (fun _ _ => imm.setWidth 64 <<< (16 * hw.val))) ∧
  (∀ wd d hw imm s c w, Issues (.umovi wd true d hw imm) s c w → ∃ t x,
    exec (.umovi wd true d hw imm) s = .next t ∧ UniWrites c s t w wd.is64 d x ∧
    ∀ k, x.getLsbD k = if 16 * hw.val ≤ k ∧ k < 16 * hw.val + 16
      then imm.getLsbD (k - 16 * hw.val) else (s.rdUW c wd.is64 d).getLsbD k) ∧
  (∀ n d a b s c w, Issues (.usel n d a b) s c w → ∃ t, exec (.usel n d a b) s = .next t ∧
    UniWrites c s t w false d
      (if w.rdG (lowLane c.mask) n.val then s.rdUW c false a else s.rdUW c false b)) ∧
  (∀ zx sh d a b, UniResult (.ulea zx sh d a b) true d (fun s c => s.rdU64 c b +
    (if zx then (s.rdU c a).setWidth 64 else (s.rdU c a).signExtend 64) <<< sh.val))

/-- The floating-point family: each lane writes the operation of its own sources and ORs its flags into
%fpflags (05 R106, R108; 16 R351, R353; 17 R357 to R363, R383; 18 R392; 15 R323). -/
def Obligations.FloatArithmetic : Prop :=
  let dw (r : Nat × BitVec 5) : DWord × BitVec 5 := (BitVec.ofNat 64 r.1, r.2)
  let halves (g : Nat → Nat → Nat → Nat × BitVec 5) (a b e : Word) : DWord × BitVec 5 :=
    let lo := g (a.extractLsb' 0 16).toNat (b.extractLsb' 0 16).toNat (e.extractLsb' 0 16).toNat
    let hi := g (a.extractLsb' 16 16).toNat (b.extractLsb' 16 16).toNat (e.extractLsb' 16 16).toNat
    (((BitVec.ofNat 16 hi.1 ++ BitVec.ofNat 16 lo.1 : Word)).setWidth 64, lo.2 ||| hi.2)
  (∀ rnd d a b,
    LaneFpResult (.fadd rnd d a b) false d (fun _ _ w l =>
      dw (fpAdd fmtF32 rnd (w.rdL l a).toNat (w.rdL l b).toNat)) ∧
    LaneFpResult (.fsub rnd d a b) false d (fun _ _ w l =>
      dw (fpSub fmtF32 rnd (w.rdL l a).toNat (w.rdL l b).toNat)) ∧
    LaneFpResult (.fmul rnd d a b) false d (fun _ _ w l =>
      dw (fpMul fmtF32 rnd (w.rdL l a).toNat (w.rdL l b).toNat)) ∧
    LaneFpResult (.dadd rnd d a b) true d (fun _ _ w l =>
      dw (fpAdd fmtF64 rnd (w.rdL64 l a).toNat (w.rdL64 l b).toNat)) ∧
    LaneFpResult (.dmul rnd d a b) true d (fun _ _ w l =>
      dw (fpMul fmtF64 rnd (w.rdL64 l a).toNat (w.rdL64 l b).toNat))) ∧
  (∀ rnd d a b e,
    LaneFpResult (.ffma rnd d a b e) false d (fun s c w l =>
      dw (fpFma fmtF32 rnd (w.rdL l a).toNat (loW (srcLU s c w l false b)).toNat
        (w.rdL l e).toNat)) ∧
    LaneFpResult (.dfma rnd d a b e) true d (fun s c w l =>
      dw (fpFma fmtF64 rnd (w.rdL64 l a).toNat (srcLU s c w l true b).toNat
        (w.rdL64 l e).toNat))) ∧
  (∀ d a b,
    LaneFpResult (.fmin d a b) false d (fun _ _ w l =>
      dw (fpMinMax false fmtF32 (w.rdL l a).toNat (w.rdL l b).toNat)) ∧
    LaneFpResult (.fmax d a b) false d (fun _ _ w l =>
      dw (fpMinMax true fmtF32 (w.rdL l a).toNat (w.rdL l b).toNat))) ∧
  (∀ rnd fn d b,
    LaneFpResult (.frnd rnd d b) false d (fun _ _ w l => dw (fpIntegral rnd (w.rdL l b).toNat)) ∧
    LaneFpResult (.mfn fn d b) false d (fun _ _ w l => dw (mfnAlu fn (w.rdL l b).toNat))) ∧
  (∀ sat rnd dt st d b, LaneFpResult (.cvt sat rnd dt st d b) dt.wide64 d (fun s c w l =>
    cvtAlu sat rnd dt st (srcLU s c w l st.wide64 b))) ∧
  (∀ bf rnd d a b,
    LaneFpResult (.pkadd bf rnd d a b) false d (fun _ _ w l =>
      halves (fun x y _ => fpAdd (pkFmt bf) rnd x y) (w.rdL l a) (w.rdL l b) 0) ∧
    LaneFpResult (.pkmul bf rnd d a b) false d (fun _ _ w l =>
      halves (fun x y _ => fpMul (pkFmt bf) rnd x y) (w.rdL l a) (w.rdL l b) 0) ∧
    LaneFpResult (.pkmin bf d a b) false d (fun _ _ w l =>
      halves (fun x y _ => fpMinMax false (pkFmt bf) x y) (w.rdL l a) (w.rdL l b) 0) ∧
    LaneFpResult (.pkmax bf d a b) false d (fun _ _ w l =>
      halves (fun x y _ => fpMinMax true (pkFmt bf) x y) (w.rdL l a) (w.rdL l b) 0)) ∧
  (∀ bf rnd d a b e, LaneFpResult (.pkfma bf rnd d a b e) false d (fun s c w l =>
    halves (fpFma (pkFmt bf) rnd) (w.rdL l a) (loW (srcLU s c w l false b)) (w.rdL l e))) ∧
  (∀ op rnd d a b, LaneFpResult (.wideForm (.flt op rnd d a b)) false d (fun s c w l =>
    dw (match op with
      | .add => fpAdd fmtF32 rnd (w.rdL l a).toNat (loW (srcLU s c w l false b)).toNat
      | .sub => fpSub fmtF32 rnd (w.rdL l a).toNat (loW (srcLU s c w l false b)).toNat
      | .mul => fpMul fmtF32 rnd (w.rdL l a).toNat (loW (srcLU s c w l false b)).toNat))) ∧
  (∀ rnd fn d b,
    LaneFpResult (.wideForm (.frnd rnd d b)) false d (fun s c w l =>
      dw (fpIntegral rnd (loW (srcLU s c w l false b)).toNat)) ∧
    LaneFpResult (.wideForm (.mfn fn d b)) false d (fun s c w l =>
      dw (mfnAlu fn (loW (srcLU s c w l false b)).toNat))) ∧
  (∀ rnd d a b,
    LaneFpResult (.wideForm (.fmin d a b)) false d (fun s c w l =>
      dw (fpMinMax false fmtF32 (w.rdL l a).toNat (loW (srcLU s c w l false b)).toNat)) ∧
    LaneFpResult (.wideForm (.fmax d a b)) false d (fun s c w l =>
      dw (fpMinMax true fmtF32 (w.rdL l a).toNat (loW (srcLU s c w l false b)).toNat)) ∧
    LaneFpResult (.wideForm (.dadd rnd d a b)) true d (fun s c w l =>
      dw (fpAdd fmtF64 rnd (w.rdL64 l a).toNat (srcLU s c w l true b).toNat)) ∧
    LaneFpResult (.wideForm (.dmul rnd d a b)) true d (fun s c w l =>
      dw (fpMul fmtF64 rnd (w.rdL64 l a).toNat (srcLU s c w l true b).toNat))) ∧
  (∀ bf rnd d a b,
    LaneFpResult (.wideForm (.pkadd bf rnd d a b)) false d (fun s c w l =>
      halves (fun x y _ => fpAdd (pkFmt bf) rnd x y) (w.rdL l a) (loW (srcLU s c w l false b)) 0) ∧
    LaneFpResult (.wideForm (.pkmul bf rnd d a b)) false d (fun s c w l =>
      halves (fun x y _ => fpMul (pkFmt bf) rnd x y) (w.rdL l a) (loW (srcLU s c w l false b)) 0) ∧
    LaneFpResult (.wideForm (.pkmin bf d a b)) false d (fun s c w l =>
      halves (fun x y _ => fpMinMax false (pkFmt bf) x y) (w.rdL l a)
        (loW (srcLU s c w l false b)) 0) ∧
    LaneFpResult (.wideForm (.pkmax bf d a b)) false d (fun s c w l =>
      halves (fun x y _ => fpMinMax true (pkFmt bf) x y) (w.rdL l a)
        (loW (srcLU s c w l false b)) 0))

/-- FCMP and DCMP, one-word and wide: a quiet comparison (05 R105; 16 R354; 17 R358).

NaN results and the invalid flag (05 R102, R104, R105). -/
def Obligations.FloatComparesAndNaNs : Prop :=
  (
  (∀ k n a b, LaneFpFlagResult (.fcmp k n a b) n (fun _ _ w l =>
    fpCmp k fmtF32 (w.rdL l a).toNat (w.rdL l b).toNat)) ∧
  (∀ k n a b, LaneFpFlagResult (.dcmp k n a b) n (fun _ _ w l =>
    fpCmp k fmtF64 (w.rdL64 l a).toNat (w.rdL64 l b).toNat)) ∧
  (∀ k n a b, LaneFpFlagResult (.wideForm (.fcmp k n a b)) n (fun s c w l =>
    fpCmp k fmtF32 (w.rdL l a).toNat (loW (srcLU s c w l false b)).toNat)) ∧
  (∀ k n a b, LaneFpFlagResult (.wideForm (.dcmp k n a b)) n (fun s c w l =>
    fpCmp k fmtF64 (w.rdL64 l a).toNat (srcLU s c w l true b).toNat)) ∧
  (∀ k (f : Fmt) a b, (fpCmp k f a b).2 =
    if (fpRead f a).isSig ∨ (fpRead f b).isSig then fNV else 0) ∧
  (∀ k (f : Fmt) a b, ((fpRead f a).isNan = true ∨ (fpRead f b).isNan = true) →
    (fpCmp k f a b).1 = (k == .ne || k == .nan)) ∧
  (∀ (f : Fmt) a b, (fpCmp .eq f a b).1 = (fpCmp .eq f b a).1 ∧
    (fpCmp .lt f a b).1 = (fpCmp .gt f b a).1 ∧ (fpCmp .le f a b).1 = (fpCmp .ge f b a).1) ∧
  (fpCmp .eq fmtF32 0 0x80000000).1 = true ∧ (fpCmp .lt fmtF32 0x80000000 0).1 = false) ∧
  (
  (fmtF16.nan = 0x7E00 ∧ fmtBf16.nan = 0x7FC0 ∧ fmtF32.nan = 0x7FC00000 ∧
    fmtF64.nan = 0x7FF8000000000000) ∧
  (∀ (f : Fmt) rnd a b, ((fpRead f a).isNan = true ∨ (fpRead f b).isNan = true) →
    ∀ r ∈ [fpAdd f rnd a b, fpSub f rnd a b, fpMul f rnd a b],
      r = (f.nan, if (fpRead f a).isSig ∨ (fpRead f b).isSig then fNV else 0)) ∧
  (∀ (f : Fmt) rnd a b n, fpRead f a = .inf n → fpRead f b = .inf (!n) →
    fpAdd f rnd a b = (f.nan, fNV)) ∧
  (∀ (f : Fmt) rnd a b n, fpRead f a = .inf n → fpRead f b = .inf n →
    fpSub f rnd a b = (f.nan, fNV)) ∧
  (∀ (f : Fmt) rnd a b n m, fpRead f a = .inf n → fpRead f b = .zer m →
    fpMul f rnd a b = (f.nan, fNV) ∧ fpMul f rnd b a = (f.nan, fNV) ∧
    ∀ e, fpFma f rnd a b e = (f.nan, fNV) ∧ fpFma f rnd b a e = (f.nan, fNV)) ∧
  (∀ (f : Fmt) rnd a b e, ((fpRead f a).isNan = true ∨ (fpRead f b).isNan = true ∨
      (fpRead f e).isNan = true) → (fpFma f rnd a b e).1 = f.nan) ∧
  (∀ mx (f : Fmt) a b, (fpRead f a).isNan = true →
    fpMinMax mx f a b = (if (fpRead f b).isNan then f.nan else b,
      if (fpRead f a).isSig ∨ (fpRead f b).isSig then fNV else 0) ∧
    fpMinMax mx f b a = (if (fpRead f b).isNan then f.nan else b,
      if (fpRead f a).isSig ∨ (fpRead f b).isSig then fNV else 0)))

/-- The special operands of MFN (05 R110): encodings of binary32, the result and the flags. -/
def Obligations.MfnSpecialOperands : Prop :=
  let pz := 0; let nz := 0x80000000; let pinf := 0x7F800000; let ninf := 0xFF800000
  let nan := 0x7FC00000; let one := 0x3F800000
  (∀ fn x, x < 2 ^ 32 → pinf < x % 2 ^ 31 →
    mfnAlu fn x = (nan, if x / 2 ^ 22 % 2 = 1 then 0 else fNV)) ∧
  (mfnAlu .rcp pz = (pinf, fDZ) ∧ mfnAlu .rcp nz = (ninf, fDZ) ∧
    mfnAlu .rcp pinf = (pz, 0) ∧ mfnAlu .rcp ninf = (nz, 0)) ∧
  (mfnAlu .rsq pz = (pinf, fDZ) ∧ mfnAlu .rsq nz = (ninf, fDZ) ∧ mfnAlu .rsq pinf = (pz, 0)) ∧
  (mfnAlu .sqrt pz = (pz, 0) ∧ mfnAlu .sqrt nz = (nz, 0) ∧ mfnAlu .sqrt pinf = (pinf, 0)) ∧
  (mfnAlu .ex2 ninf = (pz, 0) ∧ mfnAlu .ex2 pinf = (pinf, 0)) ∧
  (mfnAlu .lg2 pz = (ninf, fDZ) ∧ mfnAlu .lg2 nz = (ninf, fDZ) ∧ mfnAlu .lg2 pinf = (pinf, 0) ∧
    mfnAlu .lg2 one = (pz, 0)) ∧
  (∀ fn x, (fn = .rsq ∨ fn = .sqrt ∨ fn = .lg2) → nz < x → x ≤ ninf →
    mfnAlu fn x = (nan, fNV)) ∧
  (mfnAlu .sinpi pz = (pz, 0) ∧ mfnAlu .sinpi nz = (nz, 0) ∧ mfnAlu .sinpi pinf = (nan, fNV) ∧
    mfnAlu .sinpi ninf = (nan, fNV)) ∧
  (∀ x neg m e, fpRead fmtF32 x = .fin neg m e → (0 ≤ e ∨ 2 ^ (-e).toNat ∣ m) →
    mfnAlu .sinpi x = (if neg then nz else pz, 0)) ∧
  (∀ x neg m e, fpRead fmtF32 x = .fin neg m e → e < 0 →
    m % 2 ^ (-e).toNat = 2 ^ ((-e).toNat - 1) → mfnAlu .cospi x = (pz, 0)) ∧
  (mfnAlu .cospi pz = (one, 0) ∧ mfnAlu .cospi nz = (one, 0) ∧ mfnAlu .cospi pinf = (nan, fNV) ∧
    mfnAlu .cospi ninf = (nan, fNV)) ∧
  (mfnAlu .tanh pz = (pz, 0) ∧ mfnAlu .tanh nz = (nz, 0) ∧ mfnAlu .tanh pinf = (one, 0) ∧
    mfnAlu .tanh ninf = (0xBF800000, 0))

/-- SHFL, VOTE and MATCH within the executing lane's partition tile (04 R93, R94; 17 R382; 18 R405, R416). -/
def Obligations.ShufflesAndVotes : Prop :=
  let first (w : Warp) (l : Nat) : Nat := l - l % w.tile
  let counted (c : Ctx) (w : Warp) (l k : Nat) : Bool :=
    c.mask.getLsbD k && decide (first w l ≤ k) && decide (k < first w l + w.tile)
  let isBallot (c : Ctx) (w : Warp) (l : Nat) (p : Nat → Bool) (x : DWord) : Prop :=
    ∀ j, x.getLsbD j = (decide (j < w.tile) && counted c w l (first w l + j) && p (first w l + j))
  (∀ mode wd d a k f s c w, Issues (.shfl mode wd d a k f) s c w → 0 < w.tile → ∃ t,
    exec (.shfl mode wd d a k f) s = .next t ∧
    let src (l : Nat) : Nat :=
      let kk := (match k with
        | .imm v => v.setWidth 32
        | .reg r => w.rdL l r
        | .uni u => s.rdU c u)
      let i := BitVec.ofNat 32 (l - first w l)
      let n := BitVec.ofNat 32 w.tile
      first w l + (match mode with
        | .at => kk
        | .rot => i + kk
        | .flip => i ^^^ kk
        | .rev => n - 1 - i + kk).toNat % w.tile
    let live (l : Nat) : Bool := (w.lane (src l)).st == .live
    LaneDone c s t w
      (fun l => dstRegs d wd.is64 (if live l then w.rdW (src l) wd.is64 a else 0))
      (fun l y => Lane.follow c (match f with
        | none => y
        | some n => { y with f := putFlag n.val (live l) y.f }))) ∧
  (∀ neg d fd a s c w, Issues (.vote .ballot neg d fd a) s c w → w.tile ≤ 32 → ∃ t x,
    exec (.vote .ballot neg d fd a) s = .next t ∧ LaneWrites c s t w false d x ∧
    ∀ l, isBallot c w l (fun k => (w.lane k).f.getLsbD a.val != neg) (x l)) ∧
  (∀ mode neg d fd a s c w, mode ≠ .ballot → Issues (.vote mode neg d fd a) s c w → ∃ t b,
    exec (.vote mode neg d fd a) s = .next t ∧ LaneFlags c s t w fd b ∧
    ∀ l, b l = true ↔ (match mode with
      | .any => ∃ k, counted c w l k = true ∧ (w.lane k).f.getLsbD a.val ≠ neg
      | .all => ∀ k, counted c w l k = true → (w.lane k).f.getLsbD a.val ≠ neg
      | _ => ∀ k, counted c w l k = true →
          (w.lane k).f.getLsbD a.val = (w.lane l).f.getLsbD a.val)) ∧
  (∀ wd all d a s c w, Issues (.matchLanes wd all d a) s c w → w.tile ≤ 32 → ∃ t x,
    exec (.matchLanes wd all d a) s = .next t ∧ LaneWrites c s t w false d x ∧
    ∀ l, let eq (k : Nat) : Bool := w.rdW k wd.is64 a == w.rdW l wd.is64 a
      if all then
        (((∀ k, counted c w l k = true → eq k = true) → isBallot c w l (fun _ => true) (x l)) ∧
          ((¬ ∀ k, counted c w l k = true → eq k = true) → x l = 0))
      else isBallot c w l eq (x l))

/-- REDX and SCAN (05 R118, R119; 18 R400): the lane's tile, its positions in order, and the tree. -/
def Obligations.ReductionsAndScans : Prop :=
  let wide (ty : RTy) : Bool := ty == .s64 || ty == .z64 || ty == .f64
  let ident (op : ROp) (ty : RTy) : DWord :=
    match op, ty with
    | .min, .s32 => 0x7FFFFFFF
    | .min, .z32 => 0xFFFFFFFF
    | .min, .s64 => 0x7FFFFFFFFFFFFFFF
    | .min, .z64 => 0xFFFFFFFFFFFFFFFF
    | .min, .f32 => 0x7F800000
    | .min, .f64 => 0x7FF0000000000000
    | .max, .s32 => 0xFFFFFFFF80000000
    | .max, .s64 => 0x8000000000000000
    | .max, .f32 => 0xFF800000
    | .max, .f64 => 0xFFF0000000000000
    | .add, .f32 => 0x80000000
    | .add, .f64 => 0x8000000000000000
    | .and, .s32 | .and, .z32 | .and, .s64 | .and, .z64 => 0xFFFFFFFFFFFFFFFF
    | _, _ => 0
  let place (c : Ctx) (w : Warp) (op : ROp) (ty : RTy) (a : LSpec) (l : Nat) : List DWord :=
    (List.range w.tile).map (fun k =>
      let j := l / w.tile * w.tile + k
      if c.mask.getLsbD j then w.rdW j (wide ty) a else ident op ty)
  let same (ty : RTy) (x y : DWord) : Prop := if wide ty then x = y else x.setWidth 32 = y.setWidth 32
  (∀ op ty sat d a, (ty.isFloat = true → op = .add ∨ op = .min ∨ op = .max) →
    LaneFpResult (.redx op ty sat d a) (wide ty) d (fun _ c w l =>
      treeReduce op ty sat (Nat.log2 w.tile) (place c w op ty a l) 0)) ∧
  (∀ op ty sat exc d a, (ty.isFloat = true → op = .add ∨ op = .min ∨ op = .max) →
    LaneFpResult (.scan op ty sat exc d a) (wide ty) d (fun _ c w l =>
      let r := treeScan op ty sat (Nat.log2 w.tile) 1 (place c w op ty a l) 0
      let i := l % w.tile
      (if exc then (if i = 0 then ident op ty else r.1.getD (i - 1) 0) else r.1.getD i 0, r.2))) ∧
  (∀ ty n (xs : List DWord) fl, ty.isFloat = false → xs.length = 2 ^ n →
    ∃ y, treeReduce .add ty false n xs fl = (y, fl) ∧ same ty y xs.sum) ∧
  (∀ op ty sat x fl, ty.isFloat = false →
    ∃ y z, ropNode op ty sat x (ident op ty) fl = (y, fl) ∧ ropNode op ty sat (ident op ty) x fl = (z, fl) ∧
      same ty y x ∧ same ty z x)

/-- SXPK and SXUPK over the aligned halves of a warp (05 R112 to R114; 18 R411). -/
def Obligations.SharedExponentBlocks : Prop :=
  let half (l : Nat) : Nat := l - l % 16
  let held (w : Warp) (a : LSpec) (k : Nat) : Word :=
    if (w.lane k).st == .live then w.rdL k a else 0
  let bits (f : SxFmt) : Nat := match f with | .sx7 => 7 | .sx4 => 4 | .sx2 => 2
  (∀ i fmt d a, (i = .sxpk fmt d a ∨ i = .wideForm (.sxpk fmt d a)) →
    LaneFpResult i false d (fun _ _ w l =>
      let r := sxEncode (bits fmt) ((List.range 16).map (fun j => (held w a (half l + j)).toNat))
      ((BitVec.ofNat 512 r.1).extractLsb' (32 * (l % 16)) 32 |>.setWidth 64, r.2))) ∧
  (∀ i fmt d a, (i = .sxupk fmt d a ∨ i = .wideForm (.sxupk fmt d a)) →
    LaneResult i false d (fun _ _ w l =>
      let blk := held w a (half l + 4) ++ held w a (half l + 3) ++ held w a (half l + 2) ++
        held w a (half l + 1) ++ held w a (half l)
      BitVec.ofNat 64 (sxDecode (bits fmt) blk.toNat (l % 16))))

/-- RDS (02 R46; 04 R99; 18 R398, R399). %clock is read in 160ths of a cycle, each read within 100 parts per
million of the cores' rate since the last (log entry 42). -/
def Obligations.SpecialValues : Prop :=
  (∀ d, LaneResult (.rds d .lane) false d (fun _ _ w l =>
    BitVec.ofNat 64 (if w.g16 then l % 16 else l))) ∧
  (∀ d, LaneResult (.rds d .warp) false d (fun s c w l => if (s.launchOf c.wid).isSome then
    BitVec.ofNat 64 ((if w.g16 then 2 * w.num + l / 16 else w.num) % 2 ^ 32) else 0)) ∧
  (∀ d, LaneResult (.rds d .tid) false d (fun _ _ w l => BitVec.ofNat 64
    (if w.g16 then 16 * (2 * w.num + l / 16) + l % 16 else 32 * w.num + l))) ∧
  (∀ d s c w b L, s.block (blkOf c.wid) = some b → s.launch b.launch = some L →
    let v (sp : Special) (x : Nat) : Prop := Issues (.rds d sp) s c w →
      ∃ t, exec (.rds d sp) s = .next t ∧ LaneWrites c s t w (sp == .launch) d
        (fun _ => BitVec.ofNat 64 (if sp == .launch then x else x % 2 ^ 32))
    v .block (b.cluster * L.clSize + b.rank) ∧ v .cluster b.cluster ∧ v .clusterrank b.rank ∧
    v .launch L.id ∧ v .role w.role ∧ v .core b.core ∧ v .part w.tile ∧ v .gang w.gang.toNat) ∧
  (∀ d, LaneResult (.rds d .gtime) true d (fun s _ _ _ => BitVec.ofNat 64 s.gtime)) ∧
  (∀ d s c w, Issues (.rds d .clock) s c w →
    let now := s.clkCount + 11 * s.clkRate * (s.gtime - s.clkSince)
    let dt := now - (s.core c.core).clockAt
    let old := (s.core c.core).clock
    ∃ t s1 k, exec (.rds d .clock) s = .next t ∧ old + dt ≤ k + dt / 10000 ∧ k ≤ old + dt + dt / 10000 ∧
      s1 = State.modCore c.core (fun x => { x with clock := k, clockAt := now }) { s with fresh := s.fresh + 1 } ∧
      LaneWrites c s1 t w true d (fun _ => BitVec.ofNat 64 (k / 160)))

/-- BRA, UBRA, BRX, CALL and RET (04 R87; 16 R340, R342, R343; 18 R402, R415). -/
def Obligations.Branches : Prop :=
  let taken (b : Bool) (t : DWord) : Option DWord := if b then some t else none
  let rel (c : Ctx) (imm : BitVec 25) : DWord := c.pc + 4 * imm.signExtend 64
  (∀ cond imm s c w, Issues (.bra cond imm) s c w → ∃ t, exec (.bra cond imm) s = .next t ∧
    LaneDone c s t w (fun _ _ => none) (fun l => Lane.leave c (taken (match cond with
      | .always => true
      | .flag n => (w.lane l).f.getLsbD n.val
      | .notFlag n => !(w.lane l).f.getLsbD n.val) (rel c imm)))) ∧
  (∀ cond imm s c w, Issues (.ubra cond imm) s c w → ∃ t, exec (.ubra cond imm) s = .next t ∧
    LaneDone c s t w (fun _ _ => none) (fun _ => Lane.leave c (taken (match cond with
      | .always => true
      | .flag n => w.rdG (lowLane c.mask) n.val
      | .notFlag n => !w.rdG (lowLane c.mask) n.val) (rel c imm)))) ∧
  (∀ r a s c w, Issues (.brx r a) s c w →
    let tgt (l : Nat) : DWord := if r then c.pc + (w.rdL l a).signExtend 64 else w.rdL64 l a
    (∀ l, l < 32 → c.mask.getLsbD l = true → (tgt l).toNat < 2 ^ 55) →
    ∃ t, exec (.brx r a) s = .next t ∧
      LaneDone c s t w (fun _ _ => none) (fun l => Lane.leave c (some (tgt l)))) ∧
  (∀ a s c w, Issues (.ret a) s c w →
    (∀ l, l < 32 → c.mask.getLsbD l = true → (w.rdL64 l a).toNat < 2 ^ 55) →
    ∃ t, exec (.ret a) s = .next t ∧
      LaneDone c s t w (fun _ _ => none) (fun l => Lane.leave c (some (w.rdL64 l a)))) ∧
  (∀ d a ind imm s c w, Issues (.call d a ind imm) s c w →
    let tgt (l : Nat) : DWord := if ind then w.rdL64 l a else rel c imm
    (∀ l, l < 32 → c.mask.getLsbD l = true → (tgt l).toNat < 2 ^ 55) →
    ∃ t, exec (.call d a ind imm) s = .next t ∧
      LaneDone c s t w (fun _ => dstRegs d true c.nxt) (fun l => Lane.leave c (some (tgt l))))

/-- NOP, HINT, PREF, PART, YIELD, FENCE, and BKPT at which its lanes have been resumed (08 R191; 14 R306;
15 R325; 16 R339; 18 R390, R391, R393, R421). -/
def Obligations.QuietInstructions : Prop :=
  let stepped (w w' : Warp) (c : Ctx) : Prop :=
    ∀ l, l < 32 → w'.lane l = if c.mask.getLsbD l then Lane.follow c (w.lane l) else w.lane l
  (∀ i s c w, Issues i s c w → (i = .nop ∨ (∃ u op hd d p m, i = .hint u op hd d p m) ∨
      (i = .bkpt ∧ ∀ l, l < 32 → c.mask.getLsbD l = true → (w.lane l).bkpt = some c.pc)) →
    ∃ t, exec i s = .next t ∧ LaneDone c s t w (fun _ _ => none) (fun _ => Lane.follow c)) ∧
  (∀ a b sc h lo imm s c w, Issues (.pref a b sc h lo imm) s c w →
    ∃ t s1, exec (.pref a b sc h lo imm) s = .next t ∧ Loaded s s1 ∧
      LaneDone c s1 t w (fun _ _ => none) (fun _ => Lane.follow c) ∧
      (lo ≠ 0 ∨ b.val % 2 = 1 → s1 = s) ∧ (h = true → ∀ k, s1.core k = s.core k) ∧
      ∀ m l p, prefOp w (lowLane c.mask) a b sc lo = some m → l < 32 → c.mask.getLsbD l = true →
        s.translate c.core (s.asidOf c.wid) (MemOp.addr s c w l m (imm.signExtend 64)).toNat .read
          (c.inHandler || c.inGraft) = .ok p →
        s.leasable (p.loc / 128) = true →
        (tget (p.loc / 128) s1.lines).isSome = true ∧
        (h = false → ∃ x ∈ (s1.core c.core).l1, x.line = p.loc / 128)) ∧
  (∀ s c w, Issues .yield s c w → ∃ t w', exec .yield s = .next t ∧ RestKept c.wid c.core s t ∧
    t.warp c.wid = some w' ∧ w'.yielded = true ∧ stepped w w' c ∧
    { w' with yielded := w.yielded, lanes := w.lanes, producers := w.producers,
              lastRun := w.lastRun, lastYield := w.lastYield } = w) ∧
  (∀ (k : Fin 8) s c w, Issues (.part k) s c w → ¬ (w.g16 = true ∧ k = 5) →
    ∃ t w', exec (.part k) s = .next t ∧ RestKept c.wid c.core s t ∧
    t.warp c.wid = some w' ∧ w'.tile = 2 ^ k.val ∧ stepped w w' c ∧
    { w' with tile := w.tile, lanes := w.lanes, producers := w.producers,
              lastRun := w.lastRun, lastYield := w.lastYield } = w) ∧
  (∀ ord sc s c w, Issues (.fence ord sc) s c w →
    (ordRel ord = true → s.released c.core c.wid c.mask sc = true ∧
      ∀ x ∈ s.lost, ¬ (x.wid = c.wid ∧ c.mask.getLsbD x.lane = true)) →
    ∃ t s1, exec (.fence ord sc) s = .next t ∧
      s1 = (if ordAcq ord then acquired c.core c.wid sc s else s) ∧
      LaneDone c s1 t w (fun _ _ => none) (fun _ => Lane.follow c))

/-- JARM, JDROP and JWAIT (04 R88, R89, R99; 17 R372, R373). -/
def Obligations.RejoinMasks : Prop :=
  let halves (w : Warp) : List Mask := if w.g16 then [0xFFFF, 0xFFFF0000] else [0xFFFFFFFF]
  let freed (w : Warp) (out wait : Mask) : Mask :=
    (halves w).foldl (fun m h => if out &&& h = 0 then m ||| (wait &&& h) else m) 0
  let own (w : Warp) (c : Ctx) : Mask :=
    if w.g16 then (if lowLane c.mask < 16 then 0xFFFF else 0xFFFF0000) else 0xFFFFFFFF
  let upd (w w' : Warp) (n : Fin 16) (out wait : Mask) (lanes : Nat → Lane → Lane) : Prop :=
    let rel := freed w out wait
    (∀ k, k < 16 → w'.jOut.getD k 0 = if k = n.val then out else w.jOut.getD k 0) ∧
    (∀ k, k < 16 → w'.jWait.getD k 0 = if k = n.val then wait &&& ~~~rel else w.jWait.getD k 0) ∧
    (∀ l, l < 32 → w'.lane l = lanes l (w.lane l)) ∧
    { w' with jOut := w.jOut, jWait := w.jWait, lanes := w.lanes, producers := w.producers,
              lastRun := w.lastRun, lastYield := w.lastYield, waits := w.waits } = w
  let rj (b : Bool) (y : Lane) : Lane := if b then { y with pc := y.nxt, run := none } else y
  let fits (w : Warp) : Prop := w.lanes.length = 32
  (∀ n m s c w, Issues (.jarm n m) s c w → fits w → ¬ (w.g16 = true ∧ ∃ i, m = .high i) →
    ∃ t w', exec (.jarm n m) s = .next t ∧ RestKept c.wid c.core s t ∧ t.warp c.wid = some w' ∧
    let at0 (x : Word) : Mask := if w.g16 then
      (x.setWidth 16).setWidth 32 <<< (if lowLane c.mask < 16 then 0 else 16) else x
    let M := (match m with
      | .uni b => at0 (s.rdU c b)
      | .low i => at0 (i.setWidth 32)
      | .high i => i.setWidth 32 <<< 16
      | .all => at0 0xFFFFFFFF)
    let wait := w.jWait.getD n.val 0
    let out := (w.jOut.getD n.val 0 &&& ~~~(own w c)) ||| (M &&& w.live &&& ~~~wait &&& own w c)
    w'.waits = w.waits ∧ upd w w' n out wait (fun l y =>
      let y := rj ((freed w out wait).getLsbD l) y
      if c.mask.getLsbD l then Lane.follow c y else y)) ∧
  (∀ n s c w, Issues (.jdrop n) s c w → fits w → ∃ t w', exec (.jdrop n) s = .next t ∧
    RestKept c.wid c.core s t ∧ t.warp c.wid = some w' ∧
    let wait := w.jWait.getD n.val 0
    let out := w.jOut.getD n.val 0 &&& ~~~c.mask
    w'.waits = w.waits ∧ upd w w' n out wait (fun l y =>
      let y := rj ((freed w out wait).getLsbD l) y
      if c.mask.getLsbD l then Lane.follow c y else y)) ∧
  (∀ n s c w, Issues (.jwait n) s c w → fits w →
    (∃ l, l < 32 ∧ (w.lane l).st = .live ∧ c.mask.getLsbD l = false ∧
      ∀ k, k < w.jWait.length → (w.jWait.getD k 0).getLsbD l = false) →
    ∃ t w', exec (.jwait n) s = .next t ∧ RestKept c.wid c.core s t ∧ t.warp c.wid = some w' ∧
    let wait := w.jWait.getD n.val 0 ||| c.mask
    let out := w.jOut.getD n.val 0 &&& ~~~c.mask
    upd w w' n out wait (fun l y => rj ((freed w out wait).getLsbD l)
      (if c.mask.getLsbD l then
        { y with words := recWords c.words, retry := 0, bkpt := none } else y)))

/-- HRET outside handler mode, GRET outside graft mode, and WRCTL of %lwct, %mismatch, %graftgen,
%capbase, %asid or %ctxsave raise PRIVILEGE as a group fault with no other effect (10 R229). -/
def Obligations.PrivilegeFaults : Prop :=
  let priv : State → Ctx → Warp → FaultInfo := fun _ _ _ => { code := 0x11 }
  (∀ t, TrapsWith (.hret t) priv (fun _ c _ => c.inHandler = false)) ∧
  (∀ t, TrapsWith (.gret t) priv (fun _ c _ => c.inGraft = false)) ∧
  (∀ r a, r ∈ [CtlReg.lwct, .mismatch, .graftgen, .capbase, .asid, .ctxsave] →
    TrapsWith (.wrctl r a) priv (fun _ _ _ => True))

/-- What 14 R304 and 04 R87 forbid raises ILLEGAL_ENCODING as a group fault, with no other effect.

Instructions whose effect is a fault of their group (10 R219; 11 R261; 15 R326; 16 R339, R342, R343; 17 R372,
R374; 18 R391, R401, R402). -/
def Obligations.InstructionFaults : Prop :=
  (
  ∀ i s c w b L, isEvent i = false → s.ctx? = some c → s.warp c.wid = some w → c.tag = none →
    Going s c.wid → s.block (blkOf c.wid) = some b → s.launch b.launch = some L →
    TrapReady { code := 0x02 } s c w →
    (i.wf = false ∨
      (∃ u ∈ (regUse i).1 ++ (regUse i).2, u.uset = false ∧ u.code < 112 ∧
        (∃ k, k < u.n ∧ w.vregs ≤ u.code + k) ∧ w.inGraft (lowLane c.mask) = false) ∨
      (∃ u ∈ (regUse i).1 ++ (regUse i).2, u.uset = true ∧ u.code < 112 ∧
        (∃ k, k < u.n ∧ w.sregs ≤ u.code + k) ∧ w.inGraft (lowLane c.mask) = false ∧
        w.inHandler (lowLane c.mask) = false) ∨
      (endsRun i = true ∧ c.last = false)) →
    ∃ t, exec i s = .next t ∧ GroupTrap { code := 0x02 } c b L s t w) ∧
  (
  let code (k : BitVec 8) : State → Ctx → Warp → FaultInfo := fun _ _ _ => { code := k }
  let all (c : Ctx) (p : Nat → Prop) : Prop := ∀ l, l < 32 → c.mask.getLsbD l = true → p l
  TrapsWith .bkpt (code 0x15) (fun _ c w => all c (fun l => (w.lane l).bkpt ≠ some c.pc)) ∧
  (∀ k f lo s0 s1, TrapsWith (.succ k f lo s0 s1) (code 0x01) (fun _ _ _ => True)) ∧
  (∀ r a, TrapsWith (.wrctl r a) (code 0x02) (fun s c _ =>
    (r = .trapbase ∧ s.rdU64 c a &&& 0xFF80000000000002 ≠ 0) ∨
    (r = .grovebase ∧ s.rdU64 c a &&& 0xFF800000000001FE ≠ 0) ∨
    (r = .callq ∧ s.rdU64 c a &&& 0xFF80000000000E0E ≠ 0))) ∧
  (∀ v, TrapsWith (.regshr v) (code 0x02) (fun _ _ w => w.vregs < 8 * v.val)) ∧
  (∀ n i, TrapsWith (.jarm n (.high i)) (code 0x02) (fun _ _ w => w.g16 = true)) ∧
  TrapsWith (.part 5) (code 0x02) (fun _ _ w => w.g16 = true) ∧
  (∀ tail d a, TrapsWith (.launch tail d a) (fun s c _ => { code := 0x04, addr := s.rdU64 c a })
    (fun s c _ => (s.rdU64 c a).toNat % 128 ≠ 0)) ∧
  (∀ a tgt, 2 ^ 55 ≤ tgt.toNat →
    TrapsWith (.brx false a) (fun _ _ _ => { code := 0x03, addr := tgt })
      (fun _ c w => all c (fun l => w.rdL64 l a = tgt)) ∧
    TrapsWith (.brx true a) (fun _ _ _ => { code := 0x03, addr := tgt })
      (fun _ c w => all c (fun l => c.pc + (w.rdL l a).signExtend 64 = tgt)) ∧
    TrapsWith (.ret a) (fun _ _ _ => { code := 0x03, addr := tgt })
      (fun _ c w => all c (fun l => w.rdL64 l a = tgt)) ∧
    ∀ d imm, TrapsWith (.call d a true imm) (fun _ _ _ => { code := 0x03, addr := tgt })
      (fun _ c w => all c (fun l => w.rdL64 l a = tgt))))

/-- HRET and GRET in their modes (10 R228; 11 R253; 17 R366). -/
def Obligations.HandlerAndGraftReturns : Prop :=
  let apart (c : Ctx) (w : Warp) : Prop := ∀ b ∈ w.waits, b.mask ≠ 0 ∧ b.mask &&& c.mask = 0
  let temps (c : Ctx) (w w' : Warp) (ts : Nat → Nat → Word) : Prop :=
    ∀ l n, l < 32 → n < 120 → fget 0 (32 * n + l) w'.v =
      if c.mask.getLsbD l = true ∧ 112 ≤ n then ts l (n - 112) else fget 0 (32 * n + l) w.v
  let place (c : Ctx) (w w' : Warp) (f : Nat → Lane → Lane) : Prop :=
    ∀ l, l < 32 → w'.lane l = if c.mask.getLsbD l then f l (w.lane l) else w.lane l
  let afresh (t : DWord) (_ : Nat) (y : Lane) : Lane :=
    { y with pc := t, run := none, retry := 0, bkpt := none, elem := none }
  let cut (c : Ctx) (m : Mask) : Option Mask :=
    if m &&& ~~~c.mask = 0 then none else some (m &&& ~~~c.mask)
  let keep (w w' : Warp) : Prop :=
    { w' with v := w.v, lanes := w.lanes, handler := w.handler, graft := w.graft, emul := w.emul,
              producers := w.producers, lastRun := w.lastRun, lastYield := w.lastYield } = w
  (∀ sA s c w h, Issues (.hret sA) s c w → w.handler = some h → c.inHandler = true →
    c.inGraft = false → apart c w →
    ∃ t w', exec (.hret sA) s = .next t ∧ RestKept c.wid c.core s t ∧ t.warp c.wid = some w' ∧
      keep w w' ∧ w'.graft = w.graft ∧ w'.emul = w.emul ∧ w'.handler = (cut c h.mask).map (fun m => { h with mask := m }) ∧
      (match sA with
        | none => temps c w w' (fun l k => fget 0 (32 * k + l) h.temps) ∧
          place c w w' (fun l y =>
            { y with pc := h.pc, run := h.run, nxt := h.nxt, bkpt := some h.pc, retry := 0,
                     gen := h.gen, score := h.score, elem := tget l h.elems })
        | some u => temps c w w' (fun _ _ => 0) ∧ place c w w' (afresh (s.rdU64 c u)))) ∧
  (∀ u s c w g, Issues (.gret (some u)) s c w → w.graft = some g → c.inGraft = true → apart c w →
    (∀ p ∈ w.parked, ∀ slot gen, p.st ≠ .graftWait slot gen) →
    ∃ t w', exec (.gret (some u)) s = .next t ∧ RestKept c.wid c.core s t ∧
      t.warp c.wid = some w' ∧ keep w w' ∧ w'.handler = w.handler ∧
      w'.graft = (cut c g.mask).map (fun m => { g with mask := m }) ∧
      w'.emul = (if cut c g.mask = none then 0 else w.emul) ∧
      temps c w w' (fun _ _ => 0) ∧ place c w w' (afresh (s.rdU64 c u))) ∧
  (∀ s c w g, Issues (.gret none) s c w → w.graft = some g → c.inGraft = true → apart c w →
    (∀ p ∈ w.parked, ∀ slot gen, p.st ≠ .graftWait slot gen) →
    let d := ((g.words.getD 0 0).toNat / 2 ^ 14) % 128
    let k := if g.ctrl.getLsbD 22 then 2 else 1
    let uni : Bool := g.ctrl.getLsbD 23 && (g.words.getD 0 0).getLsbD 31
    let l0 := lowLane c.mask
    let toL (n : Nat) : Bool := g.ctrl.getLsbD 23 && !(g.words.getD 0 0).getLsbD 31 &&
      decide (d ≤ n ∧ n < d + k ∧ (n < w.vregs ∨ 112 ≤ n))
    let toU (n : Nat) : Bool := uni &&
      decide (d ≤ n ∧ n < d + k ∧ n < 112 ∧ (n < w.sregs ∨ 96 ≤ n ∧ w.inHandler l0 = true))
    ∃ t w', exec (.gret none) s = .next t ∧ RestKept c.wid c.core s t ∧ t.warp c.wid = some w' ∧
      { w' with v := w.v, u := w.u, lanes := w.lanes, handler := w.handler, graft := w.graft, emul := w.emul,
                producers := w.producers, lastRun := w.lastRun, lastYield := w.lastYield } = w ∧
      w'.graft = (cut c g.mask).map (fun m => { g with mask := m }) ∧
      w'.emul = (if cut c g.mask = none then 0 else w.emul) ∧
      (∀ l n, l < 32 → n < 120 → fget 0 (32 * n + l) w'.v =
        if c.mask.getLsbD l then
          if toL n then fget 0 (32 * (6 + (n - d)) + l) g.regs
          else if 112 ≤ n then fget 0 (32 * (n - 112) + l) g.temps
          else fget 0 (32 * n + l) w.v
        else fget 0 (32 * n + l) w.v) ∧
      (∀ n, n < 112 → w'.rdS l0 n =
        if toU n then g.bank.getD (12 + (n - d)) 0 else ({ w with graft := none } : Warp).rdS l0 n) ∧
      (uni = false → w'.u = w.u ∧ w'.handler = w.handler) ∧
      place c w w' (fun _ y => { y with
        pc := if g.atEnd then g.nxt else g.after, run := if g.atEnd then none else g.run,
        nxt := g.nxt, gen := g.gen, score := g.score, retry := 0, bkpt := none, elem := none }))

/-- BAR and CBAR whose participant arrives with this group (04 R95, R96; 08 R194; 16 R336, R337). -/
def Obligations.BarrierArrivals : Prop :=
  let arrive (i : Instr) (cl : Bool) (sc : Scope) (inst : Nat) (count : USrc) : Prop :=
    ∀ s c w b, Issues i s c w → keysRise 0 s.warps = true → s.block (blkOf c.wid) = some b →
    s.released c.core c.wid c.mask sc = true →
    (∀ x ∈ s.lost, ¬ (x.wid = c.wid ∧ c.mask.getLsbD x.lane = true)) →
    inst < (if cl then 4 else b.bars.length) →
    (cl = true → s.clusters.any (fun x => x.launch == b.launch && x.idx == b.cluster) = true) →
    let h := w.half (lowLane c.mask)
    let cnt0 := match count with
      | .imm i => i.toNat
      | .reg u => (s.rdU c u).toNat
    let units := s.barUnits c.wid cl
    let old := s.barrier c.wid cl inst
    let n0 := if old.need = none then (units.filter s.unitLive).length else old.first
    let cnt := if cnt0 = 0 then n0 else cnt0
    w.live &&& w.halfMask h &&& ~~~c.mask = 0 → (∀ x ∈ w.bars, x.half ≠ h) →
    cnt0 ≤ units.length → (old.need = none ∨ old.need = some cnt) →
    ∃ t w', exec i s = .next t ∧ t.warp c.wid = some w' ∧ t.mem = s.mem ∧ t.bar2 = s.bar2 ∧
      (∀ k, (t.core k).scratch = (s.core k).scratch) ∧ w'.v = w.v ∧ w'.u = w.u ∧ w'.g = w.g ∧
      w'.jOut = w.jOut ∧ w'.jWait = w.jWait ∧ w'.w = w.w ∧
      (∀ l, l < 32 → (w'.lane l).f = (w.lane l).f ∧ (w'.lane l).st = (w.lane l).st) ∧
      (old.arrived + 1 ≠ cnt →
        t.barrier c.wid cl inst = { need := some cnt, arrived := old.arrived + 1, first := n0 } ∧
        w'.bars = w.bars ++ [{ half := h, cluster := cl, inst := inst, count := cnt0, mask := c.mask,
                               arrived := true }] ∧
        (∀ l, l < 32 → w'.lane l = if c.mask.getLsbD l then
          { w.lane l with words := recWords c.words, retry := 0, bkpt := none } else w.lane l) ∧
        (∀ k, k ≠ c.wid → t.warp k = s.warp k)) ∧
      (old.arrived + 1 = cnt → t.barrier c.wid cl inst = Barrier.idle ∧
        (∀ l, l < 32 → c.mask.getLsbD l = true →
          (w'.lane l).pc = (w.lane l).nxt ∧ (w'.lane l).run = none) ∧
        (∀ u ∈ s.arrivedUnits c.wid cl inst, ∀ x, s.unitBar cl inst u = some x →
          ∀ v, s.warp u.1 = some v → ∃ v', t.warp u.1 = some v' ∧ ∀ l, l < 32 →
            x.mask.getLsbD l = true → (v.lane l).st = .live →
            (v'.lane l).pc = (v.lane l).nxt ∧ (v'.lane l).run = none) ∧
        (∀ k, k ≠ c.wid → (∀ u ∈ s.arrivedUnits c.wid cl inst, u.1 ≠ k) → t.warp k = s.warp k))
  (∀ (inst : Fin 16) count, arrive (.bar inst count) false .block inst.val count) ∧
  (∀ (inst : Fin 4) count, arrive (.cbar inst count) true .cluster inst.val count)

/-- WSYNC (04 R98; 18 R420) and EXIT (17 R356; 04 R89; 02 R54). -/
def Obligations.WarpSyncAndExit : Prop :=
  let apart (c : Ctx) (w : Warp) : Prop := ∀ b ∈ w.waits, b.mask ≠ 0 ∧ b.mask &&& c.mask = 0
  let quiet (s : State) (c : Ctx) (w : Warp) : Prop :=
    w.bars = [] ∧ w.handler = none ∧ w.graft = none ∧ w.gang = 0 ∧ w.parked = [] ∧
    (∀ x ∈ w.wsync, x.fixed = 0) ∧ (∀ cl inst, (s.barrier c.wid cl inst).need = none)
  (∀ u s c w, Issues (.wsync u) s c w → s.released c.core c.wid c.mask .warp = true →
    (∀ x ∈ s.lost, ¬ (x.wid = c.wid ∧ c.mask.getLsbD x.lane = true)) → apart c w →
    let h := w.half (lowLane c.mask)
    let x := w.wsync.getD h { fixed := 0, arrived := 0 }
    let m : Mask := if w.g16 then (s.rdU c u &&& 0xFFFF) <<< (16 * h) else s.rdU c u
    let fixed := if x.fixed = 0 then m &&& w.live else x.fixed
    m ≠ 0 → m &&& w.live = fixed &&& w.live → c.mask &&& ~~~fixed = 0 →
    let whole : Prop := fixed &&& w.live &&& ~~~(x.arrived ||| c.mask) = 0
    ∃ t w', exec (.wsync u) s = .next t ∧ t.warp c.wid = some w' ∧
      RestKept c.wid c.core (if whole then acquired c.core c.wid .warp s else s) t ∧
      { w' with wsync := w.wsync, lanes := w.lanes, producers := w.producers,
                lastRun := w.lastRun, lastYield := w.lastYield } = w ∧
      (∀ k, k ≠ h → w'.wsync.getD k { fixed := 0, arrived := 0 } =
        w.wsync.getD k { fixed := 0, arrived := 0 }) ∧
      let arr := x.arrived ||| c.mask
      let at0 (l : Nat) : Lane := if c.mask.getLsbD l then
        { w.lane l with words := recWords c.words, retry := 0, bkpt := none } else w.lane l
      if whole then
        w'.wsync.getD h { fixed := 0, arrived := 0 } = { fixed := 0, arrived := 0 } ∧
        ∀ l, l < 32 → w'.lane l = if (arr &&& w.live).getLsbD l then
          { at0 l with pc := (w.lane l).nxt, run := none } else at0 l
      else w'.wsync.getD h { fixed := 0, arrived := 0 } = { fixed := fixed, arrived := arr } ∧
        ∀ l, l < 32 → w'.lane l = at0 l) ∧
  (∀ s c w, Issues .exit s c w → quiet s c w → apart c w →
    (∃ l, l < 32 ∧ (w.lane l).st = .live ∧ c.mask.getLsbD l = false ∧
      ∀ k, k < w.jWait.length → (w.jWait.getD k 0).getLsbD l = false) →
    ∃ t w', exec .exit s = .next t ∧ t.mem = s.mem ∧ t.warp c.wid = some w' ∧
      (∀ k, k ≠ c.wid → t.warp k = s.warp k) ∧ w'.v = w.v ∧ w'.u = w.u ∧ w'.g = w.g ∧
      (∀ l, l < 32 → c.mask.getLsbD l = true → (w'.lane l).st = .exited) ∧
      (∀ l, l < 32 → c.mask.getLsbD l = false → (w'.lane l).st = (w.lane l).st ∧
        ((∀ k, k < 16 → (w.jWait.getD k 0).getLsbD l = false) → w'.lane l = w.lane l)) ∧
      (w.g16 = false → ∀ k, k < 16 → w'.jOut.getD k 0 = w.jOut.getD k 0 &&& ~~~c.mask ∧
        let wait := w.jWait.getD k 0 &&& ~~~c.mask
        w'.jWait.getD k 0 = if w.jOut.getD k 0 &&& ~~~c.mask = 0 then 0 else wait)) ∧
  (∀ s c w b L, Issues .exit s c w → quiet s c w → apart c w → w.live &&& ~~~c.mask = 0 →
    s.block (blkOf c.wid) = some b → b.done = false → s.launch b.launch = some L →
    (∀ k v, s.warp k = some v → blkOf k = blkOf c.wid → k ≠ c.wid → v.live = 0) →
    ∃ t, exec .exit s = .next t ∧ t.mem = s.mem ∧
      (∀ k, blkOf k = blkOf c.wid → t.warp k = none) ∧
      (∀ k, blkOf k ≠ blkOf c.wid → t.warp k = s.warp k) ∧
      ∃ L', t.launch b.launch = some L' ∧ L'.blocksLeft = L.blocksLeft - 1 ∧
        L'.stage = (if L.blocksLeft - 1 = 0 then .ending else L.stage) ∧
        L'.blocksExited = if b.stopping then L.blocksExited
          else min (L.blocksExited + 1) (2 ^ 32 - 1))

/-- LD in every space and of every type (17 R376, R377; 01 R17, R19; 08 R183, R188, R189). -/
def Obligations.Loads : Prop :=
  ∀ strong acq ty sc m d imm s c w (ps : Nat → List Piece),
  Issues (.ld strong acq ty sc m d imm) s c w → NoStores s c →
  let n := (match ty with | .z8 | .s8 => 1 | .z16 | .s16 => 2 | .b32 => 4 | .b64 => 8 | .b128 => 16)
  (∀ l, l < 32 → c.mask.getLsbD l = true →
    s.reach c l m.space (MemOp.addr s c w l m (imm.signExtend 64)) n .read = .ok (ps l) ∧
    ∀ p ∈ ps l, p.clean s c (strong || acq)) →
  ∃ t s0 s1, exec (.ld strong acq ty sc m d imm) s = .next t ∧ Loaded s s0 ∧
    s1 = (if acq then acquired c.core c.wid (effScope m.space (sc.getD .pkg)) s0 else s0) ∧
    LaneDone c s1 t w (fun l => wordRegs d (
      let bs := (ps l).flatMap (fun p => p.bytes s c (strong || acq))
      match ty with
      | .z8 | .z16 | .b32 => [BitVec.ofNat 32 (leNat bs)]
      | .s8 => [(BitVec.ofNat 8 (leNat bs)).signExtend 32]
      | .s16 => [(BitVec.ofNat 16 (leNat bs)).signExtend 32]
      | .b64 => (List.range 2).map (fun k => BitVec.ofNat 32 (leNat ((bs.drop (4 * k)).take 4)))
      | .b128 => (List.range 4).map (fun k => BitVec.ofNat 32 (leNat ((bs.drop (4 * k)).take 4)))))
      (fun _ => Lane.follow c)

/-- ST (18 R408 to R410; 01 R9; 08 R179, R184, R185). -/
def Obligations.Stores : Prop :=
  ∀ strong rel ty sc m d imm s c w (ps : Nat → List Piece),
  Issues (.st strong rel ty sc m d imm) s c w →
  (rel = true → s.released c.core c.wid c.mask (effScope m.space (sc.getD .pkg)) = true ∧
    ∀ x ∈ s.lost, ¬ (x.wid = c.wid ∧ c.mask.getLsbD x.lane = true)) →
  let n := (match ty with | .b8 => 1 | .b16 => 2 | .b32 => 4 | .b64 => 8 | .b128 => 16)
  let data (l : Nat) : List Byte :=
    ((List.range 4).flatMap (fun k => natLe 4 (w.rdL l (LSpec.plus d k)).toNat)).take n
  (∀ l, l < 32 → c.mask.getLsbD l = true →
    s.reach c l m.space (MemOp.addr s c w l m (imm.signExtend 64)) n .write = .ok (ps l) ∧
    ∀ p ∈ ps l, ∀ ph, p.place = .glob ph → s.writeDropped ph.loc = false) →
  let cut : Nat → List Piece → List Byte → List (Nat × Nat × List Byte) :=
    fun l qs bs => (qs.foldl (fun (a : List (Nat × Nat × List Byte) × List Byte) p =>
      (a.1 ++ p.place.key.toList.map (fun k => (l, k, a.2.take p.n)), a.2.drop p.n)) ([], bs)).1
  let all := (lanesOf c.mask).flatMap (fun l => cut l (ps l) (data l))
  ∃ (t : State) (es : List SqEntry) (s1 : State), exec (.st strong rel ty sc m d imm) s = .next t ∧
    (es.map SqEntry.line).Nodup ∧
    (∀ e ∈ es, e.wid = c.wid ∧ e.strong = (strong || rel) ∧ e.gwct = none ∧
      e.asid = s.asidOf c.wid ∧ e.launch = ((s.block (blkOf c.wid)).map Block.launch).getD 0 ∧
      e.writes = all.filter (fun x => x.2.1 / 128 == e.line)) ∧
    (∀ x ∈ all, ∃ e ∈ es, e.line = x.2.1 / 128) ∧
    (es.map SqEntry.id) = (List.range es.length).map (fun k => (s.core c.core).nextSq + k) ∧
    s1 = s.modCore c.core (fun k =>
      { k with sq := k.sq ++ es, nextSq := k.nextSq + es.length, out := (s1.core c.core).out }) ∧
    unmarked (s1.core c.core).out = unmarked (s.core c.core).out ∧
    (∀ e ∈ (s1.core c.core).out, e.2.wid = c.wid → e.2.ran = true →
      readsMeet (touches ((lanesOf c.mask).map (fun l => (l, ps l)))) e.2.reads = false) ∧
    LaneDone c s1 t w (fun _ _ => none) (fun _ => Lane.follow c)

/-- ATOM and RED on global memory (16 R331 to R335; 08 R195). -/
def Obligations.Atomics : Prop :=
  let flt (op : AOp) (f : Fmt) (x y : Nat) : Nat :=
    match op with
    | .min => (fpMinMax false f x y).1
    | .max => (fpMinMax true f x y).1
    | _ => (fpAdd f .rn x y).1
  let pack (op : AOp) (f : Fmt) (x y : Nat) : Nat :=
    flt op f (x % 65536) (y % 65536) +
      65536 * flt op f (x / 65536 % 65536) (y / 65536 % 65536)
  let result (op : AOp) (ty : ATy) (x y e : Nat) : Option Nat :=
    let bits := if ty.wide64 then 64 else 32
    let v (z : Nat) : Int :=
      if ty = .s32 ∨ ty = .s64 then (BitVec.ofNat bits z).toInt else ((z % 2 ^ bits : Nat) : Int)
    match op, ty with
    | .exch, _ => some y
    | .cas, _ => if x = e then some y else none
    | .and, _ => some (x &&& y)
    | .or, _ => some (x ||| y)
    | .xor, _ => some (x ^^^ y)
    | op, .f32 => some (flt op fmtF32 x y)
    | op, .f16 => some (pack op fmtF16 x y)
    | op, .bf16 => some (pack op fmtBf16 x y)
    | .min, _ => some (if v y < v x then y else x)
    | .max, _ => some (if v x < v y then y else x)
    | .add, _ => some ((x + y) % 2 ^ bits)
  let run (locs : Nat → Nat) (n : Nat) (f : Nat → Nat → Option Nat) (m : Mask) (mem : FMap Byte) :
      FMap Byte × List (Nat × Nat) :=
    (lanesOf m).foldl (fun (a : FMap Byte × List (Nat × Nat)) l =>
      let x := leNat (rdFMap a.1 (locs l) n)
      (((f l x).map (fun y => wrMem (locs l) (natLe n y) a.1)).getD a.1, a.2 ++ [(l, x)])) (mem, [])
  let ready (i : Instr) (ty : ATy) (ord : Ord4) (sc : Scope) (m : MemOp) (s : State) (c : Ctx)
      (w : Warp) (locs : Nat → Nat) : Prop :=
    let n := if ty.wide64 then 8 else 4
    Issues i s c w ∧
    (ordRel ord = true → s.released c.core c.wid c.mask (effScope m.space sc) = true ∧
      ∀ x ∈ s.lost, ¬ (x.wid = c.wid ∧ c.mask.getLsbD x.lane = true)) ∧
    NoStores s c ∧ s.sharers = [] ∧ s.inval = [] ∧
    ∀ l, l < 32 → c.mask.getLsbD l = true → ∃ p ph,
      s.reach c l m.space (MemOp.addr s c w l m 0) n .rw = .ok [p] ∧ p.place = .glob ph ∧
      p.n = n ∧ ph.loc = locs l ∧ ph.loc % n = 0 ∧ s.writeDropped ph.loc = false ∧
      s.poisonedR ph.loc n = false ∧ s.ownLater c.core (ph.loc / 128) = false ∧
      s.lnxHead (ph.loc / 128) = false
  (∀ op ty ord sc m d b e s c w locs, ready (.atom op ty ord sc m d b e) ty ord sc m s c w locs →
    let n := if ty.wide64 then 8 else 4
    let r := run locs n (fun l x => result op ty x (w.rdW l ty.wide64 b).toNat
      (w.rdW l ty.wide64 e).toNat) c.mask s.mem
    ∃ t s1 w1, exec (.atom op ty ord sc m d b e) s = .next t ∧ Performed c.wid s s1 w w1 ∧
      s1.mem = r.1 ∧ (∀ k, (s1.core k).scratch = (s.core k).scratch) ∧ s1.chip = s.chip ∧
      LaneWrites c s1 t w1 ty.wide64 d (fun l => BitVec.ofNat 64
        (((r.2.find? (fun x => x.1 == l)).map Prod.snd).getD 0))) ∧
  (∀ op ty ord sc m b s c w locs, op ≠ .cas → ready (.red op ty ord sc m b) ty ord sc m s c w locs →
    let n := if ty.wide64 then 8 else 4
    let r := run locs n (fun l x => result op ty x (w.rdW l ty.wide64 b).toNat 0) c.mask s.mem
    ∃ t s1 w1, exec (.red op ty ord sc m b) s = .next t ∧ Performed c.wid s s1 w w1 ∧
      s1.mem = r.1 ∧ (∀ k, (s1.core k).scratch = (s.core k).scratch) ∧ s1.chip = s.chip ∧
      LaneDone c s1 t w1 (fun _ _ => none) (fun _ => Lane.follow c))

/-- WAITA (18 R417, R418) and RACQ (08 R200; 18 R395). -/
def Obligations.MemoryWaits : Prop :=
  (∀ cd wd acq sc m d b imm s c w (ps : Nat → List Piece),
    Issues (.waita cd wd acq sc m d b imm) s c w → NoStores s c →
    let n := if wd.is64 then 8 else 4
    let adr (l : Nat) : DWord := MemOp.addr s c w l m (imm.signExtend 64)
    (∀ l, l < 32 → c.mask.getLsbD l = true → s.reach c l m.space (adr l) n .read = .ok (ps l) ∧
      (∀ p ∈ ps l, p.clean s c true) ∧ (m.space = .g → (c.wid, adr l) ∉ s.wcallFault)) →
    let x (l : Nat) : DWord := BitVec.ofNat 64 (leNat ((ps l).flatMap (fun p => p.bytes s c true)))
    let hit (l : Nat) : Bool :=
      let y := w.rdW l wd.is64 b
      let sx (z : DWord) : Int := if wd.is64 then z.toInt else (z.setWidth 32).toInt
      match cd with
      | .eq => x l == y
      | .ne => x l != y
      | .uge => decide (y.toNat ≤ (x l).toNat)
      | .ult => decide ((x l).toNat < y.toNat)
      | .sge => decide (sx y ≤ sx (x l))
      | .slt => decide (sx (x l) < sx y)
    ((∀ l, l < 32 → c.mask.getLsbD l = true → hit l = true) →
      ∃ t s0 s1 w1, exec (.waita cd wd acq sc m d b imm) s = .next t ∧ Loaded s s0 ∧
        s1 = (if acq then acquired c.core c.wid (effScope m.space sc) s0 else s0) ∧
        w1 = { w with waitaDone := w1.waitaDone } ∧ LaneWrites c s1 t w1 wd.is64 d x) ∧
    ((∃ l, l < 32 ∧ c.mask.getLsbD l = true ∧ hit l = false) →
      ∃ t s1 w1 w', exec (.waita cd wd acq sc m d b imm) s = .next t ∧ Loaded s s1 ∧
        w1 = { w with waitaDone := w1.waitaDone } ∧
        GroupWaits c { why := .waita, phase := 0, arg := 0 } s1 t w1 w' ∧
        ∀ l, l < 32 → c.mask.getLsbD l = true →
          (w1.waitaDone.find? (fun e => e.1 == l)).map Prod.snd =
            if hit l then some (x l) else none)) ∧
  (∀ b s c w, Issues (.racq b) s c w → s.released c.core c.wid c.mask .pkg = true →
    (∀ x ∈ s.lost, ¬ (x.wid = c.wid ∧ c.mask.getLsbD x.lane = true)) →
    let n := (s.rdU c b).toNat
    (Config.cores ≤ n ∨ (s.core n).disabled = true → ∃ t, exec (.racq b) s = .next t ∧
      LaneDone c (acquired c.core c.wid .pkg s) t w (fun _ _ => none) (fun _ => Lane.follow c)) ∧
    (n < Config.cores ∧ (s.core n).disabled = false → ∃ t w', exec (.racq b) s = .next t ∧
      GroupWaits c { why := .racq, phase := 1, arg := n } (s.modCore n (fun k => { k with
        racq := k.racq ++ [{ who := 32 * c.wid + lowLane c.mask, wid := c.wid,
                             ids := (s.core n).sq.map SqEntry.id, time := s.lastGwct }] })) t w w')) ∧
  (∀ b s c w n ph, Resumes s c w { why := .racq, phase := ph, arg := n } →
    (∀ r ∈ (s.core n).racq, r.who ≠ 32 * c.wid + lowLane c.mask) → ∃ t, exec (.racq b) s = .next t ∧
      LaneDone c (acquired c.core c.wid .pkg s) t w (fun _ _ => none) (fun _ => Lane.follow c))

/-- SARM, SDIS and SLD (07 R164 to R166; 18 R403, R404, R407). -/
def Obligations.StreamSlots : Prop :=
  let arm (n : Nat) (z : Option Stream) (c : Ctx) (s : State) : State :=
    s.modBlock (blkOf c.wid) (fun b => { b with streams := lput none n z b.streams })
  (∀ (n : Fin 8) a s c w ps, Issues (.sarm n a) s c w → NoStores s c →
    (s.rdU64 c a).toNat % 64 = 0 →
    s.globPieces c.core (s.asidOf c.wid) (c.inHandler || c.inGraft) .read 2 (s.rdU64 c a) 64 =
      .ok ps → (∀ p ∈ ps, p.clean s c false) →
    let r : BitVec 512 := BitVec.ofNat 512 (leNat (ps.flatMap (fun p => p.bytes s c false)))
    rcValid r = true → ∃ t s0, exec (.sarm n a) s = .next t ∧ Loaded s s0 ∧
      LaneDone c (arm n.val (some { rcd := r, pos := 0 }) c s0) t w (fun _ _ => none)
        (fun _ => Lane.follow c)) ∧
  (∀ (n : Fin 8) s c w, Issues (.sdis n) s c w → ∃ t, exec (.sdis n) s = .next t ∧
    LaneDone c (arm n.val none c s) t w (fun _ _ => none) (fun _ => Lane.follow c)) ∧
  (∀ d (n : Fin 8) f s c w b z (ps ips : Nat → List Piece), Issues (.sld d n f) s c w →
    NoStores s c → s.block (blkOf c.wid) = some b → b.streams.getD n.val none = some z →
    sldDestOk w (lowLane c.mask) (rcRegs z.rcd) d = true →
    (∀ l, l < 32 → c.mask.getLsbD l = true → (w.lane l).elem = none) →
    let total := rcTotal z.rcd
    let e (l : Nat) : Nat := z.pos + ((List.range l).filter c.mask.getLsbD).length
    let idx (l : Nat) : Int := leNat ((ips l).flatMap (fun p => p.bytes s c false))
    let base : Int := (rcF z.rcd 0 64 : Nat)
    let at0 (l : Nat) : Int :=
      if rcInd z.rcd then base + idx l * 2 ^ rcIscale z.rcd else base + rcOff z.rcd (e l)
    (∀ l, l < 32 → c.mask.getLsbD l = true → e l < total →
      (rcInd z.rcd = true →
        s.reach c l (rcSp (rcIspace z.rcd)) (rcWrap (rcIspace z.rcd)
          ((rcF z.rcd 320 64 : Nat) + rcOff z.rcd (e l))) (2 ^ rcIwidth z.rcd) .read = .ok (ips l) ∧
        ∀ p ∈ ips l, p.clean s c false) ∧
      s.reach c l (rcSp (rcSpace z.rcd)) (rcWrap (rcSpace z.rcd) (at0 l)) (2 ^ rcEsize z.rcd) .read =
        .ok (ps l) ∧ ∀ p ∈ ps l, p.clean s c false) →
    let bs (l : Nat) : List Byte :=
      if e l < total then (ps l).flatMap (fun p => p.bytes s c false) else []
    ∃ t s0, exec (.sld d n f) s = .next t ∧ Loaded s s0 ∧
      LaneDone c (arm n.val (some { z with pos := min (z.pos + maskCount c.mask) total }) c s0) t w
        (fun l => wordRegs d ((List.range (rcRegs z.rcd)).map (fun i =>
          BitVec.ofNat 32 (leNat (((bs l).drop (4 * i)).take 4)))))
        (fun l y => Lane.follow c { y with
          elem := none,
          f := match f with
            | some p => putFlag p.val (decide (e l < total)) y.f
            | none => y.f }))

/-- CBRSV, CBCMT, CBACQ and CBREL (07 R168, R169; 08 R194, R197; 16 R345). -/
def Obligations.CircularBuffers : Prop :=
  let put (c : Ctx) (n : Nat) (x : CBuf) (s : State) : State :=
    s.modBlock (blkOf c.wid) (fun b => { b with cbufs := b.cbufs.set n x })
  let slot (x : CBuf) (i : Nat) : DWord := BitVec.ofNat 64 (x.base + i * x.slotb)
  let who (c : Ctx) : Nat := 32 * c.wid + lowLane c.mask
  let has (s : State) (c : Ctx) (n : Nat) (x : CBuf) : Prop :=
    (s.block (blkOf c.wid)).bind (fun b => b.cbufs[n]?) = some x
  (∀ d (n : Fin 16) s c w x, Issues (.cbrsv d n) s c w → has s c n.val x →
    (x.slots.getD x.pr .acquired = .free → (x.resWait = [] ∨ x.resWait.head? = some (who c)) →
      ∃ t, exec (.cbrsv d n) s = .next t ∧ UniDone c (put c n.val { x with
        slots := x.slots.set x.pr .reserved, pr := (x.pr + 1) % x.nslot, sw := x.sw ++ [x.pr],
        resWait := x.resWait.filter (· != who c) } s) t w (uniRegs d false (slot x x.pr)) []) ∧
    (x.slots.getD x.pr .acquired ≠ .free → ∃ t w', exec (.cbrsv d n) s = .next t ∧
      GroupWaits c { why := .cbrsv, phase := 0, arg := 0 } (put c n.val { x with
        resWait := if x.resWait.contains (who c) then x.resWait else x.resWait ++ [who c] } s) t w w')) ∧
  (∀ (n : Fin 16) s c w x i r, Issues (.cbcmt n) s c w → has s c n.val x → x.sw = i :: r →
    s.released c.core c.wid c.mask .block = true →
    (∀ y ∈ s.lost, ¬ (y.wid = c.wid ∧ c.mask.getLsbD y.lane = true)) →
    ∃ t x', exec (.cbcmt n) s = .next t ∧ x' = CBuf.commit { x with sw := r } i ∧
      (i < x.slots.length → x'.slots.getD i .free = .committed ∨ x'.slots.getD i .free = .filled) ∧
      (∀ j, j ≠ i → x.slots.getD j .free ≠ .committed →
        x'.slots.getD j .free = x.slots.getD j .free) ∧
      LaneDone c (put c n.val x' s) t w (fun _ _ => none) (fun _ => Lane.follow c)) ∧
  (∀ d (n : Fin 16) s c w x, Issues (.cbacq d n) s c w → has s c n.val x →
    x.slots.getD x.ca .free = .filled → (x.acqWait = [] ∨ x.acqWait.head? = some (who c)) →
    (∀ e ∈ x.marks, e.1 ≠ x.ca) →
    let sc := ((x.rels.find? (fun e => e.1 == x.ca)).map Prod.snd).getD .block
    ∃ t, exec (.cbacq d n) s = .next t ∧ UniDone c (acquired c.core c.wid sc (put c n.val { x with
      ca := (x.ca + 1) % x.nslot, acqWait := x.acqWait.filter (· != who c),
      slots := x.slots.set x.ca .acquired, acq := x.acq ++ [x.ca],
      rels := x.rels.filter (fun y => y.1 != x.ca) } s)) t w (uniRegs d false (slot x x.ca)) []) ∧
  (∀ (n : Fin 16) s c w x i r, Issues (.cbrel n) s c w → has s c n.val x → x.acq = i :: r →
    ∃ t, exec (.cbrel n) s = .next t ∧ LaneDone c (put c n.val
      { x with slots := x.slots.set i .free, acq := r } s) t w (fun _ _ => none)
      (fun _ => Lane.follow c))

/-- CPY and CPYW (07 R170, R171, R175, R176; 08 R197; 16 R347 to R349). -/
def Obligations.CopyCommands : Prop :=
  (∀ d a len (k : CpyCtl) s c w b, Issues (.cpy d a len k) s c w →
    s.block (blkOf c.wid) = some b →
    let adr (u : USpec) (kind : Fin 4) (sp : Fin 8) : DWord :=
      if kind.val = 1 ∨ sp.val = 0 then s.rdU64 c u else (s.rdU c u).setWidth 64
    let sa := adr a k.skind k.sspace
    let da := if k.dkind.val = 2 then 0 else adr d k.dkind k.dspace
    let n := match len with
      | .uni u => (s.rdU c u).toNat
      | .imm x => x.toNat
    s.cpyFault (blkOf c.wid) k sa da n = none →
    tgetD [] (spillKey (s.jobOf c.wid) c.core) s.spill = [] →
    qWeight (s.core c.core).queue + 1 ≤ 64 →
    let cmd : CopyCmd :=
      { ctl := if k.dkind.val = 2 then { k with dspace := 0 } else k, saddr := sa, daddr := da,
        len := n, launch := b.launch, blk := blkOf c.wid, wid := c.wid,
        half := w.half (lowLane c.mask), progress := 0, capt := if k.acq then w.lwct else 0,
        captSq := if k.acq then ((s.core c.core).sq.filter (fun e => e.wid == c.wid)).map SqEntry.id
          else [], priv := c.inHandler || c.inGraft, slot := none }
    ∃ t, exec (.cpy d a len k) s = .next t ∧
      LaneDone c (s.modCore c.core (fun x => { x with queue := x.queue ++ [.copy cmd] })) t w
        (fun _ _ => none) (fun _ => Lane.follow c)) ∧
  (∀ (n : Fin 4) v s c w, Issues (.cpyw n v) s c w →
    let l := lowLane c.mask
    let k := w.wctr l n.val
    let y : Word := match v with
      | .imm i => i.setWidth 32
      | .reg u => s.rdU c u
    let sc := ((k.rels.filter (fun e => decide (0 ≤ (y - e.1).toInt))).map Prod.snd).foldl widest .block
    (0 ≤ (k.val - y).toInt → k.err = none → ∃ t, exec (.cpyw n v) s = .next t ∧
      LaneDone c (acquired c.core c.wid sc s) t { w with lwct := max w.lwct k.time }
        (fun _ _ => none) (fun _ => Lane.follow c)) ∧
    (∀ f b L, 0 ≤ (k.val - y).toInt → k.err = some f → TrapReady f s c w →
      s.block (blkOf c.wid) = some b → s.launch b.launch = some L →
      ∃ t, exec (.cpyw n v) s = .next t ∧ GroupTrap f c b L s t (w.setWctr l n.val
        { k with err := none })) ∧
    ((k.val - y).toInt < 0 → ∃ t w', exec (.cpyw n v) s = .next t ∧
      GroupWaits c { why := .cpyw, phase := 0, arg := 0 } s t w w'))

/-- MMA, MMAT, TLD, TST and TZERO (06 R126 to R131; 17 R384, R385; 18 R412). -/
def Obligations.MatrixArrivals : Prop :=
  let ok (s : State) (c : Ctx) (w : Warp) (op : MOp) (tile : Nat) (da db : BitVec 128)
      (fs : List Word) : Prop :=
    (∃ b, s.block (blkOf c.wid) = some b ∧ tile < b.tiles.length) ∧ w.gangFault = none ∧
    (op = .tst ∨ op = .mma ∨ op = .mmat → (s.tile (blkOf c.wid) tile).pinfo = none ∧
      ∀ e ∈ (s.tile (blkOf c.wid) tile).pending, e.1 ≠ c.wid) ∧
    s.matrixCheck c w op da db fs = none
  let cmd (s : State) (c : Ctx) (op : MOp) (tile : Nat) (da db : BitVec 128) (fs : List Word)
      (ws : List (Nat × Nat)) (p : Bool) : MCmd :=
    { id := s.tick, op := op, blk := blkOf c.wid, tile := tile, da := da, db := db,
      fmt := fs.headD 0, warps := ws, priv := p, stage := .queued, abytes := [], bbytes := [],
      early := [], units := 0, gwct := 0, bad := none }
  let queued (c : Ctx) (m : MCmd) (s : State) : State :=
    s.modCore c.core (fun k => { k with mq := k.mq ++ [m] })
  let law (i : Instr) (op : MOp) (tile : Nat) (da db : State → Ctx → BitVec 128)
      (fs : Ctx → Warp → List Word) : Prop :=
    ∀ s c w, Issues i s c w → ok s c w op tile (da s c) (db s c) (fs c w) →
    let room := (s.core c.core).mq.length < 16
    let n := w.arrCount + 1
    let cap := (s.core c.core).nextSq
    let priv := c.inHandler || c.inGraft
    let a : Arrival := { op := op, tile := tile, da := da s c, db := db s c, fmt := (fs c w).headD 0,
                         ord := n, priv := priv, capt := cap }
    let others := s.members c.wid w.gang
    let theirs (x : Nat) : Option Arrival :=
      ((s.warp x).map Warp.arrivals).bind (fun as => as.find? (fun y => y.ord == n))
    let all : Prop := others.length + 1 = maskCount w.gang ∧ ∀ x ∈ others, (theirs x).isSome = true
    (w.gang = 0 → room → ∃ t, exec i s = .next t ∧
      LaneDone c (queued c (cmd s c op tile (da s c) (db s c) (fs c w) [(c.wid, cap)] priv) s) t w
        (fun _ _ => none) (fun _ => Lane.follow c)) ∧
    (w.gang ≠ 0 → w.arrivals.length < 4 → ¬ all → ∃ t, exec i s = .next t ∧
      LaneDone c s t { w with arrivals := w.arrivals ++ [a], arrCount := n } (fun _ _ => none)
        (fun _ => Lane.follow c)) ∧
    (w.gang ≠ 0 → w.arrivals.length < 4 → all → room →
      (∀ x ∈ others, ∃ v y, s.warp x = some v ∧ v.gang = w.gang ∧ theirs x = some y ∧
        { y with capt := cap, priv := priv } = a) →
      ∃ t, exec i s = .next t ∧ LaneDone c (others.foldl (fun s x => s.modWarp x (fun v =>
          { v with arrivals := v.arrivals.filter (fun y => y.ord != n) }))
          (queued c (cmd s c op tile (da s c) (db s c) (fs c w) ((c.wid, cap) :: others.map (fun x =>
            (x, ((theirs x).map Arrival.capt).getD 0)))
            (priv && others.all (fun x => ((theirs x).map Arrival.priv).getD false))) s)) t { w with arrCount := n }
        (fun _ _ => none) (fun _ => Lane.follow c))
  let desc (u : USpec) (s : State) (c : Ctx) : BitVec 128 := s.rdDesc c u
  let fmts (f : LSpec) (c : Ctx) (w : Warp) : List Word := (lanesOf c.mask).map (fun l => w.rdL l f)
  (∀ (t : Fin 32) a b f, law (.mma t a b f) .mma t.val (desc a) (desc b) (fmts f)) ∧
  (∀ (t : Fin 32) a b f, law (.mmat t a b f) .mmat t.val (desc a) (desc b) (fmts f)) ∧
  (∀ (t : Fin 32) a, law (.tld t a) .tld t.val (desc a) (fun _ _ => 0) (fun _ _ => [])) ∧
  (∀ (t : Fin 32) a, law (.tst t a) .tst t.val (desc a) (fun _ _ => 0) (fun _ _ => [])) ∧
  (∀ (t : Fin 32), law (.tzero t) .tzero t.val (fun _ _ => 0) (fun _ _ => 0) (fun _ _ => []))

/-- GANG, TWAIT and TSTAT (06 R127, R130, R142, R145; 17 R365; 18 R412). -/
def Obligations.GangsAndTileStatus : Prop :=
  (∀ u s c w b, Issues (.gang u) s c w → s.block (blkOf c.wid) = some b → w.gangFault = none →
    w.arrivals = [] →
    let m := s.rdU c u
    let fits : Prop := m = 0 ∨ (m.getLsbD w.num = true ∧ m.toNat < 2 ^ b.nwarps)
    (fits → ∃ t, exec (.gang u) s = .next t ∧
      LaneDone c s t { w with gang := m, arrCount := 0 } (fun _ _ => none)
        (fun _ => Lane.follow c)) ∧
    (∀ L, ¬ fits → s.launch b.launch = some L →
      TrapReady { code := 0x09, cause := 5 } s c w →
      ∃ t, exec (.gang u) s = .next t ∧ GroupTrap { code := 0x09, cause := 5 } c b L s t w)) ∧
  (∀ u f s c w b L, Issues (.gang u) s c w → s.block (blkOf c.wid) = some b →
    s.launch b.launch = some L → w.gangFault = some f → TrapReady f s c w →
    ∃ t, exec (.gang u) s = .next t ∧ GroupTrap f c b L s t { w with gangFault := none }) ∧
  (∀ (n : Fin 32) s c w b, Issues (.twait n) s c w → s.block (blkOf c.wid) = some b →
    n.val < b.tiles.length → w.gangFault = none → (∀ a ∈ w.arrivals, a.tile ≠ n.val) →
    (∀ m ∈ (s.core c.core).mq, m.blk = blkOf c.wid → m.tile = n.val → s.tick < m.id ∧
      ∀ x ∈ m.warps, x.1 ≠ c.wid) →
    let tile := s.tile (blkOf c.wid) n.val
    ((∀ e ∈ tile.pending, e.1 ≠ c.wid) → ∃ t, exec (.twait n) s = .next t ∧
      LaneDone c s t { w with lwct := max w.lwct (((tile.tsts.filter (fun x =>
          decide (x.id ≤ s.tick) || x.warps.contains c.wid)).map TstDone.gwct).foldl max 0) }
        (fun _ _ => none) (fun _ => Lane.follow c)) ∧
    (∀ f L, (tile.pending.find? (fun e => e.1 == c.wid)).map Prod.snd = some f →
      s.launch b.launch = some L → TrapReady f s c w →
      let s1 := s.modTile (blkOf c.wid) n.val (fun x =>
        { x with pending := x.pending.filter (fun e => e.1 != c.wid) })
      ∃ t b1, exec (.twait n) s = .next t ∧ s1.block (blkOf c.wid) = some b1 ∧
        GroupTrap f c b1 L s1 t w)) ∧
  (∀ clr d (n : Fin 32) s c w b, Issues (.tstat clr d n) s c w → s.block (blkOf c.wid) = some b →
    n.val < b.tiles.length →
    let tile := s.tile (blkOf c.wid) n.val
    let queued := ((s.core c.core).mq.filter (fun m => m.blk == blkOf c.wid && m.tile == n.val)).length
    (∀ k v, s.warp k = some v → blkOf k = blkOf c.wid → ∀ a ∈ v.arrivals, a.tile ≠ n.val) →
    let status := tile.corr * 2 ^ 24 + min 255 queued * 2 ^ 16 + tile.pcause * 2 ^ 12 +
      (if tile.pcause = 0 then 0 else 2 ^ 11) + (if tile.nv then 4 else 0) +
      (if tile.ovf then 2 else 0) + (if tile.unf then 1 else 0)
    ∃ t, exec (.tstat clr d n) s = .next t ∧ UniDone c (if clr then
      s.modTile (blkOf c.wid) n.val (fun x =>
        { x with corr := 0, nv := false, ovf := false, unf := false }) else s) t w
      (uniRegs d false (BitVec.ofNat 64 status)) [])

/-- MATRIX_START, MATRIX_CHECK and TILE_TRANSFER_COMPLETE (05 R115, R116; 06 R131 to R141). -/
def Obligations.MatrixExecution : Prop :=
  let kept (s t : State) (core blk tile : Nat) : Prop :=
    t.mem = s.mem ∧ t.warps = s.warps ∧ t.bar2 = s.bar2 ∧ (∀ k, k ≠ core → t.core k = s.core k) ∧
    { t.core core with mq := (s.core core).mq, scratch := (s.core core).scratch } = s.core core ∧
    (∀ k j, ¬ (k = blk ∧ j = tile) → (t.block k).isSome = true → t.tile k j = s.tile k j)
  (∀ core idx m s as bs, (s.core core).mq[idx]? = some m → m.stage = .queued →
    (∀ x ∈ (s.core core).mq.take idx, ¬ (x.blk = m.blk ∧ x.tile = m.tile)) →
    (∀ e ∈ (s.core core).sq, ∀ x ∈ m.warps, ¬ (x.1 = e.wid ∧ e.id < x.2)) →
    let mul (op : MOp) : Bool := op == .mma || op == .mmat
    (((s.core core).mq.filter (fun x => x.stage == .started && mul x.op == mul m.op)).length <
      if mul m.op then 4 else 1) →
    let row := if mul m.op then fmRow (fmFmt m.fmt) else 256
    (mul m.op = true ∨ m.op = .tld →
      s.fetchRows m false row 64 0 = some (.ok as)) →
    (mul m.op = true →
      s.fetchRows m true row 64 0 = some (.ok bs)) →
    m.abytes = [] → m.bbytes = [] →
    ∃ t, exec (.matrixStart core idx) s = .next t ∧ t.mem = s.mem ∧ t.warps = s.warps ∧
      t.blocks = s.blocks ∧ (∀ k, k ≠ core → t.core k = s.core k) ∧
      t.core core = { s.core core with mq := (s.core core).mq.set idx { m with
        stage := .started, abytes := if mul m.op = true ∨ m.op = .tld then as else [],
        bbytes := if mul m.op then bs else [] } }) ∧
  (∀ core idx m s b rc, (s.core core).mq[idx]? = some m → m.stage = .started →
    m.op = .mma ∨ m.op = .mmat → m.bad = none → s.block m.blk = some b → b.done = false →
    m.tile < b.tiles.length → (s.tile m.blk m.tile).pinfo = none →
    let x := s.tile m.blk m.tile
    let old (i j : Nat) : Word := fget 0 (64 * i + j) x.elems
    let good (i j : Nat) : Word := (mmaElem m m.rows (old i j) i j).val
    let masked (i j : Nat) : Prop := m.op = .mmat ∧
      (BitVec.ofNat 8 (m.fmt.toNat / 2 ^ 18)).toInt < (j : Int) - (i : Int)
    (fmFmt m.fmt ≠ 4 → findings m m.rows old good good = ([], [], [])) →
    ∃ t, exec (.matrixCheck core idx [] rc) s = .next t ∧ kept s t core m.blk m.tile ∧
      (t.core core).mq = (s.core core).mq.eraseIdx idx ∧
      (t.core core).scratch = (s.core core).scratch ∧
      let y := t.tile m.blk m.tile
      y.sums = tileSums y.elems ∧ y.pinfo = none ∧
      (∀ i j, i < 64 → j < 64 → fget 0 (64 * i + j) y.elems = good i j) ∧
      (∀ i j, i < 64 → j < 64 → masked i j → fget 0 (64 * i + j) y.elems = maskVal m.fmt (old i j)) ∧
      (∀ i j, i < 64 → j < 64 → ¬ masked i j → fmFmt m.fmt = 4 → fget 0 (64 * i + j) y.elems =
        BitVec.ofInt 32 ((old i j).toInt + ((List.range 64).map (fun k =>
          opInt (m.fmt.getLsbD 4) (opRow 4 m.abytes i) k *
          opInt (m.fmt.getLsbD 5) (opRow 4 m.bbytes j) k)).sum)) ∧
      (∀ i j, i < 64 → j < 64 → ¬ masked i j → fmFmt m.fmt ≠ 4 → fget 0 (64 * i + j) y.elems =
        (accumulate (fpRead fmtF32 (old i j).toNat) ((List.range (fmK (fmFmt m.fmt))).map (fun k =>
          fpMulX (opFloat (fmFmt m.fmt) (opRow (fmFmt m.fmt) m.abytes i) k)
            (opFloat (fmFmt m.fmt) (opRow (fmFmt m.fmt) m.bbytes j) k)))).val)) ∧
  (∀ core idx m s b, (s.core core).mq[idx]? = some m → m.stage = .started → m.bad = none →
    s.block m.blk = some b → b.done = false → m.tile < b.tiles.length →
    (m.op = .tzero ∨ m.op = .tld → ∃ t, exec (.tileTransferComplete core idx) s = .next t ∧
      kept s t core m.blk m.tile ∧ (t.core core).mq = (s.core core).mq.eraseIdx idx ∧
      (t.core core).scratch = (s.core core).scratch ∧
      let y := t.tile m.blk m.tile
      (∀ k, k < 4096 → fget 0 k y.elems = if m.op = .tld then
        BitVec.ofNat 32 (leNat ((m.abytes.drop (4 * k)).take 4)) else 0) ∧
      { y with elems := [], sums := [], tsts := [] } = Tile.init ∧
      y.tsts = (s.tile m.blk m.tile).tsts ∧ y.sums = tileSums y.elems) ∧
    (m.op = .tst → m.units = 0 → dSpace m.da = 1 → (s.tile m.blk m.tile).pcause = 0 →
      (s.tile m.blk m.tile).pinfo = none → (s.tile m.blk m.tile).sums =
        tileSums (s.tile m.blk m.tile).elems → b.core = core →
      (∀ i, i < 64 → s.scratchPlace m.blk 1 (dBase m.da + i * dStride m.da) 256 =
        .ok (.scr core (b.kbase + (dBase m.da + i * dStride m.da)))) →
      ∃ t, exec (.tileTransferComplete core idx) s = .next t ∧ kept s t core m.blk m.tile ∧
        (t.core core).mq = (s.core core).mq.eraseIdx idx ∧
        (t.tile m.blk m.tile).elems = (s.tile m.blk m.tile).elems ∧
        (t.core core).scratch = (List.range 64).foldl (fun f i =>
          wrMem (b.kbase + (dBase m.da + i * dStride m.da)) ((List.range 64).flatMap (fun j =>
            natLe 4 (fget 0 (64 * i + j) (s.tile m.blk m.tile).elems).toNat)) f)
          (s.core core).scratch))

/-- RDCTL and WRCTL (01 R28, R31; 09 R202; 10 R225, R232; 11 R257; 18 R396, R397). -/
def Obligations.ControlRegisters : Prop :=
  let wordU (d : USpec) (n : Nat) (x : Nat) (k : Nat) : Option Word :=
    match d with
    | .s j => if j.val ≤ k ∧ k < j.val + n then some (BitVec.ofNat 32 (x / 2 ^ (32 * (k - j.val))))
              else none
    | _ => none
  (∀ d r s c w b L, Issues (.rdctl d r) s c w → s.block (blkOf c.wid) = some b →
    s.launch b.launch = some L →
    let k := s.core c.core
    let bit (x : Bool) (n : Nat) : Nat := if x then n else 0
    let anyLane (i : Nat) : Bool :=
      (List.range 32).any (fun l => c.mask.getLsbD l && (w.lane l).fpf.getLsbD i)
    let x : Nat := (match r with
      | .fpflags => bit (anyLane 0) 1 + bit (anyLane 1) 2 + bit (anyLane 2) 4 + bit (anyLane 3) 8 +
          bit (anyLane 4) 16
      | .chkmode => bit w.score 2 + bit w.ilk 4 + bit w.hdrilk 8 + bit w.effilk 16 + 32 * w.level
      | .lwct => w.lwct
      | .trapbase => L.trapbase.toNat
      | .grovebase => (fget 0 L.job s.grovebase).toNat
      | .callq => (fget 0 L.job s.callq).toNat
      | .asid => s.jAsid L.job
      | .ctxsave => (s.reg64 (0x2A0000 + 0x10 * L.job)).toNat +
          2 ^ 64 * (s.reg64 (0x2A0008 + 0x10 * L.job)).toNat
      | .capbase => (s.reg64 (0x201000 + 8 * L.job)).toNat
      | .mismatch => k.mmSoft + 2 ^ 16 * k.mmOperand + 2 ^ 32 * k.mmResult + 2 ^ 48 * k.mmValue
      | .graftgen => (s.graftOf c.gen).gen % 2 ^ 16 + 2 ^ 16 * (s.graftOf c.gen).imgver)
    let n := (match r with
      | .fpflags | .chkmode | .asid => 1
      | .ctxsave => 4
      | _ => 2)
    ∃ t, exec (.rdctl d r) s = .next t ∧ UniDone c s t w (wordU d n x) []) ∧
  (∀ a s c w, Issues (.wrctl .fpflags a) s c w → ∃ t, exec (.wrctl .fpflags a) s = .next t ∧
    LaneDone c s t w (fun _ _ => none)
      (fun _ y => Lane.follow c { y with fpf := (s.rdU c a).setWidth 5 })) ∧
  (∀ a s c w, Issues (.wrctl .chkmode a) s c w → ∃ t, exec (.wrctl .chkmode a) s = .next t ∧
    LaneDone c s t { w with score := (s.rdU c a).getLsbD 1, ilk := (s.rdU c a).getLsbD 2 }
      (fun _ _ => none) (fun _ => Lane.follow c)) ∧
  (∀ a s c w b, Issues (.wrctl .trapbase a) s c w → s.block (blkOf c.wid) = some b →
    s.rdU64 c a &&& 0xFF80000000000002 = 0 → ∃ t, exec (.wrctl .trapbase a) s = .next t ∧
    LaneDone c (s.modLaunch b.launch (fun L => { L with trapbase := s.rdU64 c a })) t w
      (fun _ _ => none) (fun _ => Lane.follow c)) ∧
  (∀ a s c w, Issues (.wrctl .grovebase a) s c w → s.rdU64 c a &&& 0xFF800000000001FE = 0 →
    let g := s.grove.filter (fun e => e.asid != s.asidOf c.wid)
    ∃ t, exec (.wrctl .grovebase a) s = .next t ∧
    LaneDone c { s with grovebase := fset 0 (s.jobOf c.wid) (s.rdU64 c a) s.grovebase, grove := g }
      t w (fun _ _ => none) (fun _ => Lane.follow c)) ∧
  (∀ a s c w, Issues (.wrctl .callq a) s c w → s.rdU64 c a &&& 0xFF80000000000E0E = 0 →
    ∃ t, exec (.wrctl .callq a) s = .next t ∧
    LaneDone c { s with callq := fset 0 (s.jobOf c.wid) (s.rdU64 c a) s.callq } t w
      (fun _ _ => none) (fun _ => Lane.follow c))

/-- REGGROW, REGSHR, REGGROW_GRANT and REGGROW_FAIL (03 R78, R79; 18 R401). -/
def Obligations.RegisterAllotments : Prop :=
  let grown (w w1 : Warp) (n : Nat) : Prop :=
    w1 = { w with vregs := n, v := w1.v } ∧
    (∀ k l, l < 32 → (k < w.vregs ∨ 112 ≤ k) → fget 0 (32 * k + l) w1.v = fget 0 (32 * k + l) w.v) ∧
    (∀ k l, l < 32 → w.vregs ≤ k → k < 112 → fget 0 (32 * k + l) w1.v = 0)
  let blocked (s : State) (core part : Nat) : List GrowReq :=
    (s.core core).grow.filter (fun g => g.part == part && g.answer.isNone)
  (∀ (n : Fin 8) (v : Fin 16) s c w, Issues (.reggrow n v) s c w →
    (∀ g ∈ (s.core c.core).grow, g.who ≠ 32 * c.wid + lowLane c.mask) →
    let want := 8 * v.val
    let room := blocked s c.core c.part = [] ∧ want ≤ w.vregs + s.freeRegs c.core c.part
    (want ≤ w.vregs → ∃ t, exec (.reggrow n v) s = .next t ∧
      UniDone c s t w (fun _ => none) [(n.val, true)]) ∧
    (w.vregs < want → room → ∃ t w1, exec (.reggrow n v) s = .next t ∧ grown w w1 want ∧
      UniDone c s t w1 (fun _ => none) [(n.val, true)]) ∧
    (w.vregs < want → ¬ room → ∃ t w', exec (.reggrow n v) s = .next t ∧
      GroupWaits c { why := .reggrow, phase := 0, arg := 0 } (s.modCore c.core (fun k => { k with
        grow := k.grow ++ [{ who := 32 * c.wid + lowLane c.mask, wid := c.wid, part := c.part,
                             want := want, answer := none }] })) t w w')) ∧
  (∀ (n : Fin 8) (v : Fin 16) s c w tag g b, Resumes s c w tag →
    (s.core c.core).grow.find? (fun g => g.who == 32 * c.wid + lowLane c.mask) = some g →
    g.answer = some b →
    ∃ t, exec (.reggrow n v) s = .next t ∧ UniDone c (s.modCore c.core (fun k => { k with
      grow := k.grow.filter (fun x => x.who != 32 * c.wid + lowLane c.mask) })) t w (fun _ => none) [(n.val, b)]) ∧
  (∀ (v : Fin 16) s c w, Issues (.regshr v) s c w → 8 * v.val ≤ w.vregs →
    ∃ t w1, exec (.regshr v) s = .next t ∧ w1 = { w with vregs := 8 * v.val, v := w1.v } ∧
      (∀ k l, l < 32 → fget 0 (32 * k + l) w1.v =
        if 8 * v.val ≤ k ∧ k < 112 then 0 else fget 0 (32 * k + l) w.v) ∧
      LaneDone c { s with launches := s.launches.map (fun e =>
        (e.1, { e.2 with skipped := false })) } t w1 (fun _ _ => none) (fun _ => Lane.follow c)) ∧
  (∀ core part s g rest w, blocked s core part = g :: rest → s.warp g.wid = some w →
    let answer (ok : Bool) : State := State.modCore core (fun k => { k with grow := k.grow.map (fun x =>
      if x.who = g.who then { x with answer := some ok } else x) })
      { s with launches := s.launches.map (fun e => (e.1, { e.2 with skipped := false })) }
    let fits := g.want ≤ w.vregs + s.freeRegs core part
    (fits → w.vregs ≤ g.want → w.bad = [] → (∃ t w1, exec (.reggrowGrant core part) s = .next t ∧
        grown w w1 g.want ∧ t = ((answer true).modWarp g.wid (fun _ => w1)).finish) ∧
      exec (.reggrowFail core part) s = exec (.reggrowGrant core part) s) ∧
    (¬ fits → exec (.reggrowFail core part) s = .next (answer false).finish ∧
      exec (.reggrowGrant core part) s = .next s.finish))

/-- LAUNCH (03 R73; 17 R374, R375) and CANCEL (02 R58, R59; 16 R344). -/
def Obligations.DeviceLaunches : Prop :=
  (∀ tail d a s c w P l', Issues (.launch tail d a) s c w → (s.rdU64 c a).toNat % 128 = 0 →
    s.released c.core c.wid c.mask .pkg = true →
    (∀ x ∈ s.lost, ¬ (x.wid = c.wid ∧ c.mask.getLsbD x.lane = true)) →
    s.launchOf c.wid = some P → s.slotsUsed < 65536 →
    s.accept { Launch.new s.nextLaunch P.job P.queue none P.graph P.phase with
        checked := true, tailOf := if tail then some P.id else none, parent := some P.id }
      (s.rdU64 c a).toNat (s.jState P.job == 3 ||
        ((tget P.graph s.graphs).map Graph.cancelled).getD false) = some l' →
    l'.id = s.nextLaunch ∧ l'.job = P.job ∧ l'.graph = P.graph ∧ l'.phase = P.phase ∧
    l'.parent = some P.id ∧ l'.tailOf = (if tail then some P.id else none) ∧
    ∃ t, exec (.launch tail d a) s = .next t ∧ UniDone c
      (State.modGraph P.graph (fun g => { g with left := g.left + 1 })
        { s with launches := tset s.nextLaunch l' s.launches, nextLaunch := s.nextLaunch + 1,
                 slotsUsed := s.slotsUsed + 1 }) t w
      (uniRegs d true (BitVec.ofNat 64 s.nextLaunch)) []) ∧
  (∀ level s c w L, Issues (.cancel level) s c w → s.launchOf c.wid = some L →
    s.launch L.id = some L → L.stage = .running →
    ∃ t, exec (.cancel level) s = .next t ∧ t.mem = s.mem ∧
      (level = .launch → ∃ L', t.launch L.id = some L' ∧ L'.cancelled = true ∧
        L'.status = if L.status = 0 then 0x0014 else L.status) ∧
      (level = .graph → ∀ k X, s.launch k = some X → X.graph = L.graph →
        X.stage = .waiting ∨ X.stage = .running →
        ∃ X', t.launch k = some X' ∧ X'.cancelled = true) ∧
      (level = .phase → ∀ k X g, s.launch k = some X → tget X.graph s.graphs = some g →
        g.job = L.job → g.phase = L.phase → X.stage = .waiting ∨ X.stage = .running →
        ∃ X', t.launch k = some X' ∧ X'.cancelled = true) ∧
      (level = .job → s.jState L.job ≠ 0 → t.jState L.job = 3 ∧
        ∀ k X g, s.launch k = some X → tget X.graph s.graphs = some g → g.job = L.job →
          X.stage = .waiting ∨ X.stage = .running →
          ∃ X', t.launch k = some X' ∧ X'.cancelled = true))

/-- WCALL (10 R232 to R234; 18 R419) and CKPT (12 R288; 16 R346).

WCALL_DRAIN, and QUEUE_HAND_ON of a call (10 R232 to R234). -/
def Obligations.ServiceCallsAndCheckpoint : Prop :=
  (
  (∀ u q svc s c w b L ph, Issues (.wcall u q svc) s c w → s.block (blkOf c.wid) = some b →
    s.launch b.launch = some L → (fget 0 L.job s.callq).getLsbD 0 = true →
    let base := s.rdU64 c u
    let l0 := lowLane c.mask
    base.toNat % 1024 = 0 →
    s.reach c l0 .g base 8 .write = .ok [{ place := .glob ph, va := base, n := 8 }] →
    s.writeDropped ph.loc = false → tgetD [] (spillKey L.job c.core) s.spill = [] →
    qWeight (s.core c.core).queue + 9 ≤ 64 →
    let call : WcallRec :=
      { here := 9, job := L.job, launch := L.id, block := b.num L, base := base, wid := c.wid,
        mask := c.mask, svc := svc, warpNum := w.warpNo l0, phase := 0,
        sq := (s.core c.core).nextSq, time := 0, n := 0,
        reqs := (lanesOf c.mask).map (fun l =>
          (l, (List.range 4).map (fun k => w.rdL l (LSpec.plus q k)))) }
    let e : SqEntry :=
      { id := (s.core c.core).nextSq, wid := c.wid, launch := b.launch, line := ph.loc / 128,
        writes := [(l0, ph.loc, List.replicate 8 0)], vas := [base], strong := true,
        asid := s.jAsid L.job, gwct := none }
    ∃ t, exec (.wcall u q svc) s = .next t ∧ LaneDone c
      ((s.recheckMeet c.core c.wid none [(l0, ph.loc, 8)]).modCore c.core (fun k => { k with
        queue := k.queue ++ [.wcall call], sq := k.sq ++ [e], nextSq := k.nextSq + 1 })) t w
      (fun _ _ => none) (fun _ => Lane.follow c)) ∧
  (∀ s c w, Issues .ckpt s c w →
    (s.regF 0x280008 0 2 ≠ 3 → ∃ t, exec .ckpt s = .next t ∧
      LaneDone c s t w (fun _ _ => none) (fun _ => Lane.follow c)) ∧
    (s.regF 0x280008 0 2 = 3 → ∃ t w', exec .ckpt s = .next t ∧
      GroupWaits c { why := .ckpt, phase := 0, arg := s.interval }
        { s with undoStarting := some s.gtime } t w w')) ∧
  (∀ s c w tag, Resumes s c w tag →
    (tag.arg < s.interval → ∃ t, exec .ckpt s = .next t ∧
      LaneDone c s t w (fun _ _ => none) (fun _ => Lane.follow c)) ∧
    (s.interval ≤ tag.arg → ∃ t w', exec .ckpt s = .next t ∧
      GroupWaits c { why := .ckpt, phase := 0, arg := tag.arg } s t w w'))) ∧
  (
  ∀ core s r rest, (s.core core).queue = .wcall r :: rest → r.here = 9 →
    let a := viaCore (s.jAsid r.job) core
    let b := r.base.toNat
    let head := natLe 4 r.mask.toNat ++ natLe 4 r.svc.toNat ++ natLe 8 r.launch ++ natLe 4 r.block ++
      natLe 2 r.warpNum ++ natLe 2 core
    let words := (List.range 32).flatMap (fun l => match r.reqs.find? (fun e => e.1 == l) with
      | some e => (List.range 4).flatMap (fun k => natLe 4 (e.2.getD k 0).toNat)
      | none => natLe 16 0)
    let q := fget 0 r.job s.callq
    let ring := q.toNat / 2 ^ 12 % 2 ^ 43 * 4096
    let size := 2 ^ (q.toNat / 2 ^ 4 % 2 ^ 4 + 4)
    let notice (n : Nat) : Nat := ring + 64 + 64 * (n % size)
    let same (v t : State) : Prop := (∀ k, k ≠ core → t.core k = v.core k) ∧
      { t with turn := v.turn, tick := v.tick, fresh := v.fresh, gtime := v.gtime,
               cores := v.cores, irqs := v.irqs } = v
    let goes (v : State) (r' : WcallRec) : Prop :=
      exec (.queueHandOn core) s = exec (.wcallDrain core) s ∧
      ∃ t, exec (.wcallDrain core) s = .next t ∧ same v t ∧ t.irqs = v.irqs ∧
        t.core core = { v.core core with queue := .wcall r' :: rest }
    let ready := r.time ≤ s.gtime ∧ s.inval = [] ∧ ∀ e ∈ (s.core core).sq, e.id ≠ r.sq
    (∀ v1 v g1 g2, r.phase = 0 → s.vWrite a (b + 0x10) (head ++ natLe 24 0) = (.ok g1, v1) →
      v1.vWrite a (b + 0x40) words = (.ok g2, v) → goes v { r with phase := 1, time := max g1 g2 }) ∧
    (∀ v f, r.phase = 0 → s.vWrite a (b + 0x10) (head ++ natLe 24 0) = (.error f, v) → f ≠ heldFault →
      ∃ t, exec (.wcallDrain core) s = .next t ∧
        same { v with wcallFault := v.wcallFault ++ [(r.wid, r.base)] } t ∧ t.irqs = v.irqs ∧
        t.core core = { v.core core with queue := rest }) ∧
    (r.phase ≠ 0 → ¬ ready → rest = [] → exec (.wcallDrain core) s = .next s.finish) ∧
    (∀ n c, r.phase = 1 → ready → n < 2 ^ 64 → c < 2 ^ 64 →
      s.vRead a ring 16 = .ok (natLe 8 n ++ natLe 8 c) →
      let full := (n + 2 ^ 64 - c) % 2 ^ 64 = size
      (full → rest = [] → exec (.wcallDrain core) s = .next s.finish) ∧
      (∀ v1 v2 v g1 g2 g3, ¬ full → s.vWrite a ring (natLe 8 (n + 1)) = (.ok g1, v1) →
        v1.vWrite a (b + 8) (natLe 8 n) = (.ok g2, v2) →
        v2.vWrite a (notice n) (natLe 8 b ++ natLe 8 n ++ (head ++ natLe 24 0).take 32 ++
          natLe 2 r.job ++ natLe 6 0) = (.ok g3, v) →
        goes v { r with phase := 2, time := max g1 (max g2 g3), n := n })) ∧
    (∀ v g, r.phase = 2 → ready → s.vWrite a (notice r.n + 0x38) (natLe 8 (r.n + 1)) = (.ok g, v) →
      ∃ t, exec (.wcallDrain core) s = .next t ∧ same v t ∧
        t.core core = { v.core core with queue := rest } ∧
        (q.getLsbD 8 = false → t.irqs = v.irqs) ∧
        (∀ lead, q.getLsbD 8 = true → v.hostLost = false → v.leadQueue r.job = some lead →
          t.irqs = v.irqs ++ [v.qIrqv lead])))

/-- LNX, GROVE_ENTRY_FETCH and LNX_REQUEST_SERVE (09 R205 to R218). -/
def Obligations.GroveRoutines : Prop :=
  let recheck (c : Ctx) (w : Warp) (s : State) : State := s.recheckMeet c.core c.wid none
    ((w.lnx.filter (fun q => c.mask.getLsbD q.lane)).map (fun q => (q.lane, q.pa, 128)))
  (∀ ord d a b e base (sc : Fin 4) (ix : Fin 64) imm s c w (q : Nat → LnxReq),
    Issues (.lnx ord d a b e base sc ix imm) s c w → NoStores s c →
    (ordRel ord = true → s.released c.core c.wid c.mask .pkg = true ∧
      ∀ x ∈ s.lost, ¬ (x.wid = c.wid ∧ c.mask.getLsbD x.lane = true)) →
    (∀ l, l < 32 → c.mask.getLsbD l = true → s.lnxCheck c l
      (s.rdU64 c base + ((w.rdL l a).signExtend 64 <<< sc.val) + 128 * imm.signExtend 64)
      ((List.range 4).map (fun k => pair (w.rdL l (LSpec.plus b (2 * k)))
        (w.rdL l (LSpec.plus b (2 * k + 1))))) ix.val = .ok (q l)) →
    ∃ t w1 w', exec (.lnx ord d a b e base sc ix imm) s = .next t ∧
      w1 = { w with lnx := w.lnx.filter (fun r => !c.mask.getLsbD r.lane) ++ (lanesOf c.mask).map q } ∧
      GroupWaits c { why := .lnx, phase := 1, arg := 0 } s t w1 w') ∧
  (∀ ord d a b e base (sc : Fin 4) (ix : Fin 64) imm s c w tag (rep : Nat → DWord × BitVec 8),
    Resumes s c w tag → tag.why = .lnx → (w.lnx.map LnxReq.lane).Nodup →
    (∀ r ∈ w.lnx, c.mask.getLsbD r.lane = true → r.reply = some (rep r.lane) ∧ r.fault = none) →
    (∀ l, l < 32 → c.mask.getLsbD l = true → ∃ r ∈ w.lnx, r.lane = l) → (∀ r ∈ w.lnx, r.lane < 32) →
    ∃ t, exec (.lnx ord d a b e base sc ix imm) s = .next t ∧
      LaneDone c (if ordAcq ord then acquired c.core c.wid .pkg (recheck c w s) else recheck c w s) t
        { w with lnx := w.lnx.filter (fun r => !c.mask.getLsbD r.lane) }
        (fun l n => if LSpec.writes e = some n then some ((rep l).2.setWidth 32)
          else dstRegs d true (rep l).1 n) (fun _ => Lane.follow c)) ∧
  (∀ wid lane s q, s.openLnx wid lane = some q → s.gEntry wid q = none → Going s wid →
    s.lnxBehind wid (q.pa / 128) = false →
    let head (f : LnxReq → LnxReq) : State := s.modWarp wid (fun w => { w with
      lnx := w.lnx.map (fun r => if r.lane = lane then { f r with head := true } else r) })
    (∀ ws cause, s.gFetch wid q = some (.ok (ws, cause)) →
      (s.grove.filter (fun x => x.slice == homeSlice q.pa)).length < 16 →
      exec (.groveEntryFetch wid lane) s = .next (State.finish { head id with grove := s.grove ++
        [{ slice := homeSlice q.pa, asid := s.asidOf wid, base := s.gbase (s.jobOf wid),
           index := q.index, code := ws, cause := cause, stamp := s.tick }] })) ∧
    (∀ f, s.gFetch wid q = some (.error f) → exec (.groveEntryFetch wid lane) s =
      .next (head (fun r =>
        { r with fault := some { code := 0x0D, cause := 1, addr := q.va, aux0 := BitVec.ofNat 64 q.index } })).finish)) ∧
  (∀ wid lane s w q, s.warp wid = some w → w.lnx = [q] → q.lane = lane → q.reply = none →
    q.fault = none → Going s wid → s.lineHeld (q.pa / 128) = false →
    s.lnxBehind wid (q.pa / 128) = false → s.gEn (s.jobOf wid) = false →
    ∀ errs, exec (.lnxRequestServe wid lane errs) s = .next (s.modWarp wid (fun w => { w with
      lnx := [{ q with fault := some { code := 0x0C, cause := 1, addr := q.va,
                                       aux0 := BitVec.ofNat 64 q.index } }] })).finish) ∧
  (∀ wid lane errs s w q e, s.warp wid = some w → w.lnx = [q] → q.lane = lane → q.reply = none →
    q.fault = none → Going s wid → s.lineHeld (q.pa / 128) = false →
    s.lnxBehind wid (q.pa / 128) = false → s.gEn (s.jobOf wid) = true → s.gEntry wid q = some e →
    errs % 4 < 3 → s.sharers = [] → s.inval = [] → q.pa % 128 = 0 →
    let line := (List.range 16).map (fun k => leNat (s.rdMem (q.pa + 8 * k) 8))
    let bad : FaultInfo :=
      { code := 0x0C, cause := BitVec.ofNat 8 e.cause, addr := q.va, aux0 := BitVec.ofNat 64 q.index }
    let m := gRun e.code q.args s.gtime line
    ∃ t w', exec (.lnxRequestServe wid lane errs) s = .next t ∧ t.warp wid = some w' ∧
      (∀ k, k ≠ wid → t.warp k = s.warp k) ∧
      w' = { w with lwct := w'.lwct, lnx := w'.lnx } ∧ ∃ q', w'.lnx = [q'] ∧
      { q' with reply := none, fault := none } = q ∧
      (e.cause ≠ 0 → t.mem = s.mem ∧ q'.reply = none ∧ q'.fault = some bad) ∧
      (e.cause = 0 → s.poisonedR q.pa 128 = true → t.mem = s.mem ∧ q'.fault = none ∧
        q'.reply = some (0, 0x80)) ∧
      (e.cause = 0 → s.poisonedR q.pa 128 = false → q'.fault = none ∧
        q'.reply = some (BitVec.ofNat 64 m.ret, BitVec.ofNat 8 m.stat) ∧
        t.mem = wrMem q.pa (m.line.flatMap (natLe 8)) s.mem))

/-- RETIRE_PACKET, CHECK and COMMIT (01 R11 to R17, R20 to R24, R31, R36; the order of classes is log entry
117). -/
def Obligations.RetirePackets : Prop :=
  let settled (s : State) (core part wid : Nat) : Prop :=
    ∀ q b, s.seqOf core part wid = some (q, b) → b.run.isSome = true
  (∀ core part p s, part < 4 → s.coreHalted core = false →
    (s.packetWarp core part p.warp = none → exec (.retirePacket core part p) s = .next s.finish) ∧
    (∀ wid w, s.packetWarp core part p.warp = some wid → s.warp wid = some w →
      s.blockOff (blkOf wid) = false →
      let os := s.partOut core part
      let room := (os.length < 64 ∧ w.level ≠ 5 ∧ ∀ o ∈ os, s.lockstep o.wid = false) ∨ os = []
      let weak := ∃ i, decode p.words = .ok i ∧ isWeakLoad i = true
      let allowed := room ∧ (p.vp = true → w.level = 0 ∧ weak) ∧ (p.sr = true → w.level < 2)
      let o : Outstanding := { wid := wid, p := p, checked := false, ran := false, dst := [], faults := [],
                               addrs := [], reads := [], srec := none }
      (allowed → exec (.retirePacket core part p) s =
        .next (s.modCore core (fun k => { k with out := k.out ++ [(part, o)] })).finish) ∧
      (¬ allowed → exec (.retirePacket core part p) s = .next s.finish))) ∧
  (∀ core part idx errs s o, (s.partOut core part)[idx]? = some o → errs < 3 →
    s.coreHalted core = false → s.blockOff (blkOf o.wid) = false → settled s core part o.wid →
    (∀ i, decode o.p.words = .ok i → isCheckedLoad i = false) →
    exec (.check core part idx errs) s = .next (State.finish ((s.modCore core (fun k =>
      { k with mmSoft := min 0xFFFF (k.mmSoft + errs) })).modCore core (fun k =>
        { k with out := setOut part { o with checked := true } idx k.out })))) ∧
  (∀ core part idx s o w ty sc m (n : Fin 112) imm (ps : Nat → List Piece),
    (s.partOut core part)[idx]? = some o →
    s.coreHalted core = false → s.blockOff (blkOf o.wid) = false → settled s core part o.wid →
    s.warp o.wid = some w → applyClaims o.p w = w → w.graft = none →
    decode o.p.words = .ok (.ld false false ty sc m (.v n) imm) →
    let c := packetCtx core part o w
    let size := (match ty with | .z8 | .s8 => 1 | .z16 | .s16 => 2 | .b32 => 4 | .b64 => 8 | .b128 => 16)
    n.val + size / 4 ≤ 112 → NoStores s c →
    (∀ l, l < 32 → o.p.mask.getLsbD l = true →
      s.reach c l m.space (MemOp.addr s c w l m (imm.signExtend 64)) size .read = .ok (ps l) ∧
      ∀ p ∈ ps l, p.clean s c false) →
    ∃ t o' s1, exec (.check core part idx 0) s = .next t ∧ (t.partOut core part)[idx]? = some o' ∧
      o' = { o with checked := true, ran := true, dst := o'.dst, faults := [], addrs := o'.addrs,
                    reads := o'.reads, srec := none } ∧
      (∀ l, l < 32 → o.p.mask.getLsbD l = true →
        o'.addrs.find? (fun x => x.1 == l) = some (l, MemOp.addr s c w l m (imm.signExtend 64)) ∧
        (o'.dst.filter (fun x => x.lane == l)).map (fun x => (x.key, x.val)) =
          (ldWords ty ((ps l).flatMap (fun p => p.bytes s c false))).zipIdx.map (fun x =>
            (n.val + x.2, x.1))) ∧
      Loaded s s1 ∧ { t with turn := s.turn, tick := s.tick, fresh := s.fresh, gtime := s.gtime,
                             cores := s.cores, warps := s.warps } =
        { s1 with fresh := s.fresh, cores := s.cores, warps := s.warps } ∧
      (∀ k, t.warp k = s.warp k) ∧
      (∀ k, { t.core k with out := (s.core k).out, mmSoft := (s.core k).mmSoft } =
        { s1.core k with out := (s.core k).out, mmSoft := (s.core k).mmSoft })) ∧
  (∀ core part idx errs s o, (s.partOut core part)[idx]? = some o → 3 ≤ errs →
    (s.core core).failed = false → ∃ t, exec (.check core part idx errs) s = .next t ∧
      (t.core core).failed = true ∧ (t.core core).out = [] ∧
      (t.core core).mmSoft = min 0xFFFF ((s.core core).mmSoft + 2) ∧
      t.warps = s.warps ∧ t.mem = s.mem ∧ ∀ k, k ≠ core → t.core k = s.core k) ∧
  (∀ core part idx s o q b r w c i body, (s.partOut core part)[idx]? = some o → o.checked = true →
    s.notOldest core part idx o = false → s.coreHalted core = false → s.blockOff (blkOf o.wid) = false →
    s.seqOf core part o.wid = some (q, b) → b.run = some r → s.warp o.wid = some w → w.bad = [] →
    keysRise 0 s.warps = true →
    let u : State := { s.modCore core (fun k => { k with out := dropOut part idx k.out }) with
      turn := .issue core part q }
    u.ctx? = some c → c.tag = none → u.found c w = .instr i → bodyOf i = some body →
    preFault i c w = none →
    let keys := keysOf w (lowLane c.mask) (regUse i).1
    let lks := keys.filter (fun k => decide (k < 4096))
    let uks := keys.filter (fun k => decide (4096 ≤ k))
    let claimed := (∀ x ∈ o.p.srcv ++ o.p.srcu, w.rdKey x.lane x.key = x.val) ∧
      (∀ x ∈ o.p.srcf, (w.lane x.lane).f.setWidth 32 = x.val) ∧
      (lks.length ≤ 6 → ∀ k ∈ lks, ∀ l ∈ lanesOf c.mask, ∃ x ∈ o.p.srcv, x.key = k ∧ x.lane = l) ∧
      (uks.length ≤ 4 → ∀ k ∈ uks, ∃ x ∈ o.p.srcu, x.key = k) ∧
      ((flagReads i).f ≠ [] → ∀ l ∈ lanesOf c.mask, ∃ x ∈ o.p.srcf, x.lane = l) ∧
      ∀ x, x ∈ o.p.addr ↔ ∃ y ∈ u.addrsOf c w i, x = (y.1, y.2.setWidth 55)
    (isCheckedLoad i = true → ¬ (o.ran = true ∧ claimed)) →
    -- what the check comes to, on lanes with no flags raised before
    let w0 := w.modLanes c.mask (fun l => { l with fpf := 0 })
    let r0 := body c { u with warps := tset o.wid w0 u.warps }
    let ok := c.mask &&& ~~~maskOf (r0.faults.map Prod.fst)
    let w2 := (r0.s.warp o.wid).getD w
    let waits := ∃ a b d, r0.flow = .stay a b d
    let values := ∀ x, x ∈ o.p.dst ↔ x ∈ u.dstClaims o.wid i w2 ok
    let flags := ∀ x : Nat × BitVec 5, x.2 ≠ 0 → (x ∈ o.p.fpf ↔
      x.1 ∈ lanesOf ok ∧ (w2.lane x.1).fpf = x.2)
    let next := o.p.nextMask = (nextOf r0.flow).1 ∧
      (o.p.nextMask ≠ 0 → o.p.nextPc.setWidth 64 = (nextOf r0.flow).2)
    let placed := o.p.pc.setWidth 64 = c.pc ∧ o.p.mask = c.mask ∧ o.p.words = c.words ∧
      o.p.gen.toNat = c.gen % 2 ^ 16 ∧ (¬ waits → o.p.fclaim.toNat = codeOf r0.faults)
    let badValue := isCheckedLoad i = true ∧ ¬ waits ∧ ¬ values
    let results := placed ∧ (isSpeculative i = true → ¬ waits → values ∧ flags ∧ next)
    let counted (v : State) (up : Core → Core) : State :=
      State.modLaunch (((s.block (blkOf o.wid)).map (·.launch)).getD 0)
        (fun L => { L with mismatch := satInc L.mismatch })
        (State.modCore core (fun k => { up k with
          winMis := k.winMis + (if o.p.stall then 0 else 1),
          winLevel5 := k.winLevel5 + (if k.level = 5 then 1 else 0) })
        (State.modCore core (fun k => { k with out := k.out.filter (fun e => e.1 != part) }) v))
    (claimed → ¬ badValue → results → exec (.commit core part idx []) s = exec i u) ∧
    ((s.core core).level ≠ 5 → (s.core core).winLevel5 < 3 → ∃ v, exec i u = .next v.finish ∧
      ((v.core core).level = (s.core core).level → (v.core core).winLevel5 = (s.core core).winLevel5 →
      (¬ claimed → exec (.commit core part idx []) s = .next (counted v (fun k =>
        { k with mmOperand := min 0xFFFF (k.mmOperand + 1) })).finish) ∧
      (claimed → badValue → exec (.commit core part idx []) s = .next (counted v (fun k =>
        { k with mmValue := min 0xFFFF (k.mmValue + 1) })).finish) ∧
      (claimed → ¬ badValue → ¬ results → exec (.commit core part idx []) s = .next (counted v (fun k =>
        { k with mmResult := min 0xFFFF (k.mmResult + 1) })).finish)))) ∧
  (∀ core part idx s o q b r w c ty sc m d imm, (s.partOut core part)[idx]? = some o → o.checked = true →
    s.notOldest core part idx o = false → s.coreHalted core = false → s.blockOff (blkOf o.wid) = false →
    s.seqOf core part o.wid = some (q, b) → b.run = some r → s.warp o.wid = some w → w.bad = [] →
    w.graft = none → keysRise 0 s.warps = true → Going s o.wid →
    let u : State := { s.modCore core (fun k => { k with out := dropOut part idx k.out }) with
      turn := .issue core part q }
    let i : Instr := .ld false false ty sc m d imm
    u.ctx? = some c → c.tag = none → u.found c w = .instr i → preFault i c w = none →
    u.stands i c w o = true → o.faults = [] → (o.dst.map (fun x => (x.key, x.lane))).Nodup →
    (∀ x ∈ o.dst, x.key < 120 ∧ x.lane < 32) →
    ∃ t w', exec (.commit core part idx []) s = .next t ∧ t.mem = s.mem ∧ t.warp o.wid = some w' ∧
      (∀ l n, l < 32 → n < 120 → w'.rdV l n = if c.mask.getLsbD l then
        ((o.dst.find? (fun x => x.key == n && x.lane == l)).map Claim.val).getD (w.rdV l n)
        else w.rdV l n) ∧
      ∀ l, l < 32 → w'.lane l = if c.mask.getLsbD l then Lane.follow c (w.lane l) else w.lane l)

/-- PICK_WARP and RELEASE_WAIT_END (03 R80, R81; 04 R84; 08 R190).

MISMATCH_WINDOW (01 R33, R34; 13 R296, R297). -/
def Obligations.WarpPicksAndWindows : Prop :=
  (
  (∀ core part seq starved s wid w, s.seqAt core part seq = none → seq < 2 → part < 4 →
    s.coreHalted core = false →
    let ready := s.readyWarps core part
    let late := ready.filter (fun e => starved.contains e.1)
    let fresh := ready.filter (fun e => !e.2.yielded)
    let first (l : List (Nat × Warp)) : Prop := (wid, w) ∈ l ∧ ∀ e ∈ l, e.1 ≠ wid → w.age < e.2.age
    let best := ((∀ e ∈ ready, s.inOrder core e = true) ∧
        first ((s.unbound core part).filter (fun e => e.2.canRun)) ∧ (wid, w) ∈ ready) ∨
      ((∀ e ∈ ready, s.inOrder core e = false) ∧
        (if late ≠ [] then first late else if fresh ≠ [] then first fresh else first ready))
    best → (∀ e ∈ s.coreWarps core, ∀ e' ∈ s.coreWarps core, e.1 = e'.1 → e = e') →
    ∃ m w1 t w' b, s.nextGroup wid w = some (m, w1) ∧
      exec (.pickWarp core part seq starved) s = .next t ∧ t.seqAt core part seq = some b ∧
      b = { wid := wid, mask := m, start := (w.lane (lowLane m)).run.getD (w.lane (lowLane m)).pc,
            inGraft := w.inGraft (lowLane m), gen := b.gen, run := none, tag := none } ∧
      let low := w.lane (lowLane m)
      (w.inGraft (lowLane m) = false → b.gen = if low.run = none then s.graft.gen else low.gen) ∧
      t.warp wid = some w' ∧ w'.yielded = false ∧
      w' = { w with lanes := w'.lanes, v := w'.v, yielded := false, lastYield := false,
                    effilk := w'.effilk, level := w'.level } ∧
      (low.run = none → w'.level = (s.core core).level ∧
        w'.effilk = (w.hdrilk || w.ilk || (s.core core).level == 5) ∧
        (∀ k l, l < 32 → fget 0 (32 * k + l) w'.v =
          if 112 ≤ k ∧ k < 120 ∧ m.getLsbD l = true then 0 else fget 0 (32 * k + l) w.v)) ∧
      (low.run ≠ none → w'.level = w.level ∧ w'.effilk = w.effilk ∧ w'.v = w.v) ∧
      (w.lanes.length = 32 → ∀ l, l < 32 → { w'.lane l with pass := (w.lane l).pass } =
          (if low.run = none ∧ m.getLsbD l = true then { w.lane l with gen := b.gen, score := w.score }
           else w.lane l) ∧
        (w.inGraft (lowLane m) = false → m.getLsbD l = true → (w'.lane l).pass = 0)) ∧
      (∀ k, k ≠ wid → t.warp k = s.warp k) ∧ (∀ k, k ≠ core → t.core k = s.core k) ∧
      { t.core core with seqs := (s.core core).seqs } = s.core core ∧
      { t with turn := s.turn, tick := s.tick, fresh := s.fresh, gtime := s.gtime,
               cores := s.cores, warps := s.warps } = s) ∧
  (∀ wid s w k b i u, s.warp wid = some w → w.waits[k]? = some b →
    (∀ j b', j < k → w.waits[j]? = some b' → (b'.tag.map (·.why)) ≠ some .release) →
    (b.tag.map (·.why)) = some .release → s.released (s.coreOf wid) wid b.mask .block = true →
    s.retry wid k = .exec i u → isEvent i = false →
    exec (.releaseWaitEnd wid) s = step { s with turn := .resume wid k }) ∧
  (∀ wid s w k b u c ord sc w1, s.warp wid = some w → w.waits[k]? = some b →
    (∀ j b', j < k → w.waits[j]? = some b' → (b'.tag.map (·.why)) ≠ some .release) →
    (b.tag.map (·.why)) = some .release → s.released (s.coreOf wid) wid b.mask .block = true →
    s.retry wid k = .exec (.fence ord sc) u →
    Resumes u c w1 { why := .release, phase := 0, arg := 0 } →
    (ordRel ord = true → u.released c.core c.wid c.mask sc = true) →
    (∀ x ∈ u.lost, ¬ (x.wid = c.wid ∧ c.mask.getLsbD x.lane = true)) →
    ∃ t, exec (.releaseWaitEnd wid) s = .next t ∧
      LaneDone c (if ordAcq ord then acquired c.core c.wid sc u else u) t w1 (fun _ _ => none)
        (fun _ => Lane.follow c)) ∧
  (∀ wid s, (∀ w b, s.warp wid = some w → b ∈ w.waits → (b.tag.map (·.why)) = some .release →
      s.released (s.coreOf wid) wid b.mask .block = false) →
    exec (.releaseWaitEnd wid) s = .next s.finish)) ∧
  (
  ∀ core s, core < 1024 →
    let k := s.core core
    let mis := k.winMis * 2 ^ s.regF 0x290010 16 5
    let hot := k.winCommits < mis
    let cool := 4 * mis < max k.winCommits 1
    let trim := min k.trim 60
    ∃ t k', exec (.mismatchWindow core) s = .next t ∧ t.core core = k' ∧
      (hot → 1 ≤ k.above → k'.level = max k.level (min 5 (k.winStart + 1)) ∧ k'.above = 0) ∧
      (hot → k.above = 0 → k'.level = k.level ∧ k'.above = 1) ∧
      (¬ hot → k'.above = 0) ∧
      (cool → 63 ≤ k.below → k'.level = max (s.floorOf core) (k.level - 1) ∧ k'.below = 0) ∧
      (cool → k.below < 63 → k'.level = k.level ∧ k'.below = k.below + 1) ∧
      (¬ cool → k'.below = 0) ∧ (¬ hot → ¬ cool → k'.level = k.level) ∧
      (4 ≤ k.level → k'.trim = 85) ∧
      (k.level < 4 → hot → k'.trim = min 60 (trim + 10)) ∧
      (k.level < 4 → 16 * mis < max k.winCommits 1 → k'.trim = trim - 5) ∧
      (k.level < 4 → ¬ hot → max k.winCommits 1 ≤ 16 * mis → k'.trim = trim) ∧
      k' = { k with winMis := 0, winCommits := 0, winLevel5 := 0, winStart := k'.level,
                    level := k'.level, trim := k'.trim, above := k'.above, below := k'.below } ∧
      t.regF (0x291000 + 8 * core) 0 3 = k'.level % 8 ∧
      (∀ o lo n, o % 4 = 0 → o ≠ 0x291000 + 8 * core → t.regF o lo n = s.regF o lo n) ∧
      (∀ j, j ≠ core → t.core j = s.core j) ∧
      { t with turn := s.turn, tick := s.tick, fresh := s.fresh, gtime := s.gtime,
               cores := s.cores, bar2 := s.bar2 } = s)

/-- SLICE_READ_REQUEST, CHECKER_LINE_FILL, SLICE_WRITE, HOST_WINDOW_RESPONSE and WRITE_ACK (01 R17, R19;
08 R178 to R185; 12 R272, R285).

SLICE_EVICT, OWNERSHIP_RECALL and PREDICTOR_DECAY (06 R134; 07 R155; 08 R182, R196; 12 R288). -/
def Obligations.HomeSlicesAndLines : Prop :=
  (
  (∀ core line s, 128 * line < 2 ^ 39 → s.hostBias (128 * line) = false →
    s.flipPage ≠ some (line / 32) →
    let m := s.lineMeta line
    m.owner = none →
    let len := if m.leased = true ∧ m.latest ≤ s.gtime ∧ m.written = false then min 16384 (2 * m.lease)
      else m.lease
    let c : CLine :=
      { line := line, expiry := s.gtime + len, guard := 4, data := s.rdMem (128 * line) 128,
        bad := (if s.poisoned (128 * line) then 1 else 0) +
          (if s.poisoned (128 * line + 64) then 2 else 0) }
    let m' : LineMeta :=
      { m with lease := len, latest := max m.latest (s.gtime + len), leased := true, written := false }
    let u : State := { s with lines := tset line m' s.lines }
    exec (.sliceReadRequest core line) s = .next (u.modCore core (fun k =>
      { k with l1 := c :: k.l1.filter (fun x => x.line != line) })).finish ∧
    exec (.checkerLineFill core line) s = .next (u.modCore core (fun k =>
      { k with cc := c :: k.cc.filter (fun x => x.line != line) })).finish) ∧
  (∀ core id s e, s.sqEntry core id = some e → e.gwct = none →
    (∀ x ∈ (s.core core).sq, sqAfter x e = false) →
    (∀ x ∈ e.writes, 128 * e.line ≤ x.2.1 ∧ x.2.1 + x.2.2.length ≤ 128 * e.line + 128) →
    let m := s.lineMeta e.line
    let bytes := e.writes.foldl (fun m x => wrMem x.2.1 x.2.2 m) s.mem
    let timed (g : Nat) (t : State) : Prop :=
      (t.core core).sq = (s.core core).sq.map (fun x =>
        if x.id = id then { x with gwct := some g } else x) ∧
      { t.core core with sq := (s.core core).sq, scratch := (s.core core).scratch } = s.core core ∧
      (∀ k, k ≠ core → t.core k = s.core k) ∧
      { t with turn := s.turn, tick := s.tick, fresh := s.fresh, gtime := s.gtime, mem := s.mem,
               dram := s.dram, lines := s.lines, lastGwct := s.lastGwct, cores := s.cores,
               chip := s.chip } = s
    (128 * e.line < 2 ^ 39 ∧ s.hostBias (128 * e.line) = false ∨
        2 ^ 60 ≤ 128 * e.line ∧ 128 * e.line < 2 ^ 100 → s.lineTakes e.line = true → s.sharers = [] →
      s.poisonedR (128 * e.line) 128 = false → (m.owner = none ∨ m.owner = some core) →
      let g := max s.gtime m.latest + (if 128 * e.line < 2 ^ 39 then 0 else 100)
      ∃ t, exec (.sliceWrite core id) s = .next t ∧ timed g t ∧ t.mem = bytes ∧ t.chip = s.chip ∧
        (t.core core).scratch = (s.core core).scratch ∧ t.lastGwct = max s.lastGwct g ∧
        tget e.line t.lines = some { m with
          lease := if s.gtime < m.latest then max 64 (m.lease / 2) else m.lease, written := true } ∧
        (∀ k, k ≠ e.line → tget k t.lines = tget k s.lines) ∧ t.poison = s.poison) ∧
    (core < 1024 → (scrKey core 0 ≤ 128 * e.line ∧ 128 * e.line + 128 ≤ scrKey core (2 ^ 40)) →
      ∃ t, exec (.sliceWrite core id) s = .next t ∧ timed s.gtime t ∧ (t.core core).scratch =
          e.writes.foldl (fun m x => wrMem (x.2.1 - scrKey core 0) x.2.2 m) (s.core core).scratch ∧
        t.mem = s.mem ∧ t.chip = s.chip ∧ t.lines = s.lines ∧ t.dram = s.dram ∧ t.lastGwct = s.lastGwct) ∧
    (chipKey 0 ≤ 128 * e.line → ∃ t, exec (.sliceWrite core id) s = .next t ∧ timed s.gtime t ∧
      t.chip = e.writes.foldl (fun m x => wrMem (x.2.1 - chipKey 0) x.2.2 m) s.chip ∧
      t.mem = s.mem ∧ (t.core core).scratch = (s.core core).scratch ∧ t.lines = s.lines ∧
      t.dram = s.dram ∧ t.lastGwct = s.lastGwct) ∧
    (2 ^ 48 ≤ 128 * e.line → 128 * e.line < 2 ^ 49 → s.poisonedR (128 * e.line) 128 = false →
      (s.hostUp = true → ∃ t, exec (.hostWindowResponse core id) s = .next t ∧ timed s.gtime t ∧
        t.mem = bytes ∧ t.lines = s.lines ∧ t.dram = s.dram ∧ t.chip = s.chip ∧
        (t.core core).scratch = (s.core core).scratch ∧ t.lastGwct = max s.lastGwct s.gtime) ∧
      (s.hostUp = false → exec (.hostWindowResponse core id) s = .next s.finish) ∧
      exec (.sliceWrite core id) s = .next s.finish)) ∧
  (∀ core id s e g, s.sqEntry core id = some e → e.gwct = some g →
    (∀ x ∈ s.inval, x.2.2 ≠ e.line) → (2 ^ 48 ≤ 128 * e.line ∧ 128 * e.line < 2 ^ 49 → g ≤ s.gtime) →
    (∀ b ∈ s.blocks, b.2.done = false) →
    let first := ∃ x ∈ (s.core core).sq, x.id < id ∧ x.wid = e.wid ∧ sqOverlap x e = true
    let fill (cs : List CLine) : List CLine := cs.map (fun x =>
      if x.line = e.line then { x with data := s.rdMem (128 * e.line) 128, bad := s.lineBad e.line }
      else x)
    (first → exec (.writeAck core id) s = .next s.finish) ∧
    (¬ first → exec (.writeAck core id) s = .next (State.finish (State.modLaunch e.launch
      (fun L => { L with lastGwct := max L.lastGwct g })
      (State.modCore core (fun k => { k with cc := fill k.cc, l1 := fill k.l1 })
        (State.modWarp e.wid (fun w => { w with lwct := max w.lwct g })
          (s.modCore core (fun k => { k with sq := k.sq.filter (fun x => x.id != id) }))))))))) ∧
  (
  (∀ line s m, tget line s.lines = some m → m.owner = none → 128 * line < 2 ^ 60 →
    (∀ p ∈ s.pins, p.lines.contains line = false) →
    let sl := homeSlice (128 * line)
    let h := fget 0 sl s.horizon
    let u : State := { s with
      lines := tdel line s.lines, dram := tdel line s.dram,
      horizon := fset 0 sl (if s.gtime < m.latest then max h m.latest else h) s.horizon,
      hostCopies := s.hostCopies.filter (· != line) }
    (s.regF 0x280008 0 1 = 0 ∨ s.regF 0x290000 3 1 = 1 →
      exec (.sliceEvict line) s = .next u.finish) ∧
    (∀ d, tget line s.dram = some d → d.interval = s.interval → s.regF 0x280008 0 1 = 1 →
      s.regF 0x290000 3 1 = 0 → (∀ e ∈ s.undoLog, e.line ≠ line) →
      let st := 128 * line / 2 ^ 36
      let fill := fget 0 st s.undoFill + 144
      fill < 768 * 2 ^ 20 → ∃ t, exec (.sliceEvict line) s = .next t ∧
        t.undoLog = s.undoLog ++ [{ line := line, bytes := d.bytes, poison := d.poison }] ∧
        fget 0 st t.undoFill = fill ∧ (∀ k, k ≠ st → fget 0 k t.undoFill = fget 0 k s.undoFill) ∧
        { t with turn := u.turn, tick := u.tick, fresh := u.fresh, gtime := u.gtime,
                 undoLog := u.undoLog, undoFill := u.undoFill, bar2 := u.bar2 } = u ∧
        (t.reg 0x28000C).toNat = max (s.reg 0x28000C).toNat (fill / 2 ^ 20) ∧
        ∀ o, o % 4 = 0 → o ≠ 0x28000C → t.reg o = s.reg o)) ∧
  (∀ line s m, tget line s.lines = some m →
    (m.owner = none → exec (.ownershipRecall line) s = .next s.finish) ∧
    (∀ o, m.owner = some o → exec (.ownershipRecall line) s = .next (State.finish (State.modCore o
      (fun k => { k with pred := k.pred.map (fun p =>
        if p.line = line then { p with ctr := min 3 (p.ctr + 1) } else p) })
      { s with lines := tset line { m with owner := none } s.lines })))) ∧
  (∀ core s, exec (.predictorDecay core) s = .next (s.modCore core (fun k =>
    { k with pred := k.pred.map (fun p => { p with ctr := p.ctr - 1 }) })).finish))

/-- PAGE_WALK and SHOOTDOWN (07 R156 to R159, R162; 09 R208; 10 R244, R245). -/
def Obligations.TranslationsAndShootdowns : Prop :=
  (∀ core asid (va : BitVec 55) s,
    let root := (s.reg64 (rootOff asid)).toNat
    let entry (pa : Nat) : Nat := leNat (s.rdMem pa 8)
    let v := va.toNat
    let a2 := root / 2 ^ 16 % 2 ^ 36 * 2 ^ 16 + 8 * (v / 2 ^ 42 % 2 ^ 13)
    let a1 := entry a2 / 2 ^ 7 % 2 ^ 45 * 128 + 8 * (v / 2 ^ 29 % 2 ^ 13)
    let a0 := entry a1 / 2 ^ 7 % 2 ^ 45 * 128 + 8 * (v / 2 ^ 16 % 2 ^ 13)
    let a3 := entry a0 / 2 ^ 7 % 2 ^ 45 * 128 + 8 * (v / 2 ^ 12 % 2 ^ 4)
    let table (e : Nat) : Prop := e % 2 ^ 7 = 3 ∧ e / 2 ^ 52 = 0
    let x : TlbEntry := { asid := asid, vpage := v / 2 ^ 12, shift := 12, leaf := BitVec.ofNat 64 (entry a3) }
    root % 2 ^ 16 = 1 → root / 2 ^ 52 = 0 → (∀ a ∈ [a2, a1, a0, a3], s.poisoned a = false) →
    table (entry a2) → entry a2 / 2 ^ 7 % 2 ^ 9 = 0 → table (entry a1) →
    entry a1 / 2 ^ 7 % 2 ^ 9 = 0 → table (entry a0) → entry a3 % 4 = 1 →
    (∀ e ∈ s.walkCache, e.1 ≠ core / Config.coresPerDie) → entry a3 / 2 ^ 6 % 4 ≠ 3 → entry a3 / 2 ^ 10 % 4 = 0 → entry a3 / 2 ^ 52 = 0 →
    ∃ t, exec (.pageWalk core asid va) s = .next t ∧
      (t.core core).tlb.head? = some x ∧
      t.dieTlb.head? = some (core / Config.coresPerDie, x) ∧ (∀ e ∈ t.dieTlb.drop 1, e ∈ s.dieTlb) ∧
      (∀ e, e ∈ t.walkCache ↔ e ∈ s.walkCache ∨ ∃ a ∈ [a2, a1, a0],
        e = (core / Config.coresPerDie, a, BitVec.ofNat 64 (entry a))) ∧
      (∀ m, ({ t with mem := m } : State).leafOf core asid v = .ok (entry a3, 12)) ∧
      (∀ e ∈ (t.core core).tlb.drop 1, e ∈ (s.core core).tlb) ∧ (t.core core).tlb.length ≤ 2048 ∧
      { t.core core with tlb := (s.core core).tlb } = s.core core ∧
      (∀ k, k ≠ core → t.core k = s.core k) ∧
      { t with turn := s.turn, tick := s.tick, fresh := s.fresh, gtime := s.gtime,
               cores := s.cores, dieTlb := s.dieTlb, walkCache := s.walkCache } = s) ∧
  (∀ core asid va s f, s.walk (core / Config.coresPerDie) asid va.toNat = .error f →
    exec (.pageWalk core asid va) s = .next s.finish) ∧
  (∀ s, s.shoot = none →
    let a := s.regF 0x170010 16 16
    let va := (s.reg64 0x170000).toNat
    let len := (s.reg64 0x170008).toNat
    let hit (x : Nat) : Prop := len = 0 ∨ (va ≤ x ∧ x < va + len)
    ∃ t x, exec .shootdown s = .next t ∧ t.shoot = some x ∧ x.asid = a ∧ x.va = va ∧ x.len = len ∧
      (∀ k e, e ∈ (t.core k).tlb ↔ e ∈ (s.core k).tlb ∧
        ¬ ((e.asid = a ∨ e.leaf.getLsbD 8 = true) ∧
          (len = 0 ∨ (e.vpage * 2 ^ e.shift < va + len ∧ va < (e.vpage + 1) * 2 ^ e.shift)))) ∧
      (∀ d e, (d, e) ∈ t.dieTlb ↔ (d, e) ∈ s.dieTlb ∧
        ¬ ((e.asid = a ∨ e.leaf.getLsbD 8 = true) ∧
          (len = 0 ∨ (e.vpage * 2 ^ e.shift < va + len ∧ va < (e.vpage + 1) * 2 ^ e.shift)))) ∧
      t.walkCache = [] ∧ (∀ k, { t.core k with tlb := (s.core k).tlb } = s.core k) ∧
      t.grove = s.grove.filter (fun e => e.asid != a) ∧
      (∀ p, p ∈ x.pend ↔ ∃ k e, (p.1, k) ∈ s.cores ∧ e ∈ k.sq ∧ e.id = p.2 ∧ e.asid = a ∧
        e.gwct = none ∧ ∃ y ∈ e.vas, hit y.toNat) ∧
      (∀ p, p ∈ x.lnx ↔ ∃ w q, (p.1, w) ∈ s.warps ∧ s.asidOf p.1 = a ∧ q ∈ w.lnx ∧ q.lane = p.2 ∧
        q.reply = none ∧ q.fault = none ∧ hit q.va.toNat) ∧
      t.regF 0x170014 1 1 = 1 ∧ (∀ o, o % 4 = 0 → o ≠ 0x170014 → t.reg o = s.reg o) ∧
      { t with turn := s.turn, tick := s.tick, fresh := s.fresh, gtime := s.gtime, bar2 := s.bar2,
               cores := s.cores, grove := s.grove, shoot := s.shoot, dieTlb := s.dieTlb,
               walkCache := s.walkCache } = s) ∧
  (∀ s x, s.shoot = some x →
    let open' := (∃ p ∈ x.pend, ∃ e, s.sqEntry p.1 p.2 = some e ∧ e.gwct = none) ∨
      ∃ p ∈ x.lnx, (s.openLnx p.1 p.2).isSome = true
    (open' → exec .shootdown s = .next s.finish) ∧
    (¬ open' → ∃ t, exec .shootdown s = .next t ∧ t.shoot = none ∧ t.regF 0x170014 1 1 = 0 ∧
      (∀ o, o % 4 = 0 → o ≠ 0x170014 → t.reg o = s.reg o) ∧
      { t with turn := s.turn, tick := s.tick, fresh := s.fresh, gtime := s.gtime, bar2 := s.bar2,
               shoot := s.shoot } = s))

/-- NOP, WAIT and SIGNAL packets, their reading, QUEUE_DOORBELL and ERR_CLEAR (03 R61, R62, R65, R67). -/
def Obligations.QueuesAndWaits : Prop :=
  let word (s : State) (q : Nat) (p : Pkt) (x : Nat) : Prop := pkAddr p.data % 8 = 0 ∧
    s.vRead (via (s.jAsid (s.qJob q))) (pkAddr p.data) 8 = .ok (natLe 8 x) ∧ x < 2 ^ 64
  let holds (p : Pkt) (x : Nat) : Prop := let v := pkValue p.data
    if pkSub p.data = 0 then x = v else if pkSub p.data = 1 then x ≠ v
    else if pkSub p.data = 2 then v ≤ x else x < v
  let acting (q : Nat) (p : Pkt) (s : State) : State := s.modQueue q (fun x => { x with
    pkts := x.pkts.map (fun y => if y.num = p.num then { y with st := .acting } else y) })
  let keeps (s t : State) (os : List Nat) : Prop := ∀ o, o % 4 = 0 → o ∉ os → t.reg o = s.reg o
  (∀ q d s i, NextPacket q d s → (s.queue q).fill = none →
    let n := (s.qHead q).toNat
    let ty := pkType d
    let sub := pkSub d
    (ty = 0 ∧ i = .nopPacket q n) ∨ (ty = 3 ∧ sub = 0 ∧ i = .phasePacket q n) ∨
      (ty = 3 ∧ sub = 1 ∧ i = .phaseClosePacket q n) ∨ (ty = 4 ∧ i = .waitPacket q n) ∨
      (ty = 5 ∧ sub = 0 ∧ i = .signalStorePacket q n) ∨ (ty = 5 ∧ sub = 1 ∧ i = .signalAddPacket q n) ∨
      (ty = 6 ∧ sub = 0 ∧ i = .cancelLaunchPacket q n) ∨
      (ty = 6 ∧ sub = 1 ∧ i = .cancelGraphPacket q n) ∨
      (ty = 6 ∧ sub = 2 ∧ i = .cancelPhasePacket q n) ∨
      (ty = 6 ∧ sub = 3 ∧ i = .cancelJobPacket q n) →
    exec i s = exec i (s.packetIn q d)) ∧
  (∀ q p s, HeldPacket q p s → pkType p.data = 0 →
    ∃ t, exec (.nopPacket q p.num) s = .next t ∧ PacketEnds q p s t) ∧
  (∀ q p s x, HeldPacket q p s → pkType p.data = 4 → word s q p x →
    (holds p x → ∃ t, exec (.waitPacket q p.num) s = .next t ∧
      PacketEnds q { p with st := .acting } (acting q p s) t) ∧
    (¬ holds p x → exec (.waitPacket q p.num) s = .next (acting q p s).finish)) ∧
  (∀ q p s x, q < 16384 → (s.queue q).pkts.find? (fun y => y.num == p.num) = some p →
    p.st = .acting → pkType p.data = 4 → p.num < 2 ^ 32 → word s q p x →
    (holds p x → ∃ t, exec (.waitPacketSample q p.num) s = .next t ∧ PacketEnds q p s t) ∧
    (¬ holds p x → exec (.waitPacketSample q p.num) s = .next s.finish)) ∧
  (∀ q p s u g, HeldPacket q p s → pkType p.data = 5 → (s.qDone q).toNat = p.num →
    pkAddr p.data % 8 = 0 →
    let put (v : Nat) : Prop :=
      s.vWrite (via (s.jAsid (s.qJob q))) (pkAddr p.data) (natLe 8 v) = (.ok g, u)
    (pkSub p.data = 0 → put (pkValue p.data) → ∃ t, exec (.signalStorePacket q p.num) s = .next t ∧
      PacketEnds q p u t) ∧
    (∀ x, pkSub p.data = 1 → word s q p x → put ((x + pkValue p.data) % 2 ^ 64) →
      ∃ t, exec (.signalAddPacket q p.num) s = .next t ∧ PacketEnds q p u t)) ∧
  (∀ q tail s, q < 16384 →
    let far := 2 ^ s.qRlog q < (tail - s.qHead q).toNat
    ∃ t, exec (.queueDoorbell q tail) s = .next t ∧ t.qTail q = tail ∧
      { t.queue q with badTail := (s.queue q).badTail } = s.queue q ∧
      ((t.queue q).badTail = true ↔ far) ∧ (∀ k, k ≠ q → t.queue k = s.queue k) ∧
      keeps s t [qOff q + 0x10, qOff q + 0x1C, qOff q + 8] ∧
      t.qErr q = (if far then s.qErr q ||| 8 else s.qErr q) ∧
      (t.qFrozen q = true ↔ far ∨ s.qFrozen q = true) ∧
      (∀ lo n, lo + n ≤ 23 ∨ (24 ≤ lo ∧ lo + n ≤ 32) →
        t.regF (qOff q + 8) lo n = s.regF (qOff q + 8) lo n) ∧
      { t with turn := s.turn, tick := s.tick, fresh := s.fresh, gtime := s.gtime, bar2 := s.bar2,
               queues := s.queues } = s) ∧
  (∀ q bits s, q < 16384 →
    let e := s.qErr q &&& ~~~bits
    ∃ t, exec (.errClear q bits) s = .next t ∧ t.qErr q = e ∧
      (t.qFrozen q = true ↔ e &&& 0xD ≠ 0 ∧ s.qFrozen q = true) ∧
      t.queue q = (if e &&& 0xD = 0 then { s.queue q with pkts := (s.queue q).pkts.map (fun p =>
        if p.st = .stuck then { p with st := .acting } else p) } else s.queue q) ∧
      (∀ k, k ≠ q → t.queue k = s.queue k) ∧ keeps s t [qOff q + 0x1C, qOff q + 8] ∧
      (∀ lo n, lo + n ≤ 23 ∨ (24 ≤ lo ∧ lo + n ≤ 32) →
        t.regF (qOff q + 8) lo n = s.regF (qOff q + 8) lo n) ∧
      { t with turn := s.turn, tick := s.tick, fresh := s.fresh, gtime := s.gtime, bar2 := s.bar2,
               queues := s.queues } = s)

/-- PHASE_PACKET, PHASE_CLOSE_PACKET, JOB_OPEN and JOB_REOPEN (02 R38, R54; 03 R62, R64, R67). -/
def Obligations.PhasesAndJobs : Prop :=
  let sameLaunches (s u : State) : Prop := ∀ k,
    (u.launch k).map (fun L => { L with readySince := 0 }) =
      (s.launch k).map (fun L => { L with readySince := 0 })
  let rest (s u : State) (os : List Nat) : Prop := (∀ k, u.queue k = s.queue k) ∧ sameLaunches s u ∧
    (∀ o, o % 4 = 0 → o ∉ os → u.reg o = s.reg o) ∧
    { u with turn := s.turn, tick := s.tick, fresh := s.fresh, gtime := s.gtime, bar2 := s.bar2,
             phases := s.phases, launches := s.launches, queues := s.queues } = s
  let stateIs (s u : State) (j v : Nat) : Prop := u.jState j = v ∧
    ∀ lo n, lo + n ≤ 8 ∨ (10 ≤ lo ∧ lo + n ≤ 32) →
      u.regF (jOff j + 0xC) lo n = s.regF (jOff j + 0xC) lo n
  (∀ q p s x, HeldPacket q p s → pkType p.data = 3 → s.qLead q = true →
    let j := s.qJob q
    let old := s.jPhase j
    s.phases.find? (fun y => y.job == j && y.num == old) = some x → x.closed = false →
    1 ≤ s.jOpenPh j → s.jOpenPh j < 2 ^ 32 - 1 → old < 2 ^ 32 - 1 →
    let closed := if x.left = 0 then s.phases.filter (fun y => !(y.job == j && y.num == old))
      else s.phases.map (fun y => if y.job = j ∧ y.num = old then { y with closed := true } else y)
    (pkSub p.data = 0 → ∃ t u, exec (.phasePacket q p.num) s = .next t ∧ PacketEnds q p u t ∧
      u.phases = closed ++ [{ job := j, num := old + 1, left := 0, closed := false }] ∧
      u.jPhase j = old + 1 ∧ u.jOpenPh j = (if x.left = 0 then s.jOpenPh j else s.jOpenPh j + 1) ∧
      rest s u [jOff j + 0x14, jOff j + 0x18]) ∧
    (pkSub p.data = 1 → (∀ e ∈ s.queues, ∀ y ∈ e.2.pkts, pkType y.data ≠ 6) →
      ∃ t u, exec (.phaseClosePacket q p.num) s = .next t ∧ PacketEnds q p u t ∧ u.phases = closed ∧
      u.jOpenPh j = (if x.left = 0 then s.jOpenPh j - 1 else s.jOpenPh j) ∧
      stateIs s u j (if x.left = 0 ∧ s.jOpenPh j = 1 then 0 else 2) ∧
      rest s u [jOff j + 0xC, jOff j + 0x18])) ∧
  (∀ q p s i, HeldPacket q p s → pkType p.data = 3 → s.qLead q = false →
    (pkSub p.data = 0 ∧ i = .phasePacket q p.num) ∨ (pkSub p.data = 1 ∧ i = .phaseClosePacket q p.num) →
    ∃ t, exec i s = .next t ∧ PacketEnds q p (s.setReg (qOff q + 0x1C) (s.qErr q ||| 0x10)) t) ∧
  (∀ j s, j < 4096 →
    (s.jState j = 0 → ∃ t, exec (.jobOpen j) s = .next t ∧ stateIs s t j 1 ∧ t.jPhase j = 0 ∧
      t.jOpenPh j = 1 ∧ t.phases = s.phases ++ [{ job := j, num := 0, left := 0, closed := false }] ∧
      (∀ k, fget 0 k t.grovebase = if k = j then 0 else fget 0 k s.grovebase) ∧
      (∀ k, fget 0 k t.callq = if k = j then 0 else fget 0 k s.callq) ∧
      rest s { t with grovebase := s.grovebase, callq := s.callq }
        [jOff j + 0xC, jOff j + 0x14, jOff j + 0x18]) ∧
    (s.jState j ≠ 0 → exec (.jobOpen j) s = .next s.finish) ∧
    (s.jState j = 3 → ∃ t, exec (.jobReopen j) s = .next t ∧ stateIs s t j 1 ∧
      t.phases = s.phases ∧ rest s t [jOff j + 0xC]) ∧
    (s.jState j ≠ 3 → exec (.jobReopen j) s = .next s.finish))

/-- LAUNCH_PACKET, GRAPH_PACKET and GRAPH_CHECK (02 R39, R42, R44, R53, R57, R59; 03 R62, R65 to R67). -/
def Obligations.AcceptedLaunches : Prop :=
  let others (s t : State) (new : Nat → Prop) : Prop := ∀ k, ¬ new k →
    (t.launch k).map (fun L => { L with readySince := 0 }) =
      (s.launch k).map (fun L => { L with readySince := 0 })
  let marked (s : State) (q n : Nat) (f : Pkt → Pkt) : QState := { s.queue q with
    pkts := (s.queue q).pkts.map (fun y => if y.num = n then f y else y) }
  let rest (s t : State) : Prop :=
    { t with turn := s.turn, tick := s.tick, fresh := s.fresh, gtime := s.gtime,
             launches := s.launches, nextLaunch := s.nextLaunch, graphs := s.graphs,
             nextGraph := s.nextGraph, phases := s.phases, queues := s.queues } = s
  let opened (s t : State) (j : Nat) : Prop := t.nextGraph = s.nextGraph + 1 ∧
    t.phases = s.phases.map (fun y =>
      if y.job = j ∧ y.num = s.jPhase j then { y with left := y.left + 1 } else y) ∧
    ∀ k, k ≠ s.nextGraph → tget k t.graphs = tget k s.graphs
  let lone (s : State) (q : Nat) : Graph :=
    { job := s.qJob q, phase := s.jPhase (s.qJob q), count := 1, read := 1, left := 1, queue := q,
      pkt := none, nodes := [], badNode := false, checked := true, cancelled := false }
  (∀ q d s, NextPacket q d s → (s.queue q).fill = none →
    (pkType d = 1 → s.slotsUsed < Config.graphSlots →
      exec (.launchPacket q (s.qHead q).toNat) s = exec (.launchPacket q (s.qHead q).toNat)
        (State.packetIn q d { s with
          slotsUsed := s.slotsUsed + 1, nextGraph := s.nextGraph + 1,
          graphs := tset s.nextGraph (lone s q) s.graphs,
          phases := s.phases.map (fun y => if y.job = s.qJob q ∧ y.num = s.jPhase (s.qJob q) then
            { y with left := y.left + 1 } else y) } (some s.nextGraph))) ∧
    (pkType d = 2 → exec (.graphPacket q (s.qHead q).toNat) s =
      exec (.graphPacket q (s.qHead q).toNat) (s.packetIn q d))) ∧
  (∀ q d s g x, NextPacket q d s → (s.queue q).fill = some g → tget g s.graphs = some x →
    x.checked = false → pkType d = 1 → s.slotsUsed < Config.graphSlots →
    let p : Pkt := { num := (s.qHead q).toNat, data := d, st := .held, refs := [], node := some g,
                     graph := none, cancel := false }
    ∃ t, exec (.launchPacket q p.num) s = .next t ∧ t.slotsUsed = s.slotsUsed + 1 ∧
      t.queue q = { s.queue q with pkts := (s.queue q).pkts ++ [p], kinds := (s.queue q).kinds ++ [1],
                                   fill := if x.read + 1 < x.count then some g else none } ∧
      (∀ k, k ≠ q → t.queue k = s.queue k) ∧ tget g t.graphs = some { x with read := x.read + 1 } ∧
      (∀ k, k ≠ g → tget k t.graphs = tget k s.graphs) ∧ t.qHead q = s.qHead q + 1 ∧
      (∀ o, o % 4 = 0 → o ≠ qOff q + 0x14 → t.reg o = s.reg o) ∧
      { t with turn := s.turn, tick := s.tick, fresh := s.fresh, gtime := s.gtime, bar2 := s.bar2,
               queues := s.queues, graphs := s.graphs, slotsUsed := s.slotsUsed } = s) ∧
  (∀ q p s g x l, HeldPacket q p s → pkType p.data = 1 → p.graph = some g → tget g s.graphs = some x →
    x.cancelled = false →
    let j := s.qJob q
    let bad := decide (s.jState j ≠ 3 ∧ (pkCount p.data ≠ 0 ∨ pkEdges p.data ≠ []))
    let l0 : Launch := { Launch.new s.nextLaunch j q (some p.num) g x.phase with checked := true }
    s.accept l0 (pkAddr p.data) (s.jState j == 3 || bad) = some l →
    ∃ t L, exec (.launchPacket q p.num) s = .next t ∧ t.launch s.nextLaunch = some L ∧
      { L with readySince := 0 } =
        (if bad then { l with status := 0x16, cancelled := false } else l) ∧
      tget g t.graphs = some { x with nodes := x.nodes ++ [s.nextLaunch] } ∧
      (∀ k, k ≠ g → tget k t.graphs = tget k s.graphs) ∧ t.nextLaunch = s.nextLaunch + 1 ∧
      t.phases = s.phases ∧ t.nextGraph = s.nextGraph ∧ t.queue q = marked s q p.num (fun y => { y with st := .acting, refs := [s.nextLaunch], node := none }) ∧
      (∀ k, k ≠ q → t.queue k = s.queue k) ∧ others s t (fun k => k = s.nextLaunch) ∧ rest s t) ∧
  (∀ q p s, HeldPacket q p s → pkType p.data = 2 → (s.queue q).fill = none →
    let j := s.qJob q
    let n := pkCount p.data
    let g : Graph := { job := j, phase := s.jPhase j, count := n, read := 0, left := n, queue := q,
                       pkt := some p.num, nodes := [], badNode := false, checked := false,
                       cancelled := false }
    ∃ t, exec (.graphPacket q p.num) s = .next t ∧ tget s.nextGraph t.graphs = some g ∧
      opened s t j ∧ t.queue q = { marked s q p.num (fun y =>
        { y with st := .acting, refs := [s.nextGraph] }) with fill := some s.nextGraph } ∧
      (∀ k, k ≠ q → t.queue k = s.queue k) ∧ t.launches = s.launches ∧
      t.nextLaunch = s.nextLaunch ∧ rest s t) ∧
  (∀ s g x n p u, tget g s.graphs = some x → x.pkt = some n → x.queue < 16384 →
    s.pkt x.queue n = some p → x.checked = false → x.count ≤ x.read → s.mayAct x.queue p = true →
    let ps := s.nodePkts x.queue g
    (∀ y ∈ ps, pkType y.data = 1) → x.left = ps.length → ps ≠ [] → (ps.map Pkt.num).Nodup →
    s.jState x.job ≠ 3 → x.nodes = [] →
    (∀ k, s.nextLaunch ≤ k → s.launch k = none) →
    let count (k : Nat) : Nat := (ps.map (fun y => (pkEdges y.data).count k)).sum
    let good := ∀ k y, ps[k]? = some y → (∀ e ∈ pkEdges y.data, k < e ∧ e < ps.length) ∧
      pkCount y.data = count k
    State.acceptNodes x.queue g (graphFails ps) 0 ps s = some u →
    ∃ t, exec (.graphCheck g) s = .next t ∧
      (∀ k y, ps[k]? = some y → ∃ L, t.launch (s.nextLaunch + k) = some L ∧ L.graph = g ∧
        L.node = k ∧ L.job = s.qJob x.queue ∧ L.pkt = some y.num ∧ L.preds = pkCount y.data ∧
        (good → L.edges = pkEdges y.data ∧ L.checked = !pkOrder y.data) ∧
        (¬ good → L.status = 0x16 ∧ L.stage = .ending ∧ L.checked = true)) ∧
      t.nextLaunch = s.nextLaunch + ps.length ∧
      tget g t.graphs = some { x with
        checked := true, nodes := (List.range ps.length).map (fun k => s.nextLaunch + k) } ∧
      t.qErr x.queue = (if graphFails ps then s.qErr x.queue ||| 0x40 else s.qErr x.queue) ∧
      (graphFails ps = true ↔ ¬ good) ∧
      others s t (fun k => s.nextLaunch ≤ k) ∧ t.mem = s.mem ∧ t.warps = s.warps ∧
      t.blocks = s.blocks ∧ t.cores = s.cores) ∧
  (∀ (s : State) (l : Launch) (va : Nat) (frozen : Bool), l.status = 0 →
    (∀ f, s.vRead (via (s.jAsid l.job)) va 128 = .error f → f ≠ heldFault →
      ∃ l', s.accept l va frozen = some l' ∧ l'.status = f.code.setWidth 16 ∧ l'.stage = .ending) ∧
    (∀ h, h < 2 ^ 1024 → s.vRead (via (s.jAsid l.job)) va 128 = .ok (natLe 128 h) →
      let byte (o n : Nat) : Nat := h / 2 ^ (8 * o) % 2 ^ (8 * n)
      let clusters := byte 0x10 4 * byte 0x14 4 * byte 0x18 4
      let size := byte 0x1C 1 * byte 0x1D 1 * byte 0x1E 1
      (frozen = true → ∃ l', s.accept l va frozen = some l' ∧ l'.status = 0x14 ∧
        l'.cancelled = true ∧ l'.stage = .ending) ∧
      (frozen = false → byte 0 2 ≠ 3 ∨ 4 ≤ byte 2 2 ∨ byte 4 1 = 0 ∨ 4 < byte 4 1 ∨ 7 < byte 5 1 ∨
          32 < byte 6 1 ∨ 16 < byte 7 1 ∨ clusters = 0 ∨ size = 0 ∨ 16 < size ∨
          2 ^ 32 - 1 < clusters * size ∨ 16 < byte 0x1F 1 ∨ byte 0x58 8 ≠ 0 ∨ va % 128 ≠ 0 ∨
          byte 8 8 % 128 ≠ 0 ∨ byte 0x40 8 % 64 ≠ 0 ∨ byte 0x48 8 % 8 ≠ 0 ∨ byte 0x28 4 % 16 ≠ 0 ∨
          byte 0x20 4 % 128 ≠ 0 ∨ byte 0x24 4 % 128 ≠ 0 →
        ∃ l', s.accept l va frozen = some l' ∧ l'.status = 0x16 ∧ l'.stage = .ending) ∧
      (∀ l', l.stage = .waiting → s.accept l va frozen = some l' → l'.stage = .waiting →
        l'.hdr = BitVec.ofNat 1024 h ∧ l'.hdrRead = true ∧ l'.blocksLeft = clusters * size ∧
        l'.status = 0)))

/-- CANCEL_LAUNCH_PACKET, CANCEL_GRAPH_PACKET, CANCEL_PHASE_PACKET and CANCEL_JOB_PACKET (02 R58, R59; 03
R62, R68). -/
def Obligations.CancelPackets : Prop :=
  let active (L : Launch) : Prop := L.stage = .waiting ∨ L.stage = .running
  let gone (s t : State) (k : Nat) (L : Launch) : Prop := ∃ L', t.launch k = some L' ∧
    L'.cancelled = true ∧ (L.cancelled = false → L'.status = if L.status = 0 then 0x14 else L.status) ∧
    t.mem = s.mem
  (∀ q p s, HeldPacket q p s → pkType p.data = 6 → pkSub p.data = 0 →
    let n := pkAddr p.data
    ((s.queue q).kinds[n]? = some 1 → ∀ y l L, s.pkt q n = some y → y.refs = [l] → y.st ≠ .done →
      s.launch l = some L → active L → n ≠ p.num →
      ∃ t, exec (.cancelLaunchPacket q p.num) s = .next t ∧ gone s t l L ∧
        (∀ z ∈ (t.queue q).pkts, z.num = p.num → z.st = .acting)) ∧
    ((s.queue q).kinds[n]? = some 1 → ∀ y, s.pkt q n = some y → y.refs = [] → y.st ≠ .done → n ≠ p.num →
      ∃ t, exec (.cancelLaunchPacket q p.num) s = .next t ∧ t.pkt q n = some { y with cancel := true } ∧
        t.mem = s.mem ∧ t.launches = s.launches) ∧
    ((s.queue q).kinds[n]? ≠ some 1 → ∃ t, exec (.cancelLaunchPacket q p.num) s = .next t ∧
      PacketEnds q p (s.setReg (qOff q + 0x1C) (s.qErr q ||| 0x20)) t)) ∧
  (∀ q p s, HeldPacket q p s → pkType p.data = 6 → pkSub p.data = 1 →
    let n := pkAddr p.data
    ((s.queue q).kinds[n]? = some 2 → ∀ y g, s.pkt q n = some y → y.refs = [g] → y.st ≠ .done →
      n ≠ p.num → ∃ t, exec (.cancelGraphPacket q p.num) s = .next t ∧
        (∀ k L, s.launch k = some L → L.graph = g → active L → gone s t k L) ∧
        (∀ x, tget g s.graphs = some x → (tget g t.graphs).map Graph.cancelled = some true) ∧
        (∀ z ∈ (t.queue q).pkts, z.num = p.num → z.st = .acting)) ∧
    ((s.queue q).kinds[n]? ≠ some 2 → ∃ t, exec (.cancelGraphPacket q p.num) s = .next t ∧
      PacketEnds q p (s.setReg (qOff q + 0x1C) (s.qErr q ||| 0x20)) t)) ∧
  (∀ q p s, HeldPacket q p s → pkType p.data = 6 → pkSub p.data = 2 →
    let j := s.qJob q
    let mine (g : Nat) : Prop := ∃ x, tget g s.graphs = some x ∧ x.job = j ∧ x.phase = s.jPhase j
    ∃ t, exec (.cancelPhasePacket q p.num) s = .next t ∧ t.mem = s.mem ∧
      (∀ k L, s.launch k = some L → mine L.graph → active L → gone s t k L) ∧
      ((∃ g, mine g) → ∀ z ∈ (t.queue q).pkts, z.num = p.num → z.st = .acting)) ∧
  (∀ q p s, HeldPacket q p s → pkType p.data = 6 → pkSub p.data = 3 →
    let j := pkAddr p.data
    let valid := j < 4096 ∧ (j = s.qJob q ∨ s.qPriv q = true)
    (valid → s.jState j ≠ 0 → ∃ t, exec (.cancelJobPacket q p.num) s = .next t ∧ t.jState j = 3 ∧
      t.mem = s.mem ∧
      (∀ k L x, s.launch k = some L → tget L.graph s.graphs = some x → x.job = j → active L →
        gone s t k L) ∧
      ∀ z ∈ (t.queue q).pkts, z.num = p.num → z.st = .acting ∧ z.refs = [j]) ∧
    (¬ valid → ∃ t, exec (.cancelJobPacket q p.num) s = .next t ∧
      PacketEnds q p (s.setReg (qOff q + 0x1C) (s.qErr q ||| 0x20)) t))

/-- REFILL and PICK_LAUNCH (02 R45, R47, R48; 03 R69, R70; 10 R242). -/
def Obligations.DispatchOrder : Prop :=
  let same (s t : State) (but : Nat → Prop) : Prop := ∀ k, ¬ but k →
    (t.launch k).map (fun L => { L with readySince := 0 }) =
      (s.launch k).map (fun L => { L with readySince := 0 })
  (∀ s, s.gtime / 1000 ≤ s.refilled → exec .refill s = .next s.finish) ∧
  (∀ s, s.refilled < s.gtime / 1000 → (∀ e ∈ s.launches, e.2.job < 4096) →
    ∃ t, exec .refill s = .next t ∧ t.refilled = s.refilled + 1 ∧
    (∀ j, j < 4096 → t.jDeficit j =
      if ∃ e ∈ s.launches, e.2.job = j ∧ s.isReady e.2 = true then
        min (s.jDeficit j + 32 * s.jWeight j) (1024 * s.jWeight j) else 0) ∧
    (∀ o, o % 4 = 0 → (∀ j, j < 4096 → o ≠ jOff j + 0x1C) → t.reg o = s.reg o) ∧
    same s t (fun _ => False) ∧
    { t with turn := s.turn, tick := s.tick, fresh := s.fresh, gtime := s.gtime, bar2 := s.bar2,
             refilled := s.refilled, launches := s.launches } = s) ∧
  (∀ s L id, s.markReady.launch id = some L → L.id = id → s.isReady L = true → L.skipped = false →
    keysRise 0 s.launches = true → (∀ e ∈ s.launches, e.2.job < 4096) →
    (∀ k X, s.markReady.launch k = some X → k ≠ id → s.isReady X = true → X.skipped = false →
      let a := s.effPrio X
      let b := s.effPrio L
      a < b ∨ (a = b ∧ (s.jDeficit X.job < s.jDeficit L.job ∨
        (s.jDeficit X.job = s.jDeficit L.job ∧ (L.job < X.job ∨ (L.job = X.job ∧ id < k)))))) →
    s.savedClusters id = [] → L.flags % 2 = 0 → L.clSize = 1 → L.die = none →
    let fits (d : Nat) : List Nat := s.coresFor L L.costs d
    ((∀ d, d < Config.dies → fits d = []) → ∃ t, exec .pickLaunch s = .next t ∧
      t.launch id = some { L with skipped := true, skipSince := s.gtime } ∧
      same s t (fun k => k = id) ∧
      { t with turn := s.turn, tick := s.tick, fresh := s.fresh, gtime := s.gtime,
               launches := s.launches } = s) ∧
    ((∃ d, d < Config.dies ∧ fits d ≠ []) → (∀ e ∈ s.blocks, e.1 < s.nextBlock) →
      (∀ e ∈ s.warps, e.1 < 32 * s.nextBlock) → L.parent = none → s.hostLost = false →
      L.warpsPB ≤ 32 →
      ∃ t d c b L', exec .pickLaunch s = .next t ∧ d < Config.dies ∧ c ∈ fits d ∧
        (∀ d', d' < Config.dies → (fits d').length ≤ (fits d).length ∧
          ((fits d').length = (fits d).length → d ≤ d')) ∧
        (∀ c', c' ∈ fits d → (s.coreWarps c).length ≤ (s.coreWarps c').length ∧
          ((s.coreWarps c).length = (s.coreWarps c').length → c ≤ c')) ∧
        t.block s.nextBlock = some b ∧ b.launch = id ∧ b.cluster = L.nextCluster ∧ b.rank = 0 ∧
        b.core = c ∧ b.done = false ∧ b.savedOn = none ∧ b.nwarps = L.warpsPB ∧
        b.tiles = List.replicate L.tiles Tile.init ∧ b.p0 < 4 ∧
        (∀ p, p < 4 → s.freeRegs c p ≤ s.freeRegs c b.p0) ∧
        (L.pedric = false → ∀ k, k < L.warpsPB → ∃ w r, t.warp (32 * s.nextBlock + k) = some w ∧
          r = L.role (L.roleOf k).1 ∧ w.num = k ∧ w.role = (L.roleOf k).1 ∧
          w.part = (b.p0 + k) % 4 ∧ w.vregs = roleVregs r ∧ w.sregs = roleSregs r ∧ w.v = [] ∧
          w.g = [0, 0] ∧ w.age = s.nextAge + k ∧ fget 0 0 w.u = BitVec.ofNat 32 L.args ∧
          fget 0 1 w.u = BitVec.ofNat 32 (L.args / 2 ^ 32) ∧ (∀ n, 2 ≤ n → n < 128 → fget 0 n w.u = 0) ∧
          let live := if (L.roleOf k).2 = true ∧ roleLast r ≠ 0 then roleLast r else 32
          ∀ l, l < 32 → (w.lane l).pc = BitVec.ofNat 64 (L.code + roleEntry r) ∧
            (w.lane l).st = (if l < live then .live else .never) ∧ (w.lane l).f = 0) ∧
        (∀ k, k / 32 ≠ s.nextBlock → t.warp k = s.warp k) ∧
        (∀ k, k ≠ s.nextBlock → t.block k = s.block k) ∧
        t.launch id = some L' ∧ L'.nextCluster = L.nextCluster + 1 ∧
        L'.prio = (if L.nextCluster = 0 then s.effPrio L else L.prio) ∧
        L'.stage = (if L.nextCluster + 1 = L.clusters then .running else L.stage) ∧
        (L.job < 4096 → -(2 ^ 31 : Int) + 1024 ≤ s.jDeficit L.job →
          t.jDeficit L.job = s.jDeficit L.job - L.warpsPB) ∧
        same s t (fun k => k = id) ∧ t.mem = s.mem ∧ t.cores = s.cores))

/-- LAUNCH_COMPLETE (02 R54 to R57; 03 R66; 08 R198). -/
def Obligations.LaunchEnds : Prop :=
  ∀ s id L, s.launch id = some L → L.id = id → L.stage = .ending →
    L.checked = true ∨ L.cancelled = true →
    let others (s t : State) : Prop := ∀ k, k ≠ id → t.launch k = s.launch k
    let rest (s t : State) : Prop :=
      { t with turn := s.turn, tick := s.tick, fresh := s.fresh, gtime := s.gtime,
               launches := s.launches } = s
    (L.endStep = 0 →
      let quiet := (∀ k ∈ s.cores, ∀ e ∈ k.2.sq, e.launch ≠ id) ∧
        (∀ b ∈ s.blocks, b.2.launch ≠ id) ∧ (∀ x ∈ s.xlat, x.1 ≠ id) ∧ s.inval = [] ∧
        L.lastGwct ≤ s.gtime
      (¬ quiet → exec (.launchComplete id) s = .next s.finish) ∧
      (quiet → ∃ t L', exec (.launchComplete id) s = .next t ∧ t.launch id = some L' ∧
        L' = { L with endStep := 1, endWait := L'.endWait } ∧
        (∀ c n, (c, n) ∈ L'.endWait ↔ ∃ k e, (c, k) ∈ s.cores ∧ e ∈ k.sq ∧ e.id = n) ∧
        others s t ∧ rest s t)) ∧
    (L.endStep = 1 →
      let open' := ∃ w ∈ L.endWait, ∃ e ∈ (s.core w.1).sq, e.id = w.2
      (open' → exec (.launchComplete id) s = .next s.finish) ∧
      (¬ open' → ∃ t, exec (.launchComplete id) s = .next t ∧
        t.launch id = some { L with endStep := 2, endTime := s.lastGwct } ∧ others s t ∧ rest s t)) ∧
    (L.endStep = 2 →
      (s.gtime < L.endTime → exec (.launchComplete id) s = .next s.finish) ∧
      (L.endTime ≤ s.gtime → s.inval = [] →
        let u : State := { s with cores := s.cores.map (fun e =>
          (e.1, { e.2 with
            cc := [], l1 := [], out := e.2.out.map (fun o => (o.1, o.2.uncheck)) })) }
        let prio := if L.nextCluster = 0 then
          (if L.noPrio = true ∨ L.hdrRead = false then 0 else min L.hprio (s.jPcap L.job)) else L.prio
        let record := natLe 2 L.status.toNat ++ natLe 2 L.first.toNat ++ natLe 4 L.faults ++
          natLe 8 id ++ natLe 8 L.startT ++ natLe 8 s.gtime ++ natLe 4 L.coresUsed.length ++
          natLe 4 L.mismatch ++ natLe 4 L.abft ++ natLe 4 L.preempt ++ natLe 4 L.tag ++
          natLe 4 L.blocksExited ++ natLe 2 L.job ++ natLe 1 prio ++ natLe 5 0
        (L.recordA = 0 → ∃ t, exec (.launchComplete id) s = .next t ∧
          t.launch id = some { L with endStep := 3, endTime := s.gtime } ∧ others s t ∧ rest u t) ∧
        (∀ g v, L.recordA ≠ 0 → L.recordA % 64 = 0 →
          u.vWrite (via (u.jAsid L.job)) L.recordA record = (.ok g, v) →
          ∃ t, exec (.launchComplete id) s = .next t ∧
            t.launch id = some { L with endStep := 3, endTime := g } ∧ others s t ∧ rest v t))) ∧
    (L.endStep = 3 →
      (s.gtime < L.endTime → exec (.launchComplete id) s = .next s.finish) ∧
      (∀ v x, L.endTime ≤ s.gtime → s.hostLost = false → L.job < 4096 → L.queue < 16384 →
        ((L.signalA = 0 ∧ v = s) ∨ (L.signalA ≠ 0 ∧ L.signalA % 8 = 0 ∧ ∃ g,
          s.vWrite (via (s.jAsid L.job)) L.signalA (natLe 8 L.sigval) = (.ok g, v))) →
        tget L.graph s.graphs = some x → 2 ≤ x.left → (∀ e ∈ L.edges, x.nodes[e]? ≠ some id) →
        (L.pkt = none ∨ ∃ n, L.pkt = some n ∧ ∀ p ∈ (s.queue L.queue).pkts, p.data.getLsbD 9 = false) →
        ∃ t, exec (.launchComplete id) s = .next t ∧ t.mem = v.mem ∧ t.launch id = none ∧
          t.irqs = v.irqs ++ (if L.flags / 2 % 2 = 1 then [s.qIrqv L.queue] else []) ∧
          t.slotsUsed = s.slotsUsed - 1 ∧ tget L.graph t.graphs = some { x with left := x.left - 1 } ∧
          t.ranges = s.ranges.filter (fun r => r.launch != id) ∧
          t.clusters = s.clusters.filter (fun c => c.launch != id) ∧
          (L.status = 0 → (L.edges.filterMap (fun e => x.nodes[e]?)).Nodup →
            ∀ k X, k ≠ id → s.launch k = some X → (t.launch k).map Launch.preds =
              some (if ∃ e ∈ L.edges, x.nodes[e]? = some k then X.preds - 1 else X.preds)) ∧
          (∀ n, L.pkt = some n → ∀ p ∈ (t.queue L.queue).pkts, p.num = n → p.st = .done) ∧
          (L.status = 0 → t.warps = s.warps) ∧
          (L.status ≠ 0 → ∀ k X, k ≠ id → s.launch k = some X → X.stage = .waiting →
            (∃ e ∈ L.edges, x.nodes[e]? = some k) → (t.launch k).map Launch.cancelled = some true)))

/-- QUEUE_HAND_ON of a trap record, SPILL_REFILL, HANDLER_ENTRY, HOST_FAULT_RECORD, RESUME_RETRY and
RESUME_END (03 R75 to R77; 10 R223, R226 to R228, R231). -/
def Obligations.TrapDelivery : Prop :=
  let bit (b : Bool) (n : Nat) : Nat := if b then n else 0
  let bytes (r : FaultRec) : List Byte :=
    natLe 1 r.info.code.toNat ++ natLe 1 r.info.cause.toNat ++
    natLe 1 (bit r.nested 1 + bit r.graft 2 + bit r.info.engine 4 + bit r.host 8) ++
    natLe 1 r.warp ++ natLe 4 r.mask.toNat ++ natLe 8 r.pc.toNat ++ natLe 4 r.words.1.toNat ++
    natLe 4 r.words.2.toNat ++ natLe 8 r.info.addr.toNat ++ natLe 8 r.info.aux0.toNat ++
    natLe 8 r.info.aux1.toNat ++ natLe 8 r.launch ++ natLe 4 r.block ++ natLe 1 r.core ++
    natLe 3 r.seq.toNat
  let kept (wid : Nat) (s t : State) : Prop := (∀ k, k ≠ wid → t.warp k = s.warp k) ∧
    { t with turn := s.turn, tick := s.tick, fresh := s.fresh, gtime := s.gtime,
             warps := s.warps } = s
  let told (wid : Nat) (p : Parked) (w : Warp) (j : Nat) (s t : State) : Prop :=
    let n := s.reg (0x15000C + 0x20 * j)
    (∀ k, k ≠ wid → t.warp k = s.warp k) ∧
    t.warp wid = some { w with parked := w.parked.map (fun q => if q.id = p.id then
      { q with st := .host, record := { q.record with seq := n.setWidth 24 } } else q) } ∧
    t.mem = s.mem ∧ t.irqs = s.irqs ++ [s.regF (0x150008 + 0x20 * j) 8 8] ∧
    t.reg (0x15000C + 0x20 * j) = n + 1 ∧
    ∀ o, o % 4 = 0 → o ≠ 0x15000C + 0x20 * j → t.reg o = s.reg o
  (∀ core wid id rest s, (s.core core).queue = .trap wid id :: rest →
    let drained (p : Parked) : Parked := if p.id = id then
      { p with st := if p.record.host then .hostWait else .handlerWait } else p
    exec (.queueHandOn core) s = .next (State.finish (State.modWarp wid
      (fun w => { w with parked := w.parked.map drained })
      (s.modCore core (fun k => { k with queue := rest }))))) ∧
  (∀ core job x r s, let key := 256 * job + core
    tget key s.spill = some (x :: r) → (∀ y ∈ x :: r, y.st ≠ .noRoom) →
    let n := match x.e with
      | .wcall c => c.here
      | .wmore _ m => m
      | _ => 1
    let room := 64 - qWeight (s.core core).queue
    let joined (e : QEntry) (q : List QEntry) : List QEntry := match e with
      | .wmore j m => q.map (fun y => match y with
        | .wcall c => if c.job = j ∧ c.here < 9 then .wcall { c with here := c.here + m } else y
        | y => y)
      | e => q ++ [e]
    (n ≤ room → exec (.spillRefill core job) s = .next (State.finish
      { s.modCore core (fun k => { k with queue := joined x.e k.queue }) with
        spill := if r = [] then tdel key s.spill else tset key r s.spill,
        spillHead := fset 0 key (fget 0 key s.spillHead + (if x.st = .inRing then n else 0))
          s.spillHead })) ∧
    (∀ c, x.e = .wcall c → room < c.here → 0 < room → exec (.spillRefill core job) s = .next (State.finish
      { s.modCore core (fun k => { k with queue := k.queue ++ [.wcall { c with here := room }] }) with
        spill := tset key ({ x with e := .wmore c.job (c.here - room) } :: r) s.spill,
        spillHead := fset 0 key (fget 0 key s.spillHead + (if x.st = .inRing then room else 0))
          s.spillHead }))) ∧
  (∀ wid s w, s.warp wid = some w →
    let off := s.isVictim (blkOf wid) || s.blockOff (blkOf wid)
    let bank (k : Nat) : Bool := decide (4352 ≤ k ∧ k < 4368)
    (∀ p, off = false → w.handler = none → w.parked.find? (fun p => p.st == .handlerWait) = some p →
      ∃ t w' h, exec (.handlerEntry wid) s = .next t ∧ kept wid s t ∧ t.warp wid = some w' ∧
        w' = { w with parked := w.parked.filter (fun q => q.id != p.id), handler := some h,
                      lanes := w'.lanes, v := w'.v, bad := w.bad.filter (fun k => !bank k),
                      producers := w.producers.filter (fun x => !bank x.key) } ∧
        h = { id := p.id, record := p.record, mask := p.mask, bank := h.bank, pc := p.pc, run := p.run,
              nxt := p.nxt, temps := p.temps, gen := p.gen, score := p.score, elems := p.elems } ∧
        h.bank = (List.range 16).map (fun k =>
          BitVec.ofNat 32 (leNat (((bytes p.record).drop (4 * k)).take 4))) ∧
        (w.lanes.length = 32 → ∀ l, l < 32 → w'.lane l = if p.mask.getLsbD l then
          { w.lane l with pc := p.entry, run := none, elem := none } else w.lane l) ∧
        (∀ k l, l < 32 → fget 0 (32 * k + l) w'.v = if 112 ≤ k ∧ k < 120 ∧ p.mask.getLsbD l = true
          then 0 else fget 0 (32 * k + l) w.v)) ∧
    (off = true ∨ w.handler ≠ none ∨ (∀ p ∈ w.parked, p.st ≠ .handlerWait) → keysRise 0 s.warps = true →
      exec (.handlerEntry wid) s = .next s.finish)) ∧
  (∀ core s wid p w j, (wid, p) ∈ s.hostWaiters core → s.hostPosts = [] → s.frRoom j = true →
    j = s.jobOf wid →
    (∀ e ∈ s.hostWaiters core, s.frRoom (s.jobOf e.1) = true → e ≠ (wid, p) → p.id < e.2.id) →
    s.warp wid = some w → j < 4096 →
    let n := s.reg (frOff j + 0xC)
    let logn := s.frLog j
    let at' := (s.reg64 (frOff j)).toNat + 64 * (n.toNat % 2 ^ logn)
    let rcd := bytes { p.record with seq := n.setWidth 24, host := true }
    let stands (x : ParkSt) (q : Parked) : Parked := if q.id = p.id then { q with st := x } else q
    (s.hostLost = true → ∃ t, exec (.hostFaultRecord core) s = .next t ∧ kept wid s t ∧
      t.warp wid = some { w with parked := w.parked.map (stands .host) }) ∧
    (s.hostLost = false → logn = 0 → ∃ t, exec (.hostFaultRecord core) s = .next t ∧ told wid p w j s t) ∧
    (∀ g v, s.hostLost = false → logn ≠ 0 → s.vWrite (viaCore (s.jAsid j) core) at' rcd = (.ok g, v) →
      ∃ t, exec (.hostFaultRecord core) s = .next t ∧ kept wid v t ∧
        t.warp wid = some { w with parked := w.parked.map (stands (.hostPost g)) }) ∧
    (∀ f v, s.hostLost = false → logn ≠ 0 → f ≠ heldFault →
      s.vWrite (viaCore (s.jAsid j) core) at' rcd = (.error f, v) →
      ∃ t, exec (.hostFaultRecord core) s = .next t ∧
        told wid p w j (s.setRegF (frOff j + 8) 16 1 1) t)) ∧
  (∀ core s wid p w j g, s.hostPosts = [(wid, p)] → s.coreOf wid = core → p.st = .hostPost g →
    g ≤ s.gtime → s.inval = [] → s.hostLost = false → s.warp wid = some w → j = s.jobOf wid → j < 4096 →
    ∃ t, exec (.hostFaultRecord core) s = .next t ∧ told wid p w j s t) ∧
  (∀ j seq s wid p w, s.resumeTarget j seq = some (wid, p) → s.warp wid = some w → p.id < s.nextPark →
    let left := w.parked.filter (fun q => q.id != p.id)
    let named (ends : Bool) : State := s.modWarp wid (fun w => { w with parked := w.parked.map (fun q =>
      if q.id = p.id then { q with st := .resumed ends } else q) })
    (s.blockOff (blkOf wid) = true → exec (.resumeRetry j seq) s = .next (named false).finish ∧
      exec (.resumeEnd j seq) s = .next (named true).finish) ∧
    (s.blockOff (blkOf wid) = false →
      (∃ t w', exec (.resumeRetry j seq) s = .next t ∧ kept wid s t ∧ t.warp wid = some w' ∧
        w' = { w with parked := left, lanes := w'.lanes, v := w'.v } ∧
        (w.lanes.length = 32 → ∀ l, l < 32 → w'.lane l = if p.mask.getLsbD l then
          { w.lane l with pc := p.pc, run := p.run, nxt := p.nxt, bkpt := some p.pc, retry := 0,
                          gen := p.gen, score := p.score, elem := tget l p.elems }
          else w.lane l) ∧
        (∀ k l, l < 32 → fget 0 (32 * k + l) w'.v = if 112 ≤ k ∧ k < 120 ∧ p.mask.getLsbD l = true
          then fget 0 (32 * (k - 112) + l) p.temps else fget 0 (32 * k + l) w.v)) ∧
      (w.lanes.length = 32 → w.handler = none → w.graft = none → w.bars = [] → (∀ m ∈ w.jWait, m = 0) →
        (∀ q ∈ w.parked, ∀ a b, q.st ≠ .graftWait a b) → (∀ cl i, (s.barrier wid cl i).need = none) →
        (∃ l, l < 32 ∧ (w.lane l).st = .live ∧ p.mask.getLsbD l = false) →
        ∃ t w', exec (.resumeEnd j seq) s = .next t ∧ t.mem = s.mem ∧ t.warp wid = some w' ∧
          w'.parked = left ∧ w'.v = w.v ∧
          ∀ l, l < 32 → (w'.lane l).st = if p.mask.getLsbD l then .exited else (w.lane l).st)))

/-- ENGINE_TAKE, QUEUE_HAND_ON of a command, COPY_COMPLETE, RACQ_REMOTE and WAITA_SAMPLE (07 R173 to R175;
08 R190, R197, R200; 18 R418). -/
def Obligations.CopyEngines : Prop :=
  let kept (s t : State) : Prop :=
    { t with turn := s.turn, tick := s.tick, fresh := s.fresh, gtime := s.gtime,
             engines := s.engines } = s
  (∀ die e core k rest s, die < Config.dies → e < Config.enginesPerDie → core ∈ dieCores die →
    (s.core core).queue = .copy k :: rest → k.ctl.dkind ≠ 2 →
    let n := Config.enginesPerDie * die + e
    tget n s.engines = none →
    let u : State := s.modCore core (fun c => { c with queue := rest })
    let g : Engine :=
      { cmd := k, core := core, slot := k.slot, started := false, total := 0, unit := 0, srec := 0,
        drec := 0, gwct := 0, fault := none, written := false }
    let t : State := { u with engines := tset n g s.engines }
    ((∀ c ∈ dieCores die, c ≠ core → (s.core c).queue = []) →
      exec (.engineTake die e) s = .next t.finish) ∧
    (die = core / Config.coresPerDie →
      (∀ f, f < e → tget (Config.enginesPerDie * die + f) s.engines ≠ none) →
      exec (.queueHandOn core) s = .next t.finish)) ∧
  (∀ die e s g, die < Config.dies → e < Config.enginesPerDie →
    let n := Config.enginesPerDie * die + e
    let k := g.cmd
    tget n s.engines = some g → k.ctl.dkind = 0 → k.ctl.skind = 0 →
    (g.started = false →
      let waits := k.ctl.acq = true ∧ ((∃ x ∈ (s.core g.core).sq, x.id ∈ k.captSq) ∨
        (scopeWide k.ctl.ascope = true ∧ s.gtime < k.capt))
      (waits → exec (.copyComplete die e) s = .next s.finish) ∧
      let g' : Engine :=
        { g with started := true, srec := 0, drec := 0, total := k.len / 16, unit := 16 }
      (¬ waits → exec (.copyComplete die e) s =
        .next (State.finish { s with engines := tset n g' s.engines }))) ∧
    (∀ (u v : Nat → State) (bs : Nat → List Byte) (gw : Nat → Nat), g.started = true →
      g.fault = none → k.progress % 16 = 0 → k.progress / 16 < g.total → g.unit = 16 →
      k.ctl.sspace = 0 → k.ctl.dspace = 0 → k.saddr.toNat % 16 = 0 → k.daddr.toNat % 16 = 0 →
      k.saddr.toNat + 16 * g.total < 2 ^ 55 → k.daddr.toNat + 16 * g.total < 2 ^ 55 →
      let m := min 256 (g.total - k.progress / 16)
      let job := ((s.launch k.launch).map Launch.job).getD 0
      let die := (((s.block k.blk).map Block.core).getD 0) / Config.coresPerDie
      let asid : Via := { asid := s.jAsid job, die := die, priv := k.priv }
      u 0 = s →
      (∀ i, i < m → (u i).vRead asid (k.saddr.toNat + k.progress + 16 * i) 16 = .ok (bs i) ∧
        (bs i).length = 16 ∧
        (u i).vWrite asid (k.daddr.toNat + k.progress + 16 * i) (bs i) = (.ok (gw i), v i) ∧
        u (i + 1) = (v i).modLaunch k.launch (fun L => { L with lastGwct := max L.lastGwct (gw i) })) →
      ∃ t g', exec (.copyComplete die e) s = .next t ∧ tget n t.engines = some g' ∧ kept (u m) t ∧
        (∀ j, j ≠ n → tget j t.engines = tget j s.engines) ∧
        g' = { g with cmd := { k with progress := k.progress + 16 * m }, gwct := g'.gwct,
                      written := true } ∧
        g.gwct ≤ g'.gwct ∧ (∀ i, i < m → gw i ≤ g'.gwct) ∧
        (g'.gwct = g.gwct ∨ ∃ i, i < m ∧ g'.gwct = gw i)) ∧
    (∀ w, g.started = true → g.fault = none → g.total ≤ k.progress / 16 → s.warp k.wid = some w →
      w.g16 = false → k.half = 0 → w.w.length = 8 →
      (s.gtime < g.gwct → exec (.copyComplete die e) s = .next s.finish) ∧
      (g.gwct ≤ s.gtime → s.inval = [] → (∀ b ∈ s.blocks, b.2.done = false) →
        let c := w.w.getD k.ctl.wctr.val WaitCtr.zero
        let c' : WaitCtr :=
          { val := c.val + 1, time := max c.time g.gwct, err := c.err,
            rels := if k.ctl.rel then c.rels ++ [(c.val + 1, k.ctl.rscope)] else c.rels }
        ∃ t, exec (.copyComplete die e) s = .next t ∧ tget n t.engines = none ∧
          (∀ j, j ≠ n → tget j t.engines = tget j s.engines) ∧
          t.warp k.wid = some { w with w := w.w.set k.ctl.wctr.val c' } ∧
          (∀ j, j ≠ k.wid → t.warp j = s.warp j) ∧
          { t with turn := s.turn, tick := s.tick, fresh := s.fresh, gtime := s.gtime,
                   engines := s.engines, warps := s.warps } = s))) ∧
  (∀ core s, let k := s.core core
    let ends (r : RacqReq) : Prop := r.ids = [] ∧ r.time ≤ s.gtime ∧ s.inval = []
    ∃ t, exec (.racqRemote core) s = .next t ∧
      (∀ r, r ∈ (t.core core).racq ↔ ∃ x ∈ k.racq, ¬ ends x ∧
        r = if x.ids = [] ∨ ∃ e ∈ k.sq, e.id ∈ x.ids then x
          else { x with ids := [], time := max x.time s.lastGwct }) ∧
      { t.core core with racq := k.racq, cc := k.cc, l1 := k.l1, out := k.out } = k ∧
      ((∃ r ∈ k.racq, ends r) → (t.core core).cc = [] ∧ (t.core core).l1 = [] ∧
        (t.core core).out = k.out.map (fun e => (e.1, e.2.uncheck))) ∧
      ((∀ r ∈ k.racq, ¬ ends r) → (t.core core).cc = k.cc ∧ (t.core core).l1 = k.l1 ∧
        (t.core core).out = k.out) ∧
      (∀ j, j ≠ core → t.core j = s.core j) ∧
      { t with turn := s.turn, tick := s.tick, fresh := s.fresh, gtime := s.gtime,
               cores := s.cores } = s) ∧
  (∀ wid s w b r c cd wd a e m d x imm (ps : Nat → List Piece), s.warp wid = some w → w.waits = [b] →
    b.tag.map (·.why) = some .waita → b.run = some r →
    bindCtx s (s.coreOf wid) w.part 0 b r w = some c → c.wid = wid →
    decode c.words = .ok (.waita cd wd a e m d x imm) → NoStores s c →
    (∀ l, l < 32 → c.mask.getLsbD l = true →
      s.reach c l m.space (MemOp.addr s c w l m (imm.signExtend 64)) (if wd.is64 then 8 else 4) .read
        = .ok (ps l) ∧ ∀ p ∈ ps l, p.clean s c true) → s.wcallFault = [] →
    let got (l : Nat) : Nat := leNat ((ps l).flatMap (fun p => p.bytes s c true))
    let n := if wd.is64 then 64 else 32
    let y (l : Nat) : Nat := (w.rdW l wd.is64 x).toNat
    let met (l : Nat) : Bool := match cd with
      | .eq => got l == y l
      | .ne => got l != y l
      | .uge => decide (y l ≤ got l)
      | .ult => decide (got l < y l)
      | .sge => decide ((BitVec.ofNat n (y l)).toInt ≤ (BitVec.ofNat n (got l)).toInt)
      | .slt => decide ((BitVec.ofNat n (got l)).toInt < (BitVec.ofNat n (y l)).toInt)
    let new := ((lanesOf c.mask).filter (fun l =>
      !(w.waitaDone.any (fun e => e.1 == l)) && met l)).map (fun l => (l, BitVec.ofNat 64 (got l)))
    ∃ t s1, exec (.waitaSample wid) s = .next t ∧ Loaded s s1 ∧
      t.warp wid = some { w with waitaDone := w.waitaDone ++ new } ∧
      (∀ k, k ≠ wid → t.warp k = s.warp k) ∧
      { t with turn := s.turn, tick := s.tick, fresh := s.fresh, gtime := s.gtime,
               warps := s.warps } = { s1 with fresh := s.fresh })

/-- GRAFT_LOAD, GRAFT_ACTIVATE, GRAFT_RETIRE, ENTER_SEGMENT and SEGMENT_TRANSLATE (11 R246, R247, R254 to
R257, R262, R263). -/
def Obligations.GraftsAndSegments : Prop :=
  let regsBut (s t : State) (os : List Nat) : Prop := ∀ o, o % 4 = 0 → o ∉ os → t.reg o = s.reg o
  (∀ copyOk sigOk s,
    let a := (s.reg64 0x200000).toNat
    let n := (s.reg 0x200008).toNat
    let img := s.rdMem a n
    let f (o k : Nat) : Nat := leNat ((img.drop o).take k)
    let slot (k : Nat) : BitVec 512 := BitVec.ofNat 512 (f (128 + 64 * k) 64)
    let read := copyOk = true ∧ a % 128 = 0 ∧ a + n ≤ 2 ^ 39 ∧ s.poisonedR a n = false
    let kind := f 6 1
    let half := if kind = 0 then 0 else 0x20000
    let ident := f 0 4 = 0x47465431 ∧ f 4 2 = 1 ∧ kind ≤ 1 ∧ f 0x14 4 % 16 = 3 ∧
      f 0x14 4 / 2 ^ (4 + Config.stepping) % 2 = 1 ∧ f 0x14 4 / 2 ^ 20 = 0 ∧
      f 0x0C 4 % 128 = 0 ∧ f 0x0C 4 ≤ 0x20000
    let placed := f 0x10 4 = half ∧ f 7 1 = 0 ∧ f 0x20 96 = 0
    let slots := (∀ k, k < 32 → slotBad (slot k) half = false) ∧
      (kind = 1 → ∀ k, k < 8 → slot (24 + k) = 0)
    let ends (v : Nat) : Prop := ∃ t, exec (.graftLoad copyOk sigOk) s = .next t ∧
      t.regF 0x20000C 8 8 = v ∧ t.regF 0x20000C 1 1 = 0 ∧ regsBut s t [0x20000C] ∧
      { t with turn := s.turn, tick := s.tick, fresh := s.fresh, gtime := s.gtime,
               bar2 := s.bar2 } = s
    (s.regF 0x20000C 1 1 = 1 → exec (.graftLoad copyOk sigOk) s = .next s.finish) ∧
    (s.regF 0x20000C 1 1 = 0 →
      (¬ read → ends 7) ∧
      (read → sigOk = false → ends 2) ∧
      (read → sigOk = true → ¬ ident → ends 3) ∧
      (read → sigOk = true → ident → n ≠ 2560 + f 0x0C 4 → ends 6) ∧
      (read → sigOk = true → ident → n = 2560 + f 0x0C 4 → ¬ placed → ends 3) ∧
      (read → sigOk = true → ident → n = 2560 + f 0x0C 4 → placed → f 0x18 8 < s.fuse → ends 4) ∧
      (read → sigOk = true → ident → n = 2560 + f 0x0C 4 → placed → s.fuse ≤ f 0x18 8 →
        ¬ slots → ends 5) ∧
      (read → sigOk = true → ident → n = 2560 + f 0x0C 4 → placed → s.fuse ≤ f 0x18 8 → slots →
        ∃ t at' g, exec (.graftLoad copyOk sigOk) s = .next t ∧ t.graftNew = some (at', g) ∧
          s.gtime + 2000 ≤ at' ∧ t.fuse = f 0x18 8 ∧ t.regF 0x20000C 1 1 = 1 ∧
          t.regF 0x20000C 8 8 = 0 ∧ g.imgver = f 8 4 ∧ g.gen = (s.graft.gen + 1) % 2 ^ 16 ∧
          (s.graft.slots.length = 32 → ∀ k, k < 32 → g.slots.getD k 0 =
            if kind = 1 ∧ 24 ≤ k then s.graft.slots.getD k 0 else slot k) ∧
          (∀ k, k < f 0x0C 4 → fget 0 (half + k) g.region = img.getD (2176 + k) 0) ∧
          (∀ k, kind = 1 → k < 0x20000 → fget 0 k g.region = fget 0 k s.graft.region) ∧
          (∀ k, f 0x0C 4 ≤ k → fget 0 (half + k) g.region = 0) ∧
          t.graft = s.graft ∧ t.graftOld = s.graftOld ∧ t.mem = s.mem ∧ t.warps = s.warps ∧
          t.cores = s.cores))) ∧
  (∀ s at' g, s.graftNew = some (at', g) →
    (s.gtime < at' → exec .graftActivate s = .next s.finish) ∧
    (at' ≤ s.gtime → ∃ t, exec .graftActivate s = .next t ∧ t.graft = g ∧
      t.graftOld = some s.graft ∧ t.graftNew = none ∧
      t.reg64 0x200010 = BitVec.ofNat 64 (g.imgver * 2 ^ 16 + g.gen) ∧
      (g.slots.length = 32 → (∀ k i, k < 32 → i < 16 → t.reg (0x200800 + 64 * k + 4 * i) =
        (g.slots.getD k 0).extractLsb' (32 * i) 32) ∧
        ∀ o, o % 4 = 0 → o ≠ 0x200010 → o ≠ 0x200014 → (o < 0x200800 ∨ 0x201000 ≤ o) →
          t.reg o = s.reg o) ∧
      { t with turn := s.turn, tick := s.tick, fresh := s.fresh, gtime := s.gtime, bar2 := s.bar2,
               graft := s.graft, graftOld := s.graftOld, graftNew := s.graftNew } = s)) ∧
  (∀ s g, s.graftOld = some g →
    let bound := (∃ k ∈ s.cores, ∃ b, some b ∈ k.2.seqs ∧ b.gen = g.gen) ∨
      ∃ w ∈ s.warps, (∃ b ∈ w.2.waits, b.gen = g.gen) ∨ (∃ m, w.2.graft = some m ∧ m.gen = g.gen) ∨
        (∃ l ∈ w.2.lanes, l.st = .live ∧ l.run ≠ none ∧ l.gen = g.gen) ∨
        (∃ h, w.2.handler = some h ∧ h.run ≠ none ∧ h.gen = g.gen) ∨
        ∃ p ∈ w.2.parked, (p.run ≠ none ∧ p.gen = g.gen) ∨ ∃ r, p.st = .graftWait r g.gen
    (bound → exec .graftRetire s = .next s.finish) ∧
    (¬ bound → ∃ t, exec .graftRetire s = .next t ∧ t.graftOld = none ∧
      t.regF 0x20000C 1 1 = 0 ∧ regsBut s t [0x20000C] ∧
      { t with turn := s.turn, tick := s.tick, fresh := s.fresh, gtime := s.gtime, bar2 := s.bar2,
               graftOld := s.graftOld } = s)) ∧
  (∀ wid s n b seg L w p, s.segBinding wid = some (n, b, seg) → b.wid = wid →
    s.launchOf wid = some L → s.warp wid = some w →
    let core := s.coreOf wid
    let word := leNat (s.rdMem p.loc 8)
    s.translate core (s.asidOf wid) (L.trbase + 0x80 + 8 * seg) .read
      (w.inHandler (lowLane b.mask)) = .ok p → s.poisonedR p.loc 8 = false →
    let u : State := s.modCore core (fun k =>
      { k with cc := [], l1 := [], out := k.out.map (fun e => (e.1, e.2.uncheck)) })
    let freed (v t : State) : Prop := (∀ k, k ≠ core → t.core k = v.core k) ∧
      { t.core core with seqs := (v.core core).seqs } = v.core core ∧
      (t.core core).seqs.getD n none = none ∧
      ∀ j, j ≠ n → (t.core core).seqs.getD j none = (v.core core).seqs.getD j none
    (word % 4 = 2 → n < 8 → ∃ t w', exec (.enterSegment wid) s = .next t ∧
      (t.core core).seqs.getD n none =
        some { b with start := BitVec.ofNat 64 (word / 2 ^ 7 % 2 ^ 48 * 128) } ∧
      t.warp wid = some w' ∧ w' = { w with lanes := w'.lanes } ∧
      (w.lanes.length = 32 → ∀ l, l < 32 → w'.lane l = if b.mask.getLsbD l then { w.lane l with
        pc := BitVec.ofNat 64 (word / 2 ^ 7 % 2 ^ 48 * 128), run := none } else w.lane l) ∧
      (∀ k, k ≠ wid → t.warp k = s.warp k) ∧ (t.core core).cc = [] ∧ (t.core core).l1 = [] ∧
      { t with turn := s.turn, tick := s.tick, fresh := s.fresh, gtime := s.gtime,
               cores := s.cores, warps := s.warps } = s) ∧
    (word % 4 = 1 → ∃ t, exec (.enterSegment wid) s = .next t ∧ freed u t ∧
      { t with turn := s.turn, tick := s.tick, fresh := s.fresh, gtime := s.gtime,
               cores := s.cores } = s) ∧
    (∀ q, word % 4 = 0 → s.released core wid b.mask .pkg = true → s.inval = [] → s.lnxHead (q.loc / 128) = false →
      s.translate core (s.asidOf wid) (L.trbase + 0x80 + 8 * seg) .rw
        (w.inHandler (lowLane b.mask)) = .ok q → isPeer q.loc = false → s.sharers = [] →
      ∃ t, exec (.enterSegment wid) s = .next t ∧ t.mem = wrMem q.loc (natLe 8 1) s.mem ∧
        t.xlat = s.xlat ++ [(L.id, seg)] ∧ (t.core core).seqs.getD n none = none ∧
        ∀ k, k ≠ wid → t.warp k = s.warp k)) ∧
  (∀ l seg s L, s.launch l = some L → (l, seg) ∈ s.xlat →
    let asid : Nat := s.jAsid L.job
    let publishes (u : State) (v : Nat) : Prop := ∀ g x,
      u.vWrite (via asid) (L.trbase + 0x80 + 8 * seg) (natLe 8 v) = (.ok g, x) →
      ∃ t, exec (.segmentTranslate l seg) s = .next t ∧ t.mem = x.mem ∧
        t.xlat = s.xlat.filter (fun y => y != (l, seg)) ∧
        t.launch l = some { L with lastGwct := max L.lastGwct g } ∧
        (∀ k, k ≠ l → t.launch k = s.launch k) ∧ t.warps = s.warps
    (∀ f, s.segNative asid L seg = .error f → f ≠ heldFault →
      publishes s (3 + f.code.toNat * 2 ^ 56)) ∧
    (∀ ws old g1 g2 u1 u2, s.segNative asid L seg = .ok ws →
      let size := (4 * ws.length + 127) / 128 * 128
      let at' := (0x80 + 8 * L.nseg + 127) / 128 * 128 + old
      old < 2 ^ 64 → s.vRead (via asid) L.trbase 8 = .ok (natLe 8 old) →
      s.vWrite (via asid) L.trbase (natLe 8 (old + size)) = (.ok g1, u1) →
      (65536 * L.trsize < at' + size → publishes u1 (3 + 0x0B * 2 ^ 56)) ∧
      (at' + size ≤ 65536 * L.trsize →
        u1.vWrite (via asid) (L.trbase + at') (ws.flatMap (fun w => natLe 4 w.toNat)) = (.ok g2, u2) →
        publishes u2 (2 + (L.trbase + at') / 128 * 2 ^ 7))))

/-- The bias flips, HOST_MEM_READ, HOST_MEM_WRITE, BISNP_RESPONSE, HOST_SNOOP, and the host link (12 R269
to R272, R281, R283, R284). -/
def Obligations.HostAndBias : Prop :=
  let regsBut (s t : State) (os : List Nat) : Prop := ∀ o, o % 4 = 0 → o ∉ os → t.reg o = s.reg o
  let kept (s t : State) : Prop :=
    { t with turn := s.turn, tick := s.tick, fresh := s.fresh, gtime := s.gtime, bar2 := s.bar2,
             flip := s.flip } = s
  let ctl (t : State) (lo n : Nat) : Nat := t.regF 0x220014 lo n
  let cur (t : State) : Prop := ctl t 4 1 = fget 0 ((t.reg64 0x220000).toNat / 4096) t.bias % 2
  (∀ (toHost : Bool) s, let i := if toHost then Instr.biasFlipToHost else .biasFlipToDevice
    let pg := (s.reg64 0x220000).toNat
    let n := (s.reg 0x220010).toNat
    let bad := pg % 4096 ≠ 0 ∨ n = 0 ∨ 2 ^ 20 < n ∨ 2 ^ 39 < pg + 4096 * n
    let way := if toHost then 1 else 0
    (s.flip ≠ none → exec i s = .next s.finish) ∧
    (s.flip = none → ctl s 0 1 = 0 → bad → ∃ t, exec i s = .next t ∧ kept s t ∧ t.flip = none ∧
      ctl t 16 16 = 1 ∧ ctl t 3 1 = 0 ∧ ctl t 1 1 = way ∧ cur t ∧ regsBut s t [0x220014]) ∧
    (s.flip = none → ctl s 0 1 = 0 → ¬ bad → ∃ t, exec i s = .next t ∧ kept s t ∧
      t.flip = some { pages := (List.range n).map (fun k => pg / 4096 + k), toHost := toHost,
                      lost := s.hostLost } ∧
      ctl t 3 1 = 1 ∧ ctl t 1 1 = way ∧ regsBut s t [0x220014]) ∧
    (s.flip = none → ctl s 0 1 = 1 → 4096 ≤ n ∨ s.oV n = false ∨ s.oState n ≠ 1 ∨ s.oKind n ≠ 1 →
      ∃ t, exec i s = .next t ∧ kept s t ∧ t.flip = none ∧ ctl t 16 16 = 3 ∧ ctl t 3 1 = 0 ∧
        regsBut s t [0x220014])) ∧
  (∀ s f p r, s.flip = some f → f.pages = p :: r →
    let line (ln : Nat) : Prop := ln / 32 = p
    let clear := if f.toHost then ∀ ln, line ln → s.latestLease ln ≤ s.gtime
      else f.lost = true ∨ ∀ ln, line ln → fget 0 ln s.snoop = 0
    (¬ clear → exec .biasFlipPageDone s = .next s.finish) ∧
    (clear → s.regF 0x280008 0 1 = 0 → ∃ t, exec .biasFlipPageDone s = .next t ∧
      (∀ q, fget 0 q t.bias = if q = p then (if f.toHost then 1 else 0) else fget 0 q s.bias) ∧
      t.flip = (if r = [] then none else some { f with pages := r }) ∧
      (r = [] → ctl t 16 16 = (if f.lost then 2 else 0) ∧ ctl t 3 1 = 0) ∧ cur t ∧
      regsBut s t [0x220014] ∧ t.mem = s.mem ∧
      (f.toHost = true → t.poison = s.poison ∧ t.snoop = s.snoop ∧
        (∀ ln, tget ln t.lines = if ln / 32 = p then none else tget ln s.lines) ∧
        ∀ ln, tget ln t.dram = if ln / 32 = p then none else tget ln s.dram) ∧
      (f.toHost = false → t.lines = s.lines ∧ t.dram = s.dram ∧
        ∀ ln, fget 0 ln t.snoop = (if ln / 32 = p then 0 else fget 0 ln s.snoop) ∧
          (line ln → fget 0 ln s.snoop ≠ 0 → t.poisoned (128 * ln) = true ∧
            t.poisoned (128 * ln + 64) = true)) ∧
      t.warps = s.warps ∧ t.cores = s.cores ∧ t.launches = s.launches)) ∧
  (∀ pa keep s, s.hostUp = true → s.hostLost = false → pa < 2 ^ 39 →
    s.flipPage ≠ some (pa / 4096) →
    (s.hostBias pa = true → exec (.hostMemRead pa keep) s = .next (State.finish
      (if keep then { s with snoop := fset 0 (pa / 128) 2 s.snoop } else s))) ∧
    (s.hostBias pa = false → (s.lineMeta (pa / 128)).owner = none →
      exec (.hostMemRead pa keep) s = .next s.finish)) ∧
  (∀ pa bytes poison s, s.hostUp = true → s.hostLost = false → pa % 128 + bytes.length ≤ 128 →
    pa + bytes.length ≤ 2 ^ 39 → s.flipPage ≠ some (pa / 4096) → s.lnxHead (pa / 128) = false → s.sharers = [] → bytes ≠ [] →
    ∃ t, exec (.hostMemWrite pa bytes poison) s = .next t ∧ t.mem = wrMem pa bytes s.mem ∧
      (poison = true → ∀ k, k < bytes.length → t.poisoned (pa + k) = true) ∧
      (∀ a, a / 64 < pa / 64 ∨ (pa + bytes.length - 1) / 64 < a / 64 → t.poisoned a = s.poisoned a) ∧
      (∀ ln, ln ≠ pa / 128 → tget ln t.lines = tget ln s.lines ∧ fget 0 ln t.snoop = fget 0 ln s.snoop) ∧
      t.warps = s.warps ∧ t.blocks = s.blocks ∧ t.launches = s.launches ∧ t.bias = s.bias) ∧
  (∀ line data s, s.hostUp = true → s.hostLost = false → fget 0 line s.snoop ≠ 0 → s.sharers = [] →
    (s.lineMeta line).owner = none →
    ∃ t, exec (.bisnpResponse line data) s = .next t ∧
      t.mem = (match data with
        | some bs => if bs.length = 128 then wrMem (128 * line) bs s.mem else s.mem
        | none => s.mem) ∧
      fget 0 line t.snoop ≤ 1 ∧ (s.flipPage = some (line / 32) → fget 0 line t.snoop = 0) ∧
      (∀ ln, ln ≠ line → fget 0 ln t.snoop = fget 0 ln s.snoop) ∧
      t.warps = s.warps ∧ t.cores = s.cores ∧ t.bias = s.bias) ∧
  (∀ line excl s, s.hostUp = true → s.hostLost = false → 2 ^ 48 ≤ 128 * line → 128 * line < 2 ^ 49 →
    let c := s.hostCopies.filter (· != line)
    (excl = false → exec (.hostSnoop line excl) s = .next (State.finish { s with hostCopies := c })) ∧
    (excl = true → ∃ t, exec (.hostSnoop line excl) s = .next t ∧ t.hostCopies = c ∧
      (∀ a, a / 128 ≠ line → t.rdByte a = s.rdByte a) ∧
      (∀ a, a / 128 ≠ line → t.poisoned a = s.poisoned a) ∧
      { t with turn := s.turn, tick := s.tick, fresh := s.fresh, gtime := s.gtime, mem := s.mem,
               poison := s.poison, hostCopies := s.hostCopies } = s)) ∧
  (∀ s, (s.hostUp = true → exec .hostLinkDown s =
      .next (State.finish { s with hostUp := false, hostDownAt := s.gtime, aer := s.aer ||| 0x20 })) ∧
    (s.hostUp = false → exec .hostLinkDown s = .next s.finish)) ∧
  (∀ s, let gone := s.hostUp = false ∧ s.hostLost = false ∧ s.regF 0x290000 0 2 = 1 ∧
      s.hostDownAt + 20000 ≤ s.gtime
    (¬ gone → exec .hostLinkLoss s = .next s.finish) ∧
    (gone → ∃ t, exec .hostLinkLoss s = .next t ∧ t.hostLost = true ∧ t.regF 0x290000 0 2 = 3 ∧
      regsBut s t [0x290000] ∧ t.flip = s.flip.map (fun f => { f with lost := true }) ∧
      (∀ k, (t.core k).sq = (s.core k).sq.filter (fun e => !isHost (128 * e.line))) ∧
      (∀ k, { t.core k with sq := (s.core k).sq } = s.core k) ∧
      (∀ x ∈ s.cores, ∀ e ∈ x.2.sq, isHost (128 * e.line) = true → ∀ y ∈ e.writes,
        ∃ z ∈ t.lost, z.wid = e.wid ∧ z.lane = y.1 ∧ z.host = true) ∧
      (∀ ln, fget 0 ln s.snoop ≠ 0 → s.hostBias (128 * ln) = true →
        t.poisoned (128 * ln) = true ∧ t.poisoned (128 * ln + 64) = true ∧ fget 0 ln t.snoop = 0) ∧
      (∀ k L, s.launch k = some L → t.launch k = some { L with status :=
        if (∃ b ∈ s.blocks, b.2.launch = k ∧ b.2.done = false) ∧ L.status = 0 then 0x10
        else L.status }) ∧ t.mem = s.mem ∧ t.warps = s.warps)) ∧
  (∀ s, s.hostUp = false → s.regF 0x290000 0 2 ≠ 0 →
    (s.hostLost = false → s.regF 0x290000 0 2 ≠ 2 → s.gtime < s.hostDownAt + 20000 →
      exec .hostLinkReturn s = .next (State.finish { s with hostUp := true })) ∧
    (s.hostLost = true ∨ s.regF 0x290000 0 2 = 2 ∨ s.hostDownAt + 20000 ≤ s.gtime →
      ∃ t, exec .hostLinkReturn s = .next t ∧ t.regF 0x290000 0 2 = 0 ∧
        t.regF 0x290000 8 4 = s.regF 0x290000 8 4 ∧ t.regF 0x290000 16 8 = s.regF 0x290000 16 8 ∧
        t.mem = s.mem ∧ t.poison = s.poison ∧ t.chip = s.chip ∧ t.fuse = s.fuse ∧ t.warps = [] ∧
        t.blocks = [] ∧ t.launches = [] ∧ t.cores = [] ∧ t.queues = [] ∧ t.bias = [] ∧
        t.hostLost = false))

/-- Fabric ports, lost peers, and coherence objects (12 R273, R274, R276 to R280). -/
def Obligations.FabricAndObjects : Prop :=
  let regsBut (s t : State) (os : List Nat) : Prop := ∀ o, o % 4 = 0 → o ∉ os → t.reg o = s.reg o
  let kept (s t : State) : Prop :=
    { t with turn := s.turn, tick := s.tick, fresh := s.fresh, gtime := s.gtime, bar2 := s.bar2,
             caplist := s.caplist } = s
  let bad (m : Nat) : Nat := ((List.range 9).filter (fun k => bitOf m k)).length
  let st (s : State) (p : Nat) : Nat := s.regF (portOff p) 0 3
  let ost (s : State) (o : Nat) : Nat := s.regF (objOff o + 0x28) 0 8
  (∀ port lane s, port < Config.ports → lane < 8 → s.inval = [] →
    let m := fget 0 port s.portLanes
    bitOf m lane = false → m < 256 → st s port = 2 →
    let n := bad (m + 2 ^ lane)
    ∃ t, exec (.laneFailure port lane) s = .next t ∧ bad (fget 0 port t.portLanes) = n ∧
      bitOf (fget 0 port t.portLanes) lane = true ∧
      (∀ p, p ≠ port → fget 0 p t.portLanes = fget 0 p s.portLanes) ∧
      (3 ≤ n → t.bar2 = s.bar2) ∧
      (n ≤ 2 → st t port = 3 ∧ fget 0 port t.portTime = s.gtime + 1 ∧
        (t.reg (portOff port + 4)).toNat = min (2 ^ 32 - 1) ((s.reg (portOff port + 4)).toNat + 1) ∧
        regsBut s t [portOff port, portOff port + 4]) ∧
      (n = 1 → t.regF (portOff port) 3 1 = 1 ∧ t.regF (portOff port) 8 8 = 8 ∧
        t.regF (portOff port) 4 4 = s.regF (portOff port) 4 4) ∧
      (n = 2 → t.regF (portOff port) 4 4 = 4) ∧
      kept s { t with portLanes := s.portLanes, portTime := s.portTime }) ∧
  (∀ port s, port < Config.ports → fget 0 port s.portLanes = 0 → st s port = 2 → exec (.laneFailure port 8) s =
    .next (State.finish { s with portLanes := fset 0 port 256 s.portLanes })) ∧
  (∀ port s, port < Config.ports → s.inval = [] →
    let ok := st s port = 3 ∧ bad (fget 0 port s.portLanes) < 3 ∧
      s.gtime + 1 ≤ fget 0 port s.portTime + 12000
    (ok → ∃ t, exec (.retrainComplete port) s = .next t ∧ st t port = 2 ∧
      regsBut s t [portOff port] ∧ kept s t) ∧
    (¬ ok → exec (.retrainComplete port) s = .next s.finish)) ∧
  (∀ port ds s, port < Config.ports → s.inval = [] →
    let due := (st s port = 3 ∧ fget 0 port s.portTime + 12000 < s.gtime + 1) ∨
      3 ≤ bad (fget 0 port s.portLanes)
    (st s port = 4 ∨ ¬ due → exec (.portDead port ds) s = .next s.finish) ∧
    (st s port ≠ 4 → due → ∃ t, exec (.portDead port ds) s = .next t ∧ st t port = 4 ∧
      t.regF (portOff port) 3 5 = 0 ∧ regsBut s t [portOff port] ∧
      (∀ d, d ∈ t.peerLost ↔ d ∈ s.peerLost ∨ (d ∈ ds ∧ Config.reaches port d = true ∧
        ∀ p, p < Config.ports → Config.reaches p d = true → p = port ∨ st s p = 4)) ∧
      kept s { t with peerLost := s.peerLost })) ∧
  (∀ dev s, exec (.peerRemovalReport dev) s = .next (State.finish
    (if dev ∈ s.peerLost then s else { s with peerLost := s.peerLost ++ [dev] }))) ∧
  (∀ dev s, dev < 2 ^ 21 → dev ∈ s.peerLost → s.inval = [] →
    let theirs (line : Nat) : Prop := 2 ^ 60 ≤ 128 * line ∧ (128 * line - 2 ^ 60) / 2 ^ 39 = dev
    ∃ t, exec (.peerLost dev) s = .next t ∧ dev ∉ t.peerLost ∧ dev ∈ t.peersGone ∧
      (∀ d, d ≠ dev → (d ∈ t.peerLost ↔ d ∈ s.peerLost) ∧ (d ∈ t.peersGone ↔ d ∈ s.peersGone)) ∧
      (∀ k, k < 4096 → bitOf (s.reg (apOff k)).toNat 21 = true →
        (s.reg (apOff k)).toNat % 2 ^ 21 = dev → t.regF (apOff k) 31 1 = 1) ∧
      (∀ k, (∀ x ∈ (t.core k).cc, ¬ theirs x.line) ∧ (∀ x ∈ (t.core k).l1, ¬ theirs x.line) ∧
        (∀ e, e ∈ (t.core k).sq ↔ e ∈ (s.core k).sq ∧ ¬ theirs e.line)) ∧
      (∀ x ∈ s.cores, ∀ e ∈ x.2.sq, theirs e.line → ∀ y ∈ e.writes,
        ∃ z ∈ t.lost, z.wid = e.wid ∧ z.lane = y.1 ∧ z.host = false) ∧
      (∀ o x, x ∈ tgetD [] o t.sharers ↔ x ∈ tgetD [] o s.sharers ∧ x.1 ≠ dev) ∧
      t.mem = s.mem ∧ t.warps = s.warps ∧ t.launches = s.launches) ∧
  (∀ dev line s, line < 2 ^ 32 → (Config.peerPart dev).toNat = s.myPart → s.hostBias (128 * line) = false →
    s.lineHeld line = false → dev ∉ s.peersGone →
    (∀ o, s.replObj line = some o → let sh := tgetD [] o s.sharers
      ((dev, line) ∉ sh → (∃ x ∈ sh, x.1 = dev) ∨ s.regF (objOff o + 0x28) 8 8 < 16 →
        ∃ t, exec (.replicaRead dev line) s = .next t ∧ tgetD [] o t.sharers = sh ++ [(dev, line)] ∧
          (∀ p, p ≠ o → tgetD [] p t.sharers = tgetD [] p s.sharers) ∧
          regsBut s t [objOff o + 0x28] ∧ ost t o = ost s o ∧ t.regF (objOff o + 0x28) 8 8 =
            (nubNat [] ((sh ++ [(dev, line)]).map Prod.fst)).length % 256 ∧
          kept s { t with sharers := s.sharers }) ∧
      ((dev, line) ∈ sh → exec (.replicaRead dev line) s = .next s.finish)) ∧
    (s.replObj line = none → (s.lineMeta line).owner = none →
      let m := s.lineMeta line
      ∃ t m', exec (.replicaRead dev line) s = .next t ∧ tget line t.lines = some m' ∧
        m'.latest = max m.latest (s.gtime + m'.lease) ∧
        (∀ k, k ≠ line → tget k t.lines = tget k s.lines) ∧
        kept s { t with lines := s.lines })) ∧
  (∀ o dev line expiry s, (o, dev, line) ∈ s.inval → dev ∉ s.peersGone →
    let late (e : SqEntry) : SqEntry :=
      if e.line = line then { e with gwct := e.gwct.map (fun g => max g (expiry + 100)) } else e
    ∃ t, exec (.invalidationAck o dev line expiry) s = .next t ∧
      (∀ x, x ∈ t.inval ↔ x ∈ s.inval ∧ x ≠ (o, dev, line)) ∧
      (∀ x, x ∈ tgetD [] o t.sharers ↔ x ∈ tgetD [] o s.sharers ∧ x ≠ (dev, line)) ∧
      t.lastGwct = max s.lastGwct (expiry + 100) ∧
      (t.lineMeta line).latest = max (s.lineMeta line).latest (expiry + 100) ∧
      (∀ k, (t.core k).sq = (s.core k).sq.map late) ∧
      ((∀ x ∈ s.inval, x.1 = o → x = (o, dev, line)) → ost t o = if s.oV o then 1 else 0) ∧
      t.mem = s.mem ∧ t.warps = s.warps) ∧
  (∀ line s, 2 ^ 60 ≤ 128 * line → (128 * line - 2 ^ 60) / 2 ^ 39 ∉ s.peersGone →
    ∃ t, exec (.replicaInvalidation line) s = .next t ∧
      (∀ a, a / 128 ≠ line → t.rdByte a = s.rdByte a) ∧ kept s { t with mem := s.mem }) ∧
  (∀ line s, (128 * line - 2 ^ 60) / 2 ^ 39 ∈ s.peersGone →
    exec (.replicaInvalidation line) s = .next s.finish) ∧
  (∀ o s, o < 4096 → (∀ x ∈ s.inval, x.1 ≠ o) →
    let v (t : State) : Nat := t.regF (objOff o + 8) 0 1
    let os := [objOff o + 8, objOff o + 0x28]
    let f (k : Nat) : Nat := (s.reg (objOff o + k)).toNat
    let b := (s.reg64 (objOff o)).toNat
    let shape := b % 128 = 0 ∧ f 8 < 4 ∧ f 0x0C % 128 = 0 ∧ f 0x10 % 128 = 0 ∧ f 0x14 % 128 = 0 ∧
      f 0x18 ≠ 0 ∧ f 0x18 % 128 = 0 ∧ 1 ≤ f 0x1C ∧ 1 ≤ f 0x20 ∧ 1 ≤ f 0x24 ∧
      b + (f 0x1C - 1) * f 0x0C + (f 0x20 - 1) * f 0x10 + (f 0x24 - 1) * f 0x14 + f 0x18 ≤ 2 ^ 39 ∧
      (f 0x1C * f 0x20 * f 0x24 * (f 0x18 / 128) ≤ 2 ^ 22 ∨
        ((List.range (2 ^ 32)).filter (s.objCovers o)).length ≤ 2 ^ 22)
    let meets := ∃ p ∈ s.liveObjs, p ≠ o ∧ 1 ≤ ost s p ∧ ost s p ≤ 3 ∧ s.objMeet o p = true
    (v s = 0 → ∃ t, exec (.objectDeclare o) s = .next t ∧ v t = 1 ∧ ost t o = 0 ∧
      regsBut s t os ∧ kept s t) ∧
    (v s = 1 → exec (.objectDeclare o) s = .next s.finish) ∧
    (v s = 1 → ost s o = 0 → ∃ t, exec (.objectValidate o) s = .next t ∧
      (¬ shape → ost t o = 5 ∧ v t = 0) ∧ (shape → meets → ost t o = 4 ∧ v t = 0) ∧
      (shape → ¬ meets → ost t o = 1 ∧ v t = 1) ∧ regsBut s t os ∧ kept s t) ∧
    (v s = 1 → (tgetD [] o s.sharers).Nodup → ∃ t, exec (.objectRemove o) s = .next t ∧ v t = 0 ∧
      t.inval = s.inval ++ (tgetD [] o s.sharers).map (fun x => (o, x.1, x.2)) ∧
      (tgetD [] o s.sharers = [] → ost t o = 0) ∧ kept s { t with inval := s.inval }))

/-- PATROL_SCRUB, UNDO_START and UNDO_RESTORE (12 R284 to R288, R290). -/
def Obligations.MemoryErrorsAndUndo : Prop :=
  let regsBut (s t : State) (os : List Nat) : Prop := ∀ o, o % 4 = 0 → o ∉ os → t.reg o = s.reg o
  let kept (s t : State) : Prop :=
    { t with turn := s.turn, tick := s.tick, fresh := s.fresh, gtime := s.gtime,
             bar2 := s.bar2 } = s
  (∀ pa correctable s, pa < 2 ^ 39 →
    let o := 0x281000 + 0x10 * (pa / 2 ^ 36)
    let up (r : Word) : Nat := min (2 ^ 32 - 1) (r.toNat + 1)
    ∃ t, exec (.patrolScrub pa correctable) s = .next t ∧ t.mem = s.mem ∧
      (correctable = true → (t.reg o).toNat = up (s.reg o) ∧ regsBut s t [o] ∧ kept s t) ∧
      (correctable = false → (t.reg (o + 4)).toNat = up (s.reg (o + 4)) ∧
        (t.reg64 (o + 8)).toNat = pa / 64 * 64 ∧ regsBut s t [o + 4, o + 8, o + 12] ∧
        kept s { t with poison := s.poison, dram := s.dram } ∧
        (∀ d, tget (pa / 128) s.dram = some d → t.poison = s.poison ∧
          let p := if pa / 64 % 2 = 0 then (16, d.poison.2) else (d.poison.1, 16)
          tget (pa / 128) t.dram = some { d with poison := p }) ∧
        (tget (pa / 128) s.dram = none → t.dram = s.dram ∧ t.poisoned pa = true ∧
          ∀ a, a / 64 ≠ pa / 64 → t.poisoned a = s.poisoned a))) ∧
  (∀ s, let n := s.reg64 0x280010
    ∃ t, exec .undoStart s = .next t ∧ t.undoLog = [] ∧ t.undoFill = [] ∧ t.undoWarned = false ∧
      t.undoStarting = none ∧ t.reg64 0x280010 = n + 1 ∧
      t.reg64 0x280000 = BitVec.ofNat 64 s.gtime ∧ t.regF 0x280008 4 1 = 0 ∧ t.reg 0x28000C = 0 ∧
      regsBut s t [0x280000, 0x280004, 0x280008, 0x28000C, 0x280010, 0x280014] ∧
      kept s { t with undoLog := s.undoLog, undoFill := s.undoFill, undoWarned := s.undoWarned,
                      undoStarting := s.undoStarting }) ∧
  (∀ s, keysRise 0 s.bar2 = true →
    let ready := s.regF 0x280008 4 1 = 0 ∧ s.blocks = [] ∧
      ∀ j, j < 4096 → s.jState j = 0 ∨ s.jState j = 3
    (¬ ready → ∃ t, exec .undoRestore s = .next t ∧ t.regF 0x280008 16 8 = 2 ∧
      regsBut s t [0x280008] ∧ kept s t) ∧
    (ready → (s.undoLog.map LogLine.line).Nodup → (∀ e ∈ s.undoLog, e.bytes.length = 128) →
      keysRise 0 s.dram = true → (∀ e ∈ s.dram, e.2.bytes.length = 128) →
      ∃ t, exec .undoRestore s = .next t ∧ t.regF 0x280008 16 8 = 1 ∧ t.undoLog = [] ∧
        t.reg64 0x280010 = s.reg64 0x280010 + 1 ∧
        (∀ e ∈ s.undoLog, t.rdMem (128 * e.line) 128 = e.bytes ∧ t.linePoison e.line = e.poison) ∧
        (∀ ln d, tget ln s.dram = some d → d.interval = s.interval →
          (∀ e ∈ s.undoLog, e.line ≠ ln) → t.rdMem (128 * ln) 128 = d.bytes) ∧
        (∀ a, (∀ e ∈ s.undoLog, e.line ≠ a / 128) →
          (∀ d, tget (a / 128) s.dram = some d → d.interval ≠ s.interval) → t.rdByte a = s.rdByte a) ∧
        t.dram = [] ∧ t.lines = [] ∧ (∀ k, (t.core k).cc = [] ∧ (t.core k).l1 = []) ∧
        t.warps = s.warps ∧ t.launches = s.launches ∧ t.bias = s.bias))

/-- DEVICE_START, WATCHDOG_EXPIRE, SUPPLY_FAULT, FAILS_CLEAR, PACKAGE_POWER_OFF, the thermal and power steps,
FLOOR_WRITE and REGISTER_WRITE (00 R6; 01 R33; 13 R291 to R298). -/
def Obligations.StartsAndManagement : Prop :=
  let regsBut (s t : State) (os : List Nat) : Prop := ∀ o, o % 4 = 0 → o ∉ os → t.reg o = s.reg o
  let kept (s t : State) : Prop :=
    { t with turn := s.turn, tick := s.tick, fresh := s.fresh, gtime := s.gtime,
             bar2 := s.bar2 } = s
  let st (s : State) (lo n : Nat) : Nat := s.regF 0x290000 lo n
  let down (s t : State) : Prop := t.warps = [] ∧ t.blocks = [] ∧ t.launches = [] ∧ t.cores = [] ∧
    t.queues = [] ∧ t.graphs = [] ∧ t.lines = [] ∧ t.graft = GraftGen.clear ∧ t.hostUp = false ∧
    t.fuse = s.fuse ∧ t.clkCount = 0 ∧ t.clkRate = 16 ∧ t.clkSince = s.gtime
  let timed (s t : State) : Prop := t.clkSince = s.gtime ∧
    t.clkCount = s.clkCount + 11 * s.clkRate * (s.gtime - s.clkSince) ∧ 1 ≤ t.clkRate ∧
    (t.clkRate < 16 ↔ t.regF 0x290014 16 1 = 1) ∧ t.clkRate ≤ 16 ∧
    kept s { t with clkSince := s.clkSince, clkCount := s.clkCount, clkRate := s.clkRate }
  let first (r : StartReport) (s : State) : Prop := r.fwSigOk = true ∧ s.fuse ≤ r.fwArc
  let image (r : StartReport) (s : State) (v : Word) : Prop := (first r s ∧ v = r.fwVer) ∨
    (¬ first r s ∧ r.fw2SigOk = true ∧ s.fuse ≤ r.fw2Arc ∧ v = r.fw2Ver)
  let failed (i : Instr) (s : State) (why : Nat) : Prop :=
    (st s 3 1 = 0 → ∃ t, exec i s = .next t ∧ st t 0 2 = 0 ∧ st t 16 8 = why ∧
      st t 8 4 = min 3 (st s 8 4 + 1) ∧ st t 3 1 = (if 2 ≤ st s 8 4 then 1 else 0) ∧ down s t ∧
      t.mem = s.mem) ∧
    (st s 3 1 = 1 → ∃ t, exec i s = .next t ∧ st t 0 2 = 2 ∧ st t 16 8 = why ∧ kept s t)
  (∀ (r : StartReport) v s, st s 0 2 = 0 → st s 8 4 < 3 → image r s v →
    r.stacksOk = true → r.dieOk = [true, true, true, true] → r.timeOk = true → r.vendorOk = true →
    s.fuse ≤ r.vendorArc → r.hostOk = true → r.inTime = true → r.failedCores = [] →
    ∃ t, exec (.deviceStart r) s = .next t ∧ st t 0 2 = 1 ∧ st t 8 4 = 0 ∧ st t 3 1 = 0 ∧
      st t 4 4 = 15 ∧ t.hostUp = true ∧ t.fuse = r.vendorArc ∧ t.graft = vendorGen ∧
      t.reg 0x290004 = v ∧ t.caplist.length = 9 ∧
      (∀ p, p < Config.ports → p ∈ r.ports → t.regF (portOff p) 0 3 = 2 ∧ t.regF (portOff p) 4 4 = 8) ∧
      (∀ c, c < Config.cores → t.regF (0x291000 + 8 * c) 8 8 = c % Config.coresPerDie) ∧
      t.mem = s.mem ∧ t.warps = s.warps ∧ t.cores = s.cores) ∧
  (∀ (r : StartReport) s, st s 0 2 = 0 → st s 8 4 < 3 → st s 3 1 = 0 →
    (¬ first r s → r.fw2SigOk = false → failed (.deviceStart r) s 1) ∧
    (¬ first r s → r.fw2SigOk = true → r.fw2Arc < s.fuse → failed (.deviceStart r) s 2) ∧
    ((∃ v, image r s v) → r.stacksOk = false → failed (.deviceStart r) s 3) ∧
    ((∃ v, image r s v) → r.stacksOk = true → (∃ d, d < 4 ∧ r.dieOk.getD d false = false) →
      failed (.deviceStart r) s 4) ∧
    ((∃ v, image r s v) → r.stacksOk = true → r.dieOk = [true, true, true, true] →
      (r.timeOk = false → failed (.deviceStart r) s 5) ∧
      (r.timeOk = true → r.vendorOk = false ∨ r.vendorArc < s.fuse → failed (.deviceStart r) s 6) ∧
      (r.timeOk = true → r.vendorOk = true → s.fuse ≤ r.vendorArc → r.hostOk = false →
        failed (.deviceStart r) s 7) ∧
      (r.timeOk = true → r.vendorOk = true → s.fuse ≤ r.vendorArc → r.hostOk = true → r.inTime = false →
        failed (.deviceStart r) s 8))) ∧
  (∀ r s, st s 0 2 ≠ 0 → exec (.deviceStart r) s = .next s.finish ∧
    exec .watchdogExpire s = .next s.finish ∧ exec .supplyFault s = .next s.finish) ∧
  (∀ s, st s 0 2 = 0 → failed .watchdogExpire s 8 ∧ failed .supplyFault s 10) ∧
  (∀ s, ∃ t, exec .thermalTrip s = .next t ∧ st t 0 2 = 2 ∧ st t 16 8 = 9 ∧
    st t 8 4 = st s 8 4 ∧ 110 ≤ t.regF 0x290014 24 8 ∧ regsBut s t [0x290000, 0x290014] ∧ kept s t) ∧
  (∀ power temp s, ∃ t, exec (.powerWindow power temp) s = .next t ∧
    t.regF 0x290014 0 16 = min power 65535 ∧ t.regF 0x290014 24 8 = min temp 255 ∧
    t.regF 0x290014 16 1 = (if s.regF 0x290010 0 16 < power ∨ 100 ≤ temp then 1 else 0) ∧
    regsBut s t [0x290014] ∧ timed s t) ∧
  (∀ temp s, (temp < 100 → exec (.thermalThrottle temp) s = .next s.finish) ∧
    (100 ≤ temp → ∃ t, exec (.thermalThrottle temp) s = .next t ∧ t.regF 0x290014 16 1 = 1 ∧
      t.regF 0x290014 24 8 = min temp 255 ∧ regsBut s t [0x290014] ∧ timed s t)) ∧
  (∀ s, keysRise 0 s.bar2 = true → ((∀ j, j < 4096 → s.jState j = 0) → ∃ t, exec .failsClear s = .next t ∧ st t 8 4 = 0 ∧
      st t 0 2 = 0 ∧ st t 3 1 = 0 ∧ down s t ∧ t.mem = s.mem ∧ t.chip = s.chip) ∧
    ((∃ j, j < 4096 ∧ s.jState j ≠ 0) → exec .failsClear s = .next s.finish)) ∧
  (∀ s, ∃ t, exec .packagePowerOff s = .next t ∧ down s t ∧ t.bar2 = [] ∧ t.chip = [] ∧
    ∀ a, t.rdByte a = if a < 2 ^ 39 then 0 else s.rdByte a) ∧
  (∀ core level s, core < Config.cores → ∃ t k', exec (.floorWrite core level) s = .next t ∧
    t.regF (0x291000 + 8 * core) 4 3 = min level 5 ∧ t.core core = k' ∧
    k' = { s.core core with level := max (s.core core).level (min level 5) } ∧
    (∀ k, k ≠ core → t.core k = s.core k) ∧ regsBut s t [0x291000 + 8 * core] ∧
    kept s { t with cores := s.cores, caplist := s.caplist }) ∧
  (∀ off val s, off % 4 = 0 → ∃ t, exec (.registerWrite off val) s = .next t ∧
    regsBut s t [off, 0x220014] ∧
    (0x290000 ≤ off → off < 0x2A0000 → off ≠ 0x290010 → t.reg off = s.reg off) ∧
    (let plain := off ≠ 0x220014 ∧ (off < 0x150000 ∨ (0x170000 ≤ off ∧ off < 0x210000) ∨ 0x218000 ≤ off)
      let free (k : Nat) : Prop := bitOf (s.rwBits off) k = true
      plain → (storedAs off (s.reg off).toNat = (s.reg off).toNat →
        ∀ k, k < 32 → ¬ free k → (t.reg off).getLsbD k = (s.reg off).getLsbD k) ∧
      ((∀ x, storedAs off x = x) → ∀ k, k < 32 → free k → (t.reg off).getLsbD k = val.getLsbD k)) ∧
    (off = 0x170008 ∨ off = 0x200000 ∨ off = 0x220000 → t.reg off = val) ∧
    (∀ q, q < 16384 → off = 0x40 * q → t.reg off = if s.qEn q then s.reg off else val) ∧
    (off = 0x290010 → (t.reg off).toNat / 2 ^ 21 = (s.reg off).toNat / 2 ^ 21 ∧
      1200 ≤ t.regF off 0 16 ∧ t.regF off 0 16 ≤ 2400 ∧ 6 ≤ t.regF off 16 5 ∧ t.regF off 16 5 ≤ 20) ∧
    { t with turn := s.turn, tick := s.tick, fresh := s.fresh, gtime := s.gtime, bar2 := s.bar2,
             peersGone := s.peersGone } = s)

/-- PREEMPT_REQUEST, PREEMPT_ABANDON, PREEMPT_SAVE, CORE_VACATE and BLOCK_RESUME (03 R71; 01 R35; 07
R177; 08 R199; 10 R236 to R243). How the fields of an
image's section are packed within it is the model's (log entry 113); its sections and size are the spec's. -/
def Obligations.Preemption : Prop :=
  let asks (s : State) (l : Nat) (L : Launch) : Prop :=
    L.skipped = true ∧ s.isReady L = true ∧ L.skipSince + 1000 ≤ s.gtime ∧
      ∀ r ∈ s.pre, r.launch ≠ some l
  let preOnly (s t : State) : Prop :=
    { t with turn := s.turn, tick := s.tick, fresh := s.fresh, gtime := s.gtime, pre := s.pre,
             launches := s.launches } = s
  let only (s : State) (blk : Nat) (b : Block) (r : PreReq) : Prop :=
    s.block blk = some b ∧ s.pre = [r] ∧
    (∃ tm, r.victims = [{ launch := b.launch, cluster := b.cluster, time := tm }]) ∧
    (s.clusterBlocks b.launch b.cluster).map Prod.fst = [blk] ∧
    (∃ L, s.launch b.launch = some L ∧ L.flags % 2 = 0)
  let calm (s : State) (blk : Nat) : Prop := ∀ n w, n ∈ s.warpsOf blk → s.warp n = some w →
    ∀ p ∈ w.parked, ∀ e, p.st ≠ .resumed e
  (∀ l s, (∀ L, s.launch l = some L → ¬ asks s l L) →
    exec (.preemptRequest l) s = .next s.finish) ∧
  (∀ l L s, s.launch l = some L → asks s l L → ∃ t, exec (.preemptRequest l) s = .next t ∧
    { t with turn := s.turn, tick := s.tick, fresh := s.fresh, gtime := s.gtime, pre := s.pre } = s ∧
    (t.pre = s.pre ∨ ∃ r, t.pre = s.pre ++ [r] ∧ r.launch = some l ∧ r.abandoned = 0 ∧
      r.gone = [] ∧ r.victims ≠ [] ∧ r.die < 4 ∧ (∀ k ∈ r.cores, k / 64 = r.die) ∧
      L.clSize ≤ s.dieCount L r.die r.cores ∧
      ∀ v ∈ r.victims, v.time = s.gtime ∧ ∃ V, s.launch v.launch = some V ∧ v.launch ≠ l ∧
        s.effPrio V < s.effPrio L ∧
        (s.coreLimit L.job ≤ (s.jobCores L.job).length → V.job = L.job)) ∧
    ((∀ d, s.candidates L d [] = []) → t.pre = s.pre)) ∧
  (∀ l L s d u, s.launch l = some L → asks s l L →
    let units (d : Nat) : Option (List (Nat × Nat)) :=
      s.takeUnits L d ((s.candidates L d []).length + 1) [] (s.candidates L d [])
    d < 4 → units d = some u → u ≠ [] →
    (∀ d' u', d' < 4 → units d' = some u' → u' ≠ [] →
      u.length < u'.length ∨ (u.length = u'.length ∧ d ≤ d')) →
    let r : PreReq :=
      { launch := some l, die := d, cores := s.heldCores d u, gone := [], abandoned := 0,
        victims := u.map (fun c => { launch := c.1, cluster := c.2, time := s.gtime }) }
    exec (.preemptRequest l) s = .next (State.finish { s with pre := s.pre ++ [r] })) ∧
  (∀ req s, (∀ r, s.pre[req]? = some r → r.launch ≠ none → ∀ v ∈ r.victims, s.overdue v = false) →
    exec (.preemptAbandon req) s = .next s.finish) ∧
  (∀ r l L v s, s.pre = [r] → r.launch = some l → s.launch l = some L →
    r.victims.find? s.overdue = some v →
    let u := s.victimUnit v.launch v.cluster
    let left := r.victims.filter (fun x => !u.contains (x.launch, x.cluster))
    ∃ t, exec (.preemptAbandon 0) s = .next t ∧ preOnly s t ∧
      (∀ r' ∈ t.pre, r'.die = r.die ∧ r'.launch = r.launch ∧ r'.abandoned = r.abandoned + 1 ∧
        r'.gone = r.gone ++ u ∧ ∀ x ∈ r'.victims, x ∈ left ∨ x.time = s.gtime) ∧
      (3 ≤ r.abandoned → left ≠ [] → t.launches = s.launches ∧ ∃ r', t.pre = [r'] ∧
        r'.victims = left) ∧
      (3 ≤ r.abandoned → left = [] → r.cores = [] → t.pre = [] ∧
        ∃ L', t.launch l = some L' ∧
          L' = { L with die := some r.die, skipSince := s.gtime, skipped := false })) ∧
  (∀ blk s, (∀ b, s.block blk = some b → ∀ r ∈ s.pre, ∀ v ∈ r.victims,
      v.launch = b.launch → v.cluster ≠ b.cluster) → exec (.preemptSave blk) s = .next s.finish) ∧
  (∀ blk b r s, only s blk b r → s.blockStill blk = false ∨ s.drained blk = false →
    exec (.preemptSave blk) s = .next s.finish) ∧
  (∀ blk b r s, s.block blk = some b → s.pre = [r] →
    (∃ tm, r.victims = [{ launch := b.launch, cluster := b.cluster, time := tm }]) →
    (∃ L, s.launch b.launch = some L ∧ L.flags % 2 = 0) → s.clusterBlocks b.launch b.cluster = [] →
    ∃ t, exec (.preemptSave blk) s = .next t ∧ preOnly s t ∧
      t.pre = if r.cores = [] then [] else [{ r with victims := [] }]) ∧
  (∀ (s : State) blk, (∀ e ∈ tgetD [] blk s.saved, ∃ c, e = QEntry.copy c) →
    (s.blockImage blk).length = s.imageSize blk) ∧
  (∀ (s : State) j (rs : List SaveRange) n, 0 < n →
    let fits (b : Nat) : Prop := b + n ≤ (s.reg (saOff j + 8)).toNat ∧
      ∀ x ∈ rs, x.job = j → b + n ≤ x.base ∨ x.base + x.units ≤ b
    match s.fitRange j rs n with
    | some b => fits b ∧ ∀ k, k < b → ¬ fits k
    | none => ∀ k, ¬ fits k) ∧
  (∀ blk b r s, only s blk b r → s.blockStill blk = true → s.drained blk = true →
    let v := s.compareTiles blk
    let j := ((s.launch b.launch).map (·.job)).getD 0
    let bs := v.blockImage blk
    let n := unitsFor bs.length
    let why := if r.launch = none then 35 else 237
    let wrote (base : Nat) : Option FaultInfo × Nat × State := v.imageWrites (viaCore (s.jAsid j) b.core)
      ((s.reg64 (saOff j)).toNat + 65536 * base) ((bs.length + 15) / 16) bs 0
    (∀ base g u, s.fitRange j s.ranges n = some base → wrote base = (none, g, u) →
      ∃ t, exec (.preemptSave blk) s = .next t ∧
      { t with turn := u.turn, tick := u.tick, fresh := u.fresh, gtime := u.gtime,
               blocks := u.blocks, cores := u.cores, engines := u.engines, spill := u.spill,
               saved := u.saved, ranges := u.ranges, nextSave := u.nextSave, pins := u.pins,
               bar2 := u.bar2, launches := u.launches, pre := u.pre } = u ∧
      t.ranges = u.ranges ++ [{ job := j, launch := b.launch, blk := blk, base := base, units := n }] ∧
      t.reg (saOff j + 12) = BitVec.ofNat 32
        (((t.ranges.filter (fun x => x.job == j)).map (·.units)).sum) ∧
      (∀ x, u.block blk = some x → ∃ y, t.block blk = some y ∧
        { y with cbufs := x.cbufs } = { x with
          savedOn := some x.core, held := true, saveOrder := u.nextSave, imageAt := g, resumeWait := false }) ∧
      (∀ e ∈ t.engines, e.2.cmd.blk ≠ blk) ∧ (∀ k, ∀ e ∈ (t.core k).out, blkOf e.2.wid ≠ blk) ∧
      (u.blockCopies blk ≠ [] → tget blk t.saved = some (u.blockCopies blk)) ∧
      (∀ L, u.launch b.launch = some L → t.launch b.launch =
        some { L with preempt := min (L.preempt + 1) (2 ^ 32 - 1) }) ∧
      t.pre = [{ r with victims := [] }]) ∧
    (s.fitRange j s.ranges n = none → ∃ t, exec (.preemptSave blk) s = .next t ∧
      (r.launch = none → t.mgmt = s.mgmt ++ [35] ∧ (∀ k, t.launch k = s.launch k) ∧
        preOnly s { t with mgmt := s.mgmt } ∧ t.pre = s.pre) ∧
      (r.launch ≠ none → preOnly s t ∧ ∀ x ∈ t.pre, ∀ v ∈ x.victims,
        v.launch = b.launch → v.cluster ≠ b.cluster)) ∧
    (∀ base f g u, s.fitRange j s.ranges n = some base → wrote base = (some f, g, u) →
      (f = heldFault → exec (.preemptSave blk) s = .next s.finish) ∧
      (f ≠ heldFault → f.code ≠ 0x0B → ∃ t, exec (.preemptSave blk) s = .next t ∧
        preOnly { u with blocks := s.blocks, mgmt := u.mgmt ++ [why] } t))) ∧
  (∀ core s, (∃ r ∈ s.pre, ∃ v ∈ r.victims, ∃ e ∈ s.clusterBlocks v.launch v.cluster,
      e.2.core = core) ∨ s.inval ≠ [] ∨ (∃ e ∈ s.blocks, e.2.core = core ∧ e.2.savedOn ≠ none ∧
        e.2.held = true ∧ s.gtime < e.2.imageAt) → exec (.coreVacate core) s = .next s.finish) ∧
  (∀ core s, (∀ r ∈ s.pre, ∀ v ∈ r.victims, ∀ e ∈ s.clusterBlocks v.launch v.cluster,
      e.2.core ≠ core) → s.inval = [] → (∀ e ∈ s.blocks, e.2.core = core → e.2.savedOn ≠ none →
        e.2.held = true → e.2.imageAt ≤ s.gtime) →
    let free (t : State) : Prop :=
      (∀ k, t.block k = (s.block k).map (fun b =>
        if b.core = core ∧ b.savedOn.isSome = true then { b with held := false } else b)) ∧
      (∀ r ∈ t.pre, core ∉ r.cores ∧ (r.victims = [] → r.cores ≠ [])) ∧
      (∀ k L, t.launch k = some L → L.skipped = false) ∧
      (∀ r l L, r ∈ s.pre → r.launch = some l → (∀ x ∈ s.pre, x.launch = some l → x = r) →
        r.victims = [] → (∀ k ∈ r.cores, k = core) → s.launch l = some L →
        ∃ L', t.launch l = some L' ∧ L'.die = some r.die ∧ L'.skipSince = s.gtime)
    ((s.core core).failed = false → ∃ t, exec (.coreVacate core) s = .next t ∧ free t ∧
      { t with turn := s.turn, tick := s.tick, fresh := s.fresh, gtime := s.gtime, pre := s.pre,
               launches := s.launches, blocks := s.blocks } = s) ∧
    ((s.core core).failed = true → (∀ e ∈ s.blocks, e.2.core = core → e.2.savedOn.isSome = true) →
      ∃ t, exec (.coreVacate core) s = .next t ∧ free t ∧
      { t with turn := s.turn, tick := s.tick, fresh := s.fresh, gtime := s.gtime, pre := s.pre,
               launches := s.launches, blocks := s.blocks, cores := s.cores, spares := s.spares,
               bar2 := s.bar2 } = s ∧
      (t.core core).failed = false ∧ (∀ k, k ≠ core → t.core k = s.core k) ∧
      ∀ n, n < 4 → (∀ k, k < n → bitOf (fget 0 (core / 64) s.spares) k = true) →
        bitOf (fget 0 (core / 64) s.spares) n = false →
        (t.core core).disabled = false ∧ (t.core core).queue = (s.core core).queue ∧
        t.regF (csOff core) 0 3 = (if s.regF 0x290000 3 1 = 1 then 5 else s.regF (csOff core) 4 3) ∧
        t.regF (csOff core) 8 8 = 64 + n ∧
        bitOf (fget 0 (core / 64) t.spares) n = true) ∧
    ((s.core core).failed = true → (∀ e ∈ s.blocks, e.2.core = core → e.2.savedOn.isSome = true) →
      (∀ k, k < 4 → bitOf (fget 0 (core / 64) s.spares) k = true) →
      ∃ t, exec (.coreVacate core) s = .next t ∧ free t ∧ (t.core core).disabled = true ∧
        t.regF (csOff core) 7 1 = 1 ∧ t.regF 0x290000 2 1 = 1)) ∧
  (∀ l k s, s.pickBest ≠ some l ∨ (s.savedClusters l).head? ≠ some k →
    (∀ e ∈ s.clusterBlocks l k, ∀ b, s.block e.1 = some b → b.resumeWait = false) →
    exec (.blockResume l k) s = .next s.finish) ∧
  (∀ l k blk b s, s.pickBest ≠ some l → (s.clusterBlocks l k).map Prod.fst = [blk] →
    s.block blk = some b → b.resumeWait = true → tget blk s.saved = none → calm s blk →
    ∃ t, exec (.blockResume l k) s = .next t ∧
      { t with turn := s.turn, tick := s.tick, fresh := s.fresh, gtime := s.gtime,
               blocks := s.blocks, cores := s.cores, saved := s.saved } = s ∧
      (b.saveOrder = 0 ∨ (∀ n w, n ∈ s.warpsOf blk → s.warp n = some w → w.lwct ≤ s.gtime) →
        t.block blk = some { b with resumeWait := false, saveOrder := 0 } ∧
        (∀ c, t.core c = if c = b.core ∧ b.saveOrder ≠ 0 then { s.core c with
            cc := [], l1 := [], out := (s.core c).out.map (fun e => (e.1, e.2.uncheck)) }
          else s.core c)) ∧
      (b.saveOrder ≠ 0 → (∃ n w, n ∈ s.warpsOf blk ∧ s.warp n = some w ∧ s.gtime < w.lwct) →
        t.block blk = some b ∧ ∀ c, t.core c = s.core c)) ∧
  (∀ l k rest blk b L d c bs s, keysRise 0 s.blocks = true → s.pickBest = some l → s.launch l = some L → L.id = l →
    L.flags % 2 = 0 → s.savedClusters l = k :: rest → s.savedBlocks l k = [blk] →
    s.clusterBlocks l k = [] → s.block blk = some b → b.done = false → tget blk s.saved = none →
    calm s blk → fwf 0 (s.core c).scratch = true →
    (s.dieOrder L L.costs).find? (fun d => s.coresFor L (s.savedCosts blk L.warpsPB) d != []) =
      some d →
    minBy (fun c => (s.coreWarps c).length) (s.coresFor L (s.savedCosts blk L.warpsPB) d) = some c →
    s.imageBack L blk c = some bs → bs.length = s.imageSize blk →
    let size := (((s.warpsOf blk).filterMap s.warp).map Warp.sectionBytes).sum
    let word (o : Nat) : Word := BitVec.ofNat 32 (leNat ((bs.drop o).take 4))
    ∃ t b', exec (.blockResume l k) s = .next t ∧ t.block blk = some b' ∧ b'.core = c ∧
      b'.savedOn = none ∧ b'.held = false ∧ b'.tiles.length = b.tiles.length ∧
      { b' with core := b.core, slot := b.slot, p0 := b.p0, kbase := b.kbase, qbase := b.qbase,
                savedOn := b.savedOn, held := b.held, saveOrder := b.saveOrder, imageAt := b.imageAt,
                tiles := b.tiles, resumeWait := b.resumeWait } = b ∧
      (∀ n, n < L.kscr + L.qscr →
        fget 0 (b'.kbase + n) (t.core c).scratch = bs.getD (1536 + size + n) 0) ∧
      (∀ n w, (s.warpsOf blk).head? = some n → s.warp n = some w → fwf 0 w.v = true →
        ∃ w', t.warp n = some w' ∧ w'.part = (b'.p0 + w.num) % 4 ∧
          (∀ x y, x < w.vregs → y < 32 → fget 0 (32 * x + y) w'.v = word (1536 + 896 +
            alignUp 128 (4 * (if w.g16 then 2 else 1) * w.sregs) + 128 * x + 4 * y)) ∧
          ∀ y, y < 32 → w.lanes.length = 32 →
            (w'.lane y).pc = BitVec.ofNat 64 (leNat ((bs.drop (1536 + 8 * y)).take 8))) ∧
      (∀ n, blkOf n ≠ blk → t.warp n = s.warp n) ∧
      (∀ x ∈ t.ranges, x.blk ≠ blk) ∧ (∀ x, x ∈ s.ranges → x.blk ≠ blk → x ∈ t.ranges) ∧
      (b.core = c → b'.resumeWait = false) ∧
      { t with turn := s.turn, tick := s.tick, fresh := s.fresh, gtime := s.gtime,
               blocks := s.blocks, cores := s.cores, saved := s.saved, warps := s.warps,
               ranges := s.ranges, bar2 := s.bar2, launches := s.launches } = s)

/-- Decoding inverts encoding, for the whole instruction set (14 R299 to R306; 15 R320 to R326). -/
def Obligations.EncodedWordsDecode : Prop :=
  ∀ i : Instr, i.encodable = true → i.wf = true → decode (encode i) = .ok i

/-- Encoding inverts decoding: reserved fields and undefined values are refused, and no two sets of words
are one instruction, but for the ignored field of a CPY into a buffer (16 R347) and bit I beside a uniform
source (log entry 25). -/
def Obligations.DecodedWordsEncode : Prop :=
  ∀ (ws : List Word) (i : Instr), ws.length = lengthOf (ws.getD 0 0) → decode ws = .ok i →
    i.encodable = true ∧ i.wf = true ∧
    (encode i = ws ∨ ∃ w r, ws = w :: r ∧
      ((∃ a n c, i = .cpy .zero a n c ∧ c.dkind.val = 2 ∧
          encode i = ((w &&& 0xFFE03FFF) ||| 0x1C0000) :: r) ∨
        (∃ u, ((∃ op wd d a, i = .wideForm (.logic op wd d a (.uni u))) ∨
            (∃ op wd d a, i = .wideForm (.shift op wd d a (.uni u))) ∨
            ∃ wd d, i = .wideForm (.mov wd d (.uni u))) ∧
          encode i = (w &&& 0xFF7FFFFF) :: r)))

/-- Memory keeps its canonical form, whatever step is taken (log entry 4; 07 R146; 08 R178). -/
def Obligations.StepsKeepMemoryForm : Prop :=
  Invariant (fun s => Memory.wf s.mem = true)

/-- The state after reset (03, 13: the Reset columns of the register tables; log entry 4). -/
def Obligations.ResetState : Prop :=
  let s := State.reset
  Memory.wf s.mem = true ∧ s.mem = [] ∧ s.launches = [] ∧ s.blocks = [] ∧ s.warps = [] ∧
  s.cores = [] ∧ s.queues = [] ∧ s.phases = [] ∧ s.irqs = [] ∧ s.flip = none ∧ s.turn = .idle ∧
  s.regF 0x290000 0 2 = 0 ∧ s.regF 0x290010 0 16 = 2400 ∧ s.regF 0x290010 16 5 = 12 ∧
  (∀ q, q < 16384 → s.qRlog q = 4 ∧ s.qEn q = false ∧ s.qHead q = 0 ∧ s.qTail q = 0 ∧ s.qDone q = 0) ∧
  (∀ j, j < 4096 → s.jState j = 0 ∧ s.jWeight j = 1 ∧ s.jAsid j = 0) ∧
  (∀ o, 0x140000 ≤ o → o % 4 = 0 → o ≠ 0x290010 → s.reg o = 0)

/-- Worked encodings of the instruction reference (16, 17, 18). -/
def Obligations.DecodedExamples : Prop :=
  decode [0x0000FCF9] = .ok (.iadd false .s32 (.v 3) .lane .lane) ∧
  decode [0x0CA2057F] = .ok (.xor .b64 (.v 8) (.v 10) (.imm 0x7F)) ∧
  decode [0x65010280, 0x00400C08] = .ok (.bfx .b32 true (.v 4) (.v 5) (.imm 8 12)) ∧
  decode [0x27208206] = .ok (.dadd .rz (.v 2) (.v 4) (.v 6)) ∧
  decode [0x60204002, 0x5D000000] = .ok (.wideForm (.mfn .rsq (.v 1) (.uni (.s 2)))) ∧
  decode [0x74408000, 0x00000010] = .ok (.bra (.flag 2) 0x10) ∧
  decode [0x70004103, 0x002202C0] =
    .ok (.atom .add .z32 .none .pkg ⟨.g, .s 8, .v 2, 2⟩ (.v 1) (.v 3) (.v 0)) ∧
  decode [0x6E00BC20, 0x09E00008] =
    .ok (.ld false false .b32 none ⟨.g, .s 4, .zero, 0⟩ (.v 2) 8) ∧
  decode [0xFA1C0270, 0x30800100, 0x00001000] = .ok (.cpy .zero (.s 4) (.imm 0x1000)
    ⟨.block, .thread, true, false, 0, 0, 0, 0, 2, 0⟩) ∧
  decode [0xF9008814, 0x00000008, 0x00000000] = .ok (.mmat 2 (.s 16) (.s 20) (.v 8)) ∧
  decode [0xC4800400] = .ok (.hret (some (.s 8))) ∧
  decode [0xC3000403] = .ok (.wrctl .trapbase (.s 8)) ∧
  decode [0xE1030000, 0x00011234] = .ok (.umovi .b32 false (.s 12) 1 0x1234) ∧
  decode [0x4000C100] = .ok (.vote .ballot false (.v 3) 0 2) ∧
  decode [0x6A028210, 0x18231401] = .ok (.lnx .none (.v 10) (.v 4) (.v 16) (.v 12) (.s 8) 3 5 1)

/-- What a step does beside executing an instruction (14 R307, R308; 03 R80, R81; 02 R51; 11 R248). -/
def Obligations.StepsRunDecoded : Prop :=
  (∀ i s, s.turn = .take i → isEvent i = true → step s = exec i s) ∧
  (∀ e s, s.turn = .outside e → step s = .next (s.fromOutside e).finish) ∧
  (∀ core part seq s b c w, s.turn = .issue core part seq → s.seqAt core part seq = some b →
    b.run ≠ none → s.coreHalted core = false → s.inFlight core b.wid = false →
    s.partFull core part b.wid = false →
    s.ctx? = some c → s.warp c.wid = some w →
    let act := if c.inGraft then GAct.native else graftAct (s.graftOf c.gen).slots w.g16 c.n c.raw
    let plain := act = .native ∨ ∃ ws, act = .rewrite ws
    (∀ i, plain → decode c.words = .ok i → step s = exec i s) ∧
    (plain → decode c.words = .error .illegalOpcode →
      step s = .next (s.groupFault c { code := 0x01 }).finish) ∧
    (plain → decode c.words = .error .illegalEncoding →
      step s = .next (s.groupFault c { code := 0x02 }).finish) ∧
    (∀ k, act = .trap k →
      step s = .next (s.groupFault c { code := 0x13, cause := BitVec.ofNat 8 k }).finish) ∧
    (∀ k, act = .emulate k → step s = .next (s.emulateInstr c k).finish)) ∧
  (∀ core part seq s b w r s1, s.turn = .issue core part seq → s.seqAt core part seq = some b →
    b.run = none → s.coreHalted core = false → s.inFlight core b.wid = false →
    s.partFull core part b.wid = false → s.warp b.wid = some w → b.start.toNat % 4 = 0 →
    (b.inGraft = true ∨ ∀ L, s.launchOf b.wid = some L → L.pedric = false) →
    let l := lowLane b.mask
    s.runAt core (s.asidOf b.wid) (w.inHandler l || w.inGraft l) b.inGraft b.gen b.start 25 0 []
      b.start = (.ok r, s1) → trailerOk r.trailer r.count = true →
    let nxt := b.start + BitVec.ofNat 64 (4 * (r.words.length + 4))
    let s2 := s1.modWarp b.wid (fun w => w.modLanes b.mask (fun x =>
      { x with run := some b.start, nxt := nxt }))
    step s = step (s2.setSeq core part seq (some { b with run := some r }))) ∧
  (∀ core asid priv gen p r s s1 k,
    State.runAt core asid priv false gen p 25 0 [] p s = (.ok r, s1) →
    k < r.words.length + 4 → ∃ a, s.translate core asid (p + BitVec.ofNat 64 (4 * k)).toNat .fetch priv =
      .ok a ∧ (a.loc % 128 + 4 ≤ 128 → (r.words ++ r.trailer).getD k 0 = BitVec.ofNat 32 (leNat
        (match (s.core core).cc.find? (fun x => x.line == a.loc / 128 && s.leaseValid x) with
         | some x => if a.mt = 1 then s.rdMem a.loc 4 else (x.data.drop (a.loc % 128)).take 4
         | none => s.rdMem a.loc 4)))) ∧
  (∀ wid k s w b q, s.turn = .resume wid k → s.warp wid = some w → w.waits[k]? = some b →
    b.wid = wid → b.run ≠ none → [0, 1].find? (fun q => (s.seqAt (s.coreOf wid) w.part q).isNone) =
      some q → s.isBound wid = false → s.coreHalted (s.coreOf wid) = false →
    s.inFlight (s.coreOf wid) wid = false → s.partFull (s.coreOf wid) w.part wid = false →
    let s1 := (s.modWarp wid (fun w => { w with waits := w.waits.eraseIdx k })).setSeq (s.coreOf wid)
      w.part q (some b)
    step s = step { s1 with turn := .issue (s.coreOf wid) w.part q })
end

