-- ==== Sys2Proof/Laws/Encoding.lean ====
section
/-!
SUPPORT. Laws of the encoding: a code names its constructor, a code lies in its field, and the
fields of an encoded word read back.
-/

set_option Elab.async false

namespace Sys2Proof

section Codes

@[simp] theorem lspecOf_code (r : LSpec) : lspecOf r.code = some r := by
  cases r with
  | v n => simp [lspecOf, LSpec.code]
  | t n => simp [lspecOf, LSpec.code]
  | zero => rfl
  | lane => rfl

@[simp] theorem uspecOf_code (r : USpec) : uspecOf r.code = some r := by
  cases r with
  | s n => simp [uspecOf, USpec.code]
  | _ => rfl

theorem LSpec.code_lt (r : LSpec) : r.code < 128 := by
  cases r <;> simp only [LSpec.code] <;> omega

theorem USpec.code_lt (r : USpec) : r.code < 128 := by
  cases r <;> simp only [USpec.code] <;> omega

@[simp] theorem finOf_val {k : Nat} (n : Fin k) : finOf k n.val = some n := by simp [finOf]

@[simp] theorem widthOf_code (w : Width) : widthOf w.code = some w := by cases w <;> rfl
@[simp] theorem rndOf_code (r : Rnd) : rndOf r.code = some r := by cases r <;> rfl
@[simp] theorem icondOf_code (r : ICond) : icondOf r.code = some r := by cases r <;> rfl
@[simp] theorem fcondOf_code (r : FCond) : fcondOf r.code = some r := by cases r <;> rfl
@[simp] theorem wcondOf_code (r : WCond) : wcondOf r.code = some r := by cases r <;> rfl
@[simp] theorem mfnOf_code (r : MfnFn) : mfnOf r.code = some r := by cases r <;> rfl
@[simp] theorem scopeOf_code (r : Scope) : scopeOf r.code = some r := by cases r <;> rfl
@[simp] theorem ordOf_code (r : Ord4) : ordOf r.code = some r := by cases r <;> rfl
@[simp] theorem spaceOf_code (r : Space) : spaceOf r.code = some r := by cases r <;> rfl
@[simp] theorem ldTyOf_code (r : LdTy) : ldTyOf r.code = some r := by cases r <;> rfl
@[simp] theorem stTyOf_code (r : StTy) : stTyOf r.code = some r := by cases r <;> rfl
@[simp] theorem aopOf_code (r : AOp) : aopOf r.code = some r := by cases r <;> rfl
@[simp] theorem atyOf_code (r : ATy) : atyOf r.code = some r := by cases r <;> rfl
@[simp] theorem ctyOf_code (r : CTy) : ctyOf r.code = some r := by cases r <;> rfl
@[simp] theorem ropOf_code (r : ROp) : ropOf r.code = some r := by cases r <;> rfl
@[simp] theorem rtyOf_code (r : RTy) : rtyOf r.code = some r := by cases r <;> rfl
@[simp] theorem sxOf_code (r : SxFmt) : sxOf r.code = some r := by cases r <;> rfl
@[simp] theorem shflOf_code (r : ShflMode) : shflOf r.code = some r := by cases r <;> rfl
@[simp] theorem voteOf_code (r : VoteMode) : voteOf r.code = some r := by cases r <;> rfl
@[simp] theorem levelOf_code (r : CancelLevel) : levelOf r.code = some r := by cases r <;> rfl
@[simp] theorem ctlOf_code (r : CtlReg) : ctlOf r.code = some r := by cases r <;> rfl
@[simp] theorem specialOf_code (r : Special) : specialOf r.code = some r := by cases r <;> rfl
@[simp] theorem oscopeOf_code (o : Option Scope) : oscopeOf (oscopeCode o) = some o := by
  cases o with
  | none => rfl
  | some s => cases s <;> rfl

@[simp] theorem ityOf_code (ty : ITy) (h : ty.inMod = true) : ityOf ty.code = some ty := by
  cases ty <;> first | rfl | exact absurd h (by decide)

theorem Width.code_lt (w : Width) : w.code < 2 := by cases w <;> decide
theorem Rnd.code_lt (r : Rnd) : r.code < 4 := by cases r <;> decide
theorem ITy.code_lt (r : ITy) : r.code < 4 := by cases r <;> decide
theorem ITy.wideCode_lt (r : ITy) : r.wideCode < 8 := by cases r <;> decide
theorem ICond.code_lt (r : ICond) : r.code < 8 := by cases r <;> decide
theorem FCond.code_lt (r : FCond) : r.code < 8 := by cases r <;> decide
theorem WCond.code_lt (r : WCond) : r.code < 8 := by cases r <;> decide
theorem MfnFn.code_lt (r : MfnFn) : r.code < 8 := by cases r <;> decide
theorem Scope.code_lt (r : Scope) : r.code < 16 := by cases r <;> decide
theorem Ord4.code_lt (r : Ord4) : r.code < 8 := by cases r <;> decide
theorem Space.code_lt (r : Space) : r.code < 8 := by cases r <;> decide
theorem LdTy.code_lt (r : LdTy) : r.code < 8 := by cases r <;> decide
theorem StTy.code_lt (r : StTy) : r.code < 8 := by cases r <;> decide
theorem AOp.code_lt (r : AOp) : r.code < 8 := by cases r <;> decide
theorem ATy.code_lt (r : ATy) : r.code < 8 := by cases r <;> decide
theorem CTy.code_lt (r : CTy) : r.code < 16 := by cases r <;> decide
theorem ROp.code_lt (r : ROp) : r.code < 8 := by cases r <;> decide
theorem RTy.code_lt (r : RTy) : r.code < 8 := by cases r <;> decide
theorem SxFmt.code_lt (r : SxFmt) : r.code < 8 := by cases r <;> decide
theorem ShflMode.code_lt (r : ShflMode) : r.code < 4 := by cases r <;> decide
theorem VoteMode.code_lt (r : VoteMode) : r.code < 4 := by cases r <;> decide
theorem CancelLevel.code_lt (r : CancelLevel) : r.code < 4 := by cases r <;> decide
theorem CtlReg.code_lt (r : CtlReg) : r.code < 128 := by cases r <;> decide
theorem Special.code_lt (r : Special) : r.code < 128 := by cases r <;> decide
theorem oscopeCode_lt (o : Option Scope) : oscopeCode o < 16 := by
  cases o with
  | none => decide
  | some s => exact s.code_lt
theorem ofBool_lt (b : Bool) : ofBool b < 2 := by cases b <;> decide
theorem BSrc.code_lt (b : BSrc) : b.code < 128 := by
  cases b with
  | reg r => exact r.code_lt
  | imm i => exact i.isLt
theorem BSrc.iBit_lt (b : BSrc) : b.iBit < 2 := by cases b <;> simp [BSrc.iBit]
theorem USrc.code_lt (b : USrc) : b.code < 128 := by
  cases b with
  | reg r => exact r.code_lt
  | imm i => exact i.isLt
theorem USrc.iBit_lt (b : USrc) : b.iBit < 2 := by cases b <;> simp [USrc.iBit]
theorem LUSrc.code_lt (b : LUSrc) : b.code < 128 := by
  cases b with
  | reg r => exact r.code_lt
  | uni i => exact i.code_lt
theorem LUSrc.ubBit_lt (b : LUSrc) : b.ubBit < 2 := by cases b <;> simp [LUSrc.ubBit]
theorem modI_lt (s : Bool) (ty : ITy) : modI s ty < 8 := by
  have := ofBool_lt s; have := ty.code_lt; simp only [modI]; omega
theorem modB_lt {i : Nat} (h : i < 2) (w : Width) : modB i w < 8 := by
  have := w.code_lt; simp only [modB]; omega
theorem cmpD_lt (x y : Bool) (n : Fin 8) : cmpD x y n < 32 := by
  have := ofBool_lt x; have := ofBool_lt y; simp only [cmpD]; omega

@[simp] theorem toBool_ofBool (b : Bool) : toBool (ofBool b) = b := by cases b <;> rfl
@[simp] theorem bsrcOf_code (b : BSrc) : bsrcOf b.iBit b.code = some b := by
  cases b <;> simp [bsrcOf, BSrc.iBit, BSrc.code]
@[simp] theorem usrcOf_code (b : USrc) : usrcOf b.iBit b.code = some b := by
  cases b <;> simp [usrcOf, USrc.iBit, USrc.code]
@[simp] theorem lusrcOf_code (b : LUSrc) : lusrcOf b.ubBit b.code = some b := by
  cases b <;> simp [lusrcOf, LUSrc.ubBit, LUSrc.code]
@[simp] theorem brOf_code (c : BrCond) : brOf c.cond c.num = some c := by
  cases c <;> simp [brOf, BrCond.cond, BrCond.num]
theorem BrCond.cond_lt (c : BrCond) : c.cond < 3 := by cases c <;> simp [BrCond.cond]
theorem BrCond.num_lt (c : BrCond) : c.num < 8 := by cases c <;> simp [BrCond.num]
@[simp] theorem brTarget_toNat (i : BitVec 25) : brTarget i.toNat = some i := by
  simp [brTarget, i.isLt]

/-- A flag above `k` values splits from what stands below it. -/
theorem split_div {b k n : Nat} (h : n < k) : (b * k + n) / k = b := by
  rw [Nat.add_comm, Nat.add_mul_div_right _ _ (by omega), Nat.div_eq_of_lt h]; omega
theorem split_mod {b k n : Nat} (h : n < k) : (b * k + n) % k = n := by
  rw [Nat.add_comm, Nat.add_mul_mod_self_right, Nat.mod_eq_of_lt h]

@[simp] theorem modI_mod (s : Bool) (ty : ITy) : modI s ty % 4 = ty.code := split_mod ty.code_lt
@[simp] theorem modI_div (s : Bool) (ty : ITy) : modI s ty / 4 = ofBool s := split_div ty.code_lt
@[simp] theorem modB_mod (i : Nat) (w : Width) : modB i w % 4 = w.code :=
  split_mod (by have := w.code_lt; omega)
@[simp] theorem modB_div (i : Nat) (w : Width) : modB i w / 4 = i :=
  split_div (by have := w.code_lt; omega)

@[simp] theorem cmpD_mod (x y : Bool) (n : Fin 8) : cmpD x y n % 8 = n.val := by
  simp only [cmpD]; omega
@[simp] theorem cmpD_div8 (x y : Bool) (n : Fin 8) : toBool (cmpD x y n / 8) = y := by
  cases x <;> cases y <;> simp [toBool, cmpD, ofBool] <;> omega
@[simp] theorem cmpD_div16 (x y : Bool) (n : Fin 8) : toBool (cmpD x y n / 16) = x := by
  cases x <;> cases y <;> simp [toBool, cmpD, ofBool] <;> omega
theorem toBool_low (b : Bool) (k : Nat) : toBool (k * 4 + ofBool b) = b := by
  cases b <;> simp [toBool, ofBool] <;> omega

end Codes

section Words

/-- A first word whose fields keep their widths. -/
structure Fits1 (set op m d a b : Nat) : Prop where
  hs : set < 2
  ho : op < 128
  hm : m < 8
  hd : d < 128
  ha : a < 128
  hb : b < 128

theorem enc1_toNat {set op m d a b : Nat} (h : Fits1 set op m d a b) : (enc1 set op m d a b).toNat =
    set * 2 ^ 31 + op * 2 ^ 24 + m * 2 ^ 21 + d * 2 ^ 14 + a * 2 ^ 7 + b := by
  obtain ⟨_, _, _, _, _, _⟩ := h
  simp only [enc1, BitVec.toNat_ofNat]
  exact Nat.mod_eq_of_lt (by omega)

theorem enc1_set {set op m d a b : Nat} (h : Fits1 set op m d a b) :
    fld (enc1 set op m d a b).toNat 31 31 = set := by
  rw [enc1_toNat h]; obtain ⟨_, _, _, _, _, _⟩ := h; simp only [fld]; omega
theorem enc1_op {set op m d a b : Nat} (h : Fits1 set op m d a b) :
    fld (enc1 set op m d a b).toNat 30 24 = op := by
  rw [enc1_toNat h]; obtain ⟨_, _, _, _, _, _⟩ := h; simp only [fld]; omega
theorem enc1_m {set op m d a b : Nat} (h : Fits1 set op m d a b) :
    fld (enc1 set op m d a b).toNat 23 21 = m := by
  rw [enc1_toNat h]; obtain ⟨_, _, _, _, _, _⟩ := h; simp only [fld]; omega
theorem enc1_d {set op m d a b : Nat} (h : Fits1 set op m d a b) :
    fld (enc1 set op m d a b).toNat 20 14 = d := by
  rw [enc1_toNat h]; obtain ⟨_, _, _, _, _, _⟩ := h; simp only [fld]; omega
theorem enc1_a {set op m d a b : Nat} (h : Fits1 set op m d a b) :
    fld (enc1 set op m d a b).toNat 13 7 = a := by
  rw [enc1_toNat h]; obtain ⟨_, _, _, _, _, _⟩ := h; simp only [fld]; omega
theorem enc1_b {set op m d a b : Nat} (h : Fits1 set op m d a b) :
    fld (enc1 set op m d a b).toNat 6 0 = b := by
  rw [enc1_toNat h]; obtain ⟨_, _, _, _, _, _⟩ := h; simp only [fld]; omega

/-- What the decoder makes of an encoded first word below the hint space. -/
theorem decode_enc1 {set op m d a b : Nat} (h : Fits1 set op m d a b) (ho : op < 0x7D)
    (hs : assigned set op = true) (rest : List Word) (i : Instr)
    (hi : (if op < 0x60 then (if set = 0 then decL1 op m d a b else decU1 op m d a b)
      else if op < 0x78 then
        (if set = 0 then decL2 op m d a b (rest.getD 0 0).toNat
         else decU2 op m d a b (rest.getD 0 0).toNat)
      else decU3 op m d a b (rest.getD 0 0).toNat (rest.getD 1 0).toNat) = some i)
    (hw : i.wf = true) : decode (enc1 set op m d a b :: rest) = .ok i := by
  have e : decFields set op (enc1 set op m d a b :: rest) = some i := by
    simp only [decFields, List.getD_cons_zero, enc1_m h, enc1_d h, enc1_a h, enc1_b h]
    simpa using hi
  simp only [decode, List.getD_cons_zero, enc1_set h, enc1_op h, if_neg (by omega : ¬ 0x7D ≤ op), hs,
    e, hw, Bool.not_true, Bool.false_eq_true, if_false, if_true]

/-- A second word whose fields keep their widths. -/
theorem enc2_toNat {c ub low : Nat} (hc : c < 128) (hu : ub < 2) (hl : low < 2 ^ 24) :
    (enc2 c ub low).toNat = c * 2 ^ 25 + ub * 2 ^ 24 + low := by
  simp only [enc2, BitVec.toNat_ofNat]
  exact Nat.mod_eq_of_lt (by omega)

end Words

end Sys2Proof
end

