-- ==== Sys2Proof/Laws/Flags.lean ====
section
/-!
SUPPORT. The integer operations in terms of bit-vector and integer arithmetic (05 R101; 16 R330, R338,
R341; 17 R364 to R371, R381, R388; 18 R394, R406).
-/

set_option Elab.async false

namespace Sys2Proof.Machine

section Values

theorem sintOf_eq (w : Nat) (hw : 0 < w) (n : Nat) : sintOf w n = (BitVec.ofNat w n).toInt := by
  unfold sintOf
  simp only [BitVec.toInt, BitVec.toNat_ofNat]
  have h2 : 2 ^ w = 2 * 2 ^ (w - 1) := by
    rw [← pow_succ', Nat.sub_add_cancel hw]
  by_cases h : n % 2 ^ w < 2 ^ (w - 1)
  · rw [if_pos h, if_pos (by omega)]
  · rw [if_neg h, if_neg (by omega)]

theorem ityBits_pos (ty : ITy) : 0 < ityBits ty := by cases ty <;> decide
theorem ityBits_le (ty : ITy) : ityBits ty ≤ 64 := by cases ty <;> decide

/-- The model's reading of a typed source. -/
theorem intOf_eq (ty : ITy) (x : DWord) : intOf (itySigned ty) (ityBits ty) x = ty.val x := by
  unfold intOf ITy.val
  split
  · rw [sintOf_eq _ (ityBits_pos ty)]
    congr 1
    apply BitVec.eq_of_toNat_eq; simp
  · simp

theorem wrapInt_eq (w : Nat) (e : Int) : wrapInt w e = (BitVec.ofInt w e).toNat := by
  simp [wrapInt, BitVec.toNat_ofInt]

/-- The model's narrowing of an exact result. -/
theorem fitInt_eq (ty : ITy) (sat : Bool) (e : Int) :
    fitInt sat (itySigned ty) (ityBits ty) e = ty.narrow sat e := by
  have hc : clampInt (itySigned ty) (ityBits ty) e = max ty.low (min ty.high e) := by
    unfold clampInt intMin intMax ITy.low ITy.high
    split <;> push_cast <;> rfl
  unfold fitInt ITy.narrow
  simp only [hc]
  generalize (if sat = true then max ty.low (min ty.high e) else e) = y
  split
  · rw [sintOf_eq _ (ityBits_pos ty), wrapInt_eq, wrapInt_eq]
    rw [BitVec.ofNat_toNat, BitVec.ofNat_toNat, BitVec.setWidth_eq, BitVec.setWidth_eq]
    rfl
  · rw [wrapInt_eq]
    apply BitVec.eq_of_toNat_eq; simp

/-- The integer family's results. -/
theorem intAlu_eq (op : IntOp) (sat : Bool) (ty : ITy) (a b : DWord) :
    intAlu op sat ty a b = ty.narrow sat (intExact op (ityBits ty) (ty.val a) (ty.val b)) := by
  unfold intAlu
  dsimp only
  rw [intOf_eq, intOf_eq]
  exact fitInt_eq ty sat _

theorem intMad_eq (sat : Bool) (ty : ITy) (a b c : DWord) :
    intMad sat ty a b c = ty.narrow sat (ty.val a * ty.val b + ty.val c) := by
  unfold intMad
  dsimp only
  rw [intOf_eq, intOf_eq, intOf_eq]
  exact fitInt_eq ty sat _

theorem intAbs_eq (sat : Bool) (ty : ITy) (b : DWord) :
    intAbs sat ty b = ty.narrow (sat && itySigned ty) |ty.val b| := by
  unfold intAbs
  dsimp only
  rw [intOf_eq, Int.natCast_natAbs]
  exact fitInt_eq ty _ _

theorem setWidth_signExtend {w : Nat} (x : BitVec w) (h : w ≤ 64) :
    (x.signExtend 64).setWidth w = x := by
  ext i hi
  simp only [BitVec.getElem_setWidth, BitVec.getLsbD_signExtend]
  simp [hi, show i < 64 by omega]

end Values

end Sys2Proof.Machine

namespace Sys2Proof

open Machine

section Typed

/-- A typed value lies in its type's range. -/
theorem ITy.val_range (ty : ITy) (x : DWord) : ty.low ≤ ty.val x ∧ ty.val x ≤ ty.high := by
  unfold ITy.low ITy.high ITy.val
  split
  · have h1 := BitVec.toInt_lt (x := x.setWidth (ityBits ty))
    have h2 := BitVec.le_toInt (x := x.setWidth (ityBits ty))
    exact ⟨h2, by omega⟩
  · have h1 := (x.setWidth (ityBits ty)).isLt
    have h2 : (((x.setWidth (ityBits ty)).toNat : Int)) < ((2 ^ ityBits ty : Nat) : Int) := by
      exact_mod_cast h1
    push_cast at h2
    exact ⟨by positivity, by omega⟩

/-- Narrowing a value of the range and reading it back. -/
theorem ITy.val_narrow (ty : ITy) (sat : Bool) {e : Int} (h : ty.low ≤ e ∧ e ≤ ty.high) :
    ty.val (ty.narrow sat e) = e := by
  have hy : (if sat then max ty.low (min ty.high e) else e) = e := by
    split
    · rw [min_eq_right h.2, max_eq_right h.1]
    · rfl
  unfold ITy.val ITy.narrow
  simp only [hy]
  unfold ITy.low ITy.high at h
  have hle := ityBits_le ty
  have hpos := ityBits_pos ty
  by_cases hs : itySigned ty = true
  · simp only [hs, if_true] at h ⊢
    rw [setWidth_signExtend _ hle, BitVec.toInt_ofInt]
    rw [Int.bmod_eq_of_le]
    · have : ((2 ^ ityBits ty : Nat) : Int) = 2 * 2 ^ (ityBits ty - 1) := by
        push_cast
        rw [← pow_succ', Nat.sub_add_cancel hpos]
      omega
    · have : ((2 ^ ityBits ty : Nat) : Int) = 2 * 2 ^ (ityBits ty - 1) := by
        push_cast
        rw [← pow_succ', Nat.sub_add_cancel hpos]
      omega
  · simp only [hs] at h ⊢
    simp only [Bool.false_eq_true, if_false] at h ⊢
    rw [BitVec.setWidth_setWidth_of_le _ hle, BitVec.setWidth_eq, BitVec.toNat_ofInt]
    have : ((2 ^ ityBits ty : Nat) : Int) = 2 ^ ityBits ty := by push_cast; rfl
    rw [this, Int.emod_eq_of_lt h.1 (by omega)]
    omega

/-- A result is the narrowing of its own value. -/
theorem ITy.narrow_val_narrow (ty : ITy) (sat : Bool) (e : Int) :
    ty.narrow false (ty.val (ty.narrow sat e)) = ty.narrow sat e := by
  have hle := ityBits_le ty
  have key : ∀ r : BitVec (ityBits ty), ty.narrow false (ty.val
      (if itySigned ty then r.signExtend 64 else r.setWidth 64)) =
      if itySigned ty then r.signExtend 64 else r.setWidth 64 := by
    intro r
    unfold ITy.val ITy.narrow
    by_cases hs : itySigned ty = true
    · simp only [hs, if_true, Bool.false_eq_true, if_false]
      rw [setWidth_signExtend r hle, BitVec.ofInt_toInt]
    · have hs' : itySigned ty = false := by simpa using hs
      simp only [hs', Bool.false_eq_true, if_false]
      rw [BitVec.setWidth_setWidth_of_le _ hle, BitVec.setWidth_eq, BitVec.ofInt_natCast,
        BitVec.ofNat_toNat, BitVec.setWidth_eq]
  exact key _

end Typed

end Sys2Proof
end

