-- ==== Sys2Proof/Laws/Maps.lean ====
section
/-!
SUPPORT. Laws of sparse maps, record tables, padded lists and lane masks: a read after a write, what
a write leaves alone, and the canonical form, which every map operation keeps.
-/

set_option Elab.async false

namespace Sys2Proof.Machine

section Sparse
variable {β : Type}

@[simp] theorem fget_finsert_self (d v : β) (k : Nat) (m : FMap β) :
    fget d k (finsert k v m) = v := by
  induction m with
  | nil => simp [finsert, fget]
  | cons e r ih =>
    obtain ⟨a, w⟩ := e
    simp only [finsert]
    split
    · simp [fget]
    · split
      · simp [fget]
      · rename_i h1 h2; simp [fget, h2, ih]

theorem fget_finsert_of_ne (d v : β) {k j : Nat} (h : j ≠ k) (m : FMap β) :
    fget d j (finsert k v m) = fget d j m := by
  induction m with
  | nil => simp [finsert, fget, h.symm]
  | cons e r ih =>
    obtain ⟨a, w⟩ := e
    simp only [finsert]
    split
    · simp [fget, h.symm]
    · split
      · rename_i h1 h2; subst h2; simp [fget, h.symm]
      · simp only [fget, ih]

@[simp] theorem fget_ferase_self (d : β) (k : Nat) (m : FMap β) : fget d k (ferase k m) = d := by
  induction m with
  | nil => rfl
  | cons e r ih =>
    obtain ⟨a, w⟩ := e
    simp only [ferase]
    split
    · exact ih
    · rename_i h; simp [fget, h, ih]

theorem fget_ferase_of_ne (d : β) {k j : Nat} (h : j ≠ k) (m : FMap β) :
    fget d j (ferase k m) = fget d j m := by
  induction m with
  | nil => rfl
  | cons e r ih =>
    obtain ⟨a, w⟩ := e
    simp only [ferase]
    split
    · rename_i h2; subst h2; simp [fget, h.symm, ih]
    · simp only [fget, ih]

/-- A sparse map after a write of key `k`. -/
theorem fget_fset [DecidableEq β] (d v : β) (k j : Nat) (m : FMap β) :
    fget d j (fset d k v m) = if j = k then v else fget d j m := by
  unfold fset
  by_cases hv : v = d
  · rw [if_pos hv]
    by_cases hj : j = k
    · subst hj; simp [hv]
    · rw [if_neg hj, fget_ferase_of_ne d hj]
  · rw [if_neg hv]
    by_cases hj : j = k
    · subst hj; simp
    · rw [if_neg hj, fget_finsert_of_ne d v hj]

theorem keysRise_mono {lo hi : Nat} (h : lo ≤ hi) {m : FMap β} (hm : keysRise hi m = true) :
    keysRise lo m = true := by
  cases m with
  | nil => rfl
  | cons e r =>
    simp only [keysRise, Bool.and_eq_true, decide_eq_true_eq] at hm ⊢
    exact ⟨by omega, hm.2⟩

theorem keysRise_ferase {lo : Nat} (k : Nat) {m : FMap β} (hm : keysRise lo m = true) :
    keysRise lo (ferase k m) = true := by
  induction m generalizing lo with
  | nil => rfl
  | cons e r ih =>
    obtain ⟨a, w⟩ := e
    simp only [keysRise, Bool.and_eq_true, decide_eq_true_eq] at hm
    simp only [ferase]
    split
    · exact keysRise_mono (by omega) (ih hm.2)
    · simp only [keysRise, Bool.and_eq_true, decide_eq_true_eq]; exact ⟨hm.1, ih hm.2⟩

theorem keysRise_feraseIf {lo : Nat} (p : Nat → Bool) {m : FMap β} (hm : keysRise lo m = true) :
    keysRise lo (feraseIf p m) = true := by
  induction m generalizing lo with
  | nil => rfl
  | cons e r ih =>
    obtain ⟨a, w⟩ := e
    simp only [keysRise, Bool.and_eq_true, decide_eq_true_eq] at hm
    simp only [feraseIf]
    split
    · exact keysRise_mono (by omega) (ih hm.2)
    · simp only [keysRise, Bool.and_eq_true, decide_eq_true_eq]; exact ⟨hm.1, ih hm.2⟩

theorem keysRise_finsert {lo k : Nat} (v : β) (hk : lo ≤ k) {m : FMap β}
    (hm : keysRise lo m = true) : keysRise lo (finsert k v m) = true := by
  induction m generalizing lo with
  | nil => simp [finsert, keysRise, hk]
  | cons e r ih =>
    obtain ⟨a, w⟩ := e
    simp only [keysRise, Bool.and_eq_true, decide_eq_true_eq] at hm
    simp only [finsert]
    split
    · simp only [keysRise, Bool.and_eq_true, decide_eq_true_eq]; exact ⟨hk, by omega, hm.2⟩
    · split
      · simp only [keysRise, Bool.and_eq_true, decide_eq_true_eq]
        rename_i h1 h2; subst h2; exact hm
      · simp only [keysRise, Bool.and_eq_true, decide_eq_true_eq]
        exact ⟨hm.1, ih (by omega) hm.2⟩

theorem mem_finsert {k : Nat} {v : β} {m : FMap β} {e : Nat × β} (h : e ∈ finsert k v m) :
    e = (k, v) ∨ e ∈ m := by
  induction m with
  | nil => simpa [finsert] using h
  | cons x r ih =>
    obtain ⟨a, w⟩ := x
    simp only [finsert] at h
    split at h
    · simpa using h
    · split at h
      · rcases List.mem_cons.1 h with h | h
        · exact .inl h
        · exact .inr (List.mem_cons_of_mem _ h)
      · rcases List.mem_cons.1 h with h | h
        · exact .inr (h ▸ List.mem_cons_self ..)
        · exact (ih h).imp id (List.mem_cons_of_mem _)

theorem mem_ferase {k : Nat} {m : FMap β} {e : Nat × β} (h : e ∈ ferase k m) : e ∈ m := by
  induction m with
  | nil => exact h
  | cons x r ih =>
    obtain ⟨a, w⟩ := x
    simp only [ferase] at h
    split at h
    · exact List.mem_cons_of_mem _ (ih h)
    · rcases List.mem_cons.1 h with h | h
      · exact h ▸ List.mem_cons_self ..
      · exact List.mem_cons_of_mem _ (ih h)

theorem mem_feraseIf {p : Nat → Bool} {m : FMap β} {e : Nat × β} (h : e ∈ feraseIf p m) : e ∈ m := by
  induction m with
  | nil => exact h
  | cons x r ih =>
    obtain ⟨a, w⟩ := x
    simp only [feraseIf] at h
    split at h
    · exact List.mem_cons_of_mem _ (ih h)
    · rcases List.mem_cons.1 h with h | h
      · exact h ▸ List.mem_cons_self ..
      · exact List.mem_cons_of_mem _ (ih h)

/-- A write keeps the canonical form. -/
theorem fwf_fset [DecidableEq β] {d : β} (k : Nat) (v : β) {m : FMap β} (hm : fwf d m = true) :
    fwf d (fset d k v m) = true := by
  simp only [fwf, Bool.and_eq_true, List.all_eq_true, decide_eq_true_eq] at hm ⊢
  unfold fset
  split
  · exact ⟨keysRise_ferase k hm.1, fun e he => hm.2 e (mem_ferase he)⟩
  · rename_i hv
    refine ⟨keysRise_finsert v (by omega) hm.1, fun e he => ?_⟩
    rcases mem_finsert he with rfl | he
    · exact hv
    · exact hm.2 e he

theorem fwf_feraseIf [DecidableEq β] {d : β} (p : Nat → Bool) {m : FMap β} (hm : fwf d m = true) :
    fwf d (feraseIf p m) = true := by
  simp only [fwf, Bool.and_eq_true, List.all_eq_true, decide_eq_true_eq] at hm ⊢
  exact ⟨keysRise_feraseIf p hm.1, fun e he => hm.2 e (mem_feraseIf he)⟩

@[simp] theorem fwf_nil [DecidableEq β] (d : β) : fwf d [] = true := rfl

end Sparse

section Tables
variable {β : Type}

@[simp] theorem tget_tset_self (k : Nat) (v : β) (t : Tbl β) : tget k (tset k v t) = some v := by
  unfold tset
  induction t with
  | nil => simp [finsert, tget]
  | cons e r ih =>
    obtain ⟨a, w⟩ := e
    simp only [finsert]
    split
    · simp [tget]
    · split
      · simp [tget]
      · rename_i h1 h2; simp [tget, h2, ih]

theorem tget_tset_of_ne {k j : Nat} (h : j ≠ k) (v : β) (t : Tbl β) :
    tget j (tset k v t) = tget j t := by
  unfold tset
  induction t with
  | nil => simp [finsert, tget, h.symm]
  | cons e r ih =>
    obtain ⟨a, w⟩ := e
    simp only [finsert]
    split
    · simp [tget, h.symm]
    · split
      · rename_i h1 h2; subst h2; simp [tget, h.symm]
      · simp only [tget, ih]

@[simp] theorem tget_tdel_self (k : Nat) (t : Tbl β) : tget k (tdel k t) = none := by
  unfold tdel
  induction t with
  | nil => rfl
  | cons e r ih =>
    obtain ⟨a, w⟩ := e
    simp only [ferase]
    split
    · exact ih
    · rename_i h; simp [tget, h, ih]

theorem tget_tdel_of_ne {k j : Nat} (h : j ≠ k) (t : Tbl β) : tget j (tdel k t) = tget j t := by
  unfold tdel
  induction t with
  | nil => rfl
  | cons e r ih =>
    obtain ⟨a, w⟩ := e
    simp only [ferase]
    split
    · rename_i h2; subst h2; simp [tget, h.symm, ih]
    · simp only [tget, ih]

theorem mem_tset {k : Nat} {v : β} {t : Tbl β} {e : Nat × β} (h : e ∈ tset k v t) :
    e = (k, v) ∨ e ∈ t := mem_finsert h

theorem mem_of_tget {k : Nat} {v : β} {t : Tbl β} (h : tget k t = some v) : (k, v) ∈ t := by
  induction t with
  | nil => exact absurd h (by simp [tget])
  | cons e r ih =>
    obtain ⟨a, w⟩ := e
    simp only [tget] at h
    split at h
    · rename_i h2; subst h2; cases h; exact List.mem_cons_self ..
    · exact List.mem_cons_of_mem _ (ih h)

end Tables

section Lists
variable {β : Type}

@[simp] theorem getD_lput_self (d v : β) (k : Nat) (xs : List β) : (lput d k v xs).getD k d = v := by
  induction k generalizing xs with
  | zero => cases xs <;> rfl
  | succ k ih => cases xs <;> simp only [lput, List.getD_cons_succ, ih]

theorem getD_lput_of_ne (d v : β) {k j : Nat} (h : j ≠ k) (xs : List β) :
    (lput d k v xs).getD j d = xs.getD j d := by
  induction k generalizing xs j with
  | zero =>
    cases j with
    | zero => exact absurd rfl h
    | succ j => cases xs <;> simp [lput]
  | succ k ih =>
    cases j with
    | zero => cases xs <;> rfl
    | succ j =>
      cases xs with
      | nil => simp only [lput, List.getD_cons_succ, ih (by omega : j ≠ k)]; simp
      | cons a r => simp only [lput, List.getD_cons_succ, ih (by omega : j ≠ k)]

end Lists

section Masks

theorem mem_lanesOf {m : Mask} {l : Nat} : l ∈ lanesOf m ↔ l < 32 ∧ m.getLsbD l = true := by
  simp [lanesOf]

theorem lanesOf_nodup (m : Mask) : (lanesOf m).Nodup := List.nodup_range.filter _

theorem getLsbD_laneBit {l k : Nat} (hk : k < 32) : (laneBit l).getLsbD k = decide (k = l) := by
  simp only [laneBit, BitVec.getLsbD_ofNat, hk, decide_true, Bool.true_and, Nat.testBit_two_pow]
  simp [eq_comm]

theorem getLsbD_foldl_laneBit (ls : List Nat) (m : Mask) {k : Nat} (hk : k < 32) :
    (ls.foldl (fun m l => m ||| laneBit l) m).getLsbD k = (m.getLsbD k || ls.contains k) := by
  induction ls generalizing m with
  | nil => simp
  | cons a r ih =>
    simp only [List.foldl_cons, ih, BitVec.getLsbD_or, getLsbD_laneBit hk, List.contains_cons,
      Bool.or_assoc]
    congr 1

/-- The lanes of a mask made from a list. -/
theorem getLsbD_maskOf (ls : List Nat) {k : Nat} (hk : k < 32) :
    (maskOf ls).getLsbD k = ls.contains k := by
  rw [maskOf, getLsbD_foldl_laneBit ls 0 hk]; simp

@[simp] theorem maskOf_nil : maskOf [] = 0 := rfl

/-- A fold over lanes, one step at a time: what holds before and is kept by each lane's step holds
after. -/
theorem foldLanes_induct {σ : Type} (P : σ → Prop) {m : Mask} {f : Nat → σ → σ} {s : σ} (h0 : P s)
    (hs : ∀ l ∈ lanesOf m, ∀ t, P t → P (f l t)) : P (foldLanes m f s) := by
  unfold foldLanes
  generalize lanesOf m = ls at hs ⊢
  induction ls generalizing s with
  | nil => exact h0
  | cons a r ih =>
    exact ih (hs a (List.mem_cons_self ..) s h0) (fun l hl => hs l (List.mem_cons_of_mem _ hl))

/-- What is observed of lane `k` after a fold in which only lane `k`'s own step touches it. -/
theorem foldLanes_own {σ τ : Type} (obs : σ → τ) {m : Mask} {f : Nat → σ → σ} {s : σ} {k : Nat}
    {g : τ → τ} (hk : m.getLsbD k = true) (hk2 : k < 32) (own : ∀ t, obs (f k t) = g (obs t))
    (other : ∀ l, l < 32 → l ≠ k → ∀ t, obs (f l t) = obs t) :
    obs (foldLanes m f s) = g (obs s) := by
  unfold foldLanes
  have hmem : k ∈ lanesOf m := mem_lanesOf.2 ⟨hk2, hk⟩
  have hnd := lanesOf_nodup m
  have hlt : ∀ a ∈ lanesOf m, a < 32 := fun a ha => (mem_lanesOf.1 ha).1
  generalize lanesOf m = ls at hmem hnd hlt
  have skip : ∀ (rs : List Nat) (t : σ), (∀ a ∈ rs, a < 32) → k ∉ rs →
      obs (rs.foldl (fun t l => f l t) t) = obs t := by
    intro rs
    induction rs with
    | nil => intro t _ _; rfl
    | cons a r ih =>
      intro t hr hn
      simp only [List.mem_cons, not_or] at hn
      rw [List.foldl_cons, ih _ (fun b hb => hr b (List.mem_cons_of_mem _ hb)) hn.2,
        other a (hr a (List.mem_cons_self ..)) (Ne.symm hn.1)]
  induction ls generalizing s with
  | nil => exact absurd hmem (by simp)
  | cons a r ih =>
    rw [List.nodup_cons] at hnd
    have hr : ∀ b ∈ r, b < 32 := fun b hb => hlt b (List.mem_cons_of_mem _ hb)
    rw [List.foldl_cons]
    by_cases ha : a = k
    · subst ha; rw [skip r _ hr hnd.1, own]
    · have hin : k ∈ r := by simpa [Ne.symm ha] using hmem
      rw [ih hin hnd.2 hr, other a (hlt a (List.mem_cons_self ..)) ha]

/-- What is observed of a lane outside the mask is unchanged. -/
theorem foldLanes_other {σ τ : Type} (obs : σ → τ) {m : Mask} {f : Nat → σ → σ} {s : σ} {k : Nat}
    (hk : m.getLsbD k = false) (other : ∀ l, l < 32 → l ≠ k → ∀ t, obs (f l t) = obs t) :
    obs (foldLanes m f s) = obs s := by
  refine foldLanes_induct (fun t => obs t = obs s) rfl (fun l hl t ht => ?_)
  have h := mem_lanesOf.1 hl
  have : l ≠ k := by rintro rfl; simp [h.2] at hk
  rw [other l h.1 this, ht]

end Masks

end Sys2Proof.Machine
end

