-- ==== Sys2Proof/Laws/State.lean ====
section
/-!
SUPPORT. What each basic update of the state leaves alone, one lemma for each field, and what it
makes of the records it changes.
-/

namespace Sys2Proof.Machine

section
variable (s : State)

@[simp] theorem State.finish_refilled : (State.finish s).refilled = s.refilled := rfl
@[simp] theorem State.finish_clkSince : (State.finish s).clkSince = s.clkSince := rfl
@[simp] theorem State.finish_clkCount : (State.finish s).clkCount = s.clkCount := rfl
@[simp] theorem State.finish_clkRate : (State.finish s).clkRate = s.clkRate := rfl
@[simp] theorem State.finish_bar2 : (State.finish s).bar2 = s.bar2 := rfl
@[simp] theorem State.finish_caplist : (State.finish s).caplist = s.caplist := rfl
@[simp] theorem State.finish_irqs : (State.finish s).irqs = s.irqs := rfl
@[simp] theorem State.finish_mgmt : (State.finish s).mgmt = s.mgmt := rfl
@[simp] theorem State.finish_aer : (State.finish s).aer = s.aer := rfl
@[simp] theorem State.finish_mem : (State.finish s).mem = s.mem := rfl
@[simp] theorem State.finish_poison : (State.finish s).poison = s.poison := rfl
@[simp] theorem State.finish_dram : (State.finish s).dram = s.dram := rfl
@[simp] theorem State.finish_lines : (State.finish s).lines = s.lines := rfl
@[simp] theorem State.finish_dieTlb : (State.finish s).dieTlb = s.dieTlb := rfl
@[simp] theorem State.finish_walkCache : (State.finish s).walkCache = s.walkCache := rfl
@[simp] theorem State.finish_pins : (State.finish s).pins = s.pins := rfl
@[simp] theorem State.finish_hostCopies : (State.finish s).hostCopies = s.hostCopies := rfl
@[simp] theorem State.finish_horizon : (State.finish s).horizon = s.horizon := rfl
@[simp] theorem State.finish_bias : (State.finish s).bias = s.bias := rfl
@[simp] theorem State.finish_snoop : (State.finish s).snoop = s.snoop := rfl
@[simp] theorem State.finish_chip : (State.finish s).chip = s.chip := rfl
@[simp] theorem State.finish_cores : (State.finish s).cores = s.cores := rfl
@[simp] theorem State.finish_engines : (State.finish s).engines = s.engines := rfl
@[simp] theorem State.finish_grove : (State.finish s).grove = s.grove := rfl
@[simp] theorem State.finish_launches : (State.finish s).launches = s.launches := rfl
@[simp] theorem State.finish_nextLaunch : (State.finish s).nextLaunch = s.nextLaunch := rfl
@[simp] theorem State.finish_graphs : (State.finish s).graphs = s.graphs := rfl
@[simp] theorem State.finish_nextGraph : (State.finish s).nextGraph = s.nextGraph := rfl
@[simp] theorem State.finish_slotsUsed : (State.finish s).slotsUsed = s.slotsUsed := rfl
@[simp] theorem State.finish_phases : (State.finish s).phases = s.phases := rfl
@[simp] theorem State.finish_queues : (State.finish s).queues = s.queues := rfl
@[simp] theorem State.finish_blocks : (State.finish s).blocks = s.blocks := rfl
@[simp] theorem State.finish_nextBlock : (State.finish s).nextBlock = s.nextBlock := rfl
@[simp] theorem State.finish_clusters : (State.finish s).clusters = s.clusters := rfl
@[simp] theorem State.finish_nextPlaced : (State.finish s).nextPlaced = s.nextPlaced := rfl
@[simp] theorem State.finish_nextAge : (State.finish s).nextAge = s.nextAge := rfl
@[simp] theorem State.finish_nextSave : (State.finish s).nextSave = s.nextSave := rfl
@[simp] theorem State.finish_warps : (State.finish s).warps = s.warps := rfl
@[simp] theorem State.finish_nextPark : (State.finish s).nextPark = s.nextPark := rfl
@[simp] theorem State.finish_lastGwct : (State.finish s).lastGwct = s.lastGwct := rfl
@[simp] theorem State.finish_pre : (State.finish s).pre = s.pre := rfl
@[simp] theorem State.finish_spill : (State.finish s).spill = s.spill := rfl
@[simp] theorem State.finish_spillHead : (State.finish s).spillHead = s.spillHead := rfl
@[simp] theorem State.finish_grovebase : (State.finish s).grovebase = s.grovebase := rfl
@[simp] theorem State.finish_callq : (State.finish s).callq = s.callq := rfl
@[simp] theorem State.finish_wcallFault : (State.finish s).wcallFault = s.wcallFault := rfl
@[simp] theorem State.finish_graft : (State.finish s).graft = s.graft := rfl
@[simp] theorem State.finish_graftOld : (State.finish s).graftOld = s.graftOld := rfl
@[simp] theorem State.finish_graftNew : (State.finish s).graftNew = s.graftNew := rfl
@[simp] theorem State.finish_fuse : (State.finish s).fuse = s.fuse := rfl
@[simp] theorem State.finish_flip : (State.finish s).flip = s.flip := rfl
@[simp] theorem State.finish_shoot : (State.finish s).shoot = s.shoot := rfl
@[simp] theorem State.finish_hostUp : (State.finish s).hostUp = s.hostUp := rfl
@[simp] theorem State.finish_hostDownAt : (State.finish s).hostDownAt = s.hostDownAt := rfl
@[simp] theorem State.finish_hostLost : (State.finish s).hostLost = s.hostLost := rfl
@[simp] theorem State.finish_portLanes : (State.finish s).portLanes = s.portLanes := rfl
@[simp] theorem State.finish_portTime : (State.finish s).portTime = s.portTime := rfl
@[simp] theorem State.finish_peerLost : (State.finish s).peerLost = s.peerLost := rfl
@[simp] theorem State.finish_peersGone : (State.finish s).peersGone = s.peersGone := rfl
@[simp] theorem State.finish_sharers : (State.finish s).sharers = s.sharers := rfl
@[simp] theorem State.finish_inval : (State.finish s).inval = s.inval := rfl
@[simp] theorem State.finish_lost : (State.finish s).lost = s.lost := rfl
@[simp] theorem State.finish_undoLog : (State.finish s).undoLog = s.undoLog := rfl
@[simp] theorem State.finish_undoFill : (State.finish s).undoFill = s.undoFill := rfl
@[simp] theorem State.finish_undoWarned : (State.finish s).undoWarned = s.undoWarned := rfl
@[simp] theorem State.finish_undoStarting : (State.finish s).undoStarting = s.undoStarting := rfl
@[simp] theorem State.finish_saved : (State.finish s).saved = s.saved := rfl
@[simp] theorem State.finish_ranges : (State.finish s).ranges = s.ranges := rfl
@[simp] theorem State.finish_spares : (State.finish s).spares = s.spares := rfl
@[simp] theorem State.finish_xlat : (State.finish s).xlat = s.xlat := rfl

end

section
variable (off : Nat) (v : Word) (s : State)

@[simp] theorem State.setReg_turn : (State.setReg off v s).turn = s.turn := rfl
@[simp] theorem State.setReg_tick : (State.setReg off v s).tick = s.tick := rfl
@[simp] theorem State.setReg_fresh : (State.setReg off v s).fresh = s.fresh := rfl
@[simp] theorem State.setReg_gtime : (State.setReg off v s).gtime = s.gtime := rfl
@[simp] theorem State.setReg_refilled : (State.setReg off v s).refilled = s.refilled := rfl
@[simp] theorem State.setReg_clkSince : (State.setReg off v s).clkSince = s.clkSince := rfl
@[simp] theorem State.setReg_clkCount : (State.setReg off v s).clkCount = s.clkCount := rfl
@[simp] theorem State.setReg_clkRate : (State.setReg off v s).clkRate = s.clkRate := rfl
@[simp] theorem State.setReg_caplist : (State.setReg off v s).caplist = s.caplist := rfl
@[simp] theorem State.setReg_irqs : (State.setReg off v s).irqs = s.irqs := rfl
@[simp] theorem State.setReg_mgmt : (State.setReg off v s).mgmt = s.mgmt := rfl
@[simp] theorem State.setReg_aer : (State.setReg off v s).aer = s.aer := rfl
@[simp] theorem State.setReg_mem : (State.setReg off v s).mem = s.mem := rfl
@[simp] theorem State.setReg_poison : (State.setReg off v s).poison = s.poison := rfl
@[simp] theorem State.setReg_dram : (State.setReg off v s).dram = s.dram := rfl
@[simp] theorem State.setReg_lines : (State.setReg off v s).lines = s.lines := rfl
@[simp] theorem State.setReg_dieTlb : (State.setReg off v s).dieTlb = s.dieTlb := rfl
@[simp] theorem State.setReg_walkCache : (State.setReg off v s).walkCache = s.walkCache := rfl
@[simp] theorem State.setReg_pins : (State.setReg off v s).pins = s.pins := rfl
@[simp] theorem State.setReg_hostCopies : (State.setReg off v s).hostCopies = s.hostCopies := rfl
@[simp] theorem State.setReg_horizon : (State.setReg off v s).horizon = s.horizon := rfl
@[simp] theorem State.setReg_bias : (State.setReg off v s).bias = s.bias := rfl
@[simp] theorem State.setReg_snoop : (State.setReg off v s).snoop = s.snoop := rfl
@[simp] theorem State.setReg_chip : (State.setReg off v s).chip = s.chip := rfl
@[simp] theorem State.setReg_cores : (State.setReg off v s).cores = s.cores := rfl
@[simp] theorem State.setReg_engines : (State.setReg off v s).engines = s.engines := rfl
@[simp] theorem State.setReg_grove : (State.setReg off v s).grove = s.grove := rfl
@[simp] theorem State.setReg_launches : (State.setReg off v s).launches = s.launches := rfl
@[simp] theorem State.setReg_nextLaunch : (State.setReg off v s).nextLaunch = s.nextLaunch := rfl
@[simp] theorem State.setReg_graphs : (State.setReg off v s).graphs = s.graphs := rfl
@[simp] theorem State.setReg_nextGraph : (State.setReg off v s).nextGraph = s.nextGraph := rfl
@[simp] theorem State.setReg_slotsUsed : (State.setReg off v s).slotsUsed = s.slotsUsed := rfl
@[simp] theorem State.setReg_phases : (State.setReg off v s).phases = s.phases := rfl
@[simp] theorem State.setReg_queues : (State.setReg off v s).queues = s.queues := rfl
@[simp] theorem State.setReg_blocks : (State.setReg off v s).blocks = s.blocks := rfl
@[simp] theorem State.setReg_nextBlock : (State.setReg off v s).nextBlock = s.nextBlock := rfl
@[simp] theorem State.setReg_clusters : (State.setReg off v s).clusters = s.clusters := rfl
@[simp] theorem State.setReg_nextPlaced : (State.setReg off v s).nextPlaced = s.nextPlaced := rfl
@[simp] theorem State.setReg_nextAge : (State.setReg off v s).nextAge = s.nextAge := rfl
@[simp] theorem State.setReg_nextSave : (State.setReg off v s).nextSave = s.nextSave := rfl
@[simp] theorem State.setReg_warps : (State.setReg off v s).warps = s.warps := rfl
@[simp] theorem State.setReg_nextPark : (State.setReg off v s).nextPark = s.nextPark := rfl
@[simp] theorem State.setReg_lastGwct : (State.setReg off v s).lastGwct = s.lastGwct := rfl
@[simp] theorem State.setReg_pre : (State.setReg off v s).pre = s.pre := rfl
@[simp] theorem State.setReg_spill : (State.setReg off v s).spill = s.spill := rfl
@[simp] theorem State.setReg_spillHead : (State.setReg off v s).spillHead = s.spillHead := rfl
@[simp] theorem State.setReg_grovebase : (State.setReg off v s).grovebase = s.grovebase := rfl
@[simp] theorem State.setReg_callq : (State.setReg off v s).callq = s.callq := rfl
@[simp] theorem State.setReg_wcallFault : (State.setReg off v s).wcallFault = s.wcallFault := rfl
@[simp] theorem State.setReg_graft : (State.setReg off v s).graft = s.graft := rfl
@[simp] theorem State.setReg_graftOld : (State.setReg off v s).graftOld = s.graftOld := rfl
@[simp] theorem State.setReg_graftNew : (State.setReg off v s).graftNew = s.graftNew := rfl
@[simp] theorem State.setReg_fuse : (State.setReg off v s).fuse = s.fuse := rfl
@[simp] theorem State.setReg_flip : (State.setReg off v s).flip = s.flip := rfl
@[simp] theorem State.setReg_shoot : (State.setReg off v s).shoot = s.shoot := rfl
@[simp] theorem State.setReg_hostUp : (State.setReg off v s).hostUp = s.hostUp := rfl
@[simp] theorem State.setReg_hostDownAt : (State.setReg off v s).hostDownAt = s.hostDownAt := rfl
@[simp] theorem State.setReg_hostLost : (State.setReg off v s).hostLost = s.hostLost := rfl
@[simp] theorem State.setReg_portLanes : (State.setReg off v s).portLanes = s.portLanes := rfl
@[simp] theorem State.setReg_portTime : (State.setReg off v s).portTime = s.portTime := rfl
@[simp] theorem State.setReg_peerLost : (State.setReg off v s).peerLost = s.peerLost := rfl
@[simp] theorem State.setReg_peersGone : (State.setReg off v s).peersGone = s.peersGone := rfl
@[simp] theorem State.setReg_sharers : (State.setReg off v s).sharers = s.sharers := rfl
@[simp] theorem State.setReg_inval : (State.setReg off v s).inval = s.inval := rfl
@[simp] theorem State.setReg_lost : (State.setReg off v s).lost = s.lost := rfl
@[simp] theorem State.setReg_undoLog : (State.setReg off v s).undoLog = s.undoLog := rfl
@[simp] theorem State.setReg_undoFill : (State.setReg off v s).undoFill = s.undoFill := rfl
@[simp] theorem State.setReg_undoWarned : (State.setReg off v s).undoWarned = s.undoWarned := rfl
@[simp] theorem State.setReg_undoStarting : (State.setReg off v s).undoStarting = s.undoStarting := rfl
@[simp] theorem State.setReg_saved : (State.setReg off v s).saved = s.saved := rfl
@[simp] theorem State.setReg_ranges : (State.setReg off v s).ranges = s.ranges := rfl
@[simp] theorem State.setReg_spares : (State.setReg off v s).spares = s.spares := rfl
@[simp] theorem State.setReg_xlat : (State.setReg off v s).xlat = s.xlat := rfl

end

section
variable (c : Nat) (f : Core → Core) (s : State)

@[simp] theorem State.modCore_turn : (State.modCore c f s).turn = s.turn := rfl
@[simp] theorem State.modCore_tick : (State.modCore c f s).tick = s.tick := rfl
@[simp] theorem State.modCore_fresh : (State.modCore c f s).fresh = s.fresh := rfl
@[simp] theorem State.modCore_gtime : (State.modCore c f s).gtime = s.gtime := rfl
@[simp] theorem State.modCore_refilled : (State.modCore c f s).refilled = s.refilled := rfl
@[simp] theorem State.modCore_clkSince : (State.modCore c f s).clkSince = s.clkSince := rfl
@[simp] theorem State.modCore_clkCount : (State.modCore c f s).clkCount = s.clkCount := rfl
@[simp] theorem State.modCore_clkRate : (State.modCore c f s).clkRate = s.clkRate := rfl
@[simp] theorem State.modCore_bar2 : (State.modCore c f s).bar2 = s.bar2 := rfl
@[simp] theorem State.modCore_caplist : (State.modCore c f s).caplist = s.caplist := rfl
@[simp] theorem State.modCore_irqs : (State.modCore c f s).irqs = s.irqs := rfl
@[simp] theorem State.modCore_mgmt : (State.modCore c f s).mgmt = s.mgmt := rfl
@[simp] theorem State.modCore_aer : (State.modCore c f s).aer = s.aer := rfl
@[simp] theorem State.modCore_mem : (State.modCore c f s).mem = s.mem := rfl
@[simp] theorem State.modCore_poison : (State.modCore c f s).poison = s.poison := rfl
@[simp] theorem State.modCore_dram : (State.modCore c f s).dram = s.dram := rfl
@[simp] theorem State.modCore_lines : (State.modCore c f s).lines = s.lines := rfl
@[simp] theorem State.modCore_dieTlb : (State.modCore c f s).dieTlb = s.dieTlb := rfl
@[simp] theorem State.modCore_walkCache : (State.modCore c f s).walkCache = s.walkCache := rfl
@[simp] theorem State.modCore_pins : (State.modCore c f s).pins = s.pins := rfl
@[simp] theorem State.modCore_hostCopies : (State.modCore c f s).hostCopies = s.hostCopies := rfl
@[simp] theorem State.modCore_horizon : (State.modCore c f s).horizon = s.horizon := rfl
@[simp] theorem State.modCore_bias : (State.modCore c f s).bias = s.bias := rfl
@[simp] theorem State.modCore_snoop : (State.modCore c f s).snoop = s.snoop := rfl
@[simp] theorem State.modCore_chip : (State.modCore c f s).chip = s.chip := rfl
@[simp] theorem State.modCore_engines : (State.modCore c f s).engines = s.engines := rfl
@[simp] theorem State.modCore_grove : (State.modCore c f s).grove = s.grove := rfl
@[simp] theorem State.modCore_launches : (State.modCore c f s).launches = s.launches := rfl
@[simp] theorem State.modCore_nextLaunch : (State.modCore c f s).nextLaunch = s.nextLaunch := rfl
@[simp] theorem State.modCore_graphs : (State.modCore c f s).graphs = s.graphs := rfl
@[simp] theorem State.modCore_nextGraph : (State.modCore c f s).nextGraph = s.nextGraph := rfl
@[simp] theorem State.modCore_slotsUsed : (State.modCore c f s).slotsUsed = s.slotsUsed := rfl
@[simp] theorem State.modCore_phases : (State.modCore c f s).phases = s.phases := rfl
@[simp] theorem State.modCore_queues : (State.modCore c f s).queues = s.queues := rfl
@[simp] theorem State.modCore_blocks : (State.modCore c f s).blocks = s.blocks := rfl
@[simp] theorem State.modCore_nextBlock : (State.modCore c f s).nextBlock = s.nextBlock := rfl
@[simp] theorem State.modCore_clusters : (State.modCore c f s).clusters = s.clusters := rfl
@[simp] theorem State.modCore_nextPlaced : (State.modCore c f s).nextPlaced = s.nextPlaced := rfl
@[simp] theorem State.modCore_nextAge : (State.modCore c f s).nextAge = s.nextAge := rfl
@[simp] theorem State.modCore_nextSave : (State.modCore c f s).nextSave = s.nextSave := rfl
@[simp] theorem State.modCore_warps : (State.modCore c f s).warps = s.warps := rfl
@[simp] theorem State.modCore_nextPark : (State.modCore c f s).nextPark = s.nextPark := rfl
@[simp] theorem State.modCore_lastGwct : (State.modCore c f s).lastGwct = s.lastGwct := rfl
@[simp] theorem State.modCore_pre : (State.modCore c f s).pre = s.pre := rfl
@[simp] theorem State.modCore_spill : (State.modCore c f s).spill = s.spill := rfl
@[simp] theorem State.modCore_spillHead : (State.modCore c f s).spillHead = s.spillHead := rfl
@[simp] theorem State.modCore_grovebase : (State.modCore c f s).grovebase = s.grovebase := rfl
@[simp] theorem State.modCore_callq : (State.modCore c f s).callq = s.callq := rfl
@[simp] theorem State.modCore_wcallFault : (State.modCore c f s).wcallFault = s.wcallFault := rfl
@[simp] theorem State.modCore_graft : (State.modCore c f s).graft = s.graft := rfl
@[simp] theorem State.modCore_graftOld : (State.modCore c f s).graftOld = s.graftOld := rfl
@[simp] theorem State.modCore_graftNew : (State.modCore c f s).graftNew = s.graftNew := rfl
@[simp] theorem State.modCore_fuse : (State.modCore c f s).fuse = s.fuse := rfl
@[simp] theorem State.modCore_flip : (State.modCore c f s).flip = s.flip := rfl
@[simp] theorem State.modCore_shoot : (State.modCore c f s).shoot = s.shoot := rfl
@[simp] theorem State.modCore_hostUp : (State.modCore c f s).hostUp = s.hostUp := rfl
@[simp] theorem State.modCore_hostDownAt : (State.modCore c f s).hostDownAt = s.hostDownAt := rfl
@[simp] theorem State.modCore_hostLost : (State.modCore c f s).hostLost = s.hostLost := rfl
@[simp] theorem State.modCore_portLanes : (State.modCore c f s).portLanes = s.portLanes := rfl
@[simp] theorem State.modCore_portTime : (State.modCore c f s).portTime = s.portTime := rfl
@[simp] theorem State.modCore_peerLost : (State.modCore c f s).peerLost = s.peerLost := rfl
@[simp] theorem State.modCore_peersGone : (State.modCore c f s).peersGone = s.peersGone := rfl
@[simp] theorem State.modCore_sharers : (State.modCore c f s).sharers = s.sharers := rfl
@[simp] theorem State.modCore_inval : (State.modCore c f s).inval = s.inval := rfl
@[simp] theorem State.modCore_lost : (State.modCore c f s).lost = s.lost := rfl
@[simp] theorem State.modCore_undoLog : (State.modCore c f s).undoLog = s.undoLog := rfl
@[simp] theorem State.modCore_undoFill : (State.modCore c f s).undoFill = s.undoFill := rfl
@[simp] theorem State.modCore_undoWarned : (State.modCore c f s).undoWarned = s.undoWarned := rfl
@[simp] theorem State.modCore_undoStarting : (State.modCore c f s).undoStarting = s.undoStarting := rfl
@[simp] theorem State.modCore_saved : (State.modCore c f s).saved = s.saved := rfl
@[simp] theorem State.modCore_ranges : (State.modCore c f s).ranges = s.ranges := rfl
@[simp] theorem State.modCore_spares : (State.modCore c f s).spares = s.spares := rfl
@[simp] theorem State.modCore_xlat : (State.modCore c f s).xlat = s.xlat := rfl

end

section
variable (k : Nat) (f : Warp → Warp) (s : State)

@[simp] theorem State.modWarp_turn : (State.modWarp k f s).turn = s.turn := by
  unfold State.modWarp; split <;> rfl
@[simp] theorem State.modWarp_tick : (State.modWarp k f s).tick = s.tick := by
  unfold State.modWarp; split <;> rfl
@[simp] theorem State.modWarp_fresh : (State.modWarp k f s).fresh = s.fresh := by
  unfold State.modWarp; split <;> rfl
@[simp] theorem State.modWarp_gtime : (State.modWarp k f s).gtime = s.gtime := by
  unfold State.modWarp; split <;> rfl
@[simp] theorem State.modWarp_refilled : (State.modWarp k f s).refilled = s.refilled := by
  unfold State.modWarp; split <;> rfl
@[simp] theorem State.modWarp_clkSince : (State.modWarp k f s).clkSince = s.clkSince := by
  unfold State.modWarp; split <;> rfl
@[simp] theorem State.modWarp_clkCount : (State.modWarp k f s).clkCount = s.clkCount := by
  unfold State.modWarp; split <;> rfl
@[simp] theorem State.modWarp_clkRate : (State.modWarp k f s).clkRate = s.clkRate := by
  unfold State.modWarp; split <;> rfl
@[simp] theorem State.modWarp_bar2 : (State.modWarp k f s).bar2 = s.bar2 := by
  unfold State.modWarp; split <;> rfl
@[simp] theorem State.modWarp_caplist : (State.modWarp k f s).caplist = s.caplist := by
  unfold State.modWarp; split <;> rfl
@[simp] theorem State.modWarp_irqs : (State.modWarp k f s).irqs = s.irqs := by
  unfold State.modWarp; split <;> rfl
@[simp] theorem State.modWarp_mgmt : (State.modWarp k f s).mgmt = s.mgmt := by
  unfold State.modWarp; split <;> rfl
@[simp] theorem State.modWarp_aer : (State.modWarp k f s).aer = s.aer := by
  unfold State.modWarp; split <;> rfl
@[simp] theorem State.modWarp_mem : (State.modWarp k f s).mem = s.mem := by
  unfold State.modWarp; split <;> rfl
@[simp] theorem State.modWarp_poison : (State.modWarp k f s).poison = s.poison := by
  unfold State.modWarp; split <;> rfl
@[simp] theorem State.modWarp_dram : (State.modWarp k f s).dram = s.dram := by
  unfold State.modWarp; split <;> rfl
@[simp] theorem State.modWarp_lines : (State.modWarp k f s).lines = s.lines := by
  unfold State.modWarp; split <;> rfl
@[simp] theorem State.modWarp_dieTlb : (State.modWarp k f s).dieTlb = s.dieTlb := by
  unfold State.modWarp; split <;> rfl
@[simp] theorem State.modWarp_walkCache : (State.modWarp k f s).walkCache = s.walkCache := by
  unfold State.modWarp; split <;> rfl
@[simp] theorem State.modWarp_pins : (State.modWarp k f s).pins = s.pins := by
  unfold State.modWarp; split <;> rfl
@[simp] theorem State.modWarp_hostCopies : (State.modWarp k f s).hostCopies = s.hostCopies := by
  unfold State.modWarp; split <;> rfl
@[simp] theorem State.modWarp_horizon : (State.modWarp k f s).horizon = s.horizon := by
  unfold State.modWarp; split <;> rfl
@[simp] theorem State.modWarp_bias : (State.modWarp k f s).bias = s.bias := by
  unfold State.modWarp; split <;> rfl
@[simp] theorem State.modWarp_snoop : (State.modWarp k f s).snoop = s.snoop := by
  unfold State.modWarp; split <;> rfl
@[simp] theorem State.modWarp_chip : (State.modWarp k f s).chip = s.chip := by
  unfold State.modWarp; split <;> rfl
@[simp] theorem State.modWarp_cores : (State.modWarp k f s).cores = s.cores := by
  unfold State.modWarp; split <;> rfl
@[simp] theorem State.modWarp_engines : (State.modWarp k f s).engines = s.engines := by
  unfold State.modWarp; split <;> rfl
@[simp] theorem State.modWarp_grove : (State.modWarp k f s).grove = s.grove := by
  unfold State.modWarp; split <;> rfl
@[simp] theorem State.modWarp_launches : (State.modWarp k f s).launches = s.launches := by
  unfold State.modWarp; split <;> rfl
@[simp] theorem State.modWarp_nextLaunch : (State.modWarp k f s).nextLaunch = s.nextLaunch := by
  unfold State.modWarp; split <;> rfl
@[simp] theorem State.modWarp_graphs : (State.modWarp k f s).graphs = s.graphs := by
  unfold State.modWarp; split <;> rfl
@[simp] theorem State.modWarp_nextGraph : (State.modWarp k f s).nextGraph = s.nextGraph := by
  unfold State.modWarp; split <;> rfl
@[simp] theorem State.modWarp_slotsUsed : (State.modWarp k f s).slotsUsed = s.slotsUsed := by
  unfold State.modWarp; split <;> rfl
@[simp] theorem State.modWarp_phases : (State.modWarp k f s).phases = s.phases := by
  unfold State.modWarp; split <;> rfl
@[simp] theorem State.modWarp_queues : (State.modWarp k f s).queues = s.queues := by
  unfold State.modWarp; split <;> rfl
@[simp] theorem State.modWarp_blocks : (State.modWarp k f s).blocks = s.blocks := by
  unfold State.modWarp; split <;> rfl
@[simp] theorem State.modWarp_nextBlock : (State.modWarp k f s).nextBlock = s.nextBlock := by
  unfold State.modWarp; split <;> rfl
@[simp] theorem State.modWarp_clusters : (State.modWarp k f s).clusters = s.clusters := by
  unfold State.modWarp; split <;> rfl
@[simp] theorem State.modWarp_nextPlaced : (State.modWarp k f s).nextPlaced = s.nextPlaced := by
  unfold State.modWarp; split <;> rfl
@[simp] theorem State.modWarp_nextAge : (State.modWarp k f s).nextAge = s.nextAge := by
  unfold State.modWarp; split <;> rfl
@[simp] theorem State.modWarp_nextSave : (State.modWarp k f s).nextSave = s.nextSave := by
  unfold State.modWarp; split <;> rfl
@[simp] theorem State.modWarp_nextPark : (State.modWarp k f s).nextPark = s.nextPark := by
  unfold State.modWarp; split <;> rfl
@[simp] theorem State.modWarp_lastGwct : (State.modWarp k f s).lastGwct = s.lastGwct := by
  unfold State.modWarp; split <;> rfl
@[simp] theorem State.modWarp_pre : (State.modWarp k f s).pre = s.pre := by
  unfold State.modWarp; split <;> rfl
@[simp] theorem State.modWarp_spill : (State.modWarp k f s).spill = s.spill := by
  unfold State.modWarp; split <;> rfl
@[simp] theorem State.modWarp_spillHead : (State.modWarp k f s).spillHead = s.spillHead := by
  unfold State.modWarp; split <;> rfl
@[simp] theorem State.modWarp_grovebase : (State.modWarp k f s).grovebase = s.grovebase := by
  unfold State.modWarp; split <;> rfl
@[simp] theorem State.modWarp_callq : (State.modWarp k f s).callq = s.callq := by
  unfold State.modWarp; split <;> rfl
@[simp] theorem State.modWarp_wcallFault : (State.modWarp k f s).wcallFault = s.wcallFault := by
  unfold State.modWarp; split <;> rfl
@[simp] theorem State.modWarp_graft : (State.modWarp k f s).graft = s.graft := by
  unfold State.modWarp; split <;> rfl
@[simp] theorem State.modWarp_graftOld : (State.modWarp k f s).graftOld = s.graftOld := by
  unfold State.modWarp; split <;> rfl
@[simp] theorem State.modWarp_graftNew : (State.modWarp k f s).graftNew = s.graftNew := by
  unfold State.modWarp; split <;> rfl
@[simp] theorem State.modWarp_fuse : (State.modWarp k f s).fuse = s.fuse := by
  unfold State.modWarp; split <;> rfl
@[simp] theorem State.modWarp_flip : (State.modWarp k f s).flip = s.flip := by
  unfold State.modWarp; split <;> rfl
@[simp] theorem State.modWarp_shoot : (State.modWarp k f s).shoot = s.shoot := by
  unfold State.modWarp; split <;> rfl
@[simp] theorem State.modWarp_hostUp : (State.modWarp k f s).hostUp = s.hostUp := by
  unfold State.modWarp; split <;> rfl
@[simp] theorem State.modWarp_hostDownAt : (State.modWarp k f s).hostDownAt = s.hostDownAt := by
  unfold State.modWarp; split <;> rfl
@[simp] theorem State.modWarp_hostLost : (State.modWarp k f s).hostLost = s.hostLost := by
  unfold State.modWarp; split <;> rfl
@[simp] theorem State.modWarp_portLanes : (State.modWarp k f s).portLanes = s.portLanes := by
  unfold State.modWarp; split <;> rfl
@[simp] theorem State.modWarp_portTime : (State.modWarp k f s).portTime = s.portTime := by
  unfold State.modWarp; split <;> rfl
@[simp] theorem State.modWarp_peerLost : (State.modWarp k f s).peerLost = s.peerLost := by
  unfold State.modWarp; split <;> rfl
@[simp] theorem State.modWarp_peersGone : (State.modWarp k f s).peersGone = s.peersGone := by
  unfold State.modWarp; split <;> rfl
@[simp] theorem State.modWarp_sharers : (State.modWarp k f s).sharers = s.sharers := by
  unfold State.modWarp; split <;> rfl
@[simp] theorem State.modWarp_inval : (State.modWarp k f s).inval = s.inval := by
  unfold State.modWarp; split <;> rfl
@[simp] theorem State.modWarp_lost : (State.modWarp k f s).lost = s.lost := by
  unfold State.modWarp; split <;> rfl
@[simp] theorem State.modWarp_undoLog : (State.modWarp k f s).undoLog = s.undoLog := by
  unfold State.modWarp; split <;> rfl
@[simp] theorem State.modWarp_undoFill : (State.modWarp k f s).undoFill = s.undoFill := by
  unfold State.modWarp; split <;> rfl
@[simp] theorem State.modWarp_undoWarned : (State.modWarp k f s).undoWarned = s.undoWarned := by
  unfold State.modWarp; split <;> rfl
@[simp] theorem State.modWarp_undoStarting : (State.modWarp k f s).undoStarting = s.undoStarting := by
  unfold State.modWarp; split <;> rfl
@[simp] theorem State.modWarp_saved : (State.modWarp k f s).saved = s.saved := by
  unfold State.modWarp; split <;> rfl
@[simp] theorem State.modWarp_ranges : (State.modWarp k f s).ranges = s.ranges := by
  unfold State.modWarp; split <;> rfl
@[simp] theorem State.modWarp_spares : (State.modWarp k f s).spares = s.spares := by
  unfold State.modWarp; split <;> rfl
@[simp] theorem State.modWarp_xlat : (State.modWarp k f s).xlat = s.xlat := by
  unfold State.modWarp; split <;> rfl

end

section
variable (k : Nat) (f : Block → Block) (s : State)

@[simp] theorem State.modBlock_turn : (State.modBlock k f s).turn = s.turn := by
  unfold State.modBlock; split <;> rfl
@[simp] theorem State.modBlock_tick : (State.modBlock k f s).tick = s.tick := by
  unfold State.modBlock; split <;> rfl
@[simp] theorem State.modBlock_fresh : (State.modBlock k f s).fresh = s.fresh := by
  unfold State.modBlock; split <;> rfl
@[simp] theorem State.modBlock_gtime : (State.modBlock k f s).gtime = s.gtime := by
  unfold State.modBlock; split <;> rfl
@[simp] theorem State.modBlock_refilled : (State.modBlock k f s).refilled = s.refilled := by
  unfold State.modBlock; split <;> rfl
@[simp] theorem State.modBlock_clkSince : (State.modBlock k f s).clkSince = s.clkSince := by
  unfold State.modBlock; split <;> rfl
@[simp] theorem State.modBlock_clkCount : (State.modBlock k f s).clkCount = s.clkCount := by
  unfold State.modBlock; split <;> rfl
@[simp] theorem State.modBlock_clkRate : (State.modBlock k f s).clkRate = s.clkRate := by
  unfold State.modBlock; split <;> rfl
@[simp] theorem State.modBlock_bar2 : (State.modBlock k f s).bar2 = s.bar2 := by
  unfold State.modBlock; split <;> rfl
@[simp] theorem State.modBlock_caplist : (State.modBlock k f s).caplist = s.caplist := by
  unfold State.modBlock; split <;> rfl
@[simp] theorem State.modBlock_irqs : (State.modBlock k f s).irqs = s.irqs := by
  unfold State.modBlock; split <;> rfl
@[simp] theorem State.modBlock_mgmt : (State.modBlock k f s).mgmt = s.mgmt := by
  unfold State.modBlock; split <;> rfl
@[simp] theorem State.modBlock_aer : (State.modBlock k f s).aer = s.aer := by
  unfold State.modBlock; split <;> rfl
@[simp] theorem State.modBlock_mem : (State.modBlock k f s).mem = s.mem := by
  unfold State.modBlock; split <;> rfl
@[simp] theorem State.modBlock_poison : (State.modBlock k f s).poison = s.poison := by
  unfold State.modBlock; split <;> rfl
@[simp] theorem State.modBlock_dram : (State.modBlock k f s).dram = s.dram := by
  unfold State.modBlock; split <;> rfl
@[simp] theorem State.modBlock_lines : (State.modBlock k f s).lines = s.lines := by
  unfold State.modBlock; split <;> rfl
@[simp] theorem State.modBlock_dieTlb : (State.modBlock k f s).dieTlb = s.dieTlb := by
  unfold State.modBlock; split <;> rfl
@[simp] theorem State.modBlock_walkCache : (State.modBlock k f s).walkCache = s.walkCache := by
  unfold State.modBlock; split <;> rfl
@[simp] theorem State.modBlock_pins : (State.modBlock k f s).pins = s.pins := by
  unfold State.modBlock; split <;> rfl
@[simp] theorem State.modBlock_hostCopies : (State.modBlock k f s).hostCopies = s.hostCopies := by
  unfold State.modBlock; split <;> rfl
@[simp] theorem State.modBlock_horizon : (State.modBlock k f s).horizon = s.horizon := by
  unfold State.modBlock; split <;> rfl
@[simp] theorem State.modBlock_bias : (State.modBlock k f s).bias = s.bias := by
  unfold State.modBlock; split <;> rfl
@[simp] theorem State.modBlock_snoop : (State.modBlock k f s).snoop = s.snoop := by
  unfold State.modBlock; split <;> rfl
@[simp] theorem State.modBlock_chip : (State.modBlock k f s).chip = s.chip := by
  unfold State.modBlock; split <;> rfl
@[simp] theorem State.modBlock_cores : (State.modBlock k f s).cores = s.cores := by
  unfold State.modBlock; split <;> rfl
@[simp] theorem State.modBlock_engines : (State.modBlock k f s).engines = s.engines := by
  unfold State.modBlock; split <;> rfl
@[simp] theorem State.modBlock_grove : (State.modBlock k f s).grove = s.grove := by
  unfold State.modBlock; split <;> rfl
@[simp] theorem State.modBlock_launches : (State.modBlock k f s).launches = s.launches := by
  unfold State.modBlock; split <;> rfl
@[simp] theorem State.modBlock_nextLaunch : (State.modBlock k f s).nextLaunch = s.nextLaunch := by
  unfold State.modBlock; split <;> rfl
@[simp] theorem State.modBlock_graphs : (State.modBlock k f s).graphs = s.graphs := by
  unfold State.modBlock; split <;> rfl
@[simp] theorem State.modBlock_nextGraph : (State.modBlock k f s).nextGraph = s.nextGraph := by
  unfold State.modBlock; split <;> rfl
@[simp] theorem State.modBlock_slotsUsed : (State.modBlock k f s).slotsUsed = s.slotsUsed := by
  unfold State.modBlock; split <;> rfl
@[simp] theorem State.modBlock_phases : (State.modBlock k f s).phases = s.phases := by
  unfold State.modBlock; split <;> rfl
@[simp] theorem State.modBlock_queues : (State.modBlock k f s).queues = s.queues := by
  unfold State.modBlock; split <;> rfl
@[simp] theorem State.modBlock_nextBlock : (State.modBlock k f s).nextBlock = s.nextBlock := by
  unfold State.modBlock; split <;> rfl
@[simp] theorem State.modBlock_clusters : (State.modBlock k f s).clusters = s.clusters := by
  unfold State.modBlock; split <;> rfl
@[simp] theorem State.modBlock_nextPlaced : (State.modBlock k f s).nextPlaced = s.nextPlaced := by
  unfold State.modBlock; split <;> rfl
@[simp] theorem State.modBlock_nextAge : (State.modBlock k f s).nextAge = s.nextAge := by
  unfold State.modBlock; split <;> rfl
@[simp] theorem State.modBlock_nextSave : (State.modBlock k f s).nextSave = s.nextSave := by
  unfold State.modBlock; split <;> rfl
@[simp] theorem State.modBlock_warps : (State.modBlock k f s).warps = s.warps := by
  unfold State.modBlock; split <;> rfl
@[simp] theorem State.modBlock_nextPark : (State.modBlock k f s).nextPark = s.nextPark := by
  unfold State.modBlock; split <;> rfl
@[simp] theorem State.modBlock_lastGwct : (State.modBlock k f s).lastGwct = s.lastGwct := by
  unfold State.modBlock; split <;> rfl
@[simp] theorem State.modBlock_pre : (State.modBlock k f s).pre = s.pre := by
  unfold State.modBlock; split <;> rfl
@[simp] theorem State.modBlock_spill : (State.modBlock k f s).spill = s.spill := by
  unfold State.modBlock; split <;> rfl
@[simp] theorem State.modBlock_spillHead : (State.modBlock k f s).spillHead = s.spillHead := by
  unfold State.modBlock; split <;> rfl
@[simp] theorem State.modBlock_grovebase : (State.modBlock k f s).grovebase = s.grovebase := by
  unfold State.modBlock; split <;> rfl
@[simp] theorem State.modBlock_callq : (State.modBlock k f s).callq = s.callq := by
  unfold State.modBlock; split <;> rfl
@[simp] theorem State.modBlock_wcallFault : (State.modBlock k f s).wcallFault = s.wcallFault := by
  unfold State.modBlock; split <;> rfl
@[simp] theorem State.modBlock_graft : (State.modBlock k f s).graft = s.graft := by
  unfold State.modBlock; split <;> rfl
@[simp] theorem State.modBlock_graftOld : (State.modBlock k f s).graftOld = s.graftOld := by
  unfold State.modBlock; split <;> rfl
@[simp] theorem State.modBlock_graftNew : (State.modBlock k f s).graftNew = s.graftNew := by
  unfold State.modBlock; split <;> rfl
@[simp] theorem State.modBlock_fuse : (State.modBlock k f s).fuse = s.fuse := by
  unfold State.modBlock; split <;> rfl
@[simp] theorem State.modBlock_flip : (State.modBlock k f s).flip = s.flip := by
  unfold State.modBlock; split <;> rfl
@[simp] theorem State.modBlock_shoot : (State.modBlock k f s).shoot = s.shoot := by
  unfold State.modBlock; split <;> rfl
@[simp] theorem State.modBlock_hostUp : (State.modBlock k f s).hostUp = s.hostUp := by
  unfold State.modBlock; split <;> rfl
@[simp] theorem State.modBlock_hostDownAt : (State.modBlock k f s).hostDownAt = s.hostDownAt := by
  unfold State.modBlock; split <;> rfl
@[simp] theorem State.modBlock_hostLost : (State.modBlock k f s).hostLost = s.hostLost := by
  unfold State.modBlock; split <;> rfl
@[simp] theorem State.modBlock_portLanes : (State.modBlock k f s).portLanes = s.portLanes := by
  unfold State.modBlock; split <;> rfl
@[simp] theorem State.modBlock_portTime : (State.modBlock k f s).portTime = s.portTime := by
  unfold State.modBlock; split <;> rfl
@[simp] theorem State.modBlock_peerLost : (State.modBlock k f s).peerLost = s.peerLost := by
  unfold State.modBlock; split <;> rfl
@[simp] theorem State.modBlock_peersGone : (State.modBlock k f s).peersGone = s.peersGone := by
  unfold State.modBlock; split <;> rfl
@[simp] theorem State.modBlock_sharers : (State.modBlock k f s).sharers = s.sharers := by
  unfold State.modBlock; split <;> rfl
@[simp] theorem State.modBlock_inval : (State.modBlock k f s).inval = s.inval := by
  unfold State.modBlock; split <;> rfl
@[simp] theorem State.modBlock_lost : (State.modBlock k f s).lost = s.lost := by
  unfold State.modBlock; split <;> rfl
@[simp] theorem State.modBlock_undoLog : (State.modBlock k f s).undoLog = s.undoLog := by
  unfold State.modBlock; split <;> rfl
@[simp] theorem State.modBlock_undoFill : (State.modBlock k f s).undoFill = s.undoFill := by
  unfold State.modBlock; split <;> rfl
@[simp] theorem State.modBlock_undoWarned : (State.modBlock k f s).undoWarned = s.undoWarned := by
  unfold State.modBlock; split <;> rfl
@[simp] theorem State.modBlock_undoStarting : (State.modBlock k f s).undoStarting = s.undoStarting := by
  unfold State.modBlock; split <;> rfl
@[simp] theorem State.modBlock_saved : (State.modBlock k f s).saved = s.saved := by
  unfold State.modBlock; split <;> rfl
@[simp] theorem State.modBlock_ranges : (State.modBlock k f s).ranges = s.ranges := by
  unfold State.modBlock; split <;> rfl
@[simp] theorem State.modBlock_spares : (State.modBlock k f s).spares = s.spares := by
  unfold State.modBlock; split <;> rfl
@[simp] theorem State.modBlock_xlat : (State.modBlock k f s).xlat = s.xlat := by
  unfold State.modBlock; split <;> rfl

end

section
variable (k : Nat) (f : Launch → Launch) (s : State)

@[simp] theorem State.modLaunch_turn : (State.modLaunch k f s).turn = s.turn := by
  unfold State.modLaunch; split <;> rfl
@[simp] theorem State.modLaunch_tick : (State.modLaunch k f s).tick = s.tick := by
  unfold State.modLaunch; split <;> rfl
@[simp] theorem State.modLaunch_fresh : (State.modLaunch k f s).fresh = s.fresh := by
  unfold State.modLaunch; split <;> rfl
@[simp] theorem State.modLaunch_gtime : (State.modLaunch k f s).gtime = s.gtime := by
  unfold State.modLaunch; split <;> rfl
@[simp] theorem State.modLaunch_refilled : (State.modLaunch k f s).refilled = s.refilled := by
  unfold State.modLaunch; split <;> rfl
@[simp] theorem State.modLaunch_clkSince : (State.modLaunch k f s).clkSince = s.clkSince := by
  unfold State.modLaunch; split <;> rfl
@[simp] theorem State.modLaunch_clkCount : (State.modLaunch k f s).clkCount = s.clkCount := by
  unfold State.modLaunch; split <;> rfl
@[simp] theorem State.modLaunch_clkRate : (State.modLaunch k f s).clkRate = s.clkRate := by
  unfold State.modLaunch; split <;> rfl
@[simp] theorem State.modLaunch_bar2 : (State.modLaunch k f s).bar2 = s.bar2 := by
  unfold State.modLaunch; split <;> rfl
@[simp] theorem State.modLaunch_caplist : (State.modLaunch k f s).caplist = s.caplist := by
  unfold State.modLaunch; split <;> rfl
@[simp] theorem State.modLaunch_irqs : (State.modLaunch k f s).irqs = s.irqs := by
  unfold State.modLaunch; split <;> rfl
@[simp] theorem State.modLaunch_mgmt : (State.modLaunch k f s).mgmt = s.mgmt := by
  unfold State.modLaunch; split <;> rfl
@[simp] theorem State.modLaunch_aer : (State.modLaunch k f s).aer = s.aer := by
  unfold State.modLaunch; split <;> rfl
@[simp] theorem State.modLaunch_mem : (State.modLaunch k f s).mem = s.mem := by
  unfold State.modLaunch; split <;> rfl
@[simp] theorem State.modLaunch_poison : (State.modLaunch k f s).poison = s.poison := by
  unfold State.modLaunch; split <;> rfl
@[simp] theorem State.modLaunch_dram : (State.modLaunch k f s).dram = s.dram := by
  unfold State.modLaunch; split <;> rfl
@[simp] theorem State.modLaunch_lines : (State.modLaunch k f s).lines = s.lines := by
  unfold State.modLaunch; split <;> rfl
@[simp] theorem State.modLaunch_dieTlb : (State.modLaunch k f s).dieTlb = s.dieTlb := by
  unfold State.modLaunch; split <;> rfl
@[simp] theorem State.modLaunch_walkCache : (State.modLaunch k f s).walkCache = s.walkCache := by
  unfold State.modLaunch; split <;> rfl
@[simp] theorem State.modLaunch_pins : (State.modLaunch k f s).pins = s.pins := by
  unfold State.modLaunch; split <;> rfl
@[simp] theorem State.modLaunch_hostCopies : (State.modLaunch k f s).hostCopies = s.hostCopies := by
  unfold State.modLaunch; split <;> rfl
@[simp] theorem State.modLaunch_horizon : (State.modLaunch k f s).horizon = s.horizon := by
  unfold State.modLaunch; split <;> rfl
@[simp] theorem State.modLaunch_bias : (State.modLaunch k f s).bias = s.bias := by
  unfold State.modLaunch; split <;> rfl
@[simp] theorem State.modLaunch_snoop : (State.modLaunch k f s).snoop = s.snoop := by
  unfold State.modLaunch; split <;> rfl
@[simp] theorem State.modLaunch_chip : (State.modLaunch k f s).chip = s.chip := by
  unfold State.modLaunch; split <;> rfl
@[simp] theorem State.modLaunch_cores : (State.modLaunch k f s).cores = s.cores := by
  unfold State.modLaunch; split <;> rfl
@[simp] theorem State.modLaunch_engines : (State.modLaunch k f s).engines = s.engines := by
  unfold State.modLaunch; split <;> rfl
@[simp] theorem State.modLaunch_grove : (State.modLaunch k f s).grove = s.grove := by
  unfold State.modLaunch; split <;> rfl
@[simp] theorem State.modLaunch_nextLaunch : (State.modLaunch k f s).nextLaunch = s.nextLaunch := by
  unfold State.modLaunch; split <;> rfl
@[simp] theorem State.modLaunch_graphs : (State.modLaunch k f s).graphs = s.graphs := by
  unfold State.modLaunch; split <;> rfl
@[simp] theorem State.modLaunch_nextGraph : (State.modLaunch k f s).nextGraph = s.nextGraph := by
  unfold State.modLaunch; split <;> rfl
@[simp] theorem State.modLaunch_slotsUsed : (State.modLaunch k f s).slotsUsed = s.slotsUsed := by
  unfold State.modLaunch; split <;> rfl
@[simp] theorem State.modLaunch_phases : (State.modLaunch k f s).phases = s.phases := by
  unfold State.modLaunch; split <;> rfl
@[simp] theorem State.modLaunch_queues : (State.modLaunch k f s).queues = s.queues := by
  unfold State.modLaunch; split <;> rfl
@[simp] theorem State.modLaunch_blocks : (State.modLaunch k f s).blocks = s.blocks := by
  unfold State.modLaunch; split <;> rfl
@[simp] theorem State.modLaunch_nextBlock : (State.modLaunch k f s).nextBlock = s.nextBlock := by
  unfold State.modLaunch; split <;> rfl
@[simp] theorem State.modLaunch_clusters : (State.modLaunch k f s).clusters = s.clusters := by
  unfold State.modLaunch; split <;> rfl
@[simp] theorem State.modLaunch_nextPlaced : (State.modLaunch k f s).nextPlaced = s.nextPlaced := by
  unfold State.modLaunch; split <;> rfl
@[simp] theorem State.modLaunch_nextAge : (State.modLaunch k f s).nextAge = s.nextAge := by
  unfold State.modLaunch; split <;> rfl
@[simp] theorem State.modLaunch_nextSave : (State.modLaunch k f s).nextSave = s.nextSave := by
  unfold State.modLaunch; split <;> rfl
@[simp] theorem State.modLaunch_warps : (State.modLaunch k f s).warps = s.warps := by
  unfold State.modLaunch; split <;> rfl
@[simp] theorem State.modLaunch_nextPark : (State.modLaunch k f s).nextPark = s.nextPark := by
  unfold State.modLaunch; split <;> rfl
@[simp] theorem State.modLaunch_lastGwct : (State.modLaunch k f s).lastGwct = s.lastGwct := by
  unfold State.modLaunch; split <;> rfl
@[simp] theorem State.modLaunch_pre : (State.modLaunch k f s).pre = s.pre := by
  unfold State.modLaunch; split <;> rfl
@[simp] theorem State.modLaunch_spill : (State.modLaunch k f s).spill = s.spill := by
  unfold State.modLaunch; split <;> rfl
@[simp] theorem State.modLaunch_spillHead : (State.modLaunch k f s).spillHead = s.spillHead := by
  unfold State.modLaunch; split <;> rfl
@[simp] theorem State.modLaunch_grovebase : (State.modLaunch k f s).grovebase = s.grovebase := by
  unfold State.modLaunch; split <;> rfl
@[simp] theorem State.modLaunch_callq : (State.modLaunch k f s).callq = s.callq := by
  unfold State.modLaunch; split <;> rfl
@[simp] theorem State.modLaunch_wcallFault : (State.modLaunch k f s).wcallFault = s.wcallFault := by
  unfold State.modLaunch; split <;> rfl
@[simp] theorem State.modLaunch_graft : (State.modLaunch k f s).graft = s.graft := by
  unfold State.modLaunch; split <;> rfl
@[simp] theorem State.modLaunch_graftOld : (State.modLaunch k f s).graftOld = s.graftOld := by
  unfold State.modLaunch; split <;> rfl
@[simp] theorem State.modLaunch_graftNew : (State.modLaunch k f s).graftNew = s.graftNew := by
  unfold State.modLaunch; split <;> rfl
@[simp] theorem State.modLaunch_fuse : (State.modLaunch k f s).fuse = s.fuse := by
  unfold State.modLaunch; split <;> rfl
@[simp] theorem State.modLaunch_flip : (State.modLaunch k f s).flip = s.flip := by
  unfold State.modLaunch; split <;> rfl
@[simp] theorem State.modLaunch_shoot : (State.modLaunch k f s).shoot = s.shoot := by
  unfold State.modLaunch; split <;> rfl
@[simp] theorem State.modLaunch_hostUp : (State.modLaunch k f s).hostUp = s.hostUp := by
  unfold State.modLaunch; split <;> rfl
@[simp] theorem State.modLaunch_hostDownAt : (State.modLaunch k f s).hostDownAt = s.hostDownAt := by
  unfold State.modLaunch; split <;> rfl
@[simp] theorem State.modLaunch_hostLost : (State.modLaunch k f s).hostLost = s.hostLost := by
  unfold State.modLaunch; split <;> rfl
@[simp] theorem State.modLaunch_portLanes : (State.modLaunch k f s).portLanes = s.portLanes := by
  unfold State.modLaunch; split <;> rfl
@[simp] theorem State.modLaunch_portTime : (State.modLaunch k f s).portTime = s.portTime := by
  unfold State.modLaunch; split <;> rfl
@[simp] theorem State.modLaunch_peerLost : (State.modLaunch k f s).peerLost = s.peerLost := by
  unfold State.modLaunch; split <;> rfl
@[simp] theorem State.modLaunch_peersGone : (State.modLaunch k f s).peersGone = s.peersGone := by
  unfold State.modLaunch; split <;> rfl
@[simp] theorem State.modLaunch_sharers : (State.modLaunch k f s).sharers = s.sharers := by
  unfold State.modLaunch; split <;> rfl
@[simp] theorem State.modLaunch_inval : (State.modLaunch k f s).inval = s.inval := by
  unfold State.modLaunch; split <;> rfl
@[simp] theorem State.modLaunch_lost : (State.modLaunch k f s).lost = s.lost := by
  unfold State.modLaunch; split <;> rfl
@[simp] theorem State.modLaunch_undoLog : (State.modLaunch k f s).undoLog = s.undoLog := by
  unfold State.modLaunch; split <;> rfl
@[simp] theorem State.modLaunch_undoFill : (State.modLaunch k f s).undoFill = s.undoFill := by
  unfold State.modLaunch; split <;> rfl
@[simp] theorem State.modLaunch_undoWarned : (State.modLaunch k f s).undoWarned = s.undoWarned := by
  unfold State.modLaunch; split <;> rfl
@[simp] theorem State.modLaunch_undoStarting : (State.modLaunch k f s).undoStarting = s.undoStarting := by
  unfold State.modLaunch; split <;> rfl
@[simp] theorem State.modLaunch_saved : (State.modLaunch k f s).saved = s.saved := by
  unfold State.modLaunch; split <;> rfl
@[simp] theorem State.modLaunch_ranges : (State.modLaunch k f s).ranges = s.ranges := by
  unfold State.modLaunch; split <;> rfl
@[simp] theorem State.modLaunch_spares : (State.modLaunch k f s).spares = s.spares := by
  unfold State.modLaunch; split <;> rfl
@[simp] theorem State.modLaunch_xlat : (State.modLaunch k f s).xlat = s.xlat := by
  unfold State.modLaunch; split <;> rfl

end

section
variable (k : Nat) (f : QState → QState) (s : State)

@[simp] theorem State.modQueue_turn : (State.modQueue k f s).turn = s.turn := rfl
@[simp] theorem State.modQueue_tick : (State.modQueue k f s).tick = s.tick := rfl
@[simp] theorem State.modQueue_fresh : (State.modQueue k f s).fresh = s.fresh := rfl
@[simp] theorem State.modQueue_gtime : (State.modQueue k f s).gtime = s.gtime := rfl
@[simp] theorem State.modQueue_refilled : (State.modQueue k f s).refilled = s.refilled := rfl
@[simp] theorem State.modQueue_clkSince : (State.modQueue k f s).clkSince = s.clkSince := rfl
@[simp] theorem State.modQueue_clkCount : (State.modQueue k f s).clkCount = s.clkCount := rfl
@[simp] theorem State.modQueue_clkRate : (State.modQueue k f s).clkRate = s.clkRate := rfl
@[simp] theorem State.modQueue_bar2 : (State.modQueue k f s).bar2 = s.bar2 := rfl
@[simp] theorem State.modQueue_caplist : (State.modQueue k f s).caplist = s.caplist := rfl
@[simp] theorem State.modQueue_irqs : (State.modQueue k f s).irqs = s.irqs := rfl
@[simp] theorem State.modQueue_mgmt : (State.modQueue k f s).mgmt = s.mgmt := rfl
@[simp] theorem State.modQueue_aer : (State.modQueue k f s).aer = s.aer := rfl
@[simp] theorem State.modQueue_mem : (State.modQueue k f s).mem = s.mem := rfl
@[simp] theorem State.modQueue_poison : (State.modQueue k f s).poison = s.poison := rfl
@[simp] theorem State.modQueue_dram : (State.modQueue k f s).dram = s.dram := rfl
@[simp] theorem State.modQueue_lines : (State.modQueue k f s).lines = s.lines := rfl
@[simp] theorem State.modQueue_dieTlb : (State.modQueue k f s).dieTlb = s.dieTlb := rfl
@[simp] theorem State.modQueue_walkCache : (State.modQueue k f s).walkCache = s.walkCache := rfl
@[simp] theorem State.modQueue_pins : (State.modQueue k f s).pins = s.pins := rfl
@[simp] theorem State.modQueue_hostCopies : (State.modQueue k f s).hostCopies = s.hostCopies := rfl
@[simp] theorem State.modQueue_horizon : (State.modQueue k f s).horizon = s.horizon := rfl
@[simp] theorem State.modQueue_bias : (State.modQueue k f s).bias = s.bias := rfl
@[simp] theorem State.modQueue_snoop : (State.modQueue k f s).snoop = s.snoop := rfl
@[simp] theorem State.modQueue_chip : (State.modQueue k f s).chip = s.chip := rfl
@[simp] theorem State.modQueue_cores : (State.modQueue k f s).cores = s.cores := rfl
@[simp] theorem State.modQueue_engines : (State.modQueue k f s).engines = s.engines := rfl
@[simp] theorem State.modQueue_grove : (State.modQueue k f s).grove = s.grove := rfl
@[simp] theorem State.modQueue_launches : (State.modQueue k f s).launches = s.launches := rfl
@[simp] theorem State.modQueue_nextLaunch : (State.modQueue k f s).nextLaunch = s.nextLaunch := rfl
@[simp] theorem State.modQueue_graphs : (State.modQueue k f s).graphs = s.graphs := rfl
@[simp] theorem State.modQueue_nextGraph : (State.modQueue k f s).nextGraph = s.nextGraph := rfl
@[simp] theorem State.modQueue_slotsUsed : (State.modQueue k f s).slotsUsed = s.slotsUsed := rfl
@[simp] theorem State.modQueue_phases : (State.modQueue k f s).phases = s.phases := rfl
@[simp] theorem State.modQueue_blocks : (State.modQueue k f s).blocks = s.blocks := rfl
@[simp] theorem State.modQueue_nextBlock : (State.modQueue k f s).nextBlock = s.nextBlock := rfl
@[simp] theorem State.modQueue_clusters : (State.modQueue k f s).clusters = s.clusters := rfl
@[simp] theorem State.modQueue_nextPlaced : (State.modQueue k f s).nextPlaced = s.nextPlaced := rfl
@[simp] theorem State.modQueue_nextAge : (State.modQueue k f s).nextAge = s.nextAge := rfl
@[simp] theorem State.modQueue_nextSave : (State.modQueue k f s).nextSave = s.nextSave := rfl
@[simp] theorem State.modQueue_warps : (State.modQueue k f s).warps = s.warps := rfl
@[simp] theorem State.modQueue_nextPark : (State.modQueue k f s).nextPark = s.nextPark := rfl
@[simp] theorem State.modQueue_lastGwct : (State.modQueue k f s).lastGwct = s.lastGwct := rfl
@[simp] theorem State.modQueue_pre : (State.modQueue k f s).pre = s.pre := rfl
@[simp] theorem State.modQueue_spill : (State.modQueue k f s).spill = s.spill := rfl
@[simp] theorem State.modQueue_spillHead : (State.modQueue k f s).spillHead = s.spillHead := rfl
@[simp] theorem State.modQueue_grovebase : (State.modQueue k f s).grovebase = s.grovebase := rfl
@[simp] theorem State.modQueue_callq : (State.modQueue k f s).callq = s.callq := rfl
@[simp] theorem State.modQueue_wcallFault : (State.modQueue k f s).wcallFault = s.wcallFault := rfl
@[simp] theorem State.modQueue_graft : (State.modQueue k f s).graft = s.graft := rfl
@[simp] theorem State.modQueue_graftOld : (State.modQueue k f s).graftOld = s.graftOld := rfl
@[simp] theorem State.modQueue_graftNew : (State.modQueue k f s).graftNew = s.graftNew := rfl
@[simp] theorem State.modQueue_fuse : (State.modQueue k f s).fuse = s.fuse := rfl
@[simp] theorem State.modQueue_flip : (State.modQueue k f s).flip = s.flip := rfl
@[simp] theorem State.modQueue_shoot : (State.modQueue k f s).shoot = s.shoot := rfl
@[simp] theorem State.modQueue_hostUp : (State.modQueue k f s).hostUp = s.hostUp := rfl
@[simp] theorem State.modQueue_hostDownAt : (State.modQueue k f s).hostDownAt = s.hostDownAt := rfl
@[simp] theorem State.modQueue_hostLost : (State.modQueue k f s).hostLost = s.hostLost := rfl
@[simp] theorem State.modQueue_portLanes : (State.modQueue k f s).portLanes = s.portLanes := rfl
@[simp] theorem State.modQueue_portTime : (State.modQueue k f s).portTime = s.portTime := rfl
@[simp] theorem State.modQueue_peerLost : (State.modQueue k f s).peerLost = s.peerLost := rfl
@[simp] theorem State.modQueue_peersGone : (State.modQueue k f s).peersGone = s.peersGone := rfl
@[simp] theorem State.modQueue_sharers : (State.modQueue k f s).sharers = s.sharers := rfl
@[simp] theorem State.modQueue_inval : (State.modQueue k f s).inval = s.inval := rfl
@[simp] theorem State.modQueue_lost : (State.modQueue k f s).lost = s.lost := rfl
@[simp] theorem State.modQueue_undoLog : (State.modQueue k f s).undoLog = s.undoLog := rfl
@[simp] theorem State.modQueue_undoFill : (State.modQueue k f s).undoFill = s.undoFill := rfl
@[simp] theorem State.modQueue_undoWarned : (State.modQueue k f s).undoWarned = s.undoWarned := rfl
@[simp] theorem State.modQueue_undoStarting : (State.modQueue k f s).undoStarting = s.undoStarting := rfl
@[simp] theorem State.modQueue_saved : (State.modQueue k f s).saved = s.saved := rfl
@[simp] theorem State.modQueue_ranges : (State.modQueue k f s).ranges = s.ranges := rfl
@[simp] theorem State.modQueue_spares : (State.modQueue k f s).spares = s.spares := rfl
@[simp] theorem State.modQueue_xlat : (State.modQueue k f s).xlat = s.xlat := rfl

end

section
variable (k : Nat) (f : Graph → Graph) (s : State)

@[simp] theorem State.modGraph_turn : (State.modGraph k f s).turn = s.turn := by
  unfold State.modGraph; split <;> rfl
@[simp] theorem State.modGraph_tick : (State.modGraph k f s).tick = s.tick := by
  unfold State.modGraph; split <;> rfl
@[simp] theorem State.modGraph_fresh : (State.modGraph k f s).fresh = s.fresh := by
  unfold State.modGraph; split <;> rfl
@[simp] theorem State.modGraph_gtime : (State.modGraph k f s).gtime = s.gtime := by
  unfold State.modGraph; split <;> rfl
@[simp] theorem State.modGraph_refilled : (State.modGraph k f s).refilled = s.refilled := by
  unfold State.modGraph; split <;> rfl
@[simp] theorem State.modGraph_clkSince : (State.modGraph k f s).clkSince = s.clkSince := by
  unfold State.modGraph; split <;> rfl
@[simp] theorem State.modGraph_clkCount : (State.modGraph k f s).clkCount = s.clkCount := by
  unfold State.modGraph; split <;> rfl
@[simp] theorem State.modGraph_clkRate : (State.modGraph k f s).clkRate = s.clkRate := by
  unfold State.modGraph; split <;> rfl
@[simp] theorem State.modGraph_bar2 : (State.modGraph k f s).bar2 = s.bar2 := by
  unfold State.modGraph; split <;> rfl
@[simp] theorem State.modGraph_caplist : (State.modGraph k f s).caplist = s.caplist := by
  unfold State.modGraph; split <;> rfl
@[simp] theorem State.modGraph_irqs : (State.modGraph k f s).irqs = s.irqs := by
  unfold State.modGraph; split <;> rfl
@[simp] theorem State.modGraph_mgmt : (State.modGraph k f s).mgmt = s.mgmt := by
  unfold State.modGraph; split <;> rfl
@[simp] theorem State.modGraph_aer : (State.modGraph k f s).aer = s.aer := by
  unfold State.modGraph; split <;> rfl
@[simp] theorem State.modGraph_mem : (State.modGraph k f s).mem = s.mem := by
  unfold State.modGraph; split <;> rfl
@[simp] theorem State.modGraph_poison : (State.modGraph k f s).poison = s.poison := by
  unfold State.modGraph; split <;> rfl
@[simp] theorem State.modGraph_dram : (State.modGraph k f s).dram = s.dram := by
  unfold State.modGraph; split <;> rfl
@[simp] theorem State.modGraph_lines : (State.modGraph k f s).lines = s.lines := by
  unfold State.modGraph; split <;> rfl
@[simp] theorem State.modGraph_dieTlb : (State.modGraph k f s).dieTlb = s.dieTlb := by
  unfold State.modGraph; split <;> rfl
@[simp] theorem State.modGraph_walkCache : (State.modGraph k f s).walkCache = s.walkCache := by
  unfold State.modGraph; split <;> rfl
@[simp] theorem State.modGraph_pins : (State.modGraph k f s).pins = s.pins := by
  unfold State.modGraph; split <;> rfl
@[simp] theorem State.modGraph_hostCopies : (State.modGraph k f s).hostCopies = s.hostCopies := by
  unfold State.modGraph; split <;> rfl
@[simp] theorem State.modGraph_horizon : (State.modGraph k f s).horizon = s.horizon := by
  unfold State.modGraph; split <;> rfl
@[simp] theorem State.modGraph_bias : (State.modGraph k f s).bias = s.bias := by
  unfold State.modGraph; split <;> rfl
@[simp] theorem State.modGraph_snoop : (State.modGraph k f s).snoop = s.snoop := by
  unfold State.modGraph; split <;> rfl
@[simp] theorem State.modGraph_chip : (State.modGraph k f s).chip = s.chip := by
  unfold State.modGraph; split <;> rfl
@[simp] theorem State.modGraph_cores : (State.modGraph k f s).cores = s.cores := by
  unfold State.modGraph; split <;> rfl
@[simp] theorem State.modGraph_engines : (State.modGraph k f s).engines = s.engines := by
  unfold State.modGraph; split <;> rfl
@[simp] theorem State.modGraph_grove : (State.modGraph k f s).grove = s.grove := by
  unfold State.modGraph; split <;> rfl
@[simp] theorem State.modGraph_launches : (State.modGraph k f s).launches = s.launches := by
  unfold State.modGraph; split <;> rfl
@[simp] theorem State.modGraph_nextLaunch : (State.modGraph k f s).nextLaunch = s.nextLaunch := by
  unfold State.modGraph; split <;> rfl
@[simp] theorem State.modGraph_nextGraph : (State.modGraph k f s).nextGraph = s.nextGraph := by
  unfold State.modGraph; split <;> rfl
@[simp] theorem State.modGraph_slotsUsed : (State.modGraph k f s).slotsUsed = s.slotsUsed := by
  unfold State.modGraph; split <;> rfl
@[simp] theorem State.modGraph_phases : (State.modGraph k f s).phases = s.phases := by
  unfold State.modGraph; split <;> rfl
@[simp] theorem State.modGraph_queues : (State.modGraph k f s).queues = s.queues := by
  unfold State.modGraph; split <;> rfl
@[simp] theorem State.modGraph_blocks : (State.modGraph k f s).blocks = s.blocks := by
  unfold State.modGraph; split <;> rfl
@[simp] theorem State.modGraph_nextBlock : (State.modGraph k f s).nextBlock = s.nextBlock := by
  unfold State.modGraph; split <;> rfl
@[simp] theorem State.modGraph_clusters : (State.modGraph k f s).clusters = s.clusters := by
  unfold State.modGraph; split <;> rfl
@[simp] theorem State.modGraph_nextPlaced : (State.modGraph k f s).nextPlaced = s.nextPlaced := by
  unfold State.modGraph; split <;> rfl
@[simp] theorem State.modGraph_nextAge : (State.modGraph k f s).nextAge = s.nextAge := by
  unfold State.modGraph; split <;> rfl
@[simp] theorem State.modGraph_nextSave : (State.modGraph k f s).nextSave = s.nextSave := by
  unfold State.modGraph; split <;> rfl
@[simp] theorem State.modGraph_warps : (State.modGraph k f s).warps = s.warps := by
  unfold State.modGraph; split <;> rfl
@[simp] theorem State.modGraph_nextPark : (State.modGraph k f s).nextPark = s.nextPark := by
  unfold State.modGraph; split <;> rfl
@[simp] theorem State.modGraph_lastGwct : (State.modGraph k f s).lastGwct = s.lastGwct := by
  unfold State.modGraph; split <;> rfl
@[simp] theorem State.modGraph_pre : (State.modGraph k f s).pre = s.pre := by
  unfold State.modGraph; split <;> rfl
@[simp] theorem State.modGraph_spill : (State.modGraph k f s).spill = s.spill := by
  unfold State.modGraph; split <;> rfl
@[simp] theorem State.modGraph_spillHead : (State.modGraph k f s).spillHead = s.spillHead := by
  unfold State.modGraph; split <;> rfl
@[simp] theorem State.modGraph_grovebase : (State.modGraph k f s).grovebase = s.grovebase := by
  unfold State.modGraph; split <;> rfl
@[simp] theorem State.modGraph_callq : (State.modGraph k f s).callq = s.callq := by
  unfold State.modGraph; split <;> rfl
@[simp] theorem State.modGraph_wcallFault : (State.modGraph k f s).wcallFault = s.wcallFault := by
  unfold State.modGraph; split <;> rfl
@[simp] theorem State.modGraph_graft : (State.modGraph k f s).graft = s.graft := by
  unfold State.modGraph; split <;> rfl
@[simp] theorem State.modGraph_graftOld : (State.modGraph k f s).graftOld = s.graftOld := by
  unfold State.modGraph; split <;> rfl
@[simp] theorem State.modGraph_graftNew : (State.modGraph k f s).graftNew = s.graftNew := by
  unfold State.modGraph; split <;> rfl
@[simp] theorem State.modGraph_fuse : (State.modGraph k f s).fuse = s.fuse := by
  unfold State.modGraph; split <;> rfl
@[simp] theorem State.modGraph_flip : (State.modGraph k f s).flip = s.flip := by
  unfold State.modGraph; split <;> rfl
@[simp] theorem State.modGraph_shoot : (State.modGraph k f s).shoot = s.shoot := by
  unfold State.modGraph; split <;> rfl
@[simp] theorem State.modGraph_hostUp : (State.modGraph k f s).hostUp = s.hostUp := by
  unfold State.modGraph; split <;> rfl
@[simp] theorem State.modGraph_hostDownAt : (State.modGraph k f s).hostDownAt = s.hostDownAt := by
  unfold State.modGraph; split <;> rfl
@[simp] theorem State.modGraph_hostLost : (State.modGraph k f s).hostLost = s.hostLost := by
  unfold State.modGraph; split <;> rfl
@[simp] theorem State.modGraph_portLanes : (State.modGraph k f s).portLanes = s.portLanes := by
  unfold State.modGraph; split <;> rfl
@[simp] theorem State.modGraph_portTime : (State.modGraph k f s).portTime = s.portTime := by
  unfold State.modGraph; split <;> rfl
@[simp] theorem State.modGraph_peerLost : (State.modGraph k f s).peerLost = s.peerLost := by
  unfold State.modGraph; split <;> rfl
@[simp] theorem State.modGraph_peersGone : (State.modGraph k f s).peersGone = s.peersGone := by
  unfold State.modGraph; split <;> rfl
@[simp] theorem State.modGraph_sharers : (State.modGraph k f s).sharers = s.sharers := by
  unfold State.modGraph; split <;> rfl
@[simp] theorem State.modGraph_inval : (State.modGraph k f s).inval = s.inval := by
  unfold State.modGraph; split <;> rfl
@[simp] theorem State.modGraph_lost : (State.modGraph k f s).lost = s.lost := by
  unfold State.modGraph; split <;> rfl
@[simp] theorem State.modGraph_undoLog : (State.modGraph k f s).undoLog = s.undoLog := by
  unfold State.modGraph; split <;> rfl
@[simp] theorem State.modGraph_undoFill : (State.modGraph k f s).undoFill = s.undoFill := by
  unfold State.modGraph; split <;> rfl
@[simp] theorem State.modGraph_undoWarned : (State.modGraph k f s).undoWarned = s.undoWarned := by
  unfold State.modGraph; split <;> rfl
@[simp] theorem State.modGraph_undoStarting : (State.modGraph k f s).undoStarting = s.undoStarting := by
  unfold State.modGraph; split <;> rfl
@[simp] theorem State.modGraph_saved : (State.modGraph k f s).saved = s.saved := by
  unfold State.modGraph; split <;> rfl
@[simp] theorem State.modGraph_ranges : (State.modGraph k f s).ranges = s.ranges := by
  unfold State.modGraph; split <;> rfl
@[simp] theorem State.modGraph_spares : (State.modGraph k f s).spares = s.spares := by
  unfold State.modGraph; split <;> rfl
@[simp] theorem State.modGraph_xlat : (State.modGraph k f s).xlat = s.xlat := by
  unfold State.modGraph; split <;> rfl

end

section Records
variable (s : State)

@[simp] theorem State.finish_warp (k : Nat) : s.finish.warp k = s.warp k := rfl
@[simp] theorem State.finish_core (k : Nat) : s.finish.core k = s.core k := rfl
@[simp] theorem State.finish_block (k : Nat) : s.finish.block k = s.block k := rfl
@[simp] theorem State.finish_launch (k : Nat) : s.finish.launch k = s.launch k := rfl
@[simp] theorem State.finish_queue (k : Nat) : s.finish.queue k = s.queue k := rfl
@[simp] theorem State.finish_reg (k : Nat) : s.finish.reg k = s.reg k := rfl
@[simp] theorem State.finish_rdByte (k : Nat) : s.finish.rdByte k = s.rdByte k := rfl

@[simp] theorem State.modWarp_warp_self (k : Nat) (f : Warp → Warp) :
    (State.modWarp k f s).warp k = (s.warp k).map f := by
  unfold State.modWarp State.warp
  split
  · rename_i h; simp [h]
  · rename_i w h; simp [h]

theorem State.modWarp_warp_of_ne {k j : Nat} (h : j ≠ k) (f : Warp → Warp) :
    (State.modWarp k f s).warp j = s.warp j := by
  unfold State.modWarp State.warp
  split
  · rfl
  · exact tget_tset_of_ne h _ _

@[simp] theorem State.modBlock_block_self (k : Nat) (f : Block → Block) :
    (State.modBlock k f s).block k = (s.block k).map f := by
  unfold State.modBlock State.block
  split
  · rename_i h; simp [h]
  · rename_i w h; simp [h]

theorem State.modBlock_block_of_ne {k j : Nat} (h : j ≠ k) (f : Block → Block) :
    (State.modBlock k f s).block j = s.block j := by
  unfold State.modBlock State.block
  split
  · rfl
  · exact tget_tset_of_ne h _ _

@[simp] theorem State.modLaunch_launch_self (k : Nat) (f : Launch → Launch) :
    (State.modLaunch k f s).launch k = (s.launch k).map f := by
  unfold State.modLaunch State.launch
  split
  · rename_i h; simp [h]
  · rename_i w h; simp [h]

theorem State.modLaunch_launch_of_ne {k j : Nat} (h : j ≠ k) (f : Launch → Launch) :
    (State.modLaunch k f s).launch j = s.launch j := by
  unfold State.modLaunch State.launch
  split
  · rfl
  · exact tget_tset_of_ne h _ _

@[simp] theorem State.modCore_core_self (k : Nat) (f : Core → Core) :
    (State.modCore k f s).core k = f (s.core k) := by
  simp [State.modCore, State.core, tgetD]

theorem State.modCore_core_of_ne {k j : Nat} (h : j ≠ k) (f : Core → Core) :
    (State.modCore k f s).core j = s.core j := by
  simp [State.modCore, State.core, tgetD, tget_tset_of_ne h]

@[simp] theorem State.modQueue_queue_self (k : Nat) (f : QState → QState) :
    (State.modQueue k f s).queue k = f (s.queue k) := by
  simp [State.modQueue, State.queue, tgetD]

theorem State.modQueue_queue_of_ne {k j : Nat} (h : j ≠ k) (f : QState → QState) :
    (State.modQueue k f s).queue j = s.queue j := by
  simp [State.modQueue, State.queue, tgetD, tget_tset_of_ne h]

/-- A 32-bit register of BAR 2 after a write of a word-aligned offset (03 R61). -/
theorem State.setReg_reg (off k : Nat) (v : Word) :
    (State.setReg off v s).reg k = if k / 4 = off / 4 then v else s.reg k := by
  unfold State.setReg State.reg
  by_cases hk : k / 4 = off / 4
  · rw [if_pos hk, hk]
    by_cases hv : v = bar2Reset (off / 4)
    · simp only [if_pos hv]
      have : tget (off / 4) (ferase (off / 4) s.bar2) = none := tget_tdel_self _ _
      rw [this, hv]
    · simp only [if_neg hv]
      have : tget (off / 4) (finsert (off / 4) v s.bar2) = some v := tget_tset_self _ _ _
      rw [this]
  · rw [if_neg hk]
    by_cases hv : v = bar2Reset (off / 4)
    · simp only [if_pos hv]
      have : tget (k / 4) (ferase (off / 4) s.bar2) = tget (k / 4) s.bar2 := tget_tdel_of_ne hk _
      rw [this]
    · simp only [if_neg hv]
      have : tget (k / 4) (finsert (off / 4) v s.bar2) = tget (k / 4) s.bar2 :=
        tget_tset_of_ne hk _ _
      rw [this]

end Records

end Sys2Proof.Machine
end

