-- ==== Sys2Proof/Laws/Warp.lean ====
section
/-!
SUPPORT. The registers, flags and lanes of a warp: a read after a write, and what a write leaves
alone (04 R82; 10 R227; 11 R252; 14 R302 to R304).
-/

set_option Elab.async false

namespace Sys2Proof.Machine

section Registers
variable (w : Warp)

/-- A lane-set register after a write of one. -/
theorem Warp.rdV_wrV {l n k m : Nat} (hl : l < 32) (hk : k < 32) (x : Word) :
    (w.wrV l n x).rdV k m = if k = l ∧ m = n then x else w.rdV k m := by
  have key : ∀ a b : Nat, 32 * a + k = 32 * b + l ↔ k = l ∧ a = b := fun a b => by omega
  unfold Warp.wrV
  cases hg : w.graft with
  | none => simp only [Warp.rdV, hg, fget_fset, key]
  | some g =>
    simp only
    by_cases h1 : g.mask.getLsbD l = true ∧ 104 ≤ n ∧ n ≤ 111
    · rw [if_pos h1]
      simp only [Warp.rdV, hg]
      by_cases h2 : g.mask.getLsbD k = true ∧ 104 ≤ m ∧ m ≤ 111
      · simp only [if_pos h2, fget_fset]
        have e : 32 * (m - 104) + k = 32 * (n - 104) + l ↔ k = l ∧ m = n := by omega
        simp only [e]
      · have : ¬ (k = l ∧ m = n) := by rintro ⟨rfl, rfl⟩; exact h2 h1
        simp only [if_neg h2, if_neg this]
    · rw [if_neg h1]
      simp only [Warp.rdV, hg]
      by_cases h2 : g.mask.getLsbD k = true ∧ 104 ≤ m ∧ m ≤ 111
      · have : ¬ (k = l ∧ m = n) := by rintro ⟨rfl, rfl⟩; exact h1 h2
        simp only [if_pos h2, if_neg this]
      · simp only [if_neg h2, fget_fset, key]

/-- What a write of a lane-set register keeps. -/
def LaneSame (w w' : Warp) : Prop :=
  { w' with v := w.v, bad := w.bad, graft := w.graft } = w ∧
  w'.graft.map (fun g => { g with regs := [] }) = w.graft.map (fun g => { g with regs := [] }) ∧
  (w.bad = [] → w'.bad = [])

theorem LaneSame.refl : LaneSame w w := ⟨rfl, rfl, id⟩

theorem LaneSame.trans {a b c : Warp} (h : LaneSame a b) (k : LaneSame b c) : LaneSame a c := by
  obtain ⟨h1, h2, h3⟩ := h
  obtain ⟨k1, k2, k3⟩ := k
  refine ⟨?_, k2.trans h2, k3 ∘ h3⟩
  rw [← h1, ← k1]

theorem Warp.wrV_same (l n : Nat) (x : Word) : LaneSame w (w.wrV l n x) := by
  unfold Warp.wrV
  cases hg : w.graft with
  | none => exact ⟨rfl, by simp [hg], fun hb => by simp [hb]⟩
  | some g =>
    simp only
    split
    · exact ⟨rfl, by simp [hg], fun hb => by simp [hb]⟩
    · exact ⟨rfl, by simp [hg], fun hb => by simp [hb]⟩

theorem Warp.wrL_same (l : Nat) (d : LSpec) (x : Word) : LaneSame w (w.wrL l d x) := by
  cases d with
  | v n => exact w.wrV_same l n.val x
  | t n => exact w.wrV_same l _ x
  | zero => exact LaneSame.refl w
  | lane => exact LaneSame.refl w

theorem Warp.wrW_same (l : Nat) (w64 : Bool) (d : LSpec) (x : DWord) :
    LaneSame w (w.wrW l w64 d x) := by
  unfold Warp.wrW
  split
  · exact (w.wrL_same l d _).trans (Warp.wrL_same _ _ _ _)
  · exact w.wrL_same l d _

/-- A lane-set register after a write through a specifier. -/
theorem Warp.rdV_wrL {l k m : Nat} (hl : l < 32) (hk : k < 32) (d : LSpec) (x : Word) :
    (w.wrL l d x).rdV k m = if k = l ∧ LSpec.writes d = some m then x else w.rdV k m := by
  cases d with
  | v n => simp only [Warp.wrL, w.rdV_wrV hl hk, LSpec.writes, Option.some.injEq, eq_comm]
  | t n => simp only [Warp.wrL, w.rdV_wrV hl hk, LSpec.writes, Option.some.injEq, eq_comm]
  | zero => simp [Warp.wrL, LSpec.writes]
  | lane => simp [Warp.wrL, LSpec.writes]

/-- A lane-set register after a write of one value at a width. -/
theorem Warp.rdV_wrW {l k m : Nat} (hl : l < 32) (hk : k < 32) (w64 : Bool) (d : LSpec) (x : DWord) :
    (w.wrW l w64 d x).rdV k m = if k = l then (dstRegs d w64 x m).getD (w.rdV k m) else w.rdV k m := by
  unfold Warp.wrW dstRegs
  cases w64 with
  | false =>
    simp only [Bool.false_eq_true, if_false, false_and, w.rdV_wrL hl hk]
    by_cases h1 : k = l <;> by_cases h2 : LSpec.writes d = some m <;> simp [h1, h2]
  | true =>
    simp only [if_true, true_and, Warp.wrL64, Warp.rdV_wrL _ hl hk]
    by_cases h1 : k = l <;> by_cases h2 : LSpec.writes (LSpec.plus d 1) = some m <;>
      by_cases h3 : LSpec.writes d = some m <;> simp [h1, h2, h3]

end Registers

section Lanes
variable (w : Warp)

theorem Warp.lane_modLane_of_ne {l k : Nat} (h : k ≠ l) (f : Lane → Lane) :
    (w.modLane l f).lane k = w.lane k := by
  simp [Warp.modLane, Warp.lane, h.symm]

theorem Warp.lane_modLane_self {l : Nat} (h : l < w.lanes.length) (f : Lane → Lane) :
    (w.modLane l f).lane l = f (w.lane l) := by
  simp [Warp.modLane, Warp.lane, h]

@[simp] theorem Warp.modLane_length (l : Nat) (f : Lane → Lane) :
    (w.modLane l f).lanes.length = w.lanes.length := by simp [Warp.modLane]

/-- What a change of lanes keeps. -/
theorem Warp.modLane_keep (l : Nat) (f : Lane → Lane) :
    { w.modLane l f with lanes := w.lanes } = w := rfl

/-- A lane that is not `never` has a place in the list. -/
theorem Warp.lane_lt {l : Nat} (h : (w.lane l).st ≠ .never) : l < w.lanes.length := by
  by_contra hn
  exact h (by simp [Warp.lane, List.getElem?_eq_none (by omega : w.lanes.length ≤ l), Lane.fresh])

theorem Warp.modLanes_keep (m : Mask) (f : Lane → Lane) :
    { w.modLanes m f with lanes := w.lanes } = w := by
  refine foldLanes_induct (fun x : Warp => { x with lanes := w.lanes } = w) rfl (fun l _ t ht => ?_)
  rw [← ht]; rfl

theorem Warp.get_modLane (l k : Nat) (f : Lane → Lane) :
    (w.modLane l f).lanes[k]? = if k = l then w.lanes[k]?.map f else w.lanes[k]? := by
  by_cases h : k = l
  · subst h
    by_cases hl : k < w.lanes.length
    · simp [Warp.modLane, Warp.lane, hl]
    · simp [Warp.modLane, hl]
  · simp [Warp.modLane, h, Ne.symm h]

theorem Warp.get_modLanes (m : Mask) (f : Lane → Lane) {k : Nat} (hk : k < 32) :
    (w.modLanes m f).lanes[k]? = if m.getLsbD k then w.lanes[k]?.map f else w.lanes[k]? := by
  by_cases h : m.getLsbD k = true
  · rw [if_pos h]
    exact foldLanes_own (σ := Warp) (fun x => x.lanes[k]?) (g := Option.map f) h hk
      (fun t => by simp [Warp.get_modLane]) (fun l _ hl t => by simp [Warp.get_modLane, Ne.symm hl])
  · rw [if_neg h]
    exact foldLanes_other (σ := Warp) (fun x => x.lanes[k]?) (by simpa using h)
      (fun l _ hl t => by simp [Warp.get_modLane, Ne.symm hl])

/-- Lanes after a change of the lanes of a mask that have a place. -/
theorem Warp.lane_modLanes (m : Mask) (f : Lane → Lane) {k : Nat} (hk : k < 32)
    (hm : m.getLsbD k = true → k < w.lanes.length) :
    (w.modLanes m f).lane k = if m.getLsbD k then f (w.lane k) else w.lane k := by
  have := w.get_modLanes m f hk
  by_cases h : m.getLsbD k = true
  · rw [if_pos h] at this ⊢
    have hl := hm h
    simp only [Warp.lane, List.getD_eq_getElem?_getD, this]
    simp [hl]
  · rw [if_neg h] at this ⊢
    simp only [Warp.lane, List.getD_eq_getElem?_getD, this]

end Lanes

end Sys2Proof.Machine
end

