-- ==== Sys2Proof/Laws/Issue.lean ====
section
/-!
SUPPORT. What issuing a warp instruction does around its own effect: the issue context, the frames of
commit, advance and settle, and the whole of an instruction whose effect raises no fault and falls
through (01 R13, R30, R33; 03 R80; 04 R83 to R87).
-/

set_option Elab.async false

namespace Sys2Proof.Machine

theorem and_not_nil (m : Mask) : m &&& ~~~maskOf [] = m := by
  have : ~~~maskOf [] = BitVec.allOnes 32 := by decide
  rw [this, BitVec.and_allOnes]

section Context
variable {s : State} {c : Ctx}

/-- What an issue context says of the state it was taken from. -/
theorem ctx_spec (h : s.ctx? = some c) : ∃ b r w, s.seqAt c.core c.part c.seq = some b ∧
    b.run = some r ∧ b.wid = c.wid ∧ s.warp c.wid = some w ∧ b.start = c.start ∧
    (∀ l, l < 32 → c.mask.getLsbD l = true →
      l ∈ w.inRun b ∧ (w.lane l).pc = c.pc ∧ (w.lane l).st = .live) ∧
    (∃ l, l < 32 ∧ c.mask.getLsbD l = true) ∧ s.turn = .issue c.core c.part c.seq ∧ b.tag = c.tag ∧
    s.coreOf c.wid = c.core := by
  unfold State.ctx? at h
  split at h
  · rename_i core part seq ht
    split at h
    · exact absurd h (by simp)
    · rename_i b hb
      split at h
      · rename_i r w hr hw
        split at h
        swap
        · exact absurd h (by simp)
        rename_i hcore
        unfold bindCtx at h
        split at h
        · exact absurd h (by simp)
        · rename_i l0 hmin
          dsimp only at h
          split at h
          · exact absurd h (by simp)
          · rename_i idx n hi
            injection h with h
            subst h
            refine ⟨b, r, w, hb, hr, rfl, hw, rfl, ?_, ?_, ht, rfl, hcore⟩
            · intro l hl hm
              rw [getLsbD_maskOf _ hl] at hm
              have hmem := List.mem_filter.1 (List.contains_iff_mem.1 hm)
              have hlive := (List.mem_filter.1 hmem.1).2
              simp only [Bool.and_eq_true, beq_iff_eq, decide_eq_true_eq] at hlive hmem
              exact ⟨hmem.1, hmem.2, hlive.1⟩
            · have hin : l0 ∈ w.inRun b := by
                have : ∀ (f : Nat → Nat) (ls : List Nat) (a : Nat), minBy f ls = some a → a ∈ ls := by
                  intro f ls
                  induction ls with
                  | nil => intro a ha; simp [minBy] at ha
                  | cons x xs ih =>
                    intro a ha
                    simp only [minBy] at ha
                    split at ha
                    · simp_all
                    · rename_i y hy
                      split at ha
                      · simp_all
                      · injection ha with ha; subst ha; exact List.mem_cons_of_mem _ (ih _ hy)
                exact this _ _ _ hmin
              have hl : l0 < 32 := (mem_lanesOf.1 (List.mem_filter.1 hin).1).1
              refine ⟨l0, hl, ?_⟩
              rw [getLsbD_maskOf _ hl]
              exact List.contains_iff_mem.2 (List.mem_filter.2 ⟨hin, by simp⟩)
      · exact absurd h (by simp)
  · exact absurd h (by simp)

theorem ctx_mask_ne (h : s.ctx? = some c) : c.mask ≠ 0 := by
  obtain ⟨_, _, _, _, _, _, _, _, _, ⟨l, _, hl⟩, _, _, _⟩ := ctx_spec h
  intro h0; simp [h0] at hl

end Context

section Frames

theorem RestKept.refl (wid core : Nat) (s : State) : RestKept wid core s s :=
  ⟨rfl, fun _ _ => rfl, fun _ _ => rfl, rfl, fun _ => rfl⟩

theorem RestKept.trans {wid core : Nat} {s t u : State} (h : RestKept wid core s t)
    (k : RestKept wid core t u) : RestKept wid core s u := by
  refine ⟨?_, fun j hj => (k.warps j hj).trans (h.warps j hj),
    fun j hj => (k.cores j hj).trans (h.cores j hj), ?_,
    fun j => (k.launches j).trans (h.launches j)⟩
  · have := h.rest; rw [← k.rest] at this; exact this
  · have := h.core; rw [← k.core] at this; exact this

/-- A change of the warp alone. -/
theorem RestKept.modWarp (wid core : Nat) (f : Warp → Warp) (s : State) :
    RestKept wid core s (s.modWarp wid f) := by
  refine ⟨?_, fun k hk => s.modWarp_warp_of_ne hk f, fun k _ => ?_, ?_, fun k => ?_⟩
  · unfold State.modWarp; split <;> rfl
  · simp [State.core]
  · simp [State.core]
  · simp [State.launch]

/-- A change of a core's sequencers and commit count. -/
theorem RestKept.modCore (wid core : Nat) (f : Core → Core) (s : State)
    (hf : ∀ k, { f k with seqs := k.seqs, winCommits := k.winCommits } = k) :
    RestKept wid core s (s.modCore core f) :=
  ⟨rfl, fun _ _ => rfl, fun k hk => s.modCore_core_of_ne hk f, by simp [hf],
    fun _ => rfl⟩

theorem RestKept.modLaunch (wid core l : Nat) (f : Launch → Launch) (s : State)
    (hf : ∀ L, { f L with startT := 0 } = { L with startT := 0 }) :
    RestKept wid core s (s.modLaunch l f) := by
  refine ⟨?_, fun k _ => ?_, fun k _ => ?_, ?_, fun k => ?_⟩
  · unfold State.modLaunch; split <;> rfl
  · simp [State.warp]
  · simp [State.core]
  · simp [State.core]
  · by_cases hk : k = l
    · subst hk; cases h : s.launch k <;> simp [h, hf]
    · rw [s.modLaunch_launch_of_ne hk]

theorem RestKept.setSeq (wid core part seq : Nat) (b : Option Binding) (s : State) :
    RestKept wid core s (s.setSeq core part seq b) :=
  RestKept.modCore wid core _ s (fun _ => rfl)

theorem noteStart_rest (wid core : Nat) (s : State) : RestKept wid core s (s.noteStart wid) := by
  unfold State.noteStart
  split
  · exact RestKept.refl _ _ s
  · exact RestKept.modLaunch _ _ _ _ _ (fun _ => rfl)

theorem noteStart_warp (wid k : Nat) (s : State) : (s.noteStart wid).warp k = s.warp k := by
  unfold State.noteStart; split <;> simp [State.warp]

theorem noteStart_blocks (wid : Nat) (s : State) : (s.noteStart wid).blocks = s.blocks := by
  unfold State.noteStart; split <;> simp

theorem noteDone_rest (i : Instr) (c : Ctx) (m : Mask) (s : State) :
    RestKept c.wid c.core s (s.noteDone i c m) := by
  unfold State.noteDone
  split
  · exact RestKept.refl _ _ s
  · dsimp only
    refine RestKept.trans ?_ (noteStart_rest _ _ _)
    refine RestKept.trans ?_ (RestKept.modCore _ _ _ _ (fun _ => rfl))
    exact RestKept.modWarp _ _ _ _

theorem cleanFlags_eq (i : Instr) (m : Mask) (w : Warp) : ∃ bd, w.cleanFlags i m = { w with bad := bd } := by
  unfold Warp.cleanFlags
  split
  · exact ⟨w.bad, rfl⟩
  · exact ⟨_, rfl⟩

theorem noteDone_warp {i : Instr} {c : Ctx} {m : Mask} {s : State} {w : Warp}
    (h : s.warp c.wid = some w) :
    ∃ ps bd, (s.noteDone i c m).warp c.wid = some { w with producers := ps, bad := bd } := by
  unfold State.noteDone
  split
  · exact ⟨w.producers, w.bad, h⟩
  · dsimp only
    have e (s : State) : (s.noteStart c.wid).warp c.wid = s.warp c.wid := noteStart_warp _ _ s
    have e2 (s : State) (f : Core → Core) : (s.modCore c.core f).warp c.wid = s.warp c.wid := rfl
    rw [e, e2, State.modWarp_warp_self, h, Option.map_some]
    obtain ⟨bd, hbd⟩ := cleanFlags_eq i m { w with producers := _ }
    exact ⟨_, bd, congrArg some hbd⟩

theorem noteDone_block (i : Instr) (c : Ctx) (m : Mask) (s : State) :
    (s.noteDone i c m).blocks = s.blocks := by
  unfold State.noteDone; split <;> simp [noteStart_blocks]

theorem advance_rest (c : Ctx) (m : Mask) (s : State) :
    RestKept c.wid c.core s (s.advance c m) := RestKept.modWarp _ _ _ _

theorem advance_warp {c : Ctx} {m : Mask} {s : State} {w : Warp} (h : s.warp c.wid = some w) :
    (s.advance c m).warp c.wid = some (w.modLanes m (Lane.follow c)) := by
  unfold State.advance; rw [State.modWarp_warp_self, h]; rfl

theorem Going.of_kept {s t : State} {wid core : Nat} (h : RestKept wid core s t) (hg : Going s wid) :
    Going t wid := by
  have hb : t.blocks = s.blocks := by have := congrArg State.blocks h.rest; exact this
  intro L hL
  have hl : t.launchOf wid = (s.block (blkOf wid)).bind (fun b => t.launch b.launch) := by
    unfold State.launchOf State.block; rw [hb]; rfl
  rw [hl] at hL
  cases hbk : s.block (blkOf wid) with
  | none => simp [hbk] at hL
  | some b =>
    simp only [hbk, Option.bind_some] at hL
    have := h.launches b.launch
    rw [hL] at this
    cases hs : s.launch b.launch with
    | none => simp [hs] at this
    | some L' =>
      simp only [hs, Option.map_some, Option.some.injEq] at this
      have hc : L.cancelled = L'.cancelled := by have := congrArg Launch.cancelled this; exact this
      rw [hc]
      exact hg L' (by unfold State.launchOf; rw [hbk]; exact hs)

theorem stopIfCancelled_going {s : State} {wid : Nat} (hg : Going s wid) :
    s.stopIfCancelled wid = s := by
  unfold State.stopIfCancelled
  split
  · rfl
  · rename_i L hL; simp [hg L hL]

/-- Settling a sequencer of a warp that goes on changes nothing but the sequencer and where the warp
last ran. -/
theorem settle_spec {core part seq wid : Nat} {s : State} {w : Warp} (hg : Going s wid)
    (hw : s.warp wid = some w) : RestKept wid core s (s.settle core part seq wid) ∧
    ∃ lr ly, (s.settle core part seq wid).warp wid = some { w with lastRun := lr, lastYield := ly } := by
  unfold State.settle
  rw [hw]
  split
  · rename_i b w' hb hw'
    injection hw' with hw'; subst hw'
    split
    · have hk : RestKept wid core s ((s.freeSeq core part seq).modWarp wid (fun w =>
          { w with lastRun := b.mask, lastYield := w.yielded })) :=
        (RestKept.setSeq wid core part seq none s).trans (RestKept.modWarp _ _ _ _)
      rw [stopIfCancelled_going (Going.of_kept hk hg)]
      refine ⟨hk, b.mask, w.yielded, ?_⟩
      rw [State.modWarp_warp_self]
      have : (s.freeSeq core part seq).warp wid = s.warp wid := rfl
      rw [this, hw]; rfl
    · rw [stopIfCancelled_going hg]
      exact ⟨RestKept.refl _ _ _, w.lastRun, w.lastYield, hw⟩
  · rename_i h; simp at h
  · rw [stopIfCancelled_going hg]
    exact ⟨RestKept.refl _ _ _, w.lastRun, w.lastYield, hw⟩

theorem finish_rest (wid core : Nat) (s : State) : RestKept wid core s s.finish :=
  ⟨rfl, fun _ _ => rfl, fun _ _ => rfl, rfl, fun _ => rfl⟩

end Frames

section Instructions

theorem modLanes_producers (m : Mask) (f : Lane → Lane) (ps : List Producer) (bd : List Nat) (w : Warp) :
    ({ w with producers := ps, bad := bd } : Warp).modLanes m f =
      { w.modLanes m f with producers := ps, bad := bd } := by
  unfold Warp.modLanes foldLanes
  generalize lanesOf m = ls
  induction ls generalizing w with
  | nil => rfl
  | cons a r ih => exact ih (w.modLane a f)

/-- An instruction whose checks pass runs its own effect. -/
theorem issue_eq {i : Instr} {s : State} {c : Ctx} {w : Warp} (h : Issues i s c w)
    (body : Ctx → State → Res) : issue i body s = .next (applyRes i c [] (body c s)).finish := by
  have hm := ctx_mask_ne h.ctx
  have ht : c.tag.isSome = false := by rw [h.first]; rfl
  have e : c.mask &&& ~~~maskOf [] = c.mask := and_not_nil c.mask
  simp only [issue, h.ctx, State.runInstr, instrRes, h.warp, ht, h.legal, poisonLanes, h.clean, if_true,
    Bool.false_eq_true, if_false]

/-- An instruction whose effect raises no fault and falls through: what its effect has made of its
warp, then every lane of the group goes on, and nothing else changes since `s0`. -/
theorem issue_seq_from {i : Instr} {s s0 : State} {c : Ctx} {w w1 : Warp} (h : Issues i s c w)
    {body : Ctx → State → Res} {s1 : State} (hb : body c s = Res.ok s1) (hg : Going s0 c.wid)
    (hk : RestKept c.wid c.core s0 s1) (hw : s1.warp c.wid = some w1) :
    ∃ t ps bd lr ly, issue i body s = .next t ∧ RestKept c.wid c.core s0 t ∧
      t.warp c.wid = some { w1.modLanes c.mask (Lane.follow c) with
        producers := ps, bad := bd, lastRun := lr, lastYield := ly } := by
  rw [issue_eq h, hb]
  have ha : applyRes i c [] (Res.ok s1) =
      ((s1.noteDone i c c.mask).advance c c.mask).settle c.core c.part c.seq c.wid := by
    have e : c.mask &&& ~~~maskOf [] = c.mask := and_not_nil c.mask
    simp only [applyRes, Res.ok, List.append_nil, List.map_nil, e, if_true]
  rw [ha]
  obtain ⟨ps, bd, hps⟩ := noteDone_warp (i := i) (m := c.mask) hw
  have hadv := advance_warp (m := c.mask) hps
  have hk2 := (hk.trans (noteDone_rest i c c.mask s1)).trans (advance_rest c c.mask _)
  obtain ⟨hset, lr, ly, hlw⟩ := settle_spec (core := c.core) (part := c.part) (seq := c.seq)
    (Going.of_kept hk2 hg) hadv
  refine ⟨_, ps, bd, lr, ly, rfl, (hk2.trans hset).trans (finish_rest _ _ _), ?_⟩
  rw [State.finish_warp, hlw]
  have hmm := modLanes_producers c.mask (Lane.follow c) ps bd w1
  rw [hmm]

/-- The same, where its effect changes its warp alone. -/
theorem issue_seq {i : Instr} {s : State} {c : Ctx} {w w1 : Warp} (h : Issues i s c w)
    {body : Ctx → State → Res} {s1 : State} (hb : body c s = Res.ok s1)
    (hk : RestKept c.wid c.core s s1) (hw : s1.warp c.wid = some w1) :
    ∃ t ps bd lr ly, issue i body s = .next t ∧ RestKept c.wid c.core s t ∧
      t.warp c.wid = some { w1.modLanes c.mask (Lane.follow c) with
        producers := ps, bad := bd, lastRun := lr, lastYield := ly } := issue_seq_from h hb h.going hk hw

/-- Where the target list of a jump sends a lane. -/
def jumpAt (tg : List (Nat × DWord)) (l : Nat) : Option DWord :=
  (tg.find? (fun e => e.1 == l)).map Prod.snd

theorem jumpTo_rest (c : Ctx) (m : Mask) (tg : List (Nat × DWord)) (s : State) :
    RestKept c.wid c.core s (s.jumpTo c m tg) := RestKept.modWarp _ _ _ _

theorem jumpTo_warp {c : Ctx} {m : Mask} {tg : List (Nat × DWord)} {s : State} {w : Warp}
    (h : s.warp c.wid = some w) : (s.jumpTo c m tg).warp c.wid =
      some (foldLanes m (fun l w => w.modLane l (Lane.leave c (jumpAt tg l))) w) := by
  unfold State.jumpTo; rw [State.modWarp_warp_self, h]; rfl

/-- The same for an instruction whose lanes leave their run for targets. -/
theorem issue_jump {i : Instr} {s s0 : State} {c : Ctx} {w w1 : Warp} (h : Issues i s c w)
    {body : Ctx → State → Res} {s1 : State} {tg : List (Nat × DWord)}
    (hb : body c s = { s := s1, faults := [], flow := .jump tg }) (hg : Going s0 c.wid)
    (hk : RestKept c.wid c.core s0 s1) (hw : s1.warp c.wid = some w1) :
    ∃ t ps bd lr ly, issue i body s = .next t ∧ RestKept c.wid c.core s0 t ∧
      t.warp c.wid = some { foldLanes c.mask (fun l w => w.modLane l (Lane.leave c (jumpAt tg l)))
        { w1 with producers := ps, bad := bd } with lastRun := lr, lastYield := ly } := by
  rw [issue_eq h, hb]
  have ha : applyRes i c [] { s := s1, faults := [], flow := .jump tg } =
      ((s1.noteDone i c c.mask).jumpTo c c.mask tg).settle c.core c.part c.seq c.wid := by
    have e : c.mask &&& ~~~maskOf [] = c.mask := and_not_nil c.mask
    simp only [applyRes, List.append_nil, List.map_nil, e, if_true]
  rw [ha]
  obtain ⟨ps, bd, hps⟩ := noteDone_warp (i := i) (m := c.mask) hw
  have hk2 := (hk.trans (noteDone_rest i c c.mask s1)).trans (jumpTo_rest c c.mask tg _)
  obtain ⟨hset, lr, ly, hlw⟩ := settle_spec (core := c.core) (part := c.part) (seq := c.seq)
    (Going.of_kept hk2 hg) (jumpTo_warp (m := c.mask) (tg := tg) hps)
  exact ⟨_, ps, bd, lr, ly, rfl, (hk2.trans hset).trans (finish_rest _ _ _), by
    rw [State.finish_warp, hlw]⟩

/-- The same for an instruction whose meaning has placed its lanes itself. -/
theorem issue_placed {i : Instr} {s s0 : State} {c : Ctx} {w w1 : Warp} (h : Issues i s c w)
    {body : Ctx → State → Res} {s1 : State}
    (hb : body c s = { s := s1, faults := [], flow := .placed }) (hg : Going s0 c.wid)
    (hk : RestKept c.wid c.core s0 s1) (hw : s1.warp c.wid = some w1) :
    ∃ t ps bd lr ly, issue i body s = .next t ∧ RestKept c.wid c.core s0 t ∧
      t.warp c.wid = some { w1 with producers := ps, bad := bd, lastRun := lr, lastYield := ly } := by
  rw [issue_eq h, hb]
  have ha : applyRes i c [] { s := s1, faults := [], flow := .placed } =
      (s1.noteDone i c c.mask).settle c.core c.part c.seq c.wid := by
    have e : c.mask &&& ~~~maskOf [] = c.mask := and_not_nil c.mask
    simp only [applyRes, List.append_nil, List.map_nil, e, if_true]
  rw [ha]
  obtain ⟨ps, bd, hps⟩ := noteDone_warp (i := i) (m := c.mask) hw
  have hk2 := hk.trans (noteDone_rest i c c.mask s1)
  obtain ⟨hset, lr, ly, hlw⟩ := settle_spec (core := c.core) (part := c.part) (seq := c.seq)
    (Going.of_kept hk2 hg) hps
  exact ⟨_, ps, bd, lr, ly, rfl, (hk2.trans hset).trans (finish_rest _ _ _), by
    rw [State.finish_warp, hlw]⟩

end Instructions

end Sys2Proof.Machine
end

