-- ==== Sys2Proof/Laws/Lane.lean ====
section
/-!
SUPPORT. Lane-set instructions: what one that changes each lane of its group by itself has done when
it completes (14 R302, R304; 05 R106). The claims about such instructions rest on these laws.
-/

set_option Elab.async false

namespace Sys2Proof.Machine

/-- How a lane's own step acts: on lane `l` it writes `regs` and changes the lane by `ln`, and leaves
the rest of the warp. -/
structure LaneAct (f : Nat → Warp → Warp) (regs : Nat → Nat → Option Word) (ln : Nat → Lane → Lane) :
    Prop where
  reg : ∀ l k m x, l < 32 → k < 32 →
    (f l x).rdV k m = if k = l then (regs l m).getD (x.rdV k m) else x.rdV k m
  lane : ∀ l k x, (f l x).lanes[k]? = if k = l then x.lanes[k]?.map (ln l) else x.lanes[k]?
  same : ∀ l x, LaneSame x { f l x with lanes := x.lanes }

theorem LaneSame.lanes {w w' : Warp} {a b : List Lane} (h : LaneSame { w with lanes := a }
    { w' with lanes := a }) : LaneSame { w with lanes := b } { w' with lanes := b } := by
  obtain ⟨h1, h2, h3⟩ := h
  refine ⟨?_, h2, h3⟩
  have := congrArg (fun x : Warp => { x with lanes := b }) h1
  exact this

/-- A warp with the fields that executing changes taken from another. -/
def wipe (w x : Warp) : Warp :=
  { x with v := w.v, u := w.u, g := w.g, lanes := w.lanes, bad := w.bad, graft := w.graft,
           handler := w.handler, producers := w.producers, lastRun := w.lastRun,
           lastYield := w.lastYield }

/-- The registers of an instruction's group after it has completed, where its effect first takes the
state to `s0` and then changes each lane of its group. -/
theorem lane_done_from {i : Instr} {s s0 : State} {c : Ctx} {w : Warp} (h : Issues i s c w)
    {body : Ctx → State → Res} {f : Warp → Nat → Warp → Warp} (hb : body c s = laneStep c f s0)
    (hg : Going s0 c.wid) (hw : s0.warp c.wid = some w)
    {regs : Nat → Nat → Option Word} {ln : Nat → Lane → Lane} (hf : LaneAct (f w) regs ln) :
    ∃ t, issue i body s = .next t ∧
      LaneDone c s0 t w regs (fun l x => Lane.follow c (ln l x)) := by
  obtain ⟨b, r, w0, -, -, -, hws, -, hlive, -, -, -, -⟩ := ctx_spec h.ctx
  have : w0 = w := by have := h.warp; rw [hws] at this; exact Option.some.inj this
  subst this
  have hw0 := hw
  have hwarp : (s0.modWarp c.wid (fun w => foldLanes c.mask (f w) w)).warp c.wid =
      some (foldLanes c.mask (f w0) w0) := by rw [State.modWarp_warp_self, hw0]; rfl
  obtain ⟨t, ps, bd, lr, ly, ht, hk, htw⟩ := issue_seq_from h (body := body) hb hg
    (RestKept.modWarp _ _ _ _) hwarp
  refine ⟨t, ht, hk, _, htw, ?_⟩
  set w1 := foldLanes c.mask (f w0) w0 with hw1
  have hsame : LaneSame w0 { w1 with lanes := w0.lanes } := by
    refine foldLanes_induct (fun x : Warp => LaneSame w0 { x with lanes := w0.lanes })
      (LaneSame.refl w0) (fun l hl x hx => hx.trans ?_)
    have := hf.same l x
    exact LaneSame.lanes (w := x) (w' := f w0 l x) (a := x.lanes) this
  have hlanes : ∀ k, k < 32 → w1.lanes[k]? =
      if c.mask.getLsbD k then w0.lanes[k]?.map (ln k) else w0.lanes[k]? := by
    intro k hk
    by_cases hm : c.mask.getLsbD k = true
    · rw [if_pos hm]
      exact foldLanes_own (σ := Warp) (fun x => x.lanes[k]?) (g := Option.map (ln k)) hm hk
        (fun x => by rw [hf.lane]; simp) (fun l _ hl x => by rw [hf.lane]; simp [Ne.symm hl])
    · rw [if_neg hm]
      exact foldLanes_other (σ := Warp) (fun x => x.lanes[k]?) (by simpa using hm)
        (fun l _ hl x => by rw [hf.lane]; simp [Ne.symm hl])
  have hregs : ∀ k m, k < 32 → w1.rdV k m =
      if c.mask.getLsbD k then (regs k m).getD (w0.rdV k m) else w0.rdV k m := by
    intro k m hk
    by_cases hm : c.mask.getLsbD k = true
    · rw [if_pos hm]
      exact foldLanes_own (σ := Warp) (fun x => x.rdV k m) (g := fun v => (regs k m).getD v) hm hk
        (fun x => by rw [hf.reg k k m x hk hk]; simp)
        (fun l hl hne x => by rw [hf.reg l k m x hl hk]; simp [Ne.symm hne])
    · rw [if_neg hm]
      exact foldLanes_other (σ := Warp) (fun x => x.rdV k m) (by simpa using hm)
        (fun l hl hne x => by rw [hf.reg l k m x hl hk]; simp [Ne.symm hne])
  have hkeep := w1.modLanes_keep c.mask (Lane.follow c)
  have hv : (w1.modLanes c.mask (Lane.follow c)).v = w1.v := by
    have := congrArg Warp.v hkeep; exact this
  have hg : (w1.modLanes c.mask (Lane.follow c)).graft = w1.graft := by
    have := congrArg Warp.graft hkeep; exact this
  have hu : (w1.modLanes c.mask (Lane.follow c)).u = w0.u := by
    have p := congrArg Warp.u hkeep
    have q := congrArg Warp.u hsame.1
    exact p.trans q
  have hgf : (w1.modLanes c.mask (Lane.follow c)).g = w0.g := by
    have p := congrArg Warp.g hkeep
    have q := congrArg Warp.g hsame.1
    exact p.trans q
  have hh : (w1.modLanes c.mask (Lane.follow c)).handler = w0.handler := by
    have p := congrArg Warp.handler hkeep
    have q := congrArg Warp.handler hsame.1
    exact p.trans q
  have hgr : w1.graft.map (fun g => { g with regs := [] }) =
      w0.graft.map (fun g => { g with regs := [] }) := hsame.2.1
  refine ⟨⟨?_, ?_, ?_⟩, ⟨hu, hgf, hh, ?_⟩, ?_, ?_⟩
  · have e2 := congrArg (wipe w0) hsame.1
    have e3 := congrArg (wipe w0) hkeep
    exact e3.trans e2
  · have := congrArg (Option.map (fun g : GraftMode => { g with bank := [] })) hgr
    simp only [Option.map_map] at this
    show (w1.modLanes c.mask (Lane.follow c)).graft.map _ = _
    rw [hg]
    exact this
  · show (w1.modLanes c.mask (Lane.follow c)).handler.map _ = _
    rw [hh]
  · have := congrArg (Option.map (fun g : GraftMode => g.bank)) hgr
    simp only [Option.map_map] at this
    show (w1.modLanes c.mask (Lane.follow c)).graft.map _ = _
    rw [hg]
    exact this
  · intro l n hl hn
    refine Eq.trans ?_ (hregs l n hl)
    simp only [Warp.rdV, hv, hg]
  · intro l hl
    have hlen : c.mask.getLsbD l = true → l < w1.lanes.length := by
      intro hm
      have hlv := (hlive l hl hm).2.2
      have hlt := w0.lane_lt (l := l) (by rw [hlv]; decide)
      have := hlanes l hl
      rw [if_pos hm] at this
      by_contra hge
      rw [List.getElem?_eq_none (by omega)] at this
      simp [hlt] at this
    show (w1.modLanes c.mask (Lane.follow c)).lane l = _
    rw [w1.lane_modLanes c.mask _ hl hlen]
    have hl1 : w1.lane l = if c.mask.getLsbD l then ln l (w0.lane l) else w0.lane l := by
      have h1 := hlanes l hl
      by_cases hm : c.mask.getLsbD l = true
      · rw [if_pos hm] at h1 ⊢
        have hlt := w0.lane_lt (l := l) (by rw [(hlive l hl hm).2.2]; decide)
        simp only [Warp.lane, List.getD_eq_getElem?_getD, h1]
        simp [hlt]
      · rw [if_neg hm] at h1 ⊢
        simp only [Warp.lane, List.getD_eq_getElem?_getD, h1]
    rw [hl1]
    by_cases hm : c.mask.getLsbD l = true <;> simp [hm]

/-- The same, where each lane's change is the whole effect. -/
theorem lane_done {i : Instr} {s : State} {c : Ctx} {w : Warp} (h : Issues i s c w)
    {f : Warp → Nat → Warp → Warp} {regs : Nat → Nat → Option Word} {ln : Nat → Lane → Lane}
    (hf : LaneAct (f w) regs ln) :
    ∃ t, issue i (laneStep · f) s = .next t ∧
      LaneDone c s t w regs (fun l x => Lane.follow c (ln l x)) :=
  lane_done_from h rfl h.going h.warp hf

theorem LaneSame.lanesEq {w w' : Warp} (h : LaneSame w w') : w'.lanes = w.lanes := by
  have := congrArg Warp.lanes h.1
  exact this

/-- A lane's write of one value at a width. -/
theorem LaneAct.wrW (w64 : Bool) (d : LSpec) (v : Nat → DWord) :
    LaneAct (fun l => Warp.wrW l w64 d (v l)) (fun l => dstRegs d w64 (v l)) (fun _ x => x) := by
  have e (l : Nat) (x : Warp) := (x.wrW_same l w64 d (v l)).lanesEq
  refine ⟨fun l k m x hl hk => x.rdV_wrW hl hk w64 d _, fun l k x => ?_, fun l x => ?_⟩
  · rw [e]; by_cases hk : k = l <;> simp [hk]
  · rw [← e l x]; exact x.wrW_same l w64 d _

theorem Warp.rdV_modLane (l k m : Nat) (f : Lane → Lane) (x : Warp) :
    (x.modLane l f).rdV k m = x.rdV k m := rfl

/-- A lane's own step followed by a change of its record. -/
theorem LaneAct.modLane {f : Nat → Warp → Warp} {regs : Nat → Nat → Option Word}
    {ln : Nat → Lane → Lane} (h : LaneAct f regs ln) (g : Nat → Lane → Lane) :
    LaneAct (fun l x => (f l x).modLane l (g l)) regs (fun l y => g l (ln l y)) := by
  refine ⟨fun l k m x hl hk => h.reg l k m x hl hk, fun l k x => ?_, fun l x => h.same l x⟩
  rw [Warp.get_modLane, h.lane]
  by_cases hk : k = l
  · simp only [if_pos hk, Option.map_map]; rfl
  · simp only [if_neg hk]

/-- A step that writes nothing. -/
theorem LaneAct.id : LaneAct (fun _ x => x) (fun _ _ => none) (fun _ y => y) :=
  ⟨fun _ _ _ _ _ _ => by simp, fun _ _ _ => by simp, fun _ x => LaneSame.refl x⟩

/-- Each lane writes one value. -/
theorem laneAlu_done {i : Instr} {s : State} {c : Ctx} {w : Warp} (h : Issues i s c w) (w64 : Bool)
    (d : LSpec) (v : State → Ctx → Warp → Nat → DWord) :
    ∃ t, issue i (laneAlu w64 d v) s = .next t ∧ LaneWrites c s t w w64 d (v s c w) := by
  obtain ⟨t, ht, hd⟩ := lane_done h (f := fun w l => Warp.wrW l w64 d (v s c w l))
    (LaneAct.wrW w64 d (v s c w))
  refine ⟨t, ?_, hd⟩
  rw [issue_eq h] at ht ⊢
  exact ht

theorem putFlag_eq (n : Nat) (b : Bool) (f : BitVec 8) : putFlag n b f =
    if b then f ||| BitVec.ofNat 8 (2 ^ n) else f &&& ~~~BitVec.ofNat 8 (2 ^ n) := by
  simp only [putFlag, BitVec.twoPow_eq]
  have : BitVec.ofNat 8 (2 ^ n) = 1#8 <<< n := by
    apply BitVec.eq_of_toNat_eq; simp [Nat.shiftLeft_eq]
  rw [this]

/-- Each lane writes one flag. -/
theorem laneFlag_done {i : Instr} {s : State} {c : Ctx} {w : Warp} (h : Issues i s c w) (n : Fin 8)
    (v : State → Ctx → Warp → Nat → Bool) :
    ∃ t, issue i (laneFlag n.val v) s = .next t ∧ LaneFlags c s t w n (v s c w) := by
  have hf := LaneAct.id.modLane (fun l (x : Lane) => { x with f := putFlag n.val (v s c w l) x.f })
  obtain ⟨t, ht, hd⟩ := lane_done h (f := fun w l x => Warp.modLane l
    (fun y => { y with f := putFlag n.val (v s c w l) y.f }) x) hf
  refine ⟨t, ?_, hd⟩
  rw [issue_eq h] at ht ⊢
  simp only [putFlag_eq] at ht
  exact ht

/-- Each lane writes one value and raises floating-point flags. -/
theorem laneFp_done {i : Instr} {s : State} {c : Ctx} {w : Warp} (h : Issues i s c w) (w64 : Bool)
    (d : LSpec) (v : State → Ctx → Warp → Nat → Nat × BitVec 5) :
    ∃ t, issue i (laneFp w64 d v) s = .next t ∧
      LaneFpWrites c s t w w64 d (fun l => (BitVec.ofNat 64 (v s c w l).1, (v s c w l).2)) := by
  have hf := (LaneAct.wrW w64 d (fun l => BitVec.ofNat 64 (v s c w l).1)).modLane
    (fun l (x : Lane) => { x with fpf := x.fpf ||| (v s c w l).2 })
  obtain ⟨t, ht, hd⟩ := lane_done h (f := fun w l x => Warp.modLane l
    (fun y => { y with fpf := y.fpf ||| (v s c w l).2 })
    (Warp.wrW l w64 d (BitVec.ofNat 64 (v s c w l).1) x)) hf
  refine ⟨t, ?_, hd⟩
  rw [issue_eq h] at ht ⊢
  exact ht

/-- Each lane writes one flag and raises floating-point flags. -/
theorem laneFpFlag_done {i : Instr} {s : State} {c : Ctx} {w : Warp} (h : Issues i s c w) (n : Fin 8)
    (v : State → Ctx → Warp → Nat → Bool × BitVec 5) :
    ∃ t, issue i (laneFpFlag n.val v) s = .next t ∧ LaneDone c s t w (fun _ _ => none)
      (fun l y => Lane.follow c { y with f := putFlag n.val (v s c w l).1 y.f,
                                         fpf := y.fpf ||| (v s c w l).2 }) := by
  have hf := (LaneAct.id.modLane
    (fun l (x : Lane) => { x with f := putFlag n.val (v s c w l).1 x.f })).modLane
    (fun l (x : Lane) => { x with fpf := x.fpf ||| (v s c w l).2 })
  obtain ⟨t, ht, hd⟩ := lane_done h (f := fun w l x => Warp.modLane l
    (fun y => { y with fpf := y.fpf ||| (v s c w l).2 }) (Warp.modLane l
    (fun y => { y with f := putFlag n.val (v s c w l).1 y.f }) x)) hf
  refine ⟨t, ?_, hd⟩
  rw [issue_eq h] at ht ⊢
  simp only [putFlag_eq] at ht
  exact ht

/-- A fold of lanes' own steps. -/
theorem LaneAct.fold {f : Nat → Warp → Warp} {regs : Nat → Nat → Option Word} {ln : Nat → Lane → Lane}
    (hf : LaneAct f regs ln) (m : Mask) (w : Warp) :
    LaneSame w { foldLanes m f w with lanes := w.lanes } ∧
    (∀ k, k < 32 → (foldLanes m f w).lanes[k]? =
      if m.getLsbD k then w.lanes[k]?.map (ln k) else w.lanes[k]?) ∧
    (∀ k n, k < 32 → (foldLanes m f w).rdV k n =
      if m.getLsbD k then (regs k n).getD (w.rdV k n) else w.rdV k n) := by
  refine ⟨?_, ?_, ?_⟩
  · refine foldLanes_induct (fun x : Warp => LaneSame w { x with lanes := w.lanes })
      (LaneSame.refl w) (fun l hl x hx => hx.trans ?_)
    exact LaneSame.lanes (w := x) (w' := f l x) (a := x.lanes) (hf.same l x)
  · intro k hk
    by_cases hm : m.getLsbD k = true
    · rw [if_pos hm]
      exact foldLanes_own (σ := Warp) (fun x => x.lanes[k]?) (g := Option.map (ln k)) hm hk
        (fun x => by rw [hf.lane]; simp) (fun l _ hl x => by rw [hf.lane]; simp [Ne.symm hl])
    · rw [if_neg hm]
      exact foldLanes_other (σ := Warp) (fun x => x.lanes[k]?) (by simpa using hm)
        (fun l _ hl x => by rw [hf.lane]; simp [Ne.symm hl])
  · intro k n hk
    by_cases hm : m.getLsbD k = true
    · rw [if_pos hm]
      exact foldLanes_own (σ := Warp) (fun x => x.rdV k n) (g := fun v => (regs k n).getD v) hm hk
        (fun x => by rw [hf.reg k k n x hk hk]; simp)
        (fun l hl hne x => by rw [hf.reg l k n x hl hk]; simp [Ne.symm hne])
    · rw [if_neg hm]
      exact foldLanes_other (σ := Warp) (fun x => x.rdV k n) (by simpa using hm)
        (fun l hl hne x => by rw [hf.reg l k n x hl hk]; simp [Ne.symm hne])

/-- What an instruction has done whose lanes each took their own step. -/
theorem laneDone_of {c : Ctx} {s t : State} {w : Warp} {ps : List Producer} {lr : Mask} {ly : Bool}
    {f : Nat → Warp → Warp} {regs : Nat → Nat → Option Word} {ln : Nat → Lane → Lane}
    (hf : LaneAct f regs ln) (hk : RestKept c.wid c.core s t)
    (hl : ∀ l, l < 32 → c.mask.getLsbD l = true → l < w.lanes.length)
    (ht : t.warp c.wid = some { foldLanes c.mask f { w with producers := ps, bad := bd } with
      lastRun := lr, lastYield := ly }) : LaneDone c s t w regs ln := by
  refine ⟨hk, _, ht, ?_⟩
  obtain ⟨hsame, hlanes, hregs⟩ := hf.fold c.mask { w with producers := ps, bad := bd }
  set w1 := foldLanes c.mask f { w with producers := ps, bad := bd } with hw1
  have hu : w1.u = w.u := by have q := congrArg Warp.u hsame.1; exact q
  have hgf : w1.g = w.g := by have q := congrArg Warp.g hsame.1; exact q
  have hh : w1.handler = w.handler := by have q := congrArg Warp.handler hsame.1; exact q
  have hgr : w1.graft.map (fun g => { g with regs := [] }) =
      w.graft.map (fun g => { g with regs := [] }) := hsame.2.1
  refine ⟨⟨?_, ?_, ?_⟩, ⟨hu, hgf, hh, ?_⟩, fun l n hl32 _ => hregs l n hl32, ?_⟩
  · have e2 := congrArg (wipe w) hsame.1
    exact e2
  · have := congrArg (Option.map (fun g : GraftMode => { g with bank := [] })) hgr
    simp only [Option.map_map] at this
    exact this
  · show w1.handler.map _ = _
    rw [hh]
  · have := congrArg (Option.map (fun g : GraftMode => g.bank)) hgr
    simp only [Option.map_map] at this
    exact this
  · intro l hl32
    have h1 := hlanes l hl32
    show w1.lane l = _
    by_cases hm : c.mask.getLsbD l = true
    · rw [if_pos hm] at h1 ⊢
      simp only [Warp.lane, List.getD_eq_getElem?_getD, h1]
      simp [hl l hl32 hm]
    · rw [if_neg hm] at h1 ⊢
      simp only [Warp.lane, List.getD_eq_getElem?_getD, h1]

theorem ctx_lanes {s : State} {c : Ctx} {w : Warp} (hc : s.ctx? = some c) (hw : s.warp c.wid = some w) :
    ∀ l, l < 32 → c.mask.getLsbD l = true → l < w.lanes.length := by
  obtain ⟨_, _, w0, -, -, -, hws, -, hlive, -, -, -, -⟩ := ctx_spec hc
  have : w0 = w := by rw [hws] at hw; exact Option.some.inj hw
  subst this
  intro l hl hm
  exact w0.lane_lt (l := l) (by rw [(hlive l hl hm).2.2]; decide)

/-- An instruction whose lanes leave their run for targets and write nothing. -/
theorem jump_done {i : Instr} {s : State} {c : Ctx} {w : Warp} (h : Issues i s c w)
    {body : Ctx → State → Res} {tg : List (Nat × DWord)}
    (hb : body c s = { s := s, faults := [], flow := .jump tg }) :
    ∃ t, issue i body s = .next t ∧
      LaneDone c s t w (fun _ _ => none) (fun l y => Lane.leave c (jumpAt tg l) y) := by
  obtain ⟨t, ps, bd, lr, ly, ht, hk, htw⟩ := issue_jump h hb h.going (RestKept.refl _ _ _) h.warp
  exact ⟨t, ht, laneDone_of (LaneAct.id.modLane (fun l => Lane.leave c (jumpAt tg l))) hk
    (ctx_lanes h.ctx h.warp) htw⟩

end Sys2Proof.Machine
end

