-- ==== Sys2Proof/Laws/Memory.lean ====
section
/-!
SUPPORT. Laws of memory (log entry 4): every memory operation keeps the canonical form, a read after
a write gives what was written, and a write leaves every other byte alone.
-/

set_option Elab.async false

namespace Sys2Proof.Machine

section Canonical

@[simp] theorem Memory.wf_nil : Memory.wf [] = true := rfl

/-- A write keeps the canonical form. -/
theorem Memory.wf_wrMem (bs : List Byte) (loc : Nat) {m : FMap Byte} (h : Memory.wf m = true) :
    Memory.wf (wrMem loc bs m) = true := by
  induction bs generalizing loc m with
  | nil => exact h
  | cons b r ih => exact ih (loc + 1) (fwf_fset loc b h)

/-- Clearing a range of addresses keeps the canonical form. -/
theorem Memory.wf_feraseIf (p : Nat → Bool) {m : FMap Byte} (h : Memory.wf m = true) :
    Memory.wf (feraseIf p m) = true := fwf_feraseIf p h

/-- The byte at an address after a write of bytes from `loc`. -/
theorem fget_wrMem (bs : List Byte) (loc a : Nat) (m : FMap Byte) :
    fget 0 a (wrMem loc bs m) =
      if loc ≤ a ∧ a < loc + bs.length then bs.getD (a - loc) 0 else fget 0 a m := by
  induction bs generalizing loc m with
  | nil => rw [if_neg (by simp only [List.length_nil]; omega)]; rfl
  | cons b r ih =>
    show fget 0 a (wrMem (loc + 1) r (fset 0 loc b m)) = _
    rw [ih, fget_fset, List.length_cons]
    by_cases h1 : a = loc
    · subst h1
      rw [if_neg (by omega), if_pos rfl, if_pos (by omega)]
      simp
    · by_cases h2 : loc + 1 ≤ a ∧ a < loc + 1 + r.length
      · rw [if_pos h2, if_pos (by omega)]
        have : a - loc = (a - (loc + 1)) + 1 := by omega
        rw [this]; simp
      · rw [if_neg h2, if_neg h1, if_neg (by omega)]

/-- Reading a range that a write does not meet. -/
theorem rdMem_of_bytes {s t : State} {loc n : Nat}
    (h : ∀ a, loc ≤ a → a < loc + n → t.rdByte a = s.rdByte a) : t.rdMem loc n = s.rdMem loc n := by
  induction n generalizing loc with
  | zero => rfl
  | succ n ih =>
    simp only [State.rdMem]
    rw [h loc (le_refl _) (by omega), ih (fun a h1 h2 => h a (by omega) (by omega))]

/-- Reading what was written. -/
theorem rdMem_wrMem (bs : List Byte) (loc : Nat) (s : State) :
    State.rdMem { s with mem := wrMem loc bs s.mem } loc bs.length = bs := by
  have key : ∀ (n k : Nat), k + n = bs.length →
      State.rdMem { s with mem := wrMem loc bs s.mem } (loc + k) n = bs.drop k := by
    intro n
    induction n with
    | zero => intro k hk; simp [State.rdMem, List.drop_eq_nil_of_le (by omega : bs.length ≤ k)]
    | succ n ih =>
      intro k hk
      have hlt : k < bs.length := by omega
      simp only [State.rdMem, State.rdByte]
      rw [fget_wrMem, if_pos (by omega), Nat.add_sub_cancel_left, Nat.add_assoc, ih (k + 1) (by omega),
        List.drop_eq_getElem_cons hlt]
      simp [hlt]
  simpa using key bs.length 0 (by omega)

end Canonical

section Operations
variable (s : State)

theorem undoLogLine_mem (line : Nat) (bytes : List Byte) (p : Nat × Nat) :
    (s.undoLogLine line bytes p).mem = s.mem := by
  unfold State.undoLogLine State.raise State.setRegF
  dsimp only
  repeat' split
  all_goals simp only [State.setReg_mem]

theorem beforeWrite_mem (loc : Nat) : (s.beforeWrite loc).mem = s.mem := by
  unfold State.beforeWrite
  dsimp only
  repeat' split
  all_goals first | rfl | exact undoLogLine_mem _ _ _ _

theorem writeBack_mem (line : Nat) : (s.writeBack line).mem = s.mem := by
  unfold State.writeBack
  dsimp only
  repeat' split
  all_goals first | rfl | exact undoLogLine_mem _ _ _ _

theorem fanOut_mem (line : Nat) : (s.fanOut line).mem = s.mem := by
  unfold State.fanOut
  have key : ∀ (l : List (Nat × List (Nat × Nat))) (t : State), (l.foldl (fun s e =>
      let ds := (e.2.filter (fun x => x.2 == line)).map Prod.fst
      if ds = [] then s
      else State.setRegF (objOff e.1 + 0x28) 0 8 (if ds.any s.unreachPeer then 3 else 2)
        { s with inval := s.inval ++ ((ds.map (fun d => (e.1, d, line))).filter
            (fun x => !s.inval.contains x)) }) t).mem = t.mem := by
    intro l
    induction l with
    | nil => intro t; rfl
    | cons e r ih =>
      intro t
      rw [List.foldl_cons, ih]
      dsimp only
      split <;> rfl
  exact key _ s

theorem recall_mem (line : Nat) : (s.recall line).mem = s.mem := by
  unfold State.recall
  repeat' split
  all_goals rfl

theorem recallFrom_mem (core : Option Nat) (line : Nat) : (s.recallFrom core line).mem = s.mem := by
  unfold State.recallFrom
  repeat' split
  all_goals first | rfl | exact recall_mem s line

/-- What arrives at a home changes no byte there by arriving. -/
theorem arrive_mem (core : Option Nat) (line : Nat) : (s.arrive core line).2.mem = s.mem := by
  unfold State.arrive
  dsimp only
  rw [fanOut_mem]
  split <;> exact recallFrom_mem s core line

theorem putBytes_mem (loc : Nat) (bytes : List Byte) :
    (s.putBytes loc bytes).mem = wrMem loc bytes s.mem := by
  show wrMem loc bytes (s.beforeWrite loc).mem = _
  rw [beforeWrite_mem]

/-- A write at the point of coherence stores its bytes and no others (08 R178). -/
theorem perform_mem (core : Option Nat) (loc : Nat) (bytes : List Byte) :
    (s.perform core loc bytes).2.mem = wrMem loc bytes s.mem := by
  show ((s.arrive core (loc / 128)).2.putBytes loc bytes).mem = _
  rw [putBytes_mem, arrive_mem]

/-- A performed write keeps the canonical form. -/
theorem perform_wf (core : Option Nat) (loc : Nat) (bytes : List Byte) (h : Memory.wf s.mem = true) :
    Memory.wf (s.perform core loc bytes).2.mem = true := by
  rw [perform_mem]; exact Memory.wf_wrMem bytes loc h

/-- A write of chip or core scratch keeps their canonical form. -/
theorem wrScratch_wf (p : Place) (bs : List Byte) (h : Memory.wf s.chip = true)
    (hs : ∀ k, Memory.wf (s.core k).scratch = true) :
    Memory.wf (s.wrScratch p bs).mem = Memory.wf s.mem ∧ Memory.wf (s.wrScratch p bs).chip = true ∧
      ∀ k, Memory.wf ((s.wrScratch p bs).core k).scratch = true := by
  cases p with
  | glob p => exact ⟨rfl, h, hs⟩
  | scr c o =>
    refine ⟨rfl, h, fun k => ?_⟩
    by_cases hk : k = c
    · subst hk
      simp only [State.wrScratch, State.modCore_core_self]
      exact Memory.wf_wrMem _ _ (hs k)
    · simp only [State.wrScratch, s.modCore_core_of_ne hk]
      exact hs k
  | chip o => exact ⟨rfl, Memory.wf_wrMem _ _ h, hs⟩
  | gone => exact ⟨rfl, h, hs⟩

/-- Memory after reset has the canonical form. -/
theorem reset_wf : Memory.wf State.reset.mem = true ∧ Memory.wf State.reset.chip = true :=
  ⟨rfl, rfl⟩

end Operations

end Sys2Proof.Machine
end

