-- ==== Sys2Proof/Laws/PerInstr.lean ====
section
/-!
SUPPORT. The family RoundTrip, one lemma for each constructor of `Instr`: the words that the encoder
writes for a well-formed warp instruction decode to that instruction, with every operand at every
value that its encoding admits (14 R299 to R306, 15 R320 to R326). A step of a device agent has no
words, and its lemma says nothing.
-/

namespace Sys2Proof.Laws.RoundTrip

section
set_option Elab.async false
set_option linter.unusedSimpArgs false
set_option linter.unreachableTactic false
set_option linter.unusedTactic false
set_option linter.unusedVariables false

/-- What the family says of an instruction. -/
def Statement (i : Instr) : Prop := i.encodable = true → i.wf = true → decode (encode i) = .ok i

theorem and (w : Width) (d : LSpec) (a : LSpec) (b : BSrc) : Statement (.and w d a b) := by
  intro _ hw
  have h0 := w.code_lt
  have h1 := d.code_lt
  have h2 := a.code_lt
  have h3 := b.code_lt
  have h4 := b.iBit_lt
  have he : encode (.and w d a b) = [enc1 0 0x0A (modB b.iBit w) d.code a.code b.code] := rfl
  have hf : Fits1 0 0x0A (modB b.iBit w) d.code a.code b.code := by
    constructor
    iterate 6 (first | omega | (simp only [modI, modB, cmpD]; omega))
  rw [he]
  refine decode_enc1 hf (by decide) (by decide) [] (.and w d a b) ?_ hw
  have e (m d a b : Nat) : decL1 0x0A m d a b = (do some (.and (← widthOf (m % 4)) (← lspecOf d) (← lspecOf a) (← bsrcOf (m / 4) b))) := by
    rfl
  rw [if_pos (by decide), if_pos rfl, e _ _ _ _]
  simp [cmpD_lt, toBool_low, guard]

theorem or (w : Width) (d : LSpec) (a : LSpec) (b : BSrc) : Statement (.or w d a b) := by
  intro _ hw
  have h0 := w.code_lt
  have h1 := d.code_lt
  have h2 := a.code_lt
  have h3 := b.code_lt
  have h4 := b.iBit_lt
  have he : encode (.or w d a b) = [enc1 0 0x0B (modB b.iBit w) d.code a.code b.code] := rfl
  have hf : Fits1 0 0x0B (modB b.iBit w) d.code a.code b.code := by
    constructor
    iterate 6 (first | omega | (simp only [modI, modB, cmpD]; omega))
  rw [he]
  refine decode_enc1 hf (by decide) (by decide) [] (.or w d a b) ?_ hw
  have e (m d a b : Nat) : decL1 0x0B m d a b = (do some (.or (← widthOf (m % 4)) (← lspecOf d) (← lspecOf a) (← bsrcOf (m / 4) b))) := by
    rfl
  rw [if_pos (by decide), if_pos rfl, e _ _ _ _]
  simp [cmpD_lt, toBool_low, guard]

theorem xor (w : Width) (d : LSpec) (a : LSpec) (b : BSrc) : Statement (.xor w d a b) := by
  intro _ hw
  have h0 := w.code_lt
  have h1 := d.code_lt
  have h2 := a.code_lt
  have h3 := b.code_lt
  have h4 := b.iBit_lt
  have he : encode (.xor w d a b) = [enc1 0 0x0C (modB b.iBit w) d.code a.code b.code] := rfl
  have hf : Fits1 0 0x0C (modB b.iBit w) d.code a.code b.code := by
    constructor
    iterate 6 (first | omega | (simp only [modI, modB, cmpD]; omega))
  rw [he]
  refine decode_enc1 hf (by decide) (by decide) [] (.xor w d a b) ?_ hw
  have e (m d a b : Nat) : decL1 0x0C m d a b = (do some (.xor (← widthOf (m % 4)) (← lspecOf d) (← lspecOf a) (← bsrcOf (m / 4) b))) := by
    rfl
  rw [if_pos (by decide), if_pos rfl, e _ _ _ _]
  simp [cmpD_lt, toBool_low, guard]

theorem bar (n : Fin 16) (c : USrc) : Statement (.bar n c) := by
  intro _ hw
  have h0 := n.isLt
  have h1 := c.code_lt
  have h2 := c.iBit_lt
  have he : encode (.bar n c) = [enc1 1 0x23 (c.iBit * 4) n.val 0 c.code] := rfl
  have hf : Fits1 1 0x23 (c.iBit * 4) n.val 0 c.code := by
    constructor
    iterate 6 (first | omega | (omega))
  rw [he]
  refine decode_enc1 hf (by decide) (by decide) [] (.bar n c) ?_ hw
  have e (m d a b : Nat) : decU1 0x23 m d a b = (do guard (m % 4 = 0 ∧ a = 0); some (.bar (← finOf 16 d) (← usrcOf (m / 4) b))) := by
    rfl
  rw [if_pos (by decide), if_neg (by decide), e _ _ _ _]
  simp [cmpD_lt, toBool_low, guard]

theorem cbar (n : Fin 4) (c : USrc) : Statement (.cbar n c) := by
  intro _ hw
  have h0 := n.isLt
  have h1 := c.code_lt
  have h2 := c.iBit_lt
  have he : encode (.cbar n c) = [enc1 1 0x24 (c.iBit * 4) n.val 0 c.code] := rfl
  have hf : Fits1 1 0x24 (c.iBit * 4) n.val 0 c.code := by
    constructor
    iterate 6 (first | omega | (omega))
  rw [he]
  refine decode_enc1 hf (by decide) (by decide) [] (.cbar n c) ?_ hw
  have e (m d a b : Nat) : decU1 0x24 m d a b = (do guard (m % 4 = 0 ∧ a = 0); some (.cbar (← finOf 4 d) (← usrcOf (m / 4) b))) := by
    rfl
  rw [if_pos (by decide), if_neg (by decide), e _ _ _ _]
  simp [cmpD_lt, toBool_low, guard]

theorem bkpt : Statement (.bkpt) := by
  intro _ hw
  have he : encode (.bkpt ) = [enc1 0 0x5A 0 0 0 0] := rfl
  have hf : Fits1 0 0x5A 0 0 0 0 := by
    constructor
    iterate 6 (first | omega | (omega))
  rw [he]
  refine decode_enc1 hf (by decide) (by decide) [] (.bkpt ) ?_ hw
  have e (m d a b : Nat) : decL1 0x5A m d a b = (do guard (m = 0 ∧ d = 0 ∧ a = 0 ∧ b = 0); some .bkpt) := by
    rfl
  rw [if_pos (by decide), if_pos rfl, e _ _ _ _]
  simp [cmpD_lt, toBool_low, guard]

theorem brev (w : Width) (d : LSpec) (a : LSpec) : Statement (.brev w d a) := by
  intro _ hw
  have h0 := w.code_lt
  have h1 := d.code_lt
  have h2 := a.code_lt
  have he : encode (.brev w d a) = [enc1 0 0x12 w.code d.code a.code 0] := rfl
  have hf : Fits1 0 0x12 w.code d.code a.code 0 := by
    constructor
    iterate 6 (first | omega | (omega))
  rw [he]
  refine decode_enc1 hf (by decide) (by decide) [] (.brev w d a) ?_ hw
  have e (m d a b : Nat) : decL1 0x12 m d a b = (do guard (b = 0); some (.brev (← widthOf m) (← lspecOf d) (← lspecOf a))) := by
    rfl
  rw [if_pos (by decide), if_pos rfl, e _ _ _ _]
  simp [cmpD_lt, toBool_low, guard]

theorem clz (w : Width) (d : LSpec) (a : LSpec) : Statement (.clz w d a) := by
  intro _ hw
  have h0 := w.code_lt
  have h1 := d.code_lt
  have h2 := a.code_lt
  have he : encode (.clz w d a) = [enc1 0 0x11 w.code d.code a.code 0] := rfl
  have hf : Fits1 0 0x11 w.code d.code a.code 0 := by
    constructor
    iterate 6 (first | omega | (omega))
  rw [he]
  refine decode_enc1 hf (by decide) (by decide) [] (.clz w d a) ?_ hw
  have e (m d a b : Nat) : decL1 0x11 m d a b = (do guard (b = 0); some (.clz (← widthOf m) (← lspecOf d) (← lspecOf a))) := by
    rfl
  rw [if_pos (by decide), if_pos rfl, e _ _ _ _]
  simp [cmpD_lt, toBool_low, guard]

theorem popc (w : Width) (d : LSpec) (a : LSpec) : Statement (.popc w d a) := by
  intro _ hw
  have h0 := w.code_lt
  have h1 := d.code_lt
  have h2 := a.code_lt
  have he : encode (.popc w d a) = [enc1 0 0x10 w.code d.code a.code 0] := rfl
  have hf : Fits1 0 0x10 w.code d.code a.code 0 := by
    constructor
    iterate 6 (first | omega | (omega))
  rw [he]
  refine decode_enc1 hf (by decide) (by decide) [] (.popc w d a) ?_ hw
  have e (m d a b : Nat) : decL1 0x10 m d a b = (do guard (b = 0); some (.popc (← widthOf m) (← lspecOf d) (← lspecOf a))) := by
    rfl
  rw [if_pos (by decide), if_pos rfl, e _ _ _ _]
  simp [cmpD_lt, toBool_low, guard]

theorem brx (r : Bool) (a : LSpec) : Statement (.brx r a) := by
  intro _ hw
  have h0 := ofBool_lt r
  have h1 := a.code_lt
  have he : encode (.brx r a) = [enc1 0 0x53 (ofBool r * 4) 0 a.code 0] := rfl
  have hf : Fits1 0 0x53 (ofBool r * 4) 0 a.code 0 := by
    constructor
    iterate 6 (first | omega | (omega))
  rw [he]
  refine decode_enc1 hf (by decide) (by decide) [] (.brx r a) ?_ hw
  have e (sat : Bool) (m d a b : Nat) (hs : sat = toBool (m / 4)) : decL1 0x53 m d a b = (do guard (m % 4 = 0 ∧ d = 0 ∧ b = 0); some (.brx sat (← lspecOf a))) := by
    subst hs; rfl
  rw [if_pos (by decide), if_pos rfl, e _ _ _ _ _ rfl]
  simp [cmpD_lt, toBool_low, guard]

theorem cancel (l : CancelLevel) : Statement (.cancel l) := by
  intro _ hw
  have h0 := l.code_lt
  have he : encode (.cancel l) = [enc1 1 0x41 l.code 0 0 0] := rfl
  have hf : Fits1 1 0x41 l.code 0 0 0 := by
    constructor
    iterate 6 (first | omega | (omega))
  rw [he]
  refine decode_enc1 hf (by decide) (by decide) [] (.cancel l) ?_ hw
  have e (m d a b : Nat) : decU1 0x41 m d a b = (do guard (d = 0 ∧ a = 0 ∧ b = 0); some (.cancel (← levelOf m))) := by
    rfl
  rw [if_pos (by decide), if_neg (by decide), e _ _ _ _]
  simp [cmpD_lt, toBool_low, guard]

theorem cbrsv (d : USpec) (n : Fin 16) : Statement (.cbrsv d n) := by
  intro _ hw
  have h0 := d.code_lt
  have h1 := n.isLt
  have he : encode (.cbrsv d n) = [enc1 1 0x36 0 d.code n.val 0] := rfl
  have hf : Fits1 1 0x36 0 d.code n.val 0 := by
    constructor
    iterate 6 (first | omega | (omega))
  rw [he]
  refine decode_enc1 hf (by decide) (by decide) [] (.cbrsv d n) ?_ hw
  have e (m d a b : Nat) : decU1 0x36 m d a b = (do guard (m = 0 ∧ b = 0); some (.cbrsv (← uspecOf d) (← finOf 16 a))) := by
    rfl
  rw [if_pos (by decide), if_neg (by decide), e _ _ _ _]
  simp [cmpD_lt, toBool_low, guard]

theorem cbcmt (n : Fin 16) : Statement (.cbcmt n) := by
  intro _ hw
  have h0 := n.isLt
  have he : encode (.cbcmt n) = [enc1 1 0x37 0 0 n.val 0] := rfl
  have hf : Fits1 1 0x37 0 0 n.val 0 := by
    constructor
    iterate 6 (first | omega | (omega))
  rw [he]
  refine decode_enc1 hf (by decide) (by decide) [] (.cbcmt n) ?_ hw
  have e (m d a b : Nat) : decU1 0x37 m d a b = (do guard (m = 0 ∧ b = 0 ∧ d = 0); some (.cbcmt (← finOf 16 a))) := by
    rfl
  rw [if_pos (by decide), if_neg (by decide), e _ _ _ _]
  simp [cmpD_lt, toBool_low, guard]

theorem cbacq (d : USpec) (n : Fin 16) : Statement (.cbacq d n) := by
  intro _ hw
  have h0 := d.code_lt
  have h1 := n.isLt
  have he : encode (.cbacq d n) = [enc1 1 0x38 0 d.code n.val 0] := rfl
  have hf : Fits1 1 0x38 0 d.code n.val 0 := by
    constructor
    iterate 6 (first | omega | (omega))
  rw [he]
  refine decode_enc1 hf (by decide) (by decide) [] (.cbacq d n) ?_ hw
  have e (m d a b : Nat) : decU1 0x38 m d a b = (do guard (m = 0 ∧ b = 0); some (.cbacq (← uspecOf d) (← finOf 16 a))) := by
    rfl
  rw [if_pos (by decide), if_neg (by decide), e _ _ _ _]
  simp [cmpD_lt, toBool_low, guard]

theorem cbrel (n : Fin 16) : Statement (.cbrel n) := by
  intro _ hw
  have h0 := n.isLt
  have he : encode (.cbrel n) = [enc1 1 0x39 0 0 n.val 0] := rfl
  have hf : Fits1 1 0x39 0 0 n.val 0 := by
    constructor
    iterate 6 (first | omega | (omega))
  rw [he]
  refine decode_enc1 hf (by decide) (by decide) [] (.cbrel n) ?_ hw
  have e (m d a b : Nat) : decU1 0x39 m d a b = (do guard (m = 0 ∧ b = 0 ∧ d = 0); some (.cbrel (← finOf 16 a))) := by
    rfl
  rw [if_pos (by decide), if_neg (by decide), e _ _ _ _]
  simp [cmpD_lt, toBool_low, guard]

theorem ckpt : Statement (.ckpt) := by
  intro _ hw
  have he : encode (.ckpt ) = [enc1 1 0x46 0 0 0 0] := rfl
  have hf : Fits1 1 0x46 0 0 0 0 := by
    constructor
    iterate 6 (first | omega | (omega))
  rw [he]
  refine decode_enc1 hf (by decide) (by decide) [] (.ckpt ) ?_ hw
  have e (m d a b : Nat) : decU1 0x46 m d a b = (do guard (m = 0 ∧ d = 0 ∧ a = 0 ∧ b = 0); some .ckpt) := by
    rfl
  rw [if_pos (by decide), if_neg (by decide), e _ _ _ _]
  simp [cmpD_lt, toBool_low, guard]

theorem cpyw (n : Fin 4) (b : USrc) : Statement (.cpyw n b) := by
  intro _ hw
  have h0 := n.isLt
  have h1 := b.code_lt
  have h2 := b.iBit_lt
  have he : encode (.cpyw n b) = [enc1 1 0x35 (b.iBit * 4) n.val 0 b.code] := rfl
  have hf : Fits1 1 0x35 (b.iBit * 4) n.val 0 b.code := by
    constructor
    iterate 6 (first | omega | (omega))
  rw [he]
  refine decode_enc1 hf (by decide) (by decide) [] (.cpyw n b) ?_ hw
  have e (m d a b : Nat) : decU1 0x35 m d a b = (do guard (m % 4 = 0 ∧ a = 0); some (.cpyw (← finOf 4 d) (← usrcOf (m / 4) b))) := by
    rfl
  rw [if_pos (by decide), if_neg (by decide), e _ _ _ _]
  simp [cmpD_lt, toBool_low, guard]

theorem dadd (r : Rnd) (d : LSpec) (a : LSpec) (b : LSpec) : Statement (.dadd r d a b) := by
  intro _ hw
  have h0 := r.code_lt
  have h1 := d.code_lt
  have h2 := a.code_lt
  have h3 := b.code_lt
  have he : encode (.dadd r d a b) = [enc1 0 0x27 r.code d.code a.code b.code] := rfl
  have hf : Fits1 0 0x27 r.code d.code a.code b.code := by
    constructor
    iterate 6 (first | omega | (omega))
  rw [he]
  refine decode_enc1 hf (by decide) (by decide) [] (.dadd r d a b) ?_ hw
  have e (m d a b : Nat) : decL1 0x27 m d a b = (do some (.dadd (← rndOf m) (← lspecOf d) (← lspecOf a) (← lspecOf b))) := by
    rfl
  rw [if_pos (by decide), if_pos rfl, e _ _ _ _]
  simp [cmpD_lt, toBool_low, guard]

theorem dmul (r : Rnd) (d : LSpec) (a : LSpec) (b : LSpec) : Statement (.dmul r d a b) := by
  intro _ hw
  have h0 := r.code_lt
  have h1 := d.code_lt
  have h2 := a.code_lt
  have h3 := b.code_lt
  have he : encode (.dmul r d a b) = [enc1 0 0x28 r.code d.code a.code b.code] := rfl
  have hf : Fits1 0 0x28 r.code d.code a.code b.code := by
    constructor
    iterate 6 (first | omega | (omega))
  rw [he]
  refine decode_enc1 hf (by decide) (by decide) [] (.dmul r d a b) ?_ hw
  have e (m d a b : Nat) : decL1 0x28 m d a b = (do some (.dmul (← rndOf m) (← lspecOf d) (← lspecOf a) (← lspecOf b))) := by
    rfl
  rw [if_pos (by decide), if_pos rfl, e _ _ _ _]
  simp [cmpD_lt, toBool_low, guard]

theorem dcmp (c : FCond) (n : Fin 8) (a : LSpec) (b : LSpec) : Statement (.dcmp c n a b) := by
  intro _ hw
  have h0 := c.code_lt
  have h1 := n.isLt
  have h2 := a.code_lt
  have h3 := b.code_lt
  have he : encode (.dcmp c n a b) = [enc1 0 0x29 c.code n.val a.code b.code] := rfl
  have hf : Fits1 0 0x29 c.code n.val a.code b.code := by
    constructor
    iterate 6 (first | omega | (omega))
  rw [he]
  refine decode_enc1 hf (by decide) (by decide) [] (.dcmp c n a b) ?_ hw
  have e (m d a b : Nat) : decL1 0x29 m d a b = (do some (.dcmp (← fcondOf m) (← finOf 8 d) (← lspecOf a) (← lspecOf b))) := by
    rfl
  rw [if_pos (by decide), if_pos rfl, e _ _ _ _]
  simp [cmpD_lt, toBool_low, guard]

theorem exit : Statement (.exit) := by
  intro _ hw
  have he : encode (.exit ) = [enc1 0 0x57 0 0 0 0] := rfl
  have hf : Fits1 0 0x57 0 0 0 0 := by
    constructor
    iterate 6 (first | omega | (omega))
  rw [he]
  refine decode_enc1 hf (by decide) (by decide) [] (.exit ) ?_ hw
  have e (m d a b : Nat) : decL1 0x57 m d a b = (do guard (m = 0 ∧ d = 0 ∧ a = 0 ∧ b = 0); some .exit) := by
    rfl
  rw [if_pos (by decide), if_pos rfl, e _ _ _ _]
  simp [cmpD_lt, toBool_low, guard]

theorem fadd (r : Rnd) (d : LSpec) (a : LSpec) (b : LSpec) : Statement (.fadd r d a b) := by
  intro _ hw
  have h0 := r.code_lt
  have h1 := d.code_lt
  have h2 := a.code_lt
  have h3 := b.code_lt
  have he : encode (.fadd r d a b) = [enc1 0 0x20 r.code d.code a.code b.code] := rfl
  have hf : Fits1 0 0x20 r.code d.code a.code b.code := by
    constructor
    iterate 6 (first | omega | (omega))
  rw [he]
  refine decode_enc1 hf (by decide) (by decide) [] (.fadd r d a b) ?_ hw
  have e (m d a b : Nat) : decL1 0x20 m d a b = (do some (.fadd (← rndOf m) (← lspecOf d) (← lspecOf a) (← lspecOf b))) := by
    rfl
  rw [if_pos (by decide), if_pos rfl, e _ _ _ _]
  simp [cmpD_lt, toBool_low, guard]

theorem fsub (r : Rnd) (d : LSpec) (a : LSpec) (b : LSpec) : Statement (.fsub r d a b) := by
  intro _ hw
  have h0 := r.code_lt
  have h1 := d.code_lt
  have h2 := a.code_lt
  have h3 := b.code_lt
  have he : encode (.fsub r d a b) = [enc1 0 0x21 r.code d.code a.code b.code] := rfl
  have hf : Fits1 0 0x21 r.code d.code a.code b.code := by
    constructor
    iterate 6 (first | omega | (omega))
  rw [he]
  refine decode_enc1 hf (by decide) (by decide) [] (.fsub r d a b) ?_ hw
  have e (m d a b : Nat) : decL1 0x21 m d a b = (do some (.fsub (← rndOf m) (← lspecOf d) (← lspecOf a) (← lspecOf b))) := by
    rfl
  rw [if_pos (by decide), if_pos rfl, e _ _ _ _]
  simp [cmpD_lt, toBool_low, guard]

theorem fmul (r : Rnd) (d : LSpec) (a : LSpec) (b : LSpec) : Statement (.fmul r d a b) := by
  intro _ hw
  have h0 := r.code_lt
  have h1 := d.code_lt
  have h2 := a.code_lt
  have h3 := b.code_lt
  have he : encode (.fmul r d a b) = [enc1 0 0x22 r.code d.code a.code b.code] := rfl
  have hf : Fits1 0 0x22 r.code d.code a.code b.code := by
    constructor
    iterate 6 (first | omega | (omega))
  rw [he]
  refine decode_enc1 hf (by decide) (by decide) [] (.fmul r d a b) ?_ hw
  have e (m d a b : Nat) : decL1 0x22 m d a b = (do some (.fmul (← rndOf m) (← lspecOf d) (← lspecOf a) (← lspecOf b))) := by
    rfl
  rw [if_pos (by decide), if_pos rfl, e _ _ _ _]
  simp [cmpD_lt, toBool_low, guard]

theorem fcmp (c : FCond) (n : Fin 8) (a : LSpec) (b : LSpec) : Statement (.fcmp c n a b) := by
  intro _ hw
  have h0 := c.code_lt
  have h1 := n.isLt
  have h2 := a.code_lt
  have h3 := b.code_lt
  have he : encode (.fcmp c n a b) = [enc1 0 0x25 c.code n.val a.code b.code] := rfl
  have hf : Fits1 0 0x25 c.code n.val a.code b.code := by
    constructor
    iterate 6 (first | omega | (omega))
  rw [he]
  refine decode_enc1 hf (by decide) (by decide) [] (.fcmp c n a b) ?_ hw
  have e (m d a b : Nat) : decL1 0x25 m d a b = (do some (.fcmp (← fcondOf m) (← finOf 8 d) (← lspecOf a) (← lspecOf b))) := by
    rfl
  rw [if_pos (by decide), if_pos rfl, e _ _ _ _]
  simp [cmpD_lt, toBool_low, guard]

theorem fence (o : Ord4) (sc : Scope) : Statement (.fence o sc) := by
  intro _ hw
  have h0 := o.code_lt
  have h1 := sc.code_lt
  have he : encode (.fence o sc) = [enc1 0 0x51 o.code sc.code 0 0] := rfl
  have hf : Fits1 0 0x51 o.code sc.code 0 0 := by
    constructor
    iterate 6 (first | omega | (omega))
  rw [he]
  refine decode_enc1 hf (by decide) (by decide) [] (.fence o sc) ?_ hw
  have e (m d a b : Nat) : decL1 0x51 m d a b = (do guard (a = 0 ∧ b = 0); some (.fence (← ordOf m) (← scopeOf d))) := by
    rfl
  rw [if_pos (by decide), if_pos rfl, e _ _ _ _]
  simp [cmpD_lt, toBool_low, guard]

theorem fmax (d : LSpec) (a : LSpec) (b : LSpec) : Statement (.fmax d a b) := by
  intro _ hw
  have h0 := d.code_lt
  have h1 := a.code_lt
  have h2 := b.code_lt
  have he : encode (.fmax d a b) = [enc1 0 0x24 0 d.code a.code b.code] := rfl
  have hf : Fits1 0 0x24 0 d.code a.code b.code := by
    constructor
    iterate 6 (first | omega | (omega))
  rw [he]
  refine decode_enc1 hf (by decide) (by decide) [] (.fmax d a b) ?_ hw
  have e (m d a b : Nat) : decL1 0x24 m d a b = (do guard (m = 0); some (.fmax (← lspecOf d) (← lspecOf a) (← lspecOf b))) := by
    rfl
  rw [if_pos (by decide), if_pos rfl, e _ _ _ _]
  simp [cmpD_lt, toBool_low, guard]

theorem fmin (d : LSpec) (a : LSpec) (b : LSpec) : Statement (.fmin d a b) := by
  intro _ hw
  have h0 := d.code_lt
  have h1 := a.code_lt
  have h2 := b.code_lt
  have he : encode (.fmin d a b) = [enc1 0 0x23 0 d.code a.code b.code] := rfl
  have hf : Fits1 0 0x23 0 d.code a.code b.code := by
    constructor
    iterate 6 (first | omega | (omega))
  rw [he]
  refine decode_enc1 hf (by decide) (by decide) [] (.fmin d a b) ?_ hw
  have e (m d a b : Nat) : decL1 0x23 m d a b = (do guard (m = 0); some (.fmin (← lspecOf d) (← lspecOf a) (← lspecOf b))) := by
    rfl
  rw [if_pos (by decide), if_pos rfl, e _ _ _ _]
  simp [cmpD_lt, toBool_low, guard]

theorem frnd (r : Rnd) (d : LSpec) (b : LSpec) : Statement (.frnd r d b) := by
  intro _ hw
  have h0 := r.code_lt
  have h1 := d.code_lt
  have h2 := b.code_lt
  have he : encode (.frnd r d b) = [enc1 0 0x26 r.code d.code 0 b.code] := rfl
  have hf : Fits1 0 0x26 r.code d.code 0 b.code := by
    constructor
    iterate 6 (first | omega | (omega))
  rw [he]
  refine decode_enc1 hf (by decide) (by decide) [] (.frnd r d b) ?_ hw
  have e (m d a b : Nat) : decL1 0x26 m d a b = (do guard (a = 0); some (.frnd (← rndOf m) (← lspecOf d) (← lspecOf b))) := by
    rfl
  rw [if_pos (by decide), if_pos rfl, e _ _ _ _]
  simp [cmpD_lt, toBool_low, guard]

theorem gang (b : USpec) : Statement (.gang b) := by
  intro _ hw
  have h0 := b.code_lt
  have he : encode (.gang b) = [enc1 1 0x21 0 0 0 b.code] := rfl
  have hf : Fits1 1 0x21 0 0 0 b.code := by
    constructor
    iterate 6 (first | omega | (omega))
  rw [he]
  refine decode_enc1 hf (by decide) (by decide) [] (.gang b) ?_ hw
  have e (m d a b : Nat) : decU1 0x21 m d a b = (do guard (m = 0 ∧ d = 0 ∧ a = 0); some (.gang (← uspecOf b))) := by
    rfl
  rw [if_pos (by decide), if_neg (by decide), e _ _ _ _]
  simp [cmpD_lt, toBool_low, guard]

theorem iabs (sat : Bool) (ty : ITy) (d : LSpec) (b : LSpec) : Statement (.iabs sat ty d b) := by
  intro _ hw
  have h0 := ofBool_lt sat
  have h1 := ty.code_lt
  have h2 := d.code_lt
  have h3 := b.code_lt
  have he : encode (.iabs sat ty d b) = [enc1 0 0x06 (modI sat ty) d.code 0 b.code] := rfl
  have hf : Fits1 0 0x06 (modI sat ty) d.code 0 b.code := by
    constructor
    iterate 6 (first | omega | (simp only [modI, modB, cmpD]; omega))
  rw [he]
  refine decode_enc1 hf (by decide) (by decide) [] (.iabs sat ty d b) ?_ hw
  have e (sat : Bool) (m d a b : Nat) (hs : sat = toBool (m / 4)) : decL1 0x06 m d a b = (do guard (a = 0); some (.iabs sat (← ityOf (m % 4)) (← lspecOf d) (← lspecOf b))) := by
    subst hs; rfl
  rw [if_pos (by decide), if_pos rfl, e _ _ _ _ _ rfl]
  have ht : ty.inMod = true := by simp only [Instr.wf, Bool.and_eq_true] at hw; tauto
  simp [ht, cmpD_lt, toBool_low, guard]

theorem iadd (sat : Bool) (ty : ITy) (d : LSpec) (a : LSpec) (b : LSpec) : Statement (.iadd sat ty
    d a b) := by
  intro _ hw
  have h0 := ofBool_lt sat
  have h1 := ty.code_lt
  have h2 := d.code_lt
  have h3 := a.code_lt
  have h4 := b.code_lt
  have he : encode (.iadd sat ty d a b) = [enc1 0 0x00 (modI sat ty) d.code a.code b.code] := rfl
  have hf : Fits1 0 0x00 (modI sat ty) d.code a.code b.code := by
    constructor
    iterate 6 (first | omega | (simp only [modI, modB, cmpD]; omega))
  rw [he]
  refine decode_enc1 hf (by decide) (by decide) [] (.iadd sat ty d a b) ?_ hw
  have e (sat : Bool) (m d a b : Nat) (hs : sat = toBool (m / 4)) : decL1 0x00 m d a b = (do some (.iadd sat (← ityOf (m % 4)) (← lspecOf d) (← lspecOf a) (← lspecOf b))) := by
    subst hs; rfl
  rw [if_pos (by decide), if_pos rfl, e _ _ _ _ _ rfl]
  have ht : ty.inMod = true := by simp only [Instr.wf, Bool.and_eq_true] at hw; tauto
  simp [ht, cmpD_lt, toBool_low, guard]

theorem isub (sat : Bool) (ty : ITy) (d : LSpec) (a : LSpec) (b : LSpec) : Statement (.isub sat ty
    d a b) := by
  intro _ hw
  have h0 := ofBool_lt sat
  have h1 := ty.code_lt
  have h2 := d.code_lt
  have h3 := a.code_lt
  have h4 := b.code_lt
  have he : encode (.isub sat ty d a b) = [enc1 0 0x01 (modI sat ty) d.code a.code b.code] := rfl
  have hf : Fits1 0 0x01 (modI sat ty) d.code a.code b.code := by
    constructor
    iterate 6 (first | omega | (simp only [modI, modB, cmpD]; omega))
  rw [he]
  refine decode_enc1 hf (by decide) (by decide) [] (.isub sat ty d a b) ?_ hw
  have e (sat : Bool) (m d a b : Nat) (hs : sat = toBool (m / 4)) : decL1 0x01 m d a b = (do some (.isub sat (← ityOf (m % 4)) (← lspecOf d) (← lspecOf a) (← lspecOf b))) := by
    subst hs; rfl
  rw [if_pos (by decide), if_pos rfl, e _ _ _ _ _ rfl]
  have ht : ty.inMod = true := by simp only [Instr.wf, Bool.and_eq_true] at hw; tauto
  simp [ht, cmpD_lt, toBool_low, guard]

theorem imul (sat : Bool) (ty : ITy) (d : LSpec) (a : LSpec) (b : LSpec) : Statement (.imul sat ty
    d a b) := by
  intro _ hw
  have h0 := ofBool_lt sat
  have h1 := ty.code_lt
  have h2 := d.code_lt
  have h3 := a.code_lt
  have h4 := b.code_lt
  have he : encode (.imul sat ty d a b) = [enc1 0 0x02 (modI sat ty) d.code a.code b.code] := rfl
  have hf : Fits1 0 0x02 (modI sat ty) d.code a.code b.code := by
    constructor
    iterate 6 (first | omega | (simp only [modI, modB, cmpD]; omega))
  rw [he]
  refine decode_enc1 hf (by decide) (by decide) [] (.imul sat ty d a b) ?_ hw
  have e (sat : Bool) (m d a b : Nat) (hs : sat = toBool (m / 4)) : decL1 0x02 m d a b = (do some (.imul sat (← ityOf (m % 4)) (← lspecOf d) (← lspecOf a) (← lspecOf b))) := by
    subst hs; rfl
  rw [if_pos (by decide), if_pos rfl, e _ _ _ _ _ rfl]
  have ht : ty.inMod = true := by simp only [Instr.wf, Bool.and_eq_true] at hw; tauto
  simp [ht, cmpD_lt, toBool_low, guard]

theorem imulhi (ty : ITy) (d : LSpec) (a : LSpec) (b : LSpec) : Statement (.imulhi ty d a b) := by
  intro _ hw
  have h0 := ty.code_lt
  have h1 := d.code_lt
  have h2 := a.code_lt
  have h3 := b.code_lt
  have he : encode (.imulhi ty d a b) = [enc1 0 0x03 ty.code d.code a.code b.code] := rfl
  have hf : Fits1 0 0x03 ty.code d.code a.code b.code := by
    constructor
    iterate 6 (first | omega | (omega))
  rw [he]
  refine decode_enc1 hf (by decide) (by decide) [] (.imulhi ty d a b) ?_ hw
  have e (m d a b : Nat) : decL1 0x03 m d a b = (do some (.imulhi (← ityOf m) (← lspecOf d) (← lspecOf a) (← lspecOf b))) := by
    rfl
  rw [if_pos (by decide), if_pos rfl, e _ _ _ _]
  have ht : ty.inMod = true := by simp only [Instr.wf, Bool.and_eq_true] at hw; tauto
  simp [ht, cmpD_lt, toBool_low, guard]

theorem imin (ty : ITy) (d : LSpec) (a : LSpec) (b : LSpec) : Statement (.imin ty d a b) := by
  intro _ hw
  have h0 := ty.code_lt
  have h1 := d.code_lt
  have h2 := a.code_lt
  have h3 := b.code_lt
  have he : encode (.imin ty d a b) = [enc1 0 0x04 ty.code d.code a.code b.code] := rfl
  have hf : Fits1 0 0x04 ty.code d.code a.code b.code := by
    constructor
    iterate 6 (first | omega | (omega))
  rw [he]
  refine decode_enc1 hf (by decide) (by decide) [] (.imin ty d a b) ?_ hw
  have e (m d a b : Nat) : decL1 0x04 m d a b = (do some (.imin (← ityOf m) (← lspecOf d) (← lspecOf a) (← lspecOf b))) := by
    rfl
  rw [if_pos (by decide), if_pos rfl, e _ _ _ _]
  have ht : ty.inMod = true := by simp only [Instr.wf, Bool.and_eq_true] at hw; tauto
  simp [ht, cmpD_lt, toBool_low, guard]

theorem imax (ty : ITy) (d : LSpec) (a : LSpec) (b : LSpec) : Statement (.imax ty d a b) := by
  intro _ hw
  have h0 := ty.code_lt
  have h1 := d.code_lt
  have h2 := a.code_lt
  have h3 := b.code_lt
  have he : encode (.imax ty d a b) = [enc1 0 0x05 ty.code d.code a.code b.code] := rfl
  have hf : Fits1 0 0x05 ty.code d.code a.code b.code := by
    constructor
    iterate 6 (first | omega | (omega))
  rw [he]
  refine decode_enc1 hf (by decide) (by decide) [] (.imax ty d a b) ?_ hw
  have e (m d a b : Nat) : decL1 0x05 m d a b = (do some (.imax (← ityOf m) (← lspecOf d) (← lspecOf a) (← lspecOf b))) := by
    rfl
  rw [if_pos (by decide), if_pos rfl, e _ _ _ _]
  have ht : ty.inMod = true := by simp only [Instr.wf, Bool.and_eq_true] at hw; tauto
  simp [ht, cmpD_lt, toBool_low, guard]

theorem icmp (c : ICond) (w64 : Bool) (uns : Bool) (n : Fin 8) (a : LSpec) (b : LSpec) : Statement
    (.icmp c w64 uns n a b) := by
  intro _ hw
  have h0 := c.code_lt
  have h1 := ofBool_lt w64
  have h2 := ofBool_lt uns
  have h3 := n.isLt
  have h4 := a.code_lt
  have h5 := b.code_lt
  have he : encode (.icmp c w64 uns n a b) = [enc1 0 0x08 c.code (cmpD w64 uns n) a.code b.code]
      := rfl
  have hf : Fits1 0 0x08 c.code (cmpD w64 uns n) a.code b.code := by
    constructor
    iterate 6 (first | omega | (simp only [modI, modB, cmpD]; omega))
  rw [he]
  refine decode_enc1 hf (by decide) (by decide) [] (.icmp c w64 uns n a b) ?_ hw
  have e (m d a b : Nat) : decL1 0x08 m d a b = ( do
      guard (d < 32)
      some (.icmp (← icondOf m) (toBool (d / 16)) (toBool (d / 8)) (← finOf 8 (d % 8))
        (← lspecOf a) (← lspecOf b))) := by
    rfl
  rw [if_pos (by decide), if_pos rfl, e _ _ _ _]
  simp [cmpD_lt, toBool_low, guard]

theorem jdrop (n : Fin 16) : Statement (.jdrop n) := by
  intro _ hw
  have h0 := n.isLt
  have he : encode (.jdrop n) = [enc1 0 0x56 0 0 0 n.val] := rfl
  have hf : Fits1 0 0x56 0 0 0 n.val := by
    constructor
    iterate 6 (first | omega | (omega))
  rw [he]
  refine decode_enc1 hf (by decide) (by decide) [] (.jdrop n) ?_ hw
  have e (m d a b : Nat) : decL1 0x56 m d a b = (do guard (m = 0 ∧ d = 0 ∧ a = 0); some (.jdrop (← finOf 16 b))) := by
    rfl
  rw [if_pos (by decide), if_pos rfl, e _ _ _ _]
  simp [cmpD_lt, toBool_low, guard]

theorem jwait (n : Fin 16) : Statement (.jwait n) := by
  intro _ hw
  have h0 := n.isLt
  have he : encode (.jwait n) = [enc1 0 0x55 0 0 0 n.val] := rfl
  have hf : Fits1 0 0x55 0 0 0 n.val := by
    constructor
    iterate 6 (first | omega | (omega))
  rw [he]
  refine decode_enc1 hf (by decide) (by decide) [] (.jwait n) ?_ hw
  have e (m d a b : Nat) : decL1 0x55 m d a b = (do guard (m = 0 ∧ d = 0 ∧ a = 0); some (.jwait (← finOf 16 b))) := by
    rfl
  rw [if_pos (by decide), if_pos rfl, e _ _ _ _]
  simp [cmpD_lt, toBool_low, guard]

theorem launch (t : Bool) (d : USpec) (a : USpec) : Statement (.launch t d a) := by
  intro _ hw
  have h0 := ofBool_lt t
  have h1 := d.code_lt
  have h2 := a.code_lt
  have he : encode (.launch t d a) = [enc1 1 0x40 (ofBool t * 4) d.code a.code 0] := rfl
  have hf : Fits1 1 0x40 (ofBool t * 4) d.code a.code 0 := by
    constructor
    iterate 6 (first | omega | (omega))
  rw [he]
  refine decode_enc1 hf (by decide) (by decide) [] (.launch t d a) ?_ hw
  have e (hi : Bool) (m d a b : Nat) (hs : hi = toBool (m / 4)) : decU1 0x40 m d a b = (do guard (m % 4 = 0 ∧ b = 0); some (.launch hi (← uspecOf d) (← uspecOf a))) := by
    subst hs; rfl
  rw [if_pos (by decide), if_neg (by decide), e _ _ _ _ _ rfl]
  simp [cmpD_lt, toBool_low, guard]

theorem lea (zx : Bool) (sh : Fin 4) (d : LSpec) (a : LSpec) (b : LSpec) : Statement (.lea zx sh d
    a b) := by
  intro _ hw
  have h0 := ofBool_lt zx
  have h1 := sh.isLt
  have h2 := d.code_lt
  have h3 := a.code_lt
  have h4 := b.code_lt
  have he : encode (.lea zx sh d a b) = [enc1 0 0x07 (ofBool zx * 4 + sh.val) d.code a.code
      b.code] := rfl
  have hf : Fits1 0 0x07 (ofBool zx * 4 + sh.val) d.code a.code b.code := by
    constructor
    iterate 6 (first | omega | (omega))
  rw [he]
  refine decode_enc1 hf (by decide) (by decide) [] (.lea zx sh d a b) ?_ hw
  have g1 : (ofBool zx * 4 + sh.val) % 4 = sh.val := split_mod (by omega)
  have g3 : sh.val % 4 = sh.val := Nat.mod_eq_of_lt (by omega)
  have g2 : (ofBool zx * 4 + sh.val) / 4 = ofBool zx := split_div (by omega)
  have e (sat : Bool) (m d a b : Nat) (hs : sat = toBool (m / 4)) : decL1 0x07 m d a b = (do some (.lea sat (← finOf 4 (m % 4)) (← lspecOf d) (← lspecOf a) (← lspecOf b))) := by
    subst hs; rfl
  rw [if_pos (by decide), if_pos rfl, e _ _ _ _ _ rfl]
  simp only [g1, g2]
  simp [cmpD_lt, toBool_low, guard]

theorem matchLanes (w : Width) (all : Bool) (d : LSpec) (a : LSpec) : Statement (.matchLanes w all
    d a) := by
  intro _ hw
  have h0 := w.code_lt
  have h1 := ofBool_lt all
  have h2 := d.code_lt
  have h3 := a.code_lt
  have he : encode (.matchLanes w all d a) = [enc1 0 0x43 (w.code * 4 + ofBool all) d.code a.code
      0] := rfl
  have hf : Fits1 0 0x43 (w.code * 4 + ofBool all) d.code a.code 0 := by
    constructor
    iterate 6 (first | omega | (omega))
  rw [he]
  refine decode_enc1 hf (by decide) (by decide) [] (.matchLanes w all d a) ?_ hw
  have w2 : (if toBool w.code = true then Width.b64 else Width.b32) = w := by cases w <;> rfl
  have g1 : (w.code * 4 + ofBool all) % 4 = ofBool all := split_mod (by omega)
  have g3 : ofBool all % 4 = ofBool all := Nat.mod_eq_of_lt (by omega)
  have g2 : (w.code * 4 + ofBool all) / 4 = w.code := split_div (by omega)
  have e (sat : Bool) (m d a b : Nat) (hs : sat = toBool (m / 4)) : decL1 0x43 m d a b = ( do
      guard (b = 0 ∧ m % 4 < 2)
      some (.matchLanes (if sat then .b64 else .b32) (toBool m) (← lspecOf d) (← lspecOf a))) := by
    subst hs; rfl
  rw [if_pos (by decide), if_pos rfl, e _ _ _ _ _ rfl]
  simp only [g1, g2, w2]
  simp [cmpD_lt, toBool_low, guard, Nat.le_of_lt_succ h1]

theorem mfn (f : MfnFn) (d : LSpec) (b : LSpec) : Statement (.mfn f d b) := by
  intro _ hw
  have h0 := f.code_lt
  have h1 := d.code_lt
  have h2 := b.code_lt
  have he : encode (.mfn f d b) = [enc1 0 0x2E f.code d.code 0 b.code] := rfl
  have hf : Fits1 0 0x2E f.code d.code 0 b.code := by
    constructor
    iterate 6 (first | omega | (omega))
  rw [he]
  refine decode_enc1 hf (by decide) (by decide) [] (.mfn f d b) ?_ hw
  have e (m d a b : Nat) : decL1 0x2E m d a b = (do guard (a = 0); some (.mfn (← mfnOf m) (← lspecOf d) (← lspecOf b))) := by
    rfl
  rw [if_pos (by decide), if_pos rfl, e _ _ _ _]
  simp [cmpD_lt, toBool_low, guard]

theorem mov (w : Width) (d : LSpec) (b : BSrc) : Statement (.mov w d b) := by
  intro _ hw
  have h0 := w.code_lt
  have h1 := d.code_lt
  have h2 := b.code_lt
  have h3 := b.iBit_lt
  have he : encode (.mov w d b) = [enc1 0 0x13 (modB b.iBit w) d.code 0 b.code] := rfl
  have hf : Fits1 0 0x13 (modB b.iBit w) d.code 0 b.code := by
    constructor
    iterate 6 (first | omega | (simp only [modI, modB, cmpD]; omega))
  rw [he]
  refine decode_enc1 hf (by decide) (by decide) [] (.mov w d b) ?_ hw
  have e (m d a b : Nat) : decL1 0x13 m d a b = (do guard (a = 0); some (.mov (← widthOf (m % 4)) (← lspecOf d) (← bsrcOf (m / 4) b))) := by
    rfl
  rw [if_pos (by decide), if_pos rfl, e _ _ _ _]
  simp [cmpD_lt, toBool_low, guard]

theorem nop : Statement (.nop) := by
  intro _ hw
  have he : encode (.nop ) = [enc1 0 0x59 0 0 0 0] := rfl
  have hf : Fits1 0 0x59 0 0 0 0 := by
    constructor
    iterate 6 (first | omega | (omega))
  rw [he]
  refine decode_enc1 hf (by decide) (by decide) [] (.nop ) ?_ hw
  have e (m d a b : Nat) : decL1 0x59 m d a b = (do guard (m = 0 ∧ d = 0 ∧ a = 0 ∧ b = 0); some .nop) := by
    rfl
  rw [if_pos (by decide), if_pos rfl, e _ _ _ _]
  simp [cmpD_lt, toBool_low, guard]

theorem part (c : Fin 8) : Statement (.part c) := by
  intro _ hw
  have h0 := c.isLt
  have he : encode (.part c) = [enc1 1 0x20 c.val 0 0 0] := rfl
  have hf : Fits1 1 0x20 c.val 0 0 0 := by
    constructor
    iterate 6 (first | omega | (omega))
  rw [he]
  refine decode_enc1 hf (by decide) (by decide) [] (.part c) ?_ hw
  have e (m d a b : Nat) : decU1 0x20 m d a b = (do guard (d = 0 ∧ a = 0 ∧ b = 0); some (.part (← finOf 8 m))) := by
    rfl
  rw [if_pos (by decide), if_neg (by decide), e _ _ _ _]
  simp [cmpD_lt, toBool_low, guard]

theorem pkadd (bf : Bool) (r : Rnd) (d : LSpec) (a : LSpec) (b : LSpec) : Statement (.pkadd bf r d
    a b) := by
  intro _ hw
  have h0 := ofBool_lt bf
  have h1 := r.code_lt
  have h2 := d.code_lt
  have h3 := a.code_lt
  have h4 := b.code_lt
  have he : encode (.pkadd bf r d a b) = [enc1 0 0x2A (ofBool bf * 4 + r.code) d.code a.code
      b.code] := rfl
  have hf : Fits1 0 0x2A (ofBool bf * 4 + r.code) d.code a.code b.code := by
    constructor
    iterate 6 (first | omega | (omega))
  rw [he]
  refine decode_enc1 hf (by decide) (by decide) [] (.pkadd bf r d a b) ?_ hw
  have g1 : (ofBool bf * 4 + r.code) % 4 = r.code := split_mod (by omega)
  have g3 : r.code % 4 = r.code := Nat.mod_eq_of_lt (by omega)
  have g2 : (ofBool bf * 4 + r.code) / 4 = ofBool bf := split_div (by omega)
  have e (sat : Bool) (m d a b : Nat) (hs : sat = toBool (m / 4)) : decL1 0x2A m d a b = (do some (.pkadd sat (← rndOf (m % 4)) (← lspecOf d) (← lspecOf a) (← lspecOf b))) := by
    subst hs; rfl
  rw [if_pos (by decide), if_pos rfl, e _ _ _ _ _ rfl]
  simp only [g1, g2]
  simp [cmpD_lt, toBool_low, guard]

theorem pkmul (bf : Bool) (r : Rnd) (d : LSpec) (a : LSpec) (b : LSpec) : Statement (.pkmul bf r d
    a b) := by
  intro _ hw
  have h0 := ofBool_lt bf
  have h1 := r.code_lt
  have h2 := d.code_lt
  have h3 := a.code_lt
  have h4 := b.code_lt
  have he : encode (.pkmul bf r d a b) = [enc1 0 0x2B (ofBool bf * 4 + r.code) d.code a.code
      b.code] := rfl
  have hf : Fits1 0 0x2B (ofBool bf * 4 + r.code) d.code a.code b.code := by
    constructor
    iterate 6 (first | omega | (omega))
  rw [he]
  refine decode_enc1 hf (by decide) (by decide) [] (.pkmul bf r d a b) ?_ hw
  have g1 : (ofBool bf * 4 + r.code) % 4 = r.code := split_mod (by omega)
  have g3 : r.code % 4 = r.code := Nat.mod_eq_of_lt (by omega)
  have g2 : (ofBool bf * 4 + r.code) / 4 = ofBool bf := split_div (by omega)
  have e (sat : Bool) (m d a b : Nat) (hs : sat = toBool (m / 4)) : decL1 0x2B m d a b = (do some (.pkmul sat (← rndOf (m % 4)) (← lspecOf d) (← lspecOf a) (← lspecOf b))) := by
    subst hs; rfl
  rw [if_pos (by decide), if_pos rfl, e _ _ _ _ _ rfl]
  simp only [g1, g2]
  simp [cmpD_lt, toBool_low, guard]

theorem pkmin (bf : Bool) (d : LSpec) (a : LSpec) (b : LSpec) : Statement (.pkmin bf d a b) := by
  intro _ hw
  have h0 := ofBool_lt bf
  have h1 := d.code_lt
  have h2 := a.code_lt
  have h3 := b.code_lt
  have he : encode (.pkmin bf d a b) = [enc1 0 0x2C (ofBool bf * 4) d.code a.code b.code] := rfl
  have hf : Fits1 0 0x2C (ofBool bf * 4) d.code a.code b.code := by
    constructor
    iterate 6 (first | omega | (omega))
  rw [he]
  refine decode_enc1 hf (by decide) (by decide) [] (.pkmin bf d a b) ?_ hw
  have e (sat : Bool) (m d a b : Nat) (hs : sat = toBool (m / 4)) : decL1 0x2C m d a b = (do guard (m % 4 = 0); some (.pkmin sat (← lspecOf d) (← lspecOf a) (← lspecOf b))) := by
    subst hs; rfl
  rw [if_pos (by decide), if_pos rfl, e _ _ _ _ _ rfl]
  simp [cmpD_lt, toBool_low, guard]

theorem pkmax (bf : Bool) (d : LSpec) (a : LSpec) (b : LSpec) : Statement (.pkmax bf d a b) := by
  intro _ hw
  have h0 := ofBool_lt bf
  have h1 := d.code_lt
  have h2 := a.code_lt
  have h3 := b.code_lt
  have he : encode (.pkmax bf d a b) = [enc1 0 0x2D (ofBool bf * 4) d.code a.code b.code] := rfl
  have hf : Fits1 0 0x2D (ofBool bf * 4) d.code a.code b.code := by
    constructor
    iterate 6 (first | omega | (omega))
  rw [he]
  refine decode_enc1 hf (by decide) (by decide) [] (.pkmax bf d a b) ?_ hw
  have e (sat : Bool) (m d a b : Nat) (hs : sat = toBool (m / 4)) : decL1 0x2D m d a b = (do guard (m % 4 = 0); some (.pkmax sat (← lspecOf d) (← lspecOf a) (← lspecOf b))) := by
    subst hs; rfl
  rw [if_pos (by decide), if_pos rfl, e _ _ _ _ _ rfl]
  simp [cmpD_lt, toBool_low, guard]

theorem racq (b : USpec) : Statement (.racq b) := by
  intro _ hw
  have h0 := b.code_lt
  have he : encode (.racq b) = [enc1 0 0x52 0 0 0 b.code] := rfl
  have hf : Fits1 0 0x52 0 0 0 b.code := by
    constructor
    iterate 6 (first | omega | (omega))
  rw [he]
  refine decode_enc1 hf (by decide) (by decide) [] (.racq b) ?_ hw
  have e (m d a b : Nat) : decL1 0x52 m d a b = (do guard (m = 0 ∧ d = 0 ∧ a = 0); some (.racq (← uspecOf b))) := by
    rfl
  rw [if_pos (by decide), if_pos rfl, e _ _ _ _]
  simp [cmpD_lt, toBool_low, guard]

theorem rdctl (d : USpec) (r : CtlReg) : Statement (.rdctl d r) := by
  intro _ hw
  have h0 := d.code_lt
  have h1 := r.code_lt
  have he : encode (.rdctl d r) = [enc1 1 0x42 0 d.code 0 r.code] := rfl
  have hf : Fits1 1 0x42 0 d.code 0 r.code := by
    constructor
    iterate 6 (first | omega | (omega))
  rw [he]
  refine decode_enc1 hf (by decide) (by decide) [] (.rdctl d r) ?_ hw
  have e (m d a b : Nat) : decU1 0x42 m d a b = (do guard (m = 0 ∧ a = 0); some (.rdctl (← uspecOf d) (← ctlOf b))) := by
    rfl
  rw [if_pos (by decide), if_neg (by decide), e _ _ _ _]
  simp [cmpD_lt, toBool_low, guard]

theorem wrctl (r : CtlReg) (a : USpec) : Statement (.wrctl r a) := by
  intro _ hw
  have h0 := r.code_lt
  have h1 := a.code_lt
  have he : encode (.wrctl r a) = [enc1 1 0x43 0 0 a.code r.code] := rfl
  have hf : Fits1 1 0x43 0 0 a.code r.code := by
    constructor
    iterate 6 (first | omega | (omega))
  rw [he]
  refine decode_enc1 hf (by decide) (by decide) [] (.wrctl r a) ?_ hw
  have e (m d a b : Nat) : decU1 0x43 m d a b = (do guard (m = 0 ∧ d = 0); some (.wrctl (← ctlOf b) (← uspecOf a))) := by
    rfl
  rw [if_pos (by decide), if_neg (by decide), e _ _ _ _]
  simp [cmpD_lt, toBool_low, guard]

theorem rds (d : LSpec) (sp : Special) : Statement (.rds d sp) := by
  intro _ hw
  have h0 := d.code_lt
  have h1 := sp.code_lt
  have he : encode (.rds d sp) = [enc1 0 0x14 0 d.code 0 sp.code] := rfl
  have hf : Fits1 0 0x14 0 d.code 0 sp.code := by
    constructor
    iterate 6 (first | omega | (omega))
  rw [he]
  refine decode_enc1 hf (by decide) (by decide) [] (.rds d sp) ?_ hw
  have e (m d a b : Nat) : decL1 0x14 m d a b = (do guard (m = 0 ∧ a = 0); some (.rds (← lspecOf d) (← specialOf b))) := by
    rfl
  rw [if_pos (by decide), if_pos rfl, e _ _ _ _]
  simp [cmpD_lt, toBool_low, guard]

theorem redx (op : ROp) (ty : RTy) (sat : Bool) (d : LSpec) (a : LSpec) : Statement (.redx op ty
    sat d a) := by
  intro _ hw
  have h0 := op.code_lt
  have h1 := ty.code_lt
  have h2 := ofBool_lt sat
  have h3 := d.code_lt
  have h4 := a.code_lt
  have he : encode (.redx op ty sat d a) = [enc1 0 0x41 (ofBool sat * 4) d.code a.code (op.code *
      16 + ty.code * 2)] := rfl
  have hf : Fits1 0 0x41 (ofBool sat * 4) d.code a.code (op.code * 16 + ty.code * 2) := by
    constructor
    iterate 6 (first | omega | (omega))
  rw [he]
  refine decode_enc1 hf (by decide) (by decide) [] (.redx op ty sat d a) ?_ hw
  have r1 : (op.code * 16 + ty.code * 2) / 16 = op.code := by omega
  have r2 : (op.code * 16 + ty.code * 2) / 2 % 8 = ty.code := by omega
  have r3 : (op.code * 16 + ty.code * 2) % 2 = 0 := by omega
  have e (sat : Bool) (m d a b : Nat) (hs : sat = toBool (m / 4)) : decL1 0x41 m d a b = ( do
      guard (m % 4 = 0 ∧ b % 2 = 0)
      some (.redx (← ropOf (b / 16)) (← rtyOf (b / 2 % 8)) sat (← lspecOf d) (← lspecOf a))) := by
    subst hs; rfl
  rw [if_pos (by decide), if_pos rfl, e _ _ _ _ _ rfl]
  simp only [r1, r2, r3]
  simp [cmpD_lt, toBool_low, guard]

theorem scan (op : ROp) (ty : RTy) (sat : Bool) (exc : Bool) (d : LSpec) (a : LSpec) : Statement
    (.scan op ty sat exc d a) := by
  intro _ hw
  have h0 := op.code_lt
  have h1 := ty.code_lt
  have h2 := ofBool_lt sat
  have h3 := ofBool_lt exc
  have h4 := d.code_lt
  have h5 := a.code_lt
  have he : encode (.scan op ty sat exc d a) = [enc1 0 0x42 (ofBool sat * 4) d.code a.code
      (op.code * 16 + ty.code * 2 + ofBool exc)] := rfl
  have hf : Fits1 0 0x42 (ofBool sat * 4) d.code a.code (op.code * 16 + ty.code * 2 + ofBool exc)
      := by
    constructor
    iterate 6 (first | omega | (omega))
  rw [he]
  refine decode_enc1 hf (by decide) (by decide) [] (.scan op ty sat exc d a) ?_ hw
  have r1 : (op.code * 16 + ty.code * 2 + ofBool exc) / 16 = op.code := by omega
  have r2 : (op.code * 16 + ty.code * 2 + ofBool exc) / 2 % 8 = ty.code := by omega
  have r4 : toBool (op.code * 16 + ty.code * 2 + ofBool exc) = exc := by
    cases exc <;> simp [toBool, ofBool] <;> omega
  have e (sat : Bool) (m d a b : Nat) (hs : sat = toBool (m / 4)) : decL1 0x42 m d a b = ( do
      guard (m % 4 = 0)
      some (.scan (← ropOf (b / 16)) (← rtyOf (b / 2 % 8)) sat (toBool b) (← lspecOf d)
        (← lspecOf a))) := by
    subst hs; rfl
  rw [if_pos (by decide), if_pos rfl, e _ _ _ _ _ rfl]
  simp only [r1, r2, r4]
  simp [cmpD_lt, toBool_low, guard]

theorem reggrow (n : Fin 8) (v : Fin 16) : Statement (.reggrow n v) := by
  intro _ hw
  have h0 := n.isLt
  have h1 := v.isLt
  have he : encode (.reggrow n v) = [enc1 1 0x47 0 n.val 0 v.val] := rfl
  have hf : Fits1 1 0x47 0 n.val 0 v.val := by
    constructor
    iterate 6 (first | omega | (omega))
  rw [he]
  refine decode_enc1 hf (by decide) (by decide) [] (.reggrow n v) ?_ hw
  have e (m d a b : Nat) : decU1 0x47 m d a b = (do guard (m = 0 ∧ a = 0); some (.reggrow (← finOf 8 d) (← finOf 16 b))) := by
    rfl
  rw [if_pos (by decide), if_neg (by decide), e _ _ _ _]
  simp [cmpD_lt, toBool_low, guard]

theorem regshr (v : Fin 16) : Statement (.regshr v) := by
  intro _ hw
  have h0 := v.isLt
  have he : encode (.regshr v) = [enc1 1 0x48 0 0 0 v.val] := rfl
  have hf : Fits1 1 0x48 0 0 0 v.val := by
    constructor
    iterate 6 (first | omega | (omega))
  rw [he]
  refine decode_enc1 hf (by decide) (by decide) [] (.regshr v) ?_ hw
  have e (m d a b : Nat) : decU1 0x48 m d a b = (do guard (m = 0 ∧ a = 0 ∧ d = 0); some (.regshr (← finOf 16 b))) := by
    rfl
  rw [if_pos (by decide), if_neg (by decide), e _ _ _ _]
  simp [cmpD_lt, toBool_low, guard]

theorem ret (a : LSpec) : Statement (.ret a) := by
  intro _ hw
  have h0 := a.code_lt
  have he : encode (.ret a) = [enc1 0 0x54 0 0 a.code 0] := rfl
  have hf : Fits1 0 0x54 0 0 a.code 0 := by
    constructor
    iterate 6 (first | omega | (omega))
  rw [he]
  refine decode_enc1 hf (by decide) (by decide) [] (.ret a) ?_ hw
  have e (m d a b : Nat) : decL1 0x54 m d a b = (do guard (m = 0 ∧ d = 0 ∧ b = 0); some (.ret (← lspecOf a))) := by
    rfl
  rw [if_pos (by decide), if_pos rfl, e _ _ _ _]
  simp [cmpD_lt, toBool_low, guard]

theorem sarm (n : Fin 8) (a : USpec) : Statement (.sarm n a) := by
  intro _ hw
  have h0 := n.isLt
  have h1 := a.code_lt
  have he : encode (.sarm n a) = [enc1 1 0x3A 0 0 a.code n.val] := rfl
  have hf : Fits1 1 0x3A 0 0 a.code n.val := by
    constructor
    iterate 6 (first | omega | (omega))
  rw [he]
  refine decode_enc1 hf (by decide) (by decide) [] (.sarm n a) ?_ hw
  have e (m d a b : Nat) : decU1 0x3A m d a b = (do guard (m = 0 ∧ d = 0); some (.sarm (← finOf 8 b) (← uspecOf a))) := by
    rfl
  rw [if_pos (by decide), if_neg (by decide), e _ _ _ _]
  simp [cmpD_lt, toBool_low, guard]

theorem sdis (n : Fin 8) : Statement (.sdis n) := by
  intro _ hw
  have h0 := n.isLt
  have he : encode (.sdis n) = [enc1 1 0x3B 0 0 0 n.val] := rfl
  have hf : Fits1 1 0x3B 0 0 0 n.val := by
    constructor
    iterate 6 (first | omega | (omega))
  rw [he]
  refine decode_enc1 hf (by decide) (by decide) [] (.sdis n) ?_ hw
  have e (m d a b : Nat) : decU1 0x3B m d a b = (do guard (m = 0 ∧ d = 0 ∧ a = 0); some (.sdis (← finOf 8 b))) := by
    rfl
  rw [if_pos (by decide), if_neg (by decide), e _ _ _ _]
  simp [cmpD_lt, toBool_low, guard]

theorem sel (n : Fin 8) (d : LSpec) (a : LSpec) (b : LSpec) : Statement (.sel n d a b) := by
  intro _ hw
  have h0 := n.isLt
  have h1 := d.code_lt
  have h2 := a.code_lt
  have h3 := b.code_lt
  have he : encode (.sel n d a b) = [enc1 0 0x09 n.val d.code a.code b.code] := rfl
  have hf : Fits1 0 0x09 n.val d.code a.code b.code := by
    constructor
    iterate 6 (first | omega | (omega))
  rw [he]
  refine decode_enc1 hf (by decide) (by decide) [] (.sel n d a b) ?_ hw
  have e (m d a b : Nat) : decL1 0x09 m d a b = (do some (.sel (← finOf 8 m) (← lspecOf d) (← lspecOf a) (← lspecOf b))) := by
    rfl
  rw [if_pos (by decide), if_pos rfl, e _ _ _ _]
  simp [cmpD_lt, toBool_low, guard]

theorem shl (w : Width) (d : LSpec) (a : LSpec) (b : BSrc) : Statement (.shl w d a b) := by
  intro _ hw
  have h0 := w.code_lt
  have h1 := d.code_lt
  have h2 := a.code_lt
  have h3 := b.code_lt
  have h4 := b.iBit_lt
  have he : encode (.shl w d a b) = [enc1 0 0x0D (modB b.iBit w) d.code a.code b.code] := rfl
  have hf : Fits1 0 0x0D (modB b.iBit w) d.code a.code b.code := by
    constructor
    iterate 6 (first | omega | (simp only [modI, modB, cmpD]; omega))
  rw [he]
  refine decode_enc1 hf (by decide) (by decide) [] (.shl w d a b) ?_ hw
  have e (m d a b : Nat) : decL1 0x0D m d a b = (do some (.shl (← widthOf (m % 4)) (← lspecOf d) (← lspecOf a) (← bsrcOf (m / 4) b))) := by
    rfl
  rw [if_pos (by decide), if_pos rfl, e _ _ _ _]
  simp [cmpD_lt, toBool_low, guard]

theorem shr (w : Width) (d : LSpec) (a : LSpec) (b : BSrc) : Statement (.shr w d a b) := by
  intro _ hw
  have h0 := w.code_lt
  have h1 := d.code_lt
  have h2 := a.code_lt
  have h3 := b.code_lt
  have h4 := b.iBit_lt
  have he : encode (.shr w d a b) = [enc1 0 0x0E (modB b.iBit w) d.code a.code b.code] := rfl
  have hf : Fits1 0 0x0E (modB b.iBit w) d.code a.code b.code := by
    constructor
    iterate 6 (first | omega | (simp only [modI, modB, cmpD]; omega))
  rw [he]
  refine decode_enc1 hf (by decide) (by decide) [] (.shr w d a b) ?_ hw
  have e (m d a b : Nat) : decL1 0x0E m d a b = (do some (.shr (← widthOf (m % 4)) (← lspecOf d) (← lspecOf a) (← bsrcOf (m / 4) b))) := by
    rfl
  rw [if_pos (by decide), if_pos rfl, e _ _ _ _]
  simp [cmpD_lt, toBool_low, guard]

theorem sar (w : Width) (d : LSpec) (a : LSpec) (b : BSrc) : Statement (.sar w d a b) := by
  intro _ hw
  have h0 := w.code_lt
  have h1 := d.code_lt
  have h2 := a.code_lt
  have h3 := b.code_lt
  have h4 := b.iBit_lt
  have he : encode (.sar w d a b) = [enc1 0 0x0F (modB b.iBit w) d.code a.code b.code] := rfl
  have hf : Fits1 0 0x0F (modB b.iBit w) d.code a.code b.code := by
    constructor
    iterate 6 (first | omega | (simp only [modI, modB, cmpD]; omega))
  rw [he]
  refine decode_enc1 hf (by decide) (by decide) [] (.sar w d a b) ?_ hw
  have e (m d a b : Nat) : decL1 0x0F m d a b = (do some (.sar (← widthOf (m % 4)) (← lspecOf d) (← lspecOf a) (← bsrcOf (m / 4) b))) := by
    rfl
  rw [if_pos (by decide), if_pos rfl, e _ _ _ _]
  simp [cmpD_lt, toBool_low, guard]

theorem sxpk (f : SxFmt) (d : LSpec) (a : LSpec) : Statement (.sxpk f d a) := by
  intro _ hw
  have h0 := f.code_lt
  have h1 := d.code_lt
  have h2 := a.code_lt
  have he : encode (.sxpk f d a) = [enc1 0 0x2F f.code d.code a.code 0] := rfl
  have hf : Fits1 0 0x2F f.code d.code a.code 0 := by
    constructor
    iterate 6 (first | omega | (omega))
  rw [he]
  refine decode_enc1 hf (by decide) (by decide) [] (.sxpk f d a) ?_ hw
  have e (m d a b : Nat) : decL1 0x2F m d a b = (do guard (b = 0); some (.sxpk (← sxOf m) (← lspecOf d) (← lspecOf a))) := by
    rfl
  rw [if_pos (by decide), if_pos rfl, e _ _ _ _]
  simp [cmpD_lt, toBool_low, guard]

theorem sxupk (f : SxFmt) (d : LSpec) (a : LSpec) : Statement (.sxupk f d a) := by
  intro _ hw
  have h0 := f.code_lt
  have h1 := d.code_lt
  have h2 := a.code_lt
  have he : encode (.sxupk f d a) = [enc1 0 0x30 f.code d.code a.code 0] := rfl
  have hf : Fits1 0 0x30 f.code d.code a.code 0 := by
    constructor
    iterate 6 (first | omega | (omega))
  rw [he]
  refine decode_enc1 hf (by decide) (by decide) [] (.sxupk f d a) ?_ hw
  have e (m d a b : Nat) : decL1 0x30 m d a b = (do guard (b = 0); some (.sxupk (← sxOf m) (← lspecOf d) (← lspecOf a))) := by
    rfl
  rw [if_pos (by decide), if_pos rfl, e _ _ _ _]
  simp [cmpD_lt, toBool_low, guard]

theorem tld (t : Fin 32) (a : USpec) : Statement (.tld t a) := by
  intro _ hw
  have h0 := t.isLt
  have h1 := a.code_lt
  have he : encode (.tld t a) = [enc1 1 0x30 0 t.val a.code 0] := rfl
  have hf : Fits1 1 0x30 0 t.val a.code 0 := by
    constructor
    iterate 6 (first | omega | (omega))
  rw [he]
  refine decode_enc1 hf (by decide) (by decide) [] (.tld t a) ?_ hw
  have e (m d a b : Nat) : decU1 0x30 m d a b = (do guard (m = 0 ∧ b = 0); some (.tld (← finOf 32 d) (← uspecOf a))) := by
    rfl
  rw [if_pos (by decide), if_neg (by decide), e _ _ _ _]
  simp [cmpD_lt, toBool_low, guard]

theorem tst (t : Fin 32) (a : USpec) : Statement (.tst t a) := by
  intro _ hw
  have h0 := t.isLt
  have h1 := a.code_lt
  have he : encode (.tst t a) = [enc1 1 0x31 0 t.val a.code 0] := rfl
  have hf : Fits1 1 0x31 0 t.val a.code 0 := by
    constructor
    iterate 6 (first | omega | (omega))
  rw [he]
  refine decode_enc1 hf (by decide) (by decide) [] (.tst t a) ?_ hw
  have e (m d a b : Nat) : decU1 0x31 m d a b = (do guard (m = 0 ∧ b = 0); some (.tst (← finOf 32 d) (← uspecOf a))) := by
    rfl
  rw [if_pos (by decide), if_neg (by decide), e _ _ _ _]
  simp [cmpD_lt, toBool_low, guard]

theorem tzero (t : Fin 32) : Statement (.tzero t) := by
  intro _ hw
  have h0 := t.isLt
  have he : encode (.tzero t) = [enc1 1 0x32 0 t.val 0 0] := rfl
  have hf : Fits1 1 0x32 0 t.val 0 0 := by
    constructor
    iterate 6 (first | omega | (omega))
  rw [he]
  refine decode_enc1 hf (by decide) (by decide) [] (.tzero t) ?_ hw
  have e (m d a b : Nat) : decU1 0x32 m d a b = (do guard (m = 0 ∧ a = 0 ∧ b = 0); some (.tzero (← finOf 32 d))) := by
    rfl
  rw [if_pos (by decide), if_neg (by decide), e _ _ _ _]
  simp [cmpD_lt, toBool_low, guard]

theorem twait (t : Fin 32) : Statement (.twait t) := by
  intro _ hw
  have h0 := t.isLt
  have he : encode (.twait t) = [enc1 1 0x33 0 t.val 0 0] := rfl
  have hf : Fits1 1 0x33 0 t.val 0 0 := by
    constructor
    iterate 6 (first | omega | (omega))
  rw [he]
  refine decode_enc1 hf (by decide) (by decide) [] (.twait t) ?_ hw
  have e (m d a b : Nat) : decU1 0x33 m d a b = (do guard (m = 0 ∧ a = 0 ∧ b = 0); some (.twait (← finOf 32 d))) := by
    rfl
  rw [if_pos (by decide), if_neg (by decide), e _ _ _ _]
  simp [cmpD_lt, toBool_low, guard]

theorem tstat (c : Bool) (d : USpec) (t : Fin 32) : Statement (.tstat c d t) := by
  intro _ hw
  have h0 := ofBool_lt c
  have h1 := d.code_lt
  have h2 := t.isLt
  have he : encode (.tstat c d t) = [enc1 1 0x34 (ofBool c) d.code 0 t.val] := rfl
  have hf : Fits1 1 0x34 (ofBool c) d.code 0 t.val := by
    constructor
    iterate 6 (first | omega | (omega))
  rw [he]
  refine decode_enc1 hf (by decide) (by decide) [] (.tstat c d t) ?_ hw
  have e (m d a b : Nat) : decU1 0x34 m d a b = (do guard (m < 2 ∧ a = 0); some (.tstat (toBool m) (← uspecOf d) (← finOf 32 b))) := by
    rfl
  rw [if_pos (by decide), if_neg (by decide), e _ _ _ _]
  simp [cmpD_lt, toBool_low, guard, Nat.le_of_lt_succ h0]

theorem uadd (sat : Bool) (ty : ITy) (d : USpec) (a : USpec) (b : USpec) : Statement (.uadd sat ty
    d a b) := by
  intro _ hw
  have h0 := ofBool_lt sat
  have h1 := ty.code_lt
  have h2 := d.code_lt
  have h3 := a.code_lt
  have h4 := b.code_lt
  have he : encode (.uadd sat ty d a b) = [enc1 1 0x00 (modI sat ty) d.code a.code b.code] := rfl
  have hf : Fits1 1 0x00 (modI sat ty) d.code a.code b.code := by
    constructor
    iterate 6 (first | omega | (simp only [modI, modB, cmpD]; omega))
  rw [he]
  refine decode_enc1 hf (by decide) (by decide) [] (.uadd sat ty d a b) ?_ hw
  have e (hi : Bool) (m d a b : Nat) (hs : hi = toBool (m / 4)) : decU1 0x00 m d a b = (do some (.uadd hi (← ityOf (m % 4)) (← uspecOf d) (← uspecOf a) (← uspecOf b))) := by
    subst hs; rfl
  rw [if_pos (by decide), if_neg (by decide), e _ _ _ _ _ rfl]
  have ht : ty.inMod = true := by simp only [Instr.wf, Bool.and_eq_true] at hw; tauto
  simp [ht, cmpD_lt, toBool_low, guard]

theorem usub (sat : Bool) (ty : ITy) (d : USpec) (a : USpec) (b : USpec) : Statement (.usub sat ty
    d a b) := by
  intro _ hw
  have h0 := ofBool_lt sat
  have h1 := ty.code_lt
  have h2 := d.code_lt
  have h3 := a.code_lt
  have h4 := b.code_lt
  have he : encode (.usub sat ty d a b) = [enc1 1 0x01 (modI sat ty) d.code a.code b.code] := rfl
  have hf : Fits1 1 0x01 (modI sat ty) d.code a.code b.code := by
    constructor
    iterate 6 (first | omega | (simp only [modI, modB, cmpD]; omega))
  rw [he]
  refine decode_enc1 hf (by decide) (by decide) [] (.usub sat ty d a b) ?_ hw
  have e (hi : Bool) (m d a b : Nat) (hs : hi = toBool (m / 4)) : decU1 0x01 m d a b = (do some (.usub hi (← ityOf (m % 4)) (← uspecOf d) (← uspecOf a) (← uspecOf b))) := by
    subst hs; rfl
  rw [if_pos (by decide), if_neg (by decide), e _ _ _ _ _ rfl]
  have ht : ty.inMod = true := by simp only [Instr.wf, Bool.and_eq_true] at hw; tauto
  simp [ht, cmpD_lt, toBool_low, guard]

theorem umul (sat : Bool) (ty : ITy) (d : USpec) (a : USpec) (b : USpec) : Statement (.umul sat ty
    d a b) := by
  intro _ hw
  have h0 := ofBool_lt sat
  have h1 := ty.code_lt
  have h2 := d.code_lt
  have h3 := a.code_lt
  have h4 := b.code_lt
  have he : encode (.umul sat ty d a b) = [enc1 1 0x02 (modI sat ty) d.code a.code b.code] := rfl
  have hf : Fits1 1 0x02 (modI sat ty) d.code a.code b.code := by
    constructor
    iterate 6 (first | omega | (simp only [modI, modB, cmpD]; omega))
  rw [he]
  refine decode_enc1 hf (by decide) (by decide) [] (.umul sat ty d a b) ?_ hw
  have e (hi : Bool) (m d a b : Nat) (hs : hi = toBool (m / 4)) : decU1 0x02 m d a b = (do some (.umul hi (← ityOf (m % 4)) (← uspecOf d) (← uspecOf a) (← uspecOf b))) := by
    subst hs; rfl
  rw [if_pos (by decide), if_neg (by decide), e _ _ _ _ _ rfl]
  have ht : ty.inMod = true := by simp only [Instr.wf, Bool.and_eq_true] at hw; tauto
  simp [ht, cmpD_lt, toBool_low, guard]

theorem uand (w : Width) (d : USpec) (a : USpec) (b : USrc) : Statement (.uand w d a b) := by
  intro _ hw
  have h0 := w.code_lt
  have h1 := d.code_lt
  have h2 := a.code_lt
  have h3 := b.code_lt
  have h4 := b.iBit_lt
  have he : encode (.uand w d a b) = [enc1 1 0x03 (modB b.iBit w) d.code a.code b.code] := rfl
  have hf : Fits1 1 0x03 (modB b.iBit w) d.code a.code b.code := by
    constructor
    iterate 6 (first | omega | (simp only [modI, modB, cmpD]; omega))
  rw [he]
  refine decode_enc1 hf (by decide) (by decide) [] (.uand w d a b) ?_ hw
  have e (m d a b : Nat) : decU1 0x03 m d a b = (do some (.uand (← widthOf (m % 4)) (← uspecOf d) (← uspecOf a) (← usrcOf (m / 4) b))) := by
    rfl
  rw [if_pos (by decide), if_neg (by decide), e _ _ _ _]
  simp [cmpD_lt, toBool_low, guard]

theorem uor (w : Width) (d : USpec) (a : USpec) (b : USrc) : Statement (.uor w d a b) := by
  intro _ hw
  have h0 := w.code_lt
  have h1 := d.code_lt
  have h2 := a.code_lt
  have h3 := b.code_lt
  have h4 := b.iBit_lt
  have he : encode (.uor w d a b) = [enc1 1 0x04 (modB b.iBit w) d.code a.code b.code] := rfl
  have hf : Fits1 1 0x04 (modB b.iBit w) d.code a.code b.code := by
    constructor
    iterate 6 (first | omega | (simp only [modI, modB, cmpD]; omega))
  rw [he]
  refine decode_enc1 hf (by decide) (by decide) [] (.uor w d a b) ?_ hw
  have e (m d a b : Nat) : decU1 0x04 m d a b = (do some (.uor (← widthOf (m % 4)) (← uspecOf d) (← uspecOf a) (← usrcOf (m / 4) b))) := by
    rfl
  rw [if_pos (by decide), if_neg (by decide), e _ _ _ _]
  simp [cmpD_lt, toBool_low, guard]

theorem uxor (w : Width) (d : USpec) (a : USpec) (b : USrc) : Statement (.uxor w d a b) := by
  intro _ hw
  have h0 := w.code_lt
  have h1 := d.code_lt
  have h2 := a.code_lt
  have h3 := b.code_lt
  have h4 := b.iBit_lt
  have he : encode (.uxor w d a b) = [enc1 1 0x05 (modB b.iBit w) d.code a.code b.code] := rfl
  have hf : Fits1 1 0x05 (modB b.iBit w) d.code a.code b.code := by
    constructor
    iterate 6 (first | omega | (simp only [modI, modB, cmpD]; omega))
  rw [he]
  refine decode_enc1 hf (by decide) (by decide) [] (.uxor w d a b) ?_ hw
  have e (m d a b : Nat) : decU1 0x05 m d a b = (do some (.uxor (← widthOf (m % 4)) (← uspecOf d) (← uspecOf a) (← usrcOf (m / 4) b))) := by
    rfl
  rw [if_pos (by decide), if_neg (by decide), e _ _ _ _]
  simp [cmpD_lt, toBool_low, guard]

theorem ushl (w : Width) (d : USpec) (a : USpec) (b : USrc) : Statement (.ushl w d a b) := by
  intro _ hw
  have h0 := w.code_lt
  have h1 := d.code_lt
  have h2 := a.code_lt
  have h3 := b.code_lt
  have h4 := b.iBit_lt
  have he : encode (.ushl w d a b) = [enc1 1 0x06 (modB b.iBit w) d.code a.code b.code] := rfl
  have hf : Fits1 1 0x06 (modB b.iBit w) d.code a.code b.code := by
    constructor
    iterate 6 (first | omega | (simp only [modI, modB, cmpD]; omega))
  rw [he]
  refine decode_enc1 hf (by decide) (by decide) [] (.ushl w d a b) ?_ hw
  have e (m d a b : Nat) : decU1 0x06 m d a b = (do some (.ushl (← widthOf (m % 4)) (← uspecOf d) (← uspecOf a) (← usrcOf (m / 4) b))) := by
    rfl
  rw [if_pos (by decide), if_neg (by decide), e _ _ _ _]
  simp [cmpD_lt, toBool_low, guard]

theorem ushr (w : Width) (d : USpec) (a : USpec) (b : USrc) : Statement (.ushr w d a b) := by
  intro _ hw
  have h0 := w.code_lt
  have h1 := d.code_lt
  have h2 := a.code_lt
  have h3 := b.code_lt
  have h4 := b.iBit_lt
  have he : encode (.ushr w d a b) = [enc1 1 0x07 (modB b.iBit w) d.code a.code b.code] := rfl
  have hf : Fits1 1 0x07 (modB b.iBit w) d.code a.code b.code := by
    constructor
    iterate 6 (first | omega | (simp only [modI, modB, cmpD]; omega))
  rw [he]
  refine decode_enc1 hf (by decide) (by decide) [] (.ushr w d a b) ?_ hw
  have e (m d a b : Nat) : decU1 0x07 m d a b = (do some (.ushr (← widthOf (m % 4)) (← uspecOf d) (← uspecOf a) (← usrcOf (m / 4) b))) := by
    rfl
  rw [if_pos (by decide), if_neg (by decide), e _ _ _ _]
  simp [cmpD_lt, toBool_low, guard]

theorem usar (w : Width) (d : USpec) (a : USpec) (b : USrc) : Statement (.usar w d a b) := by
  intro _ hw
  have h0 := w.code_lt
  have h1 := d.code_lt
  have h2 := a.code_lt
  have h3 := b.code_lt
  have h4 := b.iBit_lt
  have he : encode (.usar w d a b) = [enc1 1 0x08 (modB b.iBit w) d.code a.code b.code] := rfl
  have hf : Fits1 1 0x08 (modB b.iBit w) d.code a.code b.code := by
    constructor
    iterate 6 (first | omega | (simp only [modI, modB, cmpD]; omega))
  rw [he]
  refine decode_enc1 hf (by decide) (by decide) [] (.usar w d a b) ?_ hw
  have e (m d a b : Nat) : decU1 0x08 m d a b = (do some (.usar (← widthOf (m % 4)) (← uspecOf d) (← uspecOf a) (← usrcOf (m / 4) b))) := by
    rfl
  rw [if_pos (by decide), if_neg (by decide), e _ _ _ _]
  simp [cmpD_lt, toBool_low, guard]

theorem umov (w : Width) (d : USpec) (b : USrc) : Statement (.umov w d b) := by
  intro _ hw
  have h0 := w.code_lt
  have h1 := d.code_lt
  have h2 := b.code_lt
  have h3 := b.iBit_lt
  have he : encode (.umov w d b) = [enc1 1 0x09 (modB b.iBit w) d.code 0 b.code] := rfl
  have hf : Fits1 1 0x09 (modB b.iBit w) d.code 0 b.code := by
    constructor
    iterate 6 (first | omega | (simp only [modI, modB, cmpD]; omega))
  rw [he]
  refine decode_enc1 hf (by decide) (by decide) [] (.umov w d b) ?_ hw
  have e (m d a b : Nat) : decU1 0x09 m d a b = (do guard (a = 0); some (.umov (← widthOf (m % 4)) (← uspecOf d) (← usrcOf (m / 4) b))) := by
    rfl
  rw [if_pos (by decide), if_neg (by decide), e _ _ _ _]
  simp [cmpD_lt, toBool_low, guard]

theorem ucmp (c : ICond) (w64 : Bool) (uns : Bool) (n : Fin 8) (a : USpec) (b : USpec) : Statement
    (.ucmp c w64 uns n a b) := by
  intro _ hw
  have h0 := c.code_lt
  have h1 := ofBool_lt w64
  have h2 := ofBool_lt uns
  have h3 := n.isLt
  have h4 := a.code_lt
  have h5 := b.code_lt
  have he : encode (.ucmp c w64 uns n a b) = [enc1 1 0x0A c.code (cmpD w64 uns n) a.code b.code]
      := rfl
  have hf : Fits1 1 0x0A c.code (cmpD w64 uns n) a.code b.code := by
    constructor
    iterate 6 (first | omega | (simp only [modI, modB, cmpD]; omega))
  rw [he]
  refine decode_enc1 hf (by decide) (by decide) [] (.ucmp c w64 uns n a b) ?_ hw
  have e (m d a b : Nat) : decU1 0x0A m d a b = ( do
      guard (d < 32)
      some (.ucmp (← icondOf m) (toBool (d / 16)) (toBool (d / 8)) (← finOf 8 (d % 8))
        (← uspecOf a) (← uspecOf b))) := by
    rfl
  rw [if_pos (by decide), if_neg (by decide), e _ _ _ _]
  simp [cmpD_lt, toBool_low, guard]

theorem usel (n : Fin 8) (d : USpec) (a : USpec) (b : USpec) : Statement (.usel n d a b) := by
  intro _ hw
  have h0 := n.isLt
  have h1 := d.code_lt
  have h2 := a.code_lt
  have h3 := b.code_lt
  have he : encode (.usel n d a b) = [enc1 1 0x0B n.val d.code a.code b.code] := rfl
  have hf : Fits1 1 0x0B n.val d.code a.code b.code := by
    constructor
    iterate 6 (first | omega | (omega))
  rw [he]
  refine decode_enc1 hf (by decide) (by decide) [] (.usel n d a b) ?_ hw
  have e (m d a b : Nat) : decU1 0x0B m d a b = (do some (.usel (← finOf 8 m) (← uspecOf d) (← uspecOf a) (← uspecOf b))) := by
    rfl
  rw [if_pos (by decide), if_neg (by decide), e _ _ _ _]
  simp [cmpD_lt, toBool_low, guard]

theorem ulea (zx : Bool) (sh : Fin 4) (d : USpec) (a : USpec) (b : USpec) : Statement (.ulea zx sh
    d a b) := by
  intro _ hw
  have h0 := ofBool_lt zx
  have h1 := sh.isLt
  have h2 := d.code_lt
  have h3 := a.code_lt
  have h4 := b.code_lt
  have he : encode (.ulea zx sh d a b) = [enc1 1 0x0C (ofBool zx * 4 + sh.val) d.code a.code
      b.code] := rfl
  have hf : Fits1 1 0x0C (ofBool zx * 4 + sh.val) d.code a.code b.code := by
    constructor
    iterate 6 (first | omega | (omega))
  rw [he]
  refine decode_enc1 hf (by decide) (by decide) [] (.ulea zx sh d a b) ?_ hw
  have g1 : (ofBool zx * 4 + sh.val) % 4 = sh.val := split_mod (by omega)
  have g3 : sh.val % 4 = sh.val := Nat.mod_eq_of_lt (by omega)
  have g2 : (ofBool zx * 4 + sh.val) / 4 = ofBool zx := split_div (by omega)
  have e (hi : Bool) (m d a b : Nat) (hs : hi = toBool (m / 4)) : decU1 0x0C m d a b = (do some (.ulea hi (← finOf 4 (m % 4)) (← uspecOf d) (← uspecOf a) (← uspecOf b))) := by
    subst hs; rfl
  rw [if_pos (by decide), if_neg (by decide), e _ _ _ _ _ rfl]
  simp only [g1, g2]
  simp [cmpD_lt, toBool_low, guard]

theorem wsync (b : USpec) : Statement (.wsync b) := by
  intro _ hw
  have h0 := b.code_lt
  have he : encode (.wsync b) = [enc1 1 0x22 0 0 0 b.code] := rfl
  have hf : Fits1 1 0x22 0 0 0 b.code := by
    constructor
    iterate 6 (first | omega | (omega))
  rw [he]
  refine decode_enc1 hf (by decide) (by decide) [] (.wsync b) ?_ hw
  have e (m d a b : Nat) : decU1 0x22 m d a b = (do guard (m = 0 ∧ d = 0 ∧ a = 0); some (.wsync (← uspecOf b))) := by
    rfl
  rw [if_pos (by decide), if_neg (by decide), e _ _ _ _]
  simp [cmpD_lt, toBool_low, guard]

theorem yield : Statement (.yield) := by
  intro _ hw
  have he : encode (.yield ) = [enc1 0 0x58 0 0 0 0] := rfl
  have hf : Fits1 0 0x58 0 0 0 0 := by
    constructor
    iterate 6 (first | omega | (omega))
  rw [he]
  refine decode_enc1 hf (by decide) (by decide) [] (.yield ) ?_ hw
  have e (m d a b : Nat) : decL1 0x58 m d a b = (do guard (m = 0 ∧ d = 0 ∧ a = 0 ∧ b = 0); some .yield) := by
    rfl
  rw [if_pos (by decide), if_pos rfl, e _ _ _ _]
  simp [cmpD_lt, toBool_low, guard]

/-- What the decoder makes of an encoded wide form. -/

theorem decode_wide {op m d a b ub ty low iw imm : Nat} (hf : Fits1 0 0x60 m d a b) (ho : op < 128)
    (hu : ub < 2) (ht : ty < 16) (hl : low = iw * 2 ^ 19 + imm) (hi : iw < 2) (hm : imm < 2 ^ 16)
    (o : WideOp) (hd : decWide op m d a b ub ty iw imm = some o) (hw : o.wf = true) :
    decode [enc1 0 0x60 m d a b, enc2 op ub (ty * 2 ^ 20 + low)] = .ok (.wideForm o) := by
  have hv : (enc2 op ub (ty * 2 ^ 20 + low)).toNat = op * 2 ^ 25 + ub * 2 ^ 24 + (ty * 2 ^ 20 +
      low) :=
    enc2_toNat ho hu (by omega)
  refine decode_enc1 hf (by decide) (by decide) [enc2 op ub (ty * 2 ^ 20 + low)] (.wideForm o) ?_
    (by simpa [Instr.wf] using hw)
  simp only [List.getD_cons_zero]
  generalize (enc2 op ub (ty * 2 ^ 20 + low)).toNat = W at *
  have f0 : W / 2 ^ 25 = op := by omega
  have f1 : W / 2 ^ 24 % 2 = ub := by omega
  have f2 : fld W 18 16 = 0 := by simp only [fld]; omega
  have f3 : fld W 23 20 = ty := by simp only [fld]; omega
  have f4 : fld W 19 19 = iw := by simp only [fld]; omega
  have f5 : W % 2 ^ 16 = imm := by omega
  have e (m d a b w : Nat) : decL2 0x60 m d a b w = (do
      guard (fld w 18 16 = 0)
      some (.wideForm (← decWide (w / 2 ^ 25) m d a b (w / 2 ^ 24 % 2) (fld w 23 20) (fld w 19 19)
        (w % 2 ^ 16)))) := rfl
  rw [if_neg (by decide), if_pos (by decide), if_pos (by decide), e]
  simp only [f0, f1, f2, f3, f4, f5, hd]
  simp [guard]

/-- Place of a wide immediate: IW and imm16. -/
def iwOf : WSrc → Nat | .imm _ => 1 | _ => 0
def imm16Of : WSrc → Nat | .imm i => i.toNat | _ => 0

theorem encLow_eq (b : WSrc) : b.encLow = iwOf b * 2 ^ 19 + imm16Of b := by
  cases b with
  | imm i => simp only [WSrc.encLow, iwOf, imm16Of, Nat.one_mul]
  | _ => simp only [WSrc.encLow, iwOf, imm16Of, Nat.zero_mul]

theorem iwOf_lt (b : WSrc) : iwOf b < 2 := by cases b <;> simp [iwOf]

theorem imm16Of_lt (b : WSrc) : imm16Of b < 2 ^ 16 := by
  cases b with
  | imm i => exact i.isLt
  | _ => simp [imm16Of]

theorem encUb_lt (b : WSrc) : b.encUb < 2 := by cases b <;> simp [WSrc.encUb]

theorem encI_lt (b : WSrc) : b.encI < 2 := by cases b <;> simp [WSrc.encI]

theorem encB_lt (b : WSrc) : b.encB < 128 := by
  cases b with
  | reg r => exact r.code_lt
  | uni u => exact u.code_lt
  | imm i => simp only [WSrc.encB]; omega
  | imm7 i => exact i.isLt

theorem wsrcOf_enc (b : WSrc) (h : b.encI = 0) :
    wsrcOf (iwOf b) b.encUb b.encB (imm16Of b) = some b := by
  cases b with
  | imm7 i => exact absurd h (by simp [WSrc.encI])
  | _ => simp [wsrcOf, iwOf, WSrc.encUb, WSrc.encB, imm16Of]

theorem wsrcB_enc (b : WSrc) :
    wsrcB b.encI (iwOf b) b.encUb b.encB (imm16Of b) = some b := by
  cases b <;> simp [wsrcB, wsrcOf, iwOf, WSrc.encUb, WSrc.encB, imm16Of, WSrc.encI]

theorem encI_of_wf {b : WSrc} {w : Bool} (h : b.wf w = true) : b.encI = 0 := by
  cases b with
  | imm7 i => exact absurd h (by simp [WSrc.wf])
  | _ => rfl

theorem wideTy_enc (s : Bool) (ty : ITy) : wideTy (modI s ty) ty.wideCode = some ty := by
  cases ty <;> cases s <;> rfl

theorem wide_src {op m d a ty : Nat} (b : WSrc) (hm : m < 8) (hd : d < 128) (ha : a < 128)
    (ho : op < 128) (ht : ty < 16) (o : WideOp)
    (h : decWide op m d a b.encB b.encUb ty (iwOf b) (imm16Of b) = some o) (hw : o.wf = true) :
    decode (encWide op m d a b ty) = .ok (.wideForm o) :=
  decode_wide ⟨by decide, by decide, hm, hd, ha, encB_lt b⟩ ho (encUb_lt b) ht (encLow_eq b) (iwOf_lt b)
    (imm16Of_lt b) o h hw

theorem wide_lu {op m d a : Nat} (b : LUSrc) (hm : m < 8) (hd : d < 128) (ha : a < 128)
    (ho : op < 128) (o : WideOp)
    (h : decWide op m d a b.code b.ubBit 0 0 0 = some o) (hw : o.wf = true) :
    decode (encWideLU op m d a b) = .ok (.wideForm o) :=
  decode_wide (ty := 0) (low := 0) (iw := 0) (imm := 0) ⟨by decide, by decide, hm, hd, ha, b.code_lt⟩ ho
    b.ubBit_lt (by decide) rfl (by decide) (by decide) o h hw

theorem w_add (sat : Bool) (ty : ITy) (d : LSpec) (a : LSpec) (b : WSrc) (hw : (.int .add sat ty d
    a b : WideOp).wf = true) :
    decode (WideOp.encode (.int .add sat ty d a b)) = .ok (.wideForm (.int .add sat ty d a b)) := by
  have h0 := ofBool_lt sat
  have h1 := ty.code_lt
  have h2 := d.code_lt
  have h3 := a.code_lt
  have hi := encI_lt b
  have e (m d a b ub ty iw imm : Nat) : decWide 0x00 m d a b ub ty iw imm = (
 do some (.int .add (toBool (m / 4)) (← wideTy m ty) (← lspecOf d) (← lspecOf a) (← (wsrcOf iw ub b imm)))) := rfl
  refine wide_src b (op := 0x00) (m := (modI sat ty)) (d := d.code) (a := a.code) (by first | omega | (simp only [modI, modB, cmpD]; omega)) (by first | omega | (simp only [modI, modB, cmpD]; omega)) (by first | omega | (simp only [modI, modB, cmpD]; omega)) (by decide) (ty := ty.wideCode) (Nat.lt_of_lt_of_le ty.wideCode_lt (by decide)) _ ?_ hw
  rw [e]
  have hb : b.encI = 0 := by
    simp only [WideOp.wf, Bool.and_eq_true] at hw
    exact encI_of_wf (by first | exact hw.2 | exact hw | exact hw.1.2)
  simp only [wsrcOf_enc b hb, wideTy_enc]
  simp [guard, cmpD_lt, wlu]

theorem w_sub (sat : Bool) (ty : ITy) (d : LSpec) (a : LSpec) (b : WSrc) (hw : (.int .sub sat ty d
    a b : WideOp).wf = true) :
    decode (WideOp.encode (.int .sub sat ty d a b)) = .ok (.wideForm (.int .sub sat ty d a b)) := by
  have h0 := ofBool_lt sat
  have h1 := ty.code_lt
  have h2 := d.code_lt
  have h3 := a.code_lt
  have hi := encI_lt b
  have e (m d a b ub ty iw imm : Nat) : decWide 0x01 m d a b ub ty iw imm = (
 do some (.int .sub (toBool (m / 4)) (← wideTy m ty) (← lspecOf d) (← lspecOf a) (← (wsrcOf iw ub b imm)))) := rfl
  refine wide_src b (op := 0x01) (m := (modI sat ty)) (d := d.code) (a := a.code) (by first | omega | (simp only [modI, modB, cmpD]; omega)) (by first | omega | (simp only [modI, modB, cmpD]; omega)) (by first | omega | (simp only [modI, modB, cmpD]; omega)) (by decide) (ty := ty.wideCode) (Nat.lt_of_lt_of_le ty.wideCode_lt (by decide)) _ ?_ hw
  rw [e]
  have hb : b.encI = 0 := by
    simp only [WideOp.wf, Bool.and_eq_true] at hw
    exact encI_of_wf (by first | exact hw.2 | exact hw | exact hw.1.2)
  simp only [wsrcOf_enc b hb, wideTy_enc]
  simp [guard, cmpD_lt, wlu]

theorem w_mul (sat : Bool) (ty : ITy) (d : LSpec) (a : LSpec) (b : WSrc) (hw : (.int .mul sat ty d
    a b : WideOp).wf = true) :
    decode (WideOp.encode (.int .mul sat ty d a b)) = .ok (.wideForm (.int .mul sat ty d a b)) := by
  have h0 := ofBool_lt sat
  have h1 := ty.code_lt
  have h2 := d.code_lt
  have h3 := a.code_lt
  have hi := encI_lt b
  have e (m d a b ub ty iw imm : Nat) : decWide 0x02 m d a b ub ty iw imm = (
 do some (.int .mul (toBool (m / 4)) (← wideTy m ty) (← lspecOf d) (← lspecOf a) (← (wsrcOf iw ub b imm)))) := rfl
  refine wide_src b (op := 0x02) (m := (modI sat ty)) (d := d.code) (a := a.code) (by first | omega | (simp only [modI, modB, cmpD]; omega)) (by first | omega | (simp only [modI, modB, cmpD]; omega)) (by first | omega | (simp only [modI, modB, cmpD]; omega)) (by decide) (ty := ty.wideCode) (Nat.lt_of_lt_of_le ty.wideCode_lt (by decide)) _ ?_ hw
  rw [e]
  have hb : b.encI = 0 := by
    simp only [WideOp.wf, Bool.and_eq_true] at hw
    exact encI_of_wf (by first | exact hw.2 | exact hw | exact hw.1.2)
  simp only [wsrcOf_enc b hb, wideTy_enc]
  simp [guard, cmpD_lt, wlu]

theorem w_mulhi (sat : Bool) (ty : ITy) (d : LSpec) (a : LSpec) (b : WSrc) (hw : (.int .mulhi sat
    ty d a b : WideOp).wf = true) :
    decode (WideOp.encode (.int .mulhi sat ty d a b)) = .ok (.wideForm (.int .mulhi sat ty d a b)) := by
  have h0 := ofBool_lt sat
  have h1 := ty.code_lt
  have h2 := d.code_lt
  have h3 := a.code_lt
  have hi := encI_lt b
  have e (m d a b ub ty iw imm : Nat) : decWide 0x03 m d a b ub ty iw imm = (
 do some (.int .mulhi (toBool (m / 4)) (← wideTy m ty) (← lspecOf d) (← lspecOf a) (← (wsrcOf iw ub b imm)))) := rfl
  refine wide_src b (op := 0x03) (m := (modI sat ty)) (d := d.code) (a := a.code) (by first | omega | (simp only [modI, modB, cmpD]; omega)) (by first | omega | (simp only [modI, modB, cmpD]; omega)) (by first | omega | (simp only [modI, modB, cmpD]; omega)) (by decide) (ty := ty.wideCode) (Nat.lt_of_lt_of_le ty.wideCode_lt (by decide)) _ ?_ hw
  rw [e]
  have hb : b.encI = 0 := by
    simp only [WideOp.wf, Bool.and_eq_true] at hw
    exact encI_of_wf (by first | exact hw.2 | exact hw | exact hw.1.2)
  simp only [wsrcOf_enc b hb, wideTy_enc]
  simp [guard, cmpD_lt, wlu]

theorem w_min (sat : Bool) (ty : ITy) (d : LSpec) (a : LSpec) (b : WSrc) (hw : (.int .min sat ty d
    a b : WideOp).wf = true) :
    decode (WideOp.encode (.int .min sat ty d a b)) = .ok (.wideForm (.int .min sat ty d a b)) := by
  have h0 := ofBool_lt sat
  have h1 := ty.code_lt
  have h2 := d.code_lt
  have h3 := a.code_lt
  have hi := encI_lt b
  have e (m d a b ub ty iw imm : Nat) : decWide 0x04 m d a b ub ty iw imm = (
 do some (.int .min (toBool (m / 4)) (← wideTy m ty) (← lspecOf d) (← lspecOf a) (← (wsrcOf iw ub b imm)))) := rfl
  refine wide_src b (op := 0x04) (m := (modI sat ty)) (d := d.code) (a := a.code) (by first | omega | (simp only [modI, modB, cmpD]; omega)) (by first | omega | (simp only [modI, modB, cmpD]; omega)) (by first | omega | (simp only [modI, modB, cmpD]; omega)) (by decide) (ty := ty.wideCode) (Nat.lt_of_lt_of_le ty.wideCode_lt (by decide)) _ ?_ hw
  rw [e]
  have hb : b.encI = 0 := by
    simp only [WideOp.wf, Bool.and_eq_true] at hw
    exact encI_of_wf (by first | exact hw.2 | exact hw | exact hw.1.2)
  simp only [wsrcOf_enc b hb, wideTy_enc]
  simp [guard, cmpD_lt, wlu]

theorem w_max (sat : Bool) (ty : ITy) (d : LSpec) (a : LSpec) (b : WSrc) (hw : (.int .max sat ty d
    a b : WideOp).wf = true) :
    decode (WideOp.encode (.int .max sat ty d a b)) = .ok (.wideForm (.int .max sat ty d a b)) := by
  have h0 := ofBool_lt sat
  have h1 := ty.code_lt
  have h2 := d.code_lt
  have h3 := a.code_lt
  have hi := encI_lt b
  have e (m d a b ub ty iw imm : Nat) : decWide 0x05 m d a b ub ty iw imm = (
 do some (.int .max (toBool (m / 4)) (← wideTy m ty) (← lspecOf d) (← lspecOf a) (← (wsrcOf iw ub b imm)))) := rfl
  refine wide_src b (op := 0x05) (m := (modI sat ty)) (d := d.code) (a := a.code) (by first | omega | (simp only [modI, modB, cmpD]; omega)) (by first | omega | (simp only [modI, modB, cmpD]; omega)) (by first | omega | (simp only [modI, modB, cmpD]; omega)) (by decide) (ty := ty.wideCode) (Nat.lt_of_lt_of_le ty.wideCode_lt (by decide)) _ ?_ hw
  rw [e]
  have hb : b.encI = 0 := by
    simp only [WideOp.wf, Bool.and_eq_true] at hw
    exact encI_of_wf (by first | exact hw.2 | exact hw | exact hw.1.2)
  simp only [wsrcOf_enc b hb, wideTy_enc]
  simp [guard, cmpD_lt, wlu]

theorem w_iabs (sat : Bool) (ty : ITy) (d : LSpec) (b : WSrc) (hw : (.iabs sat ty d b : WideOp).wf
    = true) :
    decode (WideOp.encode (.iabs sat ty d b)) = .ok (.wideForm (.iabs sat ty d b)) := by
  have h0 := ofBool_lt sat
  have h1 := ty.code_lt
  have h2 := d.code_lt
  have hi := encI_lt b
  have e (m d a b ub ty iw imm : Nat) : decWide 0x06 m d a b ub ty iw imm = (
 do guard (a = 0); some (.iabs (toBool (m / 4)) (← wideTy m ty) (← lspecOf d) (← (wsrcOf iw ub b imm)))) := rfl
  refine wide_src b (op := 0x06) (m := (modI sat ty)) (d := d.code) (a := 0) (by first | omega | (simp only [modI, modB, cmpD]; omega)) (by first | omega | (simp only [modI, modB, cmpD]; omega)) (by first | omega | (simp only [modI, modB, cmpD]; omega)) (by decide) (ty := ty.wideCode) (Nat.lt_of_lt_of_le ty.wideCode_lt (by decide)) _ ?_ hw
  rw [e]
  have hb : b.encI = 0 := by
    simp only [WideOp.wf, Bool.and_eq_true] at hw
    exact encI_of_wf (by first | exact hw.2 | exact hw | exact hw.1.2)
  simp only [wsrcOf_enc b hb, wideTy_enc]
  simp [guard, cmpD_lt, wlu]

theorem w_lea (zx : Bool) (sh : Fin 4) (d : LSpec) (a : LSpec) (b : WSrc) (hw : (.lea zx sh d a b
    : WideOp).wf = true) :
    decode (WideOp.encode (.lea zx sh d a b)) = .ok (.wideForm (.lea zx sh d a b)) := by
  have h0 := ofBool_lt zx
  have h1 := sh.isLt
  have h2 := d.code_lt
  have h3 := a.code_lt
  have hi := encI_lt b
  have e (m d a b ub iw imm : Nat) : decWide 0x07 m d a b ub 0 iw imm = (
 do some (.lea (toBool (m / 4)) (← finOf 4 (m % 4)) (← lspecOf d) (← lspecOf a) (← (wsrcOf iw ub b imm)))) := rfl
  refine wide_src b (op := 0x07) (m := (ofBool zx * 4 + sh.val)) (d := d.code) (a := a.code) (by first | omega | (simp only [modI, modB, cmpD]; omega)) (by first | omega | (simp only [modI, modB, cmpD]; omega)) (by first | omega | (simp only [modI, modB, cmpD]; omega)) (by decide) (ty := 0) (by decide) _ ?_ hw
  rw [e]
  have g1 : (ofBool zx * 4 + sh.val) % 4 = sh.val := by omega
  have g2 : (ofBool zx * 4 + sh.val) / 4 = ofBool zx := by omega
  have hb : b.encI = 0 := by
    simp only [WideOp.wf, Bool.and_eq_true] at hw
    exact encI_of_wf (by first | exact hw.2 | exact hw | exact hw.1.2)
  simp only [g1, g2, wsrcOf_enc b hb]
  simp [guard, cmpD_lt, wlu]

theorem w_icmp (c : ICond) (w64 : Bool) (uns : Bool) (n : Fin 8) (a : LSpec) (b : WSrc) (hw :
    (.icmp c w64 uns n a b : WideOp).wf = true) :
    decode (WideOp.encode (.icmp c w64 uns n a b)) = .ok (.wideForm (.icmp c w64 uns n a b)) := by
  have h0 := c.code_lt
  have h1 := ofBool_lt w64
  have h2 := ofBool_lt uns
  have h3 := n.isLt
  have h4 := a.code_lt
  have hi := encI_lt b
  have e (m d a b ub iw imm : Nat) : decWide 0x08 m d a b ub 0 iw imm = (
 do
        guard (d < 32)
        some (.icmp (← icondOf m) (toBool (d / 16)) (toBool (d / 8)) (← finOf 8 (d % 8))
          (← lspecOf a) (← (wsrcOf iw ub b imm)))) := rfl
  refine wide_src b (op := 0x08) (m := c.code) (d := (cmpD w64 uns n)) (a := a.code) (by first | omega | (simp only [modI, modB, cmpD]; omega)) (by first | omega | (simp only [modI, modB, cmpD]; omega)) (by first | omega | (simp only [modI, modB, cmpD]; omega)) (by decide) (ty := 0) (by decide) _ ?_ hw
  rw [e]
  have hb : b.encI = 0 := by
    simp only [WideOp.wf, Bool.and_eq_true] at hw
    exact encI_of_wf (by first | exact hw.2 | exact hw | exact hw.1.2)
  simp only [wsrcOf_enc b hb]
  simp [guard, cmpD_lt, wlu]

theorem w_sel (n : Fin 8) (d : LSpec) (a : LSpec) (b : WSrc) (hw : (.sel n d a b : WideOp).wf =
    true) :
    decode (WideOp.encode (.sel n d a b)) = .ok (.wideForm (.sel n d a b)) := by
  have h0 := n.isLt
  have h1 := d.code_lt
  have h2 := a.code_lt
  have hi := encI_lt b
  have e (m d a b ub iw imm : Nat) : decWide 0x09 m d a b ub 0 iw imm = (
 do some (.sel (← finOf 8 m) (← lspecOf d) (← lspecOf a) (← (wsrcOf iw ub b imm)))) := rfl
  refine wide_src b (op := 0x09) (m := n.val) (d := d.code) (a := a.code) (by first | omega | (simp only [modI, modB, cmpD]; omega)) (by first | omega | (simp only [modI, modB, cmpD]; omega)) (by first | omega | (simp only [modI, modB, cmpD]; omega)) (by decide) (ty := 0) (by decide) _ ?_ hw
  rw [e]
  have hb : b.encI = 0 := by
    simp only [WideOp.wf, Bool.and_eq_true] at hw
    exact encI_of_wf (by first | exact hw.2 | exact hw | exact hw.1.2)
  simp only [wsrcOf_enc b hb]
  simp [guard, cmpD_lt, wlu]

theorem w_and (w : Width) (d : LSpec) (a : LSpec) (b : WSrc) (hw : (.logic .and w d a b :
    WideOp).wf = true) :
    decode (WideOp.encode (.logic .and w d a b)) = .ok (.wideForm (.logic .and w d a b)) := by
  have h0 := w.code_lt
  have h1 := d.code_lt
  have h2 := a.code_lt
  have hi := encI_lt b
  have e (m d a b ub iw imm : Nat) : decWide 0x0A m d a b ub 0 iw imm = (
 do some (.logic .and (← widthOf (m % 4)) (← lspecOf d) (← lspecOf a) (← (wsrcB (m / 4) iw ub b imm)))) := rfl
  refine wide_src b (op := 0x0A) (m := (modB b.encI w)) (d := d.code) (a := a.code) (by first | omega | (simp only [modI, modB, cmpD]; omega)) (by first | omega | (simp only [modI, modB, cmpD]; omega)) (by first | omega | (simp only [modI, modB, cmpD]; omega)) (by decide) (ty := 0) (by decide) _ ?_ hw
  rw [e]
  simp only [modB_div, wsrcB_enc b]
  simp [guard, cmpD_lt, wlu]

theorem w_or (w : Width) (d : LSpec) (a : LSpec) (b : WSrc) (hw : (.logic .or w d a b : WideOp).wf
    = true) :
    decode (WideOp.encode (.logic .or w d a b)) = .ok (.wideForm (.logic .or w d a b)) := by
  have h0 := w.code_lt
  have h1 := d.code_lt
  have h2 := a.code_lt
  have hi := encI_lt b
  have e (m d a b ub iw imm : Nat) : decWide 0x0B m d a b ub 0 iw imm = (
 do some (.logic .or (← widthOf (m % 4)) (← lspecOf d) (← lspecOf a) (← (wsrcB (m / 4) iw ub b imm)))) := rfl
  refine wide_src b (op := 0x0B) (m := (modB b.encI w)) (d := d.code) (a := a.code) (by first | omega | (simp only [modI, modB, cmpD]; omega)) (by first | omega | (simp only [modI, modB, cmpD]; omega)) (by first | omega | (simp only [modI, modB, cmpD]; omega)) (by decide) (ty := 0) (by decide) _ ?_ hw
  rw [e]
  simp only [modB_div, wsrcB_enc b]
  simp [guard, cmpD_lt, wlu]

theorem w_xor (w : Width) (d : LSpec) (a : LSpec) (b : WSrc) (hw : (.logic .xor w d a b :
    WideOp).wf = true) :
    decode (WideOp.encode (.logic .xor w d a b)) = .ok (.wideForm (.logic .xor w d a b)) := by
  have h0 := w.code_lt
  have h1 := d.code_lt
  have h2 := a.code_lt
  have hi := encI_lt b
  have e (m d a b ub iw imm : Nat) : decWide 0x0C m d a b ub 0 iw imm = (
 do some (.logic .xor (← widthOf (m % 4)) (← lspecOf d) (← lspecOf a) (← (wsrcB (m / 4) iw ub b imm)))) := rfl
  refine wide_src b (op := 0x0C) (m := (modB b.encI w)) (d := d.code) (a := a.code) (by first | omega | (simp only [modI, modB, cmpD]; omega)) (by first | omega | (simp only [modI, modB, cmpD]; omega)) (by first | omega | (simp only [modI, modB, cmpD]; omega)) (by decide) (ty := 0) (by decide) _ ?_ hw
  rw [e]
  simp only [modB_div, wsrcB_enc b]
  simp [guard, cmpD_lt, wlu]

theorem w_shl (w : Width) (d : LSpec) (a : LSpec) (b : WSrc) (hw : (.shift .shl w d a b :
    WideOp).wf = true) :
    decode (WideOp.encode (.shift .shl w d a b)) = .ok (.wideForm (.shift .shl w d a b)) := by
  have h0 := w.code_lt
  have h1 := d.code_lt
  have h2 := a.code_lt
  have hi := encI_lt b
  have e (m d a b ub iw imm : Nat) : decWide 0x0D m d a b ub 0 iw imm = (
 do some (.shift .shl (← widthOf (m % 4)) (← lspecOf d) (← lspecOf a) (← (wsrcB (m / 4) iw ub b imm)))) := rfl
  refine wide_src b (op := 0x0D) (m := (modB b.encI w)) (d := d.code) (a := a.code) (by first | omega | (simp only [modI, modB, cmpD]; omega)) (by first | omega | (simp only [modI, modB, cmpD]; omega)) (by first | omega | (simp only [modI, modB, cmpD]; omega)) (by decide) (ty := 0) (by decide) _ ?_ hw
  rw [e]
  simp only [modB_div, wsrcB_enc b]
  simp [guard, cmpD_lt, wlu]

theorem w_shr (w : Width) (d : LSpec) (a : LSpec) (b : WSrc) (hw : (.shift .shr w d a b :
    WideOp).wf = true) :
    decode (WideOp.encode (.shift .shr w d a b)) = .ok (.wideForm (.shift .shr w d a b)) := by
  have h0 := w.code_lt
  have h1 := d.code_lt
  have h2 := a.code_lt
  have hi := encI_lt b
  have e (m d a b ub iw imm : Nat) : decWide 0x0E m d a b ub 0 iw imm = (
 do some (.shift .shr (← widthOf (m % 4)) (← lspecOf d) (← lspecOf a) (← (wsrcB (m / 4) iw ub b imm)))) := rfl
  refine wide_src b (op := 0x0E) (m := (modB b.encI w)) (d := d.code) (a := a.code) (by first | omega | (simp only [modI, modB, cmpD]; omega)) (by first | omega | (simp only [modI, modB, cmpD]; omega)) (by first | omega | (simp only [modI, modB, cmpD]; omega)) (by decide) (ty := 0) (by decide) _ ?_ hw
  rw [e]
  simp only [modB_div, wsrcB_enc b]
  simp [guard, cmpD_lt, wlu]

theorem w_sar (w : Width) (d : LSpec) (a : LSpec) (b : WSrc) (hw : (.shift .sar w d a b :
    WideOp).wf = true) :
    decode (WideOp.encode (.shift .sar w d a b)) = .ok (.wideForm (.shift .sar w d a b)) := by
  have h0 := w.code_lt
  have h1 := d.code_lt
  have h2 := a.code_lt
  have hi := encI_lt b
  have e (m d a b ub iw imm : Nat) : decWide 0x0F m d a b ub 0 iw imm = (
 do some (.shift .sar (← widthOf (m % 4)) (← lspecOf d) (← lspecOf a) (← (wsrcB (m / 4) iw ub b imm)))) := rfl
  refine wide_src b (op := 0x0F) (m := (modB b.encI w)) (d := d.code) (a := a.code) (by first | omega | (simp only [modI, modB, cmpD]; omega)) (by first | omega | (simp only [modI, modB, cmpD]; omega)) (by first | omega | (simp only [modI, modB, cmpD]; omega)) (by decide) (ty := 0) (by decide) _ ?_ hw
  rw [e]
  simp only [modB_div, wsrcB_enc b]
  simp [guard, cmpD_lt, wlu]

theorem w_popc (w : Width) (d : LSpec) (a : LSpec) (ub : Bool) (hw : (.bits .popc w d a ub :
    WideOp).wf = true) :
    decode (WideOp.encode (.bits .popc w d a ub)) = .ok (.wideForm (.bits .popc w d a ub)) := by
  have h0 := w.code_lt
  have h1 := d.code_lt
  have h2 := a.code_lt
  have h3 := ofBool_lt ub
  have e (m d a b ub iw imm : Nat) : decWide 0x10 m d a b ub 0 iw imm = (
 do guard (decide (iw = 0 ∧ imm = 0 ∧ b = 0) : Bool); some (.bits .popc (← widthOf m) (← lspecOf d) (← lspecOf a) (toBool ub))) := rfl
  refine decode_wide (op := 0x10) (m := w.code) (d := d.code) (a := a.code) (b := 0) (ub :=
      (ofBool ub)) (ty := 0) (low := 0) (iw := 0) (imm := 0) ⟨by decide, by decide, by omega, by
      omega, by omega, by decide⟩ (by decide) (by omega) (by decide) rfl (by decide) (by decide) _
      ?_ hw
  rw [e]
  simp [guard, cmpD_lt, wlu]

theorem w_clz (w : Width) (d : LSpec) (a : LSpec) (ub : Bool) (hw : (.bits .clz w d a ub :
    WideOp).wf = true) :
    decode (WideOp.encode (.bits .clz w d a ub)) = .ok (.wideForm (.bits .clz w d a ub)) := by
  have h0 := w.code_lt
  have h1 := d.code_lt
  have h2 := a.code_lt
  have h3 := ofBool_lt ub
  have e (m d a b ub iw imm : Nat) : decWide 0x11 m d a b ub 0 iw imm = (
 do guard (decide (iw = 0 ∧ imm = 0 ∧ b = 0) : Bool); some (.bits .clz (← widthOf m) (← lspecOf d) (← lspecOf a) (toBool ub))) := rfl
  refine decode_wide (op := 0x11) (m := w.code) (d := d.code) (a := a.code) (b := 0) (ub :=
      (ofBool ub)) (ty := 0) (low := 0) (iw := 0) (imm := 0) ⟨by decide, by decide, by omega, by
      omega, by omega, by decide⟩ (by decide) (by omega) (by decide) rfl (by decide) (by decide) _
      ?_ hw
  rw [e]
  simp [guard, cmpD_lt, wlu]

theorem w_brev (w : Width) (d : LSpec) (a : LSpec) (ub : Bool) (hw : (.bits .brev w d a ub :
    WideOp).wf = true) :
    decode (WideOp.encode (.bits .brev w d a ub)) = .ok (.wideForm (.bits .brev w d a ub)) := by
  have h0 := w.code_lt
  have h1 := d.code_lt
  have h2 := a.code_lt
  have h3 := ofBool_lt ub
  have e (m d a b ub iw imm : Nat) : decWide 0x12 m d a b ub 0 iw imm = (
 do guard (decide (iw = 0 ∧ imm = 0 ∧ b = 0) : Bool); some (.bits .brev (← widthOf m) (← lspecOf d) (← lspecOf a) (toBool ub))) := rfl
  refine decode_wide (op := 0x12) (m := w.code) (d := d.code) (a := a.code) (b := 0) (ub :=
      (ofBool ub)) (ty := 0) (low := 0) (iw := 0) (imm := 0) ⟨by decide, by decide, by omega, by
      omega, by omega, by decide⟩ (by decide) (by omega) (by decide) rfl (by decide) (by decide) _
      ?_ hw
  rw [e]
  simp [guard, cmpD_lt, wlu]

theorem w_mov (w : Width) (d : LSpec) (b : WSrc) (hw : (.mov w d b : WideOp).wf = true) :
    decode (WideOp.encode (.mov w d b)) = .ok (.wideForm (.mov w d b)) := by
  have h0 := w.code_lt
  have h1 := d.code_lt
  have hi := encI_lt b
  have e (m d a b ub iw imm : Nat) : decWide 0x13 m d a b ub 0 iw imm = (
 do guard (a = 0); some (.mov (← widthOf (m % 4)) (← lspecOf d) (← (wsrcB (m / 4) iw ub b imm)))) := rfl
  refine wide_src b (op := 0x13) (m := (modB b.encI w)) (d := d.code) (a := 0) (by first | omega | (simp only [modI, modB, cmpD]; omega)) (by first | omega | (simp only [modI, modB, cmpD]; omega)) (by first | omega | (simp only [modI, modB, cmpD]; omega)) (by decide) (ty := 0) (by decide) _ ?_ hw
  rw [e]
  simp only [modB_div, wsrcB_enc b]
  simp [guard, cmpD_lt, wlu]

theorem w_fadd (r : Rnd) (d : LSpec) (a : LSpec) (b : LUSrc) (hw : (.flt .add r d a b : WideOp).wf
    = true) :
    decode (WideOp.encode (.flt .add r d a b)) = .ok (.wideForm (.flt .add r d a b)) := by
  have h0 := r.code_lt
  have h1 := d.code_lt
  have h2 := a.code_lt
  have h3 := b.code_lt
  have h4 := b.ubBit_lt
  have e (m d a b ub iw imm : Nat) : decWide 0x20 m d a b ub 0 iw imm = (
 do some (.flt .add (← rndOf m) (← lspecOf d) (← lspecOf a) (← (wlu iw ub b imm)))) := rfl
  refine wide_lu b (op := 0x20) (m := r.code) (d := d.code) (a := a.code) (by first | omega | (simp only [modI, modB, cmpD]; omega)) (by first | omega | (simp only [modI, modB, cmpD]; omega)) (by first | omega | (simp only [modI, modB, cmpD]; omega)) (by decide) _ ?_ hw
  rw [e]
  simp [guard, cmpD_lt, wlu]

theorem w_fsub (r : Rnd) (d : LSpec) (a : LSpec) (b : LUSrc) (hw : (.flt .sub r d a b : WideOp).wf
    = true) :
    decode (WideOp.encode (.flt .sub r d a b)) = .ok (.wideForm (.flt .sub r d a b)) := by
  have h0 := r.code_lt
  have h1 := d.code_lt
  have h2 := a.code_lt
  have h3 := b.code_lt
  have h4 := b.ubBit_lt
  have e (m d a b ub iw imm : Nat) : decWide 0x21 m d a b ub 0 iw imm = (
 do some (.flt .sub (← rndOf m) (← lspecOf d) (← lspecOf a) (← (wlu iw ub b imm)))) := rfl
  refine wide_lu b (op := 0x21) (m := r.code) (d := d.code) (a := a.code) (by first | omega | (simp only [modI, modB, cmpD]; omega)) (by first | omega | (simp only [modI, modB, cmpD]; omega)) (by first | omega | (simp only [modI, modB, cmpD]; omega)) (by decide) _ ?_ hw
  rw [e]
  simp [guard, cmpD_lt, wlu]

theorem w_fmul (r : Rnd) (d : LSpec) (a : LSpec) (b : LUSrc) (hw : (.flt .mul r d a b : WideOp).wf
    = true) :
    decode (WideOp.encode (.flt .mul r d a b)) = .ok (.wideForm (.flt .mul r d a b)) := by
  have h0 := r.code_lt
  have h1 := d.code_lt
  have h2 := a.code_lt
  have h3 := b.code_lt
  have h4 := b.ubBit_lt
  have e (m d a b ub iw imm : Nat) : decWide 0x22 m d a b ub 0 iw imm = (
 do some (.flt .mul (← rndOf m) (← lspecOf d) (← lspecOf a) (← (wlu iw ub b imm)))) := rfl
  refine wide_lu b (op := 0x22) (m := r.code) (d := d.code) (a := a.code) (by first | omega | (simp only [modI, modB, cmpD]; omega)) (by first | omega | (simp only [modI, modB, cmpD]; omega)) (by first | omega | (simp only [modI, modB, cmpD]; omega)) (by decide) _ ?_ hw
  rw [e]
  simp [guard, cmpD_lt, wlu]

theorem w_fmin (d : LSpec) (a : LSpec) (b : LUSrc) (hw : (.fmin d a b : WideOp).wf = true) :
    decode (WideOp.encode (.fmin d a b)) = .ok (.wideForm (.fmin d a b)) := by
  have h0 := d.code_lt
  have h1 := a.code_lt
  have h2 := b.code_lt
  have h3 := b.ubBit_lt
  have e (m d a b ub iw imm : Nat) : decWide 0x23 m d a b ub 0 iw imm = (
 do guard (m = 0); some (.fmin (← lspecOf d) (← lspecOf a) (← (wlu iw ub b imm)))) := rfl
  refine wide_lu b (op := 0x23) (m := 0) (d := d.code) (a := a.code) (by first | omega | (simp only [modI, modB, cmpD]; omega)) (by first | omega | (simp only [modI, modB, cmpD]; omega)) (by first | omega | (simp only [modI, modB, cmpD]; omega)) (by decide) _ ?_ hw
  rw [e]
  simp [guard, cmpD_lt, wlu]

theorem w_fmax (d : LSpec) (a : LSpec) (b : LUSrc) (hw : (.fmax d a b : WideOp).wf = true) :
    decode (WideOp.encode (.fmax d a b)) = .ok (.wideForm (.fmax d a b)) := by
  have h0 := d.code_lt
  have h1 := a.code_lt
  have h2 := b.code_lt
  have h3 := b.ubBit_lt
  have e (m d a b ub iw imm : Nat) : decWide 0x24 m d a b ub 0 iw imm = (
 do guard (m = 0); some (.fmax (← lspecOf d) (← lspecOf a) (← (wlu iw ub b imm)))) := rfl
  refine wide_lu b (op := 0x24) (m := 0) (d := d.code) (a := a.code) (by first | omega | (simp only [modI, modB, cmpD]; omega)) (by first | omega | (simp only [modI, modB, cmpD]; omega)) (by first | omega | (simp only [modI, modB, cmpD]; omega)) (by decide) _ ?_ hw
  rw [e]
  simp [guard, cmpD_lt, wlu]

theorem w_fcmp (c : FCond) (n : Fin 8) (a : LSpec) (b : LUSrc) (hw : (.fcmp c n a b : WideOp).wf =
    true) :
    decode (WideOp.encode (.fcmp c n a b)) = .ok (.wideForm (.fcmp c n a b)) := by
  have h0 := c.code_lt
  have h1 := n.isLt
  have h2 := a.code_lt
  have h3 := b.code_lt
  have h4 := b.ubBit_lt
  have e (m d a b ub iw imm : Nat) : decWide 0x25 m d a b ub 0 iw imm = (
 do some (.fcmp (← fcondOf m) (← finOf 8 d) (← lspecOf a) (← (wlu iw ub b imm)))) := rfl
  refine wide_lu b (op := 0x25) (m := c.code) (d := n.val) (a := a.code) (by first | omega | (simp only [modI, modB, cmpD]; omega)) (by first | omega | (simp only [modI, modB, cmpD]; omega)) (by first | omega | (simp only [modI, modB, cmpD]; omega)) (by decide) _ ?_ hw
  rw [e]
  simp [guard, cmpD_lt, wlu]

theorem w_dcmp (c : FCond) (n : Fin 8) (a : LSpec) (b : LUSrc) (hw : (.dcmp c n a b : WideOp).wf =
    true) :
    decode (WideOp.encode (.dcmp c n a b)) = .ok (.wideForm (.dcmp c n a b)) := by
  have h0 := c.code_lt
  have h1 := n.isLt
  have h2 := a.code_lt
  have h3 := b.code_lt
  have h4 := b.ubBit_lt
  have e (m d a b ub iw imm : Nat) : decWide 0x29 m d a b ub 0 iw imm = (
 do some (.dcmp (← fcondOf m) (← finOf 8 d) (← lspecOf a) (← (wlu iw ub b imm)))) := rfl
  refine wide_lu b (op := 0x29) (m := c.code) (d := n.val) (a := a.code) (by first | omega | (simp only [modI, modB, cmpD]; omega)) (by first | omega | (simp only [modI, modB, cmpD]; omega)) (by first | omega | (simp only [modI, modB, cmpD]; omega)) (by decide) _ ?_ hw
  rw [e]
  simp [guard, cmpD_lt, wlu]

theorem w_frnd (r : Rnd) (d : LSpec) (b : LUSrc) (hw : (.frnd r d b : WideOp).wf = true) :
    decode (WideOp.encode (.frnd r d b)) = .ok (.wideForm (.frnd r d b)) := by
  have h0 := r.code_lt
  have h1 := d.code_lt
  have h2 := b.code_lt
  have h3 := b.ubBit_lt
  have e (m d a b ub iw imm : Nat) : decWide 0x26 m d a b ub 0 iw imm = (
 do guard (a = 0); some (.frnd (← rndOf m) (← lspecOf d) (← (wlu iw ub b imm)))) := rfl
  refine wide_lu b (op := 0x26) (m := r.code) (d := d.code) (a := 0) (by first | omega | (simp only [modI, modB, cmpD]; omega)) (by first | omega | (simp only [modI, modB, cmpD]; omega)) (by first | omega | (simp only [modI, modB, cmpD]; omega)) (by decide) _ ?_ hw
  rw [e]
  simp [guard, cmpD_lt, wlu]

theorem w_dadd (r : Rnd) (d : LSpec) (a : LSpec) (b : LUSrc) (hw : (.dadd r d a b : WideOp).wf =
    true) :
    decode (WideOp.encode (.dadd r d a b)) = .ok (.wideForm (.dadd r d a b)) := by
  have h0 := r.code_lt
  have h1 := d.code_lt
  have h2 := a.code_lt
  have h3 := b.code_lt
  have h4 := b.ubBit_lt
  have e (m d a b ub iw imm : Nat) : decWide 0x27 m d a b ub 0 iw imm = (
 do some (.dadd (← rndOf m) (← lspecOf d) (← lspecOf a) (← (wlu iw ub b imm)))) := rfl
  refine wide_lu b (op := 0x27) (m := r.code) (d := d.code) (a := a.code) (by first | omega | (simp only [modI, modB, cmpD]; omega)) (by first | omega | (simp only [modI, modB, cmpD]; omega)) (by first | omega | (simp only [modI, modB, cmpD]; omega)) (by decide) _ ?_ hw
  rw [e]
  simp [guard, cmpD_lt, wlu]

theorem w_dmul (r : Rnd) (d : LSpec) (a : LSpec) (b : LUSrc) (hw : (.dmul r d a b : WideOp).wf =
    true) :
    decode (WideOp.encode (.dmul r d a b)) = .ok (.wideForm (.dmul r d a b)) := by
  have h0 := r.code_lt
  have h1 := d.code_lt
  have h2 := a.code_lt
  have h3 := b.code_lt
  have h4 := b.ubBit_lt
  have e (m d a b ub iw imm : Nat) : decWide 0x28 m d a b ub 0 iw imm = (
 do some (.dmul (← rndOf m) (← lspecOf d) (← lspecOf a) (← (wlu iw ub b imm)))) := rfl
  refine wide_lu b (op := 0x28) (m := r.code) (d := d.code) (a := a.code) (by first | omega | (simp only [modI, modB, cmpD]; omega)) (by first | omega | (simp only [modI, modB, cmpD]; omega)) (by first | omega | (simp only [modI, modB, cmpD]; omega)) (by decide) _ ?_ hw
  rw [e]
  simp [guard, cmpD_lt, wlu]

theorem w_pkadd (bf : Bool) (r : Rnd) (d : LSpec) (a : LSpec) (b : LUSrc) (hw : (.pkadd bf r d a b
    : WideOp).wf = true) :
    decode (WideOp.encode (.pkadd bf r d a b)) = .ok (.wideForm (.pkadd bf r d a b)) := by
  have h0 := ofBool_lt bf
  have h1 := r.code_lt
  have h2 := d.code_lt
  have h3 := a.code_lt
  have h4 := b.code_lt
  have h5 := b.ubBit_lt
  have e (m d a b ub iw imm : Nat) : decWide 0x2A m d a b ub 0 iw imm = (
 do some (.pkadd (toBool (m / 4)) (← rndOf (m % 4)) (← lspecOf d) (← lspecOf a) (← (wlu iw ub b imm)))) := rfl
  refine wide_lu b (op := 0x2A) (m := (ofBool bf * 4 + r.code)) (d := d.code) (a := a.code) (by first | omega | (simp only [modI, modB, cmpD]; omega)) (by first | omega | (simp only [modI, modB, cmpD]; omega)) (by first | omega | (simp only [modI, modB, cmpD]; omega)) (by decide) _ ?_ hw
  rw [e]
  have g1 : (ofBool bf * 4 + r.code) % 4 = r.code := by omega
  have g2 : (ofBool bf * 4 + r.code) / 4 = ofBool bf := by omega
  simp only [g1, g2]
  simp [guard, cmpD_lt, wlu]

theorem w_pkmul (bf : Bool) (r : Rnd) (d : LSpec) (a : LSpec) (b : LUSrc) (hw : (.pkmul bf r d a b
    : WideOp).wf = true) :
    decode (WideOp.encode (.pkmul bf r d a b)) = .ok (.wideForm (.pkmul bf r d a b)) := by
  have h0 := ofBool_lt bf
  have h1 := r.code_lt
  have h2 := d.code_lt
  have h3 := a.code_lt
  have h4 := b.code_lt
  have h5 := b.ubBit_lt
  have e (m d a b ub iw imm : Nat) : decWide 0x2B m d a b ub 0 iw imm = (
 do some (.pkmul (toBool (m / 4)) (← rndOf (m % 4)) (← lspecOf d) (← lspecOf a) (← (wlu iw ub b imm)))) := rfl
  refine wide_lu b (op := 0x2B) (m := (ofBool bf * 4 + r.code)) (d := d.code) (a := a.code) (by first | omega | (simp only [modI, modB, cmpD]; omega)) (by first | omega | (simp only [modI, modB, cmpD]; omega)) (by first | omega | (simp only [modI, modB, cmpD]; omega)) (by decide) _ ?_ hw
  rw [e]
  have g1 : (ofBool bf * 4 + r.code) % 4 = r.code := by omega
  have g2 : (ofBool bf * 4 + r.code) / 4 = ofBool bf := by omega
  simp only [g1, g2]
  simp [guard, cmpD_lt, wlu]

theorem w_pkmin (bf : Bool) (d : LSpec) (a : LSpec) (b : LUSrc) (hw : (.pkmin bf d a b :
    WideOp).wf = true) :
    decode (WideOp.encode (.pkmin bf d a b)) = .ok (.wideForm (.pkmin bf d a b)) := by
  have h0 := ofBool_lt bf
  have h1 := d.code_lt
  have h2 := a.code_lt
  have h3 := b.code_lt
  have h4 := b.ubBit_lt
  have e (m d a b ub iw imm : Nat) : decWide 0x2C m d a b ub 0 iw imm = (
 do guard (m % 4 = 0); some (.pkmin (toBool (m / 4)) (← lspecOf d) (← lspecOf a) (← (wlu iw ub b imm)))) := rfl
  refine wide_lu b (op := 0x2C) (m := (ofBool bf * 4)) (d := d.code) (a := a.code) (by first | omega | (simp only [modI, modB, cmpD]; omega)) (by first | omega | (simp only [modI, modB, cmpD]; omega)) (by first | omega | (simp only [modI, modB, cmpD]; omega)) (by decide) _ ?_ hw
  rw [e]
  simp [guard, cmpD_lt, wlu]

theorem w_pkmax (bf : Bool) (d : LSpec) (a : LSpec) (b : LUSrc) (hw : (.pkmax bf d a b :
    WideOp).wf = true) :
    decode (WideOp.encode (.pkmax bf d a b)) = .ok (.wideForm (.pkmax bf d a b)) := by
  have h0 := ofBool_lt bf
  have h1 := d.code_lt
  have h2 := a.code_lt
  have h3 := b.code_lt
  have h4 := b.ubBit_lt
  have e (m d a b ub iw imm : Nat) : decWide 0x2D m d a b ub 0 iw imm = (
 do guard (m % 4 = 0); some (.pkmax (toBool (m / 4)) (← lspecOf d) (← lspecOf a) (← (wlu iw ub b imm)))) := rfl
  refine wide_lu b (op := 0x2D) (m := (ofBool bf * 4)) (d := d.code) (a := a.code) (by first | omega | (simp only [modI, modB, cmpD]; omega)) (by first | omega | (simp only [modI, modB, cmpD]; omega)) (by first | omega | (simp only [modI, modB, cmpD]; omega)) (by decide) _ ?_ hw
  rw [e]
  simp [guard, cmpD_lt, wlu]

theorem w_mfn (f : MfnFn) (d : LSpec) (b : LUSrc) (hw : (.mfn f d b : WideOp).wf = true) :
    decode (WideOp.encode (.mfn f d b)) = .ok (.wideForm (.mfn f d b)) := by
  have h0 := f.code_lt
  have h1 := d.code_lt
  have h2 := b.code_lt
  have h3 := b.ubBit_lt
  have e (m d a b ub iw imm : Nat) : decWide 0x2E m d a b ub 0 iw imm = (
 do guard (a = 0); some (.mfn (← mfnOf m) (← lspecOf d) (← (wlu iw ub b imm)))) := rfl
  refine wide_lu b (op := 0x2E) (m := f.code) (d := d.code) (a := 0) (by first | omega | (simp only [modI, modB, cmpD]; omega)) (by first | omega | (simp only [modI, modB, cmpD]; omega)) (by first | omega | (simp only [modI, modB, cmpD]; omega)) (by decide) _ ?_ hw
  rw [e]
  simp [guard, cmpD_lt, wlu]

theorem w_sxpk (f : SxFmt) (d : LSpec) (a : LSpec) (hw : (.sxpk f d a : WideOp).wf = true) :
    decode (WideOp.encode (.sxpk f d a)) = .ok (.wideForm (.sxpk f d a)) := by
  have h0 := f.code_lt
  have h1 := d.code_lt
  have h2 := a.code_lt
  have e (m d a b ub iw imm : Nat) : decWide 0x2F m d a b ub 0 iw imm = (
 do guard (decide (iw = 0 ∧ imm = 0 ∧ ub = 0 ∧ b = 0) : Bool); some (.sxpk (← sxOf m) (← lspecOf d) (← lspecOf a))) := rfl
  refine decode_wide (op := 0x2F) (m := f.code) (d := d.code) (a := a.code) (b := 0) (ub := 0) (ty
      := 0) (low := 0) (iw := 0) (imm := 0) ⟨by decide, by decide, by omega, by omega, by omega,
      by decide⟩ (by decide) (by omega) (by decide) rfl (by decide) (by decide) _ ?_ hw
  rw [e]
  simp [guard, cmpD_lt, wlu]

theorem w_sxupk (f : SxFmt) (d : LSpec) (a : LSpec) (hw : (.sxupk f d a : WideOp).wf = true) :
    decode (WideOp.encode (.sxupk f d a)) = .ok (.wideForm (.sxupk f d a)) := by
  have h0 := f.code_lt
  have h1 := d.code_lt
  have h2 := a.code_lt
  have e (m d a b ub iw imm : Nat) : decWide 0x30 m d a b ub 0 iw imm = (
 do guard (decide (iw = 0 ∧ imm = 0 ∧ ub = 0 ∧ b = 0) : Bool); some (.sxupk (← sxOf m) (← lspecOf d) (← lspecOf a))) := rfl
  refine decode_wide (op := 0x30) (m := f.code) (d := d.code) (a := a.code) (b := 0) (ub := 0) (ty
      := 0) (low := 0) (iw := 0) (imm := 0) ⟨by decide, by decide, by omega, by omega, by omega,
      by decide⟩ (by decide) (by omega) (by decide) rfl (by decide) (by decide) _ ?_ hw
  rw [e]
  simp [guard, cmpD_lt, wlu]

theorem imad (sat : Bool) (ty : ITy) (d : LSpec) (a : LSpec) (b : LUSrc) (c : LSpec) : Statement
    (.imad sat ty d a b c) := by
  intro _ hw
  have h0 := ofBool_lt sat
  have h1 := ty.code_lt
  have h2 := d.code_lt
  have h3 := a.code_lt
  have h4 := b.code_lt
  have h5 := b.ubBit_lt
  have h6 := c.code_lt
  have he : encode (.imad sat ty d a b c) = [enc1 0 0x61 (modI sat ty) d.code a.code b.code, enc2
      c.code b.ubBit 0] := rfl
  have hf : Fits1 0 0x61 (modI sat ty) d.code a.code b.code := by
    constructor
    iterate 6 (first | omega | (simp only [modI, modB, cmpD]; omega))
  have hv : (enc2 c.code b.ubBit 0).toNat = c.code * 2 ^ 25 + b.ubBit * 2 ^ 24 + 0 := by
    simp only [enc2, encMem, encAtom, BitVec.toNat_ofNat]; exact Nat.mod_eq_of_lt (by omega)
  rw [he]
  refine decode_enc1 hf (by decide) (by decide) [enc2 c.code b.ubBit 0] (.imad sat ty d a b c) ?_ hw
  simp only [List.getD_cons_zero]
  generalize (enc2 c.code b.ubBit 0).toNat = W at *
  have f0 : W / 2 ^ 25 = c.code := by first | omega | (simp only [fld]; omega)
  have f1 : W / 2 ^ 24 % 2 = b.ubBit := by first | omega | (simp only [fld]; omega)
  have f2 : W % 2 ^ 24 = 0 := by first | omega | (simp only [fld]; omega)
  have e (m d a b w : Nat) : decL2 0x61 m d a b w = (
 do
      guard ((w % 2 ^ 24) = 0)
      some (.imad (toBool (m / 4)) (← ityOf (m % 4)) (← lspecOf d) (← lspecOf a) (← lusrcOf (w / 2 ^ 24 % 2) b) (← lspecOf (w / 2 ^ 25)))) := rfl
  rw [if_neg (by decide), if_pos (by decide), if_pos (by decide), e]
  have ht : ty.inMod = true := by simp only [Instr.wf, Bool.and_eq_true] at hw; tauto
  simp only [f0, f1, f2]
  simp [guard, ht]

theorem idp4 (sat : Bool) (za : Bool) (zb : Bool) (d : LSpec) (a : LSpec) (b : LUSrc) (c : LSpec)
    : Statement (.idp4 sat za zb d a b c) := by
  intro _ hw
  have h0 := ofBool_lt sat
  have h1 := ofBool_lt za
  have h2 := ofBool_lt zb
  have h3 := d.code_lt
  have h4 := a.code_lt
  have h5 := b.code_lt
  have h6 := b.ubBit_lt
  have h7 := c.code_lt
  have he : encode (.idp4 sat za zb d a b c) = [enc1 0 0x62 (ofBool sat * 4 + ofBool za * 2 +
      ofBool zb) d.code a.code b.code, enc2 c.code b.ubBit 0] := rfl
  have hf : Fits1 0 0x62 (ofBool sat * 4 + ofBool za * 2 + ofBool zb) d.code a.code b.code := by
    constructor
    iterate 6 (first | omega | (simp only [modI, modB, cmpD]; omega))
  have hv : (enc2 c.code b.ubBit 0).toNat = c.code * 2 ^ 25 + b.ubBit * 2 ^ 24 + 0 := by
    simp only [enc2, encMem, encAtom, BitVec.toNat_ofNat]; exact Nat.mod_eq_of_lt (by omega)
  rw [he]
  refine decode_enc1 hf (by decide) (by decide) [enc2 c.code b.ubBit 0] (.idp4 sat za zb d a b c)
      ?_ hw
  simp only [List.getD_cons_zero]
  generalize (enc2 c.code b.ubBit 0).toNat = W at *
  have f0 : W / 2 ^ 25 = c.code := by first | omega | (simp only [fld]; omega)
  have f1 : W / 2 ^ 24 % 2 = b.ubBit := by first | omega | (simp only [fld]; omega)
  have f2 : W % 2 ^ 24 = 0 := by first | omega | (simp only [fld]; omega)
  have tsat : toBool ((ofBool sat * 4 + ofBool za * 2 + ofBool zb) / 4) = sat := by
    cases sat <;> cases za <;> cases zb <;> rfl
  have tza : toBool ((ofBool sat * 4 + ofBool za * 2 + ofBool zb) / 2) = za := by
    cases sat <;> cases za <;> cases zb <;> rfl
  have tzb : toBool (ofBool sat * 4 + ofBool za * 2 + ofBool zb) = zb := by
    cases sat <;> cases za <;> cases zb <;> rfl
  have e (m d a b w : Nat) : decL2 0x62 m d a b w = (
 do
      guard ((w % 2 ^ 24) = 0)
      some (.idp4 (toBool (m / 4)) (toBool (m / 2)) (toBool m) (← lspecOf d) (← lspecOf a) (← lusrcOf (w / 2 ^ 24 % 2) b)
        (← lspecOf (w / 2 ^ 25)))) := rfl
  rw [if_neg (by decide), if_pos (by decide), if_pos (by decide), e]
  simp only [tsat, tza, tzb, f0, f1, f2]
  simp [guard]

theorem ffma (r : Rnd) (d : LSpec) (a : LSpec) (b : LUSrc) (c : LSpec) : Statement (.ffma r d a b
    c) := by
  intro _ hw
  have h0 := r.code_lt
  have h1 := d.code_lt
  have h2 := a.code_lt
  have h3 := b.code_lt
  have h4 := b.ubBit_lt
  have h5 := c.code_lt
  have he : encode (.ffma r d a b c) = [enc1 0 0x69 r.code d.code a.code b.code, enc2 c.code
      b.ubBit 0] := rfl
  have hf : Fits1 0 0x69 r.code d.code a.code b.code := by
    constructor
    iterate 6 (first | omega | (simp only [modI, modB, cmpD]; omega))
  have hv : (enc2 c.code b.ubBit 0).toNat = c.code * 2 ^ 25 + b.ubBit * 2 ^ 24 + 0 := by
    simp only [enc2, encMem, encAtom, BitVec.toNat_ofNat]; exact Nat.mod_eq_of_lt (by omega)
  rw [he]
  refine decode_enc1 hf (by decide) (by decide) [enc2 c.code b.ubBit 0] (.ffma r d a b c) ?_ hw
  simp only [List.getD_cons_zero]
  generalize (enc2 c.code b.ubBit 0).toNat = W at *
  have f0 : W / 2 ^ 25 = c.code := by first | omega | (simp only [fld]; omega)
  have f1 : W / 2 ^ 24 % 2 = b.ubBit := by first | omega | (simp only [fld]; omega)
  have f2 : W % 2 ^ 24 = 0 := by first | omega | (simp only [fld]; omega)
  have e (m d a b w : Nat) : decL2 0x69 m d a b w = (
 do
      guard ((w % 2 ^ 24) = 0)
      some (.ffma (← rndOf m) (← lspecOf d) (← lspecOf a) (← lusrcOf (w / 2 ^ 24 % 2) b) (← lspecOf (w / 2 ^ 25)))) := rfl
  rw [if_neg (by decide), if_pos (by decide), if_pos (by decide), e]
  simp only [f0, f1, f2]
  simp [guard]

theorem dfma (r : Rnd) (d : LSpec) (a : LSpec) (b : LUSrc) (c : LSpec) : Statement (.dfma r d a b
    c) := by
  intro _ hw
  have h0 := r.code_lt
  have h1 := d.code_lt
  have h2 := a.code_lt
  have h3 := b.code_lt
  have h4 := b.ubBit_lt
  have h5 := c.code_lt
  have he : encode (.dfma r d a b c) = [enc1 0 0x6b r.code d.code a.code b.code, enc2 c.code
      b.ubBit 0] := rfl
  have hf : Fits1 0 0x6b r.code d.code a.code b.code := by
    constructor
    iterate 6 (first | omega | (simp only [modI, modB, cmpD]; omega))
  have hv : (enc2 c.code b.ubBit 0).toNat = c.code * 2 ^ 25 + b.ubBit * 2 ^ 24 + 0 := by
    simp only [enc2, encMem, encAtom, BitVec.toNat_ofNat]; exact Nat.mod_eq_of_lt (by omega)
  rw [he]
  refine decode_enc1 hf (by decide) (by decide) [enc2 c.code b.ubBit 0] (.dfma r d a b c) ?_ hw
  simp only [List.getD_cons_zero]
  generalize (enc2 c.code b.ubBit 0).toNat = W at *
  have f0 : W / 2 ^ 25 = c.code := by first | omega | (simp only [fld]; omega)
  have f1 : W / 2 ^ 24 % 2 = b.ubBit := by first | omega | (simp only [fld]; omega)
  have f2 : W % 2 ^ 24 = 0 := by first | omega | (simp only [fld]; omega)
  have e (m d a b w : Nat) : decL2 0x6b m d a b w = (
 do
      guard ((w % 2 ^ 24) = 0)
      some (.dfma (← rndOf m) (← lspecOf d) (← lspecOf a) (← lusrcOf (w / 2 ^ 24 % 2) b) (← lspecOf (w / 2 ^ 25)))) := rfl
  rw [if_neg (by decide), if_pos (by decide), if_pos (by decide), e]
  simp only [f0, f1, f2]
  simp [guard]

theorem pkfma (bf : Bool) (r : Rnd) (d : LSpec) (a : LSpec) (b : LUSrc) (c : LSpec) : Statement
    (.pkfma bf r d a b c) := by
  intro _ hw
  have h0 := ofBool_lt bf
  have h1 := r.code_lt
  have h2 := d.code_lt
  have h3 := a.code_lt
  have h4 := b.code_lt
  have h5 := b.ubBit_lt
  have h6 := c.code_lt
  have he : encode (.pkfma bf r d a b c) = [enc1 0 0x6c (ofBool bf * 4 + r.code) d.code a.code
      b.code, enc2 c.code b.ubBit 0] := rfl
  have hf : Fits1 0 0x6c (ofBool bf * 4 + r.code) d.code a.code b.code := by
    constructor
    iterate 6 (first | omega | (simp only [modI, modB, cmpD]; omega))
  have hv : (enc2 c.code b.ubBit 0).toNat = c.code * 2 ^ 25 + b.ubBit * 2 ^ 24 + 0 := by
    simp only [enc2, encMem, encAtom, BitVec.toNat_ofNat]; exact Nat.mod_eq_of_lt (by omega)
  rw [he]
  refine decode_enc1 hf (by decide) (by decide) [enc2 c.code b.ubBit 0] (.pkfma bf r d a b c) ?_ hw
  simp only [List.getD_cons_zero]
  generalize (enc2 c.code b.ubBit 0).toNat = W at *
  have f0 : W / 2 ^ 25 = c.code := by first | omega | (simp only [fld]; omega)
  have f1 : W / 2 ^ 24 % 2 = b.ubBit := by first | omega | (simp only [fld]; omega)
  have f2 : W % 2 ^ 24 = 0 := by first | omega | (simp only [fld]; omega)
  have g1 : (ofBool bf * 4 + r.code) % 4 = r.code := by omega
  have g2 : (ofBool bf * 4 + r.code) / 4 = ofBool bf := by omega
  have e (m d a b w : Nat) : decL2 0x6c m d a b w = (
 do
      guard ((w % 2 ^ 24) = 0)
      some (.pkfma (toBool (m / 4)) (← rndOf (m % 4)) (← lspecOf d) (← lspecOf a) (← lusrcOf (w / 2 ^ 24 % 2) b)
        (← lspecOf (w / 2 ^ 25)))) := rfl
  rw [if_neg (by decide), if_pos (by decide), if_pos (by decide), e]
  simp only [g1, g2, f0, f1, f2]
  simp [guard]

theorem logic3 (w : Width) (d : LSpec) (a : LSpec) (b : LUSrc) (c : LSpec) (lut : BitVec 8) :
    Statement (.logic3 w d a b c lut) := by
  intro _ hw
  have h0 := w.code_lt
  have h1 := d.code_lt
  have h2 := a.code_lt
  have h3 := b.code_lt
  have h4 := b.ubBit_lt
  have h5 := c.code_lt
  have h6 := lut.isLt
  have he : encode (.logic3 w d a b c lut) = [enc1 0 0x63 w.code d.code a.code b.code, enc2 c.code
      b.ubBit (lut.toNat * 2 ^ 16)] := rfl
  have hf : Fits1 0 0x63 w.code d.code a.code b.code := by
    constructor
    iterate 6 (first | omega | (simp only [modI, modB, cmpD]; omega))
  have hv : (enc2 c.code b.ubBit (lut.toNat * 2 ^ 16)).toNat = c.code * 2 ^ 25 + b.ubBit * 2 ^ 24
      + (lut.toNat * 2 ^ 16) := by
    simp only [enc2, encMem, encAtom, BitVec.toNat_ofNat]; exact Nat.mod_eq_of_lt (by omega)
  rw [he]
  refine decode_enc1 hf (by decide) (by decide) [enc2 c.code b.ubBit (lut.toNat * 2 ^ 16)]
      (.logic3 w d a b c lut) ?_ hw
  simp only [List.getD_cons_zero]
  generalize (enc2 c.code b.ubBit (lut.toNat * 2 ^ 16)).toNat = W at *
  have f0 : W / 2 ^ 25 = c.code := by first | omega | (simp only [fld]; omega)
  have f1 : W / 2 ^ 24 % 2 = b.ubBit := by first | omega | (simp only [fld]; omega)
  have f2 : W % 2 ^ 24 = lut.toNat * 2 ^ 16 := by first | omega | (simp only [fld]; omega)
  have f3 : W % 2 ^ 16 = 0 := by first | omega | (simp only [fld]; omega)
  have f4 : fld W 23 16 = lut.toNat := by first | omega | (simp only [fld]; omega)
  have e (m d a b w : Nat) : decL2 0x63 m d a b w = (
 do
      guard ((w % 2 ^ 16) = 0)
      some (.logic3 (← widthOf m) (← lspecOf d) (← lspecOf a) (← lusrcOf (w / 2 ^ 24 % 2) b) (← lspecOf (w / 2 ^ 25))
        (BitVec.ofNat 8 (fld w 23 16)))) := rfl
  rw [if_neg (by decide), if_pos (by decide), if_pos (by decide), e]
  simp only [f0, f1, f2, f3, f4]
  simp [guard]

theorem movi (w : Width) (k : Bool) (d : LSpec) (n : Fin 4) (i : BitVec 16) : Statement (.movi w k
    d n i) := by
  intro _ hw
  have h0 := w.code_lt
  have h1 := ofBool_lt k
  have h2 := d.code_lt
  have h3 := n.isLt
  have h4 := i.isLt
  have he : encode (.movi w k d n i) = [enc1 0 0x68 (ofBool k * 4 + w.code * 2) d.code 0 0,
      BitVec.ofNat 32 (n.val * 2 ^ 16 + i.toNat)] := rfl
  have hf : Fits1 0 0x68 (ofBool k * 4 + w.code * 2) d.code 0 0 := by
    constructor
    iterate 6 (first | omega | (simp only [modI, modB, cmpD]; omega))
  have hv : (BitVec.ofNat 32 (n.val * 2 ^ 16 + i.toNat)).toNat = n.val * 2 ^ 16 + i.toNat := by
    simp only [enc2, encMem, encAtom, BitVec.toNat_ofNat]; exact Nat.mod_eq_of_lt (by omega)
  rw [he]
  refine decode_enc1 hf (by decide) (by decide) [BitVec.ofNat 32 (n.val * 2 ^ 16 + i.toNat)]
      (.movi w k d n i) ?_ hw
  simp only [List.getD_cons_zero]
  generalize (BitVec.ofNat 32 (n.val * 2 ^ 16 + i.toNat)).toNat = W at *
  have f0 : fld W 31 18 = 0 := by first | omega | (simp only [fld]; omega)
  have f1 : fld W 17 16 = n.val := by first | omega | (simp only [fld]; omega)
  have f2 : W % 2 ^ 16 = i.toNat := by first | omega | (simp only [fld]; omega)
  have e (m d a b w : Nat) : decL2 0x68 m d a b w = (
 do
      guard (m % 2 = 0 ∧ a = 0 ∧ b = 0 ∧ fld w 31 18 = 0)
      some (.movi (← widthOf (m / 2 % 2)) (toBool (m / 4)) (← lspecOf d) (← finOf 4 (fld w 17 16))
        (BitVec.ofNat 16 (w % 2 ^ 16)))) := rfl
  rw [if_neg (by decide), if_pos (by decide), if_pos (by decide), e]
  simp only [f0, f1, f2]
  have z1 : (ofBool k * 4 + w.code * 2) % 2 = 0 := by omega
  have z2 : (ofBool k * 4 + w.code * 2) / 2 % 2 = w.code := by omega
  have z3 : (ofBool k * 4 + w.code * 2) / 4 = ofBool k := by omega
  simp only [z1, z2, z3]
  simp [guard]

theorem umovi (w : Width) (k : Bool) (d : USpec) (n : Fin 4) (i : BitVec 16) : Statement (.umovi w
    k d n i) := by
  intro _ hw
  have h0 := w.code_lt
  have h1 := ofBool_lt k
  have h2 := d.code_lt
  have h3 := n.isLt
  have h4 := i.isLt
  have he : encode (.umovi w k d n i) = [enc1 1 0x61 (ofBool k * 4 + w.code * 2) d.code 0 0,
      BitVec.ofNat 32 (n.val * 2 ^ 16 + i.toNat)] := rfl
  have hf : Fits1 1 0x61 (ofBool k * 4 + w.code * 2) d.code 0 0 := by
    constructor
    iterate 6 (first | omega | (simp only [modI, modB, cmpD]; omega))
  have hv : (BitVec.ofNat 32 (n.val * 2 ^ 16 + i.toNat)).toNat = n.val * 2 ^ 16 + i.toNat := by
    simp only [enc2, encMem, encAtom, BitVec.toNat_ofNat]; exact Nat.mod_eq_of_lt (by omega)
  rw [he]
  refine decode_enc1 hf (by decide) (by decide) [BitVec.ofNat 32 (n.val * 2 ^ 16 + i.toNat)]
      (.umovi w k d n i) ?_ hw
  simp only [List.getD_cons_zero]
  generalize (BitVec.ofNat 32 (n.val * 2 ^ 16 + i.toNat)).toNat = W at *
  have f0 : fld W 31 18 = 0 := by first | omega | (simp only [fld]; omega)
  have f1 : fld W 17 16 = n.val := by first | omega | (simp only [fld]; omega)
  have f2 : W % 2 ^ 16 = i.toNat := by first | omega | (simp only [fld]; omega)
  have e (m d a b w : Nat) : decU2 0x61 m d a b w = (
 do
      guard (m % 2 = 0 ∧ a = 0 ∧ b = 0 ∧ fld w 31 18 = 0)
      some (.umovi (← widthOf (m / 2 % 2)) (toBool (m / 4)) (← uspecOf d)
        (← finOf 4 (fld w 17 16)) (BitVec.ofNat 16 (w % 2 ^ 16)))) := rfl
  rw [if_neg (by decide), if_pos (by decide), if_neg (by decide), e]
  simp only [f0, f1, f2]
  have z1 : (ofBool k * 4 + w.code * 2) % 2 = 0 := by omega
  have z2 : (ofBool k * 4 + w.code * 2) / 2 % 2 = w.code := by omega
  have z3 : (ofBool k * 4 + w.code * 2) / 4 = ofBool k := by omega
  simp only [z1, z2, z3]
  simp [guard]

theorem umad (sat : Bool) (ty : ITy) (d : USpec) (a : USpec) (b : USpec) (c : USpec) : Statement
    (.umad sat ty d a b c) := by
  intro _ hw
  have h0 := ofBool_lt sat
  have h1 := ty.code_lt
  have h2 := d.code_lt
  have h3 := a.code_lt
  have h4 := b.code_lt
  have h5 := c.code_lt
  have he : encode (.umad sat ty d a b c) = [enc1 1 0x60 (modI sat ty) d.code a.code b.code, enc2
      c.code 0 0] := rfl
  have hf : Fits1 1 0x60 (modI sat ty) d.code a.code b.code := by
    constructor
    iterate 6 (first | omega | (simp only [modI, modB, cmpD]; omega))
  have hv : (enc2 c.code 0 0).toNat = c.code * 2 ^ 25 + 0 * 2 ^ 24 + 0 := by
    simp only [enc2, encMem, encAtom, BitVec.toNat_ofNat]; exact Nat.mod_eq_of_lt (by omega)
  rw [he]
  refine decode_enc1 hf (by decide) (by decide) [enc2 c.code 0 0] (.umad sat ty d a b c) ?_ hw
  simp only [List.getD_cons_zero]
  generalize (enc2 c.code 0 0).toNat = W at *
  have f0 : W / 2 ^ 25 = c.code := by first | omega | (simp only [fld]; omega)
  have f1 : W % 2 ^ 25 = 0 := by first | omega | (simp only [fld]; omega)
  have e (m d a b w : Nat) : decU2 0x60 m d a b w = (
 do
      guard (w % 2 ^ 25 = 0)
      some (.umad (toBool (m / 4)) (← ityOf (m % 4)) (← uspecOf d) (← uspecOf a) (← uspecOf b)
        (← uspecOf (w / 2 ^ 25)))) := rfl
  rw [if_neg (by decide), if_pos (by decide), if_neg (by decide), e]
  have ht : ty.inMod = true := by simp only [Instr.wf, Bool.and_eq_true] at hw; tauto
  simp only [f0, f1]
  simp [guard, ht]

theorem cvt (sat : Bool) (r : Rnd) (dt : CTy) (ty : CTy) (d : LSpec) (b : LUSrc) : Statement (.cvt
    sat r dt ty d b) := by
  intro _ hw
  have h0 := ofBool_lt sat
  have h1 := r.code_lt
  have h2 := dt.code_lt
  have h3 := ty.code_lt
  have h4 := d.code_lt
  have h5 := b.code_lt
  have h6 := b.ubBit_lt
  have he : encode (.cvt sat r dt ty d b) = [enc1 0 0x6d (ofBool sat * 4 + r.code) d.code 0
      b.code, enc2 0 b.ubBit (dt.code * 2 ^ 20 + ty.code * 2 ^ 16)] := rfl
  have hf : Fits1 0 0x6d (ofBool sat * 4 + r.code) d.code 0 b.code := by
    constructor
    iterate 6 (first | omega | (simp only [modI, modB, cmpD]; omega))
  have hv : (enc2 0 b.ubBit (dt.code * 2 ^ 20 + ty.code * 2 ^ 16)).toNat = 0 * 2 ^ 25 + b.ubBit *
      2 ^ 24 + (dt.code * 2 ^ 20 + ty.code * 2 ^ 16) := by
    simp only [enc2, encMem, encAtom, BitVec.toNat_ofNat]; exact Nat.mod_eq_of_lt (by omega)
  rw [he]
  refine decode_enc1 hf (by decide) (by decide) [enc2 0 b.ubBit (dt.code * 2 ^ 20 + ty.code * 2 ^
      16)] (.cvt sat r dt ty d b) ?_ hw
  simp only [List.getD_cons_zero]
  generalize (enc2 0 b.ubBit (dt.code * 2 ^ 20 + ty.code * 2 ^ 16)).toNat = W at *
  have f0 : W / 2 ^ 25 = 0 := by first | omega | (simp only [fld]; omega)
  have f1 : W / 2 ^ 24 % 2 = b.ubBit := by first | omega | (simp only [fld]; omega)
  have f2 : W % 2 ^ 16 = 0 := by first | omega | (simp only [fld]; omega)
  have f3 : fld W 23 20 = dt.code := by first | omega | (simp only [fld]; omega)
  have f4 : fld W 19 16 = ty.code := by first | omega | (simp only [fld]; omega)
  have g1 : (ofBool sat * 4 + r.code) % 4 = r.code := by omega
  have g2 : (ofBool sat * 4 + r.code) / 4 = ofBool sat := by omega
  have e (m d a b w : Nat) : decL2 0x6d m d a b w = (
 do
      guard (a = 0 ∧ (w / 2 ^ 25) = 0 ∧ (w % 2 ^ 16) = 0)
      some (.cvt (toBool (m / 4)) (← rndOf (m % 4)) (← ctyOf (fld w 23 20)) (← ctyOf (fld w 19 16))
        (← lspecOf d) (← lusrcOf (w / 2 ^ 24 % 2) b))) := rfl
  rw [if_neg (by decide), if_pos (by decide), if_pos (by decide), e]
  simp only [g1, g2, f0, f1, f2, f3, f4]
  simp [guard]

theorem bra (c : BrCond) (i : BitVec 25) : Statement (.bra c i) := by
  intro _ hw
  have h0 := c.cond_lt
  have h1 := c.num_lt
  have h2 := i.isLt
  have he : encode (.bra c i) = [enc1 0 0x74 (c.cond * 2) c.num 0 0, BitVec.ofNat 32 i.toNat] := rfl
  have hf : Fits1 0 0x74 (c.cond * 2) c.num 0 0 := by
    constructor
    iterate 6 (first | omega | (simp only [modI, modB, cmpD]; omega))
  have hv : (BitVec.ofNat 32 i.toNat).toNat = i.toNat := by
    simp only [enc2, encMem, encAtom, BitVec.toNat_ofNat]; exact Nat.mod_eq_of_lt (by omega)
  rw [he]
  refine decode_enc1 hf (by decide) (by decide) [BitVec.ofNat 32 i.toNat] (.bra c i) ?_ hw
  simp only [List.getD_cons_zero]
  generalize (BitVec.ofNat 32 i.toNat).toNat = W at *
  have e (m d a b w : Nat) : decL2 0x74 m d a b w = (
 do
      guard (m % 2 = 0 ∧ a = 0 ∧ b = 0 ∧ d < 8)
      some (.bra (← brOf (m / 2) d) (← brTarget w))) := rfl
  rw [if_neg (by decide), if_pos (by decide), if_pos (by decide), e]
  have z1 : c.cond * 2 % 2 = 0 := by omega
  have z2 : c.cond * 2 / 2 = c.cond := by omega
  have z3 : c.num < 8 := by omega
  subst hv
  simp only [z1, z2, z3]
  simp [guard]

theorem ubra (c : BrCond) (i : BitVec 25) : Statement (.ubra c i) := by
  intro _ hw
  have h0 := c.cond_lt
  have h1 := c.num_lt
  have h2 := i.isLt
  have he : encode (.ubra c i) = [enc1 1 0x62 (c.cond * 2) c.num 0 0, BitVec.ofNat 32 i.toNat] :=
      rfl
  have hf : Fits1 1 0x62 (c.cond * 2) c.num 0 0 := by
    constructor
    iterate 6 (first | omega | (simp only [modI, modB, cmpD]; omega))
  have hv : (BitVec.ofNat 32 i.toNat).toNat = i.toNat := by
    simp only [enc2, encMem, encAtom, BitVec.toNat_ofNat]; exact Nat.mod_eq_of_lt (by omega)
  rw [he]
  refine decode_enc1 hf (by decide) (by decide) [BitVec.ofNat 32 i.toNat] (.ubra c i) ?_ hw
  simp only [List.getD_cons_zero]
  generalize (BitVec.ofNat 32 i.toNat).toNat = W at *
  have e (m d a b w : Nat) : decU2 0x62 m d a b w = (
 do
      guard (m % 2 = 0 ∧ a = 0 ∧ b = 0 ∧ d < 8)
      some (.ubra (← brOf (m / 2) d) (← brTarget w))) := rfl
  rw [if_neg (by decide), if_pos (by decide), if_neg (by decide), e]
  have z1 : c.cond * 2 % 2 = 0 := by omega
  have z2 : c.cond * 2 / 2 = c.cond := by omega
  have z3 : c.num < 8 := by omega
  subst hv
  simp only [z1, z2, z3]
  simp [guard]

theorem call_ind (d : LSpec) (a : LSpec) (i : BitVec 25) : Statement (.call d a true i) := by
  intro _ hw
  have h0 := d.code_lt
  have h1 := a.code_lt
  have h2 := i.isLt
  have he : encode (.call d a true i) = [enc1 0 0x75 4 d.code a.code 0, BitVec.ofNat 32 i.toNat]
      := rfl
  have hf : Fits1 0 0x75 4 d.code a.code 0 := by
    constructor
    iterate 6 (first | omega | (simp only [modI, modB, cmpD]; omega))
  have hv : (BitVec.ofNat 32 i.toNat).toNat = i.toNat := by
    simp only [enc2, encMem, encAtom, BitVec.toNat_ofNat]; exact Nat.mod_eq_of_lt (by omega)
  rw [he]
  refine decode_enc1 hf (by decide) (by decide) [BitVec.ofNat 32 i.toNat] (.call d a true i) ?_ hw
  simp only [List.getD_cons_zero]
  generalize (BitVec.ofNat 32 i.toNat).toNat = W at *
  have e (m d a b w : Nat) : decL2 0x75 m d a b w = (
 do
      guard (m % 4 = 0 ∧ b = 0)
      some (.call (← lspecOf d) (← lspecOf a) (toBool (m / 4)) (← brTarget w))) := rfl
  rw [if_neg (by decide), if_pos (by decide), if_pos (by decide), e]
  subst hv
  simp [guard, toBool]

theorem call_rel (d : LSpec) (a : LSpec) (i : BitVec 25) : Statement (.call d a false i) := by
  intro _ hw
  have h0 := d.code_lt
  have h1 := a.code_lt
  have h2 := i.isLt
  have he : encode (.call d a false i) = [enc1 0 0x75 0 d.code a.code 0, BitVec.ofNat 32 i.toNat]
      := rfl
  have hf : Fits1 0 0x75 0 d.code a.code 0 := by
    constructor
    iterate 6 (first | omega | (simp only [modI, modB, cmpD]; omega))
  have hv : (BitVec.ofNat 32 i.toNat).toNat = i.toNat := by
    simp only [enc2, encMem, encAtom, BitVec.toNat_ofNat]; exact Nat.mod_eq_of_lt (by omega)
  rw [he]
  refine decode_enc1 hf (by decide) (by decide) [BitVec.ofNat 32 i.toNat] (.call d a false i) ?_ hw
  simp only [List.getD_cons_zero]
  generalize (BitVec.ofNat 32 i.toNat).toNat = W at *
  have e (m d a b w : Nat) : decL2 0x75 m d a b w = (
 do
      guard (m % 4 = 0 ∧ b = 0)
      some (.call (← lspecOf d) (← lspecOf a) (toBool (m / 4)) (← brTarget w))) := rfl
  rw [if_neg (by decide), if_pos (by decide), if_pos (by decide), e]
  subst hv
  simp [guard, toBool]

theorem call (d a : LSpec) (ind : Bool) (i : BitVec 25) : Statement (.call d a ind i) := by
  cases ind
  · exact call_rel d a i
  · exact call_ind d a i

theorem ld (str : Bool) (acq : Bool) (ty : LdTy) (sc : Option Scope) (m : MemOp) (d : LSpec) (i :
    BitVec 16) : Statement (.ld str acq ty sc m d i) := by
  intro _ hw
  have h0 := ofBool_lt str
  have h1 := ofBool_lt acq
  have h2 := ty.code_lt
  have h3 := oscopeCode_lt sc
  have h4 := m.base.code_lt
  have h5 := m.off.code_lt
  have h6 := m.space.code_lt
  have h7 := m.scale.isLt
  have h8 := d.code_lt
  have h9 := i.isLt
  have he : encode (.ld str acq ty sc m d i) = [enc1 0 0x6e (ofBool str * 4 + ofBool acq) d.code
      m.off.code (ty.code * 8), encMem m (oscopeCode sc) i.toNat] := rfl
  have hf : Fits1 0 0x6e (ofBool str * 4 + ofBool acq) d.code m.off.code (ty.code * 8) := by
    constructor
    iterate 6 (first | omega | (simp only [modI, modB, cmpD]; omega))
  have hv : (encMem m (oscopeCode sc) i.toNat).toNat = m.base.code * 2 ^ 25 + oscopeCode sc * 2 ^
      21 + m.space.code * 2 ^ 18 + m.scale.val * 2 ^ 16 + i.toNat := by
    simp only [enc2, encMem, encAtom, BitVec.toNat_ofNat]; exact Nat.mod_eq_of_lt (by omega)
  rw [he]
  refine decode_enc1 hf (by decide) (by decide) [encMem m (oscopeCode sc) i.toNat] (.ld str acq ty
      sc m d i) ?_ hw
  simp only [List.getD_cons_zero]
  generalize (encMem m (oscopeCode sc) i.toNat).toNat = W at *
  have f0 : W / 2 ^ 25 = m.base.code := by first | omega | (simp only [fld]; omega)
  have f1 : fld W 24 21 = oscopeCode sc := by first | omega | (simp only [fld]; omega)
  have f2 : fld W 20 18 = m.space.code := by first | omega | (simp only [fld]; omega)
  have f3 : fld W 17 16 = m.scale.val := by first | omega | (simp only [fld]; omega)
  have f4 : W % 2 ^ 16 = i.toNat := by first | omega | (simp only [fld]; omega)
  have g1 : (ofBool str * 4 + ofBool acq) % 4 = ofBool acq := by omega
  have g2 : (ofBool str * 4 + ofBool acq) / 4 = ofBool str := by omega
  have e (m d a b w : Nat) : decL2 0x6e m d a b w = (
 do
      guard (m % 4 < 2 ∧ b % 8 = 0)
      some (.ld (toBool (m / 4)) (toBool m) (← ldTyOf (b / 8)) (← oscopeOf (fld w 24 21))
        (← memOf (fld w 20 18) (w / 2 ^ 25) a (fld w 17 16)) (← lspecOf d) (BitVec.ofNat 16 (w % 2 ^ 16)))) := rfl
  rw [if_neg (by decide), if_pos (by decide), if_pos (by decide), e]
  simp only [g1, g2, f0, f1, f2, f3, f4]
  have z1 : ofBool acq < 2 := by omega
  have z2 : ty.code * 8 % 8 = 0 := by omega
  have z3 : ty.code * 8 / 8 = ty.code := by omega
  have z4 : toBool (ofBool str * 4 + ofBool acq) = acq := toBool_low _ _
  simp only [z1, z2, z3, z4]
  simp [guard, memOf]

theorem st (str : Bool) (rel : Bool) (ty : StTy) (sc : Option Scope) (m : MemOp) (d : LSpec) (i :
    BitVec 16) : Statement (.st str rel ty sc m d i) := by
  intro _ hw
  have h0 := ofBool_lt str
  have h1 := ofBool_lt rel
  have h2 := ty.code_lt
  have h3 := oscopeCode_lt sc
  have h4 := m.base.code_lt
  have h5 := m.off.code_lt
  have h6 := m.space.code_lt
  have h7 := m.scale.isLt
  have h8 := d.code_lt
  have h9 := i.isLt
  have he : encode (.st str rel ty sc m d i) = [enc1 0 0x6f (ofBool str * 4 + ofBool rel) d.code
      m.off.code (ty.code * 8), encMem m (oscopeCode sc) i.toNat] := rfl
  have hf : Fits1 0 0x6f (ofBool str * 4 + ofBool rel) d.code m.off.code (ty.code * 8) := by
    constructor
    iterate 6 (first | omega | (simp only [modI, modB, cmpD]; omega))
  have hv : (encMem m (oscopeCode sc) i.toNat).toNat = m.base.code * 2 ^ 25 + oscopeCode sc * 2 ^
      21 + m.space.code * 2 ^ 18 + m.scale.val * 2 ^ 16 + i.toNat := by
    simp only [enc2, encMem, encAtom, BitVec.toNat_ofNat]; exact Nat.mod_eq_of_lt (by omega)
  rw [he]
  refine decode_enc1 hf (by decide) (by decide) [encMem m (oscopeCode sc) i.toNat] (.st str rel ty
      sc m d i) ?_ hw
  simp only [List.getD_cons_zero]
  generalize (encMem m (oscopeCode sc) i.toNat).toNat = W at *
  have f0 : W / 2 ^ 25 = m.base.code := by first | omega | (simp only [fld]; omega)
  have f1 : fld W 24 21 = oscopeCode sc := by first | omega | (simp only [fld]; omega)
  have f2 : fld W 20 18 = m.space.code := by first | omega | (simp only [fld]; omega)
  have f3 : fld W 17 16 = m.scale.val := by first | omega | (simp only [fld]; omega)
  have f4 : W % 2 ^ 16 = i.toNat := by first | omega | (simp only [fld]; omega)
  have g1 : (ofBool str * 4 + ofBool rel) % 4 = ofBool rel := by omega
  have g2 : (ofBool str * 4 + ofBool rel) / 4 = ofBool str := by omega
  have e (m d a b w : Nat) : decL2 0x6f m d a b w = (
 do
      guard (m % 4 < 2 ∧ b % 8 = 0)
      some (.st (toBool (m / 4)) (toBool m) (← stTyOf (b / 8)) (← oscopeOf (fld w 24 21))
        (← memOf (fld w 20 18) (w / 2 ^ 25) a (fld w 17 16)) (← lspecOf d) (BitVec.ofNat 16 (w % 2 ^ 16)))) := rfl
  rw [if_neg (by decide), if_pos (by decide), if_pos (by decide), e]
  simp only [g1, g2, f0, f1, f2, f3, f4]
  have z1 : ofBool rel < 2 := by omega
  have z2 : ty.code * 8 % 8 = 0 := by omega
  have z3 : ty.code * 8 / 8 = ty.code := by omega
  have z4 : toBool (ofBool str * 4 + ofBool rel) = rel := toBool_low _ _
  simp only [z1, z2, z3, z4]
  simp [guard, memOf]

theorem atom (op : AOp) (ty : ATy) (o : Ord4) (sc : Scope) (m : MemOp) (d : LSpec) (b : LSpec) (c
    : LSpec) : Statement (.atom op ty o sc m d b c) := by
  intro _ hw
  have h0 := op.code_lt
  have h1 := ty.code_lt
  have h2 := o.code_lt
  have h3 := sc.code_lt
  have h4 := m.base.code_lt
  have h5 := m.off.code_lt
  have h6 := m.space.code_lt
  have h7 := m.scale.isLt
  have h8 := d.code_lt
  have h9 := b.code_lt
  have h10 := c.code_lt
  have hs : m.space.code < 4 := by
    simp only [Instr.wf, Bool.and_eq_true] at hw
    have hm : m.wfAtom = true := by tauto
    revert hm
    rcases m with ⟨sp, _, _, _⟩
    cases sp <;> simp [MemOp.wfAtom, Space.code]
  have he : encode (.atom op ty o sc m d b c) = [enc1 0 0x70 o.code d.code m.off.code b.code,
      encAtom c.code m op ty sc] := rfl
  have hf : Fits1 0 0x70 o.code d.code m.off.code b.code := by
    constructor
    iterate 6 (first | omega | (simp only [modI, modB, cmpD]; omega))
  have hv : (encAtom c.code m op ty sc).toNat = c.code * 2 ^ 25 + m.base.code * 2 ^ 18 +
      m.scale.val * 2 ^ 16 + op.code * 2 ^ 12 + ty.code * 2 ^ 9 + sc.code * 2 ^ 5 + m.space.code *
      2 ^ 3 := by
    simp only [enc2, encMem, encAtom, BitVec.toNat_ofNat]; exact Nat.mod_eq_of_lt (by omega)
  rw [he]
  refine decode_enc1 hf (by decide) (by decide) [encAtom c.code m op ty sc] (.atom op ty o sc m d
      b c) ?_ hw
  simp only [List.getD_cons_zero]
  generalize (encAtom c.code m op ty sc).toNat = W at *
  have f0 : W / 2 ^ 25 = c.code := by first | omega | (simp only [fld]; omega)
  have f1 : fld W 2 0 = 0 := by first | omega | (simp only [fld]; omega)
  have f2 : fld W 15 12 = op.code := by first | omega | (simp only [fld]; omega)
  have f3 : fld W 11 9 = ty.code := by first | omega | (simp only [fld]; omega)
  have f4 : fld W 8 5 = sc.code := by first | omega | (simp only [fld]; omega)
  have f5 : fld W 4 3 = m.space.code := by first | omega | (simp only [fld]; omega)
  have f6 : fld W 24 18 = m.base.code := by first | omega | (simp only [fld]; omega)
  have f7 : fld W 17 16 = m.scale.val := by first | omega | (simp only [fld]; omega)
  have e (m d a b w : Nat) : decL2 0x70 m d a b w = (
 do
      guard (fld w 2 0 = 0)
      some (.atom (← aopOf (fld w 15 12)) (← atyOf (fld w 11 9)) (← ordOf m)
        (← scopeOf (fld w 8 5)) (← memOf (fld w 4 3) (fld w 24 18) a (fld w 17 16))
        (← lspecOf d) (← lspecOf b) (← lspecOf (w / 2 ^ 25)))) := rfl
  rw [if_neg (by decide), if_pos (by decide), if_pos (by decide), e]
  simp only [f0, f1, f2, f3, f4, f5, f6, f7]
  simp [guard, memOf]

theorem red (op : AOp) (ty : ATy) (o : Ord4) (sc : Scope) (m : MemOp) (b : LSpec) : Statement
    (.red op ty o sc m b) := by
  intro _ hw
  have h0 := op.code_lt
  have h1 := ty.code_lt
  have h2 := o.code_lt
  have h3 := sc.code_lt
  have h4 := m.base.code_lt
  have h5 := m.off.code_lt
  have h6 := m.space.code_lt
  have h7 := m.scale.isLt
  have h8 := b.code_lt
  have hs : m.space.code < 4 := by
    simp only [Instr.wf, Bool.and_eq_true] at hw
    have hm : m.wfAtom = true := by tauto
    revert hm
    rcases m with ⟨sp, _, _, _⟩
    cases sp <;> simp [MemOp.wfAtom, Space.code]
  have he : encode (.red op ty o sc m b) = [enc1 0 0x71 o.code 0 m.off.code b.code, encAtom 0 m op
      ty sc] := rfl
  have hf : Fits1 0 0x71 o.code 0 m.off.code b.code := by
    constructor
    iterate 6 (first | omega | (simp only [modI, modB, cmpD]; omega))
  have hv : (encAtom 0 m op ty sc).toNat = 0 * 2 ^ 25 + m.base.code * 2 ^ 18 + m.scale.val * 2 ^
      16 + op.code * 2 ^ 12 + ty.code * 2 ^ 9 + sc.code * 2 ^ 5 + m.space.code * 2 ^ 3 := by
    simp only [enc2, encMem, encAtom, BitVec.toNat_ofNat]; exact Nat.mod_eq_of_lt (by omega)
  rw [he]
  refine decode_enc1 hf (by decide) (by decide) [encAtom 0 m op ty sc] (.red op ty o sc m b) ?_ hw
  simp only [List.getD_cons_zero]
  generalize (encAtom 0 m op ty sc).toNat = W at *
  have f0 : W / 2 ^ 25 = 0 := by first | omega | (simp only [fld]; omega)
  have f1 : fld W 2 0 = 0 := by first | omega | (simp only [fld]; omega)
  have f2 : fld W 15 12 = op.code := by first | omega | (simp only [fld]; omega)
  have f3 : fld W 11 9 = ty.code := by first | omega | (simp only [fld]; omega)
  have f4 : fld W 8 5 = sc.code := by first | omega | (simp only [fld]; omega)
  have f5 : fld W 4 3 = m.space.code := by first | omega | (simp only [fld]; omega)
  have f6 : fld W 24 18 = m.base.code := by first | omega | (simp only [fld]; omega)
  have f7 : fld W 17 16 = m.scale.val := by first | omega | (simp only [fld]; omega)
  have e (m d a b w : Nat) : decL2 0x71 m d a b w = (
 do
      guard (fld w 2 0 = 0 ∧ d = 0 ∧ (w / 2 ^ 25) = 0)
      some (.red (← aopOf (fld w 15 12)) (← atyOf (fld w 11 9)) (← ordOf m)
        (← scopeOf (fld w 8 5)) (← memOf (fld w 4 3) (fld w 24 18) a (fld w 17 16))
        (← lspecOf b))) := rfl
  rw [if_neg (by decide), if_pos (by decide), if_pos (by decide), e]
  simp only [f0, f1, f2, f3, f4, f5, f6, f7]
  simp [guard, memOf]

theorem lnx (o : Ord4) (d : LSpec) (a : LSpec) (b : LSpec) (c : LSpec) (base : USpec) (sc : Fin 4)
    (idx : Fin 64) (i : BitVec 10) : Statement (.lnx o d a b c base sc idx i) := by
  intro _ hw
  have h0 := o.code_lt
  have h1 := d.code_lt
  have h2 := a.code_lt
  have h3 := b.code_lt
  have h4 := c.code_lt
  have h5 := base.code_lt
  have h6 := sc.isLt
  have h7 := idx.isLt
  have h8 := i.isLt
  have he : encode (.lnx o d a b c base sc idx i) = [enc1 0 0x6a o.code d.code a.code b.code,
      BitVec.ofNat 32 (c.code * 2 ^ 25 + base.code * 2 ^ 18 + sc.val * 2 ^ 16 + idx.val * 2 ^ 10 +
      i.toNat)] := rfl
  have hf : Fits1 0 0x6a o.code d.code a.code b.code := by
    constructor
    iterate 6 (first | omega | (simp only [modI, modB, cmpD]; omega))
  have hv : (BitVec.ofNat 32 (c.code * 2 ^ 25 + base.code * 2 ^ 18 + sc.val * 2 ^ 16 + idx.val * 2
      ^ 10 + i.toNat)).toNat = c.code * 2 ^ 25 + base.code * 2 ^ 18 + sc.val * 2 ^ 16 + idx.val *
      2 ^ 10 + i.toNat := by
    simp only [enc2, encMem, encAtom, BitVec.toNat_ofNat]; exact Nat.mod_eq_of_lt (by omega)
  rw [he]
  refine decode_enc1 hf (by decide) (by decide) [BitVec.ofNat 32 (c.code * 2 ^ 25 + base.code * 2
      ^ 18 + sc.val * 2 ^ 16 + idx.val * 2 ^ 10 + i.toNat)] (.lnx o d a b c base sc idx i) ?_ hw
  simp only [List.getD_cons_zero]
  generalize (BitVec.ofNat 32 (c.code * 2 ^ 25 + base.code * 2 ^ 18 + sc.val * 2 ^ 16 + idx.val * 2 ^ 10 + i.toNat)).toNat = W at *
  have f0 : W / 2 ^ 25 = c.code := by first | omega | (simp only [fld]; omega)
  have f1 : fld W 24 18 = base.code := by first | omega | (simp only [fld]; omega)
  have f2 : fld W 17 16 = sc.val := by first | omega | (simp only [fld]; omega)
  have f3 : fld W 15 10 = idx.val := by first | omega | (simp only [fld]; omega)
  have f4 : fld W 9 0 = i.toNat := by first | omega | (simp only [fld]; omega)
  have e (m d a b w : Nat) : decL2 0x6a m d a b w = (
 do
      some (.lnx (← ordOf m) (← lspecOf d) (← lspecOf a) (← lspecOf b) (← lspecOf (w / 2 ^ 25))
        (← uspecOf (fld w 24 18)) (← finOf 4 (fld w 17 16)) (← finOf 64 (fld w 15 10))
        (BitVec.ofNat 10 (fld w 9 0)))) := rfl
  rw [if_neg (by decide), if_pos (by decide), if_pos (by decide), e]
  simp only [f0, f1, f2, f3, f4]
  simp [guard]

theorem waita (c : WCond) (w : Width) (acq : Bool) (sc : Scope) (m : MemOp) (d : LSpec) (b :
    LSpec) (i : BitVec 13) : Statement (.waita c w acq sc m d b i) := by
  intro _ hw
  have h0 := c.code_lt
  have h1 := w.code_lt
  have h2 := ofBool_lt acq
  have h3 := sc.code_lt
  have h4 := m.base.code_lt
  have h5 := m.off.code_lt
  have h6 := m.space.code_lt
  have h7 := m.scale.isLt
  have h8 := d.code_lt
  have h9 := b.code_lt
  have h10 := i.isLt
  have he : encode (.waita c w acq sc m d b i) = [enc1 0 0x72 (ofBool acq * 4 + w.code) d.code
      m.off.code b.code, encMem m sc.code (c.code * 2 ^ 13 + i.toNat)] := rfl
  have hf : Fits1 0 0x72 (ofBool acq * 4 + w.code) d.code m.off.code b.code := by
    constructor
    iterate 6 (first | omega | (simp only [modI, modB, cmpD]; omega))
  have hv : (encMem m sc.code (c.code * 2 ^ 13 + i.toNat)).toNat = m.base.code * 2 ^ 25 + sc.code
      * 2 ^ 21 + m.space.code * 2 ^ 18 + m.scale.val * 2 ^ 16 + (c.code * 2 ^ 13 + i.toNat) := by
    simp only [enc2, encMem, encAtom, BitVec.toNat_ofNat]; exact Nat.mod_eq_of_lt (by omega)
  rw [he]
  refine decode_enc1 hf (by decide) (by decide) [encMem m sc.code (c.code * 2 ^ 13 + i.toNat)]
      (.waita c w acq sc m d b i) ?_ hw
  simp only [List.getD_cons_zero]
  generalize (encMem m sc.code (c.code * 2 ^ 13 + i.toNat)).toNat = W at *
  have f0 : W / 2 ^ 25 = m.base.code := by first | omega | (simp only [fld]; omega)
  have f1 : fld W 24 21 = sc.code := by first | omega | (simp only [fld]; omega)
  have f2 : fld W 20 18 = m.space.code := by first | omega | (simp only [fld]; omega)
  have f3 : fld W 17 16 = m.scale.val := by first | omega | (simp only [fld]; omega)
  have f4 : fld W 15 13 = c.code := by first | omega | (simp only [fld]; omega)
  have f5 : fld W 12 0 = i.toNat := by first | omega | (simp only [fld]; omega)
  have g1 : (ofBool acq * 4 + w.code) % 4 = w.code := by omega
  have g2 : (ofBool acq * 4 + w.code) / 4 = ofBool acq := by omega
  have e (m d a b w : Nat) : decL2 0x72 m d a b w = (
 do
      some (.waita (← wcondOf (fld w 15 13)) (← widthOf (m % 4)) (toBool (m / 4)) (← scopeOf (fld w 24 21))
        (← memOf (fld w 20 18) (w / 2 ^ 25) a (fld w 17 16)) (← lspecOf d) (← lspecOf b)
        (BitVec.ofNat 13 (fld w 12 0)))) := rfl
  rw [if_neg (by decide), if_pos (by decide), if_pos (by decide), e]
  simp only [g1, g2, f0, f1, f2, f3, f4, f5]
  simp [guard, memOf]

theorem wcall (base : USpec) (q : LSpec) (svc : BitVec 16) : Statement (.wcall base q svc) := by
  intro _ hw
  have h0 := base.code_lt
  have h1 := q.code_lt
  have h2 := svc.isLt
  have he : encode (.wcall base q svc) = [enc1 0 0x77 0 0 q.code 0, BitVec.ofNat 32 (base.code * 2
      ^ 25 + svc.toNat)] := rfl
  have hf : Fits1 0 0x77 0 0 q.code 0 := by
    constructor
    iterate 6 (first | omega | (simp only [modI, modB, cmpD]; omega))
  have hv : (BitVec.ofNat 32 (base.code * 2 ^ 25 + svc.toNat)).toNat = base.code * 2 ^ 25 +
      svc.toNat := by
    simp only [enc2, encMem, encAtom, BitVec.toNat_ofNat]; exact Nat.mod_eq_of_lt (by omega)
  rw [he]
  refine decode_enc1 hf (by decide) (by decide) [BitVec.ofNat 32 (base.code * 2 ^ 25 + svc.toNat)]
      (.wcall base q svc) ?_ hw
  simp only [List.getD_cons_zero]
  generalize (BitVec.ofNat 32 (base.code * 2 ^ 25 + svc.toNat)).toNat = W at *
  have f0 : W / 2 ^ 25 = base.code := by first | omega | (simp only [fld]; omega)
  have f1 : fld W 24 16 = 0 := by first | omega | (simp only [fld]; omega)
  have f2 : W % 2 ^ 16 = svc.toNat := by first | omega | (simp only [fld]; omega)
  have e (m d a b w : Nat) : decL2 0x77 m d a b w = (
 do
      guard (m = 0 ∧ d = 0 ∧ b = 0 ∧ fld w 24 16 = 0)
      some (.wcall (← uspecOf (w / 2 ^ 25)) (← lspecOf a) (BitVec.ofNat 16 (w % 2 ^ 16)))) := rfl
  rw [if_neg (by decide), if_pos (by decide), if_pos (by decide), e]
  simp only [f0, f1, f2]
  simp [guard]

theorem bfx_reg (w : Width) (s : Bool) (d : LSpec) (a : LSpec) (c : LSpec) : Statement (.bfx w s d
    a (.reg c)) := by
  intro _ hw
  have h0 := w.code_lt
  have h1 := ofBool_lt s
  have h2 := d.code_lt
  have h3 := a.code_lt
  have h4 := c.code_lt
  have he : encode (.bfx w s d a (.reg c)) = [enc1 0 0x65 w.code d.code a.code 0, enc2 c.code 0 (2
      ^ 23 + ofBool s * 2 ^ 22)] := rfl
  have hf : Fits1 0 0x65 w.code d.code a.code 0 := by
    constructor
    iterate 6 (first | omega | (simp only [modI, modB, cmpD]; omega))
  have hv : (enc2 c.code 0 (2 ^ 23 + ofBool s * 2 ^ 22)).toNat = c.code * 2 ^ 25 + 0 * 2 ^ 24 + (2
      ^ 23 + ofBool s * 2 ^ 22) := by
    simp only [enc2, encMem, encAtom, BitVec.toNat_ofNat]; exact Nat.mod_eq_of_lt (by omega)
  rw [he]
  refine decode_enc1 hf (by decide) (by decide) [enc2 c.code 0 (2 ^ 23 + ofBool s * 2 ^ 22)] (.bfx
      w s d a (.reg c)) ?_ hw
  simp only [List.getD_cons_zero]
  generalize (enc2 c.code 0 (2 ^ 23 + ofBool s * 2 ^ 22)).toNat = W at *
  have f0 : W / 2 ^ 25 = c.code := by first | omega | (simp only [fld]; omega)
  have f1 : fld W 23 23 = 1 := by first | omega | (simp only [fld]; omega)
  have f2 : W % 2 ^ 16 = 0 := by first | omega | (simp only [fld]; omega)
  have f3 : W / 2 ^ 24 % 2 = 0 := by first | omega | (simp only [fld]; omega)
  have f4 : fld W 21 16 = 0 := by first | omega | (simp only [fld]; omega)
  have f5 : fld W 22 22 = ofBool s := by first | omega | (simp only [fld]; omega)
  have e (m d a b w : Nat) : decL2 0x65 m d a b w = (
 do
      guard (b = 0 ∧ (w / 2 ^ 24 % 2) = 0 ∧ fld w 21 16 = 0)
      let f ← if fld w 23 23 = 1 then (if (w % 2 ^ 16) = 0 then (lspecOf (w / 2 ^ 25)).map BfSel.reg else none)
        else (if (w / 2 ^ 25) = 0 then
            some (BfSel.imm (BitVec.ofNat 8 (fld w 7 0)) (BitVec.ofNat 8 (fld w 15 8))) else none)
      some (.bfx (← widthOf m) (toBool (fld w 22 22)) (← lspecOf d) (← lspecOf a) f)) := rfl
  rw [if_neg (by decide), if_pos (by decide), if_pos (by decide), e]
  simp only [f0, f1, f2, f3, f4, f5]
  simp [guard]

theorem bfi_reg (w : Width) (d : LSpec) (a : LSpec) (b : LUSrc) (c : LSpec) : Statement (.bfi w d
    a b (.reg c)) := by
  intro _ hw
  have h0 := w.code_lt
  have h1 := d.code_lt
  have h2 := a.code_lt
  have h3 := b.code_lt
  have h4 := b.ubBit_lt
  have h5 := c.code_lt
  have he : encode (.bfi w d a b (.reg c)) = [enc1 0 0x66 w.code d.code a.code b.code, enc2 c.code
      b.ubBit (2 ^ 23)] := rfl
  have hf : Fits1 0 0x66 w.code d.code a.code b.code := by
    constructor
    iterate 6 (first | omega | (simp only [modI, modB, cmpD]; omega))
  have hv : (enc2 c.code b.ubBit (2 ^ 23)).toNat = c.code * 2 ^ 25 + b.ubBit * 2 ^ 24 + 2 ^ 23 := by
    simp only [enc2, encMem, encAtom, BitVec.toNat_ofNat]; exact Nat.mod_eq_of_lt (by omega)
  rw [he]
  refine decode_enc1 hf (by decide) (by decide) [enc2 c.code b.ubBit (2 ^ 23)] (.bfi w d a b (.reg
      c)) ?_ hw
  simp only [List.getD_cons_zero]
  generalize (enc2 c.code b.ubBit (2 ^ 23)).toNat = W at *
  have f0 : W / 2 ^ 25 = c.code := by first | omega | (simp only [fld]; omega)
  have f1 : fld W 23 23 = 1 := by first | omega | (simp only [fld]; omega)
  have f2 : W % 2 ^ 16 = 0 := by first | omega | (simp only [fld]; omega)
  have f3 : W / 2 ^ 24 % 2 = b.ubBit := by first | omega | (simp only [fld]; omega)
  have f4 : fld W 22 16 = 0 := by first | omega | (simp only [fld]; omega)
  have e (m d a b w : Nat) : decL2 0x66 m d a b w = (
 do
      guard (fld w 22 16 = 0)
      let f ← if fld w 23 23 = 1 then (if (w % 2 ^ 16) = 0 then (lspecOf (w / 2 ^ 25)).map BfSel.reg else none)
        else (if (w / 2 ^ 25) = 0 then
            some (BfSel.imm (BitVec.ofNat 8 (fld w 7 0)) (BitVec.ofNat 8 (fld w 15 8))) else none)
      some (.bfi (← widthOf m) (← lspecOf d) (← lspecOf a) (← lusrcOf (w / 2 ^ 24 % 2) b) f)) := rfl
  rw [if_neg (by decide), if_pos (by decide), if_pos (by decide), e]
  simp only [f0, f1, f2, f3, f4]
  simp [guard]

theorem bfx_imm (w : Width) (s : Bool) (d : LSpec) (a : LSpec) (p : BitVec 8) (l : BitVec 8) :
    Statement (.bfx w s d a (.imm p l)) := by
  intro _ hw
  have h0 := w.code_lt
  have h1 := ofBool_lt s
  have h2 := d.code_lt
  have h3 := a.code_lt
  have h4 := p.isLt
  have h5 := l.isLt
  have he : encode (.bfx w s d a (.imm p l)) = [enc1 0 0x65 w.code d.code a.code 0, enc2 0 0
      ((l.toNat * 2 ^ 8 + p.toNat) + ofBool s * 2 ^ 22)] := rfl
  have hf : Fits1 0 0x65 w.code d.code a.code 0 := by
    constructor
    iterate 6 (first | omega | (simp only [modI, modB, cmpD]; omega))
  have hv : (enc2 0 0 ((l.toNat * 2 ^ 8 + p.toNat) + ofBool s * 2 ^ 22)).toNat = 0 * 2 ^ 25 + 0 *
      2 ^ 24 + ((l.toNat * 2 ^ 8 + p.toNat) + ofBool s * 2 ^ 22) := by
    simp only [enc2, encMem, encAtom, BitVec.toNat_ofNat]; exact Nat.mod_eq_of_lt (by omega)
  rw [he]
  refine decode_enc1 hf (by decide) (by decide) [enc2 0 0 ((l.toNat * 2 ^ 8 + p.toNat) + ofBool s
      * 2 ^ 22)] (.bfx w s d a (.imm p l)) ?_ hw
  simp only [List.getD_cons_zero]
  generalize (enc2 0 0 ((l.toNat * 2 ^ 8 + p.toNat) + ofBool s * 2 ^ 22)).toNat = W at *
  have f0 : W / 2 ^ 25 = 0 := by first | omega | (simp only [fld]; omega)
  have f1 : fld W 23 23 = 0 := by first | omega | (simp only [fld]; omega)
  have f2 : fld W 7 0 = p.toNat := by first | omega | (simp only [fld]; omega)
  have f3 : fld W 15 8 = l.toNat := by first | omega | (simp only [fld]; omega)
  have f4 : W / 2 ^ 24 % 2 = 0 := by first | omega | (simp only [fld]; omega)
  have f5 : fld W 21 16 = 0 := by first | omega | (simp only [fld]; omega)
  have f6 : fld W 22 22 = ofBool s := by first | omega | (simp only [fld]; omega)
  have e (m d a b w : Nat) : decL2 0x65 m d a b w = (
 do
      guard (b = 0 ∧ (w / 2 ^ 24 % 2) = 0 ∧ fld w 21 16 = 0)
      let f ← if fld w 23 23 = 1 then (if (w % 2 ^ 16) = 0 then (lspecOf (w / 2 ^ 25)).map BfSel.reg else none)
        else (if (w / 2 ^ 25) = 0 then
            some (BfSel.imm (BitVec.ofNat 8 (fld w 7 0)) (BitVec.ofNat 8 (fld w 15 8))) else none)
      some (.bfx (← widthOf m) (toBool (fld w 22 22)) (← lspecOf d) (← lspecOf a) f)) := rfl
  rw [if_neg (by decide), if_pos (by decide), if_pos (by decide), e]
  simp only [f0, f1, f2, f3, f4, f5, f6]
  simp [guard]

theorem bfi_imm (w : Width) (d : LSpec) (a : LSpec) (b : LUSrc) (p : BitVec 8) (l : BitVec 8) :
    Statement (.bfi w d a b (.imm p l)) := by
  intro _ hw
  have h0 := w.code_lt
  have h1 := d.code_lt
  have h2 := a.code_lt
  have h3 := b.code_lt
  have h4 := b.ubBit_lt
  have h5 := p.isLt
  have h6 := l.isLt
  have he : encode (.bfi w d a b (.imm p l)) = [enc1 0 0x66 w.code d.code a.code b.code, enc2 0
      b.ubBit ((l.toNat * 2 ^ 8 + p.toNat))] := rfl
  have hf : Fits1 0 0x66 w.code d.code a.code b.code := by
    constructor
    iterate 6 (first | omega | (simp only [modI, modB, cmpD]; omega))
  have hv : (enc2 0 b.ubBit ((l.toNat * 2 ^ 8 + p.toNat))).toNat = 0 * 2 ^ 25 + b.ubBit * 2 ^ 24 +
      (l.toNat * 2 ^ 8 + p.toNat) := by
    simp only [enc2, encMem, encAtom, BitVec.toNat_ofNat]; exact Nat.mod_eq_of_lt (by omega)
  rw [he]
  refine decode_enc1 hf (by decide) (by decide) [enc2 0 b.ubBit ((l.toNat * 2 ^ 8 + p.toNat))]
      (.bfi w d a b (.imm p l)) ?_ hw
  simp only [List.getD_cons_zero]
  generalize (enc2 0 b.ubBit ((l.toNat * 2 ^ 8 + p.toNat))).toNat = W at *
  have f0 : W / 2 ^ 25 = 0 := by first | omega | (simp only [fld]; omega)
  have f1 : fld W 23 23 = 0 := by first | omega | (simp only [fld]; omega)
  have f2 : fld W 7 0 = p.toNat := by first | omega | (simp only [fld]; omega)
  have f3 : fld W 15 8 = l.toNat := by first | omega | (simp only [fld]; omega)
  have f4 : W / 2 ^ 24 % 2 = b.ubBit := by first | omega | (simp only [fld]; omega)
  have f5 : fld W 22 16 = 0 := by first | omega | (simp only [fld]; omega)
  have e (m d a b w : Nat) : decL2 0x66 m d a b w = (
 do
      guard (fld w 22 16 = 0)
      let f ← if fld w 23 23 = 1 then (if (w % 2 ^ 16) = 0 then (lspecOf (w / 2 ^ 25)).map BfSel.reg else none)
        else (if (w / 2 ^ 25) = 0 then
            some (BfSel.imm (BitVec.ofNat 8 (fld w 7 0)) (BitVec.ofNat 8 (fld w 15 8))) else none)
      some (.bfi (← widthOf m) (← lspecOf d) (← lspecOf a) (← lusrcOf (w / 2 ^ 24 % 2) b) f)) := rfl
  rw [if_neg (by decide), if_pos (by decide), if_pos (by decide), e]
  simp only [f0, f1, f2, f3, f4, f5]
  simp [guard]

theorem bfx (w : Width) (s : Bool) (d a : LSpec) (f : BfSel) : Statement (.bfx w s d a f) := by
  cases f with
  | reg c => exact bfx_reg w s d a c
  | imm p l => exact bfx_imm w s d a p l

theorem bfi (w : Width) (d a : LSpec) (b : LUSrc) (f : BfSel) : Statement (.bfi w d a b f) := by
  cases f with
  | reg c => exact bfi_reg w d a b c
  | imm p l => exact bfi_imm w d a b p l

theorem fshf_reg (rt : Bool) (cl : Bool) (d : LSpec) (a : LSpec) (b : LUSrc) (c : LSpec) :
    Statement (.fshf rt cl d a b (.reg c)) := by
  intro _ hw
  have h0 := ofBool_lt rt
  have h1 := ofBool_lt cl
  have h2 := d.code_lt
  have h3 := a.code_lt
  have h4 := b.code_lt
  have h5 := b.ubBit_lt
  have h6 := c.code_lt
  have he : encode (.fshf rt cl d a b (.reg c)) = [enc1 0 0x64 (ofBool rt * 4 + ofBool cl * 2)
      d.code a.code b.code, enc2 c.code b.ubBit 0] := rfl
  have hf : Fits1 0 0x64 (ofBool rt * 4 + ofBool cl * 2) d.code a.code b.code := by
    constructor
    iterate 6 (first | omega | (simp only [modI, modB, cmpD]; omega))
  have hv : (enc2 c.code b.ubBit 0).toNat = c.code * 2 ^ 25 + b.ubBit * 2 ^ 24 + 0 := by
    simp only [enc2, encMem, encAtom, BitVec.toNat_ofNat]; exact Nat.mod_eq_of_lt (by omega)
  rw [he]
  refine decode_enc1 hf (by decide) (by decide) [enc2 c.code b.ubBit 0] (.fshf rt cl d a b (.reg
      c)) ?_ hw
  simp only [List.getD_cons_zero]
  generalize (enc2 c.code b.ubBit 0).toNat = W at *
  have f0 : W / 2 ^ 25 = c.code := by first | omega | (simp only [fld]; omega)
  have f1 : fld W 23 23 = 0 := by first | omega | (simp only [fld]; omega)
  have f2 : W / 2 ^ 24 % 2 = b.ubBit := by first | omega | (simp only [fld]; omega)
  have f3 : fld W 22 6 = 0 := by first | omega | (simp only [fld]; omega)
  have f4 : fld W 5 0 = 0 := by first | omega | (simp only [fld]; omega)
  have e (m d a b w : Nat) : decL2 0x64 m d a b w = (
 do
      guard (m % 2 = 0 ∧ fld w 22 6 = 0)
      let sh ← if fld w 23 23 = 1 then
          (if (w / 2 ^ 25) = 0 then some (FshSrc.imm (BitVec.ofNat 6 (fld w 5 0))) else none)
        else (if fld w 5 0 = 0 then (lspecOf (w / 2 ^ 25)).map FshSrc.reg else none)
      some (.fshf (toBool (m / 4)) (toBool (m / 2)) (← lspecOf d) (← lspecOf a) (← lusrcOf (w / 2 ^ 24 % 2) b) sh)) := rfl
  rw [if_neg (by decide), if_pos (by decide), if_pos (by decide), e]
  simp only [f0, f1, f2, f3, f4]
  have z1 : (ofBool rt * 4 + ofBool cl * 2) % 2 = 0 := by omega
  have z2 : toBool ((ofBool rt * 4 + ofBool cl * 2) / 4) = rt := by cases rt <;> cases cl <;> rfl
  have z3 : toBool ((ofBool rt * 4 + ofBool cl * 2) / 2) = cl := by cases rt <;> cases cl <;> rfl
  simp only [z1, z2, z3]
  simp [guard]

theorem fshf_imm (rt : Bool) (cl : Bool) (d : LSpec) (a : LSpec) (b : LUSrc) (n : BitVec 6) :
    Statement (.fshf rt cl d a b (.imm n)) := by
  intro _ hw
  have h0 := ofBool_lt rt
  have h1 := ofBool_lt cl
  have h2 := d.code_lt
  have h3 := a.code_lt
  have h4 := b.code_lt
  have h5 := b.ubBit_lt
  have h6 := n.isLt
  have he : encode (.fshf rt cl d a b (.imm n)) = [enc1 0 0x64 (ofBool rt * 4 + ofBool cl * 2)
      d.code a.code b.code, enc2 0 b.ubBit (2 ^ 23 + n.toNat)] := rfl
  have hf : Fits1 0 0x64 (ofBool rt * 4 + ofBool cl * 2) d.code a.code b.code := by
    constructor
    iterate 6 (first | omega | (simp only [modI, modB, cmpD]; omega))
  have hv : (enc2 0 b.ubBit (2 ^ 23 + n.toNat)).toNat = 0 * 2 ^ 25 + b.ubBit * 2 ^ 24 + (2 ^ 23 +
      n.toNat) := by
    simp only [enc2, encMem, encAtom, BitVec.toNat_ofNat]; exact Nat.mod_eq_of_lt (by omega)
  rw [he]
  refine decode_enc1 hf (by decide) (by decide) [enc2 0 b.ubBit (2 ^ 23 + n.toNat)] (.fshf rt cl d
      a b (.imm n)) ?_ hw
  simp only [List.getD_cons_zero]
  generalize (enc2 0 b.ubBit (2 ^ 23 + n.toNat)).toNat = W at *
  have f0 : W / 2 ^ 25 = 0 := by first | omega | (simp only [fld]; omega)
  have f1 : fld W 23 23 = 1 := by first | omega | (simp only [fld]; omega)
  have f2 : W / 2 ^ 24 % 2 = b.ubBit := by first | omega | (simp only [fld]; omega)
  have f3 : fld W 22 6 = 0 := by first | omega | (simp only [fld]; omega)
  have f4 : fld W 5 0 = n.toNat := by first | omega | (simp only [fld]; omega)
  have e (m d a b w : Nat) : decL2 0x64 m d a b w = (
 do
      guard (m % 2 = 0 ∧ fld w 22 6 = 0)
      let sh ← if fld w 23 23 = 1 then
          (if (w / 2 ^ 25) = 0 then some (FshSrc.imm (BitVec.ofNat 6 (fld w 5 0))) else none)
        else (if fld w 5 0 = 0 then (lspecOf (w / 2 ^ 25)).map FshSrc.reg else none)
      some (.fshf (toBool (m / 4)) (toBool (m / 2)) (← lspecOf d) (← lspecOf a) (← lusrcOf (w / 2 ^ 24 % 2) b) sh)) := rfl
  rw [if_neg (by decide), if_pos (by decide), if_pos (by decide), e]
  simp only [f0, f1, f2, f3, f4]
  have z1 : (ofBool rt * 4 + ofBool cl * 2) % 2 = 0 := by omega
  have z2 : toBool ((ofBool rt * 4 + ofBool cl * 2) / 4) = rt := by cases rt <;> cases cl <;> rfl
  have z3 : toBool ((ofBool rt * 4 + ofBool cl * 2) / 2) = cl := by cases rt <;> cases cl <;> rfl
  simp only [z1, z2, z3]
  simp [guard]

theorem fshf (rt cl : Bool) (d a : LSpec) (b : LUSrc) (sh : FshSrc) :
    Statement (.fshf rt cl d a b sh) := by
  cases sh with
  | reg c => exact fshf_reg rt cl d a b c
  | imm n => exact fshf_imm rt cl d a b n

theorem psel_reg (d : LSpec) (a : LSpec) (b : LUSrc) (c : LSpec) : Statement (.psel d a b (.reg
    c)) := by
  intro _ hw
  have h0 := d.code_lt
  have h1 := a.code_lt
  have h2 := b.code_lt
  have h3 := b.ubBit_lt
  have h4 := c.code_lt
  have he : encode (.psel d a b (.reg c)) = [enc1 0 0x67 0 d.code a.code b.code, enc2 c.code
      b.ubBit (2 ^ 23)] := rfl
  have hf : Fits1 0 0x67 0 d.code a.code b.code := by
    constructor
    iterate 6 (first | omega | (simp only [modI, modB, cmpD]; omega))
  have hv : (enc2 c.code b.ubBit (2 ^ 23)).toNat = c.code * 2 ^ 25 + b.ubBit * 2 ^ 24 + (2 ^ 23)
      := by
    simp only [enc2, encMem, encAtom, BitVec.toNat_ofNat]; exact Nat.mod_eq_of_lt (by omega)
  rw [he]
  refine decode_enc1 hf (by decide) (by decide) [enc2 c.code b.ubBit (2 ^ 23)] (.psel d a b (.reg
      c)) ?_ hw
  simp only [List.getD_cons_zero]
  generalize (enc2 c.code b.ubBit (2 ^ 23)).toNat = W at *
  have f0 : W / 2 ^ 25 = c.code := by first | omega | (simp only [fld]; omega)
  have f1 : fld W 23 23 = 1 := by first | omega | (simp only [fld]; omega)
  have f2 : W / 2 ^ 24 % 2 = b.ubBit := by first | omega | (simp only [fld]; omega)
  have f3 : fld W 22 20 = 0 := by first | omega | (simp only [fld]; omega)
  have f4 : W % 2 ^ 20 = 0 := by first | omega | (simp only [fld]; omega)
  have e (m d a b w : Nat) : decL2 0x67 m d a b w = (
 do
      guard (m = 0 ∧ fld w 22 20 = 0)
      let s ← if fld w 23 23 = 1 then
          (if w % 2 ^ 20 = 0 then (lspecOf (w / 2 ^ 25)).map PselSrc.reg else none)
        else (if (w / 2 ^ 25) = 0 then some (PselSrc.imm (BitVec.ofNat 20 (w % 2 ^ 20))) else none)
      some (.psel (← lspecOf d) (← lspecOf a) (← lusrcOf (w / 2 ^ 24 % 2) b) s)) := rfl
  rw [if_neg (by decide), if_pos (by decide), if_pos (by decide), e]
  simp only [f0, f1, f2, f3, f4]
  simp [guard]

theorem psel_imm (d : LSpec) (a : LSpec) (b : LUSrc) (n : BitVec 20) : Statement (.psel d a b
    (.imm n)) := by
  intro _ hw
  have h0 := d.code_lt
  have h1 := a.code_lt
  have h2 := b.code_lt
  have h3 := b.ubBit_lt
  have h4 := n.isLt
  have he : encode (.psel d a b (.imm n)) = [enc1 0 0x67 0 d.code a.code b.code, enc2 0 b.ubBit
      n.toNat] := rfl
  have hf : Fits1 0 0x67 0 d.code a.code b.code := by
    constructor
    iterate 6 (first | omega | (simp only [modI, modB, cmpD]; omega))
  have hv : (enc2 0 b.ubBit n.toNat).toNat = 0 * 2 ^ 25 + b.ubBit * 2 ^ 24 + n.toNat := by
    simp only [enc2, encMem, encAtom, BitVec.toNat_ofNat]; exact Nat.mod_eq_of_lt (by omega)
  rw [he]
  refine decode_enc1 hf (by decide) (by decide) [enc2 0 b.ubBit n.toNat] (.psel d a b (.imm n)) ?_
      hw
  simp only [List.getD_cons_zero]
  generalize (enc2 0 b.ubBit n.toNat).toNat = W at *
  have f0 : W / 2 ^ 25 = 0 := by first | omega | (simp only [fld]; omega)
  have f1 : fld W 23 23 = 0 := by first | omega | (simp only [fld]; omega)
  have f2 : W / 2 ^ 24 % 2 = b.ubBit := by first | omega | (simp only [fld]; omega)
  have f3 : fld W 22 20 = 0 := by first | omega | (simp only [fld]; omega)
  have f4 : W % 2 ^ 20 = n.toNat := by first | omega | (simp only [fld]; omega)
  have e (m d a b w : Nat) : decL2 0x67 m d a b w = (
 do
      guard (m = 0 ∧ fld w 22 20 = 0)
      let s ← if fld w 23 23 = 1 then
          (if w % 2 ^ 20 = 0 then (lspecOf (w / 2 ^ 25)).map PselSrc.reg else none)
        else (if (w / 2 ^ 25) = 0 then some (PselSrc.imm (BitVec.ofNat 20 (w % 2 ^ 20))) else none)
      some (.psel (← lspecOf d) (← lspecOf a) (← lusrcOf (w / 2 ^ 24 % 2) b) s)) := rfl
  rw [if_neg (by decide), if_pos (by decide), if_pos (by decide), e]
  simp only [f0, f1, f2, f3, f4]
  simp [guard]

theorem psel (d a : LSpec) (b : LUSrc) (sel : PselSrc) : Statement (.psel d a b sel) := by
  cases sel with
  | reg c => exact psel_reg d a b c
  | imm n => exact psel_imm d a b n

theorem jarm_uni (n : Fin 16) (b : USpec) : Statement (.jarm n (.uni b)) := by
  intro _ hw
  have h0 := n.isLt
  have h1 := b.code_lt
  have he : encode (.jarm n (.uni b)) = [enc1 0 0x76 0 n.val 0 b.code, (0 : Word)] := rfl
  have hf : Fits1 0 0x76 0 n.val 0 b.code := by
    constructor
    iterate 6 (first | omega | (simp only [modI, modB, cmpD]; omega))
  have hv : (0 : Word).toNat = 0 := rfl
  rw [he]
  refine decode_enc1 hf (by decide) (by decide) [(0 : Word)] (.jarm n (.uni b)) ?_ hw
  simp only [List.getD_cons_zero]
  generalize (0 : Word).toNat = W at *
  have e (m d a b w : Nat) : decL2 0x76 m d a b w = (
 do
      guard (m % 2 = 0 ∧ a = 0 ∧ w < 2 ^ 16)
      let n ← finOf 16 d
      match m / 2 with
      | 0 => do guard (w = 0); some (.jarm n (.uni (← uspecOf b)))
      | 1 => do guard (b = 0); some (.jarm n (.low (BitVec.ofNat 16 w)))
      | 2 => do guard (b = 0); some (.jarm n (.high (BitVec.ofNat 16 w)))
      | _ => do guard (b = 0 ∧ w = 0); some (.jarm n .all)) := rfl
  rw [if_neg (by decide), if_pos (by decide), if_pos (by decide), e]
  subst hv
  simp [guard]

theorem jarm_low (n : Fin 16) (i : BitVec 16) : Statement (.jarm n (.low i)) := by
  intro _ hw
  have h0 := n.isLt
  have h1 := i.isLt
  have he : encode (.jarm n (.low i)) = [enc1 0 0x76 2 n.val 0 0, BitVec.ofNat 32 i.toNat] := rfl
  have hf : Fits1 0 0x76 2 n.val 0 0 := by
    constructor
    iterate 6 (first | omega | (simp only [modI, modB, cmpD]; omega))
  have hv : (BitVec.ofNat 32 i.toNat).toNat = i.toNat := by
    simp only [enc2, encMem, encAtom, BitVec.toNat_ofNat]; exact Nat.mod_eq_of_lt (by omega)
  rw [he]
  refine decode_enc1 hf (by decide) (by decide) [BitVec.ofNat 32 i.toNat] (.jarm n (.low i)) ?_ hw
  simp only [List.getD_cons_zero]
  generalize (BitVec.ofNat 32 i.toNat).toNat = W at *
  have e (m d a b w : Nat) : decL2 0x76 m d a b w = (
 do
      guard (m % 2 = 0 ∧ a = 0 ∧ w < 2 ^ 16)
      let n ← finOf 16 d
      match m / 2 with
      | 0 => do guard (w = 0); some (.jarm n (.uni (← uspecOf b)))
      | 1 => do guard (b = 0); some (.jarm n (.low (BitVec.ofNat 16 w)))
      | 2 => do guard (b = 0); some (.jarm n (.high (BitVec.ofNat 16 w)))
      | _ => do guard (b = 0 ∧ w = 0); some (.jarm n .all)) := rfl
  rw [if_neg (by decide), if_pos (by decide), if_pos (by decide), e]
  subst hv
  simp [guard, show i.toNat < 65536 from h1]

theorem jarm_high (n : Fin 16) (i : BitVec 16) : Statement (.jarm n (.high i)) := by
  intro _ hw
  have h0 := n.isLt
  have h1 := i.isLt
  have he : encode (.jarm n (.high i)) = [enc1 0 0x76 4 n.val 0 0, BitVec.ofNat 32 i.toNat] := rfl
  have hf : Fits1 0 0x76 4 n.val 0 0 := by
    constructor
    iterate 6 (first | omega | (simp only [modI, modB, cmpD]; omega))
  have hv : (BitVec.ofNat 32 i.toNat).toNat = i.toNat := by
    simp only [enc2, encMem, encAtom, BitVec.toNat_ofNat]; exact Nat.mod_eq_of_lt (by omega)
  rw [he]
  refine decode_enc1 hf (by decide) (by decide) [BitVec.ofNat 32 i.toNat] (.jarm n (.high i)) ?_ hw
  simp only [List.getD_cons_zero]
  generalize (BitVec.ofNat 32 i.toNat).toNat = W at *
  have e (m d a b w : Nat) : decL2 0x76 m d a b w = (
 do
      guard (m % 2 = 0 ∧ a = 0 ∧ w < 2 ^ 16)
      let n ← finOf 16 d
      match m / 2 with
      | 0 => do guard (w = 0); some (.jarm n (.uni (← uspecOf b)))
      | 1 => do guard (b = 0); some (.jarm n (.low (BitVec.ofNat 16 w)))
      | 2 => do guard (b = 0); some (.jarm n (.high (BitVec.ofNat 16 w)))
      | _ => do guard (b = 0 ∧ w = 0); some (.jarm n .all)) := rfl
  rw [if_neg (by decide), if_pos (by decide), if_pos (by decide), e]
  subst hv
  simp [guard, show i.toNat < 65536 from h1]

theorem jarm_all (n : Fin 16) : Statement (.jarm n .all) := by
  intro _ hw
  have h0 := n.isLt
  have he : encode (.jarm n .all) = [enc1 0 0x76 6 n.val 0 0, (0 : Word)] := rfl
  have hf : Fits1 0 0x76 6 n.val 0 0 := by
    constructor
    iterate 6 (first | omega | (simp only [modI, modB, cmpD]; omega))
  have hv : (0 : Word).toNat = 0 := rfl
  rw [he]
  refine decode_enc1 hf (by decide) (by decide) [(0 : Word)] (.jarm n .all) ?_ hw
  simp only [List.getD_cons_zero]
  generalize (0 : Word).toNat = W at *
  have e (m d a b w : Nat) : decL2 0x76 m d a b w = (
 do
      guard (m % 2 = 0 ∧ a = 0 ∧ w < 2 ^ 16)
      let n ← finOf 16 d
      match m / 2 with
      | 0 => do guard (w = 0); some (.jarm n (.uni (← uspecOf b)))
      | 1 => do guard (b = 0); some (.jarm n (.low (BitVec.ofNat 16 w)))
      | 2 => do guard (b = 0); some (.jarm n (.high (BitVec.ofNat 16 w)))
      | _ => do guard (b = 0 ∧ w = 0); some (.jarm n .all)) := rfl
  rw [if_neg (by decide), if_pos (by decide), if_pos (by decide), e]
  subst hv
  simp [guard]

theorem jarm (n : Fin 16) (m : JMask) : Statement (.jarm n m) := by
  cases m with
  | uni b => exact jarm_uni n b
  | low i => exact jarm_low n i
  | high i => exact jarm_high n i
  | all => exact jarm_all n

theorem shfl_rn (mode : ShflMode) (w : Width) (d : LSpec) (a : LSpec) (r : LSpec) : Statement
    (.shfl mode w d a (.reg r) none) := by
  intro _ hw
  have h0 := mode.code_lt
  have h1 := w.code_lt
  have h2 := d.code_lt
  have h3 := a.code_lt
  have h4 := r.code_lt
  have he : encode (.shfl mode w d a (.reg r) none) = [enc1 0 0x73 (mode.code * 2 + w.code) d.code
      a.code r.code, enc2 0 0 (optFlag none + 0)] := rfl
  have hf : Fits1 0 0x73 (mode.code * 2 + w.code) d.code a.code r.code := by
    constructor
    iterate 6 (first | omega | (simp only [modI, modB, cmpD]; omega))
  have hv : (enc2 0 0 (optFlag none + 0)).toNat = 0 * 2 ^ 25 + 0 * 2 ^ 24 + (0 + 0) := by
    decide
  rw [he]
  refine decode_enc1 hf (by decide) (by decide) [enc2 0 0 (optFlag none + 0)] (.shfl mode w d a
      (.reg r) none) ?_ hw
  simp only [List.getD_cons_zero]
  generalize (enc2 0 0 (optFlag none + 0)).toNat = W at *
  have f0 : W / 2 ^ 25 = 0 := by first | omega | (simp only [fld]; omega)
  have f1 : W / 2 ^ 24 % 2 = 0 := by first | omega | (simp only [fld]; omega)
  have f2 : fld W 18 5 = 0 := by first | omega | (simp only [fld]; omega)
  have f3 : fld W 23 23 = 0 := by first | omega | (simp only [fld]; omega)
  have f4 : fld W 22 20 = 0 := by first | omega | (simp only [fld]; omega)
  have f5 : fld W 19 19 = 0 := by first | omega | (simp only [fld]; omega)
  have f6 : fld W 4 0 = 0 := by first | omega | (simp only [fld]; omega)
  have g1 : (mode.code * 2 + w.code) % 2 = w.code := by omega
  have g2 : (mode.code * 2 + w.code) / 2 = mode.code := by omega
  have e (m d a b w : Nat) : decL2 0x73 m d a b w = (
 do
      guard ((w / 2 ^ 25) = 0 ∧ fld w 18 5 = 0 ∧ (fld w 23 23 = 1 ∨ fld w 22 20 = 0))
      let k ← if fld w 19 19 = 1 then
          (if b = 0 ∧ (w / 2 ^ 24 % 2) = 0 then some (ShflSrc.imm (BitVec.ofNat 5 (fld w 4 0))) else none)
        else if fld w 4 0 = 0 then
          (if (w / 2 ^ 24 % 2) = 0 then (lspecOf b).map ShflSrc.reg else (uspecOf b).map ShflSrc.uni)
        else none
      let f ← finOf 8 (fld w 22 20)
      some (.shfl (← shflOf (m / 2)) (← widthOf (m % 2)) (← lspecOf d) (← lspecOf a) k
        (if fld w 23 23 = 1 then some f else none))) := rfl
  rw [if_neg (by decide), if_pos (by decide), if_pos (by decide), e]
  simp only [g1, g2, f0, f1, f2, f3, f4, f5, f6]
  simp [guard, finOf]

theorem shfl_rs (mode : ShflMode) (w : Width) (d : LSpec) (a : LSpec) (r : LSpec) (n : Fin 8) :
    Statement (.shfl mode w d a (.reg r) (some n)) := by
  intro _ hw
  have h0 := mode.code_lt
  have h1 := w.code_lt
  have h2 := d.code_lt
  have h3 := a.code_lt
  have h4 := r.code_lt
  have h5 := n.isLt
  have he : encode (.shfl mode w d a (.reg r) (some n)) = [enc1 0 0x73 (mode.code * 2 + w.code)
      d.code a.code r.code, enc2 0 0 ((2 ^ 23 + n.val * 2 ^ 20) + 0)] := rfl
  have hf : Fits1 0 0x73 (mode.code * 2 + w.code) d.code a.code r.code := by
    constructor
    iterate 6 (first | omega | (simp only [modI, modB, cmpD]; omega))
  have hv : (enc2 0 0 ((2 ^ 23 + n.val * 2 ^ 20) + 0)).toNat = 0 * 2 ^ 25 + 0 * 2 ^ 24 + ((2 ^ 23
      + n.val * 2 ^ 20) + 0) := by
    simp only [enc2, encMem, encAtom, BitVec.toNat_ofNat]; exact Nat.mod_eq_of_lt (by omega)
  rw [he]
  refine decode_enc1 hf (by decide) (by decide) [enc2 0 0 ((2 ^ 23 + n.val * 2 ^ 20) + 0)] (.shfl
      mode w d a (.reg r) (some n)) ?_ hw
  simp only [List.getD_cons_zero]
  generalize (enc2 0 0 ((2 ^ 23 + n.val * 2 ^ 20) + 0)).toNat = W at *
  have f0 : W / 2 ^ 25 = 0 := by first | omega | (simp only [fld]; omega)
  have f1 : W / 2 ^ 24 % 2 = 0 := by first | omega | (simp only [fld]; omega)
  have f2 : fld W 18 5 = 0 := by first | omega | (simp only [fld]; omega)
  have f3 : fld W 23 23 = 1 := by first | omega | (simp only [fld]; omega)
  have f4 : fld W 22 20 = n.val := by first | omega | (simp only [fld]; omega)
  have f5 : fld W 19 19 = 0 := by first | omega | (simp only [fld]; omega)
  have f6 : fld W 4 0 = 0 := by first | omega | (simp only [fld]; omega)
  have g1 : (mode.code * 2 + w.code) % 2 = w.code := by omega
  have g2 : (mode.code * 2 + w.code) / 2 = mode.code := by omega
  have e (m d a b w : Nat) : decL2 0x73 m d a b w = (
 do
      guard ((w / 2 ^ 25) = 0 ∧ fld w 18 5 = 0 ∧ (fld w 23 23 = 1 ∨ fld w 22 20 = 0))
      let k ← if fld w 19 19 = 1 then
          (if b = 0 ∧ (w / 2 ^ 24 % 2) = 0 then some (ShflSrc.imm (BitVec.ofNat 5 (fld w 4 0))) else none)
        else if fld w 4 0 = 0 then
          (if (w / 2 ^ 24 % 2) = 0 then (lspecOf b).map ShflSrc.reg else (uspecOf b).map ShflSrc.uni)
        else none
      let f ← finOf 8 (fld w 22 20)
      some (.shfl (← shflOf (m / 2)) (← widthOf (m % 2)) (← lspecOf d) (← lspecOf a) k
        (if fld w 23 23 = 1 then some f else none))) := rfl
  rw [if_neg (by decide), if_pos (by decide), if_pos (by decide), e]
  simp only [g1, g2, f0, f1, f2, f3, f4, f5, f6]
  simp [guard]

theorem shfl_un (mode : ShflMode) (w : Width) (d : LSpec) (a : LSpec) (u : USpec) : Statement
    (.shfl mode w d a (.uni u) none) := by
  intro _ hw
  have h0 := mode.code_lt
  have h1 := w.code_lt
  have h2 := d.code_lt
  have h3 := a.code_lt
  have h4 := u.code_lt
  have he : encode (.shfl mode w d a (.uni u) none) = [enc1 0 0x73 (mode.code * 2 + w.code) d.code
      a.code u.code, enc2 0 1 (optFlag none + 0)] := rfl
  have hf : Fits1 0 0x73 (mode.code * 2 + w.code) d.code a.code u.code := by
    constructor
    iterate 6 (first | omega | (simp only [modI, modB, cmpD]; omega))
  have hv : (enc2 0 1 (optFlag none + 0)).toNat = 0 * 2 ^ 25 + 1 * 2 ^ 24 + (0 + 0) := by
    simp only [enc2, encMem, encAtom, BitVec.toNat_ofNat, optFlag]; exact Nat.mod_eq_of_lt (by
        omega)
  rw [he]
  refine decode_enc1 hf (by decide) (by decide) [enc2 0 1 (optFlag none + 0)] (.shfl mode w d a
      (.uni u) none) ?_ hw
  simp only [List.getD_cons_zero]
  generalize (enc2 0 1 (optFlag none + 0)).toNat = W at *
  have f0 : W / 2 ^ 25 = 0 := by first | omega | (simp only [fld]; omega)
  have f1 : W / 2 ^ 24 % 2 = 1 := by first | omega | (simp only [fld]; omega)
  have f2 : fld W 18 5 = 0 := by first | omega | (simp only [fld]; omega)
  have f3 : fld W 23 23 = 0 := by first | omega | (simp only [fld]; omega)
  have f4 : fld W 22 20 = 0 := by first | omega | (simp only [fld]; omega)
  have f5 : fld W 19 19 = 0 := by first | omega | (simp only [fld]; omega)
  have f6 : fld W 4 0 = 0 := by first | omega | (simp only [fld]; omega)
  have g1 : (mode.code * 2 + w.code) % 2 = w.code := by omega
  have g2 : (mode.code * 2 + w.code) / 2 = mode.code := by omega
  have e (m d a b w : Nat) : decL2 0x73 m d a b w = (
 do
      guard ((w / 2 ^ 25) = 0 ∧ fld w 18 5 = 0 ∧ (fld w 23 23 = 1 ∨ fld w 22 20 = 0))
      let k ← if fld w 19 19 = 1 then
          (if b = 0 ∧ (w / 2 ^ 24 % 2) = 0 then some (ShflSrc.imm (BitVec.ofNat 5 (fld w 4 0))) else none)
        else if fld w 4 0 = 0 then
          (if (w / 2 ^ 24 % 2) = 0 then (lspecOf b).map ShflSrc.reg else (uspecOf b).map ShflSrc.uni)
        else none
      let f ← finOf 8 (fld w 22 20)
      some (.shfl (← shflOf (m / 2)) (← widthOf (m % 2)) (← lspecOf d) (← lspecOf a) k
        (if fld w 23 23 = 1 then some f else none))) := rfl
  rw [if_neg (by decide), if_pos (by decide), if_pos (by decide), e]
  simp only [g1, g2, f0, f1, f2, f3, f4, f5, f6]
  simp [guard, finOf]

theorem shfl_us (mode : ShflMode) (w : Width) (d : LSpec) (a : LSpec) (u : USpec) (n : Fin 8) :
    Statement (.shfl mode w d a (.uni u) (some n)) := by
  intro _ hw
  have h0 := mode.code_lt
  have h1 := w.code_lt
  have h2 := d.code_lt
  have h3 := a.code_lt
  have h4 := u.code_lt
  have h5 := n.isLt
  have he : encode (.shfl mode w d a (.uni u) (some n)) = [enc1 0 0x73 (mode.code * 2 + w.code)
      d.code a.code u.code, enc2 0 1 ((2 ^ 23 + n.val * 2 ^ 20) + 0)] := rfl
  have hf : Fits1 0 0x73 (mode.code * 2 + w.code) d.code a.code u.code := by
    constructor
    iterate 6 (first | omega | (simp only [modI, modB, cmpD]; omega))
  have hv : (enc2 0 1 ((2 ^ 23 + n.val * 2 ^ 20) + 0)).toNat = 0 * 2 ^ 25 + 1 * 2 ^ 24 + ((2 ^ 23
      + n.val * 2 ^ 20) + 0) := by
    simp only [enc2, encMem, encAtom, BitVec.toNat_ofNat]; exact Nat.mod_eq_of_lt (by omega)
  rw [he]
  refine decode_enc1 hf (by decide) (by decide) [enc2 0 1 ((2 ^ 23 + n.val * 2 ^ 20) + 0)] (.shfl
      mode w d a (.uni u) (some n)) ?_ hw
  simp only [List.getD_cons_zero]
  generalize (enc2 0 1 ((2 ^ 23 + n.val * 2 ^ 20) + 0)).toNat = W at *
  have f0 : W / 2 ^ 25 = 0 := by first | omega | (simp only [fld]; omega)
  have f1 : W / 2 ^ 24 % 2 = 1 := by first | omega | (simp only [fld]; omega)
  have f2 : fld W 18 5 = 0 := by first | omega | (simp only [fld]; omega)
  have f3 : fld W 23 23 = 1 := by first | omega | (simp only [fld]; omega)
  have f4 : fld W 22 20 = n.val := by first | omega | (simp only [fld]; omega)
  have f5 : fld W 19 19 = 0 := by first | omega | (simp only [fld]; omega)
  have f6 : fld W 4 0 = 0 := by first | omega | (simp only [fld]; omega)
  have g1 : (mode.code * 2 + w.code) % 2 = w.code := by omega
  have g2 : (mode.code * 2 + w.code) / 2 = mode.code := by omega
  have e (m d a b w : Nat) : decL2 0x73 m d a b w = (
 do
      guard ((w / 2 ^ 25) = 0 ∧ fld w 18 5 = 0 ∧ (fld w 23 23 = 1 ∨ fld w 22 20 = 0))
      let k ← if fld w 19 19 = 1 then
          (if b = 0 ∧ (w / 2 ^ 24 % 2) = 0 then some (ShflSrc.imm (BitVec.ofNat 5 (fld w 4 0))) else none)
        else if fld w 4 0 = 0 then
          (if (w / 2 ^ 24 % 2) = 0 then (lspecOf b).map ShflSrc.reg else (uspecOf b).map ShflSrc.uni)
        else none
      let f ← finOf 8 (fld w 22 20)
      some (.shfl (← shflOf (m / 2)) (← widthOf (m % 2)) (← lspecOf d) (← lspecOf a) k
        (if fld w 23 23 = 1 then some f else none))) := rfl
  rw [if_neg (by decide), if_pos (by decide), if_pos (by decide), e]
  simp only [g1, g2, f0, f1, f2, f3, f4, f5, f6]
  simp [guard]

theorem shfl_in (mode : ShflMode) (w : Width) (d : LSpec) (a : LSpec) (i : BitVec 5) : Statement
    (.shfl mode w d a (.imm i) none) := by
  intro _ hw
  have h0 := mode.code_lt
  have h1 := w.code_lt
  have h2 := d.code_lt
  have h3 := a.code_lt
  have h4 := i.isLt
  have he : encode (.shfl mode w d a (.imm i) none) = [enc1 0 0x73 (mode.code * 2 + w.code) d.code
      a.code 0, enc2 0 0 (optFlag none + (2 ^ 19 + i.toNat))] := rfl
  have hf : Fits1 0 0x73 (mode.code * 2 + w.code) d.code a.code 0 := by
    constructor
    iterate 6 (first | omega | (simp only [modI, modB, cmpD]; omega))
  have hv : (enc2 0 0 (optFlag none + (2 ^ 19 + i.toNat))).toNat = 0 * 2 ^ 25 + 0 * 2 ^ 24 + (0 +
      (2 ^ 19 + i.toNat)) := by
    simp only [enc2, encMem, encAtom, BitVec.toNat_ofNat, optFlag]; exact Nat.mod_eq_of_lt (by
        omega)
  rw [he]
  refine decode_enc1 hf (by decide) (by decide) [enc2 0 0 (optFlag none + (2 ^ 19 + i.toNat))]
      (.shfl mode w d a (.imm i) none) ?_ hw
  simp only [List.getD_cons_zero]
  generalize (enc2 0 0 (optFlag none + (2 ^ 19 + i.toNat))).toNat = W at *
  have f0 : W / 2 ^ 25 = 0 := by first | omega | (simp only [fld]; omega)
  have f1 : W / 2 ^ 24 % 2 = 0 := by first | omega | (simp only [fld]; omega)
  have f2 : fld W 18 5 = 0 := by first | omega | (simp only [fld]; omega)
  have f3 : fld W 23 23 = 0 := by first | omega | (simp only [fld]; omega)
  have f4 : fld W 22 20 = 0 := by first | omega | (simp only [fld]; omega)
  have f5 : fld W 19 19 = 1 := by first | omega | (simp only [fld]; omega)
  have f6 : fld W 4 0 = i.toNat := by first | omega | (simp only [fld]; omega)
  have g1 : (mode.code * 2 + w.code) % 2 = w.code := by omega
  have g2 : (mode.code * 2 + w.code) / 2 = mode.code := by omega
  have e (m d a b w : Nat) : decL2 0x73 m d a b w = (
 do
      guard ((w / 2 ^ 25) = 0 ∧ fld w 18 5 = 0 ∧ (fld w 23 23 = 1 ∨ fld w 22 20 = 0))
      let k ← if fld w 19 19 = 1 then
          (if b = 0 ∧ (w / 2 ^ 24 % 2) = 0 then some (ShflSrc.imm (BitVec.ofNat 5 (fld w 4 0))) else none)
        else if fld w 4 0 = 0 then
          (if (w / 2 ^ 24 % 2) = 0 then (lspecOf b).map ShflSrc.reg else (uspecOf b).map ShflSrc.uni)
        else none
      let f ← finOf 8 (fld w 22 20)
      some (.shfl (← shflOf (m / 2)) (← widthOf (m % 2)) (← lspecOf d) (← lspecOf a) k
        (if fld w 23 23 = 1 then some f else none))) := rfl
  rw [if_neg (by decide), if_pos (by decide), if_pos (by decide), e]
  simp only [g1, g2, f0, f1, f2, f3, f4, f5, f6]
  simp [guard, finOf]

theorem shfl_is (mode : ShflMode) (w : Width) (d : LSpec) (a : LSpec) (i : BitVec 5) (n : Fin 8) :
    Statement (.shfl mode w d a (.imm i) (some n)) := by
  intro _ hw
  have h0 := mode.code_lt
  have h1 := w.code_lt
  have h2 := d.code_lt
  have h3 := a.code_lt
  have h4 := i.isLt
  have h5 := n.isLt
  have he : encode (.shfl mode w d a (.imm i) (some n)) = [enc1 0 0x73 (mode.code * 2 + w.code)
      d.code a.code 0, enc2 0 0 ((2 ^ 23 + n.val * 2 ^ 20) + (2 ^ 19 + i.toNat))] := rfl
  have hf : Fits1 0 0x73 (mode.code * 2 + w.code) d.code a.code 0 := by
    constructor
    iterate 6 (first | omega | (simp only [modI, modB, cmpD]; omega))
  have hv : (enc2 0 0 ((2 ^ 23 + n.val * 2 ^ 20) + (2 ^ 19 + i.toNat))).toNat = 0 * 2 ^ 25 + 0 * 2
      ^ 24 + ((2 ^ 23 + n.val * 2 ^ 20) + (2 ^ 19 + i.toNat)) := by
    simp only [enc2, encMem, encAtom, BitVec.toNat_ofNat]; exact Nat.mod_eq_of_lt (by omega)
  rw [he]
  refine decode_enc1 hf (by decide) (by decide) [enc2 0 0 ((2 ^ 23 + n.val * 2 ^ 20) + (2 ^ 19 +
      i.toNat))] (.shfl mode w d a (.imm i) (some n)) ?_ hw
  simp only [List.getD_cons_zero]
  generalize (enc2 0 0 ((2 ^ 23 + n.val * 2 ^ 20) + (2 ^ 19 + i.toNat))).toNat = W at *
  have f0 : W / 2 ^ 25 = 0 := by first | omega | (simp only [fld]; omega)
  have f1 : W / 2 ^ 24 % 2 = 0 := by first | omega | (simp only [fld]; omega)
  have f2 : fld W 18 5 = 0 := by first | omega | (simp only [fld]; omega)
  have f3 : fld W 23 23 = 1 := by first | omega | (simp only [fld]; omega)
  have f4 : fld W 22 20 = n.val := by first | omega | (simp only [fld]; omega)
  have f5 : fld W 19 19 = 1 := by first | omega | (simp only [fld]; omega)
  have f6 : fld W 4 0 = i.toNat := by first | omega | (simp only [fld]; omega)
  have g1 : (mode.code * 2 + w.code) % 2 = w.code := by omega
  have g2 : (mode.code * 2 + w.code) / 2 = mode.code := by omega
  have e (m d a b w : Nat) : decL2 0x73 m d a b w = (
 do
      guard ((w / 2 ^ 25) = 0 ∧ fld w 18 5 = 0 ∧ (fld w 23 23 = 1 ∨ fld w 22 20 = 0))
      let k ← if fld w 19 19 = 1 then
          (if b = 0 ∧ (w / 2 ^ 24 % 2) = 0 then some (ShflSrc.imm (BitVec.ofNat 5 (fld w 4 0))) else none)
        else if fld w 4 0 = 0 then
          (if (w / 2 ^ 24 % 2) = 0 then (lspecOf b).map ShflSrc.reg else (uspecOf b).map ShflSrc.uni)
        else none
      let f ← finOf 8 (fld w 22 20)
      some (.shfl (← shflOf (m / 2)) (← widthOf (m % 2)) (← lspecOf d) (← lspecOf a) k
        (if fld w 23 23 = 1 then some f else none))) := rfl
  rw [if_neg (by decide), if_pos (by decide), if_pos (by decide), e]
  simp only [g1, g2, f0, f1, f2, f3, f4, f5, f6]
  simp [guard]

theorem shfl (mode : ShflMode) (w : Width) (d a : LSpec) (k : ShflSrc) (f : Option (Fin 8)) :
    Statement (.shfl mode w d a k f) := by
  cases k with
  | reg r => cases f with
    | none => exact shfl_rn mode w d a r
    | some n => exact shfl_rs mode w d a r n
  | uni u => cases f with
    | none => exact shfl_un mode w d a u
    | some n => exact shfl_us mode w d a u n
  | imm i => cases f with
    | none => exact shfl_in mode w d a i
    | some n => exact shfl_is mode w d a i n

theorem wideForm (op : WideOp) : Statement (.wideForm op) := by
  intro _ hw
  have hw : op.wf = true := by simpa [Instr.wf] using hw
  change decode op.encode = _
  cases op with
  | int o sat ty d a b => cases o with
    | add => exact w_add sat ty d a b hw
    | sub => exact w_sub sat ty d a b hw
    | mul => exact w_mul sat ty d a b hw
    | mulhi => exact w_mulhi sat ty d a b hw
    | min => exact w_min sat ty d a b hw
    | max => exact w_max sat ty d a b hw
  | iabs sat ty d b => exact w_iabs sat ty d b hw
  | lea zx sh d a b => exact w_lea zx sh d a b hw
  | icmp c w64 uns n a b => exact w_icmp c w64 uns n a b hw
  | sel n d a b => exact w_sel n d a b hw
  | logic o w d a b => cases o with
    | and => exact w_and w d a b hw
    | or => exact w_or w d a b hw
    | xor => exact w_xor w d a b hw
  | shift o w d a b => cases o with
    | shl => exact w_shl w d a b hw
    | shr => exact w_shr w d a b hw
    | sar => exact w_sar w d a b hw
  | bits o w d a ub => cases o with
    | popc => exact w_popc w d a ub hw
    | clz => exact w_clz w d a ub hw
    | brev => exact w_brev w d a ub hw
  | mov w d b => exact w_mov w d b hw
  | flt o r d a b => cases o with
    | add => exact w_fadd r d a b hw
    | sub => exact w_fsub r d a b hw
    | mul => exact w_fmul r d a b hw
  | fmin d a b => exact w_fmin d a b hw
  | fmax d a b => exact w_fmax d a b hw
  | fcmp c n a b => exact w_fcmp c n a b hw
  | frnd r d b => exact w_frnd r d b hw
  | dadd r d a b => exact w_dadd r d a b hw
  | dmul r d a b => exact w_dmul r d a b hw
  | dcmp c n a b => exact w_dcmp c n a b hw
  | pkadd bf r d a b => exact w_pkadd bf r d a b hw
  | pkmul bf r d a b => exact w_pkmul bf r d a b hw
  | pkmin bf d a b => exact w_pkmin bf d a b hw
  | pkmax bf d a b => exact w_pkmax bf d a b hw
  | mfn f d b => exact w_mfn f d b hw
  | sxpk f d a => exact w_sxpk f d a hw
  | sxupk f d a => exact w_sxupk f d a hw

theorem gret_n  : Statement (.gret none) := by
  intro _ hw
  have he : encode (.gret none) = [enc1 1 0x45 0 0 0 0] := rfl
  have hf : Fits1 1 0x45 0 0 0 0 := by
    constructor
    iterate 6 omega
  rw [he]
  refine decode_enc1 hf (by decide) (by decide) [] (.gret none) ?_ hw
  have e (m d a b : Nat) : decU1 0x45 m d a b = (
 do
      guard (m % 4 = 0 ∧ d = 0 ∧ b = 0)
      if m / 4 = 0 then (if a = 0 then some (.gret none) else none)
      else some (.gret (some (← uspecOf a)))) := rfl
  rw [if_pos (by decide), if_neg (by decide), e]
  simp [guard]

theorem gret_s (u : USpec) : Statement (.gret (some u)) := by
  intro _ hw
  have h0 := u.code_lt
  have he : encode (.gret (some u)) = [enc1 1 0x45 4 0 u.code 0] := rfl
  have hf : Fits1 1 0x45 4 0 u.code 0 := by
    constructor
    iterate 6 omega
  rw [he]
  refine decode_enc1 hf (by decide) (by decide) [] (.gret (some u)) ?_ hw
  have e (m d a b : Nat) : decU1 0x45 m d a b = (
 do
      guard (m % 4 = 0 ∧ d = 0 ∧ b = 0)
      if m / 4 = 0 then (if a = 0 then some (.gret none) else none)
      else some (.gret (some (← uspecOf a)))) := rfl
  rw [if_pos (by decide), if_neg (by decide), e]
  simp [guard]

theorem gret (t : Option USpec) : Statement (.gret t) := by
  cases t with
  | none => exact gret_n
  | some u => exact gret_s u

theorem hret_n  : Statement (.hret none) := by
  intro _ hw
  have he : encode (.hret none) = [enc1 1 0x44 0 0 0 0] := rfl
  have hf : Fits1 1 0x44 0 0 0 0 := by
    constructor
    iterate 6 omega
  rw [he]
  refine decode_enc1 hf (by decide) (by decide) [] (.hret none) ?_ hw
  have e (m d a b : Nat) : decU1 0x44 m d a b = (
 do
      guard (m % 4 = 0 ∧ d = 0 ∧ b = 0)
      if m / 4 = 0 then (if a = 0 then some (.hret none) else none)
      else some (.hret (some (← uspecOf a)))) := rfl
  rw [if_pos (by decide), if_neg (by decide), e]
  simp [guard]

theorem hret_s (u : USpec) : Statement (.hret (some u)) := by
  intro _ hw
  have h0 := u.code_lt
  have he : encode (.hret (some u)) = [enc1 1 0x44 4 0 u.code 0] := rfl
  have hf : Fits1 1 0x44 4 0 u.code 0 := by
    constructor
    iterate 6 omega
  rw [he]
  refine decode_enc1 hf (by decide) (by decide) [] (.hret (some u)) ?_ hw
  have e (m d a b : Nat) : decU1 0x44 m d a b = (
 do
      guard (m % 4 = 0 ∧ d = 0 ∧ b = 0)
      if m / 4 = 0 then (if a = 0 then some (.hret none) else none)
      else some (.hret (some (← uspecOf a)))) := rfl
  rw [if_pos (by decide), if_neg (by decide), e]
  simp [guard]

theorem hret (t : Option USpec) : Statement (.hret t) := by
  cases t with
  | none => exact hret_n
  | some u => exact hret_s u

theorem sld_n (d : LSpec) (n : Fin 8) : Statement (.sld d n none) := by
  intro _ hw
  have h0 := d.code_lt
  have h1 := n.isLt
  have he : encode (.sld d n none) = [enc1 0 0x50 0 d.code 0 n.val] := rfl
  have hf : Fits1 0 0x50 0 d.code 0 n.val := by
    constructor
    iterate 6 omega
  rw [he]
  refine decode_enc1 hf (by decide) (by decide) [] (.sld d n none) ?_ hw
  have e (m d a b : Nat) : decL1 0x50 m d a b = (
 do
      guard (a % 64 = 0 ∧ (a / 64 = 1 ∨ m = 0))
      let f ← finOf 8 m
      some (.sld (← lspecOf d) (← finOf 8 b) (if a / 64 = 1 then some f else none))) := rfl
  rw [if_pos (by decide), if_pos (by decide), e]
  simp [guard, finOf]

theorem sld_s (d : LSpec) (n : Fin 8) (p : Fin 8) : Statement (.sld d n (some p)) := by
  intro _ hw
  have h0 := d.code_lt
  have h1 := n.isLt
  have h2 := p.isLt
  have he : encode (.sld d n (some p)) = [enc1 0 0x50 p.val d.code 64 n.val] := rfl
  have hf : Fits1 0 0x50 p.val d.code 64 n.val := by
    constructor
    iterate 6 omega
  rw [he]
  refine decode_enc1 hf (by decide) (by decide) [] (.sld d n (some p)) ?_ hw
  have e (m d a b : Nat) : decL1 0x50 m d a b = (
 do
      guard (a % 64 = 0 ∧ (a / 64 = 1 ∨ m = 0))
      let f ← finOf 8 m
      some (.sld (← lspecOf d) (← finOf 8 b) (if a / 64 = 1 then some f else none))) := rfl
  rw [if_pos (by decide), if_pos (by decide), e]
  simp [guard]

theorem sld (d : LSpec) (n : Fin 8) (f : Option (Fin 8)) : Statement (.sld d n f) := by
  cases f with
  | none => exact sld_n d n
  | some p => exact sld_s d n p

theorem vote_ballot (neg : Bool) (d : LSpec) (a : Fin 8) : Statement (.vote .ballot neg d 0 a) := by
  intro _ hw
  have h0 := ofBool_lt neg
  have h1 := d.code_lt
  have h2 := a.isLt
  have hv := VoteMode.code_lt .ballot
  have he : encode (.vote .ballot neg d 0 a) = [enc1 0 0x40 (ofBool neg * 4 + VoteMode.code
      .ballot) d.code a.val 0] := rfl
  have hf : Fits1 0 0x40 (ofBool neg * 4 + VoteMode.code .ballot) d.code a.val 0 := by
    constructor
    iterate 6 omega
  rw [he]
  refine decode_enc1 hf (by decide) (by decide) [] (.vote .ballot neg d 0 a) ?_ hw
  have e (m d a b : Nat) : decL1 0x40 m d a b = (
 do
      guard (b = 0)
      let mode ← voteOf (m % 4)
      let fa ← finOf 8 a
      match mode with
      | .ballot => some (.vote mode (toBool (m / 4)) (← lspecOf d) 0 fa)
      | _ => some (.vote mode (toBool (m / 4)) .zero (← finOf 8 d) fa)) := rfl
  rw [if_pos (by decide), if_pos (by decide), e]
  have z1 : (ofBool neg * 4 + VoteMode.code .ballot) % 4 = VoteMode.code .ballot := by simp only [VoteMode.code]; omega
  have z2 : toBool ((ofBool neg * 4 + VoteMode.code .ballot) / 4) = neg := by cases neg <;> rfl
  simp only [z1, z2, voteOf_code]
  simp [guard]

theorem vote_any (neg : Bool) (fd : Fin 8) (a : Fin 8) : Statement (.vote .any neg .zero fd a) := by
  intro _ hw
  have h0 := ofBool_lt neg
  have h1 := fd.isLt
  have h2 := a.isLt
  have hv := VoteMode.code_lt .any
  have he : encode (.vote .any neg .zero fd a) = [enc1 0 0x40 (ofBool neg * 4 + VoteMode.code
      .any) fd.val a.val 0] := rfl
  have hf : Fits1 0 0x40 (ofBool neg * 4 + VoteMode.code .any) fd.val a.val 0 := by
    constructor
    iterate 6 omega
  rw [he]
  refine decode_enc1 hf (by decide) (by decide) [] (.vote .any neg .zero fd a) ?_ hw
  have e (m d a b : Nat) : decL1 0x40 m d a b = (
 do
      guard (b = 0)
      let mode ← voteOf (m % 4)
      let fa ← finOf 8 a
      match mode with
      | .ballot => some (.vote mode (toBool (m / 4)) (← lspecOf d) 0 fa)
      | _ => some (.vote mode (toBool (m / 4)) .zero (← finOf 8 d) fa)) := rfl
  rw [if_pos (by decide), if_pos (by decide), e]
  have z1 : (ofBool neg * 4 + VoteMode.code .any) % 4 = VoteMode.code .any := by simp only [VoteMode.code]; omega
  have z2 : toBool ((ofBool neg * 4 + VoteMode.code .any) / 4) = neg := by cases neg <;> rfl
  simp only [z1, z2, voteOf_code]
  simp [guard]

theorem vote_all (neg : Bool) (fd : Fin 8) (a : Fin 8) : Statement (.vote .all neg .zero fd a) := by
  intro _ hw
  have h0 := ofBool_lt neg
  have h1 := fd.isLt
  have h2 := a.isLt
  have hv := VoteMode.code_lt .all
  have he : encode (.vote .all neg .zero fd a) = [enc1 0 0x40 (ofBool neg * 4 + VoteMode.code
      .all) fd.val a.val 0] := rfl
  have hf : Fits1 0 0x40 (ofBool neg * 4 + VoteMode.code .all) fd.val a.val 0 := by
    constructor
    iterate 6 omega
  rw [he]
  refine decode_enc1 hf (by decide) (by decide) [] (.vote .all neg .zero fd a) ?_ hw
  have e (m d a b : Nat) : decL1 0x40 m d a b = (
 do
      guard (b = 0)
      let mode ← voteOf (m % 4)
      let fa ← finOf 8 a
      match mode with
      | .ballot => some (.vote mode (toBool (m / 4)) (← lspecOf d) 0 fa)
      | _ => some (.vote mode (toBool (m / 4)) .zero (← finOf 8 d) fa)) := rfl
  rw [if_pos (by decide), if_pos (by decide), e]
  have z1 : (ofBool neg * 4 + VoteMode.code .all) % 4 = VoteMode.code .all := by simp only [VoteMode.code]; omega
  have z2 : toBool ((ofBool neg * 4 + VoteMode.code .all) / 4) = neg := by cases neg <;> rfl
  simp only [z1, z2, voteOf_code]
  simp [guard]

theorem vote_eq (neg : Bool) (fd : Fin 8) (a : Fin 8) : Statement (.vote .eq neg .zero fd a) := by
  intro _ hw
  have h0 := ofBool_lt neg
  have h1 := fd.isLt
  have h2 := a.isLt
  have hv := VoteMode.code_lt .eq
  have he : encode (.vote .eq neg .zero fd a) = [enc1 0 0x40 (ofBool neg * 4 + VoteMode.code .eq)
      fd.val a.val 0] := rfl
  have hf : Fits1 0 0x40 (ofBool neg * 4 + VoteMode.code .eq) fd.val a.val 0 := by
    constructor
    iterate 6 omega
  rw [he]
  refine decode_enc1 hf (by decide) (by decide) [] (.vote .eq neg .zero fd a) ?_ hw
  have e (m d a b : Nat) : decL1 0x40 m d a b = (
 do
      guard (b = 0)
      let mode ← voteOf (m % 4)
      let fa ← finOf 8 a
      match mode with
      | .ballot => some (.vote mode (toBool (m / 4)) (← lspecOf d) 0 fa)
      | _ => some (.vote mode (toBool (m / 4)) .zero (← finOf 8 d) fa)) := rfl
  rw [if_pos (by decide), if_pos (by decide), e]
  have z1 : (ofBool neg * 4 + VoteMode.code .eq) % 4 = VoteMode.code .eq := by simp only [VoteMode.code]; omega
  have z2 : toBool ((ofBool neg * 4 + VoteMode.code .eq) / 4) = neg := by cases neg <;> rfl
  simp only [z1, z2, voteOf_code]
  simp [guard]

theorem vote (mode : VoteMode) (neg : Bool) (d : LSpec) (fd a : Fin 8) :
    Statement (.vote mode neg d fd a) := by
  intro he hw
  cases mode with
  | ballot =>
    have h : fd = 0 := by simp [Instr.wf] at hw; exact hw.2
    subst h; exact vote_ballot neg d a he hw
  | any =>
    have h : d = .zero := by simpa [Instr.wf] using hw
    subst h; exact vote_any neg fd a he hw
  | all =>
    have h : d = .zero := by simpa [Instr.wf] using hw
    subst h; exact vote_all neg fd a he hw
  | eq =>
    have h : d = .zero := by simpa [Instr.wf] using hw
    subst h; exact vote_eq neg fd a he hw

theorem mma (t : Fin 32) (a : USpec) (b : USpec) (f : LSpec) : Statement (.mma t a b f) := by
  intro _ hw
  have h0 := t.isLt
  have h1 := a.code_lt
  have h2 := b.code_lt
  have h3 := f.code_lt
  have he : encode (.mma t a b f) = [enc1 1 0x78 0 t.val a.code b.code, BitVec.ofNat 32 f.code, 0]
      := rfl
  have hf : Fits1 1 0x78 0 t.val a.code b.code := by
    constructor
    iterate 6 omega
  have hv : (BitVec.ofNat 32 f.code).toNat = f.code := by
    simp only [BitVec.toNat_ofNat]; exact Nat.mod_eq_of_lt (by omega)
  rw [he]
  refine decode_enc1 hf (by decide) (by decide) _ (.mma t a b f) ?_ hw
  simp only [List.getD_cons_zero, List.getD_cons_succ, hv]
  have e (m d a b w2 w3 : Nat) : decU3 0x78 m d a b w2 w3 = (
 do
      guard (m = 0 ∧ w2 < 128 ∧ w3 = 0)
      some (.mma (← finOf 32 d) (← uspecOf a) (← uspecOf b) (← lspecOf w2))) := rfl
  rw [if_neg (by decide), if_neg (by decide), e]
  simp [guard, f.code_lt]

theorem mmat (t : Fin 32) (a : USpec) (b : USpec) (f : LSpec) : Statement (.mmat t a b f) := by
  intro _ hw
  have h0 := t.isLt
  have h1 := a.code_lt
  have h2 := b.code_lt
  have h3 := f.code_lt
  have he : encode (.mmat t a b f) = [enc1 1 0x79 0 t.val a.code b.code, BitVec.ofNat 32 f.code,
      0] := rfl
  have hf : Fits1 1 0x79 0 t.val a.code b.code := by
    constructor
    iterate 6 omega
  have hv : (BitVec.ofNat 32 f.code).toNat = f.code := by
    simp only [BitVec.toNat_ofNat]; exact Nat.mod_eq_of_lt (by omega)
  rw [he]
  refine decode_enc1 hf (by decide) (by decide) _ (.mmat t a b f) ?_ hw
  simp only [List.getD_cons_zero, List.getD_cons_succ, hv]
  have e (m d a b w2 w3 : Nat) : decU3 0x79 m d a b w2 w3 = (
 do
      guard (m = 0 ∧ w2 < 128 ∧ w3 = 0)
      some (.mmat (← finOf 32 d) (← uspecOf a) (← uspecOf b) (← lspecOf w2))) := rfl
  rw [if_neg (by decide), if_neg (by decide), e]
  simp [guard, f.code_lt]

theorem cpyCtlOf_enc (c : CpyCtl) : cpyCtlOf (encCpyCtl c).toNat = some c := by
  obtain ⟨rs, as, rl, ac, wc, cb, ds, ss, dk, sk⟩ := c
  have h0 := rs.code_lt
  have h1 := as.code_lt
  have h2 := ofBool_lt rl
  have h3 := ofBool_lt ac
  have h4 := wc.isLt
  have h5 := cb.isLt
  have h6 := ds.isLt
  have h7 := ss.isLt
  have h8 := dk.isLt
  have h9 := sk.isLt
  have hv : (encCpyCtl ⟨rs, as, rl, ac, wc, cb, ds, ss, dk, sk⟩).toNat = rs.code * 2 ^ 28 +
      as.code * 2 ^ 24 + ofBool rl * 2 ^ 23 + ofBool ac * 2 ^ 22 + wc.val * 2 ^ 19 + cb.val * 2 ^ 15 +
      ds.val * 2 ^ 12 + ss.val * 2 ^ 9 + dk.val * 2 ^ 7 + sk.val * 2 ^ 5 := by
    simp only [encCpyCtl, BitVec.toNat_ofNat]; exact Nat.mod_eq_of_lt (by omega)
  generalize (encCpyCtl ⟨rs, as, rl, ac, wc, cb, ds, ss, dk, sk⟩).toNat = W at *
  have f0 : fld W 21 21 = 0 := by simp only [fld]; omega
  have f1 : fld W 4 0 = 0 := by simp only [fld]; omega
  have f2 : fld W 31 28 = rs.code := by simp only [fld]; omega
  have f3 : fld W 27 24 = as.code := by simp only [fld]; omega
  have f4 : fld W 23 23 = ofBool rl := by simp only [fld]; omega
  have f5 : fld W 22 22 = ofBool ac := by simp only [fld]; omega
  have f6 : fld W 20 19 = wc.val := by simp only [fld]; omega
  have f7 : fld W 18 15 = cb.val := by simp only [fld]; omega
  have f8 : fld W 14 12 = ds.val := by simp only [fld]; omega
  have f9 : fld W 11 9 = ss.val := by simp only [fld]; omega
  have f10 : fld W 8 7 = dk.val := by simp only [fld]; omega
  have f11 : fld W 6 5 = sk.val := by simp only [fld]; omega
  simp [cpyCtlOf, guard, f0, f1, f2, f3, f4, f5, f6, f7, f8, f9, f10, f11]

theorem cpyDst (d : USpec) (c : CpyCtl) (h : cpyDstOk c d = true) :
    c.dkind.val = 2 → USpec.zero = d := by
  intro hk; simp [cpyDstOk, hk] at h; exact h.symm

theorem cpy_uni (d : USpec) (a : USpec) (b : USpec) (c : CpyCtl) : Statement (.cpy d a (.uni b) c)
    := by
  intro _ hw
  have h0 := d.code_lt
  have h1 := a.code_lt
  have h2 := b.code_lt
  have he : encode (.cpy d a (.uni b) c) = [enc1 1 0x7A 0 d.code a.code b.code, encCpyCtl c, 0] :=
      rfl
  have hf : Fits1 1 0x7A 0 d.code a.code b.code := by
    constructor
    iterate 6 omega
  have hd : cpyDstOk c d = true := by simp only [Instr.wf, Bool.and_eq_true] at hw; exact hw.1.2
  have hb : b.code ≠ 112 := by
    simp only [Instr.wf, Bool.and_eq_true] at hw
    have hz : CpyLen.wf (.uni b) = true := hw.1.1.2
    intro hc
    cases b with
    | s n => simp only [USpec.code] at hc; omega
    | zero => exact absurd hz (by decide)
    | _ => exact absurd hc (by decide)
  rw [he]
  refine decode_enc1 hf (by decide) (by decide) _ (.cpy d a (.uni b) c) ?_ hw
  simp only [List.getD_cons_zero, List.getD_cons_succ]
  have e (m d a b w2 w3 : Nat) : decU3 0x7A m d a b w2 w3 = (
 do
      guard (m = 0)
      let c ← cpyCtlOf w2
      let dd ← if c.dkind.val = 2 then some USpec.zero else uspecOf d
      let len ← if b = 112 then some (CpyLen.imm (BitVec.ofNat 32 w3))
        else (if w3 = 0 then (uspecOf b).map CpyLen.uni else none)
      some (.cpy dd (← uspecOf a) len c)) := rfl
  rw [if_neg (by decide), if_neg (by decide), e]
  simpa [guard, cpyCtlOf_enc, hb] using cpyDst d c hd

theorem cpy_imm (d : USpec) (a : USpec) (n : BitVec 32) (c : CpyCtl) : Statement (.cpy d a (.imm
    n) c) := by
  intro _ hw
  have h0 := d.code_lt
  have h1 := a.code_lt
  have h2 := n.isLt
  have he : encode (.cpy d a (.imm n) c) = [enc1 1 0x7A 0 d.code a.code 112, encCpyCtl c, n] := rfl
  have hf : Fits1 1 0x7A 0 d.code a.code 112 := by
    constructor
    iterate 6 omega
  have hd : cpyDstOk c d = true := by simp only [Instr.wf, Bool.and_eq_true] at hw; exact hw.1.2
  rw [he]
  refine decode_enc1 hf (by decide) (by decide) _ (.cpy d a (.imm n) c) ?_ hw
  simp only [List.getD_cons_zero, List.getD_cons_succ]
  have e (m d a b w2 w3 : Nat) : decU3 0x7A m d a b w2 w3 = (
 do
      guard (m = 0)
      let c ← cpyCtlOf w2
      let dd ← if c.dkind.val = 2 then some USpec.zero else uspecOf d
      let len ← if b = 112 then some (CpyLen.imm (BitVec.ofNat 32 w3))
        else (if w3 = 0 then (uspecOf b).map CpyLen.uni else none)
      some (.cpy dd (← uspecOf a) len c)) := rfl
  rw [if_neg (by decide), if_neg (by decide), e]
  simpa [guard, cpyCtlOf_enc] using cpyDst d c hd

theorem cpy (d a : USpec) (len : CpyLen) (c : CpyCtl) : Statement (.cpy d a len c) := by
  cases len with
  | uni b => exact cpy_uni d a b c
  | imm n => exact cpy_imm d a n c

theorem succ (kind : Fin 4) (flag : Fin 8) (low : BitVec 19) (s0 s1 : Word) :
    Statement (.succ kind flag low s0 s1) := by
  intro _ hw
  have h0 := kind.isLt
  have h1 := flag.isLt
  have h2 := low.isLt
  obtain ⟨x, hx⟩ : ∃ x, x = kind.val * 2 ^ 22 + flag.val * 2 ^ 19 + low.toNat := ⟨_, rfl⟩
  have he : encode (.succ kind flag low s0 s1) = [BitVec.ofNat 32 (2 ^ 31 + 0x7B * 2 ^ 24 +
      kind.val * 2 ^ 22 + flag.val * 2 ^ 19 + low.toNat), s0, s1] := rfl
  have hq : BitVec.ofNat 32 (2 ^ 31 + 0x7B * 2 ^ 24 + kind.val * 2 ^ 22 + flag.val * 2 ^ 19 +
      low.toNat) = enc1 1 0x7B (x / 2 ^ 21) (x / 2 ^ 14 % 128) (x / 2 ^ 7 % 128) (x % 128) := by
    have hz : 2 ^ 31 + 0x7B * 2 ^ 24 + kind.val * 2 ^ 22 + flag.val * 2 ^ 19 + low.toNat =
        1 * 2 ^ 31 + 0x7B * 2 ^ 24 + x / 2 ^ 21 * 2 ^ 21 + x / 2 ^ 14 % 128 * 2 ^ 14 +
          x / 2 ^ 7 % 128 * 2 ^ 7 + x % 128 := by omega
    rw [hz, enc1]
  have hf : Fits1 1 0x7B (x / 2 ^ 21) (x / 2 ^ 14 % 128) (x / 2 ^ 7 % 128) (x % 128) := by
    constructor
    iterate 6 omega
  rw [he, hq]
  refine decode_enc1 hf (by decide) (by decide) _ (.succ kind flag low s0 s1) ?_ hw
  have e (m d a b w2 w3 : Nat) : decU3 0x7B m d a b w2 w3 = (
      let low := (m * 2 ^ 21 + d * 2 ^ 14 + a * 2 ^ 7 + b) % 2 ^ 24
      do some (.succ (← finOf 4 (low / 2 ^ 22)) (← finOf 8 (low / 2 ^ 19 % 8))
           (BitVec.ofNat 19 (low % 2 ^ 19)) (BitVec.ofNat 32 w2) (BitVec.ofNat 32 w3))) := rfl
  rw [if_neg (by decide), if_neg (by decide), e]
  have q : (x / 2 ^ 21 * 2 ^ 21 + x / 2 ^ 14 % 128 * 2 ^ 14 + x / 2 ^ 7 % 128 * 2 ^ 7 + x % 128) %
      2 ^ 24 = x := by omega
  have q0 : x / 2 ^ 22 = kind.val := by omega
  have q1 : x / 2 ^ 19 % 8 = flag.val := by omega
  have q2 : x % 2 ^ 19 = low.toNat := by omega
  simp only [q, q0, q1, q2]
  simp

theorem pref (a base : Fin 128) (sc : Fin 4) (home : Bool) (low : Fin 16) (i : BitVec 32) :
    Statement (.pref a base sc home low i) := by
  intro _ _
  have h0 := a.isLt
  have h1 := base.isLt
  have h2 := sc.isLt
  have h3 := ofBool_lt home
  have h4 := low.isLt
  have he : encode (.pref a base sc home low i) = [BitVec.ofNat 32 (0x7D * 2 ^ 24 + 1 * 2 ^ 22 +
      a.val * 2 ^ 14 + base.val * 2 ^ 7 + sc.val * 2 ^ 5 + ofBool home * 2 ^ 4 + low.val), i] := rfl
  have hv : (BitVec.ofNat 32 (0x7D * 2 ^ 24 + 1 * 2 ^ 22 + a.val * 2 ^ 14 + base.val * 2 ^ 7 +
      sc.val * 2 ^ 5 + ofBool home * 2 ^ 4 + low.val)).toNat = 0x7D * 2 ^ 24 + 1 * 2 ^ 22 +
      a.val * 2 ^ 14 + base.val * 2 ^ 7 + sc.val * 2 ^ 5 + ofBool home * 2 ^ 4 + low.val := by
    simp only [BitVec.toNat_ofNat]; exact Nat.mod_eq_of_lt (by omega)
  rw [he]
  simp only [decode, List.getD_cons_zero]
  generalize (BitVec.ofNat 32 (0x7D * 2 ^ 24 + 1 * 2 ^ 22 + a.val * 2 ^ 14 + base.val * 2 ^ 7 +
      sc.val * 2 ^ 5 + ofBool home * 2 ^ 4 + low.val)).toNat = W at *
  have f0 : fld W 31 31 = 0 := by simp only [fld]; omega
  have f1 : fld W 30 24 = 0x7D := by simp only [fld]; omega
  have f2 : fld W 23 22 = 1 := by simp only [fld]; omega
  have f3 : fld W 21 21 = 0 := by simp only [fld]; omega
  have f4 : fld W 20 14 = a.val := by simp only [fld]; omega
  have f5 : fld W 13 7 = base.val := by simp only [fld]; omega
  have f6 : fld W 6 5 = sc.val := by simp only [fld]; omega
  have f7 : fld W 4 4 = ofBool home := by simp only [fld]; omega
  have f8 : fld W 3 0 = low.val := by simp only [fld]; omega
  simp [decHint, f0, f1, f2, f3, f4, f5, f6, f7, f8]

theorem hint (u : Bool) (op : Fin 3) (hd : Bool) (d : Fin 128) (p : BitVec 14) (more : List Word) :
    Statement (.hint u op hd d p more) := by
  intro _ hw
  have h0 := ofBool_lt u
  have h1 := op.isLt
  have h2 := ofBool_lt hd
  have h3 := d.isLt
  have h4 := p.isLt
  simp only [Instr.wf, Bool.and_eq_true, decide_eq_true_eq] at hw
  obtain ⟨hl, hn⟩ := hw
  have he : encode (.hint u op hd d p more) = BitVec.ofNat 32 (ofBool u * 2 ^ 31 +
      (0x7D + op.val) * 2 ^ 24 + more.length * 2 ^ 22 + ofBool hd * 2 ^ 21 + d.val * 2 ^ 14 +
      p.toNat) :: more := rfl
  have hv : (BitVec.ofNat 32 (ofBool u * 2 ^ 31 + (0x7D + op.val) * 2 ^ 24 + more.length * 2 ^ 22 +
      ofBool hd * 2 ^ 21 + d.val * 2 ^ 14 + p.toNat)).toNat = ofBool u * 2 ^ 31 +
      (0x7D + op.val) * 2 ^ 24 + more.length * 2 ^ 22 + ofBool hd * 2 ^ 21 + d.val * 2 ^ 14 +
      p.toNat := by
    simp only [BitVec.toNat_ofNat]; exact Nat.mod_eq_of_lt (by omega)
  rw [he]
  simp only [decode, List.getD_cons_zero, List.drop_succ_cons, List.drop_zero]
  generalize (BitVec.ofNat 32 (ofBool u * 2 ^ 31 + (0x7D + op.val) * 2 ^ 24 + more.length * 2 ^ 22 +
      ofBool hd * 2 ^ 21 + d.val * 2 ^ 14 + p.toNat)).toNat = W at *
  have f0 : fld W 31 31 = ofBool u := by simp only [fld]; omega
  have f1 : fld W 30 24 = 0x7D + op.val := by simp only [fld]; omega
  have f2 : fld W 23 22 = more.length := by simp only [fld]; omega
  have f3 : fld W 21 21 = ofBool hd := by simp only [fld]; omega
  have f4 : fld W 20 14 = d.val := by simp only [fld]; omega
  have f5 : fld W 13 0 = p.toNat := by simp only [fld]; omega
  have hm : (List.range more.length).map (fun k => more.getD k 0) = more := by
    apply List.ext_getElem
    · simp
    · intro k h _; simp at h; simp [h]
  have hp : ¬ (ofBool u = 0 ∧ 0x7D + op.val = 0x7D ∧ more.length = 1 ∧ ofBool hd = 0) := by
    rintro ⟨a1, a2, a3, a4⟩
    have b1 : u = false := by cases u; rfl; exact absurd a1 (by decide)
    have b2 : hd = false := by cases hd; rfl; exact absurd a4 (by decide)
    subst b1 b2
    have b3 : op.val = 0 := by omega
    simp [b3, a3] at hn
  have f7 : 0x7D + op.val - 0x7D = op.val := by omega
  have hq : decHint (ofBool u) (0x7D + op.val) W more = some (.hint u op hd d p more) := by
    simp only [decHint, f2, f3, f4, f5, if_neg hp, hm, f7, finOf_val, toBool_ofBool,
        BitVec.ofNat_toNat,
      BitVec.setWidth_eq]
    rfl
  rw [f0, f1, if_pos (Nat.le_add_right _ _), hq]

theorem retirePacket (core : Nat) (part : Nat) (p : RetirePacket) : Statement (.retirePacket core
    part p) :=
  fun h => absurd h Bool.false_ne_true

theorem check (core : Nat) (part : Nat) (idx : Nat) (errs : Nat) : Statement (.check core part idx
    errs) :=
  fun h => absurd h Bool.false_ne_true

theorem commit (core : Nat) (part : Nat) (idx : Nat) (bad : List Nat) : Statement (.commit core
    part idx bad) :=
  fun h => absurd h Bool.false_ne_true

theorem checkerLineFill (core : Nat) (line : Nat) : Statement (.checkerLineFill core line) :=
  fun h => absurd h Bool.false_ne_true

theorem mismatchWindow (core : Nat) : Statement (.mismatchWindow core) :=
  fun h => absurd h Bool.false_ne_true

theorem pickWarp (core : Nat) (part : Nat) (seq : Nat) (starved : List Nat) : Statement (.pickWarp
    core part seq starved) :=
  fun h => absurd h Bool.false_ne_true

theorem reggrowGrant (core : Nat) (part : Nat) : Statement (.reggrowGrant core part) :=
  fun h => absurd h Bool.false_ne_true

theorem reggrowFail (core : Nat) (part : Nat) : Statement (.reggrowFail core part) :=
  fun h => absurd h Bool.false_ne_true

theorem queueDoorbell (q : Nat) (tail : Word) : Statement (.queueDoorbell q tail) :=
  fun h => absurd h Bool.false_ne_true

theorem errClear (q : Nat) (bits : Word) : Statement (.errClear q bits) :=
  fun h => absurd h Bool.false_ne_true

theorem nopPacket (q : Nat) (n : Nat) : Statement (.nopPacket q n) :=
  fun h => absurd h Bool.false_ne_true

theorem launchPacket (q : Nat) (n : Nat) : Statement (.launchPacket q n) :=
  fun h => absurd h Bool.false_ne_true

theorem graphPacket (q : Nat) (n : Nat) : Statement (.graphPacket q n) :=
  fun h => absurd h Bool.false_ne_true

theorem graphCheck (g : Nat) : Statement (.graphCheck g) :=
  fun h => absurd h Bool.false_ne_true

theorem phasePacket (q : Nat) (n : Nat) : Statement (.phasePacket q n) :=
  fun h => absurd h Bool.false_ne_true

theorem phaseClosePacket (q : Nat) (n : Nat) : Statement (.phaseClosePacket q n) :=
  fun h => absurd h Bool.false_ne_true

theorem waitPacket (q : Nat) (n : Nat) : Statement (.waitPacket q n) :=
  fun h => absurd h Bool.false_ne_true

theorem waitPacketSample (q : Nat) (n : Nat) : Statement (.waitPacketSample q n) :=
  fun h => absurd h Bool.false_ne_true

theorem signalStorePacket (q : Nat) (n : Nat) : Statement (.signalStorePacket q n) :=
  fun h => absurd h Bool.false_ne_true

theorem signalAddPacket (q : Nat) (n : Nat) : Statement (.signalAddPacket q n) :=
  fun h => absurd h Bool.false_ne_true

theorem cancelLaunchPacket (q : Nat) (n : Nat) : Statement (.cancelLaunchPacket q n) :=
  fun h => absurd h Bool.false_ne_true

theorem cancelGraphPacket (q : Nat) (n : Nat) : Statement (.cancelGraphPacket q n) :=
  fun h => absurd h Bool.false_ne_true

theorem cancelPhasePacket (q : Nat) (n : Nat) : Statement (.cancelPhasePacket q n) :=
  fun h => absurd h Bool.false_ne_true

theorem cancelJobPacket (q : Nat) (n : Nat) : Statement (.cancelJobPacket q n) :=
  fun h => absurd h Bool.false_ne_true

theorem jobOpen (j : Nat) : Statement (.jobOpen j) :=
  fun h => absurd h Bool.false_ne_true

theorem jobReopen (j : Nat) : Statement (.jobReopen j) :=
  fun h => absurd h Bool.false_ne_true

theorem refill : Statement (.refill) :=
  fun h => absurd h Bool.false_ne_true

theorem pickLaunch : Statement (.pickLaunch) :=
  fun h => absurd h Bool.false_ne_true

theorem preemptRequest (l : Nat) : Statement (.preemptRequest l) :=
  fun h => absurd h Bool.false_ne_true

theorem preemptAbandon (req : Nat) : Statement (.preemptAbandon req) :=
  fun h => absurd h Bool.false_ne_true

theorem preemptSave (blk : Nat) : Statement (.preemptSave blk) :=
  fun h => absurd h Bool.false_ne_true

theorem coreVacate (core : Nat) : Statement (.coreVacate core) :=
  fun h => absurd h Bool.false_ne_true

theorem blockResume (l : Nat) (cluster : Nat) : Statement (.blockResume l cluster) :=
  fun h => absurd h Bool.false_ne_true

theorem launchComplete (l : Nat) : Statement (.launchComplete l) :=
  fun h => absurd h Bool.false_ne_true

theorem queueHandOn (core : Nat) : Statement (.queueHandOn core) :=
  fun h => absurd h Bool.false_ne_true

theorem spillRefill (core : Nat) (job : Nat) : Statement (.spillRefill core job) :=
  fun h => absurd h Bool.false_ne_true

theorem handlerEntry (wid : Nat) : Statement (.handlerEntry wid) :=
  fun h => absurd h Bool.false_ne_true

theorem hostFaultRecord (core : Nat) : Statement (.hostFaultRecord core) :=
  fun h => absurd h Bool.false_ne_true

theorem resumeRetry (j : Nat) (seq : BitVec 24) : Statement (.resumeRetry j seq) :=
  fun h => absurd h Bool.false_ne_true

theorem resumeEnd (j : Nat) (seq : BitVec 24) : Statement (.resumeEnd j seq) :=
  fun h => absurd h Bool.false_ne_true

theorem wcallDrain (core : Nat) : Statement (.wcallDrain core) :=
  fun h => absurd h Bool.false_ne_true

theorem matrixStart (core : Nat) (idx : Nat) : Statement (.matrixStart core idx) :=
  fun h => absurd h Bool.false_ne_true

theorem matrixCheck (core : Nat) (idx : Nat) (dev : List Deviation) (recheckOk : Bool) : Statement
    (.matrixCheck core idx dev recheckOk) :=
  fun h => absurd h Bool.false_ne_true

theorem engineTake (die : Nat) (engine : Nat) : Statement (.engineTake die engine) :=
  fun h => absurd h Bool.false_ne_true

theorem copyComplete (die : Nat) (engine : Nat) : Statement (.copyComplete die engine) :=
  fun h => absurd h Bool.false_ne_true

theorem sliceReadRequest (core : Nat) (line : Nat) : Statement (.sliceReadRequest core line) :=
  fun h => absurd h Bool.false_ne_true

theorem sliceWrite (core : Nat) (id : Nat) : Statement (.sliceWrite core id) :=
  fun h => absurd h Bool.false_ne_true

theorem writeAck (core : Nat) (id : Nat) : Statement (.writeAck core id) :=
  fun h => absurd h Bool.false_ne_true

theorem sliceEvict (line : Nat) : Statement (.sliceEvict line) :=
  fun h => absurd h Bool.false_ne_true

theorem ownershipRecall (line : Nat) : Statement (.ownershipRecall line) :=
  fun h => absurd h Bool.false_ne_true

theorem predictorDecay (core : Nat) : Statement (.predictorDecay core) :=
  fun h => absurd h Bool.false_ne_true

theorem pageWalk (core : Nat) (asid : Nat) (va : BitVec 55) : Statement (.pageWalk core asid va) :=
  fun h => absurd h Bool.false_ne_true

theorem racqRemote (core : Nat) : Statement (.racqRemote core) :=
  fun h => absurd h Bool.false_ne_true

theorem waitaSample (wid : Nat) : Statement (.waitaSample wid) :=
  fun h => absurd h Bool.false_ne_true

theorem lnxRequestServe (wid : Nat) (lane : Nat) (errs : Nat) : Statement (.lnxRequestServe wid
    lane errs) :=
  fun h => absurd h Bool.false_ne_true

theorem groveEntryFetch (wid : Nat) (lane : Nat) : Statement (.groveEntryFetch wid lane) :=
  fun h => absurd h Bool.false_ne_true

theorem shootdown : Statement (.shootdown) :=
  fun h => absurd h Bool.false_ne_true

theorem graftLoad (copyOk : Bool) (sigOk : Bool) : Statement (.graftLoad copyOk sigOk) :=
  fun h => absurd h Bool.false_ne_true

theorem graftActivate : Statement (.graftActivate) :=
  fun h => absurd h Bool.false_ne_true

theorem graftRetire : Statement (.graftRetire) :=
  fun h => absurd h Bool.false_ne_true

theorem enterSegment (wid : Nat) : Statement (.enterSegment wid) :=
  fun h => absurd h Bool.false_ne_true

theorem segmentTranslate (l : Nat) (seg : Nat) : Statement (.segmentTranslate l seg) :=
  fun h => absurd h Bool.false_ne_true

theorem biasFlipToHost : Statement (.biasFlipToHost) :=
  fun h => absurd h Bool.false_ne_true

theorem biasFlipToDevice : Statement (.biasFlipToDevice) :=
  fun h => absurd h Bool.false_ne_true

theorem hostMemRead (pa : Nat) (keep : Bool) : Statement (.hostMemRead pa keep) :=
  fun h => absurd h Bool.false_ne_true

theorem hostMemWrite (pa : Nat) (bytes : List Byte) (poison : Bool) : Statement (.hostMemWrite pa
    bytes poison) :=
  fun h => absurd h Bool.false_ne_true

theorem bisnpResponse (line : Nat) (data : Option (List Byte)) : Statement (.bisnpResponse line
    data) :=
  fun h => absurd h Bool.false_ne_true

theorem hostLinkLoss : Statement (.hostLinkLoss) :=
  fun h => absurd h Bool.false_ne_true

theorem hostLinkReturn : Statement (.hostLinkReturn) :=
  fun h => absurd h Bool.false_ne_true

theorem laneFailure (port : Nat) (lane : Nat) : Statement (.laneFailure port lane) :=
  fun h => absurd h Bool.false_ne_true

theorem retrainComplete (port : Nat) : Statement (.retrainComplete port) :=
  fun h => absurd h Bool.false_ne_true

theorem portDead (port : Nat) (lostDevs : List Nat) : Statement (.portDead port lostDevs) :=
  fun h => absurd h Bool.false_ne_true

theorem peerLost (dev : Nat) : Statement (.peerLost dev) :=
  fun h => absurd h Bool.false_ne_true

theorem peerRemovalReport (dev : Nat) : Statement (.peerRemovalReport dev) :=
  fun h => absurd h Bool.false_ne_true

theorem replicaRead (dev : Nat) (line : Nat) : Statement (.replicaRead dev line) :=
  fun h => absurd h Bool.false_ne_true

theorem invalidationAck (obj : Nat) (dev : Nat) (line : Nat) (expiry : Nat) : Statement
    (.invalidationAck obj dev line expiry) :=
  fun h => absurd h Bool.false_ne_true

theorem objectDeclare (o : Nat) : Statement (.objectDeclare o) :=
  fun h => absurd h Bool.false_ne_true

theorem objectValidate (o : Nat) : Statement (.objectValidate o) :=
  fun h => absurd h Bool.false_ne_true

theorem objectRemove (o : Nat) : Statement (.objectRemove o) :=
  fun h => absurd h Bool.false_ne_true

theorem patrolScrub (pa : Nat) (correctable : Bool) : Statement (.patrolScrub pa correctable) :=
  fun h => absurd h Bool.false_ne_true

theorem undoStart : Statement (.undoStart) :=
  fun h => absurd h Bool.false_ne_true

theorem undoRestore : Statement (.undoRestore) :=
  fun h => absurd h Bool.false_ne_true

theorem deviceStart (r : StartReport) : Statement (.deviceStart r) :=
  fun h => absurd h Bool.false_ne_true

theorem watchdogExpire : Statement (.watchdogExpire) :=
  fun h => absurd h Bool.false_ne_true

theorem thermalTrip : Statement (.thermalTrip) :=
  fun h => absurd h Bool.false_ne_true

theorem supplyFault : Statement (.supplyFault) :=
  fun h => absurd h Bool.false_ne_true

theorem powerWindow (power : Nat) (temp : Nat) : Statement (.powerWindow power temp) :=
  fun h => absurd h Bool.false_ne_true

theorem failsClear : Statement (.failsClear) :=
  fun h => absurd h Bool.false_ne_true

theorem floorWrite (core : Nat) (level : Nat) : Statement (.floorWrite core level) :=
  fun h => absurd h Bool.false_ne_true

theorem registerWrite (off : Nat) (val : Word) : Statement (.registerWrite off val) :=
  fun h => absurd h Bool.false_ne_true

theorem releaseWaitEnd (wid : Nat) : Statement (.releaseWaitEnd wid) :=
  fun h => absurd h Bool.false_ne_true

theorem tileTransferComplete (core : Nat) (idx : Nat) : Statement (.tileTransferComplete core idx)
    :=
  fun h => absurd h Bool.false_ne_true

theorem biasFlipPageDone : Statement (.biasFlipPageDone) :=
  fun h => absurd h Bool.false_ne_true

theorem hostSnoop (line : Nat) (excl : Bool) : Statement (.hostSnoop line excl) :=
  fun h => absurd h Bool.false_ne_true

theorem hostWindowResponse (core : Nat) (id : Nat) : Statement (.hostWindowResponse core id) :=
  fun h => absurd h Bool.false_ne_true

theorem replicaInvalidation (line : Nat) : Statement (.replicaInvalidation line) :=
  fun h => absurd h Bool.false_ne_true

theorem hostLinkDown : Statement (.hostLinkDown) :=
  fun h => absurd h Bool.false_ne_true

theorem thermalThrottle (temp : Nat) : Statement (.thermalThrottle temp) :=
  fun h => absurd h Bool.false_ne_true

theorem packagePowerOff : Statement (.packagePowerOff) :=
  fun h => absurd h Bool.false_ne_true

end

end Sys2Proof.Laws.RoundTrip
end

