-- ==== Sys2Proof/Laws/Trap.lean ====
section
/-!
SUPPORT. Taking the fault of a whole group: what the trap changes and what it keeps (10 R220 to R227).
-/

set_option Elab.async false

namespace Sys2Proof.Machine

theorem maskOf_lanesOf (m : Mask) : maskOf (lanesOf m) = m := by
  apply BitVec.eq_of_getLsbD_eq
  intro k hk
  rw [getLsbD_maskOf _ hk, Bool.eq_iff_iff, List.contains_iff_mem, mem_lanesOf]
  exact and_iff_right hk

theorem and_not_self' (m : Mask) : m &&& ~~~m = 0 := by
  apply BitVec.eq_of_getLsbD_eq; intro k hk; simp

theorem modLanes_zero (f : Lane → Lane) (w : Warp) : w.modLanes 0 f = w := rfl

/-- The temporaries of lanes as parked. -/
theorem fget_temps (m : Mask) (w : Warp) {k l : Nat} (hk : k < 8) (hl : l < 32)
    (hm : m.getLsbD l = true) :
    fget 0 (32 * k + l) (w.temps m) = fget 0 (32 * (112 + k) + l) w.v := by
  let g : Nat → Word := fun x => fget 0 (3584 + x) w.v
  have inner : ∀ (t : Nat) (ls : List Nat) (acc : FMap Word) (x : Nat),
      (fget 0 x acc = g x ∨ ∃ l ∈ ls, x = 32 * t + l) →
      fget 0 x (ls.foldl (fun acc l => fset 0 (32 * t + l) (fget 0 (32 * (112 + t) + l) w.v) acc) acc)
        = g x := by
    intro t ls
    induction ls with
    | nil => intro acc x h; simpa using h
    | cons a r ih =>
      intro acc x h
      refine ih _ x ?_
      by_cases hx : x = 32 * t + a
      · left
        rw [fget_fset, if_pos hx, hx]
        show _ = fget 0 _ w.v
        congr 1; omega
      · rcases h with h | ⟨l, hl, e⟩
        · left; rw [fget_fset, if_neg hx]; exact h
        · right
          rcases List.mem_cons.1 hl with rfl | hl
          · exact absurd e hx
          · exact ⟨l, hl, e⟩
  have outer : ∀ (ts : List Nat) (acc : FMap Word) (x : Nat),
      (fget 0 x acc = g x ∨ ∃ t ∈ ts, ∃ l ∈ lanesOf m, x = 32 * t + l) →
      fget 0 x (ts.foldl (fun acc t => (lanesOf m).foldl (fun acc l =>
        fset 0 (32 * t + l) (fget 0 (32 * (112 + t) + l) w.v) acc) acc) acc) = g x := by
    intro ts
    induction ts with
    | nil => intro acc x h; simpa using h
    | cons a r ih =>
      intro acc x h
      refine ih _ x ?_
      by_cases hx : ∃ l ∈ lanesOf m, x = 32 * a + l
      · left; exact inner a _ _ x (.inr hx)
      · rcases h with h | ⟨t, ht, l, hl, e⟩
        · left; exact inner a _ _ x (.inl h)
        · rcases List.mem_cons.1 ht with rfl | ht
          · exact absurd ⟨l, hl, e⟩ hx
          · right; exact ⟨t, ht, l, hl, e⟩
  have := outer (List.range 8) [] (32 * k + l)
    (.inr ⟨k, List.mem_range.2 hk, l, mem_lanesOf.2 ⟨hl, hm⟩, rfl⟩)
  unfold Warp.temps
  rw [this]
  show fget 0 _ w.v = _
  congr 1; omega

/-- The lanes of a group leave their sequencer. -/
theorem unbind_core (wid : Nat) (m : Mask) (s : State) :
    { (s.unbind wid m).core (s.coreOf wid) with seqs := (s.core (s.coreOf wid)).seqs } =
      s.core (s.coreOf wid) := by
  unfold State.unbind
  have : ∀ (s : State) (k : Nat) (f : Warp → Warp), (s.modWarp k f).core = s.core := by
    intro s k f; funext j; simp [State.core]
  simp only [this, State.modCore_core_self]

theorem filterMap_cut {wid : Nat} {m : Mask} (bs : List Binding)
    (h : ∀ b ∈ bs, b.wid = wid ∧ b.mask ≠ 0 ∧ b.mask &&& m = 0) :
    bs.filterMap (fun b => if b.wid = wid then
      if b.mask &&& ~~~m = 0 then none else some { b with mask := b.mask &&& ~~~m }
      else some b) = bs := by
  induction bs with
  | nil => rfl
  | cons b r ih =>
    obtain ⟨h1, h2, h3⟩ := h b (by simp)
    have e : b.mask &&& ~~~m = b.mask := by
      apply BitVec.eq_of_getLsbD_eq
      intro k hk
      have := congrArg (fun x : Mask => x.getLsbD k) h3
      simp only [BitVec.getLsbD_and] at this
      simp only [BitVec.getLsbD_and, BitVec.getLsbD_not, hk, decide_true, Bool.true_and]
      cases hb : b.mask.getLsbD k <;> simp_all
    rw [List.filterMap_cons]
    have ih := ih (fun b hb => h b (List.mem_cons_of_mem _ hb))
    rw [if_pos h1, e, if_neg h2, ih]

theorem codesOf_const {ls : List Nat} (hne : ls ≠ []) (f : FaultInfo) :
    codesOf (ls.map (fun l => (l, f))) = [f.code.toNat] := by
  have hany : ∀ c, (ls.map (fun l => (l, f))).any (fun e => e.2.code.toNat == c) =
      (f.code.toNat == c) := by
    intro c
    cases ls with
    | nil => exact absurd rfl hne
    | cons a r =>
      induction r with
      | nil => simp
      | cons b r ih =>
        simp only [List.map_cons, List.any_cons, ne_eq] at ih ⊢
        have := ih (by simp)
        cases hh : (f.code.toNat == c) <;> simp_all
  have hlt : f.code.toNat < 256 := f.code.isLt
  unfold codesOf
  simp only [hany]
  generalize f.code.toNat = n at hlt
  have : ∀ k, (List.range k).filter (fun c => n == c) = if n < k then [n] else [] := by
    intro k
    induction k with
    | zero => simp
    | succ k ih =>
      rw [List.range_succ, List.filter_append, ih]
      by_cases h1 : n < k
      · have : ¬ n = k := by omega
        simp [h1, this, Nat.lt_succ_of_lt h1]
      · by_cases h2 : n = k
        · simp [h2]
        · have : ¬ n < k + 1 := by omega
          simp [h1, h2, this]
  rw [this, if_pos hlt]

/-- One fault for each lane of a group is what each lane takes. -/
theorem laneFaults_group (m : Mask) (f : FaultInfo) :
    laneFaults ((lanesOf m).map (fun l => (l, f))) = (lanesOf m).map (fun l => (l, f)) := by
  have key : ∀ l, minBy (fun (e : Nat × FaultInfo) => e.2.code.toNat)
      (((lanesOf m).map (fun k => (k, f))).filter (fun e => e.1 == l)) =
      if l ∈ lanesOf m then some (l, f) else none := by
    intro l
    have h : ∀ ls : List Nat, ls.Nodup → (ls.map (fun k => (k, f))).filter (fun e => e.1 == l) =
        if l ∈ ls then [(l, f)] else [] := by
      intro ls
      induction ls with
      | nil => intro _; rfl
      | cons a r ih =>
        intro hn
        obtain ⟨h1, h2⟩ := List.nodup_cons.1 hn
        rw [List.map_cons, List.filter_cons, ih h2]
        by_cases e : a = l
        · subst e; simp [h1]
        · simp [e, Ne.symm e]
    rw [h _ (lanesOf_nodup m)]
    split <;> rfl
  unfold laneFaults
  simp only [key]
  have gen : ∀ rs : List Nat, rs.filterMap (fun l => if l ∈ lanesOf m then some (l, f) else none) =
      (rs.filter (fun l => decide (l ∈ lanesOf m))).map (fun l => (l, f)) := by
    intro rs
    induction rs with
    | nil => rfl
    | cons a r ih =>
      by_cases h : a ∈ lanesOf m <;> simp [h, ih]
  rw [gen]
  congr 1
  show _ = (List.range 32).filter m.getLsbD
  apply List.filter_congr
  intro l hl
  simp [mem_lanesOf, List.mem_range.1 hl]

/-- Faults of all lanes of a group on which no slot acts are one delivery. -/
theorem takeFaults_group {a : FaultAt} {n : Nat} {last : Bool} {m : Mask} {f : FaultInfo} {s : State}
    (hm : m ≠ 0) (h : ∀ l, l < 32 → s.faultAct a l f = .deliver f) :
    s.takeFaults a n last ((lanesOf m).map (fun l => (l, f))) =
      (s.modWarp a.wid (fun w => w)).deliver a m f := by
  have hne : lanesOf m ≠ [] := by
    intro h0
    apply hm
    rw [← maskOf_lanesOf m, h0]; rfl
  have hacts : ((lanesOf m).map (fun l => (l, f))).map (fun e => (e.1, s.faultAct a e.1 e.2)) =
      (lanesOf m).map (fun l => (l, FAct.deliver f)) := by
    rw [List.map_map]
    apply List.map_congr_left
    intro l hl
    show (l, s.faultAct a l f) = _
    rw [h l (mem_lanesOf.1 hl).1]
  have hmap : ∀ ls : List Nat, ls.filterMap (fun l => some (l, f)) = ls.map (fun l => (l, f)) := by
    intro ls
    induction ls with
    | nil => rfl
    | cons a r ih => rw [List.filterMap_cons, ih]; rfl
  have hnone : ∀ (β : Type) (ls : List Nat), ls.filterMap (fun _ => (none : Option β)) = [] := by
    intro β ls
    induction ls with
    | nil => rfl
    | cons a r ih => rw [List.filterMap_cons, ih]
  have hc : codesOf [] = [] := by decide +kernel
  have h0 : maskOf [] = (0 : Mask) := rfl
  unfold State.takeFaults
  simp only [laneFaults_group, hacts, List.filterMap_map, Function.comp_def, hmap, hnone, List.map_nil, hc,
    List.foldl_nil, h0, modLanes_zero, codesOf_const hne, List.foldl_cons]
  have h4 : ((lanesOf m).map (fun l => (l, f))).filter (fun e => e.2.code.toNat == f.code.toNat) =
      (lanesOf m).map (fun l => (l, f)) := by
    apply List.filter_eq_self.2
    intro e he
    obtain ⟨l, _, rfl⟩ := List.mem_map.1 he
    simp
  have h5 : ((lanesOf m).map (fun l => (l, f))).map Prod.fst = lanesOf m := by
    rw [List.map_map]; exact List.map_id _
  simp only [h4]
  obtain ⟨l, r, hlr⟩ := List.exists_cons_of_ne_nil hne
  rw [h5, maskOf_lanesOf]
  simp only [hlr, List.map_cons]

/-- A state with the parts that a trap changes taken from another. -/
def State.likeIn (s t : State) : State :=
  { t with warps := s.warps, cores := s.cores, launches := s.launches, nextPark := s.nextPark }

/-- The same without launches. -/
def State.restIn (s t : State) : State :=
  { t with warps := s.warps, cores := s.cores, nextPark := s.nextPark }

/-- A state with its turn and counters taken from another. -/
def State.timeIn (s t : State) : State :=
  { t with turn := s.turn, tick := s.tick, fresh := s.fresh, gtime := s.gtime }

theorem modWarp_rest (wid : Nat) (f : Warp → Warp) (s : State) :
    { s.modWarp wid f with warps := s.warps } = s := by
  unfold State.modWarp; split <;> rfl

theorem modWarp_core (wid : Nat) (f : Warp → Warp) (s : State) (k : Nat) :
    (s.modWarp wid f).core k = s.core k := by simp [State.core]

theorem modWarp_launch (wid : Nat) (f : Warp → Warp) (s : State) (k : Nat) :
    (s.modWarp wid f).launch k = s.launch k := by simp [State.launch]

theorem modWarp_block (wid : Nat) (f : Warp → Warp) (s : State) (k : Nat) :
    (s.modWarp wid f).block k = s.block k := by simp [State.block]

theorem modLaunch_rest (l : Nat) (f : Launch → Launch) (s : State) :
    { s.modLaunch l f with launches := s.launches } = s := by
  unfold State.modLaunch; split <;> rfl

theorem unbind_rest (wid : Nat) (m : Mask) (s : State) :
    { s.unbind wid m with warps := s.warps, cores := s.cores } = s := by
  unfold State.unbind
  have := modWarp_rest wid (fun w => { w with waits := w.waits.filterMap (fun b => if b.wid = wid then
    if b.mask &&& ~~~m = 0 then none else some { b with mask := b.mask &&& ~~~m } else some b) })
    (s.modCore (s.coreOf wid) (fun k => { k with seqs := k.seqs.map (fun o => o.bind (fun b =>
      if b.wid = wid then
        if b.mask &&& ~~~m = 0 then none else some { b with mask := b.mask &&& ~~~m }
      else some b)) }))
  exact congrArg (fun t : State => { t with cores := s.cores }) this

theorem unbind_warp {wid : Nat} {m : Mask} {s : State} {w : Warp} (hw : s.warp wid = some w)
    (ha : ∀ b ∈ w.waits, b.wid = wid ∧ b.mask ≠ 0 ∧ b.mask &&& m = 0) :
    (s.unbind wid m).warp wid = some w := by
  unfold State.unbind
  dsimp only
  rw [State.modWarp_warp_self]
  have : (s.modCore (s.coreOf wid) (fun k => { k with seqs := k.seqs.map (fun o => o.bind (fun b =>
      if b.wid = wid then
        if b.mask &&& ~~~m = 0 then none else some { b with mask := b.mask &&& ~~~m }
      else some b)) })).warp wid = s.warp wid := rfl
  rw [this, hw]
  show some { w with waits := _ } = _
  rw [filterMap_cut _ ha]

theorem unbind_warps {wid k : Nat} {m : Mask} {s : State} (h : k ≠ wid) :
    (s.unbind wid m).warp k = s.warp k := by
  unfold State.unbind
  exact State.modWarp_warp_of_ne _ h _

theorem unbind_cores {wid k : Nat} {m : Mask} {s : State} (h : k ≠ s.coreOf wid) :
    (s.unbind wid m).core k = s.core k := by
  unfold State.unbind
  have : ∀ (s : State) (k : Nat) (f : Warp → Warp), (s.modWarp k f).core = s.core := by
    intro s k f; funext j; simp [State.core]
  rw [this]
  exact State.modCore_core_of_ne _ h _

/-- Settling keeps all but the sequencers of its core and where the warp last ran. -/
theorem settle_frame {core part seq wid : Nat} {s : State} {w : Warp} (hg : Going s wid)
    (hw : s.warp wid = some w) :
    { s.settle core part seq wid with warps := s.warps, cores := s.cores } = s ∧
    (∀ k, k ≠ core → (s.settle core part seq wid).core k = s.core k) ∧
    { (s.settle core part seq wid).core core with seqs := (s.core core).seqs } = s.core core := by
  unfold State.settle
  rw [hw]
  split
  · split
    · rename_i b _ _ _ _
      have hk : RestKept wid core s ((s.freeSeq core part seq).modWarp wid (fun w =>
          { w with lastRun := b.mask, lastYield := w.yielded })) :=
        (RestKept.setSeq wid core part seq none s).trans (RestKept.modWarp _ _ _ _)
      rw [stopIfCancelled_going (Going.of_kept hk hg)]
      have hc : ∀ (s : State) (k : Nat) (f : Warp → Warp), (s.modWarp k f).core = s.core := by
        intro s k f; funext j; simp [State.core]
      refine ⟨?_, fun k hne => ?_, ?_⟩
      · unfold State.modWarp; split <;> rfl
      · rw [hc]; exact State.modCore_core_of_ne _ hne _
      · rw [hc]
        unfold State.freeSeq State.setSeq
        rw [State.modCore_core_self]
    · rw [stopIfCancelled_going hg]; exact ⟨rfl, fun _ _ => rfl, rfl⟩
  · rename_i h; simp at h
  · rw [stopIfCancelled_going hg]; exact ⟨rfl, fun _ _ => rfl, rfl⟩

/-- A warp's lane after the fault of its group: it stands at the instruction. -/
def Lane.parkedAt (c : Ctx) (y : Lane) : Lane :=
  { y with pc := c.pc, run := some c.start, nxt := c.nxt, gen := c.gen, score := c.score }

theorem modWarp_unbind_rest (wid n : Nat) (m : Mask) (f : Warp → Warp) (s : State) :
    { State.modWarp wid f { s.unbind wid m with nextPark := n } with
      warps := s.warps, cores := s.cores, nextPark := s.nextPark } = s := by
  have e := modWarp_rest wid f { s.unbind wid m with nextPark := n }
  have e2 : s.restIn (State.modWarp wid f { s.unbind wid m with nextPark := n }) =
      s.restIn (s.unbind wid m) := by
    have q := congrArg (State.restIn s) e; exact q
  have e3 : s.restIn (s.unbind wid m) = s := by
    have q := congrArg (State.restIn s) (unbind_rest wid m s); exact q
  exact e2.trans e3

theorem addParked_spec {s : State} {c : Ctx} {w : Warp} {L : Launch} {r : FaultRec}
    (hw : s.warp c.wid = some w) (hcore : s.coreOf c.wid = c.core)
    (ha : ∀ b ∈ w.waits, b.wid = c.wid ∧ b.mask ≠ 0 ∧ b.mask &&& c.mask = 0)
    (hlo : s.launchOf c.wid = some L) :
    ∃ s', s.addParked c.at c.mask r .queued = s' ∧
      { s' with warps := s.warps, cores := s.cores, nextPark := s.nextPark } = s ∧
      s'.nextPark = s.nextPark + 1 ∧ (∀ k, k ≠ c.wid → s'.warp k = s.warp k) ∧
      (∀ k, k ≠ c.core → s'.core k = s.core k) ∧
      { s'.core c.core with seqs := (s.core c.core).seqs } = s.core c.core ∧
      s'.warp c.wid = some { w.modLanes c.mask (Lane.parkedAt c) with
        parked := w.parked ++ [c.park r (w.temps c.mask) s.nextPark L w] } := by
  refine ⟨_, rfl, ?_, ?_, fun k hk => ?_, fun k hk => ?_, ?_, ?_⟩ <;>
    simp only [State.addParked, Ctx.at]
  · exact modWarp_unbind_rest _ _ _ _ _
  · simp
  · rw [State.modWarp_warp_of_ne _ hk]; exact unbind_warps hk
  · rw [modWarp_core]; exact unbind_cores (by rw [hcore]; exact hk)
  · rw [modWarp_core]
    have := unbind_core c.wid c.mask s
    rw [hcore] at this
    exact this
  · rw [State.modWarp_warp_self]
    have : ({ s.unbind c.wid c.mask with nextPark := s.nextPark + 1 } : State).warp c.wid =
      some w := unbind_warp hw ha
    rw [this, hlo]
    rfl

/-- The delivery of a group fault into a core queue with room. -/
theorem deliver_spec {s : State} {c : Ctx} {w : Warp} {b : Block} {L : Launch} {f : FaultInfo}
    (hw : s.warp c.wid = some w) (hcore : s.coreOf c.wid = c.core) (hr : TrapReady f s c w)
    (hb : s.block (blkOf c.wid) = some b) (hL : s.launch b.launch = some L) :
    ∃ s', s.deliver c.at c.mask f = s' ∧
      { s' with warps := s.warps, cores := s.cores, launches := s.launches, nextPark := s.nextPark }
        = s ∧
      s'.nextPark = s.nextPark + 1 ∧ (∀ k, k ≠ c.wid → s'.warp k = s.warp k) ∧
      (∀ k, k ≠ c.core → s'.core k = s.core k) ∧
      { s'.core c.core with seqs := (s.core c.core).seqs } =
        { s.core c.core with queue := (s.core c.core).queue ++ [.trap c.wid s.nextPark] } ∧
      s'.launch b.launch = some { L with first := if L.faults = 0 then f.code else L.first,
                                         faults := min (L.faults + 1) (2 ^ 32 - 1) } ∧
      (∀ k, k ≠ b.launch → s'.launch k = s.launch k) ∧
      s'.warp c.wid = some { w.modLanes c.mask (Lane.parkedAt c) with
        parked := w.parked ++ [c.park (c.record f b L w) (w.temps c.mask) s.nextPark L w] } := by
  have hlo : s.launchOf c.wid = some L := by
    unfold State.launchOf; rw [hb]; exact hL
  have hrec : s.faultRec c.at c.mask f =
      { c.record f b L w with host := false } := by
    unfold State.faultRec Ctx.record
    simp only [Ctx.at, recWords, hw, hb, hlo, Option.map_some, Option.getD_some, hcore]
  have hhost : ({ s.faultRec c.at c.mask f with host := (s.faultRec c.at c.mask f).nested ||
      (s.faultRec c.at c.mask f).graft ||
      !((s.launchOf (c.at).wid).map (fun L => L.trapbase.getLsbD 0)).getD false } : FaultRec) =
      c.record f b L w := by
    rw [hrec]
    have : (c.at).wid = c.wid := rfl
    rw [this, hlo]
    rfl
  unfold State.deliver
  dsimp only
  rw [hhost]
  have hat : (c.at).wid = c.wid := rfl
  rw [hat, hb, hcore]
  obtain ⟨s1, hs1, hrest, hid, hwarps, hcores, hcq, hown⟩ :=
    addParked_spec (r := c.record f b L w) hw hcore hr.apart hlo
  rw [hs1]
  have hl1 : ∀ k, s1.launch k = s.launch k := by
    have := congrArg State.launches hrest
    intro k; unfold State.launch; rw [← this]
  have hspill : s1.spill = s.spill := by have q := congrArg State.spill hrest; exact q
  let F : Launch → Launch := fun L =>
    { L with first := if L.faults = 0 then f.code else L.first, faults := satInc L.faults }
  have hqueue : ((s1.modLaunch b.launch F).core c.core).queue = (s.core c.core).queue := by
    have q := congrArg Core.queue hcq
    rw [← q]; simp [State.core]
  have hplace : (s1.modLaunch b.launch F).placeEntry c.core (s.jobOf c.wid)
      (.trap c.wid s.nextPark) = .ok ((s1.modLaunch b.launch F).modCore c.core
        (fun k => { k with queue := k.queue ++ [.trap c.wid s.nextPark] })) := by
    unfold State.placeEntry
    have hsp : tgetD [] (spillKey (s.jobOf c.wid) c.core) (s1.modLaunch b.launch F).spill = [] := by
      rw [State.modLaunch_spill, hspill, hr.spill]
    have h64 := hr.space
    have hfree : QEntry.split ((s1.modLaunch b.launch F).queueFree c.core) (.trap c.wid s.nextPark) =
        (some (.trap c.wid s.nextPark), none) := by
      unfold QEntry.split State.queueFree
      rw [hqueue]
      have : 1 ≤ 64 - qWeight (s.core c.core).queue := by omega
      simp [QEntry.weight, this]
    simp only [hsp, hfree, List.isEmpty_nil, if_true]
    rfl
  show ∃ s', (match (s1.modLaunch b.launch F).placeEntry c.core (s.jobOf c.wid)
      (.trap c.wid s.nextPark) with | .ok s => s | .error _ => s1.modLaunch b.launch F) = s' ∧ _
  rw [hplace]
  have hML : ∀ k, (s1.modLaunch b.launch F).warp k = s1.warp k := fun k => by simp [State.warp]
  have hMC : ∀ k, (s1.modLaunch b.launch F).core k = s1.core k := fun k => by simp [State.core]
  refine ⟨_, rfl, ?_, ?_, fun k hk => ?_, fun k hk => ?_, ?_, ?_, fun k hk => ?_, ?_⟩
  · have e := modLaunch_rest b.launch F s1
    have e2 := congrArg (State.likeIn s) e
    refine e2.trans ?_
    have : s1.launches = s.launches := by have q := congrArg State.launches hrest; exact q
    have e3 := congrArg (fun t : State => { t with launches := s.launches }) hrest
    exact e3
  · show (s1.modLaunch b.launch F).nextPark = _
    rw [State.modLaunch_nextPark, hid]
  · show (s1.modLaunch b.launch F).warp k = _
    rw [hML, hwarps k hk]
  · rw [State.modCore_core_of_ne _ hk, hMC, hcores k hk]
  · rw [State.modCore_core_self, hMC]
    have q := congrArg (fun k : Core =>
      { k with queue := (s.core c.core).queue ++ [QEntry.trap c.wid s.nextPark] }) hcq
    have hq2 : (s1.core c.core).queue = (s.core c.core).queue := by
      have q := congrArg Core.queue hcq; exact q
    rw [hq2]
    exact q
  · show (s1.modLaunch b.launch F).launch b.launch = _
    rw [State.modLaunch_launch_self, hl1, hL]
    rfl
  · show (s1.modLaunch b.launch F).launch k = _
    rw [State.modLaunch_launch_of_ne _ hk, hl1]
  · show (s1.modLaunch b.launch F).warp c.wid = _
    rw [hML, hown]

/-- An instruction whose effect is the fault of its group traps, and does nothing else. -/
theorem issue_fault {i : Instr} {s : State} {c : Ctx} {w : Warp} {b : Block} {L : Launch}
    {f : FaultInfo} (h : Issues i s c w) (hr : TrapReady f s c w)
    (hb : s.block (blkOf c.wid) = some b) (hL : s.launch b.launch = some L)
    {body : Ctx → State → Res} (hbody : body c s = Res.fault c f s) :
    ∃ t, issue i body s = .next t ∧ GroupTrap f c b L s t w := by
  obtain ⟨_, _, w2, _, _, _, hw2, _, hlanes, _, _, _, hcore⟩ := ctx_spec h.ctx
  have hww : w = w2 := by rw [h.warp] at hw2; exact Option.some.inj hw2
  subst hww
  have hm := ctx_mask_ne h.ctx
  rw [issue_eq h, hbody]
  have hz : c.mask &&& ~~~maskOf (((lanesOf c.mask).map (fun l => (l, f))).map Prod.fst) = 0 := by
    have e : ((lanesOf c.mask).map (fun l => (l, f))).map Prod.fst = lanesOf c.mask := by
      rw [List.map_map]; exact List.map_id _
    rw [e, maskOf_lanesOf, and_not_self']
  have hne : ((lanesOf c.mask).map (fun l => (l, f))) ≠ [] := by
    intro h0
    apply hm
    rw [← maskOf_lanesOf c.mask, List.map_eq_nil_iff.1 h0]; rfl
  let s1 : State := (s.advance c 0).modWarp c.wid (fun w => w)
  have hs1w : ∀ k, s1.warp k = s.warp k := by
    intro k
    by_cases hk : k = c.wid
    · subst hk
      show (State.modWarp _ _ (State.modWarp _ _ s)).warp _ = _
      rw [State.modWarp_warp_self, State.modWarp_warp_self, h.warp]; rfl
    · show (State.modWarp _ _ (State.modWarp _ _ s)).warp _ = _
      rw [State.modWarp_warp_of_ne _ hk, State.modWarp_warp_of_ne _ hk]
  have hs1r : { s1 with warps := s.warps } = s := by
    have e1 := modWarp_rest c.wid (fun w => w) (s.advance c 0)
    have e2 := modWarp_rest c.wid (fun w => w.modLanes 0 (fun l => { l with
      pc := if c.last then c.nxt else c.pc + BitVec.ofNat 64 (4 * c.n),
      run := if c.last then none else some c.start, retry := 0, bkpt := none })) s
    have e3 := congrArg (fun t : State => { t with warps := s.warps }) e1
    exact e3.trans e2
  have fld : ∀ {α : Type} (g : State → α), (∀ ws t, g { t with warps := ws } = g t) →
      g s1 = g s := fun g hg => by
    have e := congrArg g hs1r; rw [hg] at e; exact e
  have happly : applyRes i c [] (Res.fault c f s) =
      (s1.deliver c.at c.mask f).settle c.core c.part c.seq c.wid := by
    have hacts : ∀ l, l < 32 → (s.advance c 0).faultAct c.at l f = .deliver f := by
      intro l hl
      have hw' : (s.advance c 0).warp (c.at).wid = s.warp (c.at).wid := by
        show (State.modWarp _ _ s).warp c.wid = s.warp c.wid
        rw [State.modWarp_warp_self, h.warp]; rfl
      have hg : (s.advance c 0).graftOf = s.graftOf := by
        funext g
        unfold State.graftOf State.advance
        simp
      have := hr.slots l hl
      unfold State.faultAct at this ⊢
      rw [hw', hg]; exact this
    have htf := takeFaults_group (n := c.n) (last := c.last) hm hacts
    simp only [applyRes, Res.fault, List.nil_append, hz, if_neg hne, State.noteDone, if_true]
    have hwid : (c.at).wid = c.wid := rfl
    rw [htf, hwid]
  rw [happly]
  have hr1 : TrapReady f s1 c w := by
    refine ⟨fun l hl => ?_, ?_, ?_, hr.apart⟩
    · have := hr.slots l hl
      have hg : s1.graftOf = s.graftOf := fld State.graftOf (fun _ _ => rfl)
      unfold State.faultAct at this ⊢
      rw [hs1w, hg]; exact this
    · have e1 : s1.spill = s.spill := fld State.spill (fun _ _ => rfl)
      have e2 : s1.jobOf = s.jobOf := fld State.jobOf (fun _ _ => rfl)
      rw [e1, e2]; exact hr.spill
    · have e1 : s1.core = s.core := fld State.core (fun _ _ => rfl)
      rw [e1]; exact hr.space
  obtain ⟨s2, hs2, hrest, hid, hwarps, hcores, hcq, hla, hlas, hown⟩ := deliver_spec (f := f) (L := L)
    (by rw [hs1w]; exact h.warp) ((fld (fun s => s.coreOf c.wid) (fun _ _ => rfl)).trans hcore) hr1
    ((fld (fun s => s.block (blkOf c.wid)) (fun _ _ => rfl)).trans hb)
    ((fld (fun s => s.launch b.launch) (fun _ _ => rfl)).trans hL)
  rw [hs2]
  have hblk2 : s2.block = s.block := by
    have q := congrArg State.block hrest
    exact q.trans (fld State.block (fun _ _ => rfl))
  have hgo2 : Going s2 c.wid := by
    intro L2 hL2
    unfold State.launchOf at hL2
    rw [hblk2, hb] at hL2
    have hL2 : s2.launch b.launch = some L2 := hL2
    rw [hla] at hL2
    injection hL2 with hL2
    rw [← hL2]
    exact h.going L (by unfold State.launchOf; rw [hb]; exact hL)
  obtain ⟨hset, hsc, hscq⟩ := settle_frame (core := c.core) (part := c.part) (seq := c.seq) hgo2 hown
  obtain ⟨hsk, lr, ly, hsw⟩ := settle_spec (core := c.core) (part := c.part) (seq := c.seq) hgo2 hown
  have e2 : s.likeIn s2 = s := by
    have q := congrArg (fun t : State => { t with warps := s.warps }) hrest
    have e1 : s1.cores = s.cores := fld State.cores (fun _ _ => rfl)
    have e3 : s1.launches = s.launches := fld State.launches (fun _ _ => rfl)
    have e4 : s1.nextPark = s.nextPark := fld State.nextPark (fun _ _ => rfl)
    have q2 := Eq.trans q hs1r
    dsimp only at q2
    rw [e1, e3, e4] at q2
    exact q2
  have hsl : (s2.settle c.core c.part c.seq c.wid).launch = s2.launch := by
    have q := congrArg State.launch hset; exact q
  have hc1 : s1.core = s.core := fld State.core (fun _ _ => rfl)
  have hp1 : s1.nextPark = s.nextPark := fld State.nextPark (fun _ _ => rfl)
  refine ⟨_, rfl, ?_, ?_, fun k hk => ?_, fun k hk => ?_, ?_, ?_, fun k hk => ?_, ?_⟩
  · have q := congrArg (State.likeIn s) hset
    have q2 := q.trans e2
    have q3 := congrArg (State.timeIn s) q2
    exact q3
  · show (s2.settle c.core c.part c.seq c.wid).nextPark = _
    have q := congrArg State.nextPark hset
    have q : (s2.settle c.core c.part c.seq c.wid).nextPark = s2.nextPark := q
    rw [q, hid, hp1]
  · rw [State.finish_warp, hsk.warps k hk, hwarps k hk, hs1w]
  · show (s2.settle c.core c.part c.seq c.wid).core k = _
    rw [hsc k hk, hcores k hk, hc1]
  · have hfc : (s2.settle c.core c.part c.seq c.wid).finish.core =
        (s2.settle c.core c.part c.seq c.wid).core := rfl
    rw [hfc]
    have q := congrArg (fun k : Core => { k with seqs := (s.core c.core).seqs }) hscq
    rw [hc1, hp1] at hcq
    exact q.trans hcq
  · show (s2.settle c.core c.part c.seq c.wid).launch b.launch = _
    rw [hsl, hla]
  · show (s2.settle c.core c.part c.seq c.wid).launch k = _
    rw [hsl, hlas k hk]
    exact congrFun (fld State.launch (fun _ _ => rfl)) k
  · refine ⟨_, w.temps c.mask, by rw [State.finish_warp, hsw], ?_, ?_, ?_⟩
    · have hk := Warp.modLanes_keep w c.mask (Lane.parkedAt c)
      rw [hp1]
      let P := w.parked ++ [c.park (c.record f b L w) (w.temps c.mask) s.nextPark L w]
      let ls := (w.modLanes c.mask (Lane.parkedAt c)).lanes
      have q := congrArg (fun x : Warp =>
        { x with lanes := ls, parked := P, lastRun := lr, lastYield := ly }) hk
      exact q
    · intro k l hk hl hml
      exact fget_temps c.mask w hk hl hml
    · intro l hl
      show (w.modLanes c.mask (Lane.parkedAt c)).lane l = _
      refine w.lane_modLanes c.mask _ hl (fun hml => w.lane_lt ?_)
      rw [(hlanes l hl hml).2.2]
      simp

end Sys2Proof.Machine
end

