-- ==== Sys2Proof/Laws/Uniform.lean ====
section
/-!
SUPPORT. The uniform registers and flags of a warp, and what a uniform instruction has done when it
completes (04 R100; 10 R227; 11 R252; 14 R303; 16 R329).
-/

set_option Elab.async false

namespace Sys2Proof.Machine

/-- A flag after a write of one. -/
theorem getLsbD_putFlag {n m : Nat} (b : Bool) (f : BitVec 8) (hn : n < 8) (hm : m < 8) :
    (putFlag n b f).getLsbD m = if m = n then b else f.getLsbD m := by
  unfold putFlag
  cases b <;> by_cases h : m = n <;> simp [h, hn, hm]

section Registers
variable (w : Warp)

/-- The uniform register at a place. -/
def Warp.atPlace (w : Warp) (p : Nat × Nat × Nat) : Word :=
  if p.1 = 2 then (w.graft.map (fun g => g.bank.getD (p.2.2 - 96) 0)).getD 0
  else if p.1 = 1 then (w.handler.map (fun h => h.bank.getD (p.2.2 - 96) 0)).getD 0
  else fget 0 (128 * p.2.1 + p.2.2) w.u

theorem Warp.rdS_place (k m : Nat) : w.rdS k m = w.atPlace (w.uniPlace k m) := by
  unfold Warp.rdS Warp.uniPlace
  split
  · cases h : w.graft <;> simp [Warp.atPlace, h]
  · split
    · cases h : w.handler <;> simp [Warp.atPlace, h]
    · simp [Warp.atPlace]

/-- What a write of a uniform register keeps. -/
structure UniSame (w w' : Warp) : Prop where
  keep : { w' with u := w.u, bad := w.bad, graft := w.graft, handler := w.handler } = w
  graft : w'.graft.map (fun g => { g with bank := [] }) = w.graft.map (fun g => { g with bank := [] })
  handler : w'.handler.map (fun h => { h with bank := [] }) =
    w.handler.map (fun h => { h with bank := [] })
  clean : w.bad = [] → w'.bad = []

theorem UniSame.refl : UniSame w w := ⟨rfl, rfl, rfl, id⟩

theorem UniSame.trans {a b c : Warp} (h : UniSame a b) (k : UniSame b c) : UniSame a c := by
  refine ⟨?_, k.graft.trans h.graft, k.handler.trans h.handler, k.clean ∘ h.clean⟩
  have h1 := h.keep
  rw [← k.keep] at h1
  exact h1

theorem Warp.wrS_same (l n : Nat) (x : Word) : UniSame w (w.wrS l n x) := by
  unfold Warp.wrS
  split
  · refine ⟨rfl, ?_, rfl, fun h => by simp [h]⟩
    cases w.graft <;> rfl
  · split
    · refine ⟨rfl, rfl, ?_, fun h => by simp [h]⟩
      cases w.handler <;> rfl
    · exact ⟨rfl, rfl, rfl, fun h => by simp [h]⟩

/-- Where a uniform register lives depends on the modes alone. -/
theorem UniSame.place {w w' : Warp} (h : UniSame w w') (k m : Nat) :
    w'.uniPlace k m = w.uniPlace k m := by
  have hg : w'.inGraft k = w.inGraft k := by
    have := congrArg (Option.map GraftMode.mask) h.graft
    simp only [Option.map_map] at this
    unfold Warp.inGraft
    cases h1 : w'.graft <;> cases h2 : w.graft <;> simp_all
  have hh : w'.inHandler k = w.inHandler k := by
    have := congrArg (Option.map Handler.mask) h.handler
    simp only [Option.map_map] at this
    unfold Warp.inHandler
    cases h1 : w'.handler <;> cases h2 : w.handler <;> simp_all
  have hl : w'.half k = w.half k := by
    have e : w'.g16 = w.g16 := by
      have := congrArg Warp.g16 h.keep
      exact this
    simp only [Warp.half, e]
  simp only [Warp.uniPlace, hg, hh, hl]

theorem Warp.uniPlace_cases (k m : Nat) : (w.uniPlace k m = (2, 0, m) ∧ 96 ≤ m ∧ w.graft.isSome) ∨
    (w.uniPlace k m = (1, 0, m) ∧ 96 ≤ m ∧ w.handler.isSome) ∨
    w.uniPlace k m = (0, w.half k, m) := by
  unfold Warp.uniPlace
  split
  · rename_i h
    refine .inl ⟨rfl, h.2, ?_⟩
    cases hg : w.graft with
    | none => simp [Warp.inGraft, hg] at h
    | some g => rfl
  · split
    · rename_i h
      refine .inr (.inl ⟨rfl, h.2, ?_⟩)
      cases hg : w.handler with
      | none => simp [Warp.inHandler, hg] at h
      | some g => rfl
    · exact .inr (.inr rfl)

/-- A uniform register after a write of one. -/
theorem Warp.rdS_wrS {l n k m : Nat} (x : Word) (hn : n < 128) (hm : m < 128) :
    (w.wrS l n x).rdS k m = if w.uniPlace k m = w.uniPlace l n then x else w.rdS k m := by
  rw [Warp.rdS_place, Warp.rdS_place, (w.wrS_same l n x).place k m]
  have hw : w.wrS l n x = if (w.uniPlace l n).1 = 2 then
      { w with graft := w.graft.map (fun g => { g with bank := lput 0 (n - 96) x g.bank }),
               bad := w.bad.filter (· != w.scode l n) }
      else if (w.uniPlace l n).1 = 1 then
      { w with handler := w.handler.map (fun h => { h with bank := lput 0 (n - 96) x h.bank }),
               bad := w.bad.filter (· != w.scode l n) }
      else { w with u := fset 0 (128 * w.half l + n) x w.u,
                    bad := w.bad.filter (· != w.scode l n) } := by
    unfold Warp.wrS Warp.uniPlace
    split
    · simp
    · split <;> simp
  have hhalf : ∀ a b : Nat, 128 * a + m = 128 * b + n ↔ a = b ∧ m = n := fun a b => by omega
  rw [hw]
  rcases w.uniPlace_cases k m with ⟨h1, h2, h3⟩ | ⟨h1, h2, h3⟩ | h1 <;>
    rcases w.uniPlace_cases l n with ⟨k1, k2, k3⟩ | ⟨k1, k2, k3⟩ | k1 <;> rw [h1, k1]
  · obtain ⟨g, hg⟩ := Option.isSome_iff_exists.1 h3
    by_cases he : m = n
    · subst he; simp [Warp.atPlace, hg, -List.getD_eq_getElem?_getD]
    · simp [Warp.atPlace, hg, he, -List.getD_eq_getElem?_getD,
        getD_lput_of_ne _ _ (by omega : m - 96 ≠ n - 96)]
  · simp [Warp.atPlace]
  · simp [Warp.atPlace]
  · simp [Warp.atPlace]
  · obtain ⟨g, hg⟩ := Option.isSome_iff_exists.1 h3
    by_cases he : m = n
    · subst he; simp [Warp.atPlace, hg, -List.getD_eq_getElem?_getD]
    · simp [Warp.atPlace, hg, he, -List.getD_eq_getElem?_getD,
        getD_lput_of_ne _ _ (by omega : m - 96 ≠ n - 96)]
  · simp [Warp.atPlace]
  · simp [Warp.atPlace]
  · simp [Warp.atPlace]
  · simp [Warp.atPlace, fget_fset, hhalf]

/-- A uniform flag after a write of one. -/
theorem Warp.rdG_wrG {l n k m : Nat} (hn : n < 8) (hm : m < 8) (b : Bool) :
    (w.wrG l n b).rdG k m = if w.half k = w.half l ∧ m = n then b else w.rdG k m := by
  have e : (w.wrG l n b).half k = w.half k := rfl
  unfold Warp.rdG
  rw [e]
  by_cases h : w.half k = w.half l
  · have hx : (w.wrG l n b).g.getD (w.half l) 0 = putFlag n b (w.g.getD (w.half l) 0) := by
      simp only [Warp.wrG, getD_lput_self, putFlag_eq]
    rw [h, hx, getLsbD_putFlag _ _ hn hm]
    simp
  · have hx : (w.wrG l n b).g.getD (w.half k) 0 = w.g.getD (w.half k) 0 := by
      simp only [Warp.wrG]; exact getD_lput_of_ne _ _ h _
    rw [hx, if_neg (by simp [h])]

end Registers

section Instructions
variable {i : Instr} {s : State} {c : Ctx} {w : Warp}

theorem Warp.rdS_congr {w w' : Warp} (h1 : w'.u = w.u) (h2 : w'.graft = w.graft)
    (h3 : w'.handler = w.handler) (h4 : w'.g16 = w.g16) (l n : Nat) : w'.rdS l n = w.rdS l n := by
  unfold Warp.rdS Warp.inGraft Warp.inHandler Warp.half
  rw [h1, h2, h3, h4]

theorem Warp.rdG_congr {w w' : Warp} (h1 : w'.g = w.g) (h4 : w'.g16 = w.g16) (l n : Nat) :
    w'.rdG l n = w.rdG l n := by
  unfold Warp.rdG Warp.half
  rw [h1, h4]

/-- A uniform instruction that leaves its warp `w1`: its registers and flags, the lanes of its group,
and all it keeps. -/
theorem uni_done (h : Issues i s c w) {body : Ctx → State → Res} {s1 : State} {w1 : Warp}
    (hb : body c s = Res.ok s1) (hk : RestKept c.wid c.core s s1) (hw : s1.warp c.wid = some w1)
    {regs : Nat → Option Word} {fl : List (Nat × Bool)} (hu : UniSame { w with g := w1.g } w1)
    (hr : ∀ l n, l < 32 → n < 112 → w1.rdS l n =
      if w.uniPlace l n = w.uniPlace (lowLane c.mask) n then (regs n).getD (w.rdS l n)
      else w.rdS l n)
    (hg : ∀ l n, l < 32 → n < 8 → w1.rdG l n =
      if w.half l = w.half (lowLane c.mask) then ((fl.find? (fun e => e.1 == n)).map Prod.snd).getD
        (w.rdG l n) else w.rdG l n) :
    ∃ t, issue i body s = .next t ∧ UniDone c s t w regs fl := by
  obtain ⟨b, r, w0, -, -, -, hw0, -, hlive, -, -, -, -⟩ := ctx_spec h.ctx
  have : w0 = w := by have := h.warp; rw [hw0] at this; exact Option.some.inj this
  subst this
  obtain ⟨t, ps, bd, lr, ly, ht, hkt, htw⟩ := issue_seq h hb hk hw
  refine ⟨t, ht, hkt, _, htw, ?_⟩
  have hkeep := w1.modLanes_keep c.mask (Lane.follow c)
  have hl0 : w1.lanes = w0.lanes := by have := congrArg Warp.lanes hu.keep; exact this
  have fu : (w1.modLanes c.mask (Lane.follow c)).u = w1.u := by
    have := congrArg Warp.u hkeep; exact this
  have fg : (w1.modLanes c.mask (Lane.follow c)).g = w1.g := by
    have := congrArg Warp.g hkeep; exact this
  have fgr : (w1.modLanes c.mask (Lane.follow c)).graft = w1.graft := by
    have := congrArg Warp.graft hkeep; exact this
  have fh : (w1.modLanes c.mask (Lane.follow c)).handler = w1.handler := by
    have := congrArg Warp.handler hkeep; exact this
  have fg16 : (w1.modLanes c.mask (Lane.follow c)).g16 = w1.g16 := by
    have := congrArg Warp.g16 hkeep; exact this
  have fv : (w1.modLanes c.mask (Lane.follow c)).v = w0.v := by
    have p := congrArg Warp.v hkeep
    have q := congrArg Warp.v hu.keep
    exact p.trans q
  refine ⟨⟨?_, ?_, ?_⟩, fv, ?_, ?_, ?_, ?_⟩
  · have e2 := congrArg (wipe w0) hu.keep
    have e3 := congrArg (wipe w0) hkeep
    exact e3.trans e2
  · have := congrArg (Option.map (fun g : GraftMode => { g with regs := [] })) hu.graft
    simp only [Option.map_map] at this
    show (w1.modLanes c.mask (Lane.follow c)).graft.map _ = _
    rw [fgr]; exact this
  · show (w1.modLanes c.mask (Lane.follow c)).handler.map _ = _
    rw [fh]; exact hu.handler
  · have := congrArg (Option.map (fun g : GraftMode => g.regs)) hu.graft
    simp only [Option.map_map] at this
    show (w1.modLanes c.mask (Lane.follow c)).graft.map _ = _
    rw [fgr]; exact this
  · intro l n hl hn
    rw [← hr l n hl hn]
    exact Warp.rdS_congr fu fgr fh fg16 l n
  · intro l n hl hn
    rw [← hg l n hl hn]
    exact Warp.rdG_congr fg fg16 l n
  · intro l hl
    have hlane : ∀ k, w1.lane k = w0.lane k := fun k => by simp only [Warp.lane, hl0]
    show (w1.modLanes c.mask (Lane.follow c)).lane l = _
    rw [w1.lane_modLanes c.mask _ hl, hlane]
    intro hm
    have := w0.lane_lt (l := l) (by rw [(hlive l hl hm).2.2]; decide)
    rw [hl0]; exact this

/-- A uniform register's write keeps the uniform flags. -/
theorem Warp.rdG_wrS (w : Warp) (l n k m : Nat) (x : Word) :
    (w.wrS l n x).rdG k m = w.rdG k m := by
  have p := congrArg Warp.g (w.wrS_same l n x).keep
  have q := congrArg Warp.g16 (w.wrS_same l n x).keep
  have p' : (w.wrS l n x).g = w.g := p
  have q' : (w.wrS l n x).g16 = w.g16 := q
  simp only [Warp.rdG, Warp.half, p', q']

theorem Warp.uniPlace_third (w : Warp) (k m : Nat) : (w.uniPlace k m).2.2 = m := by
  unfold Warp.uniPlace
  split
  · rfl
  · split <;> rfl

/-- What a write of a value at a width makes of the warp. -/
def Warp.wrSW (w : Warp) (l : Nat) (w64 : Bool) (d : USpec) (x : DWord) : Warp :=
  match d with
  | .s n => if w64 then Warp.wrS l (n.val + 1) (hiW x) (Warp.wrS l n.val (loW x) w)
            else Warp.wrS l n.val (loW x) w
  | _ => w

theorem Warp.wrSW_same (w : Warp) (l : Nat) (w64 : Bool) (d : USpec) (x : DWord) :
    UniSame w (w.wrSW l w64 d x) := by
  unfold Warp.wrSW
  split
  · split
    · exact (w.wrS_same _ _ _).trans (Warp.wrS_same _ _ _ _)
    · exact w.wrS_same _ _ _
  · exact UniSame.refl w

theorem Warp.rdG_wrSW (w : Warp) (l k m : Nat) (w64 : Bool) (d : USpec) (x : DWord) :
    (w.wrSW l w64 d x).rdG k m = w.rdG k m := by
  unfold Warp.wrSW
  split
  · split <;> simp only [Warp.rdG_wrS]
  · rfl

theorem Warp.rdS_wrSW (w : Warp) {l k m : Nat} (hm : m < 112) (w64 : Bool) (d : USpec) (x : DWord) :
    (w.wrSW l w64 d x).rdS k m = if w.uniPlace k m = w.uniPlace l m
      then (uniRegs d w64 x m).getD (w.rdS k m) else w.rdS k m := by
  have key : ∀ n, (w.uniPlace k m = w.uniPlace l n) ↔ (m = n ∧ w.uniPlace k m = w.uniPlace l m) := by
    intro n
    constructor
    · intro h
      have := congrArg (fun p : Nat × Nat × Nat => p.2.2) h
      simp only [Warp.uniPlace_third] at this
      subst this; exact ⟨rfl, h⟩
    · rintro ⟨rfl, h⟩; exact h
  unfold Warp.wrSW
  split
  · rename_i n
    have hn := n.isLt
    have e1 := w.rdS_wrS (l := l) (n := n.val) (k := k) (m := m) (loW x) (by omega) (by omega)
    split
    · rename_i h64
      have hp := (w.wrS_same l n.val (loW x)).place
      rw [Warp.rdS_wrS _ _ (by omega) (by omega), hp, hp, e1, if_congr (key _) rfl (if_congr (key _) rfl rfl)]
      by_cases h1 : m = n.val + 1 <;> by_cases h2 : m = n.val <;>
        by_cases h3 : w.uniPlace k m = w.uniPlace l m <;> simp [uniRegs, h64, h1, h2, h3]
    · rename_i h64
      rw [e1, if_congr (key _) rfl rfl]
      by_cases h2 : m = n.val <;>
        by_cases h3 : w.uniPlace k m = w.uniPlace l m <;> simp [uniRegs, h64, h2, h3]
  · rename_i h
    have : uniRegs d w64 x m = none := by
      cases d with
      | s n => exact absurd rfl (h n)
      | _ => rfl
    rw [this]; simp

theorem wrUW_spec {w : Warp} (hw : s.warp c.wid = some w) (w64 : Bool) (d : USpec) (x : DWord) :
    RestKept c.wid c.core s (s.wrUW c w64 d x) ∧
      (s.wrUW c w64 d x).warp c.wid = some (w.wrSW (lowLane c.mask) w64 d x) := by
  cases d with
  | s n =>
    cases w64 with
    | true =>
      refine ⟨RestKept.modWarp _ _ _ _, ?_⟩
      show (State.modWarp _ _ _).warp _ = _
      rw [State.modWarp_warp_self, hw]; rfl
    | false =>
      refine ⟨RestKept.modWarp _ _ _ _, ?_⟩
      show (State.modWarp _ _ _).warp _ = _
      rw [State.modWarp_warp_self, hw]; rfl
  | _ => cases w64 <;> exact ⟨RestKept.refl _ _ _, hw⟩

/-- A uniform instruction that writes one value. -/
theorem uniAlu_done (h : Issues i s c w) (w64 : Bool) (d : USpec) (v : State → Ctx → DWord) :
    ∃ t, issue i (uniAlu w64 d v) s = .next t ∧ UniWrites c s t w w64 d (v s c) := by
  obtain ⟨hk, hw⟩ := wrUW_spec h.warp w64 d (v s c)
  have hg : (w.wrSW (lowLane c.mask) w64 d (v s c)).g = w.g := by
    have := congrArg Warp.g (w.wrSW_same (lowLane c.mask) w64 d (v s c)).keep; exact this
  refine uni_done h rfl hk hw ?_ (fun l n _ hn => w.rdS_wrSW hn w64 d _) (fun l n _ _ => ?_)
  · rw [hg]; exact w.wrSW_same _ _ _ _
  · rw [Warp.rdG_wrSW]; simp

/-- A uniform instruction that writes one uniform flag. -/
theorem uniFlag_done (h : Issues i s c w) (n : Fin 8) (b : State → Ctx → Bool) :
    ∃ t, issue i (fun x s => Res.ok (s.modWarp x.wid (fun w =>
        Warp.wrG (lowLane x.mask) n.val (b s x) w))) s = .next t ∧
      UniDone c s t w (fun _ => none) [(n.val, b s c)] := by
  refine uni_done h (s1 := s.modWarp c.wid (fun w => Warp.wrG (lowLane c.mask) n.val (b s c) w)) rfl
    (RestKept.modWarp _ _ _ _) (w1 := Warp.wrG (lowLane c.mask) n.val (b s c) w)
    (by rw [State.modWarp_warp_self, h.warp]; rfl) ⟨rfl, rfl, rfl, id⟩ (fun l k _ _ => ?_)
    (fun l k _ hk => ?_)
  · have : (Warp.wrG (lowLane c.mask) n.val (b s c) w).rdS l k = w.rdS l k :=
      Warp.rdS_congr rfl rfl rfl rfl l k
    rw [this]; simp
  · rw [w.rdG_wrG n.isLt hk]
    by_cases h1 : w.half l = w.half (lowLane c.mask)
    · by_cases h2 : k = n.val
      · simp [h1, h2]
      · have h3 : n.val ≠ k := fun e => h2 e.symm
        simp [h1, h2, h3]
    · simp [h1]

end Instructions

end Sys2Proof.Machine
end

