-- ==== Sys2Proof/Tests/Slice0.lean ====
section
/-!
SUPPORT. Tests: words written out from the spec decode to their instructions; ill-formed terms are
refused; the premises of every statement are met by a state (theorems wit_<statement>); single steps
on small states.
-/

set_option Elab.async false

open Sys2Proof Sys2Proof.Machine

namespace Sys2Proof.Tests

/-- Words of integer instructions, from the examples and layouts of the reference. -/
theorem test_decode_int :
  decode [0x0000FCF9] = .ok (.iadd false .s32 (.v 3) .lane .lane) ∧
  decode [0x00808184] = .ok (.iadd true .s32 (.v 2) (.v 3) (.v 4)) ∧
  decode [0x08A48206] = .ok (.icmp .ge true false 2 (.v 4) (.v 6)) ∧
  decode [0x62404103, 0x08000000] =
    .ok (.idp4 false true false (.v 1) (.v 2) (.reg (.v 3)) (.v 4)) ∧
  decode [0x61600104, 0x0C000000] = .ok (.imad false .z64 (.v 0) (.v 2) (.reg (.v 4)) (.v 6)) ∧
  decode [0x01410308] = .ok (.isub false .s64 (.v 4) (.v 6) (.v 8)) ∧
  decode [0x02A04103] = .ok (.imul true .z32 (.v 1) (.v 2) (.v 3)) ∧
  decode [0x03204103] = .ok (.imulhi .z32 (.v 1) (.v 2) (.v 3)) ∧
  decode [0x04007883] = .ok (.imin .s32 (.v 1) (.t 1) (.v 3)) ∧
  decode [0x05608206] = .ok (.imax .z64 (.v 2) (.v 4) (.v 6)) ∧
  decode [0x06804003] = .ok (.iabs true .s32 (.v 1) (.v 3)) := by
  decide +kernel

/-- Words of logic and shift instructions, from the examples and layouts of the reference. -/
theorem test_decode_logic :
  decode [0x0A014307] = .ok (.and .b32 (.v 5) (.v 6) (.reg (.v 7))) ∧
  decode [0x0CA2057F] = .ok (.xor .b64 (.v 8) (.v 10) (.imm 0x7f)) ∧
  decode [0x64804103, 0x00800008] =
    .ok (.fshf true false (.v 1) (.v 2) (.reg (.v 3)) (.imm 0x08)) ∧
  decode [0x63004103, 0x08960000] = .ok (.logic3 .b32 (.v 1) (.v 2) (.reg (.v 3)) (.v 4) 0x96) ∧
  decode [0x0E804104] = .ok (.shr .b32 (.v 1) (.v 2) (.imm 0x04)) ∧
  decode [0x0B804140] = .ok (.or .b32 (.v 1) (.v 2) (.imm 0x40)) ∧
  decode [0x0D208203] = .ok (.shl .b64 (.v 2) (.v 4) (.reg (.v 3))) ∧
  decode [0x0F004178] = .ok (.sar .b32 (.v 1) (.v 2) (.reg .zero)) := by
  decide +kernel

/-- Words of bit-field instructions, from the examples and layouts of the reference. -/
theorem test_decode_bits :
  decode [0x65010280, 0x00400C08] = .ok (.bfx .b32 true (.v 4) (.v 5) (.imm 0x08 0x0c)) ∧
  decode [0x66208206, 0x12800000] = .ok (.bfi .b64 (.v 2) (.v 4) (.reg (.v 6)) (.reg (.v 9))) ∧
  decode [0x12208200] = .ok (.brev .b64 (.v 2) (.v 4)) ∧
  decode [0x11004100] = .ok (.clz .b32 (.v 1) (.v 2)) ∧
  decode [0x10204100] = .ok (.popc .b64 (.v 1) (.v 2)) := by
  decide +kernel

/-- Words of move and select instructions, from the examples and layouts of the reference. -/
theorem test_decode_move :
  decode [0x09A04103] = .ok (.sel 5 (.v 1) (.v 2) (.v 3)) ∧
  decode [0x07C08184] = .ok (.lea true 2 (.v 2) (.v 3) (.v 4)) ∧
  decode [0x1380407F] = .ok (.mov .b32 (.v 1) (.imm 0x7F)) ∧
  decode [0x68C08000, 0x0003BEEF] = .ok (.movi .b64 true (.v 2) 3 0xBEEF) ∧
  decode [0x67004103, 0x010C4141] = .ok (.psel (.v 1) (.v 2) (.uni (.s 3)) (.imm 0xC4141)) := by
  decide +kernel

/-- Words of floating-point instructions, from the examples and layouts of the reference. -/
theorem test_decode_float1 :
  decode [0x6D204002, 0x002A0000] = .ok (.cvt false .rz .s32 .f32 (.v 1) (.reg (.v 2))) ∧
  decode [0x27208206] = .ok (.dadd .rz (.v 2) (.v 4) (.v 6)) ∧
  decode [0x6B000104, 0x0C000000] = .ok (.dfma .rn (.v 0) (.v 2) (.reg (.v 4)) (.v 6)) ∧
  decode [0x29404104] = .ok (.dcmp .lt 1 (.v 2) (.v 4)) ∧
  decode [0x20204103] = .ok (.fadd .rz (.v 1) (.v 2) (.v 3)) ∧
  decode [0x25404103] = .ok (.fcmp .lt 1 (.v 2) (.v 3)) ∧
  decode [0x69000082, 0x06000000] = .ok (.ffma .rn (.v 0) (.v 1) (.reg (.v 2)) (.v 3)) ∧
  decode [0x2EA04002] = .ok (.mfn .sinpi (.v 1) (.v 2)) ∧
  decode [0x2A004103] = .ok (.pkadd false .rn (.v 1) (.v 2) (.v 3)) ∧
  decode [0x2D004103] = .ok (.pkmax false (.v 1) (.v 2) (.v 3)) ∧
  decode [0x2F214200] = .ok (.sxpk .sx4 (.v 5) (.v 4)) ∧
  decode [0x30218280] = .ok (.sxupk .sx4 (.v 6) (.v 5)) := by
  decide +kernel

/-- Words of floating-point instructions, from the examples and layouts of the reference. -/
theorem test_decode_float2 :
  decode [0x28408206] = .ok (.dmul .rp (.v 2) (.v 4) (.v 6)) ∧
  decode [0x21604103] = .ok (.fsub .rm (.v 1) (.v 2) (.v 3)) ∧
  decode [0x22004103] = .ok (.fmul .rn (.v 1) (.v 2) (.v 3)) ∧
  decode [0x24004103] = .ok (.fmax (.v 1) (.v 2) (.v 3)) ∧
  decode [0x23004103] = .ok (.fmin (.v 1) (.v 2) (.v 3)) ∧
  decode [0x26204003] = .ok (.frnd .rz (.v 1) (.v 3)) ∧
  decode [0x2B804103] = .ok (.pkmul true .rn (.v 1) (.v 2) (.v 3)) ∧
  decode [0x2C804103] = .ok (.pkmin true (.v 1) (.v 2) (.v 3)) ∧
  decode [0x6C204103, 0x08000000] = .ok (.pkfma false .rz (.v 1) (.v 2) (.reg (.v 3)) (.v 4)) := by
  decide +kernel

/-- Words of cross-lane instructions, from the examples and layouts of the reference. -/
theorem test_decode_lanes :
  decode [0x43014300] = .ok (.matchLanes .b32 false (.v 5) (.v 6)) ∧
  decode [0x41024428] = .ok (.redx .max .f32 false (.v 9) (.v 8)) ∧
  decode [0x73408080, 0x00980001] = .ok (.shfl .rot .b32 (.v 2) (.v 1) (.imm 0x01) (some 1)) ∧
  decode [0x4000C100] = .ok (.vote .ballot false (.v 3) 0 2) ∧
  decode [0x42804103] = .ok (.scan .add .z32 true true (.v 1) (.v 2)) := by
  decide +kernel

/-- Words of memory instructions, from the examples and layouts of the reference. -/
theorem test_decode_memory :
  decode [0x6A028210, 0x18231401] =
    .ok (.lnx .none (.v 10) (.v 4) (.v 16) (.v 12) (.s 8) 3 5 0x001) ∧
  decode [0x51418000] = .ok (.fence .rel .pkg) ∧
  decode [0x5120C000] = .ok (.fence .acq .block) ∧
  decode [0x6E00BC20, 0x09E00008] =
    .ok (.ld false false .b32 none ⟨.g, .s 4, .zero, 0⟩ (.v 2) 0x0008) ∧
  decode [0x52000006] = .ok (.racq (.s 6)) ∧
  decode [0xBA000502] = .ok (.sarm 2 (.s 10)) ∧
  decode [0xBB000002] = .ok (.sdis 2) ∧
  decode [0x50010001] = .ok (.sld (.v 4) 1 none) ∧
  decode [0x50412001] = .ok (.sld (.v 4) 1 (some 2)) ∧
  decode [0x6F00BC90, 0x01E20000] =
    .ok (.st false false .b32 none ⟨.g, .s 0, .lane, 2⟩ (.v 2) 0x0000) ∧
  decode [0x72A1BC08, 0x08C02000] =
    .ok (.waita .ne .b64 true .pkg ⟨.g, .s 4, .zero, 0⟩ (.v 6) (.v 8) 0x0000) := by
  decide +kernel

/-- Words of atomic instructions, from the examples and layouts of the reference. -/
theorem test_decode_atomic :
  decode [0x70004103, 0x002202C0] =
    .ok (.atom .add .z32 .none .pkg ⟨.g, .s 8, .v 2, 2⟩ (.v 1) (.v 3) (.v 0)) ∧
  decode [0x71403C03, 0x001032C0] = .ok (.red .and .z32 .rel .pkg ⟨.g, .s 4, .zero, 0⟩ (.v 3)) := by
  decide +kernel

/-- Words of control-flow instructions, from the examples and layouts of the reference. -/
theorem test_decode_flow :
  decode [0x74408000, 0x00000010] = .ok (.bra (.flag 2) 0x0000010) ∧
  decode [0x75050000, 0x00000080] = .ok (.call (.v 20) (.v 0) false 0x0000080) ∧
  decode [0x57000000] = .ok (.exit) ∧
  decode [0x54000A00] = .ok (.ret (.v 20)) ∧
  decode [0xE2404000, 0x00000010] = .ok (.ubra (.flag 1) 0x0000010) ∧
  decode [0x53800300] = .ok (.brx true (.v 6)) := by
  decide +kernel

/-- Words of barrier and rejoin instructions, from the examples and layouts of the reference. -/
theorem test_decode_sync :
  decode [0xA380C000] = .ok (.bar 3 (.imm 0x00)) ∧
  decode [0x76404000, 0x000000FF] = .ok (.jarm 1 (.low 0x00ff)) ∧
  decode [0x76C00000, 0x00000000] = .ok (.jarm 0 .all) ∧
  decode [0x55000001] = .ok (.jwait 1) ∧
  decode [0x56000003] = .ok (.jdrop 3) ∧
  decode [0xA2000004] = .ok (.wsync (.s 4)) ∧
  decode [0x58000000] = .ok (.yield) ∧
  decode [0xA4808005] = .ok (.cbar 2 (.imm 5)) := by
  decide +kernel

/-- Words of circular-buffer instructions, from the examples and layouts of the reference. -/
theorem test_decode_buffer :
  decode [0xB6018180] = .ok (.cbrsv (.s 6) 3) ∧
  decode [0xB7000180] = .ok (.cbcmt 3) ∧
  decode [0xB81C0780] = .ok (.cbacq .zero 15) ∧
  decode [0xB9000200] = .ok (.cbrel 4) := by
  decide +kernel

/-- Words of copy instructions, from the examples and layouts of the reference. -/
theorem test_decode_copy :
  decode [0xFA1C0270, 0x30800100, 0x00001000] =
    .ok (.cpy .zero (.s 4) (.imm 0x00001000) ⟨.block, .thread, true, false, 0, 0, 0, 0, 2, 0⟩) ∧
  decode [0xB5808009] = .ok (.cpyw 2 (.imm 9)) := by
  decide +kernel

/-- Words of system instructions, from the examples and layouts of the reference. -/
theorem test_decode_system1 :
  decode [0xFB500000, 0x00000007, 0x0000000C] = .ok (.succ 1 2 0x00000 0x00000007 0x0000000c) ∧
  decode [0x5A000000] = .ok (.bkpt) ∧
  decode [0xC1200000] = .ok (.cancel .graph) ∧
  decode [0xC6000000] = .ok (.ckpt) ∧
  decode [0xA1000006] = .ok (.gang (.s 6)) ∧
  decode [0xC5000000] = .ok (.gret none) ∧
  decode [0xC4800400] = .ok (.hret (some (.s 8))) ∧
  decode [0x59000000] = .ok (.nop) ∧
  decode [0xA0600000] = .ok (.part 3) ∧
  decode [0xC2010002] = .ok (.rdctl (.s 4) .lwct) ∧
  decode [0xC3000403] = .ok (.wrctl .trapbase (.s 8)) ∧
  decode [0x14010009] = .ok (.rds (.v 4) .gtime) := by
  decide +kernel

/-- Words of system instructions, from the examples and layouts of the reference. -/
theorem test_decode_system2 :
  decode [0xC7004008] = .ok (.reggrow 1 8) ∧
  decode [0xC8000004] = .ok (.regshr 4) ∧
  decode [0x77000800, 0x28000007] = .ok (.wcall (.s 20) (.v 16) 0x0007) ∧
  decode [0xC0810300] = .ok (.launch true (.s 4) (.s 6)) := by
  decide +kernel

/-- Words of hint instructions, from the examples and layouts of the reference. -/
theorem test_decode_hint :
  decode [0x7D418250, 0x00000100] = .ok (.pref 6 4 2 true 0 0x00000100) ∧
  decode [0x7EA14003, 0x00000007, 0x00000008] = .ok (.hint false 1 true 5 3 [7, 8]) := by
  decide +kernel

/-- Words of matrix instructions, from the examples and layouts of the reference. -/
theorem test_decode_matrix :
  decode [0xF9008814, 0x00000008, 0x00000000] = .ok (.mmat 2 (.s 16) (.s 20) (.v 8)) ∧
  decode [0xF8008814, 0x00000008, 0x00000000] = .ok (.mma 2 (.s 16) (.s 20) (.v 8)) ∧
  decode [0xB000C800] = .ok (.tld 3 (.s 16)) ∧
  decode [0xB100C800] = .ok (.tst 3 (.s 16)) ∧
  decode [0xB2008000] = .ok (.tzero 2) ∧
  decode [0xB3008000] = .ok (.twait 2) ∧
  decode [0xB4060002] = .ok (.tstat false (.s 24) 2) ∧
  decode [0xB4260002] = .ok (.tstat true (.s 24) 2) := by
  decide +kernel

/-- Words of uniform instructions, from the examples and layouts of the reference. -/
theorem test_decode_uniform1 :
  decode [0x879BB115] = .ok (.ushr .b32 (.s 110) (.s 98) (.imm 0x15)) ∧
  decode [0x839BB707] = .ok (.uand .b32 (.s 110) (.s 110) (.imm 0x07)) ∧
  decode [0xE1030000, 0x00011234] = .ok (.umovi .b32 false (.s 12) 1 0x1234) ∧
  decode [0x80804103] = .ok (.uadd true .s32 (.s 1) (.s 2) (.s 3)) ∧
  decode [0x81608206] = .ok (.usub false .z64 (.s 2) (.s 4) (.s 6)) ∧
  decode [0x82204103] = .ok (.umul false .z32 (.s 1) (.s 2) (.s 3)) ∧
  decode [0xE0004103, 0x08000000] = .ok (.umad false .s32 (.s 1) (.s 2) (.s 3) (.s 4)) ∧
  decode [0x84004103] = .ok (.uor .b32 (.s 1) (.s 2) (.reg (.s 3))) ∧
  decode [0x85A0827F] = .ok (.uxor .b64 (.s 2) (.s 4) (.imm 0x7F)) ∧
  decode [0x86804103] = .ok (.ushl .b32 (.s 1) (.s 2) (.imm 3)) ∧
  decode [0x88004103] = .ok (.usar .b32 (.s 1) (.s 2) (.reg (.s 3))) ∧
  decode [0x89004003] = .ok (.umov .b32 (.s 1) (.reg (.s 3))) := by
  decide +kernel

/-- Words of uniform instructions, from the examples and layouts of the reference. -/
theorem test_decode_uniform2 :
  decode [0x8A430103] = .ok (.ucmp .lt false true 4 (.s 2) (.s 3)) ∧
  decode [0x8BA04103] = .ok (.usel 5 (.s 1) (.s 2) (.s 3)) ∧
  decode [0x8C608184] = .ok (.ulea false 3 (.s 2) (.s 3) (.s 4)) := by
  decide +kernel

/-- Words of wide-form instructions, from the examples and layouts of the reference. -/
theorem test_decode_wide :
  decode [0x60418208, 0x0F000000] = .ok (.wideForm (.lea false 2 (.v 6) (.v 4) (.uni (.s 8)))) ∧
  decode [0x60204002, 0x5D000000] = .ok (.wideForm (.mfn .rsq (.v 1) (.uni (.s 2)))) ∧
  decode [0x60014003, 0x27000000] = .ok (.wideForm (.mov .b32 (.v 5) (.uni (.s 3)))) := by
  decide +kernel

/-- Ill-formed terms, one for each check of register operands (14 R302 to R304; 15 R321, R323). -/
theorem test_wf_registers : [
    -- a special or `%lane` is no destination
    Instr.iadd false .s32 .lane (.v 1) (.v 2), .uadd false .s32 .warp (.s 1) (.s 2),
    .tstat false .role 0, .cbrsv .core 0, .wideForm (.fmin .lane (.v 1) (.reg (.v 2))),
    -- pairs start at even registers
    .iadd false .s64 (.v 1) (.v 2) (.v 4), .iadd false .s64 (.v 2) (.v 3) (.v 4),
    .and .b64 (.v 2) (.v 4) (.reg (.v 5)), .dfma .rn (.v 2) (.v 4) (.reg (.v 5)) (.v 6),
    .dfma .rn (.v 2) (.v 4) (.uni (.s 5)) (.v 6), .uand .b64 (.s 1) (.s 2) (.reg (.s 4)),
    .uand .b64 (.s 2) (.s 4) (.reg (.s 5)), .ret (.v 3), .brx false (.v 3), .sarm 0 (.s 3),
    .gret (some (.s 3)), .launch false (.s 2) (.s 3), .rds (.v 1) .clock, .lea false 0 (.v 1) (.v 2) (.v 4),
    .lea false 0 (.v 2) (.v 2) (.v 5), .wcall (.s 3) (.v 4) 0, .rdctl (.s 3) .lwct, .wrctl .trapbase (.s 3),
    .wideForm (.bits .brev .b64 (.v 1) (.v 2) false), .wideForm (.logic .and .b64 (.v 2) (.v 4) (.uni (.s 5))),
    -- groups of four and of eight
    .ld false false .b128 none ⟨.k, .s 0, .zero, 0⟩ (.v 2) 0, .st false false .b128 none ⟨.k, .s 0, .zero, 0⟩ (.v 2) 0,
    .wcall (.s 4) (.v 6) 0, .tld 0 (.s 6), .mma 0 (.s 4) (.s 6) (.v 0), .rdctl (.s 6) .ctxsave,
    .lnx .none (.v 2) (.v 3) (.v 12) (.v 5) (.s 8) 0 0 0, .lnx .none (.v 2) (.v 3) (.v 16) (.v 5) (.s 7) 0 0 0,
    -- types and immediates that a class does not have
    .iadd false .s8 (.v 1) (.v 2) (.v 3), .wideForm (.int .min true .s32 (.v 1) (.v 2) (.reg (.v 3))),
    .wideForm (.int .add false .s32 (.v 1) (.v 2) (.imm7 1)), .movi .b32 false (.v 1) 2 0,
    .umovi .b32 false (.s 1) 3 0].all (fun i => i.wf == false) = true := by
  decide +kernel

/-- Ill-formed terms, one for each check of memory and atomic operands (16 R331, R347; 17 R376; 18 R409). -/
theorem test_wf_memory : [
    Instr.ld false false .b32 none ⟨.g, .s 3, .zero, 0⟩ (.v 1) 0,
    .ld false false .b64 none ⟨.g, .s 2, .zero, 0⟩ (.v 1) 0,
    .ld true false .b32 none ⟨.g, .s 2, .zero, 0⟩ (.v 1) 0,
    .ld false false .b32 (some .pkg) ⟨.g, .s 2, .zero, 0⟩ (.v 1) 0,
    .ld true false .b32 (some .pkg) ⟨.l, .s 2, .zero, 0⟩ (.v 1) 0,
    .st false false .b64 none ⟨.g, .s 2, .zero, 0⟩ (.v 1) 0,
    .st false true .b32 none ⟨.g, .s 2, .zero, 0⟩ (.v 1) 0,
    .waita .eq .b32 false .pkg ⟨.l, .s 2, .zero, 0⟩ (.v 1) (.v 2) 0,
    .waita .eq .b64 false .pkg ⟨.g, .s 2, .zero, 0⟩ (.v 1) (.v 2) 0,
    .atom .add .s32 .none .pkg ⟨.l, .s 2, .zero, 0⟩ (.v 1) (.v 2) (.v 0),
    .atom .add .s32 .none .pkg ⟨.k, .warp, .zero, 0⟩ (.v 1) (.v 2) (.v 0),
    .atom .and .f32 .none .pkg ⟨.g, .s 2, .zero, 0⟩ (.v 1) (.v 2) (.v 0),
    .atom .add .s32 .none .pkg ⟨.g, .s 2, .zero, 0⟩ (.v 1) (.v 2) (.v 3),
    .atom .cas .s64 .none .pkg ⟨.g, .s 2, .zero, 0⟩ (.v 2) (.v 4) (.v 7),
    .red .add .s32 .acq .pkg ⟨.g, .s 2, .zero, 0⟩ (.v 1),
    .red .exch .s32 .none .pkg ⟨.g, .s 2, .zero, 0⟩ (.v 1),
    .red .xor .bf16 .none .pkg ⟨.g, .s 2, .zero, 0⟩ (.v 1), .fence .none .pkg,
    .cpy (.s 2) (.s 4) (.imm 16) ⟨.thread, .thread, false, false, 0, 0, 0, 0, 0, 2⟩,
    .cpy (.s 2) (.s 4) (.imm 16) ⟨.thread, .thread, false, false, 0, 0, 0, 0, 3, 0⟩,
    .cpy (.s 2) (.s 4) (.imm 16) ⟨.thread, .thread, false, false, 0, 0, 4, 0, 0, 0⟩,
    .cpy (.s 2) (.s 4) (.imm 16) ⟨.thread, .thread, false, false, 0, 0, 0, 4, 0, 0⟩,
    .cpy (.s 2) (.s 4) (.imm 16) ⟨.block, .thread, false, false, 0, 0, 0, 0, 0, 0⟩,
    .cpy (.s 2) (.s 4) (.imm 16) ⟨.thread, .block, false, false, 0, 0, 0, 0, 0, 0⟩,
    .cpy (.s 2) (.s 4) (.uni .zero) ⟨.thread, .thread, false, false, 0, 0, 0, 0, 0, 0⟩,
    .cpy (.s 3) (.s 4) (.imm 16) ⟨.thread, .thread, false, false, 0, 0, 0, 0, 0, 0⟩,
    .cpy (.s 2) (.s 5) (.imm 16) ⟨.thread, .thread, false, false, 0, 0, 0, 0, 0, 0⟩,
    .cpy (.s 2) (.s 4) (.imm 16) ⟨.thread, .thread, false, false, 0, 0, 0, 0, 2, 0⟩].all
      (fun i => i.wf == false) = true := by
  decide +kernel

/-- Ill-formed terms, one for each other check of a field (14 R306; 15 R325; 16 R338, R343, R350; 17 R388; 18 R391, R394,
R400, R401, R416). -/
theorem test_wf_fields : [
    Instr.bfx .b32 false (.v 1) (.v 2) (.imm 32 1), .bfx .b32 false (.v 1) (.v 2) (.imm 0 0),
    .bfx .b32 false (.v 1) (.v 2) (.imm 31 2), .bfi .b64 (.v 2) (.v 4) (.reg (.v 6)) (.imm 60 5),
    .call (.v 2) (.v 4) true 1, .call (.v 2) (.v 4) false 1, .call (.v 2) (.v 5) true 0,
    .cvt true .rn .f64 .s32 (.v 2) (.reg (.v 1)), .cvt false .rn .f64 .s32 (.v 1) (.reg (.v 1)), .part 0, .part 6,
    .hint false 1 false 0 0 [0, 0, 0, 0], .hint false 0 false 0 0 [0],
    .psel (.v 1) (.v 2) (.reg (.v 3)) (.imm 0x1A), .psel (.v 1) (.v 2) (.reg (.v 3)) (.imm 0xC8000),
    .redx .and .f32 false (.v 1) (.v 2), .redx .min .s32 true (.v 1) (.v 2), .scan .add .f32 true false (.v 1) (.v 2),
    .scan .xor .f64 false false (.v 2) (.v 4), .reggrow 0 0, .regshr 15, .vote .ballot false (.v 1) 2 0,
    .vote .any false (.v 1) 2 0].all (fun i => i.wf == false) = true := by
  decide +kernel

/-- Words as one number, the first lowest. -/
def wordsNat (ws : List Word) : Nat := ws.foldr (fun w a => w.toNat + 2 ^ 32 * a) 0

/-- The machine after reset with `i` placed, bound and its run fetched: lanes 0 to 3 of warp 0 stand
at it. -/
def placed (i : Instr) : State :=
  let ws := encode i
  let s := State.reset.withFetchWord (32 * ws.length) (wordsNat ws)
  match s.seqAt 0 0 0 with
  | some b => (s.startRun 0 0 0 b).2
  | none => s

/-- The premise `Issues` with more about the group and its warp. -/
def ready (i : Instr) (s : State) (p : State → Ctx → Warp → Bool) : Bool :=
  match s.ctx? with
  | none => false
  | some c => match s.warp c.wid with
    | none => false
    | some w => decide (c.tag = none) && decide (preFault i c w = none) && decide (w.bad = []) &&
        (match s.launchOf c.wid with | some L => !L.cancelled | none => true) && p s c w

theorem ready_spec {i : Instr} {s : State} {p : State → Ctx → Warp → Bool}
    (h : ready i s p = true) : ∃ c w, Issues i s c w ∧ p s c w = true := by
  unfold ready at h
  split at h
  · cases h
  · rename_i c hc
    split at h
    · cases h
    · rename_i w hw
      simp only [Bool.and_eq_true, decide_eq_true_eq] at h
      obtain ⟨⟨⟨⟨ht, hf⟩, hb⟩, hg⟩, hp⟩ := h
      refine ⟨c, w, ⟨hc, hw, ht, hf, hb, fun L hL => ?_⟩, hp⟩
      rw [hL] at hg
      simpa using hg

/-- Each of some instructions issues somewhere with nothing in its way, and with more. -/
theorem issues_with {is : List Instr} {p : State → Ctx → Warp → Bool}
    (h : is.all (fun i => ready i (placed i) p) = true) :
    ∀ i ∈ is, ∃ s c w, Issues i s c w ∧ p s c w = true := by
  intro i hi
  obtain ⟨c, w, hw⟩ := ready_spec (List.all_eq_true.1 h i hi)
  exact ⟨_, c, w, hw⟩

theorem issues_all {is : List Instr}
    (h : is.all (fun i => ready i (placed i) (fun _ _ _ => true)) = true) :
    ∀ i ∈ is, ∃ s c w, Issues i s c w := by
  intro i hi
  obtain ⟨s, c, w, hw, -⟩ := issues_with h i hi
  exact ⟨s, c, w, hw⟩

theorem wit_IntegerArithmetic : ∀ i ∈ [Instr.iadd true .s32 (.v 1) (.v 2) (.t 3),
    .isub false .z64 (.v 2) (.v 4) .zero, .imul false .s64 (.v 2) (.v 2) (.v 4),
    .imulhi .z32 (.v 1) .lane (.v 2), .imin .s32 .zero (.v 1) (.v 2), .imax .z32 (.v 31) (.v 1) (.v 2),
    .imad true .z32 (.v 1) (.v 2) (.uni (.s 3)) (.v 4),
    .wideForm (.int .mul true .s8 (.v 1) (.v 2) (.imm 0x8000))], ∃ s c w, Issues i s c w :=
  issues_all (by decide +kernel)

theorem wit_AbsoluteValue : (∀ i ∈ [Instr.iabs true .s32 (.v 1) (.v 2),
    .wideForm (.iabs false .z8 (.v 1) (.reg (.v 2)))], ∃ s c w, Issues i s c w) ∧
    (itySigned .s32 = true ∧ ITy.val .s32 0xFFFFFFFB ≠ ITy.low .s32) ∧
    (itySigned .s64 = true ∧ ITy.val .s64 0x8000000000000000 = ITy.low .s64) ∧
    itySigned .z16 = false :=
  ⟨issues_all (by decide +kernel), by decide +kernel⟩

theorem wit_LogicAndShifts : ∀ i ∈ [Instr.and .b64 (.v 2) (.v 4) (.imm 0x7F),
    .or .b32 (.v 1) (.t 7) (.reg .zero), .xor .b32 .zero (.v 2) (.reg .lane),
    .shl .b32 (.v 1) (.v 2) (.imm 0x7F), .shr .b64 (.v 2) (.v 4) (.reg (.v 1)), .sar .b32 (.v 1) (.v 2) (.imm 31),
    .wideForm (.logic .xor .b64 (.v 2) (.v 4) (.imm 0x8000)),
    .wideForm (.shift .sar .b64 (.v 2) (.v 4) (.uni (.s 3))),
    .logic3 .b64 (.v 2) (.v 4) (.uni (.s 2)) (.v 6) 0x96,
    .fshf true true (.v 1) (.v 2) (.reg (.v 3)) (.imm 32)], ∃ s c w, Issues i s c w :=
  issues_all (by decide +kernel)

theorem wit_BitFieldsAndCounts : ∀ i ∈ [Instr.brev .b64 (.v 2) (.v 4), .brev .b32 (.v 1) (.v 2),
    .wideForm (.bits .brev .b64 (.v 2) (.v 4) false), .wideForm (.bits .brev .b32 (.v 1) (.v 2) true),
    .popc .b64 (.v 1) (.v 2), .wideForm (.bits .popc .b32 (.v 1) (.v 2) false), .clz .b64 (.v 1) (.v 2),
    .wideForm (.bits .clz .b64 (.v 1) (.v 2) false), .bfx .b64 true (.v 2) (.v 4) (.imm 63 1),
    .bfx .b32 false (.v 1) (.v 2) (.reg (.v 3)), .bfi .b32 (.v 1) (.v 2) (.uni (.s 2)) (.imm 0 32)],
    ∃ s c w, Issues i s c w :=
  issues_all (by decide +kernel)

theorem wit_MovesSelectsAndCompares : ∀ i ∈ [Instr.mov .b64 (.v 2) (.imm 0x40),
    .wideForm (.mov .b64 (.v 2) (.imm 0x8000)), .movi .b64 false (.v 2) 3 0xFFFF, .movi .b32 true (.v 1) 1 0xFFFF,
    .sel 7 (.v 1) (.v 2) (.v 3), .wideForm (.sel 0 (.v 1) (.v 2) (.imm 5)), .lea true 3 (.v 2) (.v 4) (.v 6),
    .wideForm (.lea false 2 (.v 2) (.v 4) (.uni (.s 2))), .psel (.v 1) (.v 2) (.reg (.v 3)) (.reg (.v 4)),
    .idp4 true true false (.v 1) (.v 2) (.reg (.v 3)) (.v 4), .icmp .ge true true 7 (.v 2) (.v 4),
    .wideForm (.icmp .lt false false 0 (.v 1) (.imm 0xFFFF)), .ucmp .ne true false 3 (.s 2) (.s 4)],
    ∃ s c w, Issues i s c w :=
  issues_all (by decide +kernel)

theorem wit_UniformArithmetic : ∀ i ∈ [Instr.uadd true .s32 (.s 1) (.s 2) (.s 3),
    .usub false .z64 (.s 2) (.s 4) .zero, .umul false .s64 (.s 2) (.s 2) (.s 4),
    .umad true .z32 (.s 1) .warp (.s 2) (.s 3), .uand .b64 (.s 2) (.s 4) (.imm 0x7F), .uor .b32 .zero (.s 1) (.reg .gang),
    .uxor .b32 (.s 31) (.s 1) (.imm 1), .ushl .b32 (.s 1) (.s 2) (.imm 0x7F), .ushr .b64 (.s 2) (.s 4) (.reg (.s 1)),
    .usar .b32 (.s 1) (.s 2) (.imm 31), .ushl .b64 (.s 2) (.s 4) (.imm 1), .ushr .b32 (.s 1) (.s 2) (.imm 1),
    .usar .b64 (.s 2) (.s 4) (.imm 1), .umov .b64 (.s 2) (.imm 0x40), .umovi .b64 false (.s 2) 3 0xFFFF,
    .umovi .b32 true (.s 1) 0 1, .usel 7 (.s 1) (.s 2) (.s 3), .ulea true 3 (.s 2) (.s 5) (.s 4)],
    ∃ s c w, Issues i s c w :=
  issues_all (by decide +kernel)

theorem wit_FloatArithmetic : ∀ i ∈ [Instr.fadd .rz (.v 1) (.v 2) (.v 3), .fsub .rp (.v 1) (.v 2) (.v 3),
    .fmul .rm .zero (.v 2) (.v 3), .dadd .rn (.v 2) (.v 4) (.v 6), .dmul .rz (.v 2) (.v 4) (.v 6),
    .ffma .rn (.v 1) (.v 2) (.uni (.s 3)) (.v 4), .dfma .rn (.v 2) (.v 4) (.uni (.s 2)) (.v 6),
    .fmin (.v 1) (.v 2) (.v 3), .fmax (.t 0) (.t 1) (.t 2), .frnd .rm (.v 1) (.v 2), .mfn .tanh (.v 1) (.v 2),
    .cvt true .rz .s32 .f64 (.v 1) (.reg (.v 2)), .pkadd true .rz (.v 1) (.v 2) (.v 3),
    .pkmul false .rn (.v 1) (.v 2) (.v 3), .pkmin true (.v 1) (.v 2) (.v 3), .pkmax false (.v 1) (.v 2) (.v 3),
    .pkfma true .rp (.v 1) (.v 2) (.uni (.s 3)) (.v 4), .wideForm (.flt .sub .rz (.v 1) (.v 2) (.uni (.s 3))),
    .wideForm (.frnd .rn (.v 1) (.uni (.s 3))), .wideForm (.mfn .lg2 (.v 1) (.uni (.s 3))),
    .wideForm (.fmin (.v 1) (.v 2) (.uni (.s 3))), .wideForm (.fmax (.v 1) (.v 2) (.uni (.s 3))),
    .wideForm (.dadd .rn (.v 2) (.v 4) (.uni (.s 2))), .wideForm (.dmul .rn (.v 2) (.v 4) (.uni (.s 2))),
    .wideForm (.pkadd true .rn (.v 1) (.v 2) (.uni (.s 3))), .wideForm (.pkmul true .rn (.v 1) (.v 2) (.uni (.s 3))),
    .wideForm (.pkmin true (.v 1) (.v 2) (.uni (.s 3))), .wideForm (.pkmax true (.v 1) (.v 2) (.uni (.s 3)))],
    ∃ s c w, Issues i s c w :=
  issues_all (by decide +kernel)

theorem wit_FloatComparesAndNaNs : (∀ i ∈ [Instr.fcmp .lt 7 (.v 1) (.v 2), .dcmp .nan 0 (.v 2) (.v 4),
    .wideForm (.fcmp .ge 1 (.v 1) (.uni (.s 3))), .wideForm (.dcmp .le 1 (.v 2) (.uni (.s 2)))],
    ∃ s c w, Issues i s c w) ∧
    (fpRead fmtF16 0x7E00).isNan = true ∧ (fpRead fmtF32 0x7F800001).isSig = true ∧
    (fpRead fmtF32 0x7F800000 = .inf false ∧ fpRead fmtF32 0xFF800000 = .inf (!false)) ∧
    (fpRead fmtF64 0xFFF0000000000000 = .inf true ∧ fpRead fmtF64 0 = .zer false) :=
  ⟨issues_all (by decide +kernel), by decide +kernel⟩

theorem wit_MfnSpecialOperands : (0xFF800001 < 2 ^ 32 ∧ 0x7F800000 < 0xFF800001 % 2 ^ 31) ∧
    (0x80000000 < 0x80000001 ∧ 0x80000001 ≤ 0xFF800000) ∧
    (∃ neg m e, fpRead fmtF32 0xC0400000 = .fin neg m e ∧ e < 0 ∧ m % 2 ^ (-e).toNat = 0) ∧
    (∃ neg m e, fpRead fmtF32 0x7F7FFFFF = .fin neg m e ∧ 0 ≤ e) ∧
    ∃ neg m e, fpRead fmtF32 0x3FC00000 = .fin neg m e ∧ e < 0 ∧
      m % 2 ^ (-e).toNat = 2 ^ ((-e).toNat - 1) :=
  ⟨by decide, by decide, ⟨true, 0xC00000, -22, by decide +kernel⟩, ⟨false, 0xFFFFFF, 104, by decide +kernel⟩,
    ⟨false, 0xC00000, -23, by decide +kernel⟩⟩

theorem wit_ShufflesAndVotes : ∀ i ∈ [Instr.shfl .rev .b64 (.v 2) (.v 4) (.uni (.s 1)) (some 7),
    .vote .ballot true (.v 1) 0 3, .vote .any false .zero 1 2, .vote .all true .zero 1 2, .vote .eq false .zero 1 2,
    .matchLanes .b64 true (.v 1) (.v 2), .matchLanes .b32 false (.v 1) (.v 2)],
    ∃ s c w, Issues i s c w ∧ decide (0 < w.tile ∧ w.tile ≤ 32) = true :=
  issues_with (p := fun _ _ w => decide (0 < w.tile ∧ w.tile ≤ 32)) (by decide +kernel)

theorem wit_ReductionsAndScans : (∀ i ∈ [Instr.redx .add .f64 false (.v 2) (.v 4),
    .redx .and .z32 false (.v 1) (.v 2), .scan .max .f32 false true (.v 1) (.v 2), .scan .xor .s64 false false (.v 2) (.v 4)],
    ∃ s c w, Issues i s c w) ∧ ([1, 2, 3, 4] : List DWord).length = 2 ^ 2 ∧ RTy.isFloat .s64 = false :=
  ⟨issues_all (by decide +kernel), rfl, by decide⟩

theorem wit_SharedExponentBlocks : ∀ i ∈ [Instr.sxpk .sx4 (.v 1) (.v 2), .wideForm (.sxpk .sx7 (.v 1) (.v 2)),
    .sxupk .sx2 (.v 1) (.v 2), .wideForm (.sxupk .sx4 (.v 1) (.v 2))], ∃ s c w, Issues i s c w :=
  issues_all (by decide +kernel)

theorem wit_SpecialValues : ∀ i ∈ [Instr.rds (.v 1) .lane, .rds (.v 1) .warp, .rds (.v 1) .tid, .rds (.v 1) .block,
    .rds (.v 1) .cluster, .rds (.v 1) .clusterrank, .rds (.v 2) .launch, .rds (.v 1) .role, .rds (.v 1) .core,
    .rds (.v 1) .part, .rds (.v 1) .gang, .rds (.v 2) .gtime, .rds (.v 2) .clock],
    ∃ s c w, Issues i s c w ∧
      ((s.block (blkOf c.wid)).bind (fun b => s.launch b.launch)).isSome = true :=
  issues_with (p := fun s c _ => ((s.block (blkOf c.wid)).bind (fun b => s.launch b.launch)).isSome)
    (by decide +kernel)

theorem wit_Branches : ∀ i ∈ [Instr.bra (.notFlag 7) 0x1FFFFF0, .ubra (.flag 3) 0x10, .brx true (.v 1),
    .brx false (.v 2), .ret (.v 2), .call (.v 2) (.v 0) false 0x80, .call (.v 2) (.v 4) true 0],
    ∃ s c w, Issues i s c w ∧ decide (∀ l, l < 32 → c.mask.getLsbD l = true →
      (w.rdL64 l (.v 2)).toNat < 2 ^ 55 ∧ (w.rdL64 l (.v 4)).toNat < 2 ^ 55 ∧
      (c.pc + (w.rdL l (.v 1)).signExtend 64).toNat < 2 ^ 55) = true :=
  issues_with (p := fun _ c w => decide (∀ l, l < 32 → c.mask.getLsbD l = true →
    (w.rdL64 l (.v 2)).toNat < 2 ^ 55 ∧ (w.rdL64 l (.v 4)).toNat < 2 ^ 55 ∧
      (c.pc + (w.rdL l (.v 1)).signExtend 64).toNat < 2 ^ 55)) (by decide +kernel)

/-- A state made from that in which `i` is placed. -/
def readyAt (i : Instr) (f : State → State) (p : State → Ctx → Warp → Bool) : Bool := ready i (f (placed i)) p

theorem readyAt_spec {i : Instr} {f : State → State} {p : State → Ctx → Warp → Bool}
    (h : readyAt i f p = true) : ∃ s c w, Issues i s c w ∧ p s c w = true :=
  let ⟨c, w, h⟩ := ready_spec h
  ⟨_, c, w, h⟩

/-- The placed warp, changed. -/
def onWarp (f : Warp → Warp) (s : State) : State := s.modWarp 0 f

/-- Lanes of a warp changed. -/
def onLanes (f : Nat → Lane → Lane) (w : Warp) : Warp :=
  { w with lanes := w.lanes.zipIdx.map (fun e => f e.2 e.1) }

/-- Registers v1 to v7 of lanes 0 to 3 hold `x`. -/
def allV (x : Word) (w : Warp) : Warp :=
  { w with v := (List.range 7).flatMap (fun n => (List.range 4).map (fun l => (32 * (n + 1) + l, x))) }

/-- Uniform registers s1 to s7 hold `x`. -/
def allU (x : Word) (w : Warp) : Warp := { w with u := (List.range 7).map (fun n => (n + 1, x)) }

/-- Lane 1 has left the run: the group is lanes 0, 2 and 3. -/
def lane1Off (w : Warp) : Warp :=
  onLanes (fun l y => if l = 1 then { y with run := none, pc := 0x40100 } else y) w

/-- What keeps a fault from its trap is absent: the premise `TrapReady`. -/
def trapReadyB (f : FaultInfo) (s : State) (c : Ctx) (w : Warp) : Bool :=
  decide (∀ l : Nat, l < 32 → s.faultAct c.at l f = .deliver f) &&
  decide (tgetD [] (spillKey (s.jobOf c.wid) c.core) s.spill = []) &&
  decide (qWeight (s.core c.core).queue + 1 ≤ 64) &&
  decide (∀ b ∈ w.waits, b.wid = c.wid ∧ b.mask ≠ 0 ∧ b.mask &&& c.mask = 0) &&
  ((s.block (blkOf c.wid)).bind (fun b => s.launch b.launch)).isSome

theorem trapReady_spec {f : FaultInfo} {s : State} {c : Ctx} {w : Warp} (h : trapReadyB f s c w = true) :
    TrapReady f s c w ∧ ∃ b L, s.block (blkOf c.wid) = some b ∧ s.launch b.launch = some L := by
  simp only [trapReadyB, Bool.and_eq_true, decide_eq_true_eq] at h
  obtain ⟨⟨⟨⟨h1, h2⟩, h3⟩, h4⟩, h5⟩ := h
  refine ⟨⟨h1, h2, h3, h4⟩, ?_⟩
  cases hb : s.block (blkOf c.wid) with
  | none => rw [hb] at h5; cases h5
  | some b =>
    rw [hb] at h5
    obtain ⟨L, hL⟩ := Option.isSome_iff_exists.1 h5
    exact ⟨b, L, rfl, hL⟩

/-- The premises of `TrapsWith`. -/
theorem traps_at {i : Instr} {f : State → State} (g : State → Ctx → Warp → FaultInfo)
    (p : State → Ctx → Warp → Bool)
    (h : readyAt i f (fun s c w => p s c w && trapReadyB (g s c w) s c w) = true) :
    ∃ s c w b L, Issues i s c w ∧ p s c w = true ∧ TrapReady (g s c w) s c w ∧
      s.block (blkOf c.wid) = some b ∧ s.launch b.launch = some L := by
  obtain ⟨s, c, w, hi, hp⟩ := readyAt_spec h
  obtain ⟨hp, ht⟩ := Bool.and_eq_true_iff.1 hp
  obtain ⟨ht, b, L, hb, hL⟩ := trapReady_spec ht
  exact ⟨s, c, w, b, L, hi, hp, ht, hb, hL⟩

theorem wit_QuietInstructions : (∀ i ∈ [Instr.nop, .hint true 2 true 127 5 [1, 2], .pref 6 4 2 true 15 0x100,
    .pref 6 5 2 true 0 0x100, .yield, .part 5], ∃ s c w, Issues i s c w) ∧
    -- prefetches that reach a line
    (∀ i ∈ [Instr.pref 6 4 2 true 0 0x5000, .pref 6 4 2 false 0 0x5000], ∃ s c w, Issues i s c w ∧
      ((prefOp w (lowLane c.mask) 6 4 2 0).any (fun m =>
        match s.translate c.core (s.asidOf c.wid) (MemOp.addr s c w (lowLane c.mask) m 0x5000).toNat .read
          (c.inHandler || c.inGraft) with
        | .ok p => s.leasable (p.loc / 128)
        | _ => false)) = true) ∧
    (∃ s c w, Issues .bkpt s c w ∧
      decide (∀ l : Nat, l < 32 → c.mask.getLsbD l = true → (w.lane l).bkpt = some c.pc) = true) ∧
    ∃ s c w, Issues (.fence .ar .sys) s c w ∧
      (s.released c.core c.wid c.mask .sys && s.lost.isEmpty) = true :=
  ⟨issues_all (by decide +kernel),
    issues_with (p := fun s c w => (prefOp w (lowLane c.mask) 6 4 2 0).any (fun m =>
        match s.translate c.core (s.asidOf c.wid) (MemOp.addr s c w (lowLane c.mask) m 0x5000).toNat .read
          (c.inHandler || c.inGraft) with
        | .ok p => s.leasable (p.loc / 128)
        | _ => false)) (by decide +kernel),
    readyAt_spec (f := onWarp (onLanes (fun _ y => { y with bkpt := some 0x40000 })))
      (p := fun _ c w => decide (∀ l : Nat, l < 32 → c.mask.getLsbD l = true → (w.lane l).bkpt = some c.pc))
      (by decide +kernel),
    readyAt_spec (f := id) (p := fun s c _ => s.released c.core c.wid c.mask .sys && s.lost.isEmpty)
      (by decide +kernel)⟩

theorem wit_RejoinMasks : (∀ i ∈ [Instr.jarm 15 .all, .jarm 0 (.uni (.s 1)), .jarm 1 (.low 0xFFFF),
    .jarm 2 (.high 1), .jdrop 3], ∃ s c w, Issues i s c w ∧ decide (w.lanes.length = 32 ∧ w.g16 = false) = true) ∧
    ∃ s c w, Issues (.jwait 15) s c w ∧ (decide (w.lanes.length = 32) &&
      (List.range 32).any (fun l => (w.lane l).st == .live && !c.mask.getLsbD l &&
        w.jWait.all (fun m => !m.getLsbD l))) = true :=
  ⟨issues_with (p := fun _ _ w => decide (w.lanes.length = 32 ∧ w.g16 = false)) (by decide +kernel),
    readyAt_spec (f := onWarp lane1Off) (p := fun _ c w => decide (w.lanes.length = 32) &&
      (List.range 32).any (fun l => (w.lane l).st == .live && !c.mask.getLsbD l &&
        w.jWait.all (fun m => !m.getLsbD l))) (by decide +kernel)⟩

theorem wit_PrivilegeFaults : ∀ i ∈ [Instr.hret none, .gret (some (.s 4)), .wrctl .lwct (.s 4), .wrctl .asid (.s 1)],
    ∃ s c w b L, Issues i s c w ∧ (!c.inHandler && !c.inGraft) = true ∧ TrapReady { code := 0x11 } s c w ∧
      s.block (blkOf c.wid) = some b ∧ s.launch b.launch = some L := by
  intro i hi
  exact traps_at (f := id) (fun _ _ _ => { code := 0x11 }) (fun _ c _ => !c.inHandler && !c.inGraft)
    (List.all_eq_true.1 (show List.all _ (fun i => readyAt i id (fun s c w => (!c.inHandler && !c.inGraft) &&
      trapReadyB { code := 0x11 } s c w)) = true by decide +kernel) i hi)

/-- `i` stands at the program counter in place of the NOP that was fetched. -/
def standsAt (s : State) (p : State → Ctx → Warp → Bool) : Bool :=
  match s.ctx? with
  | some c => match s.warp c.wid with
    | some w => decide (c.tag = none) && (match s.launchOf c.wid with | some L => !L.cancelled | none => true) &&
        trapReadyB { code := 0x02 } s c w && p s c w
    | none => false
  | none => false

theorem wit_InstructionFaults_encoding :
    -- ill-formed; v32 and s32 beyond an allotment of 32; BRX not the last of its run
    (standsAt (placed .nop) (fun _ _ _ => (Instr.wf (.part 0)) == false) &&
     standsAt (onWarp (fun w => { w with vregs := 32, sregs := 32 }) (placed .nop)) (fun _ c w =>
      (regUse (.iadd false .s32 (.v 1) (.v 31) (.v 32))).1.any (fun u => !u.uset && decide (u.code < 112) &&
        decide (w.vregs ≤ u.code) && !w.inGraft (lowLane c.mask)) &&
      (regUse (.umov .b64 (.s 31) (.reg (.s 32)))).1.any (fun u => u.uset && decide (u.code < 112) &&
        decide (w.sregs ≤ u.code) && !w.inGraft (lowLane c.mask) && !w.inHandler (lowLane c.mask))) &&
     standsAt (s := { placed .nop with cores := (placed .nop).cores.map (fun e => (e.1, { e.2 with
        seqs := e.2.seqs.map (fun b => b.map (fun b => { b with run := b.run.map (fun r => { r with count := 2 }) })) })) })
      (fun _ c _ => endsRun (.brx true (.v 1)) && !c.last)) = true := by
  decide +kernel

theorem wit_InstructionFaults_other :
    (∃ s c w b L, Issues .bkpt s c w ∧
      decide (∀ l : Nat, l < 32 → c.mask.getLsbD l = true → (w.lane l).bkpt ≠ some c.pc) = true ∧
      TrapReady { code := 0x15 } s c w ∧ s.block (blkOf c.wid) = some b ∧ s.launch b.launch = some L) ∧
    (∃ s c w b L, Issues (.succ 3 7 0 1 2) s c w ∧ true = true ∧
      TrapReady { code := 0x01 } s c w ∧ s.block (blkOf c.wid) = some b ∧ s.launch b.launch = some L) ∧
    (∀ r ∈ [CtlReg.trapbase, .grovebase, .callq], ∃ s c w b L, Issues (.wrctl r (.s 2)) s c w ∧
      (decide (s.rdU64 c (.s 2) &&& 0xFF80000000000002 ≠ 0 ∧ s.rdU64 c (.s 2) &&& 0xFF800000000001FE ≠ 0 ∧
        s.rdU64 c (.s 2) &&& 0xFF80000000000E0E ≠ 0)) = true ∧
      TrapReady { code := 0x02 } s c w ∧ s.block (blkOf c.wid) = some b ∧ s.launch b.launch = some L) ∧
    (∃ s c w b L, Issues (.regshr 14) s c w ∧ decide (w.vregs < 8 * 14) = true ∧
      TrapReady { code := 0x02 } s c w ∧ s.block (blkOf c.wid) = some b ∧ s.launch b.launch = some L) ∧
    (∀ i ∈ [Instr.jarm 0 (.high 1), .part 5], ∃ s c w b L, Issues i s c w ∧ w.g16 = true ∧
      TrapReady { code := 0x02 } s c w ∧ s.block (blkOf c.wid) = some b ∧ s.launch b.launch = some L) ∧
    (∃ s c w b L, Issues (.launch false (.s 4) (.s 2)) s c w ∧ decide ((s.rdU64 c (.s 2)).toNat % 128 ≠ 0) = true ∧
      TrapReady { code := 0x04, addr := s.rdU64 c (.s 2) } s c w ∧ s.block (blkOf c.wid) = some b ∧
      s.launch b.launch = some L) ∧
    ∀ i ∈ [Instr.brx false (.v 2), .ret (.v 2), .call (.v 6) (.v 2) true 0], ∃ s c w b L, Issues i s c w ∧
      decide (∀ l : Nat, l < 32 → c.mask.getLsbD l = true → w.rdL64 l (.v 2) = 0xFFFFFFFFFFFFFFFF) = true ∧
      TrapReady { code := 0x03, addr := 0xFFFFFFFFFFFFFFFF } s c w ∧ s.block (blkOf c.wid) = some b ∧
      s.launch b.launch = some L := by
  refine ⟨?_, ?_, ?_, ?_, ?_, ?_, ?_⟩
  · exact traps_at (f := id) (fun _ _ _ => { code := 0x15 }) (fun _ c w => decide (∀ l : Nat, l < 32 →
      c.mask.getLsbD l = true → (w.lane l).bkpt ≠ some c.pc)) (by decide +kernel)
  · exact traps_at (f := id) (fun _ _ _ => { code := 0x01 }) (fun _ _ _ => true) (by decide +kernel)
  · intro r hr
    exact traps_at (f := onWarp (allU 0xFFFFFFFF)) (fun _ _ _ => { code := 0x02 }) (fun s c _ =>
      decide (s.rdU64 c (.s 2) &&& 0xFF80000000000002 ≠ 0 ∧ s.rdU64 c (.s 2) &&& 0xFF800000000001FE ≠ 0 ∧
        s.rdU64 c (.s 2) &&& 0xFF80000000000E0E ≠ 0))
      (List.all_eq_true.1 (show List.all _ (fun r => readyAt (.wrctl r (.s 2)) (onWarp (allU 0xFFFFFFFF)) _) = true
        by decide +kernel) r hr)
  · exact traps_at (f := onWarp (fun w => { w with vregs := 104 })) (fun _ _ _ => { code := 0x02 })
      (fun _ _ w => decide (w.vregs < 8 * 14)) (by decide +kernel)
  · intro i hi
    exact traps_at (f := onWarp (fun w => { w with g16 := true })) (fun _ _ _ => { code := 0x02 }) (fun _ _ w => w.g16)
      (List.all_eq_true.1 (show List.all _ (fun i => readyAt i (onWarp (fun w => { w with g16 := true })) _) = true
        by decide +kernel) i hi)
  · exact traps_at (f := onWarp (allU 1)) (fun s c _ => { code := 0x04, addr := s.rdU64 c (.s 2) })
      (fun s c _ => decide ((s.rdU64 c (.s 2)).toNat % 128 ≠ 0)) (by decide +kernel)
  · intro i hi
    exact traps_at (f := onWarp (allV 0xFFFFFFFF)) (fun _ _ _ => { code := 0x03, addr := 0xFFFFFFFFFFFFFFFF })
      (fun _ c w => decide (∀ l : Nat, l < 32 → c.mask.getLsbD l = true → w.rdL64 l (.v 2) = 0xFFFFFFFFFFFFFFFF))
      (List.all_eq_true.1 (show List.all _ (fun i => readyAt i (onWarp (allV 0xFFFFFFFF)) _) = true
        by decide +kernel) i hi)

/-- A record of a misaligned access. -/
def aRecord : FaultRec :=
  { info := { code := 4 }, seq := 1, core := 0, block := 0, launch := 0, words := (0, 0), pc := 0x40208, mask := 3,
    warp := 0, nested := false, graft := false, host := false }

/-- Warp 0 in handler mode at 0x40200, half its lanes (0 and 1) or all of them still there. -/
def handling (m : Mask) (w : Warp) : Warp :=
  { w with handler := some { id := 0, record := aRecord, mask := m, bank := List.replicate 16 7, pc := 0x40200, run := some 0x401F0,
                             nxt := 0x40300, temps := [(0, 9), (33, 8)], gen := 0, score := false,
                             elems := [] } }

/-- Warp 0 in graft mode for the instruction `x` with slot control word `ctrl`. -/
def grafted (m : Mask) (x ctrl : Word) (atEnd : Bool) (w : Warp) : Warp :=
  { w with graft := some { mask := m, bank := (List.range 16).map (fun k => BitVec.ofNat 32 (100 + k)),
                           regs := [(32 * 6, 66), (32 * 6 + 1, 67), (32 * 7, 77)], words := [x], ctrl := ctrl,
                           isFault := false, run := some 0x401F0, after := 0x40208, atEnd := atEnd,
                           nxt := 0x40300, temps := [(0, 9), (33, 8)], gen := 0, score := false } }

/-- The bindings of core 0, changed. -/
def onBinds (f : Binding → Binding) (s : State) : State :=
  s.modCore 0 (fun x => { x with seqs := x.seqs.map (fun b => b.map f) })

/-- Lanes 0 and 1 alone are bound and stand in the run; 2 and 3 stand elsewhere. -/
def halfBound (s : State) : State :=
  onWarp (onLanes (fun l y => if l = 2 ∨ l = 3 then { y with run := none, pc := 0x40100 } else y))
    (onBinds (fun b => { b with mask := 3 }) s)

/-- The same for each of some cases. -/
theorem readyAt_all {α : Type} {xs : List α} (i : α → Instr) (f : α → State → State)
    (p : α → State → Ctx → Warp → Bool) (h : xs.all (fun x => readyAt (i x) (f x) (p x)) = true) :
    ∀ x ∈ xs, ∃ s c w, Issues (i x) s c w ∧ p x s c w = true :=
  fun x hx => readyAt_spec (List.all_eq_true.1 h x hx)

/-- Warp 0 and its binding in graft mode. -/
def inGrafted (m : Mask) (x ctrl : Word) (atEnd : Bool) (s : State) : State :=
  onWarp (grafted m x ctrl atEnd) (onBinds (fun b => { b with inGraft := true }) s)

/-- Groups that wait are of other lanes. -/
def apartB (c : Ctx) (w : Warp) : Bool := decide (∀ b ∈ w.waits, b.mask ≠ 0 ∧ b.mask &&& c.mask = 0)

/-- Warp 0 of the placed block has a sister, warp 1. -/
def withSister (f : Warp → Warp) (s : State) : State :=
  match s.warp 0 with
  | some w => { s with warps := tset 1 (f { w with num := 1 }) s.warps }
  | none => s

/-- The cluster of the placed block. -/
def withCluster (s : State) : State :=
  { s with clusters := [{ launch := 0, idx := 0, cbar := List.replicate 4 Barrier.idle, placedSeq := 0 }] }

/-- Warp 1 has arrived at a barrier that awaits `n` arrivals in all. -/
def sisterArrived (cl : Bool) (inst count n : Nat) (s : State) : State :=
  let x : BarWait := { half := 0, cluster := cl, inst := inst, count := count, mask := 15, arrived := true }
  (withSister (fun w => { w with bars := [x] }) (withCluster s)).setBarrier 0 cl inst { need := some n, arrived := 1, first := 2 }

/-- The placed launch has a chip-scratch window and room at 0x2000 for its lane-private words; memory
below 128, scratch and chip scratch hold some bytes. -/
def withData (s : State) : State :=
  let xs (n : Nat) : FMap Byte := (List.range n).map (fun k => (k, BitVec.ofNat 8 (7 * k + 1)))
  let s := { s with launches := s.launches.map (fun (e : Nat × Launch) => (e.1, { e.2 with xsize := 1 })) }
  let s := { s with chip := xs 16 }
  let s := { s with mem := wrMem 0 ((List.range 16).map (fun k => BitVec.ofNat 8 (11 * k + 0x81))) s.mem }
  s.modCore 0 (fun x => { x with scratch := xs 16 })

/-- Every lane of the group reaches its bytes, and each piece meets `p`. -/
def reaches (sp : Space) (adr : Nat → DWord) (n : Nat) (a : Acc) (p : Piece → Bool) (s : State) (c : Ctx) : Bool :=
  (lanesOf c.mask).all (fun l => match s.reach c l sp (adr l) n a with
    | .ok ps => ps.all p
    | .error _ => false)

/-- The premise `Piece.clean`. -/
def cleanB (s : State) (c : Ctx) (strong : Bool) (p : Piece) : Bool :=
  match p.place with
  | .glob ph => decide (ph.loc % 128 + p.n ≤ 128) && (if strong || ph.mt == 1 then !s.poisonedR ph.loc p.n else
      match (s.core c.core).cc.find? (fun x => x.line == ph.loc / 128 && s.leaseValid x) with
      | some x => !bitOf x.bad (ph.loc % 128 / 64)
      | none => !s.poisoned ph.loc)
  | .gone => false
  | _ => true

/-- The premise `NoStores`. -/
def noStoresB (s : State) (c : Ctx) : Bool := (s.core c.core).sq.all (fun e => e.wid != c.wid)

/-- The premise `Resumes` with more. -/
def resumesB (tag : WaitTag) (s : State) (p : State → Ctx → Warp → Bool) : Bool :=
  match s.ctx? with
  | none => false
  | some c => match s.warp c.wid with
    | none => false
    | some w => decide (c.tag = some tag) && (match s.launchOf c.wid with | some L => !L.cancelled | none => true) &&
        p s c w

theorem resumes_spec {tag : WaitTag} {s : State} {p : State → Ctx → Warp → Bool} (h : resumesB tag s p = true) :
    ∃ s c w, Resumes s c w tag ∧ p s c w = true := by
  unfold resumesB at h
  split at h
  · cases h
  · rename_i c hc
    split at h
    · cases h
    · rename_i w hw
      simp only [Bool.and_eq_true, decide_eq_true_eq] at h
      obtain ⟨⟨ht, hg⟩, hp⟩ := h
      refine ⟨s, c, w, ⟨hc, hw, ht, fun L hL => ?_⟩, hp⟩
      rw [hL] at hg
      simpa using hg

/-- The group of warp 0 comes back from a wait. -/
def tagged (tag : WaitTag) (s : State) : State := onBinds (fun b => { b with tag := some tag }) s

/-- A memory operand: base s4, offset the lane number scaled. -/
def atLane (sp : Space) (k : Fin 4) : MemOp := { space := sp, base := .s 4, off := .lane, scale := k }

/-- A memory operand: base s4 alone. -/
def atBase (sp : Space) : MemOp := { space := sp, base := .s 4, off := .zero, scale := 0 }

/-- A release has nothing to wait for. -/
def relB (sc : Scope) (s : State) (c : Ctx) : Bool := s.released c.core c.wid c.mask sc && s.lost.isEmpty

/-- A stream record (07 R163): base, four counts, the first stride, index base and control bits. -/
def streamRec (base c0 c1 stride ibase ctl : Nat) : BitVec 512 :=
  BitVec.ofNat 512 (base + c0 * 2 ^ 64 + stride * 2 ^ 96 + c1 * 2 ^ 128 + 2 ^ 192 + 2 ^ 256 + ibase * 2 ^ 320 + ctl * 2 ^ 384)

/-- Six 4-byte elements from 0 on; six bytes of `.k` that index words of global memory. -/
def recDirect : BitVec 512 := streamRec 0 6 1 4 0 2
def recIndex : BitVec 512 := streamRec 0x100 3 2 1 1 (2 + 8 + 2 * 64 + 512)

/-- Slot `n` of the placed block is armed. -/
def armed (n : Nat) (z : Stream) (s : State) : State :=
  s.modBlock 0 (fun b => { b with streams := lput none n (some z) b.streams })

/-- Buffer 0 of the placed block, changed. -/
def onBuf (f : CBuf → CBuf) (s : State) : State := s.modBlock 0 (fun b => { b with cbufs := b.cbufs.map f })

/-- Buffer 0 of a warp's block. -/
def buf0 (s : State) (c : Ctx) : Option CBuf := (s.block (blkOf c.wid)).bind (fun b => b.cbufs[0]?)

/-- The premises of `TrapsWith`, for each of some cases. -/
theorem traps_all {α : Type} {xs : List α} (i : α → Instr) (f : α → State → State)
    (g : α → State → Ctx → Warp → FaultInfo) (p : α → State → Ctx → Warp → Bool)
    (h : xs.all (fun x => readyAt (i x) (f x) (fun s c w => p x s c w && trapReadyB (g x s c w) s c w)) = true) :
    ∀ x ∈ xs, ∃ s c w b L, Issues (i x) s c w ∧ p x s c w = true ∧ TrapReady (g x s c w) s c w ∧
      s.block (blkOf c.wid) = some b ∧ s.launch b.launch = some L :=
  fun x hx => traps_at (g x) (p x) (List.all_eq_true.1 h x hx)

/-- One store of two lanes to line 5, or to a line of the host window, awaits its slice in core 3. -/
def stored (line : Nat) (g : Option Nat) (m : LineMeta) : State :=
  let e : SqEntry := { id := 4, wid := 0, launch := 0, line := line, writes := [(0, 128 * line, [1, 2]), (1, 128 * line + 126, [3, 4])],
                       vas := [], strong := true, asid := 0, gwct := g }
  State.modCore 3 (fun k => { k with sq := [e] }) { State.reset with lines := [(line, m)], gtime := 50, hostUp := true }

/-- A packet: type, flags, SUB, COUNT, address, value, EDGE fields from EDGE0 on. -/
def mkPk (ty flags sub count addr value : Nat) (es : List Nat) : BitVec 512 :=
  BitVec.ofNat 512 (ty + flags * 2 ^ 8 + sub * 2 ^ 16 + count * 2 ^ 32 + addr * 2 ^ 64 + value * 2 ^ 128 +
    ((List.range 8).map (fun k => es.getD k 0xFFFF * 2 ^ (192 + 16 * k))).sum)

/-- Queue `q` of job 0 with 16 packets at 0x3000, LEAD or not; `ctl` adds to its control word. -/
def queueAt (q : Nat) (head tail done ctl : Word) (ring : List (Nat × BitVec 512)) : State :=
  let s := placed .nop
  let s := [(qOff q, (0x3000 : Word)), (qOff q + 8, 0x09400004 + ctl), (qOff q + 0x10, tail), (qOff q + 0x14, head), (qOff q + 0x18, done),
    (jOff 0 + 0xC, 0x100), (jOff 0 + 0x18, 1)].foldl (fun s e => s.setReg e.1 e.2) s
  { s with mem := ring.foldl (fun m e => wrMem (0x3000 + 64 * e.1) (natLe 64 e.2.toNat) m) s.mem,
           phases := [{ job := 0, num := 0, left := 0, closed := false }] }

/-- A packet that was read. -/
def mkRead (num : Nat) (d : BitVec 512) (st : PktSt) : Pkt :=
  { num := num, data := d, st := st, refs := [], node := none, graph := none, cancel := false }

/-- Queue 5 with packets that were read, the first of them number `done`; `ctl` adds to its control word. -/
def heldCtl (ctl done : Word) (ps : List Pkt) : State :=
  (queueAt 5 (done + BitVec.ofNat 32 ps.length) (done + BitVec.ofNat 32 ps.length) done ctl []).modQueue 5 (fun x =>
    { x with pkts := ps, kinds := ps.map (fun p => pkType p.data) })

/-- The same of a LEAD queue. -/
def heldAt (done : Word) (ps : List Pkt) : State := heldCtl 0x100000 done ps

/-- The premise `NextPacket`. -/
def nextPacketB (q : Nat) (d : BitVec 512) (s : State) : Bool :=
  decide (q < 16384) && !s.hostLost && s.qEn q && !s.qFrozen q && s.jState (s.qJob q) == 1 && s.qHead q != s.qTail q &&
    !(s.queue q).badTail && (s.queue q).pkts.all (fun p => p.num != (s.qHead q).toNat && (pkType p.data != 4 || p.st == .done)) && pkOk d &&
    match s.vRead (via (s.jAsid (s.qJob q))) ((s.reg64 (qOff q)).toNat + 64 * ((s.qHead q).toNat % 2 ^ s.qRlog q)) 64 with
    | .ok x => x == natLe 64 d.toNat
    | .error _ => false

/-- The premise `HeldPacket`. -/
def heldB (q : Nat) (p : Pkt) (s : State) : Bool :=
  decide (q < 16384) && (s.queue q).pkts.find? (fun x => x.num == p.num) == some p && p.st == .held && p.node.isNone && !p.cancel &&
    (!pkOrder p.data || (s.qDone q).toNat == p.num) && decide (p.num < 2 ^ 32)

/-- The word that a WAIT or SIGNAL packet names reads `x`. -/
def wordAt (s : State) (q : Nat) (p : Pkt) (x : Nat) : Bool :=
  pkAddr p.data % 8 == 0 && decide (x < 2 ^ 64) && match s.vRead (via (s.jAsid (s.qJob q))) (pkAddr p.data) 8 with
    | .ok b => b == natLe 8 x
    | .error _ => false

/-- Launch 0 belongs to graph 0 of phase 0 of job 0, which is open. -/
def withGraph (s : State) : State :=
  let g : Graph := { job := 0, phase := 0, count := 1, read := 1, left := 1, queue := 0, pkt := none, nodes := [0],
                     badNode := false, checked := true, cancelled := false }
  State.setReg (jOff 0 + 0xC) 0x10100 { s with graphs := tset 0 g s.graphs }


/-- Registers of BAR 2, set in order. -/
def withRegs (es : List (Nat × Word)) (s : State) : State := es.foldl (fun s e => s.setReg e.1 e.2) s

theorem wit_HandlerAndGraftReturns :
    (∀ x ∈ [(none, (3 : Mask)), (none, 15), (some (USpec.s 4), 3), (some (.s 4), 15)],
      ∃ s c w, Issues (.hret x.1) s c w ∧ (w.handler.isSome && c.inHandler && !c.inGraft && apartB c w &&
        c.mask == 3 && w.handler.map Handler.mask == some x.2) = true) ∧
    (∀ x ∈ [(none, false), (none, true), (some (USpec.s 4), false)], ∃ s c w, Issues (.gret x.1) s c w ∧
      (w.graft.isSome && c.inGraft && apartB c w && w.parked.isEmpty && w.graft.map GraftMode.atEnd == some x.2) =
        true) :=
  ⟨readyAt_all (α := Option USpec × Mask) (fun x => .hret x.1) (fun x s => onWarp (handling x.2) (halfBound s)) (fun x _ c w => w.handler.isSome &&
      c.inHandler && !c.inGraft && apartB c w && c.mask == 3 && w.handler.map Handler.mask == some x.2)
      (by decide +kernel),
    readyAt_all (α := Option USpec × Bool) (fun x => .gret x.1) (fun x => inGrafted 15 0x02008000 0xC00000 x.2) (fun x _ c w =>
      w.graft.isSome && c.inGraft && apartB c w && w.parked.isEmpty && w.graft.map GraftMode.atEnd == some x.2)
      (by decide +kernel)⟩

/-- The premises of `BarrierArrivals` for an instance and a count. -/
def arrives (cl : Bool) (sc : Scope) (inst cnt0 : Nat) (s : State) (c : Ctx) (w : Warp) : Bool :=
  let units := s.barUnits c.wid cl
  let old := s.barrier c.wid cl inst
  let n0 := if old.need = none then (units.filter s.unitLive).length else old.first
  let cnt := if cnt0 = 0 then n0 else cnt0
  let h := w.half (lowLane c.mask)
  keysRise 0 s.warps && (match s.block (blkOf c.wid) with
    | some b => decide (inst < (if cl then 4 else b.bars.length)) &&
        (!cl || s.clusters.any (fun x => x.launch == b.launch && x.idx == b.cluster))
    | none => false) && s.released c.core c.wid c.mask sc && s.lost.isEmpty &&
    w.live &&& w.halfMask h &&& ~~~c.mask == 0 && w.bars.all (fun x => x.half != h) &&
    decide (cnt0 ≤ units.length) && decide (old.need = none ∨ old.need = some cnt)

theorem wit_BarrierArrivals :
    (∀ x ∈ [(15, 0), (0, 2), (7, 1)], ∃ s c w, Issues (.bar x.1 (.imm (BitVec.ofNat 7 x.2))) s c w ∧
      (arrives false .block x.1 x.2 s c w && (s.barrier c.wid false x.1).need == none) = true) ∧
    (∀ x ∈ [(15, 0), (0, 2)], ∃ s c w, Issues (.bar x.1 (.reg (.s 2))) s c w ∧
      (arrives false .block x.1 x.2 s c w && (s.rdU c (.s 2)).toNat == x.2 &&
        (s.barrier c.wid false x.1).arrived + 1 == 2) = true) ∧
    (∀ x ∈ [(3, 0), (0, 2)], ∃ s c w, Issues (.cbar x.1 (.imm (BitVec.ofNat 7 x.2))) s c w ∧
      (arrives true .cluster x.1 x.2 s c w && (s.barrier c.wid true x.1).need == none) = true) ∧
    ∀ x ∈ [(3, 0), (0, 2)], ∃ s c w, Issues (.cbar x.1 (.imm (BitVec.ofNat 7 x.2))) s c w ∧
      (arrives true .cluster x.1 x.2 s c w && (s.barrier c.wid true x.1).arrived + 1 == 2) = true :=
  ⟨readyAt_all (α := Fin 16 × Nat) (fun x => .bar x.1 (.imm (BitVec.ofNat 7 x.2)))
      (fun _ s => withSister id (withCluster s))
      (fun x s c w => arrives false .block x.1 x.2 s c w && (s.barrier c.wid false x.1).need == none) (by decide +kernel),
    readyAt_all (α := Fin 16 × Nat) (fun x => .bar x.1 (.reg (.s 2)))
      (fun x s => onWarp (allU (BitVec.ofNat 32 x.2)) (sisterArrived false x.1 x.2 2 s))
      (fun x s c w => arrives false .block x.1 x.2 s c w && (s.rdU c (.s 2)).toNat == x.2 &&
        (s.barrier c.wid false x.1).arrived + 1 == 2) (by decide +kernel),
    readyAt_all (α := Fin 4 × Nat) (fun x => .cbar x.1 (.imm (BitVec.ofNat 7 x.2)))
      (fun _ s => withSister id (withCluster s))
      (fun x s c w => arrives true .cluster x.1 x.2 s c w && (s.barrier c.wid true x.1).need == none) (by decide +kernel),
    readyAt_all (α := Fin 4 × Nat) (fun x => .cbar x.1 (.imm (BitVec.ofNat 7 x.2)))
      (fun x s => sisterArrived true x.1 x.2 2 s)
      (fun x s c w => arrives true .cluster x.1 x.2 s c w && (s.barrier c.wid true x.1).arrived + 1 == 2)
      (by decide +kernel)⟩

/-- The premises of the WSYNC statement, and whether the arrival is the last. -/
def wsyncs (u : USpec) (last : Bool) (s : State) (c : Ctx) (w : Warp) : Bool :=
  let h := w.half (lowLane c.mask)
  let x := w.wsync.getD h { fixed := 0, arrived := 0 }
  let m : Mask := if w.g16 then (s.rdU c u &&& 0xFFFF) <<< (16 * h) else s.rdU c u
  let fixed := if x.fixed = 0 then m &&& w.live else x.fixed
  s.released c.core c.wid c.mask .warp && s.lost.isEmpty && apartB c w && m != 0 &&
    m &&& w.live == fixed &&& w.live && c.mask &&& ~~~fixed == 0 &&
    (fixed &&& w.live &&& ~~~(x.arrived ||| c.mask) == 0) == last

/-- The premise `quiet` of the EXIT statements. -/
def quietB (s : State) (w : Warp) : Bool :=
  w.bars.isEmpty && w.handler.isNone && w.graft.isNone && w.gang == 0 && w.parked.isEmpty &&
    w.wsync.all (fun x => x.fixed == 0) && (match s.block 0 with
      | some b => b.bars.all (fun x => x.need.isNone) && s.clusters.all (fun x => x.cbar.all (fun y => y.need.isNone))
      | none => false)

theorem wit_WarpSyncAndExit :
    (∃ s c w, Issues (.wsync (.s 2)) s c w ∧ wsyncs (.s 2) true s c w = true) ∧
    (∃ s c w, Issues (.wsync (.s 2)) s c w ∧ wsyncs (.s 2) false s c w = true) ∧
    (∃ s c w, Issues (.wsync (.s 2)) s c w ∧ (wsyncs (.s 2) true s c w && c.mask == 3) = true) ∧
    (∃ s c w, Issues .exit s c w ∧ (quietB s w && apartB c w && decide (∃ l : Nat, l < 32 ∧ (w.lane l).st = .live ∧
      c.mask.getLsbD l = false ∧ ∀ k : Nat, k < w.jWait.length → (w.jWait.getD k 0).getLsbD l = false)) = true) ∧
    ∃ s c w, Issues .exit s c w ∧ (quietB s w && apartB c w && w.live &&& ~~~c.mask == 0 &&
      (match s.block (blkOf c.wid) with | some b => !b.done && (s.launch b.launch).isSome | none => false) &&
      s.warps.all (fun e => e.1 == c.wid)) = true :=
  ⟨readyAt_spec (f := onWarp (allU 15)) (p := wsyncs (.s 2) true) (by decide +kernel),
    readyAt_spec (f := fun s => onWarp (allU 15) (halfBound s)) (p := wsyncs (.s 2) false) (by decide +kernel),
    readyAt_spec (f := fun s => onWarp (fun w => allU 15 { w with wsync := [{ fixed := 15, arrived := 12 }] })
      (halfBound s)) (p := fun s c w => wsyncs (.s 2) true s c w && c.mask == 3) (by decide +kernel),
    readyAt_spec (f := onWarp lane1Off) (p := fun s c w => quietB s w && apartB c w &&
      decide (∃ l : Nat, l < 32 ∧ (w.lane l).st = .live ∧ c.mask.getLsbD l = false ∧
        ∀ k : Nat, k < w.jWait.length → (w.jWait.getD k 0).getLsbD l = false)) (by decide +kernel),
    readyAt_spec (f := id) (p := fun s c w => quietB s w && apartB c w && w.live &&& ~~~c.mask == 0 &&
      (match s.block (blkOf c.wid) with | some b => !b.done && (s.launch b.launch).isSome | none => false) &&
      s.warps.all (fun e => e.1 == c.wid)) (by decide +kernel)⟩

/-- A load or store with its operand, offset, size and whether it is strong. -/
structure MemCase where
  i : Instr
  m : MemOp
  imm : BitVec 16
  n : Nat
  strong : Bool

/-- The addresses of a case. -/
def MemCase.adr (x : MemCase) (s : State) (c : Ctx) (w : Warp) (l : Nat) : DWord :=
  MemOp.addr s c w l x.m (x.imm.signExtend 64)

def ldCase (strong acq : Bool) (ty : LdTy) (sc : Option Scope) (m : MemOp) (imm : BitVec 16) : MemCase :=
  { i := .ld strong acq ty sc m (.v 4) imm, m := m, imm := imm, n := ldBytes ty, strong := strong || acq }

def ldCases : List MemCase :=
  [ldCase false false .z8 none (atLane .g 0) 1, ldCase false false .s8 none (atLane .k 0) 0,
   ldCase true false .z16 (some .pkg) (atLane .q 1) 2, ldCase false false .s16 none (atLane .x 1) 0xFFF0,
   ldCase true true .b32 (some .sys) (atLane .g 2) 0, ldCase false false .b64 none (atBase .l) 8,
   ldCase false true .b128 (some .block) (atBase .g) 0]

theorem wit_Loads : ∀ x ∈ ldCases, ∃ s c w, Issues x.i s c w ∧
    (noStoresB s c && reaches x.m.space (x.adr s c w) x.n .read (cleanB s c x.strong) s c) = true :=
  readyAt_all (α := MemCase) (fun x => x.i) (fun _ s => onWarp (fun w => { w with u := [(4, 16)] }) (withData s))
    (fun x s c w => noStoresB s c && reaches x.m.space (x.adr s c w) x.n .read (cleanB s c x.strong) s c)
    (by decide +kernel)

def stCase (strong rel : Bool) (ty : StTy) (sc : Option Scope) (m : MemOp) (imm : BitVec 16) : MemCase :=
  { i := .st strong rel ty sc m (.v 4) imm, m := m, imm := imm, strong := strong || rel,
    n := (match ty with | .b8 => 1 | .b16 => 2 | .b32 => 4 | .b64 => 8 | .b128 => 16) }

def stGlobal : List MemCase :=
  [stCase false false .b8 none (atLane .g 0) 1, stCase true false .b16 (some .pkg) (atLane .g 1) 0,
   stCase true true .b32 (some .sys) (atLane .g 2) 0xFFFC, stCase false false .b64 none (atBase .l) 8,
   stCase false false .b128 none (atBase .g) 0]

def stScratch : List MemCase :=
  [stCase false false .b8 none (atLane .k 0) 1, stCase true false .b16 (some .pkg) (atLane .q 1) 0,
   stCase true true .b32 (some .block) (atLane .x 2) 0xFFF0, stCase false false .b128 none (atBase .x) 0xFFF0]

theorem wit_Stores :
    (∀ x ∈ stGlobal, ∃ s c w, Issues x.i s c w ∧ (relB .sys s c && reaches x.m.space (x.adr s c w) x.n .write
      (fun p => match p.place with | .glob ph => !s.writeDropped ph.loc | _ => false) s c) = true) ∧
    ∀ x ∈ stScratch, ∃ s c w, Issues x.i s c w ∧ (relB .sys s c && !s.strongBusy c.core c.wid c.mask &&
      reaches x.m.space (x.adr s c w) x.n .write (fun p => p.n == x.n &&
        match p.place with | .scr _ _ => true | .chip _ => true | _ => false) s c) = true :=
  ⟨readyAt_all (α := MemCase) (fun x => x.i) (fun _ s => onWarp (fun w => { w with u := [(4, 16)] }) (withData s))
    (fun x s c w => relB .sys s c && reaches x.m.space (x.adr s c w) x.n .write
      (fun p => match p.place with | .glob ph => !s.writeDropped ph.loc | _ => false) s c) (by decide +kernel),
   readyAt_all (α := MemCase) (fun x => x.i) (fun _ s => onWarp (fun w => { w with u := [(4, 16)] }) (withData s))
    (fun x s c w => relB .sys s c && !s.strongBusy c.core c.wid c.mask && reaches x.m.space (x.adr s c w) x.n .write
      (fun p => p.n == x.n && match p.place with | .scr _ _ => true | .chip _ => true | _ => false) s c)
    (by decide +kernel)⟩

/-- The premise `ready` of the statement on atomics: aligned words of global memory. -/
def atomReady (n : Nat) (m : MemOp) (s : State) (c : Ctx) (w : Warp) : Bool :=
  relB .sys s c && noStoresB s c && s.sharers.isEmpty && s.inval.isEmpty &&
    (lanesOf c.mask).all (fun l => match s.reach c l m.space (MemOp.addr s c w l m 0) n .rw with
      | .ok [p] => p.n == n && (match p.place with
        | .glob ph => ph.loc % n == 0 && !s.writeDropped ph.loc && !s.poisonedR ph.loc n
        | _ => false)
      | _ => false)

def atomCase (op : AOp) (ty : ATy) (ord : Ord4) (sc : Scope) (m : MemOp) (e : LSpec) : MemCase :=
  { i := .atom op ty ord sc m (.v 2) (.v 4) e, m := m, imm := 0, n := if ty.wide64 then 8 else 4, strong := true }

def atomCases : List MemCase :=
  [atomCase .exch .z64 .none .pkg (atLane .g 3) (.v 0), atomCase .cas .z32 .ar .sys (atBase .g) (.v 6),
   atomCase .cas .s64 .sc .block (atLane .g 3) (.v 0), atomCase .add .z32 .acq .pkg (atBase .g) (.v 0),
   atomCase .max .s64 .rel .node (atLane .g 3) (.v 0), atomCase .add .bf16 .none .pkg (atLane .g 2) (.v 0),
   atomCase .xor .s32 .ar .pkg (atLane .g 2) (.v 0)]

def redCase (op : AOp) (ty : ATy) (ord : Ord4) (sc : Scope) (m : MemOp) : MemCase :=
  { i := .red op ty ord sc m (.v 4), m := m, imm := 0, n := if ty.wide64 then 8 else 4, strong := true }

def redCases : List MemCase :=
  [redCase .add .f32 .none .pkg (atLane .g 2), redCase .min .s32 .rel .sys (atBase .g),
   redCase .or .z64 .none .block (atLane .g 3), redCase .max .f16 .rel .pkg (atBase .g)]

theorem wit_Atomics :
    (∀ x ∈ atomCases, ∃ s c w, Issues x.i s c w ∧ atomReady x.n x.m s c w = true) ∧
    ∀ x ∈ redCases, ∃ s c w, Issues x.i s c w ∧ atomReady x.n x.m s c w = true :=
  ⟨readyAt_all (α := MemCase) (fun x => x.i) (fun _ s => onWarp (fun w => { w with u := [(4, 16)] }) (withData s))
    (fun x => atomReady x.n x.m) (by decide +kernel),
   readyAt_all (α := MemCase) (fun x => x.i) (fun _ s => onWarp (fun w => { w with u := [(4, 16)] }) (withData s))
    (fun x => atomReady x.n x.m) (by decide +kernel)⟩

/-- The value that a WAITA tests in a lane. -/
def waitaVal (n : Nat) (m : MemOp) (s : State) (c : Ctx) (w : Warp) (l : Nat) : Nat :=
  match s.reach c l m.space (MemOp.addr s c w l m 0) n .read with
  | .ok ps => leNat (ps.flatMap (fun p => p.bytes s c true))
  | .error _ => 0

/-- The premises of the WAITA statement. -/
def waitaReady (n : Nat) (m : MemOp) (s : State) (c : Ctx) (w : Warp) : Bool :=
  noStoresB s c && s.wcallFault.isEmpty && reaches m.space (fun l => MemOp.addr s c w l m 0) n .read (cleanB s c true) s c

theorem wit_MemoryWaits :
    -- WAITA: every lane's test passes; one lane's test fails
    (∃ s c w, Issues (.waita .uge .b64 true .sys (atLane .g 3) (.v 2) .zero 0) s c w ∧
      waitaReady 8 (atLane .g 3) s c w = true) ∧
    (∃ s c w, Issues (.waita .ne .b32 false .pkg (atLane .k 2) (.v 2) .zero 0) s c w ∧
      (waitaReady 4 (atLane .k 2) s c w && (lanesOf c.mask).all (fun l => waitaVal 4 (atLane .k 2) s c w l != 0)) =
        true) ∧
    (∃ s c w, Issues (.waita .eq .b32 false .pkg (atLane .x 2) (.v 2) (.v 4) 0) s c w ∧
      (waitaReady 4 (atLane .x 2) s c w && (lanesOf c.mask).any (fun l => waitaVal 4 (atLane .x 2) s c w l != 5)) =
        true) ∧
    -- RACQ: a core that does not exist, the last core, and the resumption
    (∀ n ∈ [0xFFFFFFFF, 0], ∃ s c w, Issues (.racq (.s 2)) s c w ∧ (relB .pkg s c && s.rdU c (.s 2) == n &&
      (decide (Config.cores ≤ n.toNat) || !(s.core n.toNat).disabled)) = true) ∧
    ∃ s c w, Resumes s c w { why := .racq, phase := 1, arg := 3 } ∧ (s.core 3).racq.isEmpty = true :=
  ⟨readyAt_spec (f := withData) (p := waitaReady 8 (atLane .g 3)) (by decide +kernel),
    readyAt_spec (f := withData) (p := fun s c w => waitaReady 4 (atLane .k 2) s c w &&
      (lanesOf c.mask).all (fun l => waitaVal 4 (atLane .k 2) s c w l != 0)) (by decide +kernel),
    readyAt_spec (f := fun s => onWarp (allV 5) (withData s)) (p := fun s c w => waitaReady 4 (atLane .x 2) s c w &&
      (lanesOf c.mask).any (fun l => waitaVal 4 (atLane .x 2) s c w l != 5)) (by decide +kernel),
    readyAt_all (α := Word) (fun _ => .racq (.s 2)) (fun n => onWarp (allU n)) (fun n s c _ => relB .pkg s c &&
      s.rdU c (.s 2) == n && (decide (Config.cores ≤ n.toNat) || !(s.core n.toNat).disabled)) (by decide +kernel),
    resumes_spec (s := tagged { why := .racq, phase := 1, arg := 3 } (placed (.racq (.s 2))))
      (p := fun s _ _ => (s.core 3).racq.isEmpty) (by decide +kernel)⟩

/-- The premises of the SLD statement. -/
def sldReady (n : Nat) (d : LSpec) (s : State) (c : Ctx) (w : Warp) : Bool :=
  match s.block (blkOf c.wid) with
  | none => false
  | some b => match b.streams.getD n none with
    | none => false
    | some z =>
      let user := !(c.inHandler || c.inGraft)
      let e (l : Nat) : Nat := z.pos + ((List.range l).filter c.mask.getLsbD).length
      let ips (l : Nat) : Except FaultInfo (List Piece) := s.reach c l (rcSp (rcIspace z.rcd)) (rcWrap (rcIspace z.rcd)
        ((rcF z.rcd 320 64 : Nat) + rcOff z.rcd (e l))) (2 ^ rcIwidth z.rcd) .read
      let idx (l : Nat) : Int := match ips l with
        | .ok ps => leNat (ps.flatMap (fun p => p.bytes s c false))
        | .error _ => 0
      let base : Int := (rcF z.rcd 0 64 : Nat)
      let at0 (l : Nat) : Int :=
        if rcInd z.rcd then base + idx l * 2 ^ rcIscale z.rcd else base + rcOff z.rcd (e l)
      noStoresB s c && sldDestOk w (lowLane c.mask) (rcRegs z.rcd) d &&
        (lanesOf c.mask).all (fun l => (!user || (w.lane l).elem.isNone) && (decide (rcTotal z.rcd ≤ e l) ||
          (!rcInd z.rcd || (match ips l with | .ok ps => ps.all (cleanB s c false) | .error _ => false)) &&
          match s.reach c l (rcSp (rcSpace z.rcd)) (rcWrap (rcSpace z.rcd) (at0 l)) (2 ^ rcEsize z.rcd) .read with
          | .ok ps => ps.all (cleanB s c false)
          | .error _ => false))

theorem wit_StreamSlots :
    (∀ r ∈ [recDirect, recIndex], ∃ s c w, Issues (.sarm 7 (.s 4)) s c w ∧ (noStoresB s c &&
      decide ((s.rdU64 c (.s 4)).toNat % 64 = 0) && rcValid r &&
      (match s.globPieces c.core (s.asidOf c.wid) (c.inHandler || c.inGraft) .read 2 (s.rdU64 c (.s 4)) 64 with
        | .ok ps => ps.all (cleanB s c false) && BitVec.ofNat 512 (leNat (ps.flatMap (fun p => p.bytes s c false))) == r
        | .error _ => false)) = true) ∧
    (∀ n ∈ [(0 : Fin 8), 7], ∃ s c w, Issues (.sdis n) s c w) ∧
    -- at the first element, at the last ones, past the end; direct and by index
    (∀ x ∈ [(recDirect, 0), (recDirect, 3), (recDirect, 6), (recIndex, 0), (recIndex, 4)], ∃ s c w,
      Issues (.sld (.v 3) 7 (some 2)) s c w ∧ (sldReady 7 (.v 3) s c w &&
        (s.block 0).any (fun b => b.streams.getD 7 none == some { rcd := x.1, pos := x.2 })) = true) :=
  ⟨readyAt_all (α := BitVec 512) (fun _ => .sarm 7 (.s 4)) (fun r s => onWarp (fun w => { w with u := [(4, 0x3C0)] })
      { s with mem := wrMem 0x3C0 (natLe 64 r.toNat) s.mem })
    (fun r s c _ => noStoresB s c && decide ((s.rdU64 c (.s 4)).toNat % 64 = 0) && rcValid r &&
      (match s.globPieces c.core (s.asidOf c.wid) (c.inHandler || c.inGraft) .read 2 (s.rdU64 c (.s 4)) 64 with
        | .ok ps => ps.all (cleanB s c false) && BitVec.ofNat 512 (leNat (ps.flatMap (fun p => p.bytes s c false))) == r
        | .error _ => false)) (by decide +kernel),
    by
      intro n hn
      obtain ⟨s, c, w, h, -⟩ := readyAt_all (α := Fin 8) (xs := [0, 7]) (fun n => .sdis n) (fun _ s => s)
        (fun _ _ _ _ => true) (by decide +kernel) n hn
      exact ⟨s, c, w, h⟩,
    readyAt_all (α := BitVec 512 × Nat) (fun _ => .sld (.v 3) 7 (some 2))
      (fun x s => armed 7 { rcd := x.1, pos := x.2 } (withData s)) (fun x s c w => sldReady 7 (.v 3) s c w &&
        (s.block 0).any (fun b => b.streams.getD 7 none == some { rcd := x.1, pos := x.2 })) (by decide +kernel)⟩

theorem wit_CircularBuffers :
    (∃ s c w, Issues (.cbrsv (.s 4) 0) s c w ∧ ((buf0 s c).any (fun x => x.slots.getD x.pr .acquired == .free &&
      x.resWait.isEmpty)) = true) ∧
    (∃ s c w, Issues (.cbrsv (.s 4) 0) s c w ∧ ((buf0 s c).any (fun x => x.slots.getD x.pr .acquired == .free &&
      x.resWait.head? == some c.wid && x.pr == 1)) = true) ∧
    (∃ s c w, Issues (.cbrsv .zero 0) s c w ∧ ((buf0 s c).any (fun x => x.slots.getD x.pr .acquired != .free)) =
      true) ∧
    (∀ p ∈ [0, 1], ∃ s c w, Issues (.cbcmt 0) s c w ∧ (relB .block s c && (buf0 s c).any (fun x => x.sw == [1, 0] &&
      x.pf == p)) = true) ∧
    (∀ g ∈ [([] : List (Nat × Scope)), [(1, .sys)]], ∃ s c w, Issues (.cbacq (.s 4) 0) s c w ∧ ((buf0 s c).any (fun x =>
      x.slots.getD x.ca .free == .filled && x.acqWait.isEmpty && x.marks.isEmpty && x.rels == g)) = true) ∧
    ∃ s c w, Issues (.cbrel 0) s c w ∧ ((buf0 s c).any (fun x => x.acq == [1, 0])) = true :=
  ⟨readyAt_spec (f := id) (p := fun s c _ => (buf0 s c).any (fun x => x.slots.getD x.pr .acquired == .free &&
      x.resWait.isEmpty)) (by decide +kernel),
    readyAt_spec (f := onBuf (fun x => { x with pr := 1, resWait := [0, 1] })) (p := fun s c _ => (buf0 s c).any (fun x =>
      x.slots.getD x.pr .acquired == .free && x.resWait.head? == some c.wid && x.pr == 1)) (by decide +kernel),
    readyAt_spec (f := onBuf (fun x => { x with slots := [.reserved, .free] })) (p := fun s c _ => (buf0 s c).any (fun x =>
      x.slots.getD x.pr .acquired != .free)) (by decide +kernel),
    readyAt_all (α := Nat) (fun _ => .cbcmt 0) (fun p => onBuf (fun x => { x with
        slots := [.reserved, .reserved], sw := [1, 0], pf := p }))
      (fun p s c _ => relB .block s c && (buf0 s c).any (fun x => x.sw == [1, 0] && x.pf == p)) (by decide +kernel),
    readyAt_all (α := List (Nat × Scope)) (fun _ => .cbacq (.s 4) 0) (fun g => onBuf (fun x => { x with
        slots := [.free, .filled], ca := 1, rels := g }))
      (fun g s c _ => (buf0 s c).any (fun x => x.slots.getD x.ca .free == .filled && x.acqWait.isEmpty &&
        x.marks.isEmpty && x.rels == g)) (by decide +kernel),
    readyAt_spec (f := onBuf (fun x => { x with slots := [.acquired, .acquired], acq := [1, 0] }))
      (p := fun s c _ => (buf0 s c).any (fun x => x.acq == [1, 0])) (by decide +kernel)⟩

/-- A copy between spaces, with a counter, and with release and acquire or without. -/
def cpyOf (ra : Bool) (sk dk : Fin 4) (ss ds : Fin 8) : CpyCtl :=
  { rscope := if ra then .pkg else .thread, ascope := if ra then .sys else .thread, rel := ra, acq := ra, wctr := 3, cb := 0,
    dspace := ds, sspace := ss, dkind := dk, skind := sk }

/-- The premises of the CPY statement. -/
def cpyReady (d a : USpec) (len : CpyLen) (k : CpyCtl) (s : State) (c : Ctx) : Bool :=
  let adr (u : USpec) (kind : Fin 4) (sp : Fin 8) : DWord :=
    if kind.val = 1 ∨ sp.val = 0 then s.rdU64 c u else (s.rdU c u).setWidth 64
  let sa := adr a k.skind k.sspace
  let da := if k.dkind.val = 2 then 0 else adr d k.dkind k.dspace
  let n := match len with
    | .uni u => (s.rdU c u).toNat
    | .imm x => x.toNat
  (s.block (blkOf c.wid)).isSome && (s.cpyFault (blkOf c.wid) k sa da n).isNone &&
    (tgetD [] (spillKey (s.jobOf c.wid) c.core) s.spill).isEmpty && decide (qWeight (s.core c.core).queue + 1 ≤ 64)

/-- Counter 3 of warp 0. -/
def counted (k : WaitCtr) (w : Warp) : Warp := { w with w := w.w.set 3 k }

theorem wit_CopyCommands :
    -- linear between spaces, from a stream, into a buffer at its whole slot
    (∀ x ∈ [(USpec.s 4, CpyLen.imm 32, cpyOf true 0 0 0 0), (.s 2, .uni (.s 3), cpyOf false 0 0 1 2),
        (.s 4, .imm 0, cpyOf false 1 1 0 0), (.zero, .imm 128, cpyOf true 0 2 0 0), (.s 4, .imm 0, cpyOf false 0 0 0 0)],
      ∃ s c w, Issues (.cpy x.1 (.s 6) x.2.1 x.2.2) s c w ∧ cpyReady x.1 (.s 6) x.2.1 x.2.2 s c = true) ∧
    -- a counter equal to the value and one past it, with an error, and short of it
    (∀ k ∈ [({ val := 64, time := 9, err := none, rels := [(64, .sys)] } : WaitCtr), { val := 0x7FFFFFFF, time := 0, err := none, rels := [] }],
      ∃ s c w, Issues (.cpyw 3 (.imm 64)) s c w ∧ (w.wctr (lowLane c.mask) 3 == k && decide (0 ≤ (k.val - 64).toInt) &&
        k.err.isNone) = true) ∧
    (∃ s c w b L, Issues (.cpyw 3 (.reg (.s 2))) s c w ∧ ((w.wctr (lowLane c.mask) 3).err == some { code := 7 } &&
        decide (0 ≤ ((w.wctr (lowLane c.mask) 3).val - s.rdU c (.s 2)).toInt)) = true ∧ TrapReady { code := 7 } s c w ∧
      s.block (blkOf c.wid) = some b ∧ s.launch b.launch = some L) ∧
    ∀ v ∈ [(63 : Word), 0x80000040], ∃ s c w, Issues (.cpyw 3 (.imm 64)) s c w ∧
      ((w.wctr (lowLane c.mask) 3).val == v && decide (((w.wctr (lowLane c.mask) 3).val - 64).toInt < 0)) = true :=
  ⟨readyAt_all (α := USpec × CpyLen × CpyCtl) (fun x => .cpy x.1 (.s 6) x.2.1 x.2.2)
      (fun _ => onWarp (fun w => { w with u := [(3, 48), (4, 0x80), (6, 0x40)] }))
      (fun x s c _ => cpyReady x.1 (.s 6) x.2.1 x.2.2 s c) (by decide +kernel),
    readyAt_all (α := WaitCtr) (fun _ => .cpyw 3 (.imm 64)) (fun k => onWarp (counted k)) (fun k _ c w =>
      w.wctr (lowLane c.mask) 3 == k && decide (0 ≤ (k.val - 64).toInt) && k.err.isNone) (by decide +kernel),
    traps_at (f := onWarp (counted { val := 5, time := 9, err := some { code := 7 }, rels := [] }))
      (fun _ _ _ => { code := 7 }) (fun s c w => (w.wctr (lowLane c.mask) 3).err == some { code := 7 } &&
        decide (0 ≤ ((w.wctr (lowLane c.mask) 3).val - s.rdU c (.s 2)).toInt)) (by decide +kernel),
    readyAt_all (α := Word) (fun _ => .cpyw 3 (.imm 64)) (fun v => onWarp (counted { val := v, time := 9, err := none, rels := [] }))
      (fun v _ c w => (w.wctr (lowLane c.mask) 3).val == v && decide (((w.wctr (lowLane c.mask) 3).val - 64).toInt < 0))
      (by decide +kernel)⟩

/-- The premise `ok` of the matrix arrivals. -/
def matrixOk (op : MOp) (tile : Nat) (da db : BitVec 128) (fs : List Word) (s : State) (c : Ctx) (w : Warp) : Bool :=
  (s.block (blkOf c.wid)).any (fun b => decide (tile < b.tiles.length)) && w.gangFault.isNone &&
    (s.tile (blkOf c.wid) tile).pinfo.isNone && (s.tile (blkOf c.wid) tile).pending.all (fun e => e.1 != c.wid) &&
    (s.matrixCheck c w op da db fs).isNone

/-- The arrival of this warp: none of a gang, not the last, or the last of its gang, which records the same. -/
def arriveKind (op : MOp) (tile : Nat) (da db : BitVec 128) (fs : List Word) (k : Nat) (s : State) (c : Ctx) (w : Warp) : Bool :=
  let n := w.arrCount + 1
  let cap := (s.core c.core).nextSq
  let a : Arrival := { op := op, tile := tile, da := da, db := db, fmt := fs.headD 0, ord := n, priv := c.inHandler || c.inGraft, capt := cap }
  let others := s.members c.wid w.gang
  let theirs (x : Nat) : Option Arrival := ((s.warp x).map Warp.arrivals).bind (fun as => as.find? (fun y => y.ord == n))
  let all := decide (others.length + 1 = maskCount w.gang) && others.all (fun x => (theirs x).isSome)
  matrixOk op tile da db fs s c w && match k with
    | 0 => w.gang == 0 && decide ((s.core c.core).mq.length < 16)
    | 1 => w.gang != 0 && decide (w.arrivals.length < 4) && !all
    | _ => w.gang != 0 && decide (w.arrivals.length < 4) && all && decide ((s.core c.core).mq.length < 16) &&
        others.all (fun x => match s.warp x, theirs x with
          | some v, some y => v.gang == w.gang && { y with capt := cap, priv := c.inHandler || c.inGraft } == a
          | _, _ => false)

/-- A descriptor of rows 256 bytes apart from address 0 on. -/
def rows256 : BitVec 128 := BitVec.ofNat 128 (256 * 2 ^ 64)

/-- It stands in s8 to s11 and s12 to s15. -/
def descRegs (w : Warp) : Warp := { w with u := [(10, 256), (14, 256)] }

/-- A gang of warps 0 and 1, of which warp 1 has arrived with `a` or not. -/
def ganged (a : Option Arrival) (s : State) : State :=
  withSister (fun w => { w with gang := 3, arrivals := a.toList, arrCount := a.toList.length })
    (onWarp (fun w => { w with gang := 3 }) s)

def gangedAt (a : Option Arrival) (s : State) : State := ganged a (onWarp descRegs s)

theorem wit_MatrixArrivals :
    (∀ k ∈ [0, 1, 2], ∃ s c w, Issues (.mma 31 (.s 8) (.s 12) (.v 4)) s c w ∧
      arriveKind .mma 31 (s.rdDesc c (.s 8)) (s.rdDesc c (.s 12)) ((lanesOf c.mask).map (fun l => w.rdL l (.v 4))) k s c w = true) ∧
    (∀ k ∈ [0, 1, 2], ∃ s c w, Issues (.mmat 0 (.s 8) (.s 12) .zero) s c w ∧
      arriveKind .mmat 0 (s.rdDesc c (.s 8)) (s.rdDesc c (.s 12)) ((lanesOf c.mask).map (fun l => w.rdL l .zero)) k s c w = true) ∧
    (∀ k ∈ [0, 1, 2], ∃ s c w, Issues (.tld 1 (.s 8)) s c w ∧ arriveKind .tld 1 (s.rdDesc c (.s 8)) 0 [] k s c w = true) ∧
    (∀ k ∈ [0, 1, 2], ∃ s c w, Issues (.tst 1 (.s 8)) s c w ∧ arriveKind .tst 1 (s.rdDesc c (.s 8)) 0 [] k s c w = true) ∧
    ∀ k ∈ [0, 1, 2], ∃ s c w, Issues (.tzero 31) s c w ∧ arriveKind .tzero 31 0 0 [] k s c w = true := by
  refine ⟨?_, ?_, ?_, ?_, ?_⟩
  · exact readyAt_all (α := Nat) (fun _ => .mma 31 (.s 8) (.s 12) (.v 4)) (fun k => if k = 0 then onWarp descRegs else
      gangedAt (if k = 1 then none else some { op := .mma, tile := 31, da := rows256, db := rows256, fmt := 0, ord := 1, priv := true, capt := 5 }))
      (fun k s c w => arriveKind .mma 31 (s.rdDesc c (.s 8)) (s.rdDesc c (.s 12)) ((lanesOf c.mask).map (fun l => w.rdL l (.v 4))) k s c w)
      (by decide +kernel)
  · exact readyAt_all (α := Nat) (fun _ => .mmat 0 (.s 8) (.s 12) .zero) (fun k => if k = 0 then onWarp descRegs else
      gangedAt (if k = 1 then none else some { op := .mmat, tile := 0, da := rows256, db := rows256, fmt := 0, ord := 1, priv := true, capt := 5 }))
      (fun k s c w => arriveKind .mmat 0 (s.rdDesc c (.s 8)) (s.rdDesc c (.s 12)) ((lanesOf c.mask).map (fun l => w.rdL l .zero)) k s c w)
      (by decide +kernel)
  · exact readyAt_all (α := Nat) (fun _ => .tld 1 (.s 8)) (fun k => if k = 0 then onWarp descRegs else
      gangedAt (if k = 1 then none else some { op := .tld, tile := 1, da := rows256, db := 0, fmt := 0, ord := 1, priv := true, capt := 5 }))
      (fun k s c w => arriveKind .tld 1 (s.rdDesc c (.s 8)) 0 [] k s c w) (by decide +kernel)
  · exact readyAt_all (α := Nat) (fun _ => .tst 1 (.s 8)) (fun k => if k = 0 then onWarp descRegs else
      gangedAt (if k = 1 then none else some { op := .tst, tile := 1, da := rows256, db := 0, fmt := 0, ord := 1, priv := true, capt := 5 }))
      (fun k s c w => arriveKind .tst 1 (s.rdDesc c (.s 8)) 0 [] k s c w) (by decide +kernel)
  · exact readyAt_all (α := Nat) (fun _ => .tzero 31) (fun k => if k = 0 then onWarp descRegs else
      gangedAt (if k = 1 then none else some { op := .tzero, tile := 31, da := 0, db := 0, fmt := 0, ord := 1, priv := true, capt := 5 }))
      (fun k s c w => arriveKind .tzero 31 0 0 [] k s c w) (by decide +kernel)

/-- A tile of the placed block, changed. -/
def onTile (n : Nat) (f : Tile → Tile) (s : State) : State := s.modTile 0 n f

/-- GANG reads `m`, which names the warp and no warp beyond the block's last, or does not (`ok`). -/
def gangCase (ok : Bool) (m : Word) (s : State) (c : Ctx) (w : Warp) : Bool :=
  s.rdU c (.s 2) == m && w.gangFault.isNone && w.arrivals.isEmpty && (s.block (blkOf c.wid)).any (fun b =>
    (m == 0 || m.getLsbD w.num && decide (m.toNat < 2 ^ b.nwarps)) == ok)

theorem wit_GangsAndTileStatus :
    -- GANG with a mask that fits (none, the warp itself) and one that does not
    (∀ m ∈ [(0 : Word), 1], ∃ s c w, Issues (.gang (.s 2)) s c w ∧ gangCase true m s c w = true) ∧
    (∀ m ∈ [(2 : Word), 3], ∃ s c w b L, Issues (.gang (.s 2)) s c w ∧ gangCase false m s c w = true ∧
      TrapReady { code := 0x09, cause := 5 } s c w ∧ s.block (blkOf c.wid) = some b ∧ s.launch b.launch = some L) ∧
    (∃ s c w b L, Issues (.gang (.s 2)) s c w ∧ (w.gangFault == some { code := 0x16 }) = true ∧
      TrapReady { code := 0x16 } s c w ∧ s.block (blkOf c.wid) = some b ∧ s.launch b.launch = some L) ∧
    -- TWAIT with no fault pending for the warp, and with one
    (∃ s c w, Issues (.twait 31) s c w ∧ ((s.block (blkOf c.wid)).any (fun b => decide (31 < b.tiles.length)) &&
      w.gangFault.isNone && w.arrivals.isEmpty && (s.core c.core).mq.isEmpty && (s.tile 0 31).pending.isEmpty &&
      (s.tile 0 31).tsts == [{ id := 0, warps := [0], gwct := 9 }, { id := 9999, warps := [3], gwct := 12 }]) = true) ∧
    (∃ s c w b L, Issues (.twait 0) s c w ∧ (w.gangFault.isNone && w.arrivals.isEmpty && (s.core c.core).mq.isEmpty &&
      decide (((s.tile 0 0).pending.find? (fun e => e.1 == c.wid)).map Prod.snd = some { code := 0x0E })) = true ∧
      TrapReady { code := 0x0E } s c w ∧ s.block (blkOf c.wid) = some b ∧ s.launch b.launch = some L) ∧
    ∀ clr ∈ [true, false], ∃ s c w, Issues (.tstat clr (.s 4) 31) s c w ∧ ((s.block (blkOf c.wid)).any (fun b =>
      decide (31 < b.tiles.length)) && s.warps.all (fun e => e.2.arrivals.isEmpty) && (s.tile 0 31).nv &&
      (s.tile 0 31).pcause == 3) = true :=
  ⟨readyAt_all (α := Word) (fun _ => .gang (.s 2)) (fun m => onWarp (allU m)) (gangCase true) (by decide +kernel),
    traps_all (α := Word) (fun _ => .gang (.s 2)) (fun m => onWarp (allU m)) (fun _ _ _ _ => { code := 0x09, cause := 5 })
      (gangCase false) (by decide +kernel),
    traps_at (f := onWarp (fun w => { w with gangFault := some { code := 0x16 } })) (fun _ _ _ => { code := 0x16 })
      (fun _ _ w => w.gangFault == some { code := 0x16 }) (by decide +kernel),
    readyAt_spec (f := onTile 31 (fun x => { x with tsts := [{ id := 0, warps := [0], gwct := 9 }, { id := 9999, warps := [3], gwct := 12 }] })) (p := fun s c w =>
      (s.block (blkOf c.wid)).any (fun b => decide (31 < b.tiles.length)) &&
      w.gangFault.isNone && w.arrivals.isEmpty && (s.core c.core).mq.isEmpty && (s.tile 0 31).pending.isEmpty &&
      (s.tile 0 31).tsts == [{ id := 0, warps := [0], gwct := 9 }, { id := 9999, warps := [3], gwct := 12 }]) (by decide +kernel),
    traps_at (f := onTile 0 (fun x => { x with pending := [(7, { code := 1 }), (0, { code := 0x0E })] }))
      (fun _ _ _ => { code := 0x0E }) (fun s c w => w.gangFault.isNone && w.arrivals.isEmpty && (s.core c.core).mq.isEmpty &&
      decide (((s.tile 0 0).pending.find? (fun e => e.1 == c.wid)).map Prod.snd = some { code := 0x0E })) (by decide +kernel),
    readyAt_all (α := Bool) (fun clr => .tstat clr (.s 4) 31) (fun _ => onTile 31 (fun x => { x with nv := true, pcause := 3 }))
      (fun _ s c _ => (s.block (blkOf c.wid)).any (fun b => decide (31 < b.tiles.length)) &&
        s.warps.all (fun e => e.2.arrivals.isEmpty) && (s.tile 0 31).nv && (s.tile 0 31).pcause == 3) (by decide +kernel)⟩

/-- A matrix command on tile 31 of block 0, from warp 0. -/
def mcmd (op : MOp) (fmt : Word) (st : MStage) : MCmd :=
  { id := 0, op := op, blk := 0, tile := 31, da := BitVec.ofNat 128 (2 ^ 96), db := BitVec.ofNat 128 (2 ^ 96), fmt := fmt,
    warps := [(0, 0)], priv := false, stage := st, abytes := [], bbytes := [], early := [], units := 0, gwct := 0, bad := none }

/-- The placed block with a command at the head of its core's matrix queue. -/
def withCmd (m : MCmd) : State := (placed .nop).modCore 0 (fun k => { k with mq := [m] })

theorem wit_MatrixExecution_start : ∀ m ∈ [mcmd .tzero 0 .queued, mcmd .tld 0 .queued, mcmd .mma 0 .queued, mcmd .mmat 4 .queued],
    ((withCmd m).core 0).mq[0]? = some m ∧ m.stage = .queued ∧ ((withCmd m).core 0).sq = [] ∧
    (m.op ≠ .tzero → (match (withCmd m).fetchRows m false (if m.op = .tld then 256 else fmRow (fmFmt m.fmt)) 64 0 with
      | some (.ok _) => true | _ => false) = true) ∧
    (m.op = .mma ∨ m.op = .mmat → (match (withCmd m).fetchRows m true (fmRow (fmFmt m.fmt)) 64 0 with
      | some (.ok _) => true | _ => false) = true) ∧ m.abytes = [] ∧ m.bbytes = [] := by
  decide +kernel

/-- The masked command of `wit_MatrixExecution_check`: a constant 0 above the diagonal -128. -/
def maskedCmd : MCmd := mcmd .mmat 0x06000000 .started

/-- A row or column of elements that are all checked directly never fails. -/
theorem sumFails_direct (l : List Nat) :
    sumFails 0 (l.map (fun _ => { direct := true, o := 0, p := 0, mag := 0 })) = false := by
  have h : (l.map (fun _ => ({ direct := true, o := 0, p := 0, mag := 0 } : ChkElem))).filter (fun e => !e.direct) = [] := by
    simp
  unfold sumFails
  rw [h]
  decide +kernel

theorem getD_const {α : Type} (l : List Nat) (a : α) (k : Nat) : (l.map (fun _ => a)).getD k a = a := by
  rw [List.getD_eq_getElem?_getD, List.getElem?_map]
  cases l[k]? <;> rfl

theorem getD_const2 {α : Type} (l : List Nat) (a : α) (i j : Nat) :
    ((l.map (fun _ => l.map (fun _ => a))).getD i []).getD j a = a := by
  have h : (l.map (fun _ => l.map (fun _ => a))).getD i [] = [] ∨
      (l.map (fun _ => l.map (fun _ => a))).getD i [] = l.map (fun _ => a) := by
    rw [List.getD_eq_getElem?_getD, List.getElem?_map]
    cases l[i]? with
    | none => exact Or.inl rfl
    | some x => exact Or.inr rfl
  rcases h with h | h <;> rw [h]
  · rfl
  · exact getD_const l a j

/-- Nothing is found where every element is masked. -/
theorem findings_masked (old : Nat → Nat → Word) (good : Nat → Nat → Word) :
    findings maskedCmd maskedCmd.rows old good good = ([], [], []) := by
  have hm : ∀ i j : Nat, i < 64 → isMasked maskedCmd i j = true := by
    intro i j hi
    have h1 : fmDiag maskedCmd.fmt = -128 := by decide
    have h2 : (maskedCmd.op == MOp.mmat) = true := by decide
    simp only [isMasked, h1, h2, Bool.true_and, decide_eq_true_eq]
    omega
  have hg : (List.range 64).map (fun i => (List.range 64).map (fun j =>
      chkElem maskedCmd maskedCmd.rows (old i j) (good i j) i j)) =
      (List.range 64).map (fun _ => (List.range 64).map (fun _ => ({ direct := true, o := 0, p := 0, mag := 0 } : ChkElem))) := by
    refine List.map_congr_left (fun i hi => List.map_congr_left (fun j _ => ?_))
    rw [chkElem, if_pos (hm i j (List.mem_range.1 hi))]
  have ha : ∀ i j : Nat, ((((List.range 64).map (fun _ => (List.range 64).map
      (fun _ => ({ direct := true, o := 0, p := 0, mag := 0 } : ChkElem)))).getD i []).getD j
      { direct := true, o := 0, p := 0, mag := 0 }) = { direct := true, o := 0, p := 0, mag := 0 } := by
    exact fun i j => getD_const2 _ _ i j
  simp only [findings]
  rw [hg]
  simp only [ha, bne_self_eq_false, Bool.and_false, List.filter_false]
  have f0 : fmFmt maskedCmd.fmt = 0 := by decide
  simp only [f0, sumFails_direct, List.filter_false]

theorem wit_MatrixExecution_check :
    (∀ m ∈ [mcmd .mma 4 .started, maskedCmd], ((withCmd m).core 0).mq[0]? = some m ∧ m.stage = .started ∧ m.bad = none ∧
      ((withCmd m).block 0).any (fun b => !b.done && decide (m.tile < b.tiles.length)) = true ∧
      ((withCmd m).tile 0 31).pinfo = none) ∧
    ∀ old good : Nat → Nat → Word, findings maskedCmd maskedCmd.rows old good good = ([], [], []) :=
  ⟨by decide +kernel, findings_masked⟩

theorem wit_MatrixExecution_transfer : ∀ m ∈ [mcmd .tzero 0 .started, mcmd .tld 0 .started, mcmd .tst 0 .started],
    ((withCmd m).core 0).mq[0]? = some m ∧ m.stage = .started ∧ m.bad = none ∧ m.units = 0 ∧
    ((withCmd m).block 0).any (fun b => !b.done && decide (m.tile < b.tiles.length) && b.core == 0) = true ∧
    dSpace m.da = 1 ∧ ((withCmd m).tile 0 31).pcause = 0 ∧ ((withCmd m).tile 0 31).pinfo = none ∧
    ((withCmd m).tile 0 31).sums = tileSums ((withCmd m).tile 0 31).elems ∧
    ∀ i : Nat, i < 64 → (match (withCmd m).scratchPlace 0 1 (dBase m.da + i * dStride m.da) 256 with
      | .ok (.scr 0 o) => o == (dBase m.da + i * dStride m.da) | _ => false) = true := by
  decide +kernel

/-- Reserved bits of a control register that takes an address. -/
def ctlZero (r : CtlReg) : DWord :=
  if r = .trapbase then 0xFF80000000000002 else if r = .grovebase then 0xFF800000000001FE else 0xFF80000000000E0E

theorem wit_ControlRegisters :
    (∀ r ∈ [CtlReg.fpflags, .chkmode, .lwct, .trapbase, .grovebase, .callq, .asid, .ctxsave, .capbase, .mismatch, .graftgen],
      ∃ s c w, Issues (.rdctl (.s 4) r) s c w ∧ ((s.block (blkOf c.wid)).bind (fun b => s.launch b.launch)).isSome = true) ∧
    (∀ r ∈ [CtlReg.fpflags, .chkmode], ∃ s c w, Issues (.wrctl r (.s 4)) s c w ∧ (s.rdU c (.s 4) == 0xFFFFFFFF) = true) ∧
    (∀ x ∈ [(CtlReg.trapbase, (0x55 : Word), (0x007FFFFF : Word)), (.trapbase, 0, 0), (.grovebase, 0xFFFFFE01, 0x007FFFFF), (.grovebase, 1, 0),
        (.callq, 0xFFFFF1F1, 0x007FFFFF), (.callq, 1, 0)], ∃ s c w, Issues (.wrctl x.1 (.s 4)) s c w ∧
      ((s.block (blkOf c.wid)).isSome && s.rdU64 c (.s 4) == x.2.1.setWidth 64 + x.2.2.setWidth 64 * 0x100000000 &&
        s.rdU64 c (.s 4) &&& ctlZero x.1 == 0) = true) :=
  ⟨readyAt_all (α := CtlReg) (fun r => .rdctl (.s 4) r) (fun _ s => s)
      (fun _ s c _ => ((s.block (blkOf c.wid)).bind (fun b => s.launch b.launch)).isSome) (by decide +kernel),
    readyAt_all (α := CtlReg) (fun r => .wrctl r (.s 4)) (fun _ => onWarp (allU 0xFFFFFFFF))
      (fun _ s c _ => s.rdU c (.s 4) == 0xFFFFFFFF) (by decide +kernel),
    readyAt_all (α := CtlReg × Word × Word) (fun x => .wrctl x.1 (.s 4)) (fun x => onWarp (fun w => { w with u := [(4, x.2.1), (5, x.2.2)] }))
      (fun x s c _ => (s.block (blkOf c.wid)).isSome && s.rdU64 c (.s 4) == x.2.1.setWidth 64 + x.2.2.setWidth 64 * 0x100000000 &&
        s.rdU64 c (.s 4) &&& ctlZero x.1 == 0) (by decide +kernel)⟩

/-- Requests to grow that wait at a partition. -/
def blockedAt (s : State) (core part : Nat) : List GrowReq :=
  (s.core core).grow.filter (fun g => g.part == part && g.answer.isNone)

/-- REGGROW to 8 v: it has that many (0), the partition has room (1) or has none (2). -/
def growCase (v k : Nat) (s : State) (c : Ctx) (w : Warp) : Bool :=
  let room := (blockedAt s c.core c.part).isEmpty && decide (8 * v ≤ w.vregs + s.freeRegs c.core c.part)
  (s.core c.core).grow.all (fun g => g.who != 32 * c.wid + lowLane c.mask) && match k with
    | 0 => decide (8 * v ≤ w.vregs)
    | 1 => decide (w.vregs < 8 * v) && room
    | _ => decide (w.vregs < 8 * v) && !room

/-- The placed warp with 8 registers per lane, and what waits at its core. -/
def growing (vr : Nat) (gs : List GrowReq) (s : State) : State :=
  State.modCore 0 (fun k => { k with grow := gs }) (onWarp (fun w => { w with vregs := vr }) s)

/-- Warp 1 with `n` registers per lane asks for `want`. -/
def asking (n want others : Nat) : State :=
  withSister (fun w => { w with vregs := n }) (growing others [{ who := 32, wid := 1, part := 0, want := want, answer := none }] (placed .nop))

theorem wit_RegisterAllotments :
    (∀ x ∈ [(14, 112, ([] : List GrowReq), 0), (1, 8, [], 0), (14, 8, [], 1), (2, 8, [{ who := 288, wid := 9, part := 1, want := 16, answer := none }], 1),
        (2, 8, [{ who := 288, wid := 9, part := 0, want := 16, answer := none }], 2)], ∃ s c w, Issues (.reggrow 7 (Fin.ofNat 16 x.1)) s c w ∧
      (growCase x.1 x.2.2.2 s c w && w.vregs == x.2.1) = true) ∧
    (∀ b ∈ [true, false], ∃ s c w, Resumes s c w { why := .reggrow, phase := 0, arg := 0 } ∧
      (((s.core c.core).grow.find? (fun g => g.who == 32 * c.wid + lowLane c.mask)).bind GrowReq.answer == some b) = true) ∧
    (∀ v ∈ [(1 : Fin 16), 14], ∃ s c w, Issues (.regshr v) s c w ∧ decide (8 * v.val ≤ w.vregs) = true) ∧
    (match blockedAt (asking 8 112 8) 0 0, (asking 8 112 8).warp 1 with
      | [g], some w => g.wid == 1 && w.bad.isEmpty && decide (w.vregs ≤ g.want) &&
        decide (g.want ≤ w.vregs + (asking 8 112 8).freeRegs 0 0)
      | _, _ => false) = true ∧
    (match blockedAt (asking 8 112 2040) 0 0, (asking 8 112 2040).warp 1 with
      | [g], some w => g.wid == 1 && decide (w.vregs + (asking 8 112 2040).freeRegs 0 0 < g.want)
      | _, _ => false) = true := by
  refine ⟨?_, ?_, ?_, by decide +kernel, by decide +kernel⟩
  · exact readyAt_all (α := Nat × Nat × List GrowReq × Nat) (fun x => .reggrow 7 (Fin.ofNat 16 x.1)) (fun x => growing x.2.1 x.2.2.1)
      (fun x s c w => growCase x.1 x.2.2.2 s c w && w.vregs == x.2.1) (by decide +kernel)
  · intro b hb
    have h : [true, false].all (fun b => resumesB { why := .reggrow, phase := 0, arg := 0 } (tagged { why := .reggrow, phase := 0, arg := 0 }
        (growing 8 [{ who := 0, wid := 0, part := 0, want := 16, answer := some b }] (placed (.reggrow 7 2)))) (fun s c _ =>
        ((s.core c.core).grow.find? (fun g => g.who == 32 * c.wid + lowLane c.mask)).bind GrowReq.answer == some b)) = true := by decide +kernel
    exact resumes_spec (List.all_eq_true.1 h b hb)
  · exact readyAt_all (α := Fin 16) (fun v => .regshr v) (fun _ s => s) (fun v _ _ w => decide (8 * v.val ≤ w.vregs)) (by decide +kernel)

/-- The launch that LAUNCH of warp 0's launch makes of the header at the address in `a`. -/
def launched (tail : Bool) (a : USpec) (s : State) (c : Ctx) : Option Launch :=
  (s.launchOf c.wid).bind (fun P => s.accept { Launch.new s.nextLaunch P.job P.queue none P.graph P.phase with
    checked := true, tailOf := if tail then some P.id else none, parent := some P.id } (s.rdU64 c a).toNat
    (s.jState P.job == 3 || ((tget P.graph s.graphs).map Graph.cancelled).getD false))

theorem wit_DeviceLaunches :
    (∀ tail ∈ [true, false], ∃ s c w, Issues (.launch tail (.s 6) (.s 4)) s c w ∧ (relB .pkg s c &&
      decide ((s.rdU64 c (.s 4)).toNat % 128 = 0) && decide (s.slotsUsed < 65536) && (s.launchOf c.wid).isSome &&
      (launched tail (.s 4) s c).isSome) = true) ∧
    ∀ l ∈ [CancelLevel.launch, .graph, .phase, .job], ∃ s c w, Issues (.cancel l) s c w ∧ ((s.launchOf c.wid).any (fun L =>
      s.launch L.id == some L && L.stage == .running && (tget L.graph s.graphs).any (fun g => g.job == L.job && g.phase == L.phase) &&
      s.jState L.job != 0)) = true :=
  ⟨readyAt_all (α := Bool) (fun tail => .launch tail (.s 6) (.s 4)) (fun _ s => onWarp (fun w => { w with u := [(4, 0x40080)] }) s)
      (fun tail s c _ => relB .pkg s c && decide ((s.rdU64 c (.s 4)).toNat % 128 = 0) && decide (s.slotsUsed < 65536) &&
        (s.launchOf c.wid).isSome && (launched tail (.s 4) s c).isSome) (by decide +kernel),
    readyAt_all (α := CancelLevel) (fun l => .cancel l) (fun _ => withGraph)
      (fun _ s c _ => (s.launchOf c.wid).any (fun L =>
        s.launch L.id == some L && L.stage == .running && (tget L.graph s.graphs).any (fun g => g.job == L.job && g.phase == L.phase) &&
        s.jState L.job != 0)) (by decide +kernel)⟩

/-- The premises of the WCALL statement. -/
def wcallReady (u : USpec) (s : State) (c : Ctx) : Bool :=
  match (s.block (blkOf c.wid)).bind (fun b => s.launch b.launch) with
  | none => false
  | some L => (fget 0 L.job s.callq).getLsbD 0 && (s.rdU64 c u).toNat % 1024 == 0 &&
      (match s.reach c (lowLane c.mask) .g (s.rdU64 c u) 8 .write with
        | .ok [p] => p.va == s.rdU64 c u && p.n == 8 && (match p.place with | .glob ph => !s.writeDropped ph.loc | _ => false)
        | _ => false) && (tgetD [] (spillKey L.job c.core) s.spill).isEmpty &&
      decide (qWeight (s.core c.core).queue + 9 ≤ 64)

/-- A store of zeros that waits in a store queue. -/
def aStore (id : Nat) : SqEntry :=
  { id := id, wid := 0, launch := 0, line := 8, writes := [(0, 0x400, List.replicate 8 0)], vas := [0x400], strong := true, asid := 0,
    gwct := none }

/-- A call at the head of core 0's queue whose block lies at 0x400 and whose ring of 16 entries at 0x3000. -/
def calling (phase : Nat) (ring : List (Nat × Nat)) (rest : List QEntry) : State :=
  let r : WcallRec := { here := 9, sq := 7, time := 0, n := 3, job := 0, launch := 0, block := 0, base := 0x400, wid := 0, mask := 15, svc := 7, warpNum := 0,
                        reqs := [(31, [0, 0, 0, 5])], phase := phase }
  let s := State.modCore 0 (fun k => { k with queue := .wcall r :: rest }) (placed .nop)
  { s with callq := [(0, 0x3101)], mem := ring.foldl (fun m e => wrMem e.1 (natLe 8 e.2) m) s.mem }

theorem wit_ServiceCallsAndCheckpoint :
    (∃ s c w, Issues (.wcall (.s 6) (.v 4) 0xFFFF) s c w ∧ wcallReady (.s 6) s c = true) ∧
    (∀ k ∈ [(0 : Nat), 3], ∃ s c w, Issues .ckpt s c w ∧ (s.regF 0x280008 0 2 == k) = true) ∧
    (∀ n ∈ [(0 : Nat), 9], ∃ s c w, Resumes s c w { why := .ckpt, phase := 0, arg := n } ∧
      (decide (s.interval ≤ n) == (n == 9)) = true) ∧
    -- the drain: both parts of the block are written
    (match ((calling 0 [] []).core 0).queue, (calling 0 [] []).vWrite (viaCore 0 0) 0x410
        (natLe 4 15 ++ natLe 4 7 ++ List.replicate 40 0) with
      | .wcall r :: [], (.ok _, v1) => r.phase == 0 && r.here == 9 && (match v1.vWrite (viaCore 0 0) 0x440 (List.replicate 508 0 ++ natLe 4 5) with
        | (.ok _, _) => true | _ => false)
      | _, _ => false) = true ∧
    -- the ring full, and with room; nothing is left to wait for, or its stores of zero are
    ((calling 1 [(0x3000, 16)] []).vRead (viaCore 0 0) 0x3000 16 = .ok (natLe 8 16 ++ natLe 8 0) ∧
      (calling 1 [] []).inval = [] ∧ ((calling 1 [] []).core 0).sq.all (fun e => e.id != 7) = true ∧
      ((State.modCore 0 (fun k => { k with sq := [aStore 7] }) (calling 1 [] [])).core 0).sq.any (fun e => e.id == 7) = true) ∧
    (match (calling 1 [(0x3000, 3), (0x3008, 1)] [.trap 0 0]).vWrite (viaCore 0 0) 0x3000 (natLe 8 4) with
      | (.ok _, v1) => (match v1.vWrite (viaCore 0 0) 0x408 (natLe 8 3) with
        | (.ok _, v2) => (match v2.vWrite (viaCore 0 0) (0x3040 + 64 * 3) (natLe 8 0x400 ++ natLe 8 3 ++
          (natLe 4 15 ++ natLe 4 7 ++ List.replicate 40 0).take 32 ++ natLe 8 0) with
          | (.ok _, v3) => (match v3.vWrite (viaCore 0 0) (0x3040 + 64 * 3 + 0x38) (natLe 8 4) with | (.ok _, _) => true | _ => false)
          | _ => false)
        | _ => false)
      | _ => false) = true := by
  refine ⟨?_, ?_, ?_, by decide +kernel, by decide +kernel, by decide +kernel⟩
  · exact readyAt_spec (f := fun s => onWarp (fun w => { w with u := [(6, 0x400)] }) { s with callq := [(0, 1)] })
      (p := fun s c _ => wcallReady (.s 6) s c) (by decide +kernel)
  · exact readyAt_all (α := Nat) (fun _ => .ckpt) (fun k => State.setReg 0x280008 (BitVec.ofNat 32 k)) (fun k s _ _ => s.regF 0x280008 0 2 == k)
      (by decide +kernel)
  · intro n hn
    have h : [(0 : Nat), 9].all (fun n => resumesB { why := .ckpt, phase := 0, arg := n } (tagged { why := .ckpt, phase := 0, arg := n }
        (State.setReg 0x280010 3 (placed .ckpt))) (fun s _ _ => decide (s.interval ≤ n) == (n == 9))) = true := by decide +kernel
    exact resumes_spec (List.all_eq_true.1 h n hn)

/-- A request of lane `l` for the line at `pa`, with routine 5. -/
def lreq (l pa : Nat) (rep : Option (DWord × BitVec 8)) : LnxReq :=
  { lane := l, va := BitVec.ofNat 64 pa, pa := pa, index := 5, args := [1, 2, 3, 4], reply := rep, fault := none, head := false }

/-- Warp 0 has requests; job 0 has a routine table at `gb`. -/
def asks (qs : List LnxReq) (gb : DWord) (s : State) : State :=
  onWarp (fun w => { w with lnx := qs }) { s with grovebase := if gb = 0 then [] else [(0, gb)] }

/-- Warp 0 asks for the line at 0x5000, whose slice holds an entry of routine 5. -/
def served (cause : Nat) : State :=
  let s := asks [lreq 0 0x5000 none] 0x3001 (placed .nop)
  { s with grove := [{ slice := homeSlice 0x5000, asid := s.asidOf 0, base := s.gbase 0, index := 5, code := [0x00004000], cause := cause, stamp := 0 }] }

theorem wit_GroveRoutines_warp :
    (∀ ord ∈ [Ord4.none, .ar], ∃ s c w, Issues (.lnx ord (.v 10) .zero (.v 16) (.v 12) (.s 8) 3 5 1) s c w ∧ (relB .pkg s c &&
      noStoresB s c && (lanesOf c.mask).all (fun l => match s.lnxCheck c l (s.rdU64 c (.s 8) + ((w.rdL l .zero).signExtend 64 <<< 3) + 128)
        ((List.range 4).map (fun k => pair (w.rdL l (LSpec.plus (.v 16) (2 * k))) (w.rdL l (LSpec.plus (.v 16) (2 * k + 1))))) 5 with
        | .ok _ => true | .error _ => false)) = true) ∧
    ∃ s c w, Resumes s c w { why := .lnx, phase := 1, arg := 0 } ∧ (decide (w.lnx.map LnxReq.lane).Nodup &&
      w.lnx.all (fun r => r.reply == some (7, 0x80) && r.fault.isNone && decide (r.lane < 32)) &&
      (lanesOf c.mask).all (fun l => w.lnx.any (fun r => r.lane == l))) = true :=
  ⟨readyAt_all (α := Ord4) (fun ord => .lnx ord (.v 10) .zero (.v 16) (.v 12) (.s 8) 3 5 1) (fun _ s => s) (fun _ s c w => relB .pkg s c &&
      noStoresB s c && (lanesOf c.mask).all (fun l => match s.lnxCheck c l (s.rdU64 c (.s 8) + ((w.rdL l .zero).signExtend 64 <<< 3) + 128)
        ((List.range 4).map (fun k => pair (w.rdL l (LSpec.plus (.v 16) (2 * k))) (w.rdL l (LSpec.plus (.v 16) (2 * k + 1))))) 5 with
        | .ok _ => true | .error _ => false)) (by decide +kernel),
    resumes_spec (s := tagged { why := .lnx, phase := 1, arg := 0 } (asks ((List.range 5).map (fun l => lreq l 128 (some (7, 0x80)))) 0
        (placed (.lnx .ar (.v 10) .zero (.v 16) (.v 12) (.s 8) 3 5 1))))
      (p := fun _ c w => decide (w.lnx.map LnxReq.lane).Nodup &&
      w.lnx.all (fun r => r.reply == some (7, 0x80) && r.fault.isNone && decide (r.lane < 32)) &&
      (lanesOf c.mask).all (fun l => w.lnx.any (fun r => r.lane == l))) (by decide +kernel)⟩

/-- The launch of warp 0 goes on. -/
theorem going0 (s : State) (h : (match s.launchOf 0 with | some L => !L.cancelled | none => true) = true) : Going s 0 := by
  intro L hL
  rw [hL] at h
  simpa using h

/-- Warp 0 asks for routine 5 at a slice that holds no entry. -/
def fetching (gb : DWord) : State := asks [lreq 0 0x5000 none] gb (placed .nop)

/-- The premises of the GROVE_ENTRY_FETCH statement: the entry is fetched with a cause, or its read fails. -/
def fetches (cause : Option Nat) (s : State) : Bool :=
  (s.openLnx 0 0).any (fun q => (s.gEntry 0 q).isNone && !s.lnxBehind 0 (q.pa / 128) && decide ((s.grove.filter (fun x => x.slice == homeSlice q.pa)).length < 16) &&
    match s.gFetch 0 q with
    | some (.ok (_, k)) => cause == some k
    | some (.error _) => cause == none
    | none => false)

theorem wit_GroveRoutines_fetch :
    (fetches (some 1) (fetching 0) && fetches (some 1) (fetching 0x3001) && fetches none (fetching 0x40000001)) = true ∧
    Going (fetching 0x40000001) 0 :=
  ⟨by decide +kernel, going0 _ (by decide +kernel)⟩

theorem wit_GroveRoutines_serve :
    (∀ cause ∈ [0, 3], ((served cause).warp 0).any (fun w => w.lnx == [lreq 0 0x5000 none]) = true ∧
      (served cause).lineHeld (0x5000 / 128) = false ∧ (served cause).lnxBehind 0 (0x5000 / 128) = false ∧
      (served cause).gEn ((served cause).jobOf 0) = true ∧ (served cause).sharers = [] ∧ (served cause).inval = [] ∧
      ((served cause).gEntry 0 (lreq 0 0x5000 none)).map GroveEntry.cause = some cause ∧
      (served cause).poisonedR 0x5000 128 = false) ∧
    ({ served 0 with grovebase := [] } : State).gEn 0 = false ∧ (served 0).jobOf 0 = 0 ∧
    ({ served 0 with poison := [(0x5000 / 64, 16)] } : State).poisonedR 0x5000 128 = true ∧ Going (served 0) 0 :=
  ⟨by decide +kernel, by decide +kernel, by decide +kernel, by decide +kernel, going0 _ (by decide +kernel)⟩

/-- The retire packet of instruction `i` placed, which claims nothing of operands and results. -/
def packetOf (i : Instr) : RetirePacket :=
  { warp := 0, seq := 0, mask := 15, pc := 0x40000, words := encode i, gen := 0, srcv := [], srcu := [], srcf := [], addr := [],
    dst := [], fpf := [], nextMask := 0, nextPc := 0, vp := false, stall := false, sr := false, fclaim := 0 }

/-- The packet that claims the operands, addresses and results right. -/
def honest (i : Instr) : RetirePacket :=
  let s := placed i
  match s.ctx?, s.warp 0, bodyOf i with
  | some c, some w, some body =>
    let ks := keysOf w (lowLane c.mask) (regUse i).1
    { packetOf i with
      srcv := (ks.filter (fun k => decide (k < 4096))).flatMap (fun k => (lanesOf c.mask).map (fun l => ⟨k, l, w.rdKey l k⟩)),
      srcu := (ks.filter (fun k => decide (4096 ≤ k))).map (fun k => ⟨k, 0, w.rdKey 0 k⟩),
      srcf := if (flagReads i).f = [] then [] else (lanesOf c.mask).map (fun l => ⟨0, l, (w.lane l).f.setWidth 32⟩),
      addr := (s.addrsOf c w i).map (fun x => (x.1, x.2.setWidth 55)),
      dst := s.dstClaims 0 i (((body c s).s.warp 0).getD w) c.mask }
  | _, _, _ => packetOf i

/-- It is outstanding at partition 0 of core 0. -/
def outOf (p : RetirePacket) (checked : Bool) : Outstanding :=
  { wid := 0, p := p, checked := checked, ran := false, dst := [], faults := [], addrs := [], reads := [], srec := none }

def withOut (i : Instr) (os : List Outstanding) : State := (placed i).modCore 0 (fun k => { k with out := os.map (fun o => (0, o)) })

/-- Warp 0 at level `lv` with `n` packets outstanding in its partition. -/
def outFull (lv n : Nat) : State := onWarp (fun w => { w with level := lv }) (withOut .nop (List.replicate n (outOf (packetOf .nop) false)))

/-- The premises of the RETIRE_PACKET statement, and whether the packet is allowed. -/
def sends (lv n : Nat) (vp sr ok : Bool) : Bool :=
  let s := outFull lv n
  let os := s.partOut 0 0
  !s.coreHalted 0 && s.packetWarp 0 0 0 == some 0 && s.packetWarp 0 0 5 == none && !s.blockOff 0 && (s.warp 0).any (fun w =>
    ((decide (os.length < 64) && w.level != 5 && os.all (fun o => !s.lockstep o.wid) || os.isEmpty) &&
      (!vp || w.level == 0 && match decode (encode .nop) with | .ok i => isWeakLoad i | _ => false) && (!sr || decide (w.level < 2))) == ok)

/-- The premises that the statements on checks share. -/
def checkable (o : Outstanding) (s : State) : Bool :=
  (s.partOut 0 0)[0]? == some o && !s.coreHalted 0 && !s.blockOff 0 && (s.seqOf 0 0 0).all (fun e => e.2.run.isSome)

/-- A weak load of a word by each lane, from s4 and the lane's number. -/
def aLoad : Instr := .ld false false .b32 none (atLane .g 2) (.v 1) 8

/-- The premises of the statement on the check of a load. -/
def loadChecks : Bool :=
  let o := outOf (packetOf aLoad) false
  let s := withOut aLoad [o]
  checkable o s && decide (decode o.p.words = .ok aLoad) && (s.warp 0).any (fun w => applyClaims o.p w == w && w.graft.isNone &&
    (let c := packetCtx 0 0 o w
     noStoresB s c && reaches .g (fun l => MemOp.addr s c w l (atLane .g 2) 8) 4 .read (cleanB s c false) s c))

/-- The view in which a packet of `i` commits. -/
def commitView (s : State) : State := { s.modCore 0 (fun k => { k with out := dropOut 0 0 k.out }) with turn := .issue 0 0 0 }

/-- The premises that the statements on commits share, with more of the context. -/
def committing (i : Instr) (o : Outstanding) (p : State → Ctx → Warp → Bool) : Bool :=
  let s := withOut i [o]
  let u := commitView s
  (s.partOut 0 0)[0]? == some o && o.checked && !s.notOldest 0 0 0 o && !s.coreHalted 0 && !s.blockOff 0 &&
    (match s.seqOf 0 0 0 with | some (q, b) => q == 0 && b.run.isSome | none => false) && keysRise 0 s.warps &&
    match u.ctx?, s.warp 0 with
    | some c, some w => w.bad.isEmpty && c.tag.isNone && (match u.found c w with | .instr j => j == i | _ => false) &&
        decide (preFault i c w = none) && p u c w
    | _, _ => false

/-- The premises of the statement on recomputed results: operands right, a load's values wrong, the rest right. -/
def commits (i : Instr) (o : Outstanding) (claimed badValue results : Bool) : Bool :=
  committing i o (fun u c w => (bodyOf i).any (fun body =>
    let r0 := body c { u with warps := tset 0 (w.modLanes c.mask (fun l => { l with fpf := 0 })) u.warps }
    let w2 := (r0.s.warp 0).getD w
    let ks := keysOf w (lowLane c.mask) (regUse i).1
    let values := sameSet o.p.dst (u.dstClaims 0 i w2 c.mask)
    let good := o.p.srcv.all (fun x => w.rdKey x.lane x.key == x.val) && o.p.srcu.all (fun x => w.rdKey x.lane x.key == x.val) &&
      o.p.srcf.all (fun x => (w.lane x.lane).f.setWidth 32 == x.val) &&
      ks.all (fun k => if k < 4096 then (lanesOf c.mask).all (fun l => o.p.srcv.any (fun x => x.key == k && x.lane == l))
        else o.p.srcu.any (fun x => x.key == k)) && (flagReads i).f.isEmpty &&
      sameSet o.p.addr ((u.addrsOf c w i).map (fun x => (x.1, x.2.setWidth 55)))
    let bad := isCheckedLoad i && !values
    let placed := o.p.pc.setWidth 64 == c.pc && o.p.mask == c.mask && o.p.words == c.words && o.p.gen.toNat == c.gen % 2 ^ 16 &&
      o.p.fclaim == 0
    decide (ks.length ≤ 4) && r0.faults.isEmpty && decide (r0.flow = .seq) && o.p.fpf.isEmpty && o.p.nextMask == 0 && !o.ran &&
      (lanesOf c.mask).all (fun l => (w2.lane l).fpf == 0) && decide ((u.core 0).level ≠ 5 ∧ (u.core 0).winLevel5 < 3) &&
      good == claimed && bad == badValue && (placed && (!isSpeculative i || values)) == results))

/-- An addition whose packet claims the operands and the results right, or not. -/
def anAdd : Instr := .iadd false .s32 (.v 1) (.v 2) (.v 3)

/-- The check of the load has found its values and addresses. -/
def ranLoad : Outstanding :=
  let p := honest aLoad
  { outOf p true with ran := true, dst := p.dst, addrs := p.addr.map (fun x => (x.1, x.2.setWidth 64)) }

/-- The premises of the statement on a load whose finding stands. -/
def standing : Bool :=
  committing aLoad ranLoad (fun u c w => w.graft.isNone && u.stands aLoad c w ranLoad) && !ranLoad.dst.isEmpty &&
    decide ((ranLoad.dst.map (fun x => (x.key, x.lane))).Nodup) && ranLoad.dst.all (fun x => decide (x.key < 120 ∧ x.lane < 32)) &&
    match (withOut aLoad [ranLoad]).launchOf 0 with | some L => !L.cancelled | none => true

theorem sends_cases : (sends 0 63 false true true && sends 5 0 false false true && sends 0 64 false false false && sends 5 1 false false false &&
    sends 2 0 false true false && sends 0 0 true false false) = true := by
  decide +kernel

theorem checkable_cases : (∀ i ∈ [Instr.yield, .exit], (checkable (outOf (packetOf i) false) (withOut i [outOf (packetOf i) false]) &&
    (match decode (packetOf i).words with | .ok j => !isCheckedLoad j | _ => true)) = true) := by
  decide +kernel

theorem load_checks : loadChecks = true := by decide +kernel

theorem wit_RetirePackets_send :
    -- the level and the packets in the partition allow it, or the first that they do not
    (sends 0 63 false true true && sends 5 0 false false true && sends 0 64 false false false && sends 5 1 false false false &&
      sends 2 0 false true false && sends 0 0 true false false) = true ∧
    (∀ i ∈ [Instr.yield, .exit], (checkable (outOf (packetOf i) false) (withOut i [outOf (packetOf i) false]) &&
      (match decode (packetOf i).words with | .ok j => !isCheckedLoad j | _ => true)) = true) ∧
    loadChecks = true ∧ ((outFull 0 1).core 0).failed = false ∧ ((outFull 0 1).partOut 0 0)[0]?.isSome = true :=
  ⟨sends_cases, checkable_cases, load_checks, by decide +kernel, by decide +kernel⟩

theorem wit_RetirePackets_commit :
    commits .nop (outOf (honest .nop) true) true false true = true ∧ commits anAdd (outOf (honest anAdd) true) true false true = true ∧
    commits anAdd (outOf { honest anAdd with srcv := [⟨2, 0, 9⟩] } true) false false true = true ∧
    commits aLoad (outOf { honest aLoad with dst := [⟨1, 0, 9⟩] } true) true true false = true ∧
    commits anAdd (outOf { honest anAdd with dst := [⟨1, 0, 9⟩] } true) true false false = true ∧ standing = true :=
  ⟨by decide +kernel, by decide +kernel, by decide +kernel, by decide +kernel, by decide +kernel, by decide +kernel⟩

/-- Core 0 at level `lv` with no group bound; warps 0 and 1 of partition 0 stand at a run start, warp 1 the younger. -/
def waitingWarps (lv : Nat) (y0 : Bool) : State :=
  let w (w : Warp) : Warp := onLanes (fun _ l => { l with run := none }) { w with yielded := y0 }
  withSister (fun x => { x with age := x.age + 1, yielded := false })
    (onWarp w ((placed .nop).modCore 0 (fun k => { k with level := lv, seqs := List.replicate 8 none })))

/-- The premise `best` of the PICK_WARP statement for warp `wid`. -/
def picks (seq wid : Nat) (starved : List Nat) (s : State) : Bool :=
  let ready := s.readyWarps 0 0
  let late := ready.filter (fun e => starved.contains e.1)
  let fresh := ready.filter (fun e => !e.2.yielded)
  match s.warp wid with
  | none => false
  | some w =>
    let first (l : List (Nat × Warp)) : Bool := l.contains (wid, w) && l.all (fun e => e.1 == wid || decide (w.age < e.2.age))
    (s.seqAt 0 0 seq).isNone && !s.coreHalted 0 &&
      (ready.all (fun e => s.inOrder 0 e) && first ((s.unbound 0 0).filter (fun e => e.2.canRun)) && ready.contains (wid, w) ||
       ready.all (fun e => !s.inOrder 0 e) && (if late != [] then first late else if fresh != [] then first fresh else first ready)) &&
      (s.coreWarps 0).all (fun e => (s.coreWarps 0).all (fun e' => e.1 != e'.1 || e == e'))

/-- The placed group waits for a release with nothing outstanding. -/
def releaseWaits : State :=
  let b : Binding := { wid := 0, mask := 15, start := 0x40000, inGraft := false, gen := 0, run := ((placed (.fence .ar .sys)).seqAt 0 0 0).bind Binding.run,
                       tag := some { why := .release, phase := 0, arg := 0 } }
  onWarp (fun w => { w with waits := [b] }) ((placed (.fence .ar .sys)).modCore 0 (fun k => { k with seqs := List.replicate 8 none }))

/-- A core whose window ends. -/
def windowEnd (lv mis com above below trim : Nat) : State :=
  State.reset.modCore 0 (fun k => { k with level := lv, winStart := lv, winMis := mis, winCommits := com, above := above, below := below, trim := trim })

theorem wit_WarpPicksAndWindows :
    -- the oldest; the one that has not yielded; the starved one; in program order at level 3
    (picks 0 0 [] (waitingWarps 0 false) && picks 1 1 [] (waitingWarps 2 true) && picks 1 1 [1] (waitingWarps 0 false) &&
      picks 0 0 [1] (waitingWarps 3 false)) = true ∧
    ((releaseWaits.warp 0).bind (fun w => w.waits[0]?)).any (fun b => b.tag.map (·.why) == some .release &&
      releaseWaits.released (releaseWaits.coreOf 0) 0 b.mask .block) = true ∧
    (match releaseWaits.retry 0 0 with
      | .exec i u => i == .fence .ar .sys && !isEvent i && resumesB { why := .release, phase := 0, arg := 0 } u (fun u c _ => relB .sys u c)
      | _ => false) = true ∧ ((placed .nop).warp 0).any (fun w => w.waits.isEmpty) = true ∧
    -- the ends of a window: hot twice, hot once, cool after 63, cool, neither; at levels 5 and 0
    (∀ x ∈ [(4, 2, 100, 1, 0, 60), (0, 3, 4096, 0, 63, 0), (5, 0, 0, 0, 63, 60), (1, 0, 5, 1, 0, 5), (2, 1, 4096, 1, 63, 30), (3, 1, 8192, 0, 0, 0)],
      let k := (windowEnd x.1 x.2.1 x.2.2.1 x.2.2.2.1 x.2.2.2.2.1 x.2.2.2.2.2).core 0
      k.winStart = k.level ∧ k.level ≤ 5 ∧ k.above ≤ 1 ∧ k.below ≤ 63 ∧ k.trim ≤ 60) := by
  decide +kernel

/-- The premises that the statements on writes share, for a line of no more than 128 bytes. -/
def sliceReady (line : Nat) (s : State) : Bool :=
  match s.sqEntry 3 4 with
  | none => false
  | some e => e.gwct.isNone && (s.core 3).sq.all (fun x => !sqAfter x e) && e.line == line &&
      e.writes.all (fun x => decide (128 * e.line ≤ x.2.1 ∧ x.2.1 + x.2.2.length ≤ 128 * e.line + 128))

/-- Those of a write to memory here or at a peer. -/
def writable (line : Nat) (s : State) : Bool :=
  sliceReady line s && s.lineTakes line && s.sharers.isEmpty && !s.poisonedR (128 * line) 128 && !s.hostBias (128 * line) &&
    ((s.lineMeta line).owner.isNone || (s.lineMeta line).owner == some 3)

/-- A line's record: lease, latest expiry, granted before, written since, owner. -/
def lineM (lease latest : Nat) (leased written : Bool) (owner : Option Nat) : LineMeta :=
  { lease := lease, latest := latest, leased := leased, written := written, owner := owner }

/-- A port leads to every peer. -/
def portsUp (s : State) : State := (List.range Config.ports).foldl (fun s p => s.setRegF (portOff p) 0 3 2) s

/-- Line 5 became dirty in interval 2 with undo logging on or off. -/
def dirtyLine (on : Bool) : State :=
  State.setReg 0x280010 2 (State.setReg 0x280008 (if on then 1 else 0)
    { State.reset with lines := [(5, { LineMeta.init with latest := 70 })], gtime := 50,
                       dram := [(5, { interval := 2, bytes := List.replicate 128 9, poison := (0, 0) })] })

theorem wit_HomeSlicesAndLines :
    -- reads of a quiet line, of one written and not quiet, and of the last line of device memory
    (∀ x ∈ [(5, lineM 64 10 true false none), (0, lineM 64 90 true true none), (2 ^ 32 - 1, LineMeta.init)],
      let s : State := { State.reset with lines := [(x.1, x.2)], gtime := 50 }
      128 * x.1 < 2 ^ 39 ∧ s.hostBias (128 * x.1) = false ∧ s.flipPage ≠ some (x.1 / 32) ∧ (s.lineMeta x.1).owner = none ∧ s.lineMeta x.1 = x.2) ∧
    -- writes before and after the latest lease, by the owner; to a peer; to scratch, chip scratch and the host window
    (∀ m ∈ [lineM 64 10 true false none, lineM 64 90 true false (some 3)], writable 5 (stored 5 none m) = true) ∧
    (writable (2 ^ 54) (portsUp (stored (2 ^ 54) none LineMeta.init)) && sliceReady (scrKey 3 0 / 128) (stored (scrKey 3 0 / 128) none LineMeta.init) &&
      decide (128 * (scrKey 3 0 / 128) = scrKey 3 0 ∧ scrKey 3 0 + 128 ≤ scrKey 3 (2 ^ 40)) &&
      sliceReady (chipKey 0 / 128) (stored (chipKey 0 / 128) none LineMeta.init) && decide (chipKey 0 ≤ 128 * (chipKey 0 / 128)) &&
      sliceReady (2 ^ 41) (stored (2 ^ 41) none LineMeta.init) && (stored (2 ^ 41) none LineMeta.init).hostUp &&
      !(stored (2 ^ 41) none LineMeta.init).poisonedR (2 ^ 48) 128) = true ∧
    ((stored 5 (some 60) LineMeta.init).sqEntry 3 4).map SqEntry.gwct = some (some 60) ∧
    (stored 5 (some 60) LineMeta.init).inval = [] ∧ (stored 5 (some 60) LineMeta.init).blocks = [] ∧
    ((stored 5 (some 60) LineMeta.init).core 3).sq.all (fun x => decide (x.id = 4)) = true ∧
    (((stored 5 (some 60) LineMeta.init).modCore 3 (fun k => { k with sq := k.sq.map (fun x => { x with id := 3 }) ++ k.sq })).core 3).sq.any
      (fun x => decide (x.id < 4) && x.wid == 0 && sqOverlap x x) = true ∧
    -- evictions, and recalls with and without an owner
    (tget 5 (dirtyLine false).lines).map LineMeta.owner = some none ∧ (dirtyLine false).pins = [] ∧
    (dirtyLine false).regF 0x280008 0 1 = 0 ∧ (dirtyLine true).regF 0x280008 0 1 = 1 ∧ (dirtyLine true).regF 0x290000 3 1 = 0 ∧
    (tget 5 (dirtyLine true).dram).map DramLine.interval = some (dirtyLine true).interval ∧ (dirtyLine true).undoLog = [] ∧
    fget 0 (128 * 5 / 2 ^ 36) (dirtyLine true).undoFill + 144 < 768 * 2 ^ 20 ∧
    ∀ o ∈ [none, some 3], (tget 5 (stored 5 none (lineM 64 90 true false o)).lines).map LineMeta.owner = some o := by
  decide +kernel

/-- Four levels of tables at 0x10000, 0x20000, 0x30000 and 0x38000 for virtual address `va`; the leaf is `leaf`. -/
def tabled (asid va leaf : Nat) : State :=
  let put (a x : Nat) (m : FMap Byte) : FMap Byte := wrMem a (natLe 8 x) m
  let s := State.setReg (rootOff asid) 0x10001 State.reset
  { s with mem := put (0x10000 + 8 * (va / 2 ^ 42 % 2 ^ 13)) 0x20003 (put (0x20000 + 8 * (va / 2 ^ 29 % 2 ^ 13)) 0x30003
      (put (0x30000 + 8 * (va / 2 ^ 16 % 2 ^ 13)) 0x38003 (put (0x38000 + 8 * (va / 2 ^ 12 % 2 ^ 4)) leaf []))) }

/-- The premises of the PAGE_WALK statement. -/
def walkable (asid v : Nat) (s : State) : Bool :=
  let root := (s.reg64 (rootOff asid)).toNat
  let entry (pa : Nat) : Nat := leNat (s.rdMem pa 8)
  let a2 := root / 2 ^ 16 % 2 ^ 36 * 2 ^ 16 + 8 * (v / 2 ^ 42 % 2 ^ 13)
  let a1 := entry a2 / 2 ^ 7 % 2 ^ 45 * 128 + 8 * (v / 2 ^ 29 % 2 ^ 13)
  let a0 := entry a1 / 2 ^ 7 % 2 ^ 45 * 128 + 8 * (v / 2 ^ 16 % 2 ^ 13)
  let a3 := entry a0 / 2 ^ 7 % 2 ^ 45 * 128 + 8 * (v / 2 ^ 12 % 2 ^ 4)
  let table (e : Nat) : Bool := decide (e % 2 ^ 7 = 3 ∧ e / 2 ^ 52 = 0)
  decide (root % 2 ^ 16 = 1 ∧ root / 2 ^ 52 = 0) && [a2, a1, a0, a3].all (fun a => !s.poisoned a) && table (entry a2) &&
    entry a2 / 2 ^ 7 % 2 ^ 9 == 0 && table (entry a1) && entry a1 / 2 ^ 7 % 2 ^ 9 == 0 && table (entry a0) && entry a3 % 4 == 1 && s.walkCache.isEmpty &&
    entry a3 / 2 ^ 6 % 4 != 3 && entry a3 / 2 ^ 10 % 4 == 0 && entry a3 / 2 ^ 52 == 0

/-- A shootdown in progress whose one store has a write time or none. -/
def shooting (g : Option Nat) : State :=
  { stored 5 g LineMeta.init with shoot := some { asid := 0, va := 0, len := 0, pend := [(3, 4)], lnx := [] } }

theorem wit_TranslationsAndShootdowns :
    (∀ x ∈ [(0, 0, 0x7D000 + 1), (4095, 2 ^ 55 - 1, 2 ^ 52 - 2 ^ 12 + 0x81)], walkable x.1 x.2.1 (tabled x.1 x.2.1 x.2.2) = true) ∧
    (match State.reset.walk 0 0 0 with | .error _ => true | .ok _ => false) = true ∧ State.reset.shoot = none ∧
    (∀ g ∈ [none, some 60], (shooting g).shoot.isSome = true ∧
      ((shooting g).sqEntry 3 4).any (fun e => e.gwct.isNone) = g.isNone) := by
  decide +kernel

/-- Packets that queue reads: every type but LAUNCH and GRAPH with its constructor. -/
def readable : List (BitVec 512) :=
  [mkPk 0 0 0 0 0 0 [], mkPk 3 1 0 0 0 0 [], mkPk 3 0 1 0 0 0 [], mkPk 4 0 2 0 0x100 5 [], mkPk 5 2 0 0 0x100 5 [], mkPk 5 0 1 0 0x100 5 [],
   mkPk 6 0 0 0 3 0 [], mkPk 6 0 1 0 3 0 [], mkPk 6 0 2 0 0 0 [], mkPk 6 0 3 0 0 0 []]

/-- Waits on the word at 0x40 for each comparison, and whether 7 meets it. -/
def waits : List (Pkt × Bool) :=
  [(mkRead 9 (mkPk 4 0 0 0 0x40 7 []) .held, true), (mkRead 9 (mkPk 4 1 1 0 0x40 7 []) .held, false), (mkRead 9 (mkPk 4 0 2 0 0x40 7 []) .held, true),
   (mkRead 9 (mkPk 4 0 3 0 0x40 7 []) .held, false)]

/-- Queue 5 has read packet `p`; the word at 0x40 is 7. -/
def waitingOn (p : Pkt) : State :=
  let s := heldAt 9 [p]
  { s with mem := wrMem 0x40 (natLe 8 7) s.mem }

/-- The premise of the SIGNAL packets: the word reads 7 and can be written. -/
def signalB (p : Pkt) (x : Nat) : Bool :=
  let s := waitingOn p
  heldB 5 p s && wordAt s 5 p 7 && (s.qDone 5).toNat == 9 &&
    match s.vWrite (via 0) 0x40 (natLe 8 x) with
    | (.ok _, _) => true
    | _ => false

theorem readable_next : readable.all (fun d => nextPacketB 5 d (queueAt 5 0xFFFFFFFF 3 0xFFFFFFFF 0 [(15, d)]) &&
    ((queueAt 5 0xFFFFFFFF 3 0xFFFFFFFF 0 [(15, d)]).queue 5).fill.isNone) = true := by
  decide +kernel

theorem waits_held : waits.all (fun x => heldB 5 x.1 (waitingOn x.1) && wordAt (waitingOn x.1) 5 x.1 7) = true := by
  decide +kernel

theorem waits_acting : waits.all (fun x =>
    wordAt (waitingOn { x.1 with st := .acting }) 5 { x.1 with st := .acting } 7 &&
      ((waitingOn { x.1 with st := .acting }).queue 5).pkts.find? (fun y => y.num == 9) == some { x.1 with st := .acting }) = true := by
  decide +kernel

/-- Premises: packets to read, a held NOP, held and acting waits that 7 meets or does not, held signals. -/
theorem wit_QueuesAndWaits :
    (∀ d ∈ readable, (nextPacketB 5 d (queueAt 5 0xFFFFFFFF 3 0xFFFFFFFF 0 [(15, d)]) &&
      ((queueAt 5 0xFFFFFFFF 3 0xFFFFFFFF 0 [(15, d)]).queue 5).fill.isNone) = true) ∧
    heldB 5 (mkRead 9 (mkPk 0 3 0 0 0 0 []) .held) (waitingOn (mkRead 9 (mkPk 0 3 0 0 0 0 []) .held)) = true ∧
    (∀ x ∈ waits, (heldB 5 x.1 (waitingOn x.1) && wordAt (waitingOn x.1) 5 x.1 7) = true) ∧
    (∀ x ∈ waits, (wordAt (waitingOn { x.1 with st := .acting }) 5 { x.1 with st := .acting } 7 &&
      ((waitingOn { x.1 with st := .acting }).queue 5).pkts.find? (fun y => y.num == 9) == some { x.1 with st := .acting }) = true) ∧
    signalB (mkRead 9 (mkPk 5 0 0 0 0x40 (2 ^ 64 - 1) []) .held) (2 ^ 64 - 1) = true ∧
    signalB (mkRead 9 (mkPk 5 0 1 0 0x40 (2 ^ 64 - 1) []) .held) 6 = true :=
  ⟨List.all_eq_true.1 readable_next, by decide +kernel, List.all_eq_true.1 waits_held, List.all_eq_true.1 waits_acting,
    by decide +kernel, by decide +kernel⟩

/-- A PHASE packet, number 9, and the state in which it is read; phase 0 of job 0 has `left` graphs. -/
def phasePk (sub : Nat) : Pkt := mkRead 9 (mkPk 3 0 sub 0 0 0 []) .held
def phased (ctl : Word) (sub left openPh : Nat) : State :=
  State.setReg (jOff 0 + 0x18) (BitVec.ofNat 32 openPh)
    { heldCtl ctl 9 [phasePk sub] with phases := [{ job := 0, num := 0, left := left, closed := false }] }

/-- Job `j` is in state `st`. -/
def jobIn (j st : Nat) : State := State.reset.setReg (jOff j + 0xC) (BitVec.ofNat 32 (st * 256 + 7))

theorem wit_PhasesAndJobs :
    -- PHASE and CLOSE of a LEAD queue, with graphs left and without; of another queue; jobs in each state
    (∀ x ∈ [(0, 0, 1), (0, 3, 2 ^ 32 - 2), (1, 0, 1), (1, 3, 5)],
      let s := phased 0x100000 x.1 x.2.1 x.2.2
      heldB 5 (phasePk x.1) s = true ∧ pkType (phasePk x.1).data = 3 ∧ pkSub (phasePk x.1).data = x.1 ∧ s.qLead 5 = true ∧
      (s.phases.find? (fun y => y.job == s.qJob 5 && y.num == s.jPhase (s.qJob 5))).any (fun y => y.left == x.2.1 && !y.closed) = true ∧
      1 ≤ s.jOpenPh (s.qJob 5) ∧ s.jOpenPh (s.qJob 5) < 2 ^ 32 - 1 ∧ s.jPhase (s.qJob 5) < 2 ^ 32 - 1 ∧
      s.queues.all (fun e => e.2.pkts.all (fun y => pkType y.data != 6)) = true) ∧
    (∀ sub ∈ [0, 1], heldB 5 (phasePk sub) (phased 0 sub 0 1) = true ∧ (phased 0 sub 0 1).qLead 5 = false) ∧
    ∀ x ∈ [(0, 0), (4095, 1), (4095, 2), (7, 3)], x.1 < 4096 ∧ (jobIn x.1 x.2).jState x.1 = x.2 := by
  decide +kernel

/-- A header of one block of one warp of one role, with 32 tiles and no buffers, whose code is at 0x6000 (02 R43). -/
def aHeader : Nat :=
  3 + 1 * 2 ^ 32 + 32 * 2 ^ 48 + 0x6000 * 2 ^ 64 + 1 * 2 ^ 128 + 1 * 2 ^ 160 + 1 * 2 ^ 192 + 0x10010101 * 2 ^ 224 + 0x1000 * 2 ^ 256 +
    (112 * 2 ^ 32 + 112 * 2 ^ 40 + 1 * 2 ^ 48) * 2 ^ 768

/-- The state with that header at 0x5000, and a kernel header word at 0x6000. -/
def headed (s : State) : State :=
  { s with nextLaunch := 5, mem := wrMem 0x6000 (natLe 4 0x31000000) (wrMem 0x5000 (natLe 128 aHeader) s.mem) }

/-- A LAUNCH packet, number `n`, of the header at 0x5000, read alone into graph `g` or as a node of it. -/
def launchPk (n count : Nat) (es : List Nat) (node graph : Option Nat) : Pkt :=
  { mkRead n (mkPk 1 0 0 count 0x5000 0 es) .held with node := node, graph := graph }

/-- A graph of job 0's queue 5. -/
def aGraph (count read : Nat) (pkt : Option Nat) (checked : Bool) : Graph :=
  { job := 0, phase := 0, count := count, read := read, left := count, queue := 5, pkt := pkt, nodes := [], badNode := false,
    checked := checked, cancelled := false }

/-- A queue in the middle of a graph of four, of which one packet is read. -/
def filling (d : BitVec 512) : State :=
  let s := queueAt 5 0xFFFFFFFF 3 0xFFFFFFFF 0 [(15, d)]
  { s.modQueue 5 (fun x => { x with fill := some 7 }) with graphs := [(7, aGraph 4 1 (some 8) false)] }

/-- A lone LAUNCH that was read into graph 7. -/
def loneHeld (count : Nat) : State :=
  { headed (heldAt 9 [launchPk 9 count [] none (some 7)]) with graphs := [(7, aGraph 1 1 none true)] }

/-- A GRAPH packet with its two nodes, the first before the second; the second expects `count` of them. -/
def graphPk : Pkt := { mkRead 9 (mkPk 2 0 0 2 0 0 []) .acting with refs := [7] }
def graphHeld (count : Nat) : State :=
  { headed (heldAt 9 [graphPk, launchPk 10 0 [1] (some 7) none, launchPk 11 count [] (some 7) none]) with graphs := [(7, aGraph 2 2 (some 9) false)] }

/-- The premises of the GRAPH_CHECK statement. -/
def checksGraph (s : State) : Bool :=
  let ps := s.nodePkts 5 7
  (tget 7 s.graphs).any (fun x => x.pkt == some 9 && x.queue == 5 && !x.checked && decide (x.count ≤ x.read) && x.left == ps.length &&
      s.jState x.job != 3 && x.nodes.isEmpty) && (s.pkt 5 9).any (fun p => s.mayAct 5 p) && ps.all (fun y => pkType y.data == 1) && ps.length == 2 &&
    decide ((ps.map Pkt.num).Nodup) && s.launches.all (fun e => decide (e.1 < s.nextLaunch)) && (State.acceptNodes 5 7 (graphFails ps) 0 ps s).isSome

/-- A launch that is read by `accept`. -/
def newLaunch : Launch := { Launch.new 5 0 5 (some 9) 7 0 with checked := true }

/-- Queue 5 is about to read `d`. -/
def nextIs (d : BitVec 512) : State := queueAt 5 0xFFFFFFFF 3 0xFFFFFFFF 0 [(15, d)]

theorem reads_launch : nextPacketB 5 (mkPk 1 0 0 0 0x5000 0 []) (nextIs (mkPk 1 0 0 0 0x5000 0 [])) = true := by
  decide +kernel

theorem reads_graph : nextPacketB 5 (mkPk 2 0 0 4 0 0 []) (nextIs (mkPk 2 0 0 4 0 0 [])) = true := by
  decide +kernel

theorem reads_node : nextPacketB 5 (mkPk 1 0 0 0 0x5000 0 []) (filling (mkPk 1 0 0 0 0x5000 0 [])) = true := by
  decide +kernel

theorem wit_AcceptedLaunches_read :
    (nextPacketB 5 (mkPk 1 0 0 0 0x5000 0 []) (nextIs (mkPk 1 0 0 0 0x5000 0 [])) = true ∧
      nextPacketB 5 (mkPk 2 0 0 4 0 0 []) (nextIs (mkPk 2 0 0 4 0 0 [])) = true) ∧
    (((nextIs 0).queue 5).fill = none ∧ (nextIs 0).slotsUsed < Config.graphSlots) ∧
    nextPacketB 5 (mkPk 1 0 0 0 0x5000 0 []) (filling (mkPk 1 0 0 0 0x5000 0 [])) = true ∧
    (((filling 0).queue 5).fill = some 7 ∧ (tget 7 (filling 0).graphs).map Graph.checked = some false ∧
      (filling 0).slotsUsed < Config.graphSlots) ∧
    heldB 5 (mkRead 9 (mkPk 2 0 0 4 0 0 []) .held) (heldAt 9 [mkRead 9 (mkPk 2 0 0 4 0 0 []) .held]) = true ∧
    ((heldAt 9 []).queue 5).fill = none :=
  ⟨⟨reads_launch, reads_graph⟩, by decide +kernel, reads_node, by decide +kernel, by decide +kernel, by decide +kernel⟩

theorem wit_AcceptedLaunches_act :
    (∀ count ∈ [0, 1], let s := loneHeld count
      heldB 5 (launchPk 9 count [] none (some 7)) s = true ∧ (tget 7 s.graphs).map Graph.cancelled = some false ∧ s.jState 0 = 1 ∧
      (s.accept newLaunch 0x5000 (count == 1)).isSome = true) ∧
    (∀ count ∈ [1, 0], checksGraph (graphHeld count) = true ∧ graphFails ((graphHeld count).nodePkts 5 7) = (count == 0)) := by
  decide +kernel

theorem wit_AcceptedLaunches_header :
    (match State.reset.vRead (via 0) 0 128 with | .error f => f != heldFault | .ok _ => false) = true ∧ newLaunch.status = 0 ∧
    newLaunch.stage = .waiting ∧ (headed (placed .nop)).vRead (via 0) 0x5000 128 = .ok (natLe 128 aHeader) ∧ aHeader < 2 ^ 1024 ∧
    ((headed (placed .nop)).accept newLaunch 0x5000 true).map Launch.status = some 0x14 ∧
    ((headed (placed .nop)).accept newLaunch 0x5000 false).map Launch.stage = some .waiting ∧
    (placed .nop).vRead (via 0) 0x5000 128 = .ok (natLe 128 0) := by
  decide +kernel

/-- The launch that packet 8 of queue 5 made, or that it will make. -/
def targetPk (ty : Nat) (refs : List Nat) : Pkt := { mkRead 8 (mkPk ty 0 0 0 0x5000 0 []) .acting with refs := refs }
def cancelPk (sub addr : Nat) : Pkt := mkRead 9 (mkPk 6 0 sub 0 addr 0 []) .held

/-- Queue 5 has read packets 8 and 9, the second a CANCEL; launch 0 is in graph 0 of the open phase. -/
def cancelAt (ctl : Word) (ty : Nat) (refs : List Nat) (c : Pkt) : State :=
  let s := withGraph (heldCtl ctl 8 [targetPk ty refs, c])
  s.modQueue 5 (fun x => { x with kinds := List.replicate 8 0 ++ x.kinds })

theorem wit_CancelPackets :
    -- a launch that runs, and one not accepted yet; a packet that is none
    (∀ refs ∈ [[0], []], let s := cancelAt 0 1 refs (cancelPk 0 8)
      heldB 5 (cancelPk 0 8) s = true ∧ (s.queue 5).kinds[8]? = some 1 ∧ s.pkt 5 8 = some (targetPk 1 refs) ∧
      (s.launch 0).map Launch.stage = some .running) ∧
    (∀ n ∈ [7, 9, 10], (heldB 5 (cancelPk 0 n) (cancelAt 0 1 [0] (cancelPk 0 n)) &&
      ((cancelAt 0 1 [0] (cancelPk 0 n)).queue 5).kinds[n]? != some 1) = true) ∧
    -- a graph, and a packet that is none; a phase; a job by its own queue, by a PRIV queue, by another
    (∀ s ∈ [cancelAt 0 2 [0] (cancelPk 1 8)], heldB 5 (cancelPk 1 8) s = true ∧ (s.queue 5).kinds[8]? = some 2 ∧
      s.pkt 5 8 = some (targetPk 2 [0]) ∧ (s.launch 0).map Launch.graph = some 0) ∧
    (heldB 5 (cancelPk 1 9) (cancelAt 0 2 [0] (cancelPk 1 9)) && ((cancelAt 0 2 [0] (cancelPk 1 9)).queue 5).kinds[9]? != some 2) = true ∧
    (∀ s ∈ [cancelAt 0 1 [0] (cancelPk 2 0)], heldB 5 (cancelPk 2 0) s = true ∧ (tget 0 s.graphs).any (fun x => x.job == s.qJob 5 && x.phase == s.jPhase (s.qJob 5)) = true) ∧
    (∀ x ∈ [((0 : Word), 0, true), (0x200000, 4095, true), (0, 1, false), (0x200000, 4096, false)],
      let s := (cancelAt x.1 1 [0] (cancelPk 3 x.2.1)).setReg (jOff 4095 + 0xC) 0x100
      heldB 5 (cancelPk 3 x.2.1) s = true ∧ (decide (x.2.1 < 4096) && (x.2.1 == s.qJob 5 || s.qPriv 5)) = x.2.2 ∧
      (x.2.2 = true → s.jState x.2.1 ≠ 0)) := by
  decide +kernel

/-- Launch 1 of job 0: one block of one warp (02 R43); `kscr` bytes of block scratch. -/
def readyLaunch (kscr : Nat) : Launch :=
  { Launch.new 1 0 5 none 7 0 with hdr := BitVec.ofNat 1024 (aHeader - 0x1000 * 2 ^ 256 + kscr * 2 ^ 256), hdrRead := true,
                                   khw := BitVec.ofNat 32 0x31000000, checked := true, blocksLeft := 1 }

/-- Job 0 is open and may use `cores` cores; launch 1 is ready; a time at which a refill is due. -/
def dispatchAt (kscr cores : Nat) : State :=
  let s := State.setReg (jOff 0 + 0xC) (BitVec.ofNat 32 (cores * 65536 + 0x107)) (placed .nop)
  { s with launches := s.launches ++ [(1, readyLaunch kscr)], nextBlock := 4, gtime := 5000, nextLaunch := 5 }

/-- The premises of the PICK_LAUNCH statement. -/
def pickable (s : State) : Bool :=
  (s.markReady.launch 1).any (fun L => L.id == 1 && s.isReady L && !L.skipped && L.flags % 2 == 0 && L.clSize == 1 && L.die.isNone &&
    L.parent.isNone && decide (L.warpsPB ≤ 32) && decide (L.job < 4096) && decide (-(2 ^ 31 : Int) + 1024 ≤ s.jDeficit L.job)) &&
  keysRise 0 s.launches && s.launches.all (fun e => decide (e.2.job < 4096)) && s.markReady.launches.all (fun e => e.1 == 1 || !s.isReady e.2) &&
  (s.savedClusters 1).isEmpty && s.blocks.all (fun e => decide (e.1 < s.nextBlock)) && s.warps.all (fun e => decide (e.1 < 32 * s.nextBlock)) &&
  !s.hostLost

/-- No core of any die has room for launch 1. -/
def noRoom (s : State) : Bool :=
  (s.markReady.launch 1).any (fun L => (List.range Config.dies).all (fun d => (s.coresFor L L.costs d).isEmpty))

theorem wit_DispatchOrder :
    State.reset.gtime / 1000 ≤ State.reset.refilled ∧
    (∀ s ∈ [dispatchAt 0x1000 0], s.refilled < s.gtime / 1000 ∧ s.launches.all (fun e => decide (e.2.job < 4096)) = true) ∧
    pickable (dispatchAt 0x1000 0) = true ∧
    ((dispatchAt 0x1000 0).markReady.launch 1).any (fun L => !((dispatchAt 0x1000 0).coresFor L L.costs 0).isEmpty) = true ∧
    pickable (dispatchAt 0x80000 1) = true ∧ noRoom (dispatchAt 0x80000 1) = true :=
  ⟨by decide +kernel, by decide +kernel, by decide +kernel, by decide +kernel, by decide +kernel, by decide +kernel⟩

/-- Launch 0 of the placed block is at its end, after `n` steps; `hdr` adds to its header. -/
def ending (n endTime : Nat) (hdr : Nat) (s : State) : State :=
  { s with launches := s.launches.map (fun (e : Nat × Launch) => (e.1, { e.2 with
      stage := .ending, endStep := n, endTime := endTime, hdr := e.2.hdr + BitVec.ofNat 1024 hdr, endWait := [(3, 4)], graph := 7, edges := [1] })) }

/-- The premises that all steps of the end share. -/
def endsAt (n : Nat) (s : State) (p : Launch → Bool) : Bool :=
  (s.launch 0).any (fun L => L.id == 0 && L.stage == .ending && L.checked && L.endStep == n && p L)

/-- No block stands; graph 7 has launch 0 and another node. -/
def blockGone (s : State) : State :=
  { s with blocks := [], warps := [], gtime := 100, graphs := [(7, { aGraph 2 2 none true with nodes := [0, 3] })] }

/-- The writes of the last two steps are performed. -/
def recordTo (a : Nat) (s : State) (L : Launch) : Bool :=
  match s.vWrite (via (s.jAsid L.job)) a (natLe 2 L.status.toNat ++ natLe 2 L.first.toNat ++ natLe 4 L.faults ++
      natLe 8 0 ++ natLe 8 L.startT ++ natLe 8 s.gtime ++ natLe 4 L.coresUsed.length ++
      natLe 4 L.mismatch ++ natLe 4 L.abft ++ natLe 4 L.preempt ++ natLe 4 L.tag ++
      natLe 4 L.blocksExited ++ natLe 2 L.job ++ natLe 1 L.prio ++ natLe 5 0) with
  | (.ok _, _) => true
  | _ => false

theorem wit_LaunchEnds_first :
    -- writes, blocks and translations are outstanding, or nothing is
    endsAt 0 (ending 0 0 0 (placed .nop)) (fun _ => true) = true ∧ (placed .nop).blocks.any (fun b => b.2.launch == 0) = true ∧
    (∀ s ∈ [ending 0 0 0 (blockGone (placed .nop))], endsAt 0 s (fun L => decide (L.lastGwct ≤ s.gtime)) = true ∧ s.cores.all (fun k => k.2.sq.isEmpty) = true ∧ s.xlat = [] ∧ s.inval = []) ∧
    (∀ id ∈ [4, 5], ∀ s ∈ [(ending 1 0 0 (blockGone (placed .nop))).modCore 3 (fun k => { k with sq := [aStore id] })],
      endsAt 1 s (fun L => L.endWait.any (fun w => (s.core w.1).sq.any (fun e => e.id == w.2)) == (id == 4)) = true) := by
  decide +kernel

theorem wit_LaunchEnds_last :
    (∀ n ∈ [2, 3], endsAt n (ending n 101 0 (blockGone (placed .nop))) (fun L => decide ((blockGone (placed .nop)).gtime < L.endTime)) = true) ∧
    (∀ s ∈ [ending 2 100 0 (blockGone (placed .nop))],
      endsAt 2 s (fun L => decide (L.endTime ≤ s.gtime) && L.recordA == 0 && s.inval.isEmpty) = true) ∧
    (∀ s ∈ [ending 2 100 (0x7000 * 2 ^ 512) (blockGone (placed .nop))],
      endsAt 2 s (fun L => decide (L.endTime ≤ s.gtime) && L.recordA == 0x7000 && recordTo 0x7000 s L) = true) ∧
    ∀ x ∈ [0, 0x7008], ∀ s ∈ [ending 3 100 (x * 2 ^ 576) (blockGone (placed .nop))],
      endsAt 3 s (fun L => decide (L.endTime ≤ s.gtime ∧ L.job < 4096 ∧ L.queue < 16384) && !s.hostLost && L.signalA == x && L.pkt.isNone &&
        (x == 0 || match s.vWrite (via (s.jAsid L.job)) x (natLe 8 L.sigval) with | (.ok _, _) => true | _ => false) &&
        (tget L.graph s.graphs).any (fun g => decide (2 ≤ g.left) && L.edges.all (fun e => g.nodes[e]? != some 0)) &&
        L.status == 0 && decide ((L.edges.filterMap (fun e => (((tget L.graph s.graphs).map Graph.nodes).getD [])[e]?)).Nodup)) = true := by
  decide +kernel

/-- Lanes 2 and 3 of warp 0 parked. -/
def aPark (st : ParkSt) : Parked :=
  { id := 3, mask := 12, pc := 0x40200, run := some 0x401F0, nxt := 0x40300, record := aRecord, temps := [(2, 7)], st := st, gen := 0,
    score := false, elems := [(2, 5)], entry := 0x50000 }

/-- Warp 0 with that sub-warp, whose job's fault ring of 2^`log` records is at 0x7000, or where nothing is mapped. -/
def parkedIn (st : ParkSt) (log base : Nat) : State :=
  let s := [(frOff 0, BitVec.ofNat 32 base), (frOff 0 + 8, BitVec.ofNat 32 (log + 0x900)), (frOff 0 + 0xC, 17), (frOff 0 + 0x10, 16)].foldl
    (fun s (e : Nat × Word) => s.setReg e.1 e.2) (placed .nop)
  onWarp (fun w => { w with parked := [aPark st] }) { s with nextPark := 4, gtime := 60 }

/-- An entry of each kind on job 0's spill path at core 0, with `n` free entries in the queue. -/
def spilled (e : QEntry) (n : Nat) : State :=
  { (placed .nop).modCore 0 (fun k => { k with queue := List.replicate (64 - n) (.trap 7 9) }) with spill := [(0, [{ e := e, st := .inRing }])] }

def aCall : QEntry :=
  .wcall { here := 9, job := 0, launch := 0, block := 0, base := 0x400, wid := 0, mask := 15, svc := 7, warpNum := 0, reqs := [], phase := 0,
           sq := 7, time := 0, n := 3 }

theorem wit_TrapDelivery_queue :
    ((State.modCore 0 (fun k => { k with queue := [.trap 0 3, .trap 0 4] }) (placed .nop)).core 0).queue = [.trap 0 3, .trap 0 4] ∧
    (∀ x ∈ [(QEntry.trap 0 3, 1), (aCall, 9), (.wmore 0 4, 4), (aCall, 8), (aCall, 1)],
      (tget (256 * 0 + 0) (spilled x.1 x.2).spill).any (fun es => es.length == 1 && es.all (fun y => y.st != .noRoom)) = true ∧
      64 - qWeight ((spilled x.1 x.2).core 0).queue = x.2) := by
  decide +kernel

/-- The premises that the entries of handler mode share. -/
def entersB (st : ParkSt) (s : State) : Bool :=
  (s.warp 0).any (fun w => decide (w.lanes.length = 32) && (w.parked.find? (fun p => p.st == .handlerWait)).isSome == (st == .handlerWait))

theorem wit_TrapDelivery_enter :
    (entersB .handlerWait (parkedIn .handlerWait 0 0) && !(parkedIn .handlerWait 0 0).isVictim 0 && !(parkedIn .handlerWait 0 0).blockOff 0 &&
      ((parkedIn .handlerWait 0 0).warp 0).any (fun w => w.handler.isNone)) = true ∧
    entersB .queued (parkedIn .queued 0 0) = true ∧ keysRise 0 (parkedIn .queued 0 0).warps = true ∧
    (onWarp (handling 3) (parkedIn .handlerWait 0 0)).warps.any (fun e => e.2.handler.isSome) = true ∧
    ((parkedIn .handlerWait 0 0).modBlock 0 (fun b => { b with savedOn := some 0 })).blockOff 0 = true := by
  decide +kernel

/-- The premises that the records to the host share. -/
def hostWaits (s : State) : Bool :=
  decide (s.hostWaiters 0 = [(0, aPark .hostWait)]) && s.hostPosts.isEmpty && s.frRoom 0 && s.jobOf 0 == 0 && (s.warp 0).isSome

/-- What the record's write answers. -/
def recordWritten (s : State) : Option Bool :=
  match s.vWrite (viaCore (s.jAsid 0) 0) ((s.reg64 (frOff 0)).toNat + 64 * ((s.reg (frOff 0 + 0xC)).toNat % 2 ^ s.frLog 0))
      ({ aRecord with seq := 17, host := true } : FaultRec).bytes with
  | (.ok _, _) => some true
  | (.error f, _) => if f = heldFault then none else some false

theorem wit_TrapDelivery_host :
    (hostWaits { parkedIn .hostWait 4 0x7000 with hostLost := true } && hostWaits (parkedIn .hostWait 0 0) &&
      hostWaits (parkedIn .hostWait 4 0x7000) && hostWaits (parkedIn .hostWait 4 0x20000000)) = true ∧
    (parkedIn .hostWait 0 0).frLog 0 = 0 ∧ (parkedIn .hostWait 4 0x7000).frLog 0 = 4 ∧ (parkedIn .hostWait 4 0x7000).hostLost = false ∧
    recordWritten (parkedIn .hostWait 4 0x7000) = some true ∧ recordWritten (parkedIn .hostWait 4 0x20000000) = some false ∧
    (∀ s ∈ [parkedIn (.hostPost 60) 4 0x7000], s.hostPosts = [(0, aPark (.hostPost 60))] ∧ s.coreOf 0 = 0 ∧ 60 ≤ s.gtime ∧ s.inval = [] ∧
      s.jobOf 0 = 0) := by
  decide +kernel

theorem wit_TrapDelivery_resume : ∀ s ∈ [parkedIn .host 4 0x7000],
    s.resumeTarget 0 1 = some (0, aPark .host) ∧ (aPark .host).id < s.nextPark ∧ s.blockOff 0 = false ∧
    (s.modBlock 0 (fun b => { b with resumeWait := true })).blockOff 0 = true ∧
    (s.warp 0).any (fun w => decide (w.lanes.length = 32) && w.handler.isNone && w.graft.isNone && w.bars.isEmpty && w.jWait.all (· == 0) &&
      (w.lane 0).st == .live) = true := by
  decide +kernel

/-- A copy of `len` bytes from 0x5000 to 0x9000 for the placed block, which has copied `done` of them. -/
def aCopy (len done : Nat) (acq : Bool) : CopyCmd :=
  { ctl := { rscope := .pkg, ascope := .sys, rel := acq, acq := acq, wctr := 3, cb := 0, dspace := 0, sspace := 0, dkind := 0, skind := 0 },
    saddr := 0x5000, daddr := 0x9000, len := len, launch := 0, blk := 0, wid := 0, half := 0, progress := done, capt := 50,
    captSq := [4], priv := false, slot := none }

/-- Engine 2 of die 0 executes it. -/
def engineAt (k : CopyCmd) (started : Bool) (gwct : Nat) : State :=
  { placed .nop with
    gtime := 60,
    engines := [(2, { cmd := k, core := 0, slot := none, started := started, total := k.len / 16, unit := 16, srec := 0, drec := 0, gwct := gwct,
                      fault := none, written := false })] }

/-- Core 5 has a copy command at the head of its queue, and no other core of its die has one; engine 0 is busy. -/
def copyQueued : State := (engineAt (aCopy 32 0 false) true 0).modCore 5 (fun k => { k with queue := [.copy (aCopy 32 0 false), .trap 0 3] })

theorem wit_CopyEngines_take :
    5 ∈ dieCores 0 ∧ (copyQueued.core 5).queue = [.copy (aCopy 32 0 false), .trap 0 3] ∧ (aCopy 32 0 false).ctl.dkind ≠ 2 ∧
    tget 0 copyQueued.engines = none ∧ (∀ c ∈ dieCores 0, c ≠ 5 → (copyQueued.core c).queue = []) ∧ 0 = 5 / Config.coresPerDie := by
  decide +kernel

/-- The next unit of the copy is read and written. -/
def unitCopies (s : State) : Bool :=
  (tget 2 s.engines).any (fun g => g.started && g.fault.isNone && g.cmd.progress % 16 == 0 && decide (g.cmd.progress / 16 < g.total) &&
    g.unit == 16 && min 256 (g.total - g.cmd.progress / 16) == 1 && decide (g.cmd.saddr.toNat + 16 * g.total < 2 ^ 55) &&
    match s.vRead { asid := s.jAsid 0, die := 0, priv := false } (g.cmd.saddr.toNat + g.cmd.progress) 16 with
    | .ok bs => bs.length == 16 && (match s.vWrite { asid := s.jAsid 0, die := 0, priv := false } (g.cmd.daddr.toNat + g.cmd.progress) bs with
      | (.ok _, _) => true
      | _ => false)
    | .error _ => false)

theorem wit_CopyEngines_run :
    -- a start that waits for the writes captured, or not; a unit; an end before and after its last write
    (∀ x ∈ [(true, [aStore 4], true), (true, [], false), (false, [aStore 4], false)],
      let s := (engineAt (aCopy 32 0 x.1) false 0).modCore 0 (fun k => { k with sq := x.2.1 })
      (tget 2 s.engines).any (fun g => !g.started && (g.cmd.ctl.acq && (s.core g.core).sq.any (fun y => g.cmd.captSq.contains y.id) ||
        g.cmd.ctl.acq && scopeWide g.cmd.ctl.ascope && decide (s.gtime < g.cmd.capt)) == x.2.2) = true) ∧
    unitCopies (engineAt (aCopy 32 16 false) true 0) = true ∧
    (∀ g ∈ [61, 60], (tget 2 (engineAt (aCopy 32 32 true) true g).engines).any (fun e => e.started && e.fault.isNone &&
      decide (e.total ≤ e.cmd.progress / 16) && decide (e.gwct ≤ 60) == (g == 60)) = true) ∧
    ((placed .nop).warp 0).any (fun w => !w.g16 && w.w.length == 8) = true ∧ (placed .nop).blocks.all (fun b => !b.2.done) = true := by
  decide +kernel

/-- The placed WAITA waits at its address. -/
def sampling : State :=
  let i : Instr := .waita .uge .b64 true .sys (atLane .g 3) (.v 2) .zero 0
  let s := withData (placed i)
  match s.seqAt 0 0 0 with
  | some b => onWarp (fun w => { w with waits := [{ b with tag := some { why := .waita, phase := 0, arg := 0 } }] }) s
  | none => s

theorem wit_CopyEngines_sample : sampling.wcallFault = [] ∧ ((sampling.warp 0).any (fun w => match w.waits with
    | [b] => b.tag.map (·.why) == some .waita && (match b.run.bind (fun r => bindCtx sampling (sampling.coreOf 0) w.part 0 b r w) with
      | some c => c.wid == 0 && noStoresB sampling c && reaches .g (fun l => MemOp.addr sampling c w l (atLane .g 3) 0) 8 .read (cleanB sampling c true) sampling c &&
        decide (decode c.words = .ok (.waita .uge .b64 true .sys (atLane .g 3) (.v 2) .zero 0))
      | none => false)
    | _ => false)) = true := by
  decide +kernel

/-- An image at 0x1000: the fields that are not zero (offset, bytes, value), its length and the anti-rollback value. -/
def imageAt (fs : List (Nat × Nat × Nat)) (n fuse : Nat) : State :=
  withRegs [(0x200000, 0x1000), (0x200008, BitVec.ofNat 32 n)]
    { State.reset with mem := fs.foldl (fun m f => wrMem (0x1000 + f.1) (natLe f.2.1 f.2.2) m) State.reset.mem, fuse := fuse }

/-- MAGIC, FORMAT, TARGETS, SVER 3: an image of kind 0 with no region. -/
def goodImage : List (Nat × Nat × Nat) := [(0, 4, 0x47465431), (4, 2, 1), (8, 4, 6), (0x14, 4, 0x23), (0x18, 8, 3)]

/-- The checks of a load, in the order in which they are made: all pass up to the first that does not. -/
def imageChecks (s : State) : List Bool :=
  let a := (s.reg64 0x200000).toNat
  let n := (s.reg 0x200008).toNat
  let img := s.rdMem a n
  let f (o k : Nat) : Nat := leNat ((img.drop o).take k)
  let half := if f 6 1 = 0 then 0 else 0x20000
  [a % 128 == 0 && decide (a + n ≤ 2 ^ 39) && !s.poisonedR a n,
   f 0 4 == 0x47465431 && f 4 2 == 1 && decide (f 6 1 ≤ 1) && f 0x14 4 % 16 == 3 && f 0x14 4 / 2 ^ (4 + Config.stepping) % 2 == 1 &&
     f 0x14 4 / 2 ^ 20 == 0 && f 0x0C 4 % 128 == 0 && decide (f 0x0C 4 ≤ 0x20000),
   n == 2560 + f 0x0C 4,
   f 0x10 4 == half && f 7 1 == 0 && f 0x20 96 == 0,
   decide (s.fuse ≤ f 0x18 8),
   (List.range 32).all (fun k => !slotBad (BitVec.ofNat 512 (f (128 + 64 * k) 64)) half) &&
     (f 6 1 != 1 || (List.range 8).all (fun k => f (128 + 64 * (24 + k)) 64 == 0))]

theorem wit_GraftsAndSegments_load :
    (∀ x ∈ [(goodImage, 2560, 3, [true, true, true, true, true, true]),
        ((6, 1, 1) :: (0x10, 4, 0x20000) :: goodImage, 2560, 3, [true, true, true, true, true, true]),
        ((128 + 32, 4, 0x0C000000) :: goodImage, 2560, 3, [true, true, true, true, true, false]),
        (goodImage, 2560, 4, [true, true, true, true, false, true]),
        ((0x10, 4, 128) :: goodImage, 2560, 3, [true, true, true, false, true, true]),
        (goodImage, 2564, 3, [true, true, false, true, true, true]),
        (goodImage ++ [(4, 2, 2)], 2560, 3, [true, false, true, true, true, true])],
      imageChecks (imageAt x.1 x.2.1 x.2.2.1) = x.2.2.2 ∧ (imageAt x.1 x.2.1 x.2.2.1).regF 0x20000C 1 1 = 0) ∧
    (imageAt goodImage 2560 3).graft.slots.length = 32 ∧
    (withRegs [(0x200000, 0x1040)] (imageAt goodImage 0 3)).reg64 0x200000 % 128 ≠ 0 ∧
    (withRegs [(0x20000C, 2)] (imageAt goodImage 0 3)).regF 0x20000C 1 1 = 1 := by
  decide +kernel

/-- A generation of the fabric, number `n`. -/
def aGen (n : Nat) : GraftGen := { GraftGen.clear with gen := n }

theorem wit_GraftsAndSegments_turns :
    (∀ t ∈ [60, 61], ({ State.reset with gtime := 60, graftNew := some (t, aGen 1) } : State).graftNew = some (t, aGen 1)) ∧
    (aGen 1).slots.length = 32 ∧
    -- a group bound under the old generation, and none
    (∀ s ∈ [placed .nop], (s.cores.all (fun k => k.2.seqs.all (fun x => x.all (fun b => b.gen == 0))) &&
      s.cores.any (fun k => k.2.seqs.any (fun x => x.any (fun b => b.gen == 0)))) = true ∧
      ∀ w ∈ s.warps, w.2.waits = [] ∧ w.2.graft = none ∧ w.2.handler = none ∧ w.2.parked = [] ∧
        w.2.lanes.all (fun l => l.gen != 7) = true) := by
  decide +kernel

/-- The placed launch is a Pedric kernel: four segments, area of 64 KiB at 0x50000; words of memory. -/
def pedricWith (ws : List (Nat × Nat)) : State :=
  let s := placed .nop
  { s with launches := s.launches.map (fun (e : Nat × Launch) => (e.1, { e.2 with
      khw := e.2.khw ||| 0x200000, ped := BitVec.ofNat 192 (0x50000 * 2 ^ 64 + 4 * 2 ^ 128 + 1 * 2 ^ 160) })),
           mem := ws.foldl (fun m e => wrMem e.1 (natLe 8 e.2) m) s.mem }

/-- Warp 0 stands at the entry of segment 3, whose translation word is `x`. -/
def atSegment (x : Nat) : State :=
  onBinds (fun b => { b with start := 0x50098, run := none, inGraft := false }) (pedricWith [(0x50098, x)])

theorem wit_GraftsAndSegments_enter :
    ∀ x ∈ [0, 1, 2 + 5 * 2 ^ 7, 2 + (2 ^ 48 - 1) * 2 ^ 7], let s := atSegment x
    (s.segBinding 0).any (fun e => e.1 == 0 && e.2.1.wid == 0 && e.2.2 == 3 && (s.launchOf 0).any (fun L =>
        let va := L.trbase + 0x80 + 8 * e.2.2
        (s.warp 0).any (fun w => decide (w.lanes.length = 32) &&
          (match s.translate 0 (s.asidOf 0) va .read (w.inHandler (lowLane e.2.1.mask)) with
            | .ok p => !s.poisonedR p.loc 8 && leNat (s.rdMem p.loc 8) == x
            | _ => false) &&
          (match s.translate 0 (s.asidOf 0) va .rw (w.inHandler (lowLane e.2.1.mask)) with
            | .ok q => !s.lnxHead (q.loc / 128) && !isPeer q.loc
            | _ => false) && s.released 0 0 e.2.1.mask .pkg && s.inval.isEmpty && s.sharers.isEmpty))) = true := by
  decide +kernel

/-- Segment 3 of launch 0 is being translated: its code stands at `at'` in the kernel, NEXT is `next`. -/
def translating (code next : Nat) : State :=
  { pedricWith [(0x4008C, 0x200), (0x40200, code), (0x50000, next)] with xlat := [(0, 3)] }

/-- What the translator's write of a word answers. -/
def publishB (s : State) (va v : Nat) : Bool :=
  match s.vWrite (via (s.jAsid 0)) va (natLe 8 v) with
  | (.ok _, _) => true
  | _ => false

theorem wit_GraftsAndSegments_translate :
    (∀ s ∈ [translating 0xFC000000 0], (s.launch 0).any (fun L => (0, 3) ∈ s.xlat && (match s.segNative (s.jAsid L.job) L 3 with
      | .error f => f.code == 0x16 && decide (f ≠ heldFault) && publishB s (L.trbase + 0x98) (3 + f.code.toNat * 2 ^ 56)
      | .ok _ => false)) = true) ∧
    -- the code fits to the area's last byte, and is one line too long
    (∀ x ∈ [(65536 - 256 - 128, true), (65536 - 256, false)], let s := translating 0x57000000 x.1
      (s.launch 0).any (fun L => (0, 3) ∈ s.xlat && (match s.segNative (s.jAsid L.job) L 3 with
        | .ok ws => let size := (4 * ws.length + 127) / 128 * 128
          decide ((0x80 + 8 * L.nseg + 127) / 128 * 128 + x.1 + size ≤ 65536 * L.trsize) == x.2 &&
          s.vRead (via (s.jAsid L.job)) L.trbase 8 == .ok (natLe 8 x.1) &&
          (match s.vWrite (via (s.jAsid L.job)) L.trbase (natLe 8 (x.1 + size)) with
            | (.ok _, u) => (!x.2 || (match u.vWrite (via (s.jAsid L.job)) (L.trbase + (0x80 + 8 * L.nseg + 127) / 128 * 128 + x.1)
                  (ws.flatMap (fun w => natLe 4 w.toNat)) with
                | (.ok _, v) => publishB v (L.trbase + 0x98) (2 + (L.trbase + 256 + x.1) / 128 * 2 ^ 7)
                | _ => false)) && publishB u (L.trbase + 0x98) (3 + 0x0B * 2 ^ 56)
            | _ => false)
        | .error _ => false)) = true) := by
  decide +kernel

/-- A flip of `n` pages from `pg` on: by range (SRC 0), or of object `n` (SRC 1). -/
def flipAt (pg n src : Nat) (f : Option Flip) : State :=
  withRegs [(0x220000, BitVec.ofNat 32 pg), (0x220004, BitVec.ofNat 32 (pg / 2 ^ 32)), (0x220010, BitVec.ofNat 32 n),
    (0x220014, BitVec.ofNat 32 src)] { State.reset with flip := f }

/-- A flip stands at page 1. -/
def flipping (toHost lost : Bool) (rest : List Nat) : State :=
  flipAt 4096 (1 + rest.length) 0 (some { pages := 1 :: rest, toHost := toHost, lost := lost })

theorem wit_HostAndBias_flip :
    (flipping true false []).flip ≠ none ∧
    (∀ x ∈ [(0x1800, 1, false), (0x1000, 0, false), (0x1000, 2 ^ 20 + 1, false), (2 ^ 39, 1, false), (0x1000, 1, true), (0, 2 ^ 20, true),
        (2 ^ 39 - 4096, 1, true)], let s := flipAt x.1 x.2.1 0 none
      let pg := (s.reg64 0x220000).toNat
      let n := (s.reg 0x220010).toNat
      s.flip = none ∧ s.regF 0x220014 0 1 = 0 ∧
      decide (pg % 4096 ≠ 0 ∨ n = 0 ∨ 2 ^ 20 < n ∨ 2 ^ 39 < pg + 4096 * n) = !x.2.2) ∧
    (∀ n ∈ [4096, 7], (flipAt 0 n 1 none).flip = none ∧ (flipAt 0 n 1 none).regF 0x220014 0 1 = 1 ∧
      (4096 ≤ (flipAt 0 n 1 none).reg 0x220010 ∨ (flipAt 0 n 1 none).oV 7 = false)) ∧
    (∀ x ∈ [(true, []), (false, []), (true, [2]), (false, [2])], (flipping x.1 (!x.1) x.2).regF 0x280008 0 1 = 0 ∧
      (flipping x.1 (!x.1) x.2).flipPage = some 1) := by
  decide +kernel

/-- The page is clear for the flip each way, and is not: line 32 has a lease, or the host holds it. -/
theorem wit_HostAndBias_page :
    (∀ ln : Nat, (flipping true false []).latestLease ln ≤ (flipping true false []).gtime) ∧
    (∀ ln : Nat, fget 0 ln (flipping false false []).snoop = 0) ∧
    32 / 32 = 1 ∧ ¬ ({ flipping true false [] with lines := [(32, { LineMeta.init with latest := 5 })] } : State).latestLease 32 ≤
      (flipping true false []).gtime ∧
    fget 0 32 ({ flipping false false [] with snoop := [(32, 2)] } : State).snoop ≠ 0 := by
  refine ⟨fun _ => ?_, fun _ => rfl, by decide +kernel, by decide +kernel, by decide +kernel⟩
  exact Nat.zero_le _

/-- The host is there; it holds line 5 as `m`, and the line's page has bias `b`. -/
def hostThere (b m : Nat) : State :=
  { State.reset with hostUp := true, bias := fset 0 0 b [], snoop := fset 0 5 m [], mem := [(0x280, 7)] }

theorem wit_HostAndBias_memory :
    (∀ s ∈ [hostThere 0 0, hostThere 1 2], s.hostUp = true ∧ s.hostLost = false ∧ s.flipPage = none ∧ s.lnxHead 5 = false ∧ s.sharers = [] ∧
      (s.lineMeta 5).owner = none ∧ (s.lineMeta (2 ^ 32 - 1)).owner = none) ∧
    (hostThere 1 2).hostBias 0x280 = true ∧ (hostThere 1 2).hostBias (2 ^ 39 - 1) = false ∧ (hostThere 0 0).hostBias 0x280 = false ∧
    fget 0 5 (hostThere 1 2).snoop ≠ 0 ∧
    -- a whole line, the last byte of device memory, and an answer with data and without
    (∀ x ∈ [(0x280, 128), (2 ^ 39 - 1, 1)], x.1 % 128 + (List.replicate x.2 (0 : Byte)).length ≤ 128 ∧
      x.1 + (List.replicate x.2 (0 : Byte)).length ≤ 2 ^ 39 ∧ List.replicate x.2 (0 : Byte) ≠ []) ∧
    (∀ x ∈ [2 ^ 41, 2 ^ 42 - 1], 2 ^ 48 ≤ 128 * x ∧ 128 * x < 2 ^ 49) := by
  decide +kernel

/-- The link has been down since time `t`; PHASE is `ph`. -/
def linkDown (ph t : Nat) (lost : Bool) : State :=
  withRegs [(0x290000, BitVec.ofNat 32 (ph + 0x10200))]
    { hostThere 1 2 with hostUp := false, hostDownAt := t, gtime := 20060, hostLost := lost,
                         launches := [(3, { placedLaunch with id := 3 })], blocks := [(0, { placedBlock with launch := 3 })],
                         cores := [(3, { Core.init with sq := [{ id := 4, wid := 0, launch := 3, line := 2 ^ 41, writes := [(0, 2 ^ 48, [1])],
                                                                  vas := [], strong := true, asid := 0, gwct := none }] })] }

theorem wit_HostAndBias_link :
    (hostThere 0 0).hostUp = true ∧
    (∀ x ∈ [(60, true), (61, false)], let s := linkDown 1 x.1 false
      decide (s.hostUp = false ∧ s.hostLost = false ∧ s.regF 0x290000 0 2 = 1 ∧ s.hostDownAt + 20000 ≤ s.gtime) = x.2) ∧
    (∀ x ∈ (linkDown 1 60 false).cores, ∀ e ∈ x.2.sq, isHost (128 * e.line) = true ∧ e.writes ≠ []) ∧
    (fget 0 5 (linkDown 1 60 false).snoop ≠ 0 ∧ (linkDown 1 60 false).hostBias (128 * 5) = true) ∧
    ((linkDown 1 60 false).launch 3).any (fun L => L.status == 0) = true ∧
    (∀ s ∈ [linkDown 1 61 false, linkDown 3 60 true, linkDown 2 61 false, linkDown 1 60 false], s.hostUp = false ∧ s.regF 0x290000 0 2 ≠ 0) ∧
    ((linkDown 1 61 false).hostLost = false ∧ (linkDown 1 61 false).regF 0x290000 0 2 ≠ 2 ∧
      (linkDown 1 61 false).gtime < (linkDown 1 61 false).hostDownAt + 20000) ∧
    (linkDown 3 60 true).hostLost = true ∧ (linkDown 2 61 false).regF 0x290000 0 2 = 2 := by
  decide +kernel

/-- Port `p` is in state `st` with failed lanes `m` since time 100. -/
def portIn (p st m now : Nat) : State :=
  withRegs [(portOff p, BitVec.ofNat 32 (st + 0x880))] { State.reset with portLanes := fset 0 p m [], portTime := fset 0 p 100 [], gtime := now }

theorem wit_FabricAndObjects_ports :
    -- the first, second and third lane to fail; the spare; a retraining in time and too late; a port to die and not
    (∀ x ∈ [(0, 0, 0), (23, 7, 1), (0, 7, 3)], let s := portIn x.1 2 x.2.2 200
      x.1 < Config.ports ∧ x.2.1 < 8 ∧ s.inval = [] ∧ bitOf (fget 0 x.1 s.portLanes) x.2.1 = false ∧ fget 0 x.1 s.portLanes < 256 ∧
      s.regF (portOff x.1) 0 3 = 2 ∧
      ((List.range 9).filter (fun k => bitOf (fget 0 x.1 s.portLanes + 2 ^ x.2.1) k)).length ≤ 3) ∧
    (fget 0 23 (portIn 23 2 0 200).portLanes = 0 ∧ (portIn 23 2 0 200).regF (portOff 23) 0 3 = 2) ∧
    (∀ x ∈ [(3, 1, 12099, true, false), (3, 1, 12100, false, true), (3, 7, 200, false, true), (2, 1, 200, false, false), (4, 7, 12100, false, true)],
      let s := portIn 5 x.1 x.2.1 x.2.2.1
      let n := ((List.range 9).filter (fun k => bitOf (fget 0 5 s.portLanes) k)).length
      s.inval = [] ∧ decide (s.regF (portOff 5) 0 3 = 3 ∧ n < 3 ∧ s.gtime + 1 ≤ fget 0 5 s.portTime + 12000) = x.2.2.2.1 ∧
      (x.1 = 4 ∨ decide ((s.regF (portOff 5) 0 3 = 3 ∧ fget 0 5 s.portTime + 12000 < s.gtime + 1) ∨ 3 ≤ n) = x.2.2.2.2)) := by
  decide +kernel

/-- Peer 2 has been reported; core 3 has a store of its line 5 and an older replica. -/
def peerGoing : State :=
  let line := (2 ^ 60 + 2 * 2 ^ 39) / 128 + 5
  withRegs [(apOff 9, 0x00200002)] { State.reset with
    peerLost := [2, 7], sharers := [(0, [(2, 5), (7, 5)])],
    cores := [(3, { Core.init with sq := [{ id := 4, wid := 0, launch := 0, line := line, writes := [(0, 128 * line, [1])], vas := [],
                                            strong := true, asid := 0, gwct := none }] })] }

theorem wit_FabricAndObjects_peers :
    2 ∈ peerGoing.peerLost ∧ peerGoing.inval = [] ∧ bitOf (peerGoing.reg (apOff 9)).toNat 21 = true ∧
    (peerGoing.reg (apOff 9)).toNat % 2 ^ 21 = 2 ∧
    (∀ x ∈ peerGoing.cores, ∀ e ∈ x.2.sq, 2 ^ 60 ≤ 128 * e.line ∧ (128 * e.line - 2 ^ 60) / 2 ^ 39 = 2 ∧ e.writes ≠ []) ∧
    2 ^ 60 ≤ 128 * ((2 ^ 60 : Nat) / 128) := by
  decide +kernel

/-- Registers of object `o`: two runs of one line each from `base` on, of kind 0; V and STATE. -/
def objRegs (o base v st : Nat) : List (Nat × Word) :=
  [(objOff o, BitVec.ofNat 32 base), (objOff o + 8, BitVec.ofNat 32 v), (objOff o + 0x0C, 256), (objOff o + 0x10, 0), (objOff o + 0x14, 0),
   (objOff o + 0x18, 128), (objOff o + 0x1C, 2), (objOff o + 0x20, 1), (objOff o + 0x24, 1), (objOff o + 0x28, BitVec.ofNat 32 st)]

/-- The BAR 2 registers of those objects, with this device's partition that of peer 2. -/
def partOfPeer (es : List (Nat × Word)) : State :=
  { State.reset with bar2 := (0x8C001, BitVec.setWidth 32 (Config.peerPart 2)) :: es.map (fun e => (e.1 / 4, e.2)) }

/-- Those of object 0 at line 8 that are not zero. -/
def objShort : List (Nat × Word) :=
  [(objOff 0, 0x400), (objOff 0 + 8, 1), (objOff 0 + 0x0C, 256), (objOff 0 + 0x18, 128), (objOff 0 + 0x1C, 2), (objOff 0 + 0x20, 1),
   (objOff 0 + 0x24, 1), (objOff 0 + 0x28, 1)]

theorem wit_FabricAndObjects_part (es : List (Nat × Word)) : (Config.peerPart 2).toNat = (partOfPeer es).myPart := by
  have h : (partOfPeer es).reg 0x230004 = BitVec.setWidth 32 (Config.peerPart 2) := by
    simp [State.reg, partOfPeer, tget]
  have hb := (Config.peerPart 2).isLt
  simp only [State.myPart, State.regF, h, bitsOf, BitVec.toNat_setWidth]
  omega

theorem wit_FabricAndObjects_replicas :
    -- a line of the object that no peer shares, that this peer shares, that the full object shares; one of no object
    (∀ sh ∈ [[], [(2, 10)], (List.range 15).map (fun k => (k + 3, 8))], ∀ s ∈ [{ partOfPeer objShort with sharers := [(0, sh)] }],
      s.hostBias (128 * 8) = false ∧ s.lineHeld 8 = false ∧ 2 ∉ s.peersGone ∧ s.replObj 8 = some 0 ∧ (2, 8) ∉ tgetD [] 0 s.sharers ∧
      ((∃ x ∈ tgetD [] 0 s.sharers, x.1 = 2) ∨ s.regF (objOff 0 + 0x28) 8 8 < 16)) ∧
    (∀ s ∈ [{ partOfPeer objShort with sharers := [(0, [(2, 8)])] }], s.replObj 8 = some 0 ∧ (2, 8) ∈ tgetD [] 0 s.sharers) ∧
    (partOfPeer objShort).replObj (2 ^ 32 - 1) = none ∧ ((partOfPeer objShort).lineMeta (2 ^ 32 - 1)).owner = none ∧
    (partOfPeer objShort).lineHeld (2 ^ 32 - 1) = false := by
  decide +kernel

/-- An invalidation of object 0's line 8 is under way at peer 2; a store of the line is performed. -/
def invalidating : State :=
  { withRegs (objRegs 0 0x400 1 2) State.reset with inval := [(0, 2, 8)], sharers := [(0, [(2, 8)])] }

/-- The checks of an object: its shape, whether it meets an object in use, V and STATE. -/
def objChecks (o : Nat) (s : State) : Bool × Bool × Nat × Nat :=
  let f (k : Nat) : Nat := (s.reg (objOff o + k)).toNat
  let b := (s.reg64 (objOff o)).toNat
  (b % 128 == 0 && decide (f 8 < 4) && f 0x0C % 128 == 0 && f 0x10 % 128 == 0 && f 0x14 % 128 == 0 && f 0x18 != 0 && f 0x18 % 128 == 0 &&
    decide (1 ≤ f 0x1C) && decide (1 ≤ f 0x20) && decide (1 ≤ f 0x24) && decide (f 0x1C * f 0x20 * f 0x24 * (f 0x18 / 128) ≤ 2 ^ 22) &&
    decide (b + (f 0x1C - 1) * f 0x0C + (f 0x20 - 1) * f 0x10 + (f 0x24 - 1) * f 0x14 + f 0x18 ≤ 2 ^ 39),
   s.liveObjs.any (fun p => p != o && decide (1 ≤ s.regF (objOff p + 0x28) 0 8) && decide (s.regF (objOff p + 0x28) 0 8 ≤ 3) && s.objMeet o p),
   s.regF (objOff o + 8) 0 1, s.regF (objOff o + 0x28) 0 8)

theorem wit_FabricAndObjects_objects :
    -- lines of a peer that is there, and of one that is gone
    (∀ line ∈ [2 ^ 53, 2 ^ 53 + 2 ^ 53 - 1], 2 ^ 60 ≤ 128 * line ∧ (128 * line - 2 ^ 60) / 2 ^ 39 ∉ State.reset.peersGone) ∧
    (128 * (2 ^ 53 + 5) - 2 ^ 60) / 2 ^ 39 ∈ ({ State.reset with peersGone := [0] } : State).peersGone ∧
    (0, 2, 8) ∈ invalidating.inval ∧ 2 ∉ invalidating.peersGone ∧ (∀ x ∈ invalidating.inval, x.1 = 0 → x = (0, 2, 8)) ∧
    (∀ x ∈ [(withRegs (objRegs 4095 0x400 0 5) State.reset, (true, false, 0, 5)),
        (withRegs (objRegs 4095 0x400 1 0) State.reset, (true, false, 1, 0)),
        (withRegs (objRegs 4095 0x440 1 0) State.reset, (false, false, 1, 0)),
        (withRegs (objRegs 4095 0x500 1 0 ++ objRegs 0 0x400 1 1) State.reset, (true, true, 1, 0))],
      (∀ y ∈ x.1.inval, y.1 ≠ 4095) ∧ objChecks 4095 x.1 = x.2) ∧
    (∀ sh ∈ [[], [(2, 8), (2, 10)]],
      ∀ s ∈ [({ withRegs (objRegs 4095 0x400 1 1) State.reset with sharers := [(4095, sh)] } : State)], s.inval = [] ∧
        s.regF (objOff 4095 + 8) 0 1 = 1 ∧ tgetD [] 4095 s.sharers = sh ∧ sh.Nodup) := by
  decide +kernel

/-- Line 8 is logged, line 9 held by the engine for the interval `n`. -/
def logged (n : Nat) (regs : List (Nat × Word)) : State :=
  withRegs regs { State.reset with
    undoLog := [{ line := 8, bytes := List.replicate 128 7, poison := (0, 2) }],
    dram := [(9, { interval := n, bytes := List.replicate 128 9, poison := (0, 0) })] }

theorem wit_MemoryErrorsAndUndo :
    (∀ pa ∈ [9 * 128 + 64, 2 ^ 39 - 1], pa < 2 ^ 39) ∧
    (tget ((9 * 128 + 64) / 128) (logged 0 []).dram).isSome = true ∧ tget ((2 ^ 39 - 1) / 128) (logged 0 []).dram = none ∧
    -- a restore that may go ahead (a job is frozen), and one that may not, for each reason
    (∀ x ∈ [([(jOff 4095 + 0xC, (0x300 : Word))], true), ([(0x280008, 0x10)], false), ([(jOff 4095 + 0xC, 0x100)], false)],
      keysRise 0 (logged 0 x.1).bar2 = true ∧ (logged 0 x.1).blocks = [] ∧
      decide ((logged 0 x.1).regF 0x280008 4 1 = 0 ∧ ((logged 0 x.1).jState 4095 = 0 ∨ (logged 0 x.1).jState 4095 = 3)) = x.2) ∧
    (placed .nop).blocks ≠ [] ∧
    ((logged 0 []).undoLog.map LogLine.line).Nodup ∧ (logged 0 []).undoLog.all (fun e => e.bytes.length == 128) = true ∧
    keysRise 0 (logged 0 []).dram = true ∧ (logged 0 []).dram.all (fun e => e.2.bytes.length == 128) = true ∧
    (logged 0 []).interval = 0 ∧
    (List.range 4096).all (fun j => (logged 0 [(jOff 4095 + 0xC, 0x300)]).jState j == 0 ||
      (logged 0 [(jOff 4095 + 0xC, 0x300)]).jState j == 3) = true := by
  decide +kernel

/-- A report of a start in which all is well. -/
def goodStart : StartReport :=
  { fwSigOk := true, fwArc := 7, fwVer := 0x30001, fw2SigOk := true, fw2Arc := 7, fw2Ver := 0x20001, stacksOk := true, dieOk := [true, true, true, true], failedCores := [], timeOk := true,
    vendorOk := true, vendorArc := 7, hostOk := true, ports := [0, 23], inTime := true }

/-- The device before its start: PHASE, RECOVERY and FAILS; the anti-rollback value is 7. -/
def starting (ph rec fails : Nat) : State :=
  withRegs [(0x290000, BitVec.ofNat 32 (ph + 8 * rec + 256 * fails))] { State.reset with fuse := 7 }

theorem wit_StartsAndManagement_start :
    (∀ x ∈ [(0, 0), (2, 0)], (starting 0 x.2 x.1).regF 0x290000 0 2 = 0 ∧ (starting 0 x.2 x.1).regF 0x290000 8 4 < 3 ∧
      (starting 0 x.2 x.1).regF 0x290000 3 1 = 0 ∧ (starting 0 x.2 x.1).fuse ≤ goodStart.fwArc ∧ (starting 0 x.2 x.1).fuse ≤ goodStart.vendorArc) ∧
    (∀ x ∈ [(0, 0), (1, 3)], (starting 0 x.1 x.2).regF 0x290000 0 2 = 0 ∧ (starting 0 x.1 x.2).regF 0x290000 3 1 = x.1) ∧
    (∀ ph ∈ [1, 2, 3], (starting ph 0 0).regF 0x290000 0 2 ≠ 0) ∧
    -- the second image, none for its age, and none for its signature
    (let f := (starting 0 0 0).fuse
     let r : StartReport := { goodStart with fwArc := 6 }
     r.fwArc < f ∧ r.fw2SigOk = true ∧ f ≤ r.fw2Arc ∧ ({ r with fw2Arc := 5 } : StartReport).fw2Arc < f ∧
       ({ r with fw2SigOk := false } : StartReport).fw2SigOk = false) ∧
    ({ goodStart with vendorArc := 6 } : StartReport).vendorArc < (starting 0 0 0).fuse ∧
    ({ goodStart with dieOk := [true, true, true, false] } : StartReport).dieOk.getD 3 false = false := by
  decide +kernel

theorem wit_StartsAndManagement_manage :
    keysRise 0 (withRegs [(jOff 4095 + 0xC, 0x200)] State.reset).bar2 = true ∧
    (withRegs [(jOff 4095 + 0xC, 0x200)] State.reset).jState 4095 ≠ 0 ∧ keysRise 0 State.reset.bar2 = true ∧
    (List.range 4096).all (fun j => State.reset.jState j == 0) = true ∧ 255 < Config.cores ∧
    -- offsets with no reserved field, with some, and with a value that is stored as another
    (∀ off ∈ [0x170008, 0x200000, 0x290010, 0x40 * 16383, 0x180000 + 8 * 65535, 0x150010], off % 4 = 0) ∧
    (storedAs 0x170008 (State.reset.reg 0x170008).toNat = (State.reset.reg 0x170008).toNat) ∧
    (∀ q ∈ [true, false], (withRegs [(8, if q then 0x00400004 else 4)] State.reset).qEn 0 = q) := by
  decide +kernel

theorem wit_StartsAndManagement_stored : ∀ x : Nat, storedAs 0x170008 x = x := by
  intro x
  simp [storedAs]

/-- A launch that asks for room on a die: launch 7 of job 0, of priority 3, skipped since `since`; its blocks need more scratch than
the placed one leaves. -/
def asker (since : Nat) : Launch :=
  { placedLaunch with id := 7, skipped := true, skipSince := since, stage := .waiting, nextCluster := 0, blocksLeft := 0,
                      hdr := placedLaunch.hdr ||| BitVec.ofNat 1024 (3 * 2 ^ 40 + 0x30000 * 2 ^ 256) }

/-- It asks; job 0 is open, its CORES is 1, and its save area is 64 units. -/
def skippedFor (since : Nat) : State :=
  let s := withRegs [(jOff 0 + 0xC, 0x10107), (saOff 0, 0x100000), (saOff 0 + 8, 64)] (withCluster (placed .nop))
  { s with launches := tset 7 (asker since) s.launches, gtime := 5000 }

/-- The premise `asks`. -/
def asksB (s : State) : Bool :=
  (s.launch 7).any (fun L => L.skipped && s.isReady L && decide (L.skipSince + 1000 ≤ s.gtime) && s.pre.all (fun r => r.launch != some 7))

theorem wit_Preemption_request :
    asksB (skippedFor 4000) = true ∧ asksB (skippedFor 4001) = false ∧
    -- the placed block's cluster makes the room on die 0; no other die has a candidate
    ([0, 1, 2, 3].map (fun d => State.takeUnits (skippedFor 4000) (asker 4000) d (((skippedFor 4000).candidates (asker 4000) d []).length + 1) []
      ((skippedFor 4000).candidates (asker 4000) d []))) = [some [(0, 0)], none, none, none] ∧
    -- no candidate at all
    [0, 1, 2, 3].all (fun d => ({ skippedFor 4000 with clusters := [] } : State).candidates (asker 4000) d [] == []) = true := by
  decide +kernel

/-- A request of launch 7 for core 0, whose victim, chosen at `t`, is the placed block's cluster; or none. -/
def aRequest (l : Option Nat) (t : Nat) (n : Nat) (cores : List Nat) (vs : Bool) : PreReq :=
  { launch := l, die := 0, victims := if vs then [{ launch := 0, cluster := 0, time := t }] else [], cores := cores, gone := [], abandoned := n }

def requested (r : PreReq) : State := { skippedFor 4000 with pre := [r] }

theorem wit_Preemption_abandon :
    (∀ x ∈ [(aRequest (some 7) 3001 0 [0] true, false), (aRequest (some 7) 3000 0 [0] true, true), (aRequest (some 7) 3000 3 [] true, true),
        (aRequest none 3000 0 [] true, true)],
      x.1.victims.all (requested x.1).overdue = x.2) ∧
    ((requested (aRequest (some 7) 3000 3 [] true)).launch 7).isSome = true ∧
    -- two victims, of which one is left
    (∀ r ∈ [{ aRequest (some 7) 3000 3 [0] true with victims := [{ launch := 0, cluster := 0, time := 3000 }, { launch := 9, cluster := 0, time := 4000 }] }],
      r.victims.find? (requested r).overdue = some { launch := 0, cluster := 0, time := 3000 } ∧
      r.victims.filter (fun x => !((requested r).victimUnit 0 0).contains (x.launch, x.cluster)) ≠ []) := by
  decide +kernel

/-- The placed block, made small, with its warp at a run boundary; its save area is at `base`, of `size` units. -/
def atRest (base size : Nat) (r : PreReq) : State :=
  let s := onWarp (onLanes (fun _ y => { y with run := none })) (requested r)
  let s := onWarp (fun w => { w with vregs := 2, sregs := 2, v := [(0, 7), (63, 9)] }) s
  let s := (s.modCore 0 (fun k => { k with seqs := List.replicate 8 none })).modBlock 0 (fun b => { b with tiles := [], cbufs := [] })
  let s := s.modLaunch 0 (fun L => { L with hdr := L.hdr &&& ~~~(BitVec.ofNat 1024 (0x1000 * 2 ^ 256 + 0x1000 * 2 ^ 288)) })
  withRegs [(saOff 0, BitVec.ofNat 32 base), (saOff 0 + 8, BitVec.ofNat 32 size)] s

/-- The premise `only`. -/
def onlyB (r : PreReq) (s : State) : Bool :=
  s.pre == [r] && (s.block 0).isSome && r.victims.map (fun v => (v.launch, v.cluster)) == [(0, 0)] &&
    (s.clusterBlocks 0 0).map Prod.fst == [0] && (s.launch 0).any (fun L => L.flags % 2 == 0)

/-- Where the image goes and what its writes answer. -/
def saving (s : State) : Option (Option FaultInfo) :=
  let v := s.compareTiles 0
  let bs := v.blockImage 0
  (s.fitRange 0 s.ranges (unitsFor bs.length)).map (fun base =>
    (v.imageWrites (viaCore (s.jAsid 0) 0) ((s.reg64 (saOff 0)).toNat + 65536 * base) ((bs.length + 15) / 16) bs 0).1)

theorem wit_Preemption_save :
    (∀ r ∈ [aRequest (some 7) 3000 0 [0] true, aRequest none 3000 0 [0] true], ∀ s ∈ [atRest 0x100000 1 r],
      (onlyB r s && s.blockStill 0 && s.drained 0) = true) ∧
    (onlyB (aRequest (some 7) 3000 0 [0] true) (requested (aRequest (some 7) 3000 0 [0] true)) = true ∧
      (requested (aRequest (some 7) 3000 0 [0] true)).blockStill 0 = false) ∧
    ((requested (aRequest (some 7) 3000 0 [0] true)).modBlock 0 (fun b => { b with savedOn := some 0 })).clusterBlocks 0 0 = [] := by
  decide +kernel

theorem wit_Preemption_save_fits : saving (atRest 0x100000 1 (aRequest (some 7) 3000 0 [0] true)) = some none := by
  decide +kernel

theorem wit_Preemption_save_stops :
    saving (atRest 0x100000 0 (aRequest (some 7) 3000 0 [0] true)) = none ∧
    saving { atRest 0x100000 1 (aRequest none 3000 0 [0] true) with
      flip := some { pages := [0x100], toHost := true, lost := false } } = some (some heldFault) ∧
    ((saving (atRest 0x20000000 1 (aRequest (some 7) 3000 0 [0] true))).any (fun f => f.any (fun f => f != heldFault && f.code != 0x0B))) = true := by
  decide +kernel

/-- The small block saved, its core vacated or not; its image, all zero but for some words, is at 0x100000. -/
def savedAway (held : Bool) (at' : Nat) (r : PreReq) : State :=
  let s := (atRest 0x100000 1 r).modBlock 0 (fun b => { b with savedOn := some 0, held := held, saveOrder := 3, imageAt := at' })
  { s with ranges := [{ job := 0, launch := 0, blk := 0, base := 0, units := 1 }], launches := ferase 7 s.launches,
           mem := wrMem 0x100600 [0x80, 0, 4] s.mem }

/-- Core 0 has failed; `n` spares of its die are used. -/
def coreDead (n : Nat) (s : State) : State :=
  State.modCore 0 (fun k => { k with failed := true }) { s with spares := fset 0 0 (2 ^ n - 1) [] }

theorem wit_Preemption_vacate :
    -- a victim still on the core; an image not yet acknowledged; a core to vacate
    (requested (aRequest (some 7) 3000 0 [0] true)).clusterBlocks 0 0 ≠ [] ∧
    (∀ x ∈ [(5001, false), (5000, true)], let s := savedAway true x.1 (aRequest (some 7) 3000 0 [0] false)
      s.inval = [] ∧ s.pre.all (fun r => r.victims.isEmpty && r.cores == [0] && r.launch == some 7) = true ∧
      s.blocks.all (fun e => e.2.core == 0 && e.2.savedOn.isSome && e.2.held && decide (e.2.imageAt ≤ s.gtime) == x.2) = true) ∧
    (∀ n ∈ [0, 3, 4], let s := coreDead n (savedAway true 5000 (aRequest none 3000 0 [0] false))
      (s.core 0).failed = true ∧ s.blocks.all (fun e => e.2.savedOn.isSome) = true ∧
      (List.range 4).all (fun k => bitOf (fget 0 (0 / 64) s.spares) k == decide (k < n)) = true) := by
  decide +kernel

/-- The premises of the block's resumption, but its image. -/
def resumesBlock (s : State) : Bool :=
  keysRise 0 s.blocks && s.pickBest == some 0 && s.savedClusters 0 == [0] && s.savedBlocks 0 0 == [0] && s.clusterBlocks 0 0 == [] &&
    tget 0 s.saved == none && (s.launch 0).any (fun L => L.id == 0 && L.flags % 2 == 0 &&
      (match (s.dieOrder L L.costs).find? (fun d => s.coresFor L (s.savedCosts 0 L.warpsPB) d != []) with
        | some d => minBy (fun c => (s.coreWarps c).length) (s.coresFor L (s.savedCosts 0 L.warpsPB) d) == some 0
        | none => false)) &&
    fwf 0 (s.core 0).scratch && (s.block 0).any (fun b => !b.done) && s.warpsOf 0 == [0] &&
    (s.warp 0).any (fun w => w.parked.isEmpty && fwf 0 w.v && decide (w.lanes.length = 32))

theorem wit_Preemption_resume :
    resumesBlock (savedAway false 5000 (aRequest (some 7) 3000 0 [] false)) = true ∧
    -- another launch is picked, or the core is not vacated
    (requested (aRequest (some 7) 3000 0 [0] true)).pickBest ≠ some 0 ∧
    ((savedAway true 5000 (aRequest (some 7) 3000 0 [] false)).savedClusters 0).head? = none ∧
    -- resumed and waiting, with what it waits for done and not
    (∀ x ∈ [(0, 0, true), (3, 5000, true), (3, 5001, false)],
      ∀ s ∈ [onWarp (fun w => { w with lwct := x.2.1 })
        ((atRest 0x100000 1 (aRequest (some 7) 3000 0 [] false)).modBlock 0 (fun b => { b with resumeWait := true, saveOrder := x.1 }))],
      s.pickBest ≠ some 0 ∧ (s.clusterBlocks 0 0).map Prod.fst = [0] ∧ tget 0 s.saved = none ∧
      (s.block 0).any (fun b => b.resumeWait && b.saveOrder == x.1) = true ∧
      (s.warp 0).any (fun w => w.parked.isEmpty && decide (w.lwct ≤ s.gtime) == x.2.2) = true) := by
  decide +kernel

theorem wit_Preemption_image :
    (match (savedAway false 5000 (aRequest (some 7) 3000 0 [] false)).launch 0 with
      | some L => ((savedAway false 5000 (aRequest (some 7) 3000 0 [] false)).imageBack L 0 0).any (fun bs =>
          bs.length == (savedAway false 5000 (aRequest (some 7) 3000 0 [] false)).imageSize 0 && (bs.drop 1536).take 3 == [0x80, 0, 4])
      | none => false) = true := by
  decide +kernel

theorem wit_EncodedWordsDecode :
    [(.iadd true .z32 (.v 3) .lane (.v 4)), (.lnx .none (.v 10) (.v 4) (.v 16) (.v 12) (.s 8) 3 5 1), (.hret none), .exit,
      (.wideForm (.mfn .rsq (.v 1) (.uni (.s 2))))].all (fun (i : Instr) => i.encodable && i.wf) = true := by
  decide +kernel

theorem wit_DecodedWordsEncode :
    [[0x0000FCF9], [0x65010280, 0x00400C08], [0xFA1C0270, 0x30800100, 0x00001000], [0xFA1FE270, 0x30800100, 0x00001000]].all
      (fun (ws : List Word) => ws.length == lengthOf (ws.getD 0 0) && (match decode ws with | .ok _ => true | .error _ => false)) = true := by
  decide +kernel

/-- An outcome is a next state. -/
def isNext (o : Host.Outcome State Fault Refusal) : Bool :=
  match o with
  | .next _ => true
  | _ => false

theorem isNext_spec {o : Host.Outcome State Fault Refusal} (h : isNext o = true) : ∃ t, o = .next t := by
  cases o with
  | next t => exact ⟨t, rfl⟩
  | _ => cases h

theorem wit_StepsKeepMemoryForm : Memory.wf (placed .nop).mem = true ∧ ∃ t, Steps (placed .nop) t :=
  ⟨by decide +kernel, isNext_spec (by decide +kernel)⟩

/-- The placed run holds the words `ws`; slot 0 of the fabric in force acts on its first word as `c` says, `r` its
replacement. -/
def slotted (ws : List Word) (c r : Nat) : State :=
  let s := State.reset.withFetchWord (32 * ws.length) (wordsNat ws)
  let s := match s.seqAt 0 0 0 with
    | some b => (s.startRun 0 0 0 b).2
    | none => s
  let x := BitVec.ofNat 512 ((ws.headD 0).toNat + 0xFFFFFFFF * 2 ^ 64 + r * 2 ^ 192 + c * 2 ^ 256)
  { s with graft := { s.graft with slots := x :: s.graft.slots.drop 1 } }

/-- The premises of an issue turn, and what stands there. -/
def turnB (s : State) (p : GAct → Except DecodeErr Instr → Bool) : Bool :=
  s.turn == .issue 0 0 0 && (s.seqAt 0 0 0).any (fun b => b.run.isSome && !s.inFlight 0 b.wid && !s.partFull 0 0 b.wid) &&
    !s.coreHalted 0 && s.ctx?.any (fun c => (s.warp c.wid).any (fun w =>
      p (if c.inGraft then GAct.native else graftAct (s.graftOf c.gen).slots w.g16 c.n c.raw) (decode c.words)))

theorem wit_StepsRunDecoded_issue :
    turnB (slotted (encode .nop) 0 0) (fun a d => a == .native && d matches .ok .nop) = true ∧
    turnB (slotted [0x15000000] 0 0) (fun a d => a == .native && d matches .error .illegalOpcode) = true ∧
    turnB (slotted [0x57000001] 0 0) (fun a d => a == .native && d matches .error .illegalEncoding) = true := by
  decide +kernel

theorem wit_StepsRunDecoded_slots :
    turnB (slotted (encode .nop) 0x80000000 0) (fun a _ => a == .trap 0) = true ∧
    turnB (slotted (encode .nop) 0x84000000 0x57000000) (fun a _ => a == .rewrite [0x57000000]) = true ∧
    turnB (slotted (encode .nop) 0x88000000 0) (fun a _ => a == .emulate 0) = true := by
  decide +kernel

/-- The same turn with its run not yet fetched. -/
def unfetched : State := (State.reset.withFetchWord 32 ((encode .nop).headD 0).toNat)

theorem wit_StepsRunDecoded_fetch :
    (unfetched.turn == .issue 0 0 0 && (unfetched.seqAt 0 0 0).any (fun b => b.run.isNone && b.start.toNat % 4 == 0 && !unfetched.inFlight 0 b.wid &&
        !unfetched.partFull 0 0 b.wid && (unfetched.launchOf b.wid).all (fun L => !L.pedric) && (unfetched.warp b.wid).any (fun w =>
          match unfetched.runAt 0 (unfetched.asidOf b.wid) (w.inHandler 0 || w.inGraft 0) b.inGraft b.gen b.start 25 0 [] b.start with
          | (.ok r, _) => trailerOk r.trailer r.count
          | _ => false)) && !unfetched.coreHalted 0) = true := by
  decide +kernel

/-- The group of warp 0 waits mid-run; its sequencer is free. -/
def waitingMidRun : State :=
  match (placed .nop).seqAt 0 0 0 with
  | some b => onWarp (fun w => { w with waits := [b] })
      (State.modCore 0 (fun k => { k with seqs := List.replicate 8 none }) { placed .nop with turn := .resume 0 0 })
  | none => placed .nop

theorem wit_StepsRunDecoded_resume :
    (waitingMidRun.turn == .resume 0 0 && (waitingMidRun.warp 0).any (fun w => (w.waits[0]?).any (fun b => b.wid == 0 && b.run.isSome) &&
        [0, 1].find? (fun q => (waitingMidRun.seqAt (waitingMidRun.coreOf 0) w.part q).isNone) == some 0 &&
        !waitingMidRun.partFull (waitingMidRun.coreOf 0) w.part 0) &&
      !waitingMidRun.isBound 0 && !waitingMidRun.coreHalted (waitingMidRun.coreOf 0) &&
      !waitingMidRun.inFlight (waitingMidRun.coreOf 0) 0) = true := by
  decide +kernel

theorem wit_StepsRunDecoded_agent :
    ({ State.reset with turn := .take .refill } : State).turn = .take .refill ∧ isEvent .refill = true := by
  decide +kernel

/-- The state after one step of a placed instruction in a changed state. -/
def after (i : Instr) (f : State → State) : Option State :=
  match step (f (placed i)) with
  | .next t => some t
  | _ => none

/-- Vector register `n` of lane `l` of warp 0 after that step. -/
def vAfter (i : Instr) (f : State → State) (n l : Nat) : Option Word :=
  (after i f).bind (fun t => (t.warp 0).map (fun w => fget 0 (32 * n + l) w.v))

/-- Registers of lane 0: v1 is `x`, v2 is `y`, and v3 is `z`. -/
def v123 (x y z : Word) : State → State := onWarp (fun w => { w with v := [(32, x), (64, y), (96, z)] })

/-- -1 + 2 wraps to 1 (hand calculation). -/
theorem test_add_wraps : vAfter (.iadd false .z32 (.v 3) (.v 1) (.v 2)) (v123 0xFFFFFFFF 2 9) 3 0 = some 1 := by
  decide +kernel

/-- A signed product's upper half: -1 times 2 (hand calculation). -/
theorem test_mulhi_signed : vAfter (.imulhi .s32 (.v 3) (.v 1) (.v 2)) (v123 0xFFFFFFFF 2 9) 3 0 = some 0xFFFFFFFF := by
  decide +kernel

/-- The lane number is each lane's own. -/
theorem test_lane_number : (List.range 4).map (fun l => vAfter (.iadd false .z32 (.v 3) .lane .lane) id 3 l) = [some 0, some 2, some 4, some 6] := by
  decide +kernel

/-- A lane that is not in the group keeps its register. -/
theorem test_masked_lane : (List.range 2).map (fun l =>
    vAfter (.iadd false .z32 (.v 3) .lane .lane) (onWarp (fun w => lane1Off (allV 9 w))) 3 l) = [some 0, some 9] := by
  decide +kernel

/-- 1.5 + 2.25 = 3.75 (hand calculation). -/
theorem test_fadd : vAfter (.fadd .rz (.v 3) (.v 1) (.v 2)) (v123 0x3FC00000 0x40100000 0) 3 0 = some 0x40700000 := by
  decide +kernel

/-- A store reaches its line, low byte first, once its slice takes it (00 R5, hand calculation). -/
theorem test_store_bytes : ((after (.st false false .b32 none (atBase .g) (.v 1) 0) (fun s => v123 0xA1B2C3D4 0 0 (onWarp (fun w => { w with
    u := [(4, 0x80)] }) (halfBound s)))).map (fun t => (t.core 0).sq.flatMap (fun e => e.writes.map (fun x => x.2)))) =
    some [(0x80, [0xD4, 0xC3, 0xB2, 0xA1]), (0x80, [0, 0, 0, 0])] := by
  decide +kernel

/-- EXIT ends the lanes of the group. -/
theorem test_exit : ((after .exit id).bind (fun t => (t.warp 0).map (fun w => (List.range 4).all (fun l => (w.lane l).st != .live)))).getD true = true := by
  decide +kernel

end Sys2Proof.Tests
end

section
/-!
PROOFS. Bit fields of a number and of a register of BAR 2: which bits a write of a field replaces, and what the
fields of a word read after it (00 R6).
-/

namespace Sys2Proof.Machine

section Fields

theorem bitOf_eq_testBit (x i : Nat) : bitOf x i = x.testBit i := by
  simp [bitOf, Nat.testBit_eq_decide_div_mod_eq, beq_eq_decide]

theorem testBit_bitsOf (x lo w i : Nat) : (bitsOf x lo w).testBit i = (decide (i < w) && x.testBit (i + lo)) := by
  rw [bitsOf, Nat.testBit_mod_two_pow, Nat.testBit_div_two_pow]

theorem bitsOf_lt (x lo w : Nat) : bitsOf x lo w < 2 ^ w := Nat.mod_lt _ (Nat.two_pow_pos w)

/-- A number with a field replaced: what stood above the field, the field's new value, and what stood below. -/
theorem putBits_eq_concat (x lo w v : Nat) :
    putBits x lo w v = 2 ^ lo * (2 ^ w * (x / 2 ^ lo / 2 ^ w) + v % 2 ^ w) + x % 2 ^ lo := by
  have hx : 2 ^ lo * (x / 2 ^ lo) + x % 2 ^ lo = x := Nat.div_add_mod x _
  have hf : 2 ^ w * (x / 2 ^ lo / 2 ^ w) + bitsOf x lo w = x / 2 ^ lo := Nat.div_add_mod _ _
  have hsum : x = 2 ^ lo * (2 ^ w * (x / 2 ^ lo / 2 ^ w)) + bitsOf x lo w * 2 ^ lo + x % 2 ^ lo := by
    rw [Nat.mul_comm (bitsOf x lo w), ← Nat.mul_add, hf, hx]
  rw [putBits, Nat.mul_add, Nat.mul_comm (v % 2 ^ w)]
  omega

theorem testBit_putBits (x lo w v i : Nat) :
    (putBits x lo w v).testBit i = if lo ≤ i ∧ i < lo + w then v.testBit (i - lo) else x.testBit i := by
  rw [putBits_eq_concat, Nat.testBit_two_pow_mul_add _ (Nat.mod_lt _ (Nat.two_pow_pos lo)),
    Nat.testBit_two_pow_mul_add _ (Nat.mod_lt _ (Nat.two_pow_pos w))]
  by_cases hlow : i < lo
  · rw [if_pos hlow, if_neg (by omega), Nat.testBit_mod_two_pow, decide_eq_true hlow, Bool.true_and]
  · by_cases hin : i - lo < w
    · rw [if_neg hlow, if_pos hin, if_pos (by omega), Nat.testBit_mod_two_pow, decide_eq_true hin, Bool.true_and]
    · rw [if_neg hlow, if_neg hin, if_neg (by omega), Nat.testBit_div_two_pow, Nat.testBit_div_two_pow]
      congr 1
      omega

theorem putBits_lt {x lo w n : Nat} (v : Nat) (hx : x < 2 ^ n) (hw : lo + w ≤ n) : putBits x lo w v < 2 ^ n := by
  refine Nat.lt_pow_two_of_testBit _ fun i hi => ?_
  rw [testBit_putBits, if_neg (by omega)]
  exact Nat.testBit_lt_two_pow (hx.trans_le (Nat.pow_le_pow_right (by omega) hi))

theorem bitsOf_putBits_self (x lo w v : Nat) : bitsOf (putBits x lo w v) lo w = v % 2 ^ w := by
  refine Nat.eq_of_testBit_eq fun i => ?_
  rw [testBit_bitsOf, testBit_putBits, Nat.testBit_mod_two_pow, Nat.add_sub_cancel]
  by_cases h : i < w
  · rw [if_pos (by omega)]
  · simp [h]

theorem bitsOf_putBits_of_disjoint {x lo w v lo' w' : Nat} (h : lo' + w' ≤ lo ∨ lo + w ≤ lo') :
    bitsOf (putBits x lo w v) lo' w' = bitsOf x lo' w' := by
  refine Nat.eq_of_testBit_eq fun i => ?_
  rw [testBit_bitsOf, testBit_bitsOf, testBit_putBits]
  by_cases hi : i < w'
  · rw [if_neg (by omega)]
  · simp [hi]

end Fields

section Registers
variable (s : State) {off k lo w v lo' w' : Nat}

theorem State.regF_lt (off lo w : Nat) : s.regF off lo w < 2 ^ w := bitsOf_lt _ _ _

@[simp] theorem State.finish_regF (off lo w : Nat) : s.finish.regF off lo w = s.regF off lo w := by
  rw [State.regF, State.finish_reg, State.regF]

/-- A word of BAR 2 after a write of a field of it, as a number. -/
theorem State.setRegF_reg_toNat (h : lo + w ≤ 32) (hk : k / 4 = off / 4) :
    ((s.setRegF off lo w v).reg k).toNat = putBits (s.reg off).toNat lo w v := by
  rw [State.setRegF, State.setReg_reg, if_pos hk, BitVec.toNat_ofNat]
  exact Nat.mod_eq_of_lt (putBits_lt v (s.reg off).isLt h)

@[simp] theorem State.setReg_reg_of_ne {x : Word} (hk : k / 4 ≠ off / 4) : (s.setReg off x).reg k = s.reg k := by
  rw [State.setReg_reg, if_neg hk]

@[simp] theorem State.setRegF_reg_of_ne (hk : k / 4 ≠ off / 4) : (s.setRegF off lo w v).reg k = s.reg k := by
  rw [State.setRegF, s.setReg_reg_of_ne hk]

@[simp] theorem State.setReg_regF_of_ne {x : Word} (hk : k / 4 ≠ off / 4) :
    (s.setReg off x).regF k lo' w' = s.regF k lo' w' := by
  rw [State.regF, s.setReg_reg_of_ne hk, State.regF]

@[simp] theorem State.setRegF_regF_of_ne (hk : k / 4 ≠ off / 4) :
    (s.setRegF off lo w v).regF k lo' w' = s.regF k lo' w' := by
  rw [State.regF, s.setRegF_reg_of_ne hk, State.regF]

/-- A field of a register reads back as it was written, cut to its width. -/
@[simp] theorem State.setRegF_regF_self (h : lo + w ≤ 32) : (s.setRegF off lo w v).regF off lo w = v % 2 ^ w := by
  rw [State.regF, s.setRegF_reg_toNat h rfl, bitsOf_putBits_self]

/-- A write of a field leaves the word's other fields alone. -/
@[simp] theorem State.setRegF_regF_of_disjoint (h : lo + w ≤ 32) (hd : lo' + w' ≤ lo ∨ lo + w ≤ lo') :
    (s.setRegF off lo w v).regF off lo' w' = s.regF off lo' w' := by
  rw [State.regF, s.setRegF_reg_toNat h rfl, bitsOf_putBits_of_disjoint hd, State.regF]

end Registers

end Sys2Proof.Machine
end

section
/-!
PROOFS. Starts, resets, trips, power and temperature, and writes to the registers of BAR 2 (00 R6; 01 R33; 13
R291 to R298): what each shared operation makes of the state, then the event of each clause, and last the statement
StartsAndManagement.
-/

namespace Sys2Proof.Machine.Management

section Folds
variable {σ τ α : Type}

/-- What no element's step changes stands after the fold. -/
theorem foldl_keeps (obs : σ → τ) {f : σ → α → σ} {l : List α} (h : ∀ a ∈ l, ∀ s, obs (f s a) = obs s) (s : σ) :
    obs (l.foldl f s) = obs s :=
  List.foldlRecOn l f (motive := fun t => obs t = obs s) rfl fun t ht a ha => (h a ha t).trans ht

/-- What one element's step sets, and no other's changes, stands after the fold. -/
theorem foldl_sets (obs : σ → τ) {f : σ → α → σ} {l : List α} {a : α} {v : τ} (ha : a ∈ l)
    (own : ∀ s, obs (f s a) = v) (other : ∀ b ∈ l, b ≠ a → ∀ s, obs (f s b) = obs s) (s : σ) :
    obs (l.foldl f s) = v := by
  induction l using List.reverseRecOn with
  | nil => cases ha
  | append_singleton l b ih =>
    rw [List.foldl_append, List.foldl_cons, List.foldl_nil]
    by_cases hb : b = a
    · rw [hb, own]
    · have hal : a ∈ l := by simpa [Ne.symm hb] using ha
      rw [other b (by simp) hb, ih hal fun c hc => other c (by simp [hc])]

end Folds

section Frames

/-- Registers of BAR 2 change, and nothing else. -/
def RegsOnly (s t : State) : Prop := ∃ b, t = { s with bar2 := b }

theorem RegsOnly.refl (s : State) : RegsOnly s s := ⟨s.bar2, rfl⟩

theorem RegsOnly.trans {s t u : State} (h : RegsOnly s t) (h' : RegsOnly t u) : RegsOnly s u := by
  obtain ⟨b, rfl⟩ := h
  obtain ⟨c, rfl⟩ := h'
  exact ⟨c, rfl⟩

theorem setReg_regsOnly (off : Nat) (v : Word) (s : State) : RegsOnly s (s.setReg off v) := ⟨_, rfl⟩

theorem setRegF_regsOnly (off lo w v : Nat) (s : State) : RegsOnly s (s.setRegF off lo w v) := ⟨_, rfl⟩

theorem foldl_regsOnly {α : Type} {f : State → α → State} (l : List α) (h : ∀ s a, RegsOnly s (f s a)) (s : State) :
    RegsOnly s (l.foldl f s) :=
  List.foldlRecOn l f (motive := fun t => RegsOnly s t) (.refl s) fun t ht a _ => ht.trans (h t a)

theorem next_finish_congr {s t : State} (h : s = t) :
    (Host.Outcome.next s.finish : Host.Outcome State Fault Refusal) = .next t.finish := by rw [h]

/-- But for time, the schedule and the registers the state stands. -/
def Kept (s t : State) : Prop :=
  { t with turn := s.turn, tick := s.tick, fresh := s.fresh, gtime := s.gtime, bar2 := s.bar2 } = s

theorem RegsOnly.kept_finish {s t : State} (h : RegsOnly s t) : Kept s t.finish := by
  obtain ⟨b, rfl⟩ := h
  rfl

/-- The registers at the offsets outside `os` stand. -/
def RegsBut (s t : State) (os : List Nat) : Prop := ∀ o, o % 4 = 0 → o ∉ os → t.reg o = s.reg o

end Frames

section Resets

/-- Nothing is resident, no image is loaded, the link is down, and the clock begins again. -/
def Down (s t : State) : Prop :=
  t.warps = [] ∧ t.blocks = [] ∧ t.launches = [] ∧ t.cores = [] ∧
    t.queues = [] ∧ t.graphs = [] ∧ t.lines = [] ∧ t.graft = GraftGen.clear ∧ t.hostUp = false ∧
    t.fuse = s.fuse ∧ t.clkCount = 0 ∧ t.clkRate = 16 ∧ t.clkSince = s.gtime

theorem deviceReset_down (s : State) : Down s s.deviceReset.finish :=
  ⟨rfl, rfl, rfl, rfl, rfl, rfl, rfl, rfl, rfl, rfl, rfl, rfl, rfl⟩

theorem packagePowerOff_down (s : State) : Down s (evPackagePowerOff s).finish :=
  ⟨rfl, rfl, rfl, rfl, rfl, rfl, rfl, rfl, rfl, rfl, rfl, rfl, rfl⟩

/-- Where no word is listed, every register has its reset value. -/
theorem reg_of_bar2_nil {s : State} (h : s.bar2 = []) (off : Nat) : s.reg off = bar2Reset (off / 4) := by
  rw [State.reg, h]
  rfl

/-- PHASE, FAILS, REASON and the recovery bit after a device reset (13 R292, R294). -/
theorem deviceReset_status (s : State) :
    s.deviceReset.regF 0x290000 0 2 = 0 ∧ s.deviceReset.regF 0x290000 8 4 = s.regF 0x290000 8 4 ∧
      s.deviceReset.regF 0x290000 16 8 = s.regF 0x290000 16 8 ∧
      s.deviceReset.regF 0x290000 3 1 = if s.regF 0x290000 8 4 = 3 then 1 else 0 := by
  have hf := s.regF_lt 0x290000 8 4
  have hr := s.regF_lt 0x290000 16 8
  unfold State.deviceReset
  refine ⟨?_, ?_, ?_, ?_⟩
  · simp only [State.setRegF_regF_of_disjoint, Nat.reduceAdd, Nat.reduceLeDiff, true_or]
    rw [State.regF, reg_of_bar2_nil rfl]
    decide
  · simp only [State.setRegF_regF_of_disjoint, State.setRegF_regF_self, Nat.reduceAdd, Nat.reduceLeDiff, or_true, true_or]
    exact Nat.mod_eq_of_lt hf
  · simp only [State.setRegF_regF_of_disjoint, State.setRegF_regF_self, Nat.reduceAdd, Nat.reduceLeDiff, or_true]
    exact Nat.mod_eq_of_lt hr
  · simp only [State.setRegF_regF_self, Nat.reduceAdd, Nat.reduceLeDiff, b2n, beq_iff_eq]
    split <;> rfl

end Resets

section Failures

/-- The instruction ends a start for the reason `why`: the device resets with one failure more, or a minimal
start stops it (13 R293 to R295). -/
def Fails (i : Instr) (s : State) (why : Nat) : Prop :=
  (s.regF 0x290000 3 1 = 0 → ∃ t, exec i s = .next t ∧ t.regF 0x290000 0 2 = 0 ∧ t.regF 0x290000 16 8 = why ∧
    t.regF 0x290000 8 4 = min 3 (s.regF 0x290000 8 4 + 1) ∧
    t.regF 0x290000 3 1 = (if 2 ≤ s.regF 0x290000 8 4 then 1 else 0) ∧ Down s t ∧ t.mem = s.mem) ∧
  (s.regF 0x290000 3 1 = 1 → ∃ t, exec i s = .next t ∧ t.regF 0x290000 0 2 = 2 ∧ t.regF 0x290000 16 8 = why ∧ Kept s t)

theorem startFails_of_full {s : State} (h : s.regF 0x290000 3 1 = 0) (why : Nat) :
    s.startFails why = ((s.setRegF 0x290000 16 8 why).setRegF 0x290000 8 4
      (min 3 (s.regF 0x290000 8 4 + 1))).deviceReset := by
  simp [State.startFails, State.setRegF_regF_of_disjoint, h]

theorem startFails_of_minimal {s : State} (h : s.regF 0x290000 3 1 = 1) (why : Nat) :
    s.startFails why = (s.setRegF 0x290000 16 8 why).setRegF 0x290000 0 2 2 := by
  simp [State.startFails, State.setRegF_regF_of_disjoint, h]

/-- A failed start, where `s'` differs from the state before in registers other than these alone. -/
theorem fails_of_startFails {i : Instr} {s s' : State} {why : Nat} (hi : exec i s = .next (s'.startFails why).finish)
    (hs : RegsOnly s s') (hf : s'.regF 0x290000 8 4 = s.regF 0x290000 8 4)
    (hm : s'.regF 0x290000 3 1 = s.regF 0x290000 3 1) (hw : why < 2 ^ 8) : Fails i s why := by
  refine ⟨fun h => ⟨_, hi, ?_⟩, fun h => ⟨_, hi, ?_⟩⟩
  · rw [startFails_of_full (hm.trans h), hf]
    set u := (s'.setRegF 0x290000 16 8 why).setRegF 0x290000 8 4 (min 3 (s.regF 0x290000 8 4 + 1)) with hu
    have hfails : u.regF 0x290000 8 4 = min 3 (s.regF 0x290000 8 4 + 1) := by
      rw [hu, State.setRegF_regF_self _ (by omega)]
      omega
    have hwhy : u.regF 0x290000 16 8 = why := by
      rw [hu, State.setRegF_regF_of_disjoint _ (by omega) (by omega), State.setRegF_regF_self _ (by omega),
        Nat.mod_eq_of_lt hw]
    obtain ⟨hp, hn, hr, hv⟩ := deviceReset_status u
    refine ⟨hp, hr.trans hwhy, hn.trans hfails, hv.trans ?_, ?_⟩
    · rw [hfails]
      simp only [show min 3 (s.regF 0x290000 8 4 + 1) = 3 ↔ 2 ≤ s.regF 0x290000 8 4 by omega]
    · obtain ⟨b, rfl⟩ := hs
      exact ⟨deviceReset_down u, rfl⟩
  · rw [startFails_of_minimal (hm.trans h)]
    refine ⟨?_, ?_, ((hs.trans (setRegF_regsOnly ..)).trans (setRegF_regsOnly ..)).kept_finish⟩
    · exact State.setRegF_regF_self _ (by omega)
    · exact ((s'.setRegF 0x290000 16 8 why).setRegF_regF_of_disjoint (by omega) (by omega)).trans
        ((s'.setRegF_regF_self (by omega)).trans (Nat.mod_eq_of_lt hw))

/-- WATCHDOG_EXPIRE and SUPPLY_FAULT end a start with reasons 8 and 10 (13 R293). -/
theorem watchdog_and_supply_fail (s : State) (h : s.regF 0x290000 0 2 = 0) :
    Fails .watchdogExpire s 8 ∧ Fails .supplyFault s 10 := by
  have hw : evWatchdogExpire s = s.startFails 8 := if_neg (not_not.2 h)
  have hs : evSupplyFault s = s.startFails 10 := if_neg (not_not.2 h)
  exact ⟨fails_of_startFails (next_finish_congr hw) (.refl s) rfl rfl (by omega),
    fails_of_startFails (next_finish_congr hs) (.refl s) rfl rfl (by omega)⟩

/-- Outside PHASE 0 nothing starts or ends a start. -/
theorem start_events_ignored (r : StartReport) (s : State) (h : s.regF 0x290000 0 2 ≠ 0) :
    exec (.deviceStart r) s = .next s.finish ∧ exec .watchdogExpire s = .next s.finish ∧
      exec .supplyFault s = .next s.finish := by
  have hd : evDeviceStart r s = s := if_pos h
  have hw : evWatchdogExpire s = s := if_pos h
  have hs : evSupplyFault s = s := if_pos h
  exact ⟨next_finish_congr hd, next_finish_congr hw,
    next_finish_congr hs⟩

end Failures

section StartTests
variable {r : StartReport} {s : State} {v : Word}

/-- The flash's first firmware image passes. -/
def FirstPasses (r : StartReport) (s : State) : Prop := r.fwSigOk = true ∧ s.fuse ≤ r.fwArc

/-- The first of the flash's two images that passes is of version `v` (13 R291, R294). -/
def Image (r : StartReport) (s : State) (v : Word) : Prop :=
  (FirstPasses r s ∧ v = r.fwVer) ∨
    (¬ FirstPasses r s ∧ r.fw2SigOk = true ∧ s.fuse ≤ r.fw2Arc ∧ v = r.fw2Ver)

theorem startImage_of_image (h : Image r s v) : startImage r s.fuse = some v := by
  rcases h with ⟨h, rfl⟩ | ⟨h, hsig, harc, rfl⟩
  · exact if_pos h
  · exact (if_neg h).trans (if_pos ⟨hsig, harc⟩)

theorem startImage_of_none (h : ¬ FirstPasses r s) (h2 : r.fw2SigOk = false ∨ r.fw2Arc < s.fuse) :
    startImage r s.fuse = none := by
  refine (if_neg h).trans (if_neg ?_)
  rintro ⟨hsig, harc⟩
  rcases h2 with h2 | h2
  · simp [h2] at hsig
  · omega

theorem startDies_of_all (h : r.dieOk = [true, true, true, true]) : startDies r false = [0, 1, 2, 3] := by
  simp only [startDies, h]
  decide

theorem startDies_length_lt {d : Nat} (hd : d < 4) (h : r.dieOk.getD d false = false) :
    (startDies r false).length < Config.dies := by
  have hlt := List.length_filter_lt_length_iff_exists (p := fun d => r.dieOk.getD d false) (l := List.range Config.dies)
  rw [List.length_range] at hlt
  exact hlt.2 ⟨d, List.mem_range.2 hd, by simp only [h, Bool.false_eq_true, not_false_eq_true]⟩

/-- A start in full mode as far as its tests: the recovery bit is clear, and FWVER is the image's. -/
def begun (r : StartReport) (s : State) : State :=
  let u := s.setRegF 0x290000 3 1 0
  match startImage r s.fuse with
  | some v => u.setReg 0x290004 v
  | none => u

theorem evDeviceStart_of_full (h0 : s.regF 0x290000 0 2 = 0) (h3 : s.regF 0x290000 8 4 < 3) :
    evDeviceStart r s = if startReason r false s.fuse = 0 then (begun r s).startDone r false
      else (begun r s).startFails (startReason r false s.fuse) := by
  have hm : (s.regF 0x290000 8 4 == 3) = false := by simpa using (by omega : s.regF 0x290000 8 4 ≠ 3)
  refine (if_neg (not_not.2 h0)).trans ?_
  simp only [hm]
  rfl

theorem begun_regsOnly (r : StartReport) (s : State) : RegsOnly s (begun r s) := by
  unfold begun
  dsimp only
  split
  · exact (setRegF_regsOnly ..).trans (setReg_regsOnly ..)
  · exact setRegF_regsOnly ..

theorem begun_status (r : StartReport) (s : State) (lo w : Nat) :
    (begun r s).regF 0x290000 lo w = (s.setRegF 0x290000 3 1 0).regF 0x290000 lo w := by
  unfold begun
  dsimp only
  split
  · exact State.setReg_regF_of_ne _ (by omega)
  · rfl

/-- A start in full mode whose tests give a reason fails for it. -/
theorem deviceStart_fails {why : Nat} (h0 : s.regF 0x290000 0 2 = 0) (h3 : s.regF 0x290000 8 4 < 3)
    (hm : s.regF 0x290000 3 1 = 0) (hr : startReason r false s.fuse = why) (hw : why ≠ 0) (hlt : why < 2 ^ 8) :
    Fails (.deviceStart r) s why := by
  have he : evDeviceStart r s = (begun r s).startFails why := by
    rw [evDeviceStart_of_full h0 h3, hr, if_neg hw]
  refine fails_of_startFails (next_finish_congr he) (begun_regsOnly r s) ?_ ?_ hlt
  · rw [begun_status, State.setRegF_regF_of_disjoint _ (by omega) (by omega)]
  · rw [begun_status, State.setRegF_regF_self _ (by omega), hm, Nat.zero_mod]

end StartTests

section FullStart

/-- A port of the list is active with 8 lanes, and another is down (12 R273; 13 R291). -/
def trainPort (ps : List Nat) (s : State) (p : Nat) : State :=
  if ps.contains p then (s.setRegF (portOff p) 0 3 2).setRegF (portOff p) 4 4 8
  else s.setRegF (portOff p) 0 3 0

def trainPorts (ps : List Nat) (s : State) : State := (List.range Config.ports).foldl (trainPort ps) s

/-- The vendor image is in force, the fuse counter is at its ARC, and the host link is up. -/
def loaded (r : StartReport) (trained : Nat) (s : State) : State :=
  { s with hostUp := true, caplist := capList false trained 0, graft := vendorGen, fuse := r.vendorArc }

/-- The ports that answer in a start. -/
def answering (r : StartReport) : List Nat := (nubNat [] r.ports).filter (fun p => decide (p < Config.ports))

/-- A start in full mode on four dies, as far as its ports. -/
def wired (r : StartReport) (s : State) : State :=
  trainPorts (answering r) (loaded r (answering r).length (s.mapCores r [0, 1, 2, 3] false))

theorem startDone_of_full {r : StartReport} (hd : r.dieOk = [true, true, true, true]) (s : State) :
    s.startDone r false = (((wired r s).updFloor.updGraftReg.setRegF 0x290000 4 4 15).setRegF 0x290000 8 4 0).setRegF
      0x290000 0 2 1 := by
  unfold State.startDone
  rw [startDies_of_all hd]
  rfl

-- the ports

theorem trainPorts_regsOnly (ps : List Nat) (s : State) : RegsOnly s (trainPorts ps s) := by
  refine foldl_regsOnly _ (fun s p => ?_) s
  unfold trainPort
  split
  · exact (setRegF_regsOnly ..).trans (setRegF_regsOnly ..)
  · exact setRegF_regsOnly ..

theorem trainPort_reg_of_ne {ps : List Nat} {off p : Nat} (h : off / 4 ≠ portOff p / 4) (s : State) :
    (trainPort ps s p).reg off = s.reg off := by
  unfold trainPort
  split
  · rw [State.setRegF_reg_of_ne _ h, State.setRegF_reg_of_ne _ h]
  · rw [State.setRegF_reg_of_ne _ h]

theorem trainPort_regF_of_ne {ps : List Nat} {off p lo w : Nat} (h : off / 4 ≠ portOff p / 4) (s : State) :
    (trainPort ps s p).regF off lo w = s.regF off lo w := by
  rw [State.regF, trainPort_reg_of_ne h, State.regF]

theorem trainPorts_reg {off : Nat} (h : off < 0x230040 ∨ 0x230640 ≤ off) (ps : List Nat) (s : State) :
    (trainPorts ps s).reg off = s.reg off := by
  refine foldl_keeps (State.reg · off) (fun p hp s => trainPort_reg_of_ne ?_ s) s
  have hp := List.mem_range.1 hp
  simp only [portOff, Config.ports] at hp ⊢
  omega

/-- A port of the list is active, with 8 lanes. -/
theorem trainPorts_active {ps : List Nat} {p : Nat} (hp : p < Config.ports) (hm : p ∈ ps) (s : State) :
    (trainPorts ps s).regF (portOff p) 0 3 = 2 ∧ (trainPorts ps s).regF (portOff p) 4 4 = 8 := by
  have hin := List.mem_range.2 hp
  have hc := List.contains_iff_mem.2 hm
  have hne : ∀ q ∈ List.range Config.ports, q ≠ p → portOff p / 4 ≠ portOff q / 4 := by
    intro q _ hq
    simp only [portOff]
    omega
  refine ⟨foldl_sets (State.regF · (portOff p) 0 3) hin (fun s => ?_) (fun q h hq => trainPort_regF_of_ne (hne q h hq)) s,
    foldl_sets (State.regF · (portOff p) 4 4) hin (fun s => ?_) (fun q h hq => trainPort_regF_of_ne (hne q h hq)) s⟩
  · rw [trainPort, if_pos hc, State.setRegF_regF_of_disjoint _ (by omega) (by omega), State.setRegF_regF_self _ (by omega)]
    rfl
  · rw [trainPort, if_pos hc, State.setRegF_regF_self _ (by omega)]
    rfl

theorem mem_nubNat {a : Nat} {l : List Nat} : ∀ {seen : List Nat}, a ∈ l → a ∉ seen → a ∈ nubNat seen l := by
  induction l with
  | nil => exact fun h => nomatch h
  | cons b l ih =>
    intro seen h hs
    rw [nubNat]
    by_cases hab : a = b
    · rw [← hab, if_neg (by simpa using hs)]
      exact List.mem_cons_self
    · have hl : a ∈ l := (List.mem_cons.1 h).resolve_left hab
      split
      · exact ih hl hs
      · exact List.mem_cons_of_mem _ (ih hl (by simp [hab, hs]))

theorem mem_answering {r : StartReport} {p : Nat} (hp : p < Config.ports) (h : p ∈ r.ports) : p ∈ answering r :=
  List.mem_filter.2 ⟨mem_nubNat h List.not_mem_nil, decide_eq_true hp⟩

-- the graft load registers

theorem updGraftReg_regsOnly (s : State) : RegsOnly s s.updGraftReg :=
  ((setReg_regsOnly ..).trans (setReg_regsOnly ..)).trans
    (foldl_regsOnly _ (fun _ _ => foldl_regsOnly _ (fun _ _ => setReg_regsOnly ..) _) _)

/-- GRAFTGEN and SLOTS are the only registers that show the generation in force (11 R254). -/
theorem updGraftReg_reg {off : Nat} {s : State} (hl : s.graft.slots.length ≤ 32) (h : off < 0x200010 ∨ 0x201000 ≤ off) :
    s.updGraftReg.reg off = s.reg off := by
  unfold State.updGraftReg
  refine (foldl_keeps (State.reg · off) (fun e he t => foldl_keeps (State.reg · off) (fun k hk u => ?_) t) _).trans ?_
  · have he := List.snd_lt_of_mem_zipIdx he
    have hk := List.mem_range.1 hk
    have hs : e.2 < 32 := lt_of_lt_of_le he hl
    exact State.setReg_reg_of_ne _ (by omega)
  · rw [State.setReg64, State.setReg_reg_of_ne _ (by omega), State.setReg_reg_of_ne _ (by omega)]

-- the cores

theorem mapDie_of_none_bad (d : Nat) (s : State) :
    s.mapDie [] d = (List.range 64).foldl (fun s k => s.setRegF (csOff (64 * d + k)) 8 8 k)
      { s with spares := fset 0 d 0 s.spares } := by
  simp [State.mapDie, Config.coresPerDie]

theorem mapDie_reg {off d : Nat} (h : off < csOff (64 * d) ∨ csOff (64 * d + 64) ≤ off) (s : State) :
    (s.mapDie [] d).reg off = s.reg off := by
  rw [mapDie_of_none_bad]
  refine foldl_keeps (State.reg · off) (fun k hk s => State.setRegF_reg_of_ne _ ?_) _
  have hk := List.mem_range.1 hk
  simp only [csOff] at h ⊢
  omega

/-- Each core of a die with no failed core is its own physical core. -/
theorem mapDie_phys (d : Nat) {k : Nat} (hk : k < 64) (s : State) : (s.mapDie [] d).regF (csOff (64 * d + k)) 8 8 = k := by
  rw [mapDie_of_none_bad]
  refine foldl_sets (State.regF · (csOff (64 * d + k)) 8 8) (List.mem_range.2 hk) (fun s => ?_) (fun j _ hj s => ?_) _
  · rw [State.setRegF_regF_self _ (by omega)]
    omega
  · refine State.setRegF_regF_of_ne _ ?_
    simp only [csOff]
    omega

/-- Memory, the warps and the cores' own state stand. -/
def SameWork (s t : State) : Prop := t.mem = s.mem ∧ t.warps = s.warps ∧ t.cores = s.cores

theorem RegsOnly.sameWork {s t : State} (h : RegsOnly s t) : SameWork s t := by
  obtain ⟨b, rfl⟩ := h
  exact ⟨rfl, rfl, rfl⟩

theorem mapDie_sameWork (d : Nat) (s : State) : SameWork s (s.mapDie [] d) := by
  rw [mapDie_of_none_bad]
  exact (foldl_regsOnly _ (fun s k => setRegF_regsOnly ..) { s with spares := fset 0 d 0 s.spares }).sameWork

variable {r : StartReport}

theorem mapCores_of_none_bad (hb : r.failedCores = []) (s : State) :
    s.mapCores r [0, 1, 2, 3] false = (((s.mapDie [] 0).mapDie [] 1).mapDie [] 2).mapDie [] 3 := by
  have hoff : (List.range Config.dies).filter (fun d => !([0, 1, 2, 3] : List Nat).contains d) = [] := by decide
  simp only [State.mapCores, hb, hoff, List.foldl_cons, List.foldl_nil, Bool.false_eq_true, if_false]

theorem mapCores_sameWork (hb : r.failedCores = []) (s : State) : SameWork s (s.mapCores r [0, 1, 2, 3] false) := by
  rw [mapCores_of_none_bad hb]
  obtain ⟨m0, w0, c0⟩ := mapDie_sameWork 0 s
  obtain ⟨m1, w1, c1⟩ := mapDie_sameWork 1 (s.mapDie [] 0)
  obtain ⟨m2, w2, c2⟩ := mapDie_sameWork 2 ((s.mapDie [] 0).mapDie [] 1)
  obtain ⟨m3, w3, c3⟩ := mapDie_sameWork 3 (((s.mapDie [] 0).mapDie [] 1).mapDie [] 2)
  exact ⟨m3.trans (m2.trans (m1.trans m0)), w3.trans (w2.trans (w1.trans w0)), c3.trans (c2.trans (c1.trans c0))⟩

theorem mapCores_reg (hb : r.failedCores = []) {off : Nat} (h : off < 0x291000 ∨ 0x291800 ≤ off) (s : State) :
    (s.mapCores r [0, 1, 2, 3] false).reg off = s.reg off := by
  rw [mapCores_of_none_bad hb]
  have hout (d : Nat) (hd : d < 4) : off < csOff (64 * d) ∨ csOff (64 * d + 64) ≤ off := by
    simp only [csOff]
    omega
  rw [mapDie_reg (hout 3 (by omega)), mapDie_reg (hout 2 (by omega)), mapDie_reg (hout 1 (by omega)),
    mapDie_reg (hout 0 (by omega))]

theorem mapCores_phys (hb : r.failedCores = []) {c : Nat} (hc : c < 256) (s : State) :
    (s.mapCores r [0, 1, 2, 3] false).regF (csOff c) 8 8 = c % 64 := by
  have hfold : s.mapCores r [0, 1, 2, 3] false = [0, 1, 2, 3].foldl (fun s d => s.mapDie [] d) s := by
    rw [mapCores_of_none_bad hb]
    simp only [List.foldl_cons, List.foldl_nil]
  have hd : c / 64 ∈ [0, 1, 2, 3] := by
    simp only [List.mem_cons, List.not_mem_nil, or_false]
    omega
  have hcd : 64 * (c / 64) + c % 64 = c := Nat.div_add_mod c 64
  rw [hfold]
  refine foldl_sets (State.regF · (csOff c) 8 8) hd (fun s => ?_) (fun d _ hne s => ?_) s
  · have h := mapDie_phys (c / 64) (Nat.mod_lt c (by omega)) s
    rwa [hcd] at h
  · rw [State.regF, mapDie_reg, State.regF]
    simp only [csOff]
    omega

-- the whole start

theorem updFloor_frame (s : State) : ∃ c, c.length = s.caplist.length ∧ s.updFloor = { s with caplist := c } :=
  ⟨_, List.length_set, rfl⟩

/-- What a start in full mode makes of the state but for its registers and the capability list. -/
theorem startDone_frame (hd : r.dieOk = [true, true, true, true]) (s : State) :
    ∃ b c, c.length = 9 ∧ s.startDone r false =
      { loaded r (answering r).length (s.mapCores r [0, 1, 2, 3] false) with bar2 := b, caplist := c } := by
  obtain ⟨b, hb⟩ : RegsOnly _ (wired r s) := trainPorts_regsOnly ..
  obtain ⟨c, hc, hf⟩ := updFloor_frame (wired r s)
  obtain ⟨b', hb'⟩ : RegsOnly (wired r s).updFloor (s.startDone r false) := by
    rw [startDone_of_full hd]
    exact (((updGraftReg_regsOnly _).trans (setRegF_regsOnly ..)).trans (setRegF_regsOnly ..)).trans (setRegF_regsOnly ..)
  refine ⟨b', c, ?_, ?_⟩
  · rw [hc, hb]
    rfl
  · rw [hb', hf, hb]

theorem updFloor_updGraftReg_reg {off : Nat} (h : off < 0x200010 ∨ 0x201000 ≤ off) (s : State) :
    (wired r s).updFloor.updGraftReg.reg off = (wired r s).reg off := by
  refine updGraftReg_reg (le_of_eq ?_) h
  obtain ⟨b, hb⟩ : RegsOnly _ (wired r s) := trainPorts_regsOnly ..
  obtain ⟨c, _, hf⟩ := updFloor_frame (wired r s)
  rw [hf, hb]
  simp [loaded, vendorGen]

/-- The registers that the ports and cores show, and FWVER, after a start in full mode. -/
theorem startDone_reg (hd : r.dieOk = [true, true, true, true]) {off : Nat} (hg : 0x201000 ≤ off) (hs : off / 4 ≠ 0xA4000)
    (s : State) : (s.startDone r false).reg off = (wired r s).reg off := by
  rw [startDone_of_full hd, State.setRegF_reg_of_ne _ (by omega), State.setRegF_reg_of_ne _ (by omega),
    State.setRegF_reg_of_ne _ (by omega), updFloor_updGraftReg_reg (.inr hg)]

theorem wired_reg (hb : r.failedCores = []) {off : Nat} (hp : off < 0x230040 ∨ 0x230640 ≤ off)
    (hc : off < 0x291000 ∨ 0x291800 ≤ off) (s : State) : (wired r s).reg off = s.reg off := by
  rw [wired, trainPorts_reg hp]
  exact mapCores_reg hb hc s

/-- PHASE, the recovery bit, the dies and FAILS after a start in full mode (13 R292). -/
theorem startDone_status (hd : r.dieOk = [true, true, true, true]) (hb : r.failedCores = []) (s : State) :
    (s.startDone r false).regF 0x290000 0 2 = 1 ∧ (s.startDone r false).regF 0x290000 8 4 = 0 ∧
      (s.startDone r false).regF 0x290000 3 1 = s.regF 0x290000 3 1 ∧ (s.startDone r false).regF 0x290000 4 4 = 15 := by
  have hw : (wired r s).updFloor.updGraftReg.regF 0x290000 3 1 = s.regF 0x290000 3 1 := by
    rw [State.regF, updFloor_updGraftReg_reg (by omega), wired_reg hb (by omega) (by omega), State.regF]
  rw [startDone_of_full hd]
  simp [State.setRegF_regF_self, State.setRegF_regF_of_disjoint, hw]

/-- A start in full mode whose tests all pass ends ready (13 R291, R292). -/
theorem deviceStart_ready (r : StartReport) (v : Word) (s : State) (h0 : s.regF 0x290000 0 2 = 0)
    (h3 : s.regF 0x290000 8 4 < 3) (hi : Image r s v) (hst : r.stacksOk = true)
    (hd : r.dieOk = [true, true, true, true]) (ht : r.timeOk = true) (hv : r.vendorOk = true)
    (ha : s.fuse ≤ r.vendorArc) (hh : r.hostOk = true) (hin : r.inTime = true) (hb : r.failedCores = []) :
    ∃ t, exec (.deviceStart r) s = .next t ∧ t.regF 0x290000 0 2 = 1 ∧ t.regF 0x290000 8 4 = 0 ∧
      t.regF 0x290000 3 1 = 0 ∧ t.regF 0x290000 4 4 = 15 ∧ t.hostUp = true ∧ t.fuse = r.vendorArc ∧
      t.graft = vendorGen ∧ t.reg 0x290004 = v ∧ t.caplist.length = 9 ∧
      (∀ p, p < Config.ports → p ∈ r.ports → t.regF (portOff p) 0 3 = 2 ∧ t.regF (portOff p) 4 4 = 8) ∧
      (∀ c, c < Config.cores → t.regF (0x291000 + 8 * c) 8 8 = c % Config.coresPerDie) ∧
      t.mem = s.mem ∧ t.warps = s.warps ∧ t.cores = s.cores := by
  have himg := startImage_of_image hi
  have hpass : startReason r false s.fuse = 0 := by
    simp [startReason, himg, hst, startDies_of_all hd, Config.dies, ht, hv, not_lt.2 ha, hh, hin]
  have he : evDeviceStart r s = (begun r s).startDone r false := by
    rw [evDeviceStart_of_full h0 h3, if_pos hpass]
  obtain ⟨hphase, hfails, hrec, hdies⟩ := startDone_status hd hb (begun r s)
  obtain ⟨b, c, hlen, hframe⟩ := startDone_frame hd (begun r s)
  have hwork : SameWork s ((begun r s).startDone r false) := by
    obtain ⟨hm, hw, hc⟩ := mapCores_sameWork hb (begun r s)
    obtain ⟨hm', hw', hc'⟩ := (begun_regsOnly r s).sameWork
    rw [hframe]
    exact ⟨hm.trans hm', hw.trans hw', hc.trans hc'⟩
  refine ⟨_, next_finish_congr he, hphase, hfails, hrec.trans ?_, hdies, congrArg State.hostUp hframe,
    congrArg State.fuse hframe, congrArg State.graft hframe, ?_, (congrArg (·.caplist.length) hframe).trans hlen,
    fun p hp hm => ?_, fun c hc => ?_, hwork⟩
  · rw [begun_status, State.setRegF_regF_self _ (by omega), Nat.zero_mod]
  · rw [State.finish_reg, startDone_reg hd (by omega) (by omega), wired_reg hb (by omega) (by omega), begun, himg]
    exact (State.setReg_reg ..).trans (if_pos rfl)
  · have hreg : ((begun r s).startDone r false).reg (portOff p) = (wired r (begun r s)).reg (portOff p) := by
      refine startDone_reg hd ?_ ?_ _ <;> simp only [portOff, Config.ports] at hp ⊢ <;> omega
    have hact := trainPorts_active hp (mem_answering hp hm)
      (loaded r (answering r).length ((begun r s).mapCores r [0, 1, 2, 3] false))
    simp only [State.regF, State.finish_reg, hreg]
    exact hact
  · have hc : c < 256 := hc
    have hreg : ((begun r s).startDone r false).reg (csOff c) = (wired r (begun r s)).reg (csOff c) := by
      refine startDone_reg hd ?_ ?_ _ <;> simp only [csOff] <;> omega
    have hport : (wired r (begun r s)).reg (csOff c) = ((begun r s).mapCores r [0, 1, 2, 3] false).reg (csOff c) := by
      refine trainPorts_reg ?_ ..
      simp only [csOff]
      omega
    have hphys := mapCores_phys hb hc (begun r s)
    rw [State.regF, ← hport, ← hreg] at hphys
    exact hphys

end FullStart

section FailedTests
variable {r : StartReport} {s : State}

/-- The first test of a start in full mode that fails, where an image passes (13 R291, R293). -/
theorem startReason_of_image {v : Word} (hi : Image r s v) : startReason r false s.fuse =
    if r.stacksOk = false then 3
    else if (startDies r false).length < Config.dies then 4
    else if r.timeOk = false then 5
    else if r.vendorOk = false ∨ r.vendorArc < s.fuse then 6
    else if r.hostOk = false then 7
    else if r.inTime = false then 8
    else 0 := by
  have hnil : (startDies r false = [] ∨ (startDies r false).length < Config.dies) ↔
      (startDies r false).length < Config.dies :=
    or_iff_right_of_imp fun h => by simp [h, Config.dies]
  simp [startReason, startImage_of_image hi, hnil]

/-- Each test of a start that fails gives its reason (13 R291, R293, R294). -/
theorem failed_tests (r : StartReport) (s : State) (h0 : s.regF 0x290000 0 2 = 0) (h3 : s.regF 0x290000 8 4 < 3)
    (hm : s.regF 0x290000 3 1 = 0) :
    (¬ FirstPasses r s → r.fw2SigOk = false → Fails (.deviceStart r) s 1) ∧
    (¬ FirstPasses r s → r.fw2SigOk = true → r.fw2Arc < s.fuse → Fails (.deviceStart r) s 2) ∧
    ((∃ v, Image r s v) → r.stacksOk = false → Fails (.deviceStart r) s 3) ∧
    ((∃ v, Image r s v) → r.stacksOk = true → (∃ d, d < 4 ∧ r.dieOk.getD d false = false) →
      Fails (.deviceStart r) s 4) ∧
    ((∃ v, Image r s v) → r.stacksOk = true → r.dieOk = [true, true, true, true] →
      (r.timeOk = false → Fails (.deviceStart r) s 5) ∧
      (r.timeOk = true → r.vendorOk = false ∨ r.vendorArc < s.fuse → Fails (.deviceStart r) s 6) ∧
      (r.timeOk = true → r.vendorOk = true → s.fuse ≤ r.vendorArc → r.hostOk = false →
        Fails (.deviceStart r) s 7) ∧
      (r.timeOk = true → r.vendorOk = true → s.fuse ≤ r.vendorArc → r.hostOk = true → r.inTime = false →
        Fails (.deviceStart r) s 8)) := by
  have hfail {why : Nat} (hr : startReason r false s.fuse = why) (hw : why ≠ 0 ∧ why < 2 ^ 8) :
      Fails (.deviceStart r) s why := deviceStart_fails h0 h3 hm hr hw.1 hw.2
  have hall (hd : r.dieOk = [true, true, true, true]) : ¬ (startDies r false).length < Config.dies := by
    rw [startDies_of_all hd]
    decide
  refine ⟨fun hn hs => hfail ?_ (by omega), fun hn hs ha => hfail ?_ (by omega), fun ⟨v, hi⟩ hs => hfail ?_ (by omega),
    fun ⟨v, hi⟩ hs ⟨d, hd, hbad⟩ => hfail ?_ (by omega), fun ⟨v, hi⟩ hs hd => ⟨fun ht => hfail ?_ (by omega),
      fun ht hv => hfail ?_ (by omega), fun ht hv ha hh => hfail ?_ (by omega), fun ht hv ha hh hin => hfail ?_ (by omega)⟩⟩
  · simp [startReason, startImage_of_none hn (.inl hs), hs]
  · simp [startReason, startImage_of_none hn (.inr ha), hs]
  · simp [startReason_of_image hi, hs]
  · simp [startReason_of_image hi, hs, startDies_length_lt hd hbad]
  · simp [startReason_of_image hi, hs, hall hd, ht]
  · simp [startReason_of_image hi, hs, hall hd, ht, hv]
  · simp [startReason_of_image hi, hs, hall hd, ht, hv, not_lt.2 ha, hh]
  · simp [startReason_of_image hi, hs, hall hd, ht, hv, not_lt.2 ha, hh, hin]

end FailedTests

section Power

theorem RegsBut.setRegF {s t : State} {off lo w v : Nat} {os : List Nat} (h : RegsBut s t os) (hoff : off % 4 = 0)
    (hm : off ∈ os) : RegsBut s (t.setRegF off lo w v) os := by
  intro o ho hno
  have hne : o ≠ off := fun he => hno (he ▸ hm)
  rw [State.setRegF_reg_of_ne _ (by omega), h o ho hno]

theorem RegsBut.finish {s t : State} {os : List Nat} (h : RegsBut s t os) : RegsBut s t.finish os := h

theorem RegsBut.refl (s : State) (os : List Nat) : RegsBut s s os := fun _ _ _ => rfl

/-- The clock's count is taken, and its rate is full or, throttled, lower (13 R296). -/
def Timed (s t : State) : Prop :=
  t.clkSince = s.gtime ∧
    t.clkCount = s.clkCount + 11 * s.clkRate * (s.gtime - s.clkSince) ∧ 1 ≤ t.clkRate ∧
    (t.clkRate < 16 ↔ t.regF 0x290014 16 1 = 1) ∧ t.clkRate ≤ 16 ∧
    Kept s { t with clkSince := s.clkSince, clkCount := s.clkCount, clkRate := s.clkRate }

theorem setThrot_regF (held : Bool) (s : State) (off lo w : Nat) :
    (s.setThrot held).regF off lo w = (s.setRegF 0x290014 16 1 (b2n held)).regF off lo w := by
  have hreg : (s.setThrot held).reg off = (s.setRegF 0x290014 16 1 (b2n held)).reg off := rfl
  rw [State.regF, hreg, State.regF]

theorem setThrot_throttle (held : Bool) (s : State) : (s.setThrot held).regF 0x290014 16 1 = b2n held := by
  rw [setThrot_regF, State.setRegF_regF_self _ (by omega)]
  cases held <;> rfl

theorem RegsBut.setThrot {s t : State} {os : List Nat} (h : RegsBut s t os) (held : Bool) (hm : 0x290014 ∈ os) :
    RegsBut s (t.setThrot held) os :=
  h.setRegF (off := 0x290014) (lo := 16) (w := 1) (v := b2n held) (by decide) hm

/-- The clock's rate is full, or one of the lower 16ths while it is held (13 R296). -/
theorem setThrot_clkRate (held : Bool) (s : State) :
    1 ≤ (s.setThrot held).clkRate ∧ (s.setThrot held).clkRate ≤ 16 ∧ ((s.setThrot held).clkRate < 16 ↔ held = true) := by
  have hlt : Config.freeNat s.fresh % 15 < 15 := Nat.mod_lt _ (by omega)
  cases held
  · have hr : (s.setThrot false).clkRate = 16 := rfl
    simp [hr]
  · have hr : (s.setThrot true).clkRate = 1 + Config.freeNat s.fresh % 15 := rfl
    simp only [hr, iff_true]
    omega

theorem setThrot_timed {s t : State} (h : RegsOnly s t) (held : Bool) : Timed s (t.setThrot held).finish := by
  obtain ⟨hpos, hle, hlt⟩ := setThrot_clkRate held t
  have hbit : (t.setThrot held).regF 0x290014 16 1 = 1 ↔ held = true := by
    rw [setThrot_throttle]
    cases held <;> simp [b2n]
  obtain ⟨b, rfl⟩ := h
  exact ⟨rfl, rfl, hpos, hlt.trans hbit.symm, hle, rfl⟩

/-- A thermal trip stops the device with reason 9 (13 R297). -/
theorem thermalTrip_stops (s : State) : ∃ t, exec .thermalTrip s = .next t ∧ t.regF 0x290000 0 2 = 2 ∧
    t.regF 0x290000 16 8 = 9 ∧ t.regF 0x290000 8 4 = s.regF 0x290000 8 4 ∧ 110 ≤ t.regF 0x290014 24 8 ∧
    RegsBut s t [0x290000, 0x290014] ∧ Kept s t := by
  have htemp := s.regF_lt 0x290014 24 8
  refine ⟨(evThermalTrip s).finish, rfl, ?_⟩
  unfold evThermalTrip State.setTemp
  simp only [State.finish_regF]
  refine ⟨by simp, by simp, by simp, ?_, ?_, ?_⟩
  · rw [State.setRegF_regF_of_ne _ (by omega), State.setRegF_regF_of_ne _ (by omega), State.setRegF_regF_self _ (by omega)]
    omega
  · refine ((((RegsBut.refl s _).setRegF ?_ ?_).setRegF ?_ ?_).setRegF ?_ ?_).finish <;> simp
  · exact (((setRegF_regsOnly ..).trans (setRegF_regsOnly ..)).trans (setRegF_regsOnly ..)).kept_finish

/-- A power window shows power and temperature, and throttles where either limit is passed (13 R296, R297). -/
theorem powerWindow_shows (power temp : Nat) (s : State) : ∃ t, exec (.powerWindow power temp) s = .next t ∧
    t.regF 0x290014 0 16 = min power 65535 ∧ t.regF 0x290014 24 8 = min temp 255 ∧
    t.regF 0x290014 16 1 = (if s.regF 0x290010 0 16 < power ∨ 100 ≤ temp then 1 else 0) ∧
    RegsBut s t [0x290014] ∧ Timed s t := by
  refine ⟨(evPowerWindow power temp s).finish, rfl, ?_⟩
  unfold evPowerWindow State.setTemp
  simp only [State.finish_regF]
  refine ⟨?_, ?_, ?_, ?_, setThrot_timed ((setRegF_regsOnly ..).trans (setRegF_regsOnly ..)) _⟩
  · simp [setThrot_regF]
  · simp [setThrot_regF]
  · rw [setThrot_throttle]
    simp [b2n]
  · refine ((((RegsBut.refl s _).setRegF ?_ ?_).setRegF ?_ ?_).setThrot _ ?_).finish <;> simp

/-- The thermal limit throttles from 100 degrees on (13 R297). -/
theorem thermalThrottle_shows (temp : Nat) (s : State) : (temp < 100 → exec (.thermalThrottle temp) s = .next s.finish) ∧
    (100 ≤ temp → ∃ t, exec (.thermalThrottle temp) s = .next t ∧ t.regF 0x290014 16 1 = 1 ∧
      t.regF 0x290014 24 8 = min temp 255 ∧ RegsBut s t [0x290014] ∧ Timed s t) := by
  refine ⟨fun h => next_finish_congr (if_pos h), fun h =>
    ⟨((s.setTemp temp).setThrot true).finish, next_finish_congr (if_neg (not_lt.2 h)), ?_⟩⟩
  unfold State.setTemp
  simp only [State.finish_regF]
  refine ⟨setThrot_throttle true _, ?_, ?_, setThrot_timed (setRegF_regsOnly ..) _⟩
  · simp [setThrot_regF]
  · refine (((RegsBut.refl s _).setRegF ?_ ?_).setThrot _ ?_).finish <;> simp

end Power

section Clearing

theorem tget_of_mem {β : Type} {k lo : Nat} {v : β} {m : Tbl β} (hm : keysRise lo m = true) (h : (k, v) ∈ m) :
    tget k m = some v ∧ lo ≤ k := by
  induction m generalizing lo with
  | nil => cases h
  | cons e m ih =>
    obtain ⟨a, x⟩ := e
    simp only [keysRise, Bool.and_eq_true, decide_eq_true_eq] at hm
    rcases List.mem_cons.1 h with h | h
    · cases h
      exact ⟨if_pos rfl, hm.1⟩
    · obtain ⟨hv, ha⟩ := ih hm.2 h
      exact ⟨(if_neg (by omega)).trans hv, by omega⟩

theorem fget_feraseIf {β : Type} (d : β) (p : Nat → Bool) (k : Nat) (m : FMap β) :
    fget d k (feraseIf p m) = if p k = true then d else fget d k m := by
  induction m with
  | nil => simp [feraseIf, fget]
  | cons e m ih =>
    obtain ⟨a, x⟩ := e
    simp only [feraseIf, fget]
    by_cases ha : a = k
    · subst ha
      by_cases hp : p a = true <;> simp [hp, ih, fget]
    · by_cases hp : p a = true <;> simp [hp, ha, ih, fget]

/-- Where the keys of BAR 2 rise, every job is OFF just when the states of all of them say so (03 R63). -/
theorem jobsOff_iff {s : State} (hk : keysRise 0 s.bar2 = true) :
    s.jobsOff = true ↔ ∀ j, j < 4096 → s.jState j = 0 := by
  simp only [State.jobsOff, List.all_eq_true, List.mem_filter, Bool.and_eq_true, decide_eq_true_eq, beq_iff_eq]
  constructor
  · intro h j hj
    have hkey : (jOff j + 0xC) / 4 = 0x40003 + 16 * j := by
      simp only [jOff]
      omega
    rw [State.jState, State.regF, State.reg, hkey]
    cases hg : tget (0x40003 + 16 * j) s.bar2 with
    | some x => exact h _ ⟨mem_of_tget hg, by dsimp only; omega⟩
    | none =>
      have h0 : bar2Reset (0x40003 + 16 * j) = 0 := by
        rw [bar2Reset, if_neg (by omega), if_neg (by omega), if_neg (by omega)]
      simp [h0, bitsOf]
  · rintro h ⟨k, x⟩ ⟨hmem, ⟨hlo, hhi⟩, hmod⟩
    dsimp only at hlo hhi hmod ⊢
    have hkey : (jOff ((k - 0x40000) / 16) + 0xC) / 4 = k := by
      simp only [jOff]
      omega
    have hj := h ((k - 0x40000) / 16) (by omega)
    rw [State.jState, State.regF, State.reg, hkey, (tget_of_mem hk hmem).1] at hj
    exact hj

/-- Clearing FAILS resets the device where every job is OFF, and else does nothing (13 R295). -/
theorem failsClear_resets (s : State) (hk : keysRise 0 s.bar2 = true) :
    ((∀ j, j < 4096 → s.jState j = 0) → ∃ t, exec .failsClear s = .next t ∧ t.regF 0x290000 8 4 = 0 ∧
      t.regF 0x290000 0 2 = 0 ∧ t.regF 0x290000 3 1 = 0 ∧ Down s t ∧ t.mem = s.mem ∧ t.chip = s.chip) ∧
    ((∃ j, j < 4096 ∧ s.jState j ≠ 0) → exec .failsClear s = .next s.finish) := by
  refine ⟨fun h => ⟨_, next_finish_congr (if_pos ((jobsOff_iff hk).2 h)), ?_⟩, fun ⟨j, hj, hne⟩ =>
    next_finish_congr (if_neg fun h => hne ((jobsOff_iff hk).1 h j hj))⟩
  have hf : (s.setRegF 0x290000 8 4 0).regF 0x290000 8 4 = 0 := State.setRegF_regF_self _ (by omega)
  obtain ⟨hp, hfails, _, hrec⟩ := deviceReset_status (s.setRegF 0x290000 8 4 0)
  rw [hf] at hfails hrec
  exact ⟨hfails, hp, hrec, deviceReset_down (s.setRegF 0x290000 8 4 0), rfl, rfl⟩

/-- Removing package power also clears device memory and chip scratch (13 R294). -/
theorem packagePowerOff_clears (s : State) : ∃ t, exec .packagePowerOff s = .next t ∧ Down s t ∧ t.bar2 = [] ∧
    t.chip = [] ∧ ∀ a, t.rdByte a = if a < 2 ^ 39 then 0 else s.rdByte a := by
  refine ⟨_, rfl, packagePowerOff_down s, rfl, rfl, fun a => ?_⟩
  refine (fget_feraseIf 0 _ a s.mem).trans ?_
  simp only [decide_eq_true_eq]
  rfl

end Clearing

section Floor
variable (s : State)

theorem updFloor_reg (off : Nat) : s.updFloor.reg off = s.reg off := rfl

theorem updFloor_regF (off lo w : Nat) : s.updFloor.regF off lo w = s.regF off lo w := by
  rw [State.regF, updFloor_reg, State.regF]

theorem setLevel_reg (core level off : Nat) : (s.setLevel core level).reg off = (s.setRegF (csOff core) 0 3 level).reg off := rfl

theorem setLevel_regF (core level off lo w : Nat) :
    (s.setLevel core level).regF off lo w = (s.setRegF (csOff core) 0 3 level).regF off lo w := by
  rw [State.regF, setLevel_reg, State.regF]

theorem setLevel_frame (core level : Nat) : ∃ b, s.setLevel core level =
    { s.modCore core (fun k => { k with level := level }) with bar2 := b } := ⟨_, rfl⟩

theorem setLevel_core (core level k : Nat) :
    (s.setLevel core level).core k = (s.modCore core (fun k => { k with level := level })).core k := by
  obtain ⟨b, h⟩ := setLevel_frame s core level
  rw [h]
  rfl

theorem setLevel_core_self (core level : Nat) :
    (s.setLevel core level).core core = { s.core core with level := level } := by
  have h := s.modCore_core_self core (fun k => { k with level := level })
  rwa [← setLevel_core] at h

theorem setLevel_core_of_ne {core k : Nat} (h : k ≠ core) (level : Nat) : (s.setLevel core level).core k = s.core k := by
  rw [setLevel_core, s.modCore_core_of_ne h]

/-- The floor of a core is stored, as the capability list shows it. -/
def floorStored (core f : Nat) : State := (s.setRegF (csOff core) 4 3 f).updFloor

theorem evFloorWrite_of_lt {core : Nat} (hc : core < Config.cores) (level : Nat) : evFloorWrite core level s =
    if (s.core core).level < min level 5 then (floorStored s core (min level 5)).setLevel core (min level 5)
    else floorStored s core (min level 5) :=
  if_neg (not_le.2 hc)

theorem floorStored_frame (core f : Nat) : ∃ b c, floorStored s core f = { s with bar2 := b, caplist := c } := ⟨_, _, rfl⟩

theorem floorStored_floor (core level : Nat) : (floorStored s core (min level 5)).regF (csOff core) 4 3 = min level 5 := by
  rw [floorStored, updFloor_regF, State.setRegF_regF_self _ (by omega)]
  omega

theorem floorStored_regsBut (core f : Nat) : RegsBut s (floorStored s core f) [csOff core] :=
  (RegsBut.refl s _).setRegF (by simp only [csOff]; omega) List.mem_cons_self

/-- FLOOR_WRITE stores the floor, at most 5, and raises a lower level (01 R33, R34). -/
theorem floorWrite_stores (core level : Nat) (hc : core < Config.cores) : ∃ t k', exec (.floorWrite core level) s = .next t ∧
    t.regF (0x291000 + 8 * core) 4 3 = min level 5 ∧ t.core core = k' ∧
    k' = { s.core core with level := max (s.core core).level (min level 5) } ∧
    (∀ k, k ≠ core → t.core k = s.core k) ∧ RegsBut s t [0x291000 + 8 * core] ∧
    Kept s { t with cores := s.cores, caplist := s.caplist } := by
  have hfloor := floorStored_floor s core level
  have hregs := floorStored_regsBut s core (min level 5)
  obtain ⟨b, c, hu⟩ := floorStored_frame s core (min level 5)
  have hcore (k : Nat) : (floorStored s core (min level 5)).core k = s.core k := by rw [hu]; rfl
  have he := evFloorWrite_of_lt s hc level
  by_cases h : (s.core core).level < min level 5
  · rw [if_pos h] at he
    refine ⟨_, _, next_finish_congr he, ?_, rfl, ?_, fun k hk => ?_, ?_, ?_⟩
    · rw [State.finish_regF, setLevel_regF, ← csOff, State.setRegF_regF_of_disjoint _ (by omega) (by omega), hfloor]
    · rw [State.finish_core, setLevel_core_self, hcore, max_eq_right h.le]
    · rw [State.finish_core, setLevel_core_of_ne _ hk, hcore]
    · exact (hregs.setRegF (lo := 0) (w := 3) (by simp only [csOff]; omega) List.mem_cons_self).finish
    · obtain ⟨b', hb'⟩ := setLevel_frame (floorStored s core (min level 5)) core (min level 5)
      rw [hb', hu]
      rfl
  · rw [if_neg h] at he
    refine ⟨_, _, next_finish_congr he, ?_, rfl, ?_, fun k _ => hcore k, hregs.finish, ?_⟩
    · rw [State.finish_regF, ← csOff, hfloor]
    · rw [State.finish_core, hcore, max_eq_left (not_lt.1 h)]
    · rw [hu]
      rfl

end Floor

section RegisterWrites

/-- The first `n` bits of a word: the writable ones as written, the others as they stood. -/
def mergeBits (m old val n : Nat) : Nat :=
  (List.range n).foldl (fun x k => if bitOf m k then putBits x k 1 (bitsOf val k 1) else x) old

theorem testBit_mergeBits (m old val n i : Nat) :
    (mergeBits m old val n).testBit i = if i < n ∧ bitOf m i = true then val.testBit i else old.testBit i := by
  induction n with
  | zero => simp [mergeBits]
  | succ n ih =>
    have hstep : mergeBits m old val (n + 1) = if bitOf m n then putBits (mergeBits m old val n) n 1 (bitsOf val n 1)
        else mergeBits m old val n := by
      simp only [mergeBits, List.range_succ, List.foldl_append, List.foldl_cons, List.foldl_nil]
    rw [hstep]
    by_cases hin : i = n
    · subst hin
      by_cases hm : bitOf m i = true
      · rw [if_pos hm, testBit_putBits, if_pos (by omega), testBit_bitsOf, if_pos ⟨by omega, hm⟩]
        simp
      · rw [if_neg hm, ih, if_neg (by omega), if_neg (fun h => hm h.2)]
    · simp only [show i < n + 1 ↔ i < n by omega]
      rw [← ih]
      split
      · rw [testBit_putBits, if_neg (by omega)]
      · rfl

theorem mergeBits_lt (m : Nat) {old : Nat} (val : Nat) (h : old < 2 ^ 32) : mergeBits m old val 32 < 2 ^ 32 := by
  refine Nat.lt_pow_two_of_testBit _ fun i hi => ?_
  rw [testBit_mergeBits, if_neg (by omega)]
  exact Nat.testBit_lt_two_pow (h.trans_le (Nat.pow_le_pow_right (by omega) hi))

theorem mergeBits_of_none_free (old val n : Nat) : mergeBits 0 old val n = old := by
  refine Nat.eq_of_testBit_eq fun i => ?_
  rw [testBit_mergeBits, if_neg]
  simp [bitOf]

theorem bitOf_maskBits_zero (hi k : Nat) : bitOf (maskBits hi 0) k = decide (k < hi + 1) := by
  rw [bitOf_eq_testBit, maskBits, Nat.pow_zero, Nat.testBit_two_pow_sub_one]

theorem mergeBits_of_all_free {old val : Nat} (ho : old < 2 ^ 32) (hv : val < 2 ^ 32) :
    mergeBits (maskBits 31 0) old val 32 = val := by
  refine Nat.eq_of_testBit_eq fun i => ?_
  rw [testBit_mergeBits]
  by_cases hi : i < 32
  · rw [if_pos ⟨hi, (bitOf_maskBits_zero 31 i).trans (decide_eq_true hi)⟩]
  · have hpow : 2 ^ 32 ≤ 2 ^ i := Nat.pow_le_pow_right (by omega) (not_lt.1 hi)
    rw [if_neg (fun h => hi h.1), Nat.testBit_lt_two_pow (ho.trans_le hpow), Nat.testBit_lt_two_pow (hv.trans_le hpow)]

variable (s : State) {off : Nat} (val : Word)

/-- The word that a register write makes, before what write-one-to-clear bits do. -/
def writtenWord (off : Nat) : Nat := storedAs off (mergeBits (s.rwBits off) (s.reg off).toNat val.toNat 32)

theorem evRegisterWrite_of_aligned (h : off % 4 = 0) : evRegisterWrite off val s =
    ((s.setReg off (BitVec.ofNat 32 (writtenWord s val off))).w1c off val).updCur :=
  if_neg (not_not.2 h)

/-- The offsets of words without write-one-to-clear bits. -/
def noW1c (off : Nat) : Prop := off < 0x150000 ∨ (0x170000 ≤ off ∧ off < 0x210000) ∨ 0x218000 ≤ off

theorem w1c_of_none (h : noW1c off) : s.w1c off val = s := by
  unfold noW1c at h
  exact (if_neg (by omega)).trans (if_neg (by omega))

theorem w1c_frame (off : Nat) : ∃ b p, s.w1c off val = { s with bar2 := b, peersGone := p } := by
  unfold State.w1c
  split
  · split
    · exact ⟨_, _, rfl⟩
    · exact ⟨s.bar2, s.peersGone, rfl⟩
  · split
    · split
      · exact ⟨_, _, rfl⟩
      · exact ⟨s.bar2, s.peersGone, rfl⟩
    · exact ⟨s.bar2, s.peersGone, rfl⟩

theorem w1c_reg_of_ne {k : Nat} (h : k / 4 ≠ off / 4) : (s.w1c off val).reg k = s.reg k := by
  unfold State.w1c
  split
  · split
    · exact s.setRegF_reg_of_ne h
    · rfl
  · split
    · split
      · exact State.setRegF_reg_of_ne _ h
      · rfl
    · rfl

theorem registerWrite_reg_of_ne (h : off % 4 = 0) {k : Nat} (hk : k / 4 ≠ off / 4) (hc : k / 4 ≠ 0x88005) :
    (evRegisterWrite off val s).reg k = s.reg k := by
  rw [evRegisterWrite_of_aligned s val h, State.updCur, State.setRegF_reg_of_ne _ hc, w1c_reg_of_ne _ _ hk,
    State.setReg_reg_of_ne _ hk]

theorem registerWrite_reg_self (h : off % 4 = 0) (hp : noW1c off) (hc : off ≠ 0x220014) :
    (evRegisterWrite off val s).reg off = BitVec.ofNat 32 (writtenWord s val off) := by
  rw [evRegisterWrite_of_aligned s val h, State.updCur, State.setRegF_reg_of_ne _ (by omega), w1c_of_none _ _ hp,
    State.setReg_reg, if_pos rfl]

-- which bits software may write, and which values are stored (03 R61, R63; 10 R230; 13 R296)

theorem rwBits_queueBase {q : Nat} (hq : q < 16384) : s.rwBits (0x40 * q) = if s.qEn q then 0 else maskBits 31 0 := by
  rw [State.rwBits, if_pos (by omega), Nat.mul_div_cancel_left q (by omega), Nat.mul_mod_right, State.rwQueue]
  cases s.qEn q <;> rfl

theorem rwBits_queueSize (h : off < 0x100000) (hm : off % 0x40 = 8) : s.rwBits off =
    if s.qEn (off / 0x40) then maskBits 22 20 + maskBits 31 24 else maskBits 19 0 + maskBits 22 20 + maskBits 31 24 := by
  rw [State.rwBits, if_pos h, hm, State.rwQueue]
  cases s.qEn (off / 0x40) <;> rfl

theorem rwBits_jobControl (hlo : 0x100000 ≤ off) (hhi : off < 0x140000) (hm : off % 0x40 = 0xC) :
    s.rwBits off = maskBits 7 0 + maskBits 31 16 := by
  rw [State.rwBits, if_neg (by omega), if_pos hhi, hm]
  rfl

theorem rwBits_powerLimit (h : off = 0x290010) : s.rwBits off = maskBits 20 0 := by
  subst h
  simp [State.rwBits]

theorem rwBits_device (hlo : 0x290000 ≤ off) (hhi : off < 0x2A0000) (hne : off ≠ 0x290010) : s.rwBits off = 0 := by
  unfold State.rwBits
  iterate 17 rw [if_neg (by omega)]

theorem rwBits_whole (h : off = 0x170008 ∨ off = 0x200000 ∨ off = 0x220000) : s.rwBits off = maskBits 31 0 := by
  rcases h with rfl | rfl | rfl <;> simp [State.rwBits]

theorem storedAs_queueSize (h : off < 0x100000) (hm : off % 0x40 = 8) (x : Nat) :
    storedAs off x = putBits x 0 8 (clampNat 4 16 (bitsOf x 0 8)) := if_pos ⟨h, hm⟩

theorem storedAs_jobControl (hlo : 0x100000 ≤ off) (hhi : off < 0x140000) (hm : off % 0x40 = 0xC) (x : Nat) :
    storedAs off x = putBits x 0 8 (min 7 (bitsOf x 0 8)) :=
  (if_neg (by omega)).trans (if_pos ⟨hlo, hhi, hm⟩)

theorem storedAs_powerLimit (h : off = 0x290010) (x : Nat) : storedAs off x =
    putBits (putBits x 0 16 (clampNat 1200 2400 (bitsOf x 0 16))) 16 5 (clampNat 6 20 (bitsOf x 16 5)) :=
  (if_neg (by omega)).trans ((if_neg (by omega)).trans ((if_neg (by omega)).trans (if_pos h)))

theorem storedAs_of_unlimited (hq : ¬ (off < 0x100000 ∧ off % 0x40 = 8))
    (hj : ¬ (0x100000 ≤ off ∧ off < 0x140000 ∧ off % 0x40 = 0xC)) (hr : ¬ (0x150000 ≤ off ∧ off < 0x170000))
    (hp : off ≠ 0x290010) (x : Nat) : storedAs off x = x :=
  (if_neg hq).trans ((if_neg hj).trans ((if_neg fun h => hr ⟨h.1, h.2.1⟩).trans (if_neg hp)))

theorem testBit_merged_of_fixed {k : Nat} (hk : bitOf (s.rwBits off) k = false) :
    (mergeBits (s.rwBits off) (s.reg off).toNat val.toNat 32).testBit k = (s.reg off).toNat.testBit k := by
  rw [testBit_mergeBits, if_neg fun h => by rw [hk] at h; exact Bool.false_ne_true h.2]

/-- A bit that software may not write keeps its value where the limits leave the word as it stands: a limited field
is wholly writable or, as the size of an enabled queue, wholly fixed. -/
theorem testBit_writtenWord_of_fixed (hp : noW1c off) (hold : storedAs off (s.reg off).toNat = (s.reg off).toNat) {k : Nat}
    (hk : bitOf (s.rwBits off) k = false) : (writtenWord s val off).testBit k = (s.reg off).toNat.testBit k := by
  have hmerged := testBit_merged_of_fixed s val hk
  unfold noW1c at hp
  rw [writtenWord]
  by_cases hq : off < 0x100000 ∧ off % 0x40 = 8
  · have hrw := rwBits_queueSize s hq.1 hq.2
    rw [storedAs_queueSize hq.1 hq.2] at hold ⊢
    by_cases hk8 : k < 8
    · have hen : s.qEn (off / 0x40) = true := by
        by_contra hen
        rw [hrw, if_neg hen] at hk
        have hall : ∀ k < 8, bitOf (maskBits 19 0 + maskBits 22 20 + maskBits 31 24) k = true := by decide
        rw [hall k hk8] at hk
        cases hk
      have hfix : ∀ j < 8, bitOf (s.rwBits off) j = false := by
        rw [hrw, if_pos hen]
        decide
      have hsize : bitsOf (mergeBits (s.rwBits off) (s.reg off).toNat val.toNat 32) 0 8 = bitsOf (s.reg off).toNat 0 8 := by
        refine Nat.eq_of_testBit_eq fun i => ?_
        rw [testBit_bitsOf, testBit_bitsOf]
        by_cases hi : i < 8
        · rw [Nat.add_zero, testBit_merged_of_fixed s val (hfix i hi)]
        · simp [hi]
      rw [hsize, ← hold, testBit_putBits, testBit_putBits, if_pos (by omega), hold, if_pos (by omega)]
    · rw [testBit_putBits, if_neg (by omega), hmerged]
  · by_cases hj : 0x100000 ≤ off ∧ off < 0x140000 ∧ off % 0x40 = 0xC
    · obtain ⟨hlo, hhi, hm⟩ := hj
      rw [rwBits_jobControl s hlo hhi hm] at hk
      have hall : ∀ k < 8, bitOf (maskBits 7 0 + maskBits 31 16) k = true := by decide
      have hk8 : ¬ k < 8 := fun h => by rw [hall k h] at hk; cases hk
      rw [storedAs_jobControl hlo hhi hm, testBit_putBits, if_neg (by omega), hmerged]
    · by_cases hl : off = 0x290010
      · rw [rwBits_powerLimit s hl, bitOf_maskBits_zero] at hk
        have hk21 : ¬ k < 21 := of_decide_eq_false hk
        rw [storedAs_powerLimit hl, testBit_putBits, if_neg (by omega), testBit_putBits, if_neg (by omega), hmerged]
      · rw [storedAs_of_unlimited hq hj (by omega) hl, hmerged]

-- what a register write stores (00 R6)

/-- A bit of a word of no write-one-to-clear bit, after a write of the word. -/
theorem registerWrite_bit (h : off % 4 = 0) (hp : noW1c off) (hc : off ≠ 0x220014) {k : Nat} (hk : k < 32) :
    ((evRegisterWrite off val s).reg off).getLsbD k = (writtenWord s val off).testBit k := by
  rw [registerWrite_reg_self s val h hp hc, BitVec.getLsbD_ofNat, decide_eq_true hk, Bool.true_and]

theorem registerWrite_keeps_fixed (h : off % 4 = 0) (hp : noW1c off) (hc : off ≠ 0x220014)
    (hold : storedAs off (s.reg off).toNat = (s.reg off).toNat) {k : Nat} (hk : k < 32)
    (hfix : ¬ bitOf (s.rwBits off) k = true) :
    ((evRegisterWrite off val s).reg off).getLsbD k = (s.reg off).getLsbD k := by
  rw [registerWrite_bit s val h hp hc hk, testBit_writtenWord_of_fixed s val hp hold (Bool.eq_false_iff.2 hfix),
    BitVec.testBit_toNat]

theorem registerWrite_stores_free (h : off % 4 = 0) (hp : noW1c off) (hc : off ≠ 0x220014)
    (hst : ∀ x, storedAs off x = x) {k : Nat} (hk : k < 32) (hfree : bitOf (s.rwBits off) k = true) :
    ((evRegisterWrite off val s).reg off).getLsbD k = val.getLsbD k := by
  rw [registerWrite_bit s val h hp hc hk, writtenWord, hst, testBit_mergeBits, if_pos ⟨hk, hfree⟩, BitVec.testBit_toNat]

theorem registerWrite_regsBut (h : off % 4 = 0) : RegsBut s (evRegisterWrite off val s) [off, 0x220014] := by
  intro o ho hno
  simp only [List.mem_cons, List.not_mem_nil, or_false, not_or] at hno
  exact registerWrite_reg_of_ne s val h (by omega) (by omega)

/-- The registers of the device's state, but for the power limits, are not software's to write (13 R292). -/
theorem registerWrite_device (h : off % 4 = 0) (hlo : 0x290000 ≤ off) (hhi : off < 0x2A0000) (hne : off ≠ 0x290010) :
    (evRegisterWrite off val s).reg off = s.reg off := by
  rw [registerWrite_reg_self s val h (.inr (.inr (by omega))) (by omega), writtenWord, rwBits_device s hlo hhi hne,
    mergeBits_of_none_free, storedAs_of_unlimited (by omega) (by omega) (by omega) hne, BitVec.ofNat_toNat, BitVec.setWidth_eq]

theorem registerWrite_whole (h : off % 4 = 0) (hw : off = 0x170008 ∨ off = 0x200000 ∨ off = 0x220000) :
    (evRegisterWrite off val s).reg off = val := by
  have hp : noW1c off := by
    unfold noW1c
    omega
  rw [registerWrite_reg_self s val h hp (by omega), writtenWord, rwBits_whole s hw,
    mergeBits_of_all_free (s.reg off).isLt val.isLt, storedAs_of_unlimited (by omega) (by omega) (by omega) (by omega),
    BitVec.ofNat_toNat, BitVec.setWidth_eq]

/-- The base of a queue is fixed while the queue is enabled (03 R61). -/
theorem registerWrite_queueBase {q : Nat} (hq : q < 16384) : (evRegisterWrite (0x40 * q) val s).reg (0x40 * q) =
    if s.qEn q then s.reg (0x40 * q) else val := by
  rw [registerWrite_reg_self s val (by omega) (.inl (by omega)) (by omega), writtenWord, rwBits_queueBase s hq,
    storedAs_of_unlimited (by omega) (by omega) (by omega) (by omega)]
  split
  · rw [mergeBits_of_none_free, BitVec.ofNat_toNat, BitVec.setWidth_eq]
  · rw [mergeBits_of_all_free (s.reg (0x40 * q)).isLt val.isLt, BitVec.ofNat_toNat, BitVec.setWidth_eq]

theorem clampNat_bounds {lo hi : Nat} (h : lo ≤ hi) (n : Nat) : lo ≤ clampNat lo hi n ∧ clampNat lo hi n ≤ hi := by
  unfold clampNat
  omega

/-- What a limited field reads, where the limits fit it. -/
theorem bitsOf_putBits_clampNat {lo hi w : Nat} (h : lo ≤ hi) (hw : hi < 2 ^ w) (x pos n : Nat) :
    lo ≤ bitsOf (putBits x pos w (clampNat lo hi n)) pos w ∧ bitsOf (putBits x pos w (clampNat lo hi n)) pos w ≤ hi := by
  have hb := clampNat_bounds h n
  rwa [bitsOf_putBits_self, Nat.mod_eq_of_lt (by omega)]

/-- The word of the power limits as it is stored: both limits in their ranges, the bits above them as given (13 R296). -/
theorem storedAs_powerLimit_fields {x : Nat} (h : off = 0x290010) (hx : x < 2 ^ 32) :
    storedAs off x < 2 ^ 32 ∧ (∀ i, (storedAs off x).testBit (i + 21) = x.testBit (i + 21)) ∧
      (1200 ≤ bitsOf (storedAs off x) 0 16 ∧ bitsOf (storedAs off x) 0 16 ≤ 2400) ∧
      6 ≤ bitsOf (storedAs off x) 16 5 ∧ bitsOf (storedAs off x) 16 5 ≤ 20 := by
  rw [storedAs_powerLimit h]
  refine ⟨putBits_lt _ (putBits_lt _ hx (by omega)) (by omega), fun i => ?_, ?_,
    bitsOf_putBits_clampNat (by omega) (by omega) ..⟩
  · rw [testBit_putBits, if_neg (by omega), testBit_putBits, if_neg (by omega)]
  · rw [bitsOf_putBits_of_disjoint (by omega)]
    exact bitsOf_putBits_clampNat (by omega) (by omega) ..

/-- The power limits stay in their ranges, and the word's other bits stand (13 R296). -/
theorem registerWrite_powerLimit (h : off = 0x290010) :
    ((evRegisterWrite off val s).reg off).toNat / 2 ^ 21 = (s.reg off).toNat / 2 ^ 21 ∧
      1200 ≤ (evRegisterWrite off val s).regF off 0 16 ∧ (evRegisterWrite off val s).regF off 0 16 ≤ 2400 ∧
      6 ≤ (evRegisterWrite off val s).regF off 16 5 ∧ (evRegisterWrite off val s).regF off 16 5 ≤ 20 := by
  obtain ⟨hlt, hhigh, ⟨hp, hp'⟩, ht, ht'⟩ := storedAs_powerLimit_fields h (mergeBits_lt (s.rwBits off) val.toNat (s.reg off).isLt)
  have hword : ((evRegisterWrite off val s).reg off).toNat = writtenWord s val off := by
    rw [registerWrite_reg_self s val (by omega) (.inr (.inr (by omega))) (by omega), BitVec.toNat_ofNat]
    exact Nat.mod_eq_of_lt hlt
  simp only [State.regF, hword]
  refine ⟨Nat.eq_of_testBit_eq fun i => ?_, hp, hp', ht, ht'⟩
  have hfix : bitOf (s.rwBits off) (i + 21) = false := by
    rw [rwBits_powerLimit s h, bitOf_maskBits_zero]
    exact decide_eq_false (by omega)
  rw [Nat.testBit_div_two_pow, Nat.testBit_div_two_pow, writtenWord, hhigh, testBit_merged_of_fixed s val hfix]

theorem registerWrite_frame (h : off % 4 = 0) : ∃ b p, evRegisterWrite off val s = { s with bar2 := b, peersGone := p } := by
  obtain ⟨b, p, hw⟩ := w1c_frame (s.setReg off (BitVec.ofNat 32 (writtenWord s val off))) val off
  rw [evRegisterWrite_of_aligned s val h, hw]
  exact ⟨_, p, rfl⟩

end RegisterWrites

section Statement

/-- REGISTER_WRITE changes no other word but CUR, and stores the writable bits within the limits (00 R6). -/
theorem registerWrite_stores (off : Nat) (val : Word) (s : State) (h : off % 4 = 0) :
    ∃ t, exec (.registerWrite off val) s = .next t ∧ RegsBut s t [off, 0x220014] ∧
    (0x290000 ≤ off → off < 0x2A0000 → off ≠ 0x290010 → t.reg off = s.reg off) ∧
    (off ≠ 0x220014 ∧ noW1c off →
      (storedAs off (s.reg off).toNat = (s.reg off).toNat →
        ∀ k, k < 32 → ¬ bitOf (s.rwBits off) k = true → (t.reg off).getLsbD k = (s.reg off).getLsbD k) ∧
      ((∀ x, storedAs off x = x) → ∀ k, k < 32 → bitOf (s.rwBits off) k = true → (t.reg off).getLsbD k = val.getLsbD k)) ∧
    (off = 0x170008 ∨ off = 0x200000 ∨ off = 0x220000 → t.reg off = val) ∧
    (∀ q, q < 16384 → off = 0x40 * q → t.reg off = if s.qEn q then s.reg off else val) ∧
    (off = 0x290010 → (t.reg off).toNat / 2 ^ 21 = (s.reg off).toNat / 2 ^ 21 ∧
      1200 ≤ t.regF off 0 16 ∧ t.regF off 0 16 ≤ 2400 ∧ 6 ≤ t.regF off 16 5 ∧ t.regF off 16 5 ≤ 20) ∧
    { t with turn := s.turn, tick := s.tick, fresh := s.fresh, gtime := s.gtime, bar2 := s.bar2,
             peersGone := s.peersGone } = s := by
  have hothers := registerWrite_regsBut s val h
  have hdevice := registerWrite_device s val h
  have hfixed (hp : noW1c off) (hc : off ≠ 0x220014) := registerWrite_keeps_fixed s val h hp hc
  have hfree (hp : noW1c off) (hc : off ≠ 0x220014) := registerWrite_stores_free s val h hp hc
  have hwhole := registerWrite_whole s val h
  have hbase (q : Nat) (hq : q < 16384) (ho : off = 0x40 * q) :
      (evRegisterWrite off val s).reg off = if s.qEn q then s.reg off else val := by
    subst ho
    exact registerWrite_queueBase s val hq
  have hlimits := registerWrite_powerLimit (off := off) s val
  have hframe := registerWrite_frame s val h
  generalize hu : evRegisterWrite off val s = u at hothers hdevice hfixed hfree hwhole hbase hlimits hframe
  refine ⟨u.finish, next_finish_congr hu, hothers.finish, hdevice, fun ⟨hc, hp⟩ =>
    ⟨fun hold k hk => hfixed hp hc hold hk, fun hst k hk => hfree hp hc hst hk⟩, hwhole, hbase, hlimits, ?_⟩
  obtain ⟨b, p, rfl⟩ := hframe
  rfl

/-- Settles O53: each clause is what the lemma of its event says. -/
theorem startsAndManagement : Obligations.StartsAndManagement :=
  ⟨deviceStart_ready, failed_tests, start_events_ignored, watchdog_and_supply_fail, thermalTrip_stops,
    powerWindow_shows, thermalThrottle_shows, failsClear_resets, packagePowerOff_clears,
    fun core level s => floorWrite_stores s core level, registerWrite_stores⟩

end Statement

end Sys2Proof.Machine.Management
end

section
/-!
PROOFS. The home slices: HomeSlicesAndLines fails for an entry whose write has no bytes and stands at the end of
its line, so that the slice takes it for a write to the next line (08 R178; 12 R269, R288).
-/

namespace Sys2Proof.Machine.Slices

/-- A store-queue entry of the last line of page 0 whose one write has no bytes and stands at the line's end,
which is the first byte of page 1. -/
def emptyWrite : SqEntry :=
  { id := 0, wid := 0, launch := 0, line := 31, writes := [(0, 4096, [])], vas := [], strong := false,
    asid := 0, gwct := none }

/-- Page 0 is in device bias, page 1 in host bias, undo logging is on, and core 0 holds `emptyWrite`. -/
def emptyWriteState : State :=
  { State.reset with
    bias := [(1, 1)], bar2 := [(0x280008 / 4, 1)],
    cores := [(0, { Core.init with sq := [emptyWrite] })] }

/-- The slice logs the first line of the host-biased page, which the entry does not write (12 R269, R288). -/
theorem sliceWrite_emptyWriteState_logs : (evSliceWrite 0 0 emptyWriteState).undoLog.map (·.line) = [32] := by
  decide +kernel

/-- Refutes O39: its clause of SLICE_WRITE admits a write of no bytes at the end of its line. Where the next page
is in host bias and undo logging is on, SLICE_WRITE of such an entry appends that page's first line to the undo
log, which the clause says it keeps. -/
theorem not_homeSlicesAndLines : ¬ Obligations.HomeSlicesAndLines := by
  unfold Obligations.HomeSlicesAndLines
  rintro ⟨⟨-, hwrite, -⟩, -⟩
  obtain ⟨hdev, -⟩ := hwrite 0 0 emptyWriteState emptyWrite rfl rfl (by decide +kernel) (by decide +kernel)
  obtain ⟨t, ht, ⟨-, -, -, hrest⟩, -⟩ := hdev (.inl (by decide +kernel)) (by decide +kernel) rfl
    (by decide +kernel) (.inl rfl)
  have hlog : t.undoLog = (evSliceWrite 0 0 emptyWriteState).undoLog := by
    injection ht with ht
    rw [← ht]; rfl
  have hkept : t.undoLog = [] := congrArg State.undoLog hrest
  have hlines := sliceWrite_emptyWriteState_logs
  rw [← hlog, hkept] at hlines
  cases hlines

end Sys2Proof.Machine.Slices
end

section
/-!
PROOFS. Retire packets: which are sent, and the checks of all but loads (01 R11, R12, R20, R23, R36).
-/

namespace Sys2Proof.Machine.Packets

/-- The sequencer found for a warp is one that a group of it is bound to. -/
theorem seqOf_seqAt {core part wid q : Nat} {b : Binding} {s : State} (h : s.seqOf core part wid = some (q, b)) :
    s.seqAt core part q = some b ∧ b.wid = wid := by
  obtain ⟨q', -, hq'⟩ := List.exists_of_findSome?_eq_some h
  split at hq'
  · split at hq'
    · rename_i b' hb hw
      cases hq'
      exact ⟨hb, hw⟩
    · cases hq'
  · cases hq'

theorem partFull_eq_false_iff (s : State) (core part wid : Nat) : s.partFull core part wid = false ↔
    ((s.partOut core part).length < 64 ∧ s.lockstep wid = false ∧
      ∀ o ∈ s.partOut core part, s.lockstep o.wid = false) ∨ s.partOut core part = [] := by
  have hany : (∀ o ∈ s.partOut core part, s.lockstep o.wid = false) ↔
      (s.partOut core part).any (fun o => s.lockstep o.wid) = false := by simp
  rw [hany, ← List.length_eq_zero_iff, State.partFull, decide_eq_false_iff_not]
  generalize (s.partOut core part).length = n
  generalize (s.partOut core part).any (fun o => s.lockstep o.wid) = other
  cases hone : (s.lockstep wid || other)
  · obtain ⟨h1, h2⟩ := Bool.or_eq_false_iff.1 hone
    rw [if_neg Bool.false_ne_true, h1, h2]
    simp only [not_le, and_self, and_true, iff_self_or]
    omega
  · have hnot : ¬ (s.lockstep wid = false ∧ other = false) := fun h => by simp [h] at hone
    rw [if_pos rfl, or_iff_right (fun h => hnot h.2)]
    omega

theorem retirePacket_unknown {core part : Nat} {p : RetirePacket} {s : State}
    (h : s.packetWarp core part p.warp = none) : evRetirePacket core part p s = s := by
  rw [evRetirePacket, h]

theorem packetInstr_any_isWeakLoad_iff (p : RetirePacket) :
    (packetInstr p).any isWeakLoad = true ↔ ∃ i, decode p.words = .ok i ∧ isWeakLoad i = true := by
  cases h : decode p.words <;> simp [packetInstr, h, Except.toOption]

/-- The level in force for warp `w` and the packets in its partition let it send the packet (01 R20, R23, R33). -/
def Sendable (s : State) (core part : Nat) (w : Warp) (p : RetirePacket) : Prop :=
  ((s.partOut core part).length < 64 ∧ w.level ≠ 5 ∧ (∀ o ∈ s.partOut core part, s.lockstep o.wid = false) ∨
    s.partOut core part = []) ∧
  (p.vp = true → w.level = 0 ∧ ∃ i, decode p.words = .ok i ∧ isWeakLoad i = true) ∧ (p.sr = true → w.level < 2)

section Retire
variable {core part wid : Nat} {p : RetirePacket} {s : State} {w : Warp} (hpart : part < 4)
  (hrun : s.coreHalted core = false) (hw : s.warp wid = some w) (hon : s.blockOff (blkOf wid) = false)
include hpart hrun hw hon

/-- The condition under which RETIRE_PACKET sends nothing. -/
theorem refused_eq_false_iff : (decide (4 ≤ part) || s.coreHalted core || s.blockOff (blkOf wid) ||
      (p.sr && decide (2 ≤ w.level)) || (p.vp && (decide (1 ≤ w.level) || !(packetInstr p).any isWeakLoad)) ||
      s.partFull core part wid) = false ↔ Sendable s core part w p := by
  have hlock : s.lockstep wid = (w.level == 5) := by rw [State.lockstep, hw]; rfl
  have hvp : (p.vp && (decide (1 ≤ w.level) || !(packetInstr p).any isWeakLoad)) = false ↔
      (p.vp = true → w.level = 0 ∧ ∃ i, decode p.words = .ok i ∧ isWeakLoad i = true) := by
    rw [← packetInstr_any_isWeakLoad_iff]
    cases p.vp <;> simp
  have hsr : (p.sr && decide (2 ≤ w.level)) = false ↔ (p.sr = true → w.level < 2) := by
    cases p.sr <;> simp
  simp only [Bool.or_eq_false_iff, hrun, hon, hvp, hsr, partFull_eq_false_iff, hlock, decide_eq_false_iff_not, not_le,
    hpart, beq_eq_false_iff_ne, Sendable, true_and]
  exact ⟨fun ⟨⟨hs, hv⟩, hroom⟩ => ⟨hroom, hv, hs⟩, fun ⟨hroom, hv, hs⟩ => ⟨⟨hs, hv⟩, hroom⟩⟩

theorem retirePacket_sent (hp : s.packetWarp core part p.warp = some wid) (hs : Sendable s core part w p) :
    evRetirePacket core part p s =
      s.modCore core (fun k => { k with out := k.out ++ [(part, Outstanding.fresh wid p)] }) := by
  simp only [evRetirePacket, hp, hw, Option.map_some, Option.getD_some]
  exact if_neg (by rw [(refused_eq_false_iff hpart hrun hw hon).2 hs]; exact Bool.false_ne_true)

theorem retirePacket_not_sent (hp : s.packetWarp core part p.warp = some wid) (hs : ¬ Sendable s core part w p) :
    evRetirePacket core part p s = s := by
  simp only [evRetirePacket, hp, hw, Option.map_some, Option.getD_some]
  exact if_pos (Bool.of_not_eq_false (mt (refused_eq_false_iff hpart hrun hw hon).1 hs))

end Retire

theorem fetchAtCheck_settled {core part wid : Nat} {s : State}
    (h : ∀ q b, s.seqOf core part wid = some (q, b) → b.run.isSome = true) :
    s.fetchAtCheck core part wid = s := by
  unfold State.fetchAtCheck
  split
  · rfl
  · rename_i q b hq
    rw [if_pos (h q b hq)]

/-- Residue errors of a check counted in SOFT (01 R36). -/
def countSoft (core errs : Nat) (s : State) : State :=
  s.modCore core (fun k => { k with mmSoft := min 0xFFFF (k.mmSoft + errs) })

theorem countSoft_core_self (core errs : Nat) (s : State) : (countSoft core errs s).core core =
    { s.core core with mmSoft := min 0xFFFF ((s.core core).mmSoft + errs) } := s.modCore_core_self core _

theorem countSoft_seqOf (core errs part wid : Nat) (s : State) :
    (countSoft core errs s).seqOf core part wid = s.seqOf core part wid := by
  simp only [State.seqOf, State.seqAt, countSoft_core_self]

theorem countSoft_coreHalted (core errs : Nat) (s : State) :
    (countSoft core errs s).coreHalted core = s.coreHalted core := by
  rw [State.coreHalted, countSoft_core_self]
  rfl

theorem check_of_few_errors {core part idx errs : Nat} {s : State} {o : Outstanding}
    (ho : (s.partOut core part)[idx]? = some o) (herr : errs < 3) (hrun : s.coreHalted core = false)
    (hon : s.blockOff (blkOf o.wid) = false)
    (hset : ∀ q b, s.seqOf core part o.wid = some (q, b) → b.run.isSome = true) :
    evCheck core part idx errs s = State.checkOne core part idx o (countSoft core errs s) := by
  have hmin : min errs 2 = errs := by omega
  have hh : (countSoft core errs s).coreHalted core = false := (countSoft_coreHalted core errs s).trans hrun
  have hb : (countSoft core errs s).blockOff (blkOf o.wid) = false := hon
  have hfetch : (countSoft core errs s).fetchAtCheck core part o.wid = countSoft core errs s :=
    fetchAtCheck_settled fun q b hq => hset q b ((countSoft_seqOf core errs part o.wid s).symm.trans hq)
  simp only [evCheck, ho, hmin, if_neg (by omega : ¬ 3 ≤ errs)]
  change (if (countSoft core errs s).coreHalted core || (countSoft core errs s).blockOff (blkOf o.wid) then _ else
    State.checkOne core part idx o ((countSoft core errs s).fetchAtCheck core part o.wid)) = _
  rw [hh, hb, hfetch]
  rfl

theorem checkOne_not_load {core part idx : Nat} {s : State} {o : Outstanding}
    (h : ∀ i, decode o.p.words = .ok i → isCheckedLoad i = false) : State.checkOne core part idx o s =
      s.modCore core (fun k => { k with out := setOut part { o with checked := true } idx k.out }) := by
  unfold State.checkOne
  split
  · rename_i w i hw hi
    have hd : decode o.p.words = .ok i := by
      unfold packetInstr at hi
      cases hd : decode o.p.words with
      | error e => rw [hd] at hi; cases hi
      | ok j => rw [hd] at hi; cases hi; rfl
    rw [h i hd]
    rfl
  · rfl

/-- A core that has failed, its packets gone (01 R35). -/
def failedCore (k : Core) : Core := { k with failed := true, out := [] }

theorem failCore_core {core : Nat} {s : State} (hf : (s.core core).failed = false) (k : Nat) :
    (s.failCore core).core k = (s.modCore core failedCore).core k := by
  unfold State.failCore
  rw [if_neg (by rw [hf]; exact Bool.false_ne_true)]
  rfl

@[simp] theorem failCore_warps (core : Nat) (s : State) : (s.failCore core).warps = s.warps := by
  unfold State.failCore; split <;> rfl

@[simp] theorem failCore_mem (core : Nat) (s : State) : (s.failCore core).mem = s.mem := by
  unfold State.failCore; split <;> rfl

/-- CHECK after the third residue error in a row (01 R36). -/
theorem check_three_errors {core part idx errs : Nat} {s : State} {o : Outstanding}
    (ho : (s.partOut core part)[idx]? = some o) (herr : 3 ≤ errs) (hf : (s.core core).failed = false) :
    ∃ t, exec (.check core part idx errs) s = .next t ∧
      (t.core core).failed = true ∧ (t.core core).out = [] ∧
      (t.core core).mmSoft = min 0xFFFF ((s.core core).mmSoft + 2) ∧
      t.warps = s.warps ∧ t.mem = s.mem ∧ ∀ k, k ≠ core → t.core k = s.core k := by
  have hmin : min errs 2 = 2 := by omega
  have hev : evCheck core part idx errs s = (countSoft core 2 s).failCore core := by
    simp only [evCheck, ho, hmin, if_pos herr]
    rfl
  have hcore := failCore_core (s := countSoft core 2 s) (core := core) (by rw [countSoft_core_self, hf])
  have hself : ((countSoft core 2 s).failCore core).core core =
      failedCore { s.core core with mmSoft := min 0xFFFF ((s.core core).mmSoft + 2) } := by
    rw [hcore, State.modCore_core_self, countSoft_core_self]
  refine ⟨(evCheck core part idx errs s).finish, rfl, ?_⟩
  rw [State.finish_core, State.finish_warps, State.finish_mem, hev, hself, failCore_warps, failCore_mem]
  refine ⟨rfl, rfl, rfl, rfl, rfl, fun k hk => ?_⟩
  rw [State.finish_core, hcore, State.modCore_core_of_ne _ hk, countSoft, State.modCore_core_of_ne _ hk]

end Sys2Proof.Machine.Packets
end

section
/-!
PROOFS. Retire packets: the commit of the oldest packet of a warp, what its claims come to, and the count of a
mismatch (01 R14 to R16, R24, R31, R35).
-/

namespace Sys2Proof.Machine.Packets

section Tables
variable {β : Type}

theorem keysRise_le {k lo : Nat} {v : β} {t : Tbl β} (hr : keysRise lo t = true) (h : tget k t = some v) : lo ≤ k := by
  induction t generalizing lo with
  | nil => cases h
  | cons e r ih =>
    obtain ⟨a, w⟩ := e
    obtain ⟨ha, hr⟩ : lo ≤ a ∧ keysRise (a + 1) r = true := by simpa [keysRise] using hr
    by_cases hk : a = k
    · omega
    · rw [tget, if_neg hk] at h
      have := ih hr h
      omega

/-- On a table whose keys rise, a record put where it stands changes nothing. -/
theorem tset_of_tget {k lo : Nat} {v : β} {t : Tbl β} (hr : keysRise lo t = true) (h : tget k t = some v) :
    tset k v t = t := by
  induction t generalizing lo with
  | nil => cases h
  | cons e r ih =>
    obtain ⟨a, w⟩ := e
    obtain ⟨-, hr⟩ : lo ≤ a ∧ keysRise (a + 1) r = true := by simpa [keysRise] using hr
    by_cases ha : a = k
    · rw [tget, if_pos ha] at h
      rw [tset, finsert, if_neg (by omega), if_pos ha, ← Option.some.inj h, ha]
    · rw [tget, if_neg ha] at h
      have hk := keysRise_le hr h
      rw [tset, finsert, if_neg (by omega), if_neg ha]
      exact congrArg _ (ih hr h)

/-- A change of a warp that leaves it as it is, in a table in order. -/
theorem modWarp_eq_self {wid : Nat} {w : Warp} {f : Warp → Warp} {s : State} (hk : keysRise 0 s.warps = true)
    (hw : s.warp wid = some w) (hf : f w = w) : s.modWarp wid f = s := by
  have hw' : tget wid s.warps = some w := hw
  rw [State.modWarp, hw']
  simp only [hf, tset_of_tget hk hw']

end Tables

/-- A warp instruction is the issue of its own effect. -/
theorem bodyOf_exec (i : Instr) : (bodyOf i).elim True (fun body => ∀ s, exec i s = issue i body s) := by
  cases i
  all_goals first | exact trivial | exact fun _ => rfl

theorem exec_of_bodyOf {i : Instr} {body : Ctx → State → Res} (h : bodyOf i = some body) (s : State) :
    exec i s = issue i body s := by
  have hi := bodyOf_exec i
  rw [h] at hi
  exact hi s

/-- An instruction that no check stops, on a warp with no poisoned entry, comes to its own effect. -/
theorem instrRes_of_legal {i : Instr} {body : Ctx → State → Res} {c : Ctx} {w : Warp} {s : State}
    (hfirst : c.tag = none) (hlegal : preFault i c w = none) (hclean : w.bad = []) :
    instrRes i body c w s = ([], body c s, false) := by
  simp [instrRes, hfirst, hlegal, poisonLanes, hclean]

/-- The state in which the packet commits: it is out of its partition, and the turn is its sequencer's. -/
def commitView (core part idx q : Nat) (s : State) : State :=
  { s.modCore core (fun k => { k with out := dropOut part idx k.out }) with turn := .issue core part q }

theorem commitView_core (core part idx q : Nat) (s : State) : (commitView core part idx q s).core core =
    { s.core core with out := dropOut part idx (s.core core).out } :=
  s.modCore_core_self core fun k => { k with out := dropOut part idx k.out }

/-- The packet `o` commits instruction `i` for the group of `c`: it is the oldest of its warp and checked, its core
runs, its group is bound to sequencer `q`, and nothing comes before the instruction's own effect (01 R14). -/
structure Commits (core part idx : Nat) (s : State) (o : Outstanding) (q : Nat) (w : Warp) (c : Ctx) (i : Instr)
    (body : Ctx → State → Res) : Prop where
  out : (s.partOut core part)[idx]? = some o
  checked : o.checked = true
  oldest : s.notOldest core part idx o = false
  running : s.coreHalted core = false
  on : s.blockOff (blkOf o.wid) = false
  bound : ∃ b r, s.seqOf core part o.wid = some (q, b) ∧ b.run = some r
  warp : s.warp o.wid = some w
  clean : w.bad = []
  ordered : keysRise 0 s.warps = true
  ctx : (commitView core part idx q s).ctx? = some c
  first : c.tag = none
  found : (commitView core part idx q s).found c w = .instr i
  body : bodyOf i = some body
  legal : preFault i c w = none

section Commit
variable {core part idx q : Nat} {s : State} {o : Outstanding} {w : Warp} {c : Ctx} {i : Instr}
  {body : Ctx → State → Res} (h : Commits core part idx s o q w c i body)
include h

theorem Commits.ctx_eq : c.core = core ∧ c.part = part ∧ c.wid = o.wid := by
  obtain ⟨b, r, hq, -⟩ := h.bound
  obtain ⟨hseq, hwid⟩ := seqOf_seqAt hq
  obtain ⟨b', -, -, hb', -, hw', -, -, -, -, hturn, -⟩ := ctx_spec h.ctx
  obtain ⟨hc, hp, hs⟩ : core = c.core ∧ part = c.part ∧ q = c.seq := by
    injection hturn with h1 h2 h3
    exact ⟨h1, h2, h3⟩
  subst hc hp hs
  have hsame : (commitView c.core c.part idx c.seq s).seqAt c.core c.part c.seq = s.seqAt c.core c.part c.seq := by
    rw [State.seqAt, commitView_core, State.seqAt]
  rw [hsame, hseq] at hb'
  cases hb'
  exact ⟨rfl, rfl, hw'.symm.trans hwid⟩

theorem Commits.ctx_wid : c.wid = o.wid := by
  obtain ⟨-, -, hwid⟩ := h.ctx_eq
  exact hwid

/-- COMMIT comes to the commit of the instruction in its view. -/
theorem Commits.evCommit_eq : evCommit core part idx [] s = (commitView core part idx q s).commitInstr i body c o := by
  obtain ⟨b, r, hq, hr⟩ := h.bound
  have hbad : s.modWarp o.wid (fun w => { w with bad := nubNat [] (w.bad ++ []) }) = s := by
    refine modWarp_eq_self h.ordered h.warp ?_
    rw [h.clean]
    change { w with bad := [] } = w
    rw [← h.clean]
  have hwarp : (commitView core part idx q s).warp o.wid = some w := h.warp
  have hgo : State.commitPacket core part idx o q b s = (commitView core part idx q s).commitFound c w o := by
    simp only [State.commitPacket, hr, Option.isSome_some, if_true]
    change (match (commitView core part idx q s).ctx?, (commitView core part idx q s).warp o.wid with
      | some c, some w => (commitView core part idx q s).commitFound c w o
      | _, _ => (commitView core part idx q s).settle core part q o.wid) = _
    rw [h.ctx, hwarp]
  simp only [evCommit, h.out, h.checked, h.oldest, h.running, h.on, hq, hbad, hgo, Bool.not_true, Bool.or_false,
    Bool.false_eq_true, if_false]
  simp only [State.commitFound, h.found, h.body]

/-- The warp with no floating-point flags raised in the lanes of a mask. -/
def noFlags (m : Mask) (w : Warp) : Warp := w.modLanes m (fun l => { l with fpf := 0 })

/-- What the effect comes to on lanes with no flags raised before it. -/
def effectNoFlags (wid : Nat) (body : Ctx → State → Res) (c : Ctx) (w : Warp) (u : State) : Res :=
  body c { u with warps := tset wid (noFlags c.mask w) u.warps }

omit h in
theorem preFault_noFlags (m : Mask) : preFault i c (noFlags m w) = preFault i c w := by
  calc preFault i c (noFlags m w) = preFault i c { noFlags m w with lanes := w.lanes } := rfl
    _ = preFault i c w := congrArg (preFault i c) (w.modLanes_keep m _)

/-- The commit of an instruction: its effect, judged by what the check came to. -/
theorem Commits.commitInstr_eq : (commitView core part idx q s).commitInstr i body c o =
    let u := commitView core part idx q s
    let b := u.commitBody i body c w o
    let r0 := effectNoFlags o.wid b c w u
    State.judge core part (u.lidOf o.wid) o.p.stall (u.mismatchOf i c w o.p r0.faults r0)
      (applyRes i c [] (b c u)) := by
  obtain ⟨hcore, hpart, hwid⟩ := h.ctx_eq
  have hwarp : (commitView core part idx q s).warp o.wid = some w := h.warp
  have hclean : (noFlags c.mask w).bad = [] := (congrArg Warp.bad (w.modLanes_keep c.mask _)).trans h.clean
  have hlegal : preFault i c (noFlags c.mask w) = none := (preFault_noFlags c.mask).trans h.legal
  have hinner (b : Ctx → State → Res) (v : State) := instrRes_of_legal (body := b) (s := v) h.first hlegal hclean
  simp only [noFlags] at hinner
  simp only [State.commitInstr, hwid, hwarp, instrRes_of_legal h.first h.legal h.clean, hinner,
    Bool.false_eq_true, if_false, List.nil_append, hcore, hpart, effectNoFlags, noFlags]

theorem Commits.exec_eq : exec i (commitView core part idx q s) =
    .next (applyRes i c [] (body c (commitView core part idx q s))).finish := by
  have hwarp : (commitView core part idx q s).warp c.wid = some w := h.ctx_wid ▸ h.warp
  simp only [exec_of_bodyOf h.body, issue, h.ctx, State.runInstr, hwarp, instrRes_of_legal h.first h.legal h.clean,
    Bool.false_eq_true, if_false]
end Commit

section Verdict

theorem sameSet_iff {α : Type} [DecidableEq α] (a b : List α) : sameSet a b = true ↔ ∀ x, x ∈ a ↔ x ∈ b := by
  simp only [sameSet, Bool.and_eq_true, List.all_eq_true, List.contains_iff_mem]
  exact ⟨fun h x => ⟨h.1 x, h.2 x⟩, fun h => ⟨fun x => (h x).1, fun x => (h x).2⟩⟩

/-- Conditions 5 and 6 of 01 R14 hold: the operands and addresses that the packet claims are the architectural ones,
and it claims those that it has room for. -/
def Claimed (u : State) (i : Instr) (c : Ctx) (w : Warp) (p : RetirePacket) : Prop :=
  let keys := keysOf w (lowLane c.mask) (regUse i).1
  let lks := keys.filter (fun k => decide (k < 4096))
  let uks := keys.filter (fun k => decide (4096 ≤ k))
  (∀ x ∈ p.srcv ++ p.srcu, w.rdKey x.lane x.key = x.val) ∧
    (∀ x ∈ p.srcf, (w.lane x.lane).f.setWidth 32 = x.val) ∧
    (lks.length ≤ 6 → ∀ k ∈ lks, ∀ l ∈ lanesOf c.mask, ∃ x ∈ p.srcv, x.key = k ∧ x.lane = l) ∧
    (uks.length ≤ 4 → ∀ k ∈ uks, ∃ x ∈ p.srcu, x.key = k) ∧
    ((flagReads i).f ≠ [] → ∀ l ∈ lanesOf c.mask, ∃ x ∈ p.srcf, x.lane = l) ∧
    ∀ x, x ∈ p.addr ↔ ∃ y ∈ u.addrsOf c w i, x = (y.1, y.2.setWidth 55)

theorem any_bne_eq_false_iff {α β : Type} [BEq β] [LawfulBEq β] (xs : List α) (f g : α → β) :
    xs.any (fun x => f x != g x) = false ↔ ∀ x ∈ xs, f x = g x := by
  simp

/-- Nothing of a list is missing of what another is to hold. -/
theorem any_missing_eq_false_iff {α β : Type} (ks : List α) (xs : List β) (q : α → β → Bool) :
    ks.any (fun k => !xs.any (q k)) = false ↔ ∀ k ∈ ks, ∃ x ∈ xs, q k x = true := by
  simp

theorem operandBad_eq_false_iff (u : State) (i : Instr) (c : Ctx) (w : Warp) (p : RetirePacket) :
    u.operandBad i c w p = false ↔ Claimed u i c w p := by
  have haddr : sameSet p.addr ((u.addrsOf c w i).map (fun x => (x.1, x.2.setWidth 55))) = true ↔
      ∀ x, x ∈ p.addr ↔ ∃ y ∈ u.addrsOf c w i, x = (y.1, y.2.setWidth 55) := by
    rw [sameSet_iff]
    simp only [List.mem_map, eq_comm]
  have hvec (ks ls : List Nat) : ks.any (fun k => ls.any (fun l => !p.srcv.any (fun x => x.key == k && x.lane == l))) =
      false ↔ ∀ k ∈ ks, ∀ l ∈ ls, ∃ x ∈ p.srcv, x.key = k ∧ x.lane = l := by
    simp only [List.any_eq_false (l := ks), Bool.not_eq_true, any_missing_eq_false_iff, Bool.and_eq_true, beq_iff_eq]
  simp only [State.operandBad, sourceBad, Bool.or_eq_false_iff, Bool.and_eq_false_imp, any_bne_eq_false_iff, hvec,
    any_missing_eq_false_iff, beq_iff_eq, decide_eq_true_eq, Bool.not_eq_true', Bool.not_eq_false', haddr, Claimed,
    List.mem_append, or_imp, forall_and, List.isEmpty_eq_false_iff, and_assoc]

/-- The effect leaves the group waiting at its instruction. -/
def Waits (r : Res) : Prop := ∃ why phase arg, r.flow = .stay why phase arg

/-- The lanes of a group in which the effect raises no fault. -/
def okLanes (c : Ctx) (r : Res) : Mask := c.mask &&& ~~~maskOf (r.faults.map Prod.fst)

/-- The warp that the effect leaves. -/
def warpAfter (wid : Nat) (w : Warp) (r : Res) : Warp := (r.s.warp wid).getD w

/-- The packet claims the results as they are. -/
def ValuesOk (u : State) (wid : Nat) (i : Instr) (c : Ctx) (w : Warp) (r : Res) (p : RetirePacket) : Prop :=
  ∀ x, x ∈ p.dst ↔ x ∈ u.dstClaims wid i (warpAfter wid w r) (okLanes c r)

/-- It claims the floating-point flags raised. -/
def FlagsOk (wid : Nat) (c : Ctx) (w : Warp) (r : Res) (p : RetirePacket) : Prop :=
  ∀ x : Nat × BitVec 5, x.2 ≠ 0 →
    (x ∈ p.fpf ↔ x.1 ∈ lanesOf (okLanes c r) ∧ ((warpAfter wid w r).lane x.1).fpf = x.2)

/-- It claims the lanes that jump, and where the lowest goes. -/
def NextOk (r : Res) (p : RetirePacket) : Prop :=
  p.nextMask = (nextOf r.flow).1 ∧ (p.nextMask ≠ 0 → p.nextPc.setWidth 64 = (nextOf r.flow).2)

/-- Conditions 3, 4 and 7 of 01 R14 hold. -/
def PlaceOk (c : Ctx) (r : Res) (p : RetirePacket) : Prop :=
  p.pc.setWidth 64 = c.pc ∧ p.mask = c.mask ∧ p.words = c.words ∧ p.gen.toNat = c.gen % 2 ^ 16 ∧
    (¬ Waits r → p.fclaim.toNat = codeOf r.faults)

/-- A load's values disagree. -/
def BadValue (u : State) (wid : Nat) (i : Instr) (c : Ctx) (w : Warp) (r : Res) (p : RetirePacket) : Prop :=
  isCheckedLoad i = true ∧ ¬ Waits r ∧ ¬ ValuesOk u wid i c w r p

/-- Nothing of the place and the recomputed results disagrees. -/
def ResultsOk (u : State) (wid : Nat) (i : Instr) (c : Ctx) (w : Warp) (r : Res) (p : RetirePacket) : Prop :=
  PlaceOk c r p ∧ (isSpeculative i = true → ¬ Waits r → ValuesOk u wid i c w r p ∧ FlagsOk wid c w r p ∧ NextOk r p)

/-- The effect leaves the group waiting, as a test. -/
def waits (r : Res) : Bool :=
  match r.flow with
  | .stay _ _ _ => true
  | _ => false

/-- The flags raised, by lane. -/
def raisedFlags (wid : Nat) (c : Ctx) (w : Warp) (r : Res) : List (Nat × BitVec 5) :=
  (lanesOf (okLanes c r)).filterMap (fun l =>
    if ((warpAfter wid w r).lane l).fpf = 0 then none else some (l, ((warpAfter wid w r).lane l).fpf))

theorem waits_iff (r : Res) : waits r = true ↔ Waits r := by
  unfold waits Waits
  cases r.flow <;> simp

theorem flagsOk_iff (wid : Nat) (c : Ctx) (w : Warp) (r : Res) (p : RetirePacket) :
    sameSet (p.fpf.filter (fun e => e.2 != 0)) (raisedFlags wid c w r) = true ↔ FlagsOk wid c w r p := by
  have hraised (x : Nat × BitVec 5) : x ∈ raisedFlags wid c w r ↔
      x.1 ∈ lanesOf (okLanes c r) ∧ ((warpAfter wid w r).lane x.1).fpf = x.2 ∧ x.2 ≠ 0 := by
    rw [raisedFlags, List.mem_filterMap]
    constructor
    · rintro ⟨l, hl, hx⟩
      split at hx
      · cases hx
      · rename_i hne
        cases hx
        exact ⟨hl, rfl, hne⟩
    · rintro ⟨hl, hx, hne⟩
      exact ⟨x.1, hl, by rw [hx, if_neg hne]⟩
  rw [sameSet_iff, FlagsOk]
  simp only [List.mem_filter, bne_iff_ne, hraised]
  exact forall_congr' fun x => by rw [← and_assoc, and_congr_left_iff]

theorem nextOk_iff (r : Res) (p : RetirePacket) : nextOk p (nextOf r.flow) = true ↔ NextOk r p := by
  simp only [nextOk, NextOk, Bool.and_eq_true, Bool.or_eq_true, beq_iff_eq]
  refine and_congr_right fun h => ?_
  rw [h, or_iff_not_imp_left]

theorem placeOk_iff (c : Ctx) (r : Res) (p : RetirePacket) :
    placeOk p c c.words (if waits r then none else some (codeOf r.faults)) = true ↔ PlaceOk c r p := by
  have hcode : (if waits r then none else some (codeOf r.faults)).all (fun k => p.fclaim.toNat == k) = true ↔
      (¬ Waits r → p.fclaim.toNat = codeOf r.faults) := by
    rw [← waits_iff]
    cases waits r <;> simp
  simp only [placeOk, PlaceOk, Bool.and_eq_true, beq_iff_eq, hcode, and_assoc]

/-- The verdict on a packet, by its tests in their order (log entry 117). -/
theorem mismatchOf_eq {wid : Nat} (u : State) (i : Instr) {c : Ctx} (hwid : c.wid = wid) (w : Warp) (r : Res)
    (p : RetirePacket) : let dstOk := sameSet p.dst (u.dstClaims wid i (warpAfter wid w r) (okLanes c r))
    u.mismatchOf i c w p r.faults r =
      if u.operandBad i c w p then some .operand
      else if isCheckedLoad i && !waits r && !dstOk then some .value
      else if !placeOk p c c.words (if waits r then none else some (codeOf r.faults)) ||
          (isSpeculative i && !waits r && !(dstOk &&
            sameSet (p.fpf.filter (fun e => e.2 != 0)) (raisedFlags wid c w r) && nextOk p (nextOf r.flow)))
        then some .result
      else none := by
  subst hwid
  rfl

section
variable {u : State} {wid : Nat} {i : Instr} {c : Ctx} {w : Warp} {r : Res} {p : RetirePacket}

theorem badValue_iff : (isCheckedLoad i && !waits r && !sameSet p.dst (u.dstClaims wid i (warpAfter wid w r)
    (okLanes c r))) = true ↔ BadValue u wid i c w r p := by
  rw [BadValue, ValuesOk, ← sameSet_iff, ← waits_iff]
  simp [and_assoc]

theorem badResults_iff : (!placeOk p c c.words (if waits r then none else some (codeOf r.faults)) ||
    (isSpeculative i && !waits r && !(sameSet p.dst (u.dstClaims wid i (warpAfter wid w r) (okLanes c r)) &&
      sameSet (p.fpf.filter (fun e => e.2 != 0)) (raisedFlags wid c w r) && nextOk p (nextOf r.flow)))) = false ↔
    ResultsOk u wid i c w r p := by
  rw [ResultsOk, ValuesOk, ← sameSet_iff, ← flagsOk_iff, ← nextOk_iff, ← placeOk_iff, ← waits_iff,
    Bool.or_eq_false_iff, Bool.not_eq_false', Bool.and_eq_false_imp, Bool.not_eq_false']
  simp only [Bool.and_eq_true, Bool.not_eq_true', Bool.not_eq_true, and_imp, and_assoc]

theorem mismatchOf_none (hwid : c.wid = wid) (h1 : Claimed u i c w p) (h2 : ¬ BadValue u wid i c w r p)
    (h3 : ResultsOk u wid i c w r p) :
    u.mismatchOf i c w p r.faults r = none := by
  rw [mismatchOf_eq u i hwid, (operandBad_eq_false_iff ..).2 h1, badResults_iff.2 h3, if_neg Bool.false_ne_true,
    if_neg (mt badValue_iff.1 h2), if_neg Bool.false_ne_true]

theorem mismatchOf_operand (hwid : c.wid = wid) (h1 : ¬ Claimed u i c w p) :
    u.mismatchOf i c w p r.faults r = some .operand := by
  rw [mismatchOf_eq u i hwid, if_pos (Bool.of_not_eq_false (mt (operandBad_eq_false_iff ..).1 h1))]

theorem mismatchOf_value (hwid : c.wid = wid) (h1 : Claimed u i c w p) (h2 : BadValue u wid i c w r p) :
    u.mismatchOf i c w p r.faults r = some .value := by
  rw [mismatchOf_eq u i hwid, (operandBad_eq_false_iff ..).2 h1, if_neg Bool.false_ne_true, if_pos (badValue_iff.2 h2)]

theorem mismatchOf_result (hwid : c.wid = wid) (h1 : Claimed u i c w p) (h2 : ¬ BadValue u wid i c w r p)
    (h3 : ¬ ResultsOk u wid i c w r p) :
    u.mismatchOf i c w p r.faults r = some .result := by
  rw [mismatchOf_eq u i hwid, (operandBad_eq_false_iff ..).2 h1, if_neg Bool.false_ne_true,
    if_neg (mt badValue_iff.1 h2), if_pos (Bool.of_not_eq_false (mt badResults_iff.1 h3))]

end

end Verdict

/-- The counters of a mismatch at a core below level 5, and the partition's packets gone (01 R24, R31, R33). -/
def counted (core part lid : Nat) (stall : Bool) (up : Core → Core) (v : State) : State :=
  State.modLaunch lid (fun L => { L with mismatch := satInc L.mismatch })
    (State.modCore core (fun k => { up k with
      winMis := k.winMis + (if stall then 0 else 1),
      winLevel5 := k.winLevel5 + (if k.level = 5 then 1 else 0) })
    (State.modCore core (fun k => { k with out := k.out.filter (fun e => e.1 != part) }) v))

/-- The count of a class in %mismatch (01 R31). -/
def countUp : MisClass → Core → Core
  | .value => fun k => { k with mmValue := min 0xFFFF (k.mmValue + 1) }
  | .operand => fun k => { k with mmOperand := min 0xFFFF (k.mmOperand + 1) }
  | .result => fun k => { k with mmResult := min 0xFFFF (k.mmResult + 1) }

/-- A mismatch is counted, and the third of a window at level 5 fails the core (01 R35). -/
theorem mismatch_eq (core part lid : Nat) (cls : MisClass) (stall : Bool) (v : State) :
    State.mismatch core part lid cls stall v =
      if 3 ≤ ((counted core part lid stall (countUp cls) v).core core).winLevel5 then
        (counted core part lid stall (countUp cls) v).failCore core
      else counted core part lid stall (countUp cls) v := by
  cases cls <;> rfl

@[simp] theorem counted_warps (core part lid : Nat) (stall : Bool) (up : Core → Core) (v : State) :
    (counted core part lid stall up v).warps = v.warps := by
  rw [counted, State.modLaunch_warps, State.modCore_warps, State.modCore_warps]

@[simp] theorem counted_mem (core part lid : Nat) (stall : Bool) (up : Core → Core) (v : State) :
    (counted core part lid stall up v).mem = v.mem := by
  rw [counted, State.modLaunch_mem, State.modCore_mem, State.modCore_mem]

theorem counted_winLevel5 {core part lid : Nat} {stall : Bool} {up : Core → Core} {v : State}
    (hl : (v.core core).level ≠ 5) :
    ((counted core part lid stall up v).core core).winLevel5 = (v.core core).winLevel5 := by
  have hcore (s : State) (f : Launch → Launch) : (s.modLaunch lid f).core core = s.core core := by
    simp [State.core]
  rw [counted, hcore, State.modCore_core_self, State.modCore_core_self]
  simp only [if_neg hl, Nat.add_zero]

/-- Below level 5 a mismatch fails no core. -/
theorem mismatch_eq_counted {core part lid : Nat} {cls : MisClass} {stall : Bool} {v : State}
    (hl : (v.core core).level ≠ 5) (hw : (v.core core).winLevel5 < 3) :
    State.mismatch core part lid cls stall v = counted core part lid stall (countUp cls) v := by
  rw [mismatch_eq, counted_winLevel5 hl, if_neg (by omega)]

/-- A load whose check found nothing that stands, and any other instruction, commits with its own effect. -/
theorem commitBody_of_not_ran {i : Instr} {body : Ctx → State → Res} {c : Ctx} {w : Warp} {o : Outstanding} {u : State}
    (hran : isCheckedLoad i = true → ¬ (o.ran = true ∧ Claimed u i c w o.p)) :
    u.commitBody i body c w o = body := by
  refine if_neg fun hs => ?_
  simp only [State.stands, Bool.and_eq_true, Bool.not_eq_true'] at hs
  obtain ⟨⟨⟨⟨⟨⟨hload, ho⟩, hop⟩, -⟩, -⟩, -⟩, -⟩ := hs
  exact hran hload ⟨ho, (operandBad_eq_false_iff ..).1 hop⟩

section Commit
variable {core part idx q : Nat} {s : State} {o : Outstanding} {w : Warp} {c : Ctx} {i : Instr}
  {body : Ctx → State → Res} (h : Commits core part idx s o q w c i body)
include h

/-- COMMIT is the effect that commits, judged. -/
theorem Commits.exec_commit_judged : ∃ cls, exec (.commit core part idx []) s =
    .next (State.judge core part (s.lidOf o.wid) o.p.stall cls (applyRes i c []
      ((commitView core part idx q s).commitBody i body c w o c (commitView core part idx q s)))).finish :=
  ⟨_, congrArg (fun t => Host.Outcome.next (State.finish t)) (h.evCommit_eq.trans h.commitInstr_eq)⟩

/-- COMMIT of a packet whose instruction commits with its own effect. -/
theorem Commits.exec_commit (hran : isCheckedLoad i = true →
      ¬ (o.ran = true ∧ Claimed (commitView core part idx q s) i c w o.p)) :
    let u := commitView core part idx q s
    let r0 := effectNoFlags o.wid body c w u
    exec (.commit core part idx []) s = .next (State.judge core part (s.lidOf o.wid) o.p.stall
      (u.mismatchOf i c w o.p r0.faults r0) (applyRes i c [] (body c u))).finish := by
  change Host.Outcome.next (evCommit core part idx [] s).finish = _
  rw [h.evCommit_eq, h.commitInstr_eq]
  dsimp only
  rw [commitBody_of_not_ran hran]
  rfl

end Commit

section Found
variable {core part idx q : Nat} {s : State} {o : Outstanding} {w : Warp} {c : Ctx} {i : Instr}

/-- A warp with a load's finding in the registers of the lanes of a mask. -/
def putClaims (m : Mask) (ds : List Claim) (w : Warp) : Warp :=
  ds.foldl (fun w d => if m.getLsbD d.lane then w.wrV d.lane (d.key % 1024) d.val else w) w

theorem putClaims_cons (m : Mask) (d : Claim) (ds : List Claim) (w : Warp) : putClaims m (d :: ds) w =
    putClaims m ds (if m.getLsbD d.lane then w.wrV d.lane (d.key % 1024) d.val else w) := rfl

theorem putClaims_same (m : Mask) (ds : List Claim) (w : Warp) : LaneSame w (putClaims m ds w) := by
  induction ds generalizing w with
  | nil => exact LaneSame.refl w
  | cons d ds ih =>
    rw [putClaims_cons]
    refine LaneSame.trans ?_ (ih _)
    split
    · exact w.wrV_same _ _ _
    · exact LaneSame.refl w

/-- A register after claims of different registers have been put: its own claim, where its lane takes part. -/
theorem rdV_putClaims {m : Mask} {ds : List Claim} (hnd : (ds.map (fun x => (x.key, x.lane))).Nodup)
    (hreg : ∀ x ∈ ds, x.key < 120 ∧ x.lane < 32) {l : Nat} (hl : l < 32) (n : Nat) (w : Warp) :
    (putClaims m ds w).rdV l n = if m.getLsbD l then
      ((ds.find? (fun x => x.key == n && x.lane == l)).map Claim.val).getD (w.rdV l n) else w.rdV l n := by
  induction ds generalizing w with
  | nil => simp [putClaims]
  | cons d ds ih =>
    obtain ⟨hd, hnd⟩ := List.nodup_cons.1 hnd
    obtain ⟨hkey, hlane⟩ := hreg d (List.mem_cons_self ..)
    have hstep : (if m.getLsbD d.lane then w.wrV d.lane (d.key % 1024) d.val else w).rdV l n =
        if m.getLsbD l = true ∧ l = d.lane ∧ n = d.key then d.val else w.rdV l n := by
      rw [Nat.mod_eq_of_lt (by omega)]
      split
      · rename_i hm
        rw [w.rdV_wrV hlane hl]
        exact if_congr (and_iff_right_of_imp fun h => h.1 ▸ hm).symm rfl rfl
      · rename_i hm
        refine (if_neg ?_).symm
        rintro ⟨hl', rfl, -⟩
        exact hm hl'
    rw [putClaims_cons, ih hnd (fun x hx => hreg x (List.mem_cons_of_mem _ hx)), hstep, List.find?_cons]
    by_cases hm : m.getLsbD l = true
    · by_cases hd' : d.key = n ∧ d.lane = l
      · obtain ⟨rfl, rfl⟩ := hd'
        have hnone : ds.find? (fun x => x.key == d.key && x.lane == d.lane) = none := by
          refine List.find?_eq_none.2 fun x hx hxd => hd (List.mem_map.2 ⟨x, hx, ?_⟩)
          simpa using hxd
        simp [hm, hnone]
      · have hne : ¬ (l = d.lane ∧ n = d.key) := fun h => hd' ⟨h.2.symm, h.1.symm⟩
        have hf : (d.key == n && d.lane == l) = false := by simpa using hd'
        rw [if_pos hm, if_pos hm, if_neg (not_and_of_not_right _ hne), hf]
    · rw [if_neg hm, if_neg hm, if_neg (not_and_of_not_left _ hm)]

theorem rdV_modLanes (l n : Nat) (m : Mask) (f : Lane → Lane) (x : Warp) : (x.modLanes m f).rdV l n = x.rdV l n :=
  foldLanes_induct (fun y : Warp => y.rdV l n = x.rdV l n) rfl fun k _ y hy => (y.rdV_modLane k l n f).trans hy

@[simp] theorem judge_warps (core part lid : Nat) (stall : Bool) (cls : Option MisClass) (s : State) :
    (State.judge core part lid stall cls s).warps = s.warps := by
  cases cls with
  | none => rfl
  | some k =>
    rw [State.judge, mismatch_eq]
    split <;> simp

@[simp] theorem judge_mem (core part lid : Nat) (stall : Bool) (cls : Option MisClass) (s : State) :
    (State.judge core part lid stall cls s).mem = s.mem := by
  cases cls with
  | none => rfl
  | some k =>
    rw [State.judge, mismatch_eq]
    split <;> simp

/-- The effect of a load whose check has found its values. -/
def foundEffect (o : Outstanding) : Ctx → State → Res := fun c s =>
  { s := s.modWarp c.wid (putClaims c.mask o.dst), faults := o.faults.filter (fun e => c.mask.getLsbD e.1),
    flow := .seq }

theorem commitBody_of_stands_ld {ty : LdTy} {sc : Option Scope} {m : MemOp} {d : LSpec} {imm : BitVec 16} {u : State}
    {body : Ctx → State → Res} (h : u.stands (.ld false false ty sc m d imm) c w o = true) :
    u.commitBody (.ld false false ty sc m d imm) body c w o = foundEffect o := if_pos h

/-- A weak load whose finding stands commits the values found (01 R16 to R18). -/
theorem commit_found {ty : LdTy} {sc : Option Scope} {m : MemOp} {d : LSpec} {imm : BitVec 16}
    (h : Commits core part idx s o q w c (.ld false false ty sc m d imm) (bodyLd false false ty sc m d imm))
    (hgoing : Going s o.wid)
    (hstands : (commitView core part idx q s).stands (.ld false false ty sc m d imm) c w o = true)
    (hfaults : o.faults = []) (hnd : (o.dst.map (fun x => (x.key, x.lane))).Nodup)
    (hreg : ∀ x ∈ o.dst, x.key < 120 ∧ x.lane < 32) :
    ∃ t w', exec (.commit core part idx []) s = .next t ∧ t.mem = s.mem ∧ t.warp o.wid = some w' ∧
      (∀ l n, l < 32 → n < 120 → w'.rdV l n = if c.mask.getLsbD l then
        ((o.dst.find? (fun x => x.key == n && x.lane == l)).map Claim.val).getD (w.rdV l n)
        else w.rdV l n) ∧
      ∀ l, l < 32 → w'.lane l = if c.mask.getLsbD l then Lane.follow c (w.lane l) else w.lane l := by
  have hwid := h.ctx_wid
  have hissues : Issues (.ld false false ty sc m d imm) (commitView core part idx q s) c w :=
    ⟨h.ctx, hwid ▸ h.warp, h.first, h.legal, h.clean, fun L hL => hgoing L (hwid ▸ hL)⟩
  set u := commitView core part idx q s with hu
  set b := u.commitBody (.ld false false ty sc m d imm) (bodyLd false false ty sc m d imm) c w o with hb
  have heff : b c u = Res.ok (u.modWarp c.wid (putClaims c.mask o.dst)) := by
    rw [hb, commitBody_of_stands_ld hstands, foundEffect, hfaults]
    rfl
  have hwarp1 : (u.modWarp c.wid (putClaims c.mask o.dst)).warp c.wid = some (putClaims c.mask o.dst w) := by
    rw [State.modWarp_warp_self, hissues.warp, Option.map_some]
  obtain ⟨t, ps, bd, lr, ly, ht, hkept, hw'⟩ := issue_seq hissues heff (RestKept.modWarp ..) hwarp1
  rw [issue_eq hissues, Host.Outcome.next.injEq] at ht
  subst ht
  obtain ⟨cls, hexec⟩ := h.exec_commit_judged
  have hwarp : (State.judge core part (s.lidOf o.wid) o.p.stall cls
      (applyRes (.ld false false ty sc m d imm) c [] (b c u))).finish.warp o.wid =
      (applyRes (.ld false false ty sc m d imm) c [] (b c u)).finish.warp c.wid := by
    rw [State.finish_warp, State.finish_warp, State.warp, judge_warps, hwid, State.warp]
  refine ⟨_, _, hexec, ?_, hwarp.trans hw', fun l n hl _ => ?_, fun l hl => ?_⟩
  · rw [State.finish_mem, judge_mem]
    exact (congrArg State.mem hkept.rest).trans rfl
  · rw [← rdV_putClaims hnd hreg hl n w]
    exact rdV_modLanes l n c.mask (Lane.follow c) (putClaims c.mask o.dst w)
  · have hlanes := (putClaims_same c.mask o.dst w).lanesEq
    have hlane : (putClaims c.mask o.dst w).lane l = w.lane l := by rw [Warp.lane, hlanes, Warp.lane]
    rw [← hlane]
    refine (putClaims c.mask o.dst w).lane_modLanes c.mask (Lane.follow c) hl fun hm => ?_
    rw [hlanes]
    exact ctx_lanes hissues.ctx hissues.warp l hl hm

end Found

section Judged
variable {core part idx q : Nat} {s : State} {o : Outstanding} {w : Warp} {c : Ctx} {i : Instr}
  {body : Ctx → State → Res} (h : Commits core part idx s o q w c i body)
  (hran : isCheckedLoad i = true → ¬ (o.ran = true ∧ Claimed (commitView core part idx q s) i c w o.p))
include h hran

/-- A packet whose claims agree commits the effect of its instruction and nothing else (01 R14, R16). -/
theorem Commits.exec_commit_agreed (h1 : Claimed (commitView core part idx q s) i c w o.p)
    (h2 : ¬ BadValue (commitView core part idx q s) o.wid i c w
      (effectNoFlags o.wid body c w (commitView core part idx q s)) o.p)
    (h3 : ResultsOk (commitView core part idx q s) o.wid i c w
      (effectNoFlags o.wid body c w (commitView core part idx q s)) o.p) :
    exec (.commit core part idx []) s = exec i (commitView core part idx q s) := by
  have hjudged := h.exec_commit hran
  dsimp only at hjudged
  rw [mismatchOf_none h.ctx_wid h1 h2 h3] at hjudged
  exact hjudged.trans h.exec_eq.symm

/-- A packet with a claim that disagrees has the same effect, and the mismatch is counted (01 R24, R31). -/
theorem Commits.exec_commit_counted {cls : MisClass} {v : State}
    (hv : v = applyRes i c [] (body c (commitView core part idx q s)))
    (hl : (v.core core).level ≠ 5) (hw : (v.core core).winLevel5 < 3)
    (hcls : (commitView core part idx q s).mismatchOf i c w o.p
      (effectNoFlags o.wid body c w (commitView core part idx q s)).faults
      (effectNoFlags o.wid body c w (commitView core part idx q s)) = some cls) :
    exec (.commit core part idx []) s =
      .next (counted core part (s.lidOf o.wid) o.p.stall (countUp cls) v).finish := by
  have hjudged := h.exec_commit hran
  dsimp only at hjudged
  rw [hcls, ← hv] at hjudged
  exact hjudged.trans (congrArg (fun t => Host.Outcome.next (State.finish t)) (mismatch_eq_counted hl hw))

/-- What COMMIT comes to, by the class of the disagreement. -/
theorem Commits.exec_commit_cases (hlevel : (s.core core).level ≠ 5) (hwin : (s.core core).winLevel5 < 3) :
    let u := commitView core part idx q s
    let r := effectNoFlags o.wid body c w u
    let claimed := Claimed u i c w o.p
    let badValue := BadValue u o.wid i c w r o.p
    let results := ResultsOk u o.wid i c w r o.p
    let countedAs (cls : MisClass) (v : State) : Prop := exec (.commit core part idx []) s =
      .next (counted core part (s.lidOf o.wid) o.p.stall (countUp cls) v).finish
    ∃ v, exec i u = .next v.finish ∧
      ((v.core core).level = (s.core core).level → (v.core core).winLevel5 = (s.core core).winLevel5 →
        (¬ claimed → countedAs .operand v) ∧ (claimed → badValue → countedAs .value v) ∧
        (claimed → ¬ badValue → ¬ results → countedAs .result v)) := by
  have hwid := h.ctx_wid
  refine ⟨_, h.exec_eq, fun hl hw => ?_⟩
  rw [← hl] at hlevel
  rw [← hw] at hwin
  exact ⟨fun h1 => h.exec_commit_counted hran rfl hlevel hwin (mismatchOf_operand hwid h1),
    fun h1 h2 => h.exec_commit_counted hran rfl hlevel hwin (mismatchOf_value hwid h1 h2),
    fun h1 h2 h3 => h.exec_commit_counted hran rfl hlevel hwin (mismatchOf_result hwid h1 h2 h3)⟩

end Judged

end Sys2Proof.Machine.Packets
end

section
/-!
PROOFS. Retire packets: the check of a weak load, which moves leases and cached lines and nothing that a load sees
(01 R17 to R19, R22; 08 R183), and last the statement RetirePackets.
-/

namespace Sys2Proof.Machine.Packets

/-- The copy of a line among cached ones that may be read now (08 R183). -/
def validLine (s : State) (line : Nat) (cc : List CLine) : Option CLine :=
  cc.find? (fun x => x.line == line && s.leaseValid x)

/-- A line as the checker cache of a core gives it to a weak load: bytes and poisoned halves of the copy under a
valid lease, or what a fetch would bring (01 R17; 08 R183). -/
def lineView (s : State) (core line : Nat) : List Byte × Nat :=
  ((validLine s line (s.core core).cc).map (fun x => (x.data, x.bad))).getD
    (s.rdMem (128 * line) 128, s.lineBad line)

theorem validLine_put_self (s : State) (x : CLine) (cc : List CLine) :
    validLine s x.line (x :: cc.filter (fun y => y.line != x.line)) = if s.leaseValid x then some x else none := by
  have hrest : (cc.filter (fun y => y.line != x.line)).find? (fun y => y.line == x.line && s.leaseValid y) = none := by
    refine List.find?_eq_none.2 fun y hy => ?_
    have hne : y.line ≠ x.line := by simpa using (List.mem_filter.1 hy).2
    simp [hne]
  rw [validLine, List.find?_cons, hrest, beq_self_eq_true, Bool.true_and]
  cases s.leaseValid x <;> rfl

theorem validLine_put_of_ne (s : State) {x : CLine} {line : Nat} (h : line ≠ x.line) (cc : List CLine) :
    validLine s line (x :: cc.filter (fun y => y.line != x.line)) = validLine s line cc := by
  have hx : (x.line == line && s.leaseValid x) = false := by simp [h.symm]
  rw [validLine, validLine, List.find?_cons, hx, List.find?_filter]
  dsimp only
  congr 1
  funext y
  by_cases hy : y.line = line
  · simp [hy, h]
  · simp [hy]

/-- What the reads of a check move: free values, leases, shared copies, cached lines, predictors, and SOFT of the
core (01 R17, R36). No line looks different to its loads. -/
structure Peeked (core : Nat) (s u : State) : Prop where
  rest : { u with fresh := s.fresh, lines := s.lines, hostCopies := s.hostCopies, cores := s.cores,
                  warps := s.warps } = s
  warp : ∀ k, u.warp k = s.warp k
  cores : ∀ k, { u.core k with cc := (s.core k).cc, l1 := (s.core k).l1, pred := (s.core k).pred,
                               mmSoft := (s.core k).mmSoft } = s.core k
  soft : ∀ k, k ≠ core → (u.core k).mmSoft = (s.core k).mmSoft
  view : ∀ line, lineView u core line = lineView s core line

section Peek
variable {core : Nat} {s u v : State}

theorem Peeked.refl (core : Nat) (s : State) : Peeked core s s :=
  ⟨rfl, fun _ => rfl, fun _ => rfl, fun _ _ => rfl, fun _ => rfl⟩

theorem Peeked.trans (h : Peeked core s u) (h' : Peeked core u v) : Peeked core s v := by
  refine ⟨?_, fun k => (h'.warp k).trans (h.warp k), fun k => ?_, fun k hk => (h'.soft k hk).trans (h.soft k hk),
    fun l => (h'.view l).trans (h.view l)⟩
  · calc _ = { { v with fresh := u.fresh, lines := u.lines, hostCopies := u.hostCopies, cores := u.cores,
                        warps := u.warps } with
                 fresh := s.fresh, lines := s.lines, hostCopies := s.hostCopies, cores := s.cores,
                 warps := s.warps } := rfl
      _ = s := by rw [h'.rest, h.rest]
  · calc _ = { { v.core k with cc := (u.core k).cc, l1 := (u.core k).l1, pred := (u.core k).pred,
                               mmSoft := (u.core k).mmSoft } with
                 cc := (s.core k).cc, l1 := (s.core k).l1, pred := (s.core k).pred,
                 mmSoft := (s.core k).mmSoft } := rfl
      _ = s.core k := by rw [h'.cores, h.cores]

/-- The state as one that differs in those fields alone. -/
theorem Peeked.eq (h : Peeked core s u) :
    u = { s with fresh := u.fresh, lines := u.lines, hostCopies := u.hostCopies, cores := u.cores,
                 warps := u.warps } := by
  conv_rhs => rw [← h.rest]

/-- A change that leaves the cached lines alone. -/
theorem Peeked.of_cc 
    (hrest : { u with fresh := s.fresh, lines := s.lines, hostCopies := s.hostCopies, cores := s.cores,
                      warps := s.warps } = s) (hwarp : ∀ k, u.warp k = s.warp k)
    (hcores : ∀ k, { u.core k with pred := (s.core k).pred, mmSoft := (s.core k).mmSoft } = s.core k)
    (hsoft : ∀ k, k ≠ core → (u.core k).mmSoft = (s.core k).mmSoft) : Peeked core s u := by
  refine ⟨hrest, hwarp, fun k => ?_, hsoft, fun line => ?_⟩
  · conv_rhs => rw [← hcores k]
    rw [← hcores k]
  · have hcc := congrArg Core.cc (hcores core)
    have hu : u = { s with fresh := u.fresh, lines := u.lines, hostCopies := u.hostCopies, cores := u.cores,
                           warps := u.warps } := by conv_rhs => rw [← hrest]
    dsimp only at hcc
    rw [lineView, hcc, hu]
    rfl

theorem peeked_modCore (k : Nat) {f : Core → Core}
    (hf : ∀ x, { f x with pred := x.pred } = x) : Peeked core s (s.modCore k f) := by
  refine .of_cc rfl (fun _ => rfl) (fun j => ?_) fun j _ => ?_
  · by_cases hj : j = k
    · subst hj
      rw [State.modCore_core_self]
      exact congrArg (fun x : Core => { x with mmSoft := (s.core j).mmSoft }) (hf (s.core j))
    · rw [State.modCore_core_of_ne _ hj]
  · by_cases hj : j = k
    · subst hj
      have hsoft := congrArg Core.mmSoft (hf (s.core j))
      rwa [State.modCore_core_self]
    · rw [State.modCore_core_of_ne _ hj]

theorem peeked_lines (t : Tbl LineMeta) : Peeked core s { s with lines := t } :=
  .of_cc rfl (fun _ => rfl) (fun _ => rfl) fun _ _ => rfl

theorem peeked_hostCopies (ls : List Nat) : Peeked core s { s with hostCopies := ls } :=
  .of_cc rfl (fun _ => rfl) (fun _ => rfl) fun _ _ => rfl

theorem peeked_fresh (n : Nat) : Peeked core s { s with fresh := n } :=
  .of_cc rfl (fun _ => rfl) (fun _ => rfl) fun _ _ => rfl

theorem peeked_setWarp {wid : Nat} {w : Warp} (hw : s.warp wid = some w) :
    Peeked core s { s with warps := tset wid w s.warps } := by
  refine .of_cc rfl (fun k => ?_) (fun _ => rfl) fun _ _ => rfl
  by_cases hk : k = wid
  · subst hk
    exact (tget_tset_self k w s.warps).trans hw.symm
  · exact tget_tset_of_ne hk w s.warps

theorem peeked_countSoft (errs : Nat) : Peeked core s (countSoft core errs s) := by
  refine .of_cc rfl (fun _ => rfl) (fun k => ?_) fun k hk => by rw [countSoft, State.modCore_core_of_ne _ hk]
  by_cases hk : k = core
  · subst hk
    rw [countSoft_core_self]
  · rw [countSoft, State.modCore_core_of_ne _ hk]

theorem peeked_recall (line : Nat) : Peeked core s (s.recall line) := by
  unfold State.recall
  split
  · split
    · exact (peeked_lines _).trans (peeked_modCore _ fun _ => rfl)
    · exact .refl core s
  · exact .refl core s

theorem peeked_grantLease (line : Nat) : Peeked core s (s.grantLease line).2 :=
  (peeked_recall line).trans (peeked_lines _)

theorem peeked_fetchLine (line : Nat) : Peeked core s (s.fetchLine line).2 := peeked_grantLease line

theorem trainPred_cc (o line : Nat) : ((s.trainPred o line).core core).cc = (s.core core).cc := by
  by_cases h : core = o
  · subst h
    rw [State.trainPred, State.modCore_core_self]
  · rw [State.trainPred, State.modCore_core_of_ne _ h]

theorem recall_cc (line : Nat) : ((s.recall line).core core).cc = (s.core core).cc := by
  unfold State.recall
  split
  · split
    · exact trainPred_cc ..
    · rfl
  · rfl

theorem fetchLine_cc (line : Nat) : ((s.fetchLine line).2.core core).cc = (s.core core).cc := recall_cc line

/-- A line put in the checker cache where none was valid, as the home has it. -/
theorem peeked_putLine {x : CLine} (hnone : validLine s x.line (s.core core).cc = none)
    (hdata : x.data = s.rdMem (128 * x.line) 128) (hbad : x.bad = s.lineBad x.line) :
    Peeked core s (s.modCore core (fun k => { k with cc := x :: k.cc.filter (fun y => y.line != x.line) })) := by
  refine ⟨rfl, fun _ => rfl, fun k => ?_, fun k hk => by rw [State.modCore_core_of_ne _ hk], fun line => ?_⟩
  · by_cases hk : k = core
    · subst hk
      rw [State.modCore_core_self]
    · rw [State.modCore_core_of_ne _ hk]
  · rw [lineView, State.modCore_core_self, lineView]
    change ((validLine s line _).map _).getD (s.rdMem (128 * line) 128, s.lineBad line) = _
    by_cases hl : line = x.line
    · subst hl
      rw [validLine_put_self, hnone]
      split
      · exact congrArg₂ Prod.mk hdata hbad
      · rfl
    · rw [validLine_put_of_ne s hl]

/-- The line that the checker cache gives, and what fetching it moves. -/
theorem ccLine_spec (core line : Nat) (s : State) :
    ((s.ccLine core line).1.data, (s.ccLine core line).1.bad) = lineView s core line ∧
    Peeked core s (s.ccLine core line).2 := by
  unfold State.ccLine
  split
  · rename_i x hx
    have hx : validLine s line (s.core core).cc = some x := hx
    exact ⟨by rw [lineView, hx]; rfl, .refl core s⟩
  · rename_i hnone
    have hnone : validLine s line (s.core core).cc = none := hnone
    have hfetch : Peeked core s (s.fetchLine line).2 := peeked_fetchLine line
    have hnone' : validLine (s.fetchLine line).2 line ((s.fetchLine line).2.core core).cc = none := by
      rw [fetchLine_cc, hfetch.eq]
      exact hnone
    refine ⟨?_, hfetch.trans (peeked_putLine (x := (s.fetchLine line).1) hnone' rfl rfl)⟩
    rw [← hfetch.view, lineView, hnone']
    rfl

/-- A range of bytes read from the middle of another. -/
theorem rdMem_take_drop (s : State) {k n m : Nat} (a : Nat) (h : k + n ≤ m) :
    ((s.rdMem a m).drop k).take n = s.rdMem (a + k) n := by
  induction k generalizing a m with
  | zero =>
    induction n generalizing a m with
    | zero => rw [List.take_zero, State.rdMem]
    | succ n ih =>
      obtain ⟨m, rfl⟩ : ∃ m', m = m' + 1 := ⟨m - 1, by omega⟩
      have := ih (a + 1) (m := m) (by omega)
      simp only [List.drop_zero, Nat.add_zero] at this
      simp [State.rdMem, this]
  | succ k ih =>
    obtain ⟨m, rfl⟩ : ∃ m', m = m' + 1 := ⟨m - 1, by omega⟩
    rw [State.rdMem, List.drop_succ_cons, ih (a + 1) (by omega)]
    congr 1
    omega

theorem fwdByte_of_noStores {sq : List SqEntry} {wid : Nat} (h : ∀ e ∈ sq, e.wid ≠ wid) (lane loc : Nat) (b : Byte) :
    fwdByte sq wid lane loc b = b := by
  induction sq generalizing b with
  | nil => rfl
  | cons e r ih =>
    rw [fwdByte, List.foldl_cons, if_neg (h e (List.mem_cons_self ..))]
    exact ih (fun e he => h e (List.mem_cons_of_mem _ he)) b

theorem fwdBytes_of_noStores {sq : List SqEntry} {wid : Nat} (h : ∀ e ∈ sq, e.wid ≠ wid) (lane loc : Nat)
    (bs : List Byte) : fwdBytes sq wid lane loc bs = bs := by
  induction bs generalizing loc with
  | nil => rfl
  | cons b r ih => rw [fwdBytes, fwdByte_of_noStores h, ih]

theorem bitOf_lineBad (s : State) (loc : Nat) : bitOf (s.lineBad (loc / 128)) (loc % 128 / 64) = s.poisoned loc := by
  have hhalf : loc % 128 / 64 = 0 ∨ loc % 128 / 64 = 1 := by omega
  rw [State.lineBad]
  rcases hhalf with h | h
  · have hp : s.poisoned (128 * (loc / 128)) = s.poisoned loc := by
      rw [State.poisoned, State.poisoned, show 128 * (loc / 128) / 64 = loc / 64 by omega]
    rw [h, hp]
    cases s.poisoned loc <;> cases s.poisoned (128 * (loc / 128) + 64) <;> rfl
  · have hp : s.poisoned (128 * (loc / 128) + 64) = s.poisoned loc := by
      rw [State.poisoned, State.poisoned, show (128 * (loc / 128) + 64) / 64 = loc / 64 by omega]
    rw [h, hp]
    cases s.poisoned loc <;> cases s.poisoned (128 * (loc / 128)) <;> rfl

/-- A clean piece of a line that weak loads lease reads its bytes of the line, which is not poisoned there. -/
theorem clean_leased {c : Ctx} {p : Piece} {ph : Phys} (hplace : p.place = .glob ph) (hmt : ph.mt ≠ 1)
    (h : p.clean s c false) :
    bitOf (lineView s c.core (ph.loc / 128)).2 (ph.loc % 128 / 64) = false ∧
      ((lineView s c.core (ph.loc / 128)).1.drop (ph.loc % 128)).take p.n = p.bytes s c false := by
  have hmt' : (false || ph.mt == 1) = false := by simpa using hmt
  simp only [Piece.clean, hplace, hmt', Bool.false_eq_true, if_false] at h
  obtain ⟨hline, hbad⟩ := h
  simp only [Piece.bytes, hplace, hmt', Bool.false_eq_true, if_false]
  rw [lineView, validLine]
  cases hfind : (s.core c.core).cc.find? (fun x => x.line == ph.loc / 128 && s.leaseValid x) with
  | some x =>
    rw [hfind] at hbad
    exact ⟨hbad, rfl⟩
  | none =>
    rw [hfind] at hbad
    refine ⟨(bitOf_lineBad s ph.loc).trans hbad, (rdMem_take_drop s _ hline).trans ?_⟩
    rw [Nat.div_add_mod]

end Peek

section Reads
variable {c : Ctx} {s u : State}

theorem Peeked.sq {core : Nat} (h : Peeked core s u) (k : Nat) : (u.core k).sq = (s.core k).sq := by
  have := congrArg Core.sq (h.cores k)
  exact this

theorem Peeked.rdMem {core : Nat} (h : Peeked core s u) (loc n : Nat) : u.rdMem loc n = s.rdMem loc n := by
  refine rdMem_of_bytes fun a _ _ => ?_
  rw [h.eq]
  rfl

theorem Peeked.noStores (h : Peeked c.core s u) (hno : NoStores s c) : NoStores u c := by
  rw [NoStores, h.sq]
  exact hno

/-- A weak load of a clean piece of memory. -/
theorem weakLoad_clean (hu : Peeked c.core s u) (hno : NoStores s c) {p : Piece} {ph : Phys}
    (hplace : p.place = .glob ph) (hp : p.clean s c false) (l : Nat) :
    ∃ v, u.weakLoad c.core c.wid l ph p.n = (some (p.bytes s c false), v) ∧ Peeked c.core s v := by
  have hno := hu.noStores hno
  by_cases hmt : ph.mt = 1
  · have hpoison : u.poisonedR ph.loc p.n = false := by
      simp only [Piece.clean, hplace, hmt, beq_self_eq_true, Bool.or_true, if_true] at hp
      rw [hu.eq]
      exact hp.2
    have hbytes : p.bytes s c false = u.rdMem ph.loc p.n := by
      simp only [Piece.bytes, hplace, hmt, beq_self_eq_true, Bool.or_true, if_true]
      exact (hu.rdMem _ _).symm
    refine ⟨if isHost ph.loc && !u.hostCopies.contains (ph.loc / 128) then
        { u with hostCopies := u.hostCopies ++ [ph.loc / 128] } else u, ?_, ?_⟩
    · simp only [State.weakLoad, if_pos hmt, hpoison, Bool.false_and, Bool.false_eq_true, if_false,
        fwdBytes_of_noStores hno, hbytes]
    · split
      · exact hu.trans (peeked_hostCopies _)
      · exact hu
  · obtain ⟨hline, hcc⟩ := ccLine_spec c.core (ph.loc / 128) u
    obtain ⟨hbad, hbytes⟩ := clean_leased hplace hmt hp
    rw [← hu.view, ← hline] at hbad hbytes
    exact ⟨_, by simp only [State.weakLoad, if_neg hmt, hbad, Bool.false_and, Bool.false_eq_true, if_false,
      fwdBytes_of_noStores hno, hbytes], hu.trans hcc⟩

theorem Peeked.scratch {core : Nat} (h : Peeked core s u) (k : Nat) : (u.core k).scratch = (s.core k).scratch := by
  have := congrArg Core.scratch (h.cores k)
  exact this

/-- What a group's weak read of one piece comes to, as `readPieces` reads it. -/
theorem readPieces_cons (l : Nat) (p : Piece) (ps : List Piece) (u : State) :
    State.readPieces c l false (p :: ps) u =
      (let x : Option (List Byte) × State :=
        match p.place with
        | .glob ph => u.weakLoad c.core c.wid l ph p.n
        | pl =>
          (some (match pl.key with
            | some k => fwdBytes (u.core c.core).sq c.wid l k (u.rdScratch pl p.n)
            | none => u.rdScratch pl p.n), { u with fresh := u.fresh + 1 })
      match x.1 with
      | none => (.error (poisonFault p.va.toNat), x.2)
      | some bs =>
        match State.readPieces c l false ps x.2 with
        | (.error f, v) => (.error f, v)
        | (.ok q, v) => (.ok (bs ++ q), v)) := by
  rw [State.readPieces]
  cases p.place <;> rfl

/-- Weak reads of clean pieces give their bytes. -/
theorem readPieces_clean (hno : NoStores s c) (l : Nat) (ps : List Piece) (hclean : ∀ p ∈ ps, p.clean s c false)
    (hu : Peeked c.core s u) : ∃ v, State.readPieces c l false ps u =
      (.ok (ps.flatMap (fun p => p.bytes s c false)), v) ∧ Peeked c.core s v := by
  induction ps generalizing u with
  | nil => exact ⟨u, rfl, hu⟩
  | cons p ps ih =>
    have hp := hclean p (List.mem_cons_self ..)
    have hsq := hu.noStores hno
    have hpiece : ∃ v, Peeked c.core s v ∧ State.readPieces c l false (p :: ps) u =
        match State.readPieces c l false ps v with
        | (.error f, v) => (.error f, v)
        | (.ok q, v) => (.ok (p.bytes s c false ++ q), v) := by
      rw [readPieces_cons]
      cases hplace : p.place with
      | glob ph =>
        obtain ⟨v, hv, hpeek⟩ := weakLoad_clean hu hno hplace hp l
        exact ⟨v, hpeek, by dsimp only; rw [hv]⟩
      | scr k o =>
        refine ⟨_, hu.trans (peeked_fresh (u.fresh + 1)), ?_⟩
        have hb : p.bytes s c false = u.rdScratch (.scr k o) p.n := by
          rw [State.rdScratch, hu.scratch, Piece.bytes, hplace]
        simp only [Place.key, fwdBytes_of_noStores hsq, hb]
      | chip o =>
        refine ⟨_, hu.trans (peeked_fresh (u.fresh + 1)), ?_⟩
        have hb : p.bytes s c false = u.rdScratch (.chip o) p.n := by
          rw [State.rdScratch, Piece.bytes, hplace, hu.eq]
        simp only [Place.key, fwdBytes_of_noStores hsq, hb]
      | gone =>
        rw [Piece.clean, hplace] at hp
        exact hp.elim
    obtain ⟨v, hv, hread⟩ := hpiece
    obtain ⟨v', hrest, hv'⟩ := ih (fun p hp => hclean p (List.mem_cons_of_mem _ hp)) hv
    exact ⟨v', by rw [hread, hrest, List.flatMap_cons], hv'⟩

end Reads

section Reach
variable {core : Nat} {s u : State} (h : Peeked core s u)
include h

theorem Peeked.tlb (k : Nat) : (u.core k).tlb = (s.core k).tlb := by
  have := congrArg Core.tlb (h.cores k)
  exact this

theorem Peeked.walkCache : u.walkCache = s.walkCache := by
  rw [h.eq]

theorem Peeked.tentry (die pa : Nat) : u.tentry die pa = s.tentry die pa := by
  simp only [State.tentry, h.rdMem, h.walkCache]

theorem Peeked.tpoisoned (die pa : Nat) : u.tpoisoned die pa = s.tpoisoned die pa := by
  rw [h.eq]
  rfl

theorem Peeked.reg64 (off : Nat) : u.reg64 off = s.reg64 off := by
  rw [h.eq]
  rfl

theorem Peeked.dieLeaf (die asid va : Nat) : u.dieLeaf die asid va = s.dieLeaf die asid va := by
  have hwalk : u.walkVia die asid va = s.walkVia die asid va := by
    simp only [State.walkVia, h.tentry, h.tpoisoned, h.reg64]
  have htlb : u.dieTlb = s.dieTlb := by rw [h.eq]
  simp only [State.dieLeaf, State.walk, hwalk, htlb]

theorem Peeked.checkLeaf (e shift va : Nat) (a : Acc) (priv : Bool) :
    u.checkLeaf e shift va a priv = s.checkLeaf e shift va a priv := by
  rw [h.eq]
  rfl

theorem Peeked.translate (k asid va : Nat) (a : Acc) (priv : Bool) :
    u.translate k asid va a priv = s.translate k asid va a priv := by
  rw [State.translate, State.leafOf, h.tlb, h.dieLeaf, State.translate, State.leafOf]
  simp only [h.checkLeaf]

theorem Peeked.globPieces (k asid : Nat) (priv : Bool) (a : Acc) (fuel : Nat) (va : DWord) (n : Nat) :
    u.globPieces k asid priv a fuel va n = s.globPieces k asid priv a fuel va n := by
  induction fuel generalizing va n with
  | zero => rfl
  | succ fuel ih => simp only [State.globPieces, h.translate, ih]

theorem Peeked.scratchPlace (blk sp o n : Nat) : u.scratchPlace blk sp o n = s.scratchPlace blk sp o n := by
  rw [h.eq]
  rfl

theorem Peeked.asidOf (wid : Nat) : u.asidOf wid = s.asidOf wid := by
  rw [h.eq]
  rfl

theorem Peeked.launchOf (wid : Nat) : u.launchOf wid = s.launchOf wid := by
  rw [h.eq]
  rfl

theorem Peeked.sliceAddr (wid l o : Nat) : u.sliceAddr wid l o = s.sliceAddr wid l o := by
  rw [h.eq]
  rfl

theorem Peeked.slicePieces (c : Ctx) (l : Nat) (a : Acc) (o n : Nat) :
    u.slicePieces c l a o n = s.slicePieces c l a o n := by
  simp only [State.slicePieces, h.globPieces, h.asidOf, h.sliceAddr]

/-- What a lane reaches is the same. -/
theorem Peeked.reach (c : Ctx) (l : Nat) (sp : Space) (addr : DWord) (n : Nat) (a : Acc) :
    u.reach c l sp addr n a = s.reach c l sp addr n a := by
  simp only [State.reach, h.scratchPlace, h.globPieces, h.asidOf, h.launchOf, h.slicePieces]

theorem Peeked.special (wid l code : Nat) : u.special wid l code = s.special wid l code := by
  rw [State.special, h.warp, h.eq]
  rfl

theorem Peeked.rdUCode (wid l code : Nat) : u.rdUCode wid l code = s.rdUCode wid l code := by
  rw [State.rdUCode, h.warp, h.special, State.rdUCode]

theorem Peeked.addr (c : Ctx) (w : Warp) (l : Nat) (m : MemOp) (imm : DWord) :
    MemOp.addr u c w l m imm = MemOp.addr s c w l m imm := by
  simp only [MemOp.addr, State.rdU64, State.rdU, h.rdUCode]

end Reach

section Check
variable {core part idx : Nat} {s u : State} {o : Outstanding} {w : Warp}

/-- The keys of a load's destination outside graft mode. -/
theorem keysOf_dest (hg : w.graft = none) (l : Nat) (n : Fin 112) {k : Nat} : keysOf w l (useL k (.v n)) =
    (List.range k).map (fun j => n.val + j) := by
  have hn : n.val < 120 := by omega
  have hv : ∀ j, w.vcode l j = j := fun j => by rw [Warp.vcode, hg]
  simp [keysOf, useL, Use.keys, LSpec.code, hn, hv]

theorem ldWords_length (ty : LdTy) (bs : List Byte) : (ldWords ty bs).length = ldRegs ty := by
  cases ty <;> rfl

/-- The claims of a load's words: consecutive registers from its destination. -/
theorem loadClaims_eq (hg : w.graft = none) (wid l : Nat) (ty : LdTy) (sc : Option Scope) (m : MemOp) (n : Fin 112)
    (imm : BitVec 16) (bs : List Byte) :
    s.loadClaims wid (.ld false false ty sc m (.v n) imm) w l (ldWords ty bs) =
      (ldWords ty bs).zipIdx.map (fun x => { key := n.val + x.2, lane := l, val := x.1 }) := by
  change (keysOf w l (useL (ldRegs ty) (.v n))).zipIdx.map _ = _
  rw [keysOf_dest hg, ← ldWords_length ty bs]
  generalize ldWords ty bs = ws
  refine List.ext_getElem (by simp) fun j h1 h2 => ?_
  have hj : j < ws.length := by simpa using h2
  simp [hj]

/-- One lane's weak read, after those of lanes before it. -/
def readLane (c : Ctx) (ty : LdTy) (t : List (Nat × Except FaultInfo (List Word)) × State)
    (r : Nat × Except FaultInfo (List Piece)) : List (Nat × Except FaultInfo (List Word)) × State :=
  let x : Except FaultInfo (List Byte) × State :=
    match r.2 with
    | .ok ps => t.2.readPieces c r.1 false ps
    | .error f => (.error f, t.2)
  (t.1 ++ [(r.1, x.1.map (ldWords ty))], x.2)

theorem loadReads_ld (c : Ctx) (ty : LdTy) (sc : Option Scope) (m : MemOp) (d : LSpec) (imm : BitVec 16)
    (rs : Reached) :
    State.loadReads c w (.ld false false ty sc m d imm) rs s = rs.foldl (readLane c ty) ([], s) := rfl

/-- The reads of lanes whose pieces are clean. -/
theorem foldl_readLane {c : Ctx} (hno : NoStores s c) (ty : LdTy) (ps : Nat → List Piece) (ls : List Nat)
    (hclean : ∀ l ∈ ls, ∀ p ∈ ps l, p.clean s c false) (acc : List (Nat × Except FaultInfo (List Word)))
    (hu : Peeked c.core s u) : ∃ v, Peeked c.core s v ∧
      (ls.map (fun l => (l, Except.ok (ps l)))).foldl (readLane c ty) (acc, u) =
        (acc ++ ls.map (fun l => (l, Except.ok (ldWords ty ((ps l).flatMap (fun p => p.bytes s c false))))), v) := by
  induction ls generalizing acc u with
  | nil => exact ⟨u, hu, by simp⟩
  | cons l ls ih =>
    obtain ⟨v, hv, hpeek⟩ := readPieces_clean hno l (ps l) (hclean l (List.mem_cons_self ..)) hu
    have hlane : readLane c ty (acc, u) (l, Except.ok (ps l)) =
        (acc ++ [(l, Except.ok (ldWords ty ((ps l).flatMap (fun p => p.bytes s c false))))], v) := by
      simp only [readLane, hv]
      rfl
    obtain ⟨v', hv', hfold⟩ := ih (fun l hl => hclean l (List.mem_cons_of_mem _ hl)) _ hpeek
    refine ⟨v', hv', ?_⟩
    rw [List.map_cons, List.foldl_cons, hlane, hfold, List.map_cons, List.append_assoc]
    rfl

/-- The packet of a load with what its check has found: each lane's words and address. -/
def foundLoad (o : Outstanding) (i : Instr) (w : Warp) (s : State) (ls : List Nat) (words : Nat → List Word)
    (addr : Nat → DWord) (rs : Reached) : Outstanding :=
  { o with checked := true, ran := true, faults := [], srec := none, reads := touches (reachOk rs),
           addrs := ls.map (fun l => (l, addr l)),
           dst := ls.flatMap (fun l => s.loadClaims o.wid i w l (words l)) }

/-- The state in which a check reads: the packet's claims stand for the warp's registers. -/
def claimView (wid : Nat) (w : Warp) (u : State) : State := { u with warps := tset wid w u.warps }

/-- A check whose lanes all read words. -/
theorem checkLoad_of_reads {i : Instr} {v : State} {ls : List Nat} {ps : Nat → List Piece} {words : Nat → List Word}
    {addr : Nat → DWord} (hclaims : applyClaims o.p w = w) (hsrec : (claimView o.wid w u).streamOf o.wid i = none)
    (hpieces : (claimView o.wid w u).loadPieces (packetCtx core part o w) w i = ls.map (fun l => (l, .ok (ps l))))
    (haddrs : (claimView o.wid w u).addrsOf (packetCtx core part o w) w i = ls.map (fun l => (l, addr l)))
    (hreads : State.loadReads (packetCtx core part o w) w i (ls.map (fun l => (l, .ok (ps l)))) (claimView o.wid w u) =
      (ls.map (fun l => (l, .ok (words l))), v)) :
    u.checkLoad core part o i w = some (foundLoad o i w (claimView o.wid w u) ls words addr
      (ls.map (fun l => (l, .ok (ps l)))), { v with warps := u.warps }) := by
  have hheld : anyHeld (ls.map (fun l => (l, Except.ok (ps l)))) = false := by simp [anyHeld]
  have hview : ({ u with warps := tset o.wid w u.warps } : State) = claimView o.wid w u := rfl
  simp only [State.checkLoad, hclaims, hview, hpieces, hreads, haddrs, hheld, hsrec, foundLoad, List.filterMap_map,
    List.flatMap_map]
  simp

/-- The check of a weak load whose claimed operands are the architectural ones and whose bytes are clean. -/
theorem checkLoad_clean {ty : LdTy} {sc : Option Scope} {m : MemOp} {d : LSpec} {imm : BitVec 16} {c : Ctx}
    (hc : c = packetCtx core part o w)
    (hu : Peeked core s u) (hw : s.warp o.wid = some w) (hclaims : applyClaims o.p w = w)
    {ps : Nat → List Piece} (hno : NoStores s c)
    (hreach : ∀ l ∈ lanesOf o.p.mask,
      s.reach c l m.space (MemOp.addr s c w l m (imm.signExtend 64)) (ldBytes ty) .read = .ok (ps l) ∧
      ∀ p ∈ ps l, p.clean s c false) :
    ∃ v, Peeked core s v ∧ u.checkLoad core part o (.ld false false ty sc m d imm) w =
      some (foundLoad o (.ld false false ty sc m d imm) w (claimView o.wid w u) (lanesOf o.p.mask)
        (fun l => ldWords ty ((ps l).flatMap (fun p => p.bytes s c false)))
        (fun l => MemOp.addr s c w l m (imm.signExtend 64)) ((lanesOf o.p.mask).map (fun l => (l, .ok (ps l)))),
        { v with warps := u.warps }) := by
  subst hc
  have hpeek : Peeked core s (claimView o.wid w u) := hu.trans (peeked_setWarp ((hu.warp o.wid).trans hw))
  have hpieces : memReach (claimView o.wid w u) (packetCtx core part o w) m (imm.signExtend 64) (ldBytes ty) .read =
      (lanesOf o.p.mask).map (fun l => (l, Except.ok (ps l))) := by
    have hwarp : (claimView o.wid w u).warp (packetCtx core part o w).wid = some w := (hpeek.warp o.wid).trans hw
    rw [memReach, hwarp]
    refine List.map_congr_left fun l hl => ?_
    rw [hpeek.addr, hpeek.reach, (hreach l hl).1]
  obtain ⟨v, hv, hfold⟩ := foldl_readLane hno ty ps (lanesOf o.p.mask) (fun l hl => (hreach l hl).2) [] hpeek
  exact ⟨v, hv, checkLoad_of_reads hclaims rfl hpieces (List.map_congr_left fun l _ => by rw [hpeek.addr]) hfold⟩

/-- The packets of one partition. -/
def ofPart (part : Nat) (out : List (Nat × Outstanding)) : List Outstanding :=
  (out.filter (fun e => e.1 == part)).map Prod.snd

theorem ofPart_setOut {o' : Outstanding} {out : List (Nat × Outstanding)} (h : (ofPart part out)[idx]? = some o) :
    (ofPart part (setOut part o' idx out))[idx]? = some o' := by
  induction out generalizing idx with
  | nil => cases h
  | cons e r ih =>
    by_cases he : e.1 = part
    · have hcons : ofPart part (e :: r) = e.2 :: ofPart part r := by simp [ofPart, he]
      rw [hcons] at h
      cases idx with
      | zero => simp [setOut, he, ofPart]
      | succ idx =>
        have hrec := ih (idx := idx) h
        rw [setOut, if_pos he, if_neg (by omega)]
        simpa [ofPart, he] using hrec
    · have hcons (x : List (Nat × Outstanding)) : ofPart part (e :: x) = ofPart part x := by simp [ofPart, he]
      rw [hcons] at h
      rw [setOut, if_neg he, hcons]
      exact ih h

theorem ofPart_map {f : Outstanding → Outstanding} (out : List (Nat × Outstanding)) :
    ofPart part (out.map (fun e => (e.1, f e.2))) = (ofPart part out).map f := by
  simp only [ofPart, List.filter_map, List.map_map]
  rfl

/-- The packets of a core with a finding put, and later loads that it meets to be checked again. -/
def withFinding (core part idx : Nat) (o' : Outstanding) (v : State) : State :=
  (v.modCore core (fun k => { k with out := setOut part o' idx k.out })).recheckMeet core o'.wid (some o'.p.seq)
    o'.reads

theorem withFinding_core (core part idx : Nat) (o' : Outstanding) (v : State) (k : Nat) :
    { (withFinding core part idx o' v).core k with out := (v.core k).out } = v.core k := by
  by_cases hk : k = core
  · subst hk
    rw [withFinding, State.recheckMeet, State.modCore_core_self, State.modCore_core_self]
  · rw [withFinding, State.recheckMeet, State.modCore_core_of_ne _ hk, State.modCore_core_of_ne _ hk]

/-- A packet after a finding of `o'`: a later load of the warp that reads its bytes is to be checked again. -/
def recheckOne (o' o : Outstanding) : Outstanding :=
  if o.wid = o'.wid ∧ (o.p.seq != o'.p.seq && decide ((o.p.seq - o'.p.seq).toNat < 128)) ∧
      readsMeet o'.reads o.reads then o.uncheck
  else o

theorem recheckOne_self (o : Outstanding) : recheckOne o o = o := if_neg fun h => by simp at h

/-- The finding itself stands. -/
theorem withFinding_partOut {v : State} {o' : Outstanding} (h : (v.partOut core part)[idx]? = some o) :
    ((withFinding core part idx o' v).partOut core part)[idx]? = some o' := by
  have hput := ofPart_setOut (o' := o') (out := (v.core core).out) h
  change (ofPart part ((withFinding core part idx o' v).core core).out)[idx]? = _
  rw [withFinding, State.recheckMeet, State.modCore_core_self, State.modCore_core_self]
  have hmap : (fun e : Nat × Outstanding => if e.2.wid = o'.wid ∧
        (some o'.p.seq).all (fun n => e.2.p.seq != n && decide ((e.2.p.seq - n).toNat < 128)) ∧
        readsMeet o'.reads e.2.reads then (e.1, e.2.uncheck) else e) = fun e => (e.1, recheckOne o' e.2) := by
    funext e
    simp only [recheckOne, Option.all_some, apply_ite (Prod.mk e.1)]
  dsimp only
  rw [hmap, ofPart_map, List.getElem?_map, hput, Option.map_some, recheckOne_self]

/-- The check of a load with a finding. -/
theorem checkOne_load {i : Instr} {o' : Outstanding} {v : State} (hw : s.warp o.wid = some w)
    (hi : packetInstr o.p = some i) (hload : isCheckedLoad i = true)
    (hcheck : s.checkLoad core part o i w = some (o', v)) (hwid : o'.wid = o.wid) (hp : o'.p = o.p) :
    State.checkOne core part idx o s = withFinding core part idx o' v := by
  simp only [State.checkOne, hw, hi, hload, hcheck, if_true, withFinding, hp, hwid]

/-- A finding of lanes' consecutive claims holds those of each lane. -/
theorem filter_flatMap_lane {ls : List Nat} (hnd : ls.Nodup) {l : Nat} (hl : l ∈ ls) {f : Nat → List Claim}
    (hf : ∀ l, ∀ x ∈ f l, x.lane = l) : (ls.flatMap f).filter (fun x => x.lane == l) = f l := by
  induction ls with
  | nil => cases hl
  | cons a r ih =>
    obtain ⟨ha, hnd⟩ := List.nodup_cons.1 hnd
    have hself (k : Nat) (hk : k = l) : (f k).filter (fun x => x.lane == l) = f k :=
      List.filter_eq_self.2 fun x hx => by simp [hf k x hx, hk]
    have hother (k : Nat) (hk : k ≠ l) : (f k).filter (fun x => x.lane == l) = [] :=
      List.filter_eq_nil_iff.2 fun x hx => by simp [hf k x hx, hk]
    rw [List.flatMap_cons, List.filter_append]
    by_cases hal : a = l
    · subst hal
      have hrest : (r.flatMap f).filter (fun x => x.lane == a) = [] := by
        refine List.filter_eq_nil_iff.2 fun x hx => ?_
        obtain ⟨k, hk, hx⟩ := List.mem_flatMap.1 hx
        have : k ≠ a := fun h => ha (h ▸ hk)
        simp [hf k x hx, this]
      rw [hself a rfl, hrest, List.append_nil]
    · rw [hother a hal, List.nil_append]
      exact ih hnd (List.mem_of_ne_of_mem (Ne.symm hal) hl)

theorem find?_lane {ls : List Nat} {l : Nat} (hl : l ∈ ls) (f : Nat → DWord) :
    (ls.map (fun l => (l, f l))).find? (fun x => x.1 == l) = some (l, f l) := by
  induction ls with
  | nil => cases hl
  | cons a r ih =>
    by_cases hal : a = l
    · simp [hal]
    · rw [List.map_cons, List.find?_cons_of_neg (by simpa using hal)]
      exact ih (List.mem_of_ne_of_mem (Ne.symm hal) hl)

/-- What a check leaves beside the core's packets is what its reads have moved. -/
theorem withFinding_loaded {v : State} {o' : Outstanding} (hv : Peeked core s v) :
    ∃ s1, Loaded s s1 ∧
      { (withFinding core part idx o' { v with warps := s.warps }).finish with
          turn := s.turn, tick := s.tick, fresh := s.fresh, gtime := s.gtime, cores := s.cores, warps := s.warps } =
        { s1 with fresh := s.fresh, cores := s.cores, warps := s.warps } ∧
      ∀ k, { (withFinding core part idx o' { v with warps := s.warps }).core k with
          out := (s.core k).out, mmSoft := (s.core k).mmSoft } =
        { s1.core k with out := (s.core k).out, mmSoft := (s.core k).mmSoft } := by
  set s1 : State := ({ v with warps := s.warps } : State).modCore core (fun k =>
    { k with out := (s.core core).out, mmSoft := (s.core core).mmSoft }) with hs1
  have hout (k : Nat) : (v.core k).out = (s.core k).out := by
    have := congrArg Core.out (hv.cores k)
    exact this
  have hcore (k : Nat) : s1.core k = { v.core k with mmSoft := (s.core k).mmSoft } := by
    by_cases hk : k = core
    · subst hk
      rw [hs1, State.modCore_core_self, ← hout]
      rfl
    · rw [hs1, State.modCore_core_of_ne _ hk, ← hv.soft k hk]
      rfl
  refine ⟨s1, ⟨hv.rest, fun k => ⟨?_, ?_⟩⟩, ?_, fun k => ?_⟩
  · rw [hcore, ← hout]
    exact hv.cores k
  · rw [hcore, ← hout]
  · rw [hs1, hv.eq]
    rfl
  · rw [hcore]
    exact congrArg (fun x : Core => { x with out := (s.core k).out, mmSoft := (s.core k).mmSoft })
      (withFinding_core core part idx o' { v with warps := s.warps } k)

/-- CHECK of a weak load whose claimed operands are the architectural ones (01 R12, R17). -/
theorem check_weak_load {ty : LdTy} {sc : Option Scope} {m : MemOp} {n : Fin 112} {imm : BitVec 16}
    {ps : Nat → List Piece} {c : Ctx} (hc : c = packetCtx core part o w)
    (ho : (s.partOut core part)[idx]? = some o) (hrun : s.coreHalted core = false)
    (hon : s.blockOff (blkOf o.wid) = false)
    (hset : ∀ q b, s.seqOf core part o.wid = some (q, b) → b.run.isSome = true)
    (hw : s.warp o.wid = some w) (hclaims : applyClaims o.p w = w) (hg : w.graft = none)
    (hi : decode o.p.words = .ok (.ld false false ty sc m (.v n) imm)) (hno : NoStores s c)
    (hreach : ∀ l, l < 32 → o.p.mask.getLsbD l = true →
      s.reach c l m.space (MemOp.addr s c w l m (imm.signExtend 64)) (ldBytes ty) .read = .ok (ps l) ∧
      ∀ p ∈ ps l, p.clean s c false) :
    ∃ t o' s1, exec (.check core part idx 0) s = .next t ∧ (t.partOut core part)[idx]? = some o' ∧
      o' = { o with checked := true, ran := true, dst := o'.dst, faults := [], addrs := o'.addrs,
                    reads := o'.reads, srec := none } ∧
      (∀ l, l < 32 → o.p.mask.getLsbD l = true →
        o'.addrs.find? (fun x => x.1 == l) = some (l, MemOp.addr s c w l m (imm.signExtend 64)) ∧
        (o'.dst.filter (fun x => x.lane == l)).map (fun x => (x.key, x.val)) =
          (ldWords ty ((ps l).flatMap (fun p => p.bytes s c false))).zipIdx.map (fun x => (n.val + x.2, x.1))) ∧
      Loaded s s1 ∧ { t with turn := s.turn, tick := s.tick, fresh := s.fresh, gtime := s.gtime,
                             cores := s.cores, warps := s.warps } =
        { s1 with fresh := s.fresh, cores := s.cores, warps := s.warps } ∧
      (∀ k, t.warp k = s.warp k) ∧
      (∀ k, { t.core k with out := (s.core k).out, mmSoft := (s.core k).mmSoft } =
        { s1.core k with out := (s.core k).out, mmSoft := (s.core k).mmSoft }) := by
  obtain ⟨v, hv, hcheck⟩ := checkLoad_clean (ty := ty) (sc := sc) (m := m) (d := .v n) (imm := imm) hc
    (peeked_countSoft (s := s) (core := core) 0) hw hclaims hno
    fun l hl => hreach l (mem_lanesOf.1 hl).1 (mem_lanesOf.1 hl).2
  set i : Instr := .ld false false ty sc m (.v n) imm with hi'
  set o' := foundLoad o i w (claimView o.wid w (countSoft core 0 s)) (lanesOf o.p.mask)
    (fun l => ldWords ty ((ps l).flatMap (fun p => p.bytes s c false)))
    (fun l => MemOp.addr s c w l m (imm.signExtend 64)) ((lanesOf o.p.mask).map (fun l => (l, .ok (ps l)))) with ho'
  have hinstr : packetInstr o.p = some i := by rw [packetInstr, hi]; rfl
  have hexec : exec (.check core part idx 0) s =
      .next (withFinding core part idx o' { v with warps := s.warps }).finish :=
    congrArg (fun t => Host.Outcome.next (State.finish t)) ((check_of_few_errors ho (by omega) hrun hon hset).trans
      (checkOne_load hw hinstr rfl hcheck rfl rfl))
  have hpart : (({ v with warps := s.warps } : State).partOut core part)[idx]? = some o := by
    have hout := congrArg Core.out (hv.cores core)
    change (ofPart part (v.core core).out)[idx]? = some o
    exact hout ▸ ho
  obtain ⟨s1, hloaded, hrest, hcores⟩ := withFinding_loaded (part := part) (idx := idx) (o' := o') hv
  refine ⟨_, o', s1, hexec, withFinding_partOut hpart, rfl, fun l hl hm => ?_, hloaded, hrest, fun _ => rfl, hcores⟩
  have hlane : l ∈ lanesOf o.p.mask := mem_lanesOf.2 ⟨hl, hm⟩
  refine ⟨find?_lane hlane _, ?_⟩
  simp only [ho', foundLoad, hi', loadClaims_eq hg]
  rw [filter_flatMap_lane (lanesOf_nodup _) hlane fun k x hx => by
    obtain ⟨e, -, rfl⟩ := List.mem_map.1 hx
    rfl, List.map_map]
  rfl

end Check

/-- Settles O37: a packet is sent where `Sendable` says, a check counts its errors and puts what it finds, and a
commit is the effect of the instruction, judged by what its claims come to. -/
theorem retirePackets : Obligations.RetirePackets := by
  refine ⟨fun core part p s hpart hrun => ⟨fun hnone => ?_, fun wid w hp hw hon => ⟨fun hs => ?_, fun hs => ?_⟩⟩,
    fun core part idx errs s o ho herr hrun hon hset hload => ?_,
    fun core part idx s o w ty sc m n imm ps ho hrun hon hset hw hclaims hg hi => ?_,
    fun core part idx errs s o ho herr hf => check_three_errors ho herr hf,
    fun core part idx s o q b r w c i body ho hch hold hrun hon hq hb hw hbad hkeys hctx htag hfound hbody hlegal
      hran => ?_,
    fun core part idx s o q b r w c ty sc m d imm ho hch hold hrun hon hq hb hw hbad hgraft hkeys hgoing hctx htag
      hfound hlegal hstands hfaults hnd hreg => ?_⟩
  · exact congrArg (fun t => Host.Outcome.next (State.finish t)) (retirePacket_unknown hnone)
  · exact congrArg (fun t => Host.Outcome.next (State.finish t)) (retirePacket_sent hpart hrun hw hon hp hs)
  · exact congrArg (fun t => Host.Outcome.next (State.finish t)) (retirePacket_not_sent hpart hrun hw hon hp hs)
  · exact congrArg (fun t => Host.Outcome.next (State.finish t))
      ((check_of_few_errors ho herr hrun hon hset).trans (checkOne_not_load hload))
  · intro c size _ hno hreach
    have hsize : size = ldBytes ty := by cases ty <;> rfl
    rw [hsize] at hreach
    exact check_weak_load rfl ho hrun hon hset hw hclaims hg hi hno hreach
  · have h : Commits core part idx s o q w c i body :=
      ⟨ho, hch, hold, hrun, hon, ⟨b, r, hq, hb⟩, hw, hbad, hkeys, hctx, htag, hfound, hbody, hlegal⟩
    exact ⟨h.exec_commit_agreed hran, h.exec_commit_cases hran⟩
  · have h : Commits core part idx s o q w c (.ld false false ty sc m d imm) (bodyLd false false ty sc m d imm) :=
      ⟨ho, hch, hold, hrun, hon, ⟨b, r, hq, hb⟩, hw, hbad, hkeys, hctx, htag, hfound, rfl, hlegal⟩
    exact commit_found h hgoing hstands hfaults hnd hreg

end Sys2Proof.Machine.Packets
end

section
/-!
PROOFS. The packets of a queue: what a packet that may act does, what the completion of a packet changes, and what
the marks of ready launches leave alone (03 R62, R65, R67, R69).
-/

namespace Sys2Proof.Machine.WorkQueues

section Registers
variable (s : State)

/-- A write of one word of BAR 2 leaves the words at other aligned offsets alone. -/
theorem setReg_reg_of_offset_ne {o off : Nat} {v : Word} (ho : o % 4 = 0) (hoff : off % 4 = 0) (h : o ≠ off) :
    (s.setReg off v).reg o = s.reg o :=
  s.setReg_reg_of_ne (by omega)

@[simp] theorem setReg_reg_self (off : Nat) (v : Word) : (s.setReg off v).reg off = v := by
  rw [State.setReg_reg, if_pos rfl]

@[simp] theorem setReg_queue (off : Nat) (v : Word) (k : Nat) : (s.setReg off v).queue k = s.queue k := rfl

theorem setRegF_eq_setReg (off lo w v : Nat) :
    s.setRegF off lo w v = s.setReg off (BitVec.ofNat 32 (putBits (s.reg off).toNat lo w v)) := rfl

theorem qFail_four (q : Nat) : s.qFail q 4 = s.setReg (qOff q + 0x1C) (s.qErr q ||| 0x10) := rfl

theorem qFail_six (q : Nat) : s.qFail q 6 = s.setReg (qOff q + 0x1C) (s.qErr q ||| 0x40) := rfl

end Registers

section Acting
variable {q n : Nat} {want : BitVec 512 → Bool} {s : State} {p : Pkt}

/-- A packet that has been read and is no node of an unchecked graph is the one taken. -/
theorem takePacket_read (hp : s.pkt q n = some p) (hw : want p.data = true) (hnode : p.node = none)
    (hst : p.st ≠ .done) : s.takePacket q n want = (some p, s) := by
  simp only [State.takePacket, hp]
  rw [if_pos ⟨hw, by simp [hnode], hst⟩]

variable (h : HeldPacket q p s)
include h

theorem takePacket_held (hw : want p.data = true) : s.takePacket q p.num want = (some p, s) :=
  takePacket_read h.here hw h.alone (by rw [h.held]; decide)

theorem mayAct_held : s.mayAct q p = true := by
  have horder := h.order
  simp only [State.mayAct, h.held, State.pktFirst]
  cases hp : pkOrder p.data
  · rfl
  · simp [horder hp]

theorem actPacket_held {f : Pkt → State → State} (hw : want p.data = true) :
    s.actPacket q p.num want f = f p s := by
  simp only [State.actPacket, takePacket_held h hw, h.kept, mayAct_held h]
  rfl

end Acting

section Completing
variable {q : Nat}

/-- Registers, packets of queue `q` and its DONE apart, the state stands. -/
structure QueueMoves (q : Nat) (s t : State) : Prop where
  queue : { t.queue q with pkts := (s.queue q).pkts } = s.queue q
  queues : ∀ k, k ≠ q → t.queue k = s.queue k
  regs : ∀ o, o % 4 = 0 → o ≠ qOff q + 0x18 → t.reg o = s.reg o
  rest : ∃ b qs, t = { s with bar2 := b, queues := qs }

theorem QueueMoves.refl (s : State) : QueueMoves q s s := ⟨rfl, fun _ _ => rfl, fun _ _ _ => rfl, _, _, rfl⟩

theorem QueueMoves.trans {s t u : State} (h : QueueMoves q s t) (h' : QueueMoves q t u) : QueueMoves q s u where
  queue := by rw [← h.queue, ← h'.queue]
  queues k hk := (h'.queues k hk).trans (h.queues k hk)
  regs o ho hne := (h'.regs o ho hne).trans (h.regs o ho hne)
  rest := by
    obtain ⟨b, qs, rfl⟩ := h.rest
    obtain ⟨b', qs', rfl⟩ := h'.rest
    exact ⟨b', qs', rfl⟩

theorem queueMoves_pkts (f : List Pkt → List Pkt) (s : State) :
    QueueMoves q s (s.modQueue q (fun x => { x with pkts := f x.pkts })) where
  queue := by rw [State.modQueue_queue_self]
  queues k hk := s.modQueue_queue_of_ne hk _
  regs _ _ _ := rfl
  rest := ⟨_, _, rfl⟩

theorem queueMoves_setDone (v : Word) (s : State) : QueueMoves q s (s.setReg (qOff q + 0x18) v) where
  queue := rfl
  queues _ _ := rfl
  regs o ho hne := setReg_reg_of_offset_ne s ho (by unfold qOff; omega) hne
  rest := ⟨_, _, rfl⟩

/-- DONE moves past packet `d`, which leaves the queue (03 R67). -/
def passDone (q d : Nat) (s : State) : State :=
  (s.setReg (qOff q + 0x18) (BitVec.ofNat 32 (d + 1))).modQueue q (fun x =>
    { x with pkts := x.pkts.filter (fun y => y.num != d) })

theorem passDone_qDone (d : Nat) (s : State) : (passDone q d s).qDone q = BitVec.ofNat 32 (d + 1) :=
  setReg_reg_self s _ _

theorem passDone_pkts (d : Nat) (s : State) :
    ((passDone q d s).queue q).pkts = (s.queue q).pkts.filter (fun y => y.num != d) :=
  congrArg QState.pkts (State.modQueue_queue_self _ q _)

theorem queueMoves_passDone (d : Nat) (s : State) : QueueMoves q s (passDone q d s) :=
  (queueMoves_setDone _ s).trans (queueMoves_pkts (fun l => l.filter (fun y => y.num != d)) _)

theorem advanceDone_of_none {fuel : Nat} {s : State}
    (h : (s.queue q).pkts.find? (fun p => p.num == (s.qDone q).toNat) = none) : s.advanceDone q fuel = s := by
  cases fuel with
  | zero => rfl
  | succ n => simp only [State.advanceDone, h]

theorem advanceDone_of_open {fuel : Nat} {s : State} {p : Pkt}
    (h : (s.queue q).pkts.find? (fun p => p.num == (s.qDone q).toNat) = some p) (hp : p.st ≠ .done) :
    s.advanceDone q fuel = s := by
  cases fuel with
  | zero => rfl
  | succ n => simp only [State.advanceDone, h, if_neg hp]

theorem advanceDone_of_done {fuel : Nat} {s : State} {p : Pkt}
    (h : (s.queue q).pkts.find? (fun p => p.num == (s.qDone q).toNat) = some p) (hp : p.st = .done) :
    s.advanceDone q (fuel + 1) = (passDone q (s.qDone q).toNat s).advanceDone q fuel := by
  simp only [State.advanceDone, h, if_pos hp]
  rfl

theorem queueMoves_advanceDone (fuel : Nat) (s : State) : QueueMoves q s (s.advanceDone q fuel) := by
  induction fuel generalizing s with
  | zero => exact .refl s
  | succ n ih =>
    cases h : (s.queue q).pkts.find? (fun p => p.num == (s.qDone q).toNat) with
    | none => rw [advanceDone_of_none h]; exact .refl s
    | some p =>
      by_cases hp : p.st = .done
      · rw [advanceDone_of_done h hp]; exact (queueMoves_passDone _ s).trans (ih _)
      · rw [advanceDone_of_open h hp]; exact .refl s

/-- Packets with those of number `n` marked as completed. -/
def markDone (n : Nat) (l : List Pkt) : List Pkt := l.map (fun y => if y.num = n then { y with st := .done } else y)

theorem markDone_num (n : Nat) (y : Pkt) : (if y.num = n then { y with st := .done } else y).num = y.num := by
  split <;> rfl

theorem find?_markDone (n d : Nat) (l : List Pkt) : (markDone n l).find? (fun y => y.num == d) =
    (l.find? (fun y => y.num == d)).map (fun y => if y.num = n then { y with st := .done } else y) := by
  rw [markDone, List.find?_map]
  congr 2
  funext y
  simp only [Function.comp, markDone_num]

theorem filter_markDone (n : Nat) (l : List Pkt) :
    (markDone n l).filter (fun y => y.num != n) = l.filter (fun y => y.num != n) := by
  induction l with
  | nil => rfl
  | cons y l ih =>
    simp only [markDone, List.map_cons, List.filter_cons, markDone_num]
    by_cases hy : y.num = n
    · simpa [hy, markDone] using ih
    · simpa [hy, markDone] using ih

theorem raise_irqs (v : Nat) (s : State) : (s.raise v).irqs = s.irqs ++ if s.hostLost then [] else [v] := by
  unfold State.raise
  cases s.hostLost
  · rfl
  · exact (List.append_nil _).symm

theorem raise_frame (v : Nat) (s : State) : ∃ is, s.raise v = { s with irqs := is } := by
  unfold State.raise
  split
  · exact ⟨s.irqs, rfl⟩
  · exact ⟨_, rfl⟩

/-- The packets of a number are marked as completed. -/
def marking (q n : Nat) (s : State) : State := s.modQueue q (fun x => { x with pkts := markDone n x.pkts })

/-- The packets of a number are marked, and the interrupt of packet `p` is raised if it asks for one (03 R65). -/
def completing (q : Nat) (p : Pkt) (s : State) : State :=
  if p.data.getLsbD 9 then (marking q p.num s).raise ((marking q p.num s).qIrqv q) else marking q p.num s

theorem completing_frame (p : Pkt) (s : State) : ∃ is, completing q p s = { marking q p.num s with irqs := is } := by
  unfold completing
  split
  · exact raise_frame _ _
  · exact ⟨s.irqs, rfl⟩

theorem completing_irqs (p : Pkt) (s : State) : (completing q p s).irqs =
    s.irqs ++ if p.data.getLsbD 9 && !s.hostLost then [s.qIrqv q] else [] := by
  unfold completing
  cases p.data.getLsbD 9
  · exact (List.append_nil _).symm
  · rw [if_pos rfl, raise_irqs]
    change s.irqs ++ (if s.hostLost then [] else [s.qIrqv q]) = _
    cases s.hostLost <;> rfl

theorem completing_queue (p : Pkt) (s : State) (k : Nat) : (completing q p s).queue k = (marking q p.num s).queue k := by
  obtain ⟨is, h⟩ := completing_frame (q := q) p s
  rw [h]; rfl

theorem completing_reg (p : Pkt) (s : State) (o : Nat) : (completing q p s).reg o = s.reg o := by
  obtain ⟨is, h⟩ := completing_frame (q := q) p s
  rw [h]; rfl

theorem completing_pkts (p : Pkt) (s : State) : ((completing q p s).queue q).pkts = markDone p.num (s.queue q).pkts := by
  rw [completing_queue, marking, State.modQueue_queue_self]

theorem completing_qDone (p : Pkt) (s : State) : (completing q p s).qDone q = s.qDone q := completing_reg p s _

theorem pktDone_eq {p : Pkt} {s : State} (hp : s.pkt q p.num = some p) (hst : p.st ≠ .done) :
    s.pktDone q p.num = (completing q p s).advanceDone q ((s.queue q).pkts.length + 1) := by
  have hfind : (s.queue q).pkts.find? (fun y => y.num == p.num) = some p := hp
  have hlen : ((completing q p s).queue q).pkts.length = (s.queue q).pkts.length := by
    rw [completing_pkts, markDone, List.length_map]
  rw [← hlen]
  simp only [State.pktDone, hfind, if_neg hst]
  rfl

/-- A packet that completes first takes DONE past itself (03 R67). -/
theorem pktDone_of_first {p : Pkt} {s : State} (hp : s.pkt q p.num = some p) (hst : p.st ≠ .done)
    (hfirst : (s.qDone q).toNat = p.num)
    (hnext : ∀ x ∈ (s.queue q).pkts, x.num = (p.num + 1) % 2 ^ 32 → x.st ≠ .done) :
    s.pktDone q p.num = passDone q p.num (completing q p s) := by
  have hpkts := completing_pkts (q := q) p s
  have hdone := completing_qDone (q := q) p s
  have hfind : (s.queue q).pkts.find? (fun y => y.num == p.num) = some p := hp
  obtain ⟨k, hk⟩ : ∃ k, (s.queue q).pkts.length = k + 1 :=
    Nat.exists_eq_succ_of_ne_zero (List.length_pos_of_mem (List.mem_of_find?_eq_some hfind)).ne'
  rw [pktDone_eq hp hst, hk, advanceDone_of_done (p := { p with st := .done }) (by
    rw [hdone, hpkts, hfirst, find?_markDone, hfind]; simp) rfl, hdone, hfirst]
  cases hafter : ((passDone q p.num (completing q p s)).queue q).pkts.find?
      (fun y => y.num == ((passDone q p.num (completing q p s)).qDone q).toNat) with
  | none => exact advanceDone_of_none hafter
  | some x =>
    refine advanceDone_of_open hafter (hnext x ?_ ?_)
    · have hx := List.mem_of_find?_eq_some hafter
      rw [passDone_pkts, hpkts, filter_markDone] at hx
      exact (List.mem_filter.1 hx).1
    · have hx := List.find?_some hafter
      rw [passDone_qDone, BitVec.toNat_ofNat] at hx
      exact eq_of_beq hx

/-- A packet that completes behind an open one leaves DONE where it is (03 R67). -/
theorem pktDone_of_later {p x : Pkt} {s : State} (hp : s.pkt q p.num = some p) (hst : p.st ≠ .done)
    (hx : (s.queue q).pkts.find? (fun y => y.num == (s.qDone q).toNat) = some x) (hopen : x.st ≠ .done)
    (hne : x.num ≠ p.num) : s.pktDone q p.num = completing q p s := by
  rw [pktDone_eq hp hst]
  refine advanceDone_of_open (p := x) ?_ hopen
  rw [completing_qDone, completing_pkts, find?_markDone, hx, Option.map_some, if_neg hne]

theorem queueMoves_pktDone {p : Pkt} {s : State} (hp : s.pkt q p.num = some p) (hst : p.st ≠ .done) :
    QueueMoves q (completing q p s) (s.pktDone q p.num) := by
  rw [pktDone_eq hp hst]
  exact queueMoves_advanceDone _ _

/-- The completion of a packet that is read is as `PacketEnds` says (03 R65, R67). -/
theorem packetEnds_pktDone {p : Pkt} {s : State} (hp : s.pkt q p.num = some p) (hst : p.st ≠ .done) :
    PacketEnds q p s (s.pktDone q p.num).finish := by
  have hmoves := queueMoves_pktDone hp hst
  refine ⟨?_, fun hfirst hnext => ?_, fun x hx hopen hne => ?_, ?_, fun k hk => ?_, fun o ho hne => ?_, ?_⟩
  · obtain ⟨b, qs, hrest⟩ := hmoves.rest
    rw [State.finish_irqs, hrest]
    exact completing_irqs p s
  · rw [State.finish_queue, pktDone_of_first hp hst hfirst hnext, passDone_pkts, completing_pkts, filter_markDone]
    refine ⟨(passDone_qDone _ _).trans ?_, rfl⟩
    rw [← hfirst]
    exact BitVec.eq_of_toNat_eq (by simp)
  · rw [State.finish_queue, pktDone_of_later hp hst hx hopen hne, completing_pkts]
    exact ⟨completing_qDone p s, rfl⟩
  · have hkept := hmoves.queue
    rw [completing_queue, marking, State.modQueue_queue_self] at hkept
    rw [State.finish_queue]
    exact congrArg (fun x : QState => { x with pkts := (s.queue q).pkts }) hkept
  · rw [State.finish_queue, hmoves.queues k hk, completing_queue, marking, s.modQueue_queue_of_ne hk]
  · rw [State.finish_reg, hmoves.regs o ho hne, completing_reg]
  · obtain ⟨b, qs, hrest⟩ := hmoves.rest
    obtain ⟨is, hcompleting⟩ := completing_frame (q := q) p s
    rw [hrest, hcompleting]
    rfl

end Completing

section Ready
variable (s : State)

/-- A launch with the time since which it is ready (03 R69). -/
def stampReady (s : State) (L : Launch) : Launch :=
  if s.isReady L then (if L.readySince = 0 then { L with readySince := s.gtime + 1 } else L) else { L with readySince := 0 }

theorem stampReady_frame (L : Launch) : ∃ r, stampReady s L = { L with readySince := r } := by
  unfold stampReady
  split
  · split
    · exact ⟨_, rfl⟩
    · exact ⟨L.readySince, rfl⟩
  · exact ⟨_, rfl⟩

theorem markReady_eq : s.markReady = { s with launches := s.launches.map (fun e => (e.1, stampReady s e.2)) } := by
  unfold State.markReady stampReady
  congr
  funext e
  split <;> rfl

theorem tget_map_snd {β : Type} (f : β → β) (k : Nat) (t : Tbl β) :
    tget k (t.map (fun e => (e.1, f e.2))) = (tget k t).map f := by
  induction t with
  | nil => rfl
  | cons e t ih =>
    by_cases h : e.1 = k
    · simp [tget, h]
    · simpa [tget, h] using ih

theorem markReady_launch (k : Nat) : s.markReady.launch k = (s.launch k).map (stampReady s) := by
  rw [markReady_eq]
  exact tget_map_snd _ _ _

/-- The marks of ready launches change only the time since which each is ready. -/
theorem markReady_launch_unready (k : Nat) : (s.markReady.launch k).map (fun L => { L with readySince := 0 }) =
    (s.launch k).map (fun L => { L with readySince := 0 }) := by
  rw [markReady_launch, Option.map_map]
  congr 1
  funext L
  obtain ⟨r, h⟩ := stampReady_frame s L
  simp only [Function.comp, h]

end Ready

end Sys2Proof.Machine.WorkQueues
end

section
/-!
PROOFS. Phases and jobs: PHASE and CLOSE packets, JOB_OPEN and JOB_REOPEN (02 R38, R54; 03 R62, R64, R67).
-/

namespace Sys2Proof.Machine.WorkQueues

section Frames
variable {s t u : State} {os : List Nat}

/-- Phases, the time since which launches are ready, and the registers at `os` change, and nothing else. -/
structure JobMoves (os : List Nat) (s u : State) : Prop where
  queues : ∀ k, u.queue k = s.queue k
  launches : ∀ k, (u.launch k).map (fun L => { L with readySince := 0 }) =
    (s.launch k).map (fun L => { L with readySince := 0 })
  regs : ∀ o, o % 4 = 0 → o ∉ os → u.reg o = s.reg o
  rest : ∃ b ps ls qs, u = { s with bar2 := b, phases := ps, launches := ls, queues := qs }

theorem JobMoves.trans (h : JobMoves os s t) (h' : JobMoves os t u) : JobMoves os s u where
  queues k := (h'.queues k).trans (h.queues k)
  launches k := (h'.launches k).trans (h.launches k)
  regs o ho hne := (h'.regs o ho hne).trans (h.regs o ho hne)
  rest := by
    obtain ⟨b, ps, ls, qs, rfl⟩ := h.rest
    obtain ⟨b', ps', ls', qs', rfl⟩ := h'.rest
    exact ⟨b', ps', ls', qs', rfl⟩

theorem jobMoves_phases (os : List Nat) (ps : List Phase) (s : State) : JobMoves os s { s with phases := ps } :=
  ⟨fun _ => rfl, fun _ => rfl, fun _ _ _ => rfl, _, _, _, _, rfl⟩

theorem jobMoves_setReg {off : Nat} (hoff : off ∈ os) (halign : off % 4 = 0) (v : Word) (s : State) :
    JobMoves os s (s.setReg off v) :=
  ⟨fun _ => rfl, fun _ => rfl,
    fun _ ho hne => setReg_reg_of_offset_ne s ho halign (fun h => hne (h ▸ hoff)), _, _, _, _, rfl⟩

theorem jobMoves_setRegF {off : Nat} (hoff : off ∈ os) (halign : off % 4 = 0) (lo w v : Nat) (s : State) :
    JobMoves os s (s.setRegF off lo w v) := jobMoves_setReg hoff halign _ s

theorem JobMoves.mono {os' : List Nat} (h : JobMoves os s u) (hos : ∀ o ∈ os, o ∈ os') : JobMoves os' s u :=
  ⟨h.queues, h.launches, fun o ho hne => h.regs o ho (fun hin => hne (hos o hin)), h.rest⟩

theorem jobMoves_markReady (os : List Nat) (s : State) : JobMoves os s s.markReady :=
  ⟨fun _ => rfl, markReady_launch_unready s, fun _ _ _ => rfl, _, _, _, _, rfl⟩

/-- The frame as the statement writes it. -/
theorem JobMoves.rest_eq (h : JobMoves os s u) :
    { u with turn := s.turn, tick := s.tick, fresh := s.fresh, gtime := s.gtime, bar2 := s.bar2,
             phases := s.phases, launches := s.launches, queues := s.queues } = s := by
  obtain ⟨b, ps, ls, qs, rfl⟩ := h.rest
  rfl

end Frames

section Phases
variable {j num : Nat} {s : State} {x : Phase}

/-- Phases with those of a number of a job closed. -/
def closeAll (j num : Nat) (ps : List Phase) : List Phase :=
  ps.map (fun y => if y.job = j ∧ y.num = num then { y with closed := true } else y)

/-- Phases without those of a number of a job. -/
def without (j num : Nat) (ps : List Phase) : List Phase := ps.filter (fun y => !(y.job == j && y.num == num))

theorem without_closeAll (j num : Nat) (ps : List Phase) : without j num (closeAll j num ps) = without j num ps := by
  induction ps with
  | nil => rfl
  | cons y ps ih =>
    unfold without closeAll at *
    by_cases h : y.job = j ∧ y.num = num
    · simpa [h.1, h.2] using ih
    · have hb : (y.job == j && y.num == num) = false := by simpa using h
      simp only [List.map_cons, if_neg h, List.filter_cons, hb, ih]

theorem find?_closeAll {ps : List Phase} (h : ps.find? (fun y => y.job == j && y.num == num) = some x) :
    (closeAll j num ps).find? (fun y => y.job == j && y.num == num) = some { x with closed := true } := by
  have hx : x.job = j ∧ x.num = num := by simpa using List.find?_some h
  rw [closeAll, List.find?_map]
  have hf : ((fun y : Phase => y.job == j && y.num == num) ∘ fun y => if y.job = j ∧ y.num = num then
      { y with closed := true } else y) = fun y => y.job == j && y.num == num := by
    funext y
    simp only [Function.comp]
    split <;> rfl
  rw [hf, h, Option.map_some, if_pos hx]

/-- A phase that has ended goes, and OPENPH with it (03 R64, R67). -/
def dropPhase (j num : Nat) (s : State) : State :=
  State.setReg (jOff j + 0x18) (BitVec.ofNat 32 (s.jOpenPh j - 1)) { s with phases := without j num s.phases }

/-- A CANCEL packet of a job waits for it no longer. -/
def freeCancels (j : Nat) (s : State) : State :=
  { s with queues := s.queues.map (fun e => (e.1, { e.2 with
      pkts := e.2.pkts.map (fun p => if bitsOf p.data.toNat 0 8 = 6 ∧ bitsOf p.data.toNat 16 8 = 3
        ∧ p.refs = [j] then { p with refs := [] } else p) })) }

theorem freeCancels_eq_self (h : ∀ e ∈ s.queues, ∀ y ∈ e.2.pkts, pkType y.data ≠ 6) : freeCancels j s = s := by
  have hq : s.queues.map (fun e => (e.1, { e.2 with
      pkts := e.2.pkts.map (fun p => if bitsOf p.data.toNat 0 8 = 6 ∧ bitsOf p.data.toNat 16 8 = 3
        ∧ p.refs = [j] then { p with refs := [] } else p) })) = s.queues := by
    refine (List.map_congr_left fun e he => ?_).trans (List.map_id _)
    have hp : e.2.pkts.map (fun p => if bitsOf p.data.toNat 0 8 = 6 ∧ bitsOf p.data.toNat 16 8 = 3
        ∧ p.refs = [j] then { p with refs := [] } else p) = e.2.pkts :=
      (List.map_congr_left fun y hy => if_neg fun hc => h e he y hy hc.1).trans (List.map_id _)
    rw [hp]
    rfl
  rw [freeCancels, hq]

theorem phaseCheck_of_left (h : s.phases.find? (fun y => y.job == j && y.num == num) = some x) (hx : x.left ≠ 0) :
    s.phaseCheck j num = s := by
  simp only [State.phaseCheck, h]
  rw [if_neg (by simp [hx])]

section Ended
variable (h : s.phases.find? (fun y => y.job == j && y.num == num) = some x) (hclosed : x.closed = true)
  (hx : x.left = 0)
include h hclosed hx

/-- The end of a phase that is not the job's last. -/
theorem phaseCheck_of_ended (hn : s.jOpenPh j - 1 ≠ 0) : s.phaseCheck j num = dropPhase j num s := by
  simp only [State.phaseCheck, h]
  rw [if_pos (by simp [hx, hclosed])]
  exact if_neg hn

/-- At the end of its last phase a job is OFF (03 R64). -/
theorem phaseCheck_of_last (hn : s.jOpenPh j - 1 = 0) :
    s.phaseCheck j num = (freeCancels j (dropPhase j num s)).setRegF (jOff j + 0xC) 8 2 0 := by
  simp only [State.phaseCheck, h]
  rw [if_pos (by simp [hx, hclosed])]
  exact if_pos hn

end Ended

theorem dropPhase_jOpenPh (h : s.jOpenPh j < 2 ^ 32) : (dropPhase j num s).jOpenPh j = s.jOpenPh j - 1 := by
  rw [dropPhase, State.jOpenPh, setReg_reg_self, BitVec.toNat_ofNat]
  exact Nat.mod_eq_of_lt (by omega)

theorem dropPhase_queues (j num : Nat) (s : State) : (dropPhase j num s).queues = s.queues := by
  rw [dropPhase, State.setReg_queues]

theorem dropPhase_reg_of_ne (s : State) {o : Nat} (ho : o % 4 = 0) (hne : o ≠ jOff j + 0x18) :
    (dropPhase j num s).reg o = s.reg o :=
  (setReg_reg_of_offset_ne _ ho (by unfold jOff; omega) hne).trans rfl

theorem jOpenPh_lt (s : State) (j : Nat) : s.jOpenPh j < 2 ^ 32 := (s.reg (jOff j + 0x18)).isLt

theorem jobMoves_dropPhase {os : List Nat} (hos : jOff j + 0x18 ∈ os) : JobMoves os s (dropPhase j num s) :=
  (jobMoves_phases os _ s).trans (jobMoves_setReg hos (by unfold jOff; omega) _ _)

end Phases

section PhasePackets
variable {j : Nat} {s : State} {x : Phase}

/-- The registers that a PHASE packet writes: PHASE and OPENPH. -/
def phaseRegs (j : Nat) : List Nat := [jOff j + 0x14, jOff j + 0x18]

/-- The open phase is closed and the next one opens (03 R67). -/
def turnPhase (j : Nat) (s : State) : State := (s.closePhase j).openPhase j (s.jPhase j + 1)

theorem turnPhase_phases (j : Nat) (s : State) : (turnPhase j s).phases = closeAll j (s.jPhase j) s.phases ++
    [{ job := j, num := s.jPhase j + 1, left := 0, closed := false }] := rfl

theorem openPhase_jPhase {num : Nat} (h : num < 2 ^ 32) (s : State) : (s.openPhase j num).jPhase j = num := by
  unfold State.openPhase State.jPhase
  rw [setReg_reg_of_offset_ne _ (by unfold jOff; omega) (by unfold jOff; omega) (by omega), setReg_reg_self,
    BitVec.toNat_ofNat]
  exact Nat.mod_eq_of_lt h

theorem openPhase_jOpenPh (num : Nat) (s : State) : (s.openPhase j num).jOpenPh j = (s.jOpenPh j + 1) % 2 ^ 32 := by
  unfold State.openPhase
  rw [State.jOpenPh, setReg_reg_self, BitVec.toNat_ofNat]
  rfl

theorem jobMoves_openPhase (num : Nat) (s : State) : JobMoves (phaseRegs j) s (s.openPhase j num) :=
  ((jobMoves_phases _ _ s).trans (jobMoves_setReg (.head _) (by unfold jOff; omega) _ _)).trans
    (jobMoves_setReg (.tail _ (.head _)) (by unfold jOff; omega) _ _)

theorem turnPhase_find? (hx : s.phases.find? (fun y => y.job == j && y.num == s.jPhase j) = some x) :
    (turnPhase j s).phases.find? (fun y => y.job == j && y.num == s.jPhase j) = some { x with closed := true } := by
  rw [turnPhase_phases, List.find?_append, find?_closeAll hx]
  rfl

theorem turnPhase_jOpenPh (hroom : s.jOpenPh j < 2 ^ 32 - 1) : (turnPhase j s).jOpenPh j = s.jOpenPh j + 1 :=
  (openPhase_jOpenPh _ _).trans (Nat.mod_eq_of_lt (by change s.jOpenPh j + 1 < _; omega))

theorem turnPhase_jPhase (hnum : s.jPhase j < 2 ^ 32 - 1) : (turnPhase j s).jPhase j = s.jPhase j + 1 :=
  openPhase_jPhase (by omega) _

theorem jobMoves_turnPhase (s : State) : JobMoves (phaseRegs j) s (turnPhase j s) :=
  (jobMoves_phases _ (closeAll j (s.jPhase j) s.phases) s).trans (jobMoves_openPhase _ _)

/-- The phase closed by PHASE ends at once if it has no graph left. -/
theorem phaseCheck_turnPhase (hx : s.phases.find? (fun y => y.job == j && y.num == s.jPhase j) = some x)
    (hopen : 1 ≤ s.jOpenPh j) (hroom : s.jOpenPh j < 2 ^ 32 - 1) : (turnPhase j s).phaseCheck j (s.jPhase j) =
      if x.left = 0 then dropPhase j (s.jPhase j) (turnPhase j s) else turnPhase j s := by
  have hfind := turnPhase_find? hx
  split
  · exact phaseCheck_of_ended hfind rfl ‹_› (by rw [turnPhase_jOpenPh hroom]; omega)
  · exact phaseCheck_of_left hfind ‹_›

/-- What PHASE does before it completes. -/
def phased (j : Nat) (s : State) : State := ((turnPhase j s).phaseCheck j (s.jPhase j)).markReady

theorem jobMoves_phased (hx : s.phases.find? (fun y => y.job == j && y.num == s.jPhase j) = some x)
    (hopen : 1 ≤ s.jOpenPh j) (hroom : s.jOpenPh j < 2 ^ 32 - 1) : JobMoves (phaseRegs j) s (phased j s) := by
  refine ((jobMoves_turnPhase s).trans ?_).trans (jobMoves_markReady _ _)
  rw [phaseCheck_turnPhase hx hopen hroom]
  split
  · exact jobMoves_dropPhase (.tail _ (.head _))
  · exact jobMoves_phases _ _ _

theorem phased_phases (hx : s.phases.find? (fun y => y.job == j && y.num == s.jPhase j) = some x)
    (hopen : 1 ≤ s.jOpenPh j) (hroom : s.jOpenPh j < 2 ^ 32 - 1) : (phased j s).phases =
      (if x.left = 0 then without j (s.jPhase j) s.phases else closeAll j (s.jPhase j) s.phases) ++
        [{ job := j, num := s.jPhase j + 1, left := 0, closed := false }] := by
  change ((turnPhase j s).phaseCheck j (s.jPhase j)).phases = _
  rw [phaseCheck_turnPhase hx hopen hroom]
  split
  · change without j (s.jPhase j) (turnPhase j s).phases = _
    rw [turnPhase_phases, without, List.filter_append, ← without, without_closeAll]
    simp
  · exact turnPhase_phases j s

theorem phased_jPhase (hx : s.phases.find? (fun y => y.job == j && y.num == s.jPhase j) = some x)
    (hopen : 1 ≤ s.jOpenPh j) (hroom : s.jOpenPh j < 2 ^ 32 - 1) (hnum : s.jPhase j < 2 ^ 32 - 1) :
    (phased j s).jPhase j = s.jPhase j + 1 := by
  change ((turnPhase j s).phaseCheck j (s.jPhase j)).jPhase j = _
  rw [phaseCheck_turnPhase hx hopen hroom, ← turnPhase_jPhase hnum]
  split
  · exact congrArg BitVec.toNat (dropPhase_reg_of_ne _ (by unfold jOff; omega) (by omega))
  · rfl

theorem phased_jOpenPh (hx : s.phases.find? (fun y => y.job == j && y.num == s.jPhase j) = some x)
    (hopen : 1 ≤ s.jOpenPh j) (hroom : s.jOpenPh j < 2 ^ 32 - 1) :
    (phased j s).jOpenPh j = if x.left = 0 then s.jOpenPh j else s.jOpenPh j + 1 := by
  change ((turnPhase j s).phaseCheck j (s.jPhase j)).jOpenPh j = _
  rw [phaseCheck_turnPhase hx hopen hroom]
  split
  · rw [dropPhase_jOpenPh (jOpenPh_lt _ _), turnPhase_jOpenPh hroom]
    omega
  · exact turnPhase_jOpenPh hroom

end PhasePackets

section ClosePackets
variable {j : Nat} {s : State} {x : Phase}

/-- The registers that CLOSE writes: STATE and OPENPH. -/
def closeRegs (j : Nat) : List Nat := [jOff j + 0xC, jOff j + 0x18]

/-- STATE of a job, and the other fields of its word as they were (03 R63). -/
def StateIs (s u : State) (j v : Nat) : Prop :=
  u.jState j = v ∧ ∀ lo n, lo + n ≤ 8 ∨ (10 ≤ lo ∧ lo + n ≤ 32) →
    u.regF (jOff j + 0xC) lo n = s.regF (jOff j + 0xC) lo n

theorem stateIs_setRegF (s : State) (j : Nat) {v : Nat} (hv : v < 4) :
    StateIs s (s.setRegF (jOff j + 0xC) 8 2 v) j v := by
  refine ⟨?_, fun lo n h => ?_⟩
  · rw [State.jState, State.setRegF_regF_self _ (by omega)]
    exact Nat.mod_eq_of_lt hv
  · exact State.setRegF_regF_of_disjoint _ (by omega) (by omega)

theorem StateIs.trans {t u : State} {v w : Nat} (h : StateIs s t j v) (h' : StateIs t u j w) : StateIs s u j w :=
  ⟨h'.1, fun lo n hn => (h'.2 lo n hn).trans (h.2 lo n hn)⟩

theorem StateIs.of_reg {t u : State} {v : Nat} (h : StateIs s t j v)
    (hreg : u.reg (jOff j + 0xC) = t.reg (jOff j + 0xC)) : StateIs s u j v := by
  refine ⟨?_, fun lo n hn => ?_⟩
  · rw [← h.1, State.jState, State.regF, hreg]; rfl
  · rw [← h.2 lo n hn, State.regF, hreg]; rfl

/-- The open phase is closed and the job is CLOSING (03 R67). -/
def closing (j : Nat) (s : State) : State := (s.closePhase j).setRegF (jOff j + 0xC) 8 2 2

theorem closing_queues (j : Nat) (s : State) : (closing j s).queues = s.queues := by
  rw [closing, setRegF_eq_setReg, State.setReg_queues]
  rfl

theorem closing_jOpenPh (j : Nat) (s : State) : (closing j s).jOpenPh j = s.jOpenPh j :=
  congrArg BitVec.toNat (setReg_reg_of_offset_ne _ (by unfold jOff; omega) (by unfold jOff; omega) (by omega))

theorem jobMoves_closing (s : State) : JobMoves (closeRegs j) s (closing j s) :=
  (jobMoves_phases _ (closeAll j (s.jPhase j) s.phases) s).trans
    (jobMoves_setReg (.head _) (by unfold jOff; omega) _ _)

theorem stateIs_closing (j : Nat) (s : State) : StateIs s (closing j s) j 2 :=
  stateIs_setRegF (s.closePhase j) j (by omega)

/-- What CLOSE does before it completes. -/
def closed (j : Nat) (s : State) : State := (closing j s).phaseCheck j (s.jPhase j)

/-- The closed phase ends at once if it has no graph left, and the job is OFF if it was the last. -/
theorem closed_eq (hx : s.phases.find? (fun y => y.job == j && y.num == s.jPhase j) = some x)
    (hopen : 1 ≤ s.jOpenPh j) (hcancels : ∀ e ∈ s.queues, ∀ y ∈ e.2.pkts, pkType y.data ≠ 6) : closed j s =
      if x.left = 0 then
        if s.jOpenPh j = 1 then (dropPhase j (s.jPhase j) (closing j s)).setRegF (jOff j + 0xC) 8 2 0
        else dropPhase j (s.jPhase j) (closing j s)
      else closing j s := by
  have hfind : (closing j s).phases.find? (fun y => y.job == j && y.num == s.jPhase j) =
    some { x with closed := true } := find?_closeAll hx
  have hn := closing_jOpenPh j s
  have hqueues : ∀ e ∈ (dropPhase j (s.jPhase j) (closing j s)).queues, ∀ y ∈ e.2.pkts, pkType y.data ≠ 6 := by
    rw [dropPhase_queues, closing_queues]
    exact hcancels
  split
  · split
    · exact (phaseCheck_of_last hfind rfl ‹_› (by omega)).trans
        (congrArg (State.setRegF (jOff j + 0xC) 8 2 0) (freeCancels_eq_self hqueues))
    · exact phaseCheck_of_ended hfind rfl ‹_› (by omega)
  · exact phaseCheck_of_left hfind ‹_›

section Closed
variable (hx : s.phases.find? (fun y => y.job == j && y.num == s.jPhase j) = some x) (hopen : 1 ≤ s.jOpenPh j)
  (hcancels : ∀ e ∈ s.queues, ∀ y ∈ e.2.pkts, pkType y.data ≠ 6)
include hx hopen hcancels

theorem jobMoves_closed : JobMoves (closeRegs j) s (closed j s) := by
  have hdrop : JobMoves (closeRegs j) s (dropPhase j (s.jPhase j) (closing j s)) :=
    (jobMoves_closing s).trans (jobMoves_dropPhase (.tail _ (.head _)))
  rw [closed_eq hx hopen hcancels]
  split
  · split
    · exact hdrop.trans (jobMoves_setReg (.head _) (by unfold jOff; omega) _ _)
    · exact hdrop
  · exact jobMoves_closing s

theorem closed_phases : (closed j s).phases =
    if x.left = 0 then without j (s.jPhase j) s.phases else closeAll j (s.jPhase j) s.phases := by
  have hdrop : (dropPhase j (s.jPhase j) (closing j s)).phases = without j (s.jPhase j) s.phases :=
    without_closeAll j _ _
  rw [closed_eq hx hopen hcancels]
  split
  · split <;> exact hdrop
  · rfl

theorem closed_jOpenPh : (closed j s).jOpenPh j = if x.left = 0 then s.jOpenPh j - 1 else s.jOpenPh j := by
  have hdrop : (dropPhase j (s.jPhase j) (closing j s)).jOpenPh j = s.jOpenPh j - 1 := by
    rw [dropPhase_jOpenPh (jOpenPh_lt _ _), closing_jOpenPh]
  rw [closed_eq hx hopen hcancels]
  split
  · split
    · rw [← hdrop]
      exact congrArg BitVec.toNat
        (setReg_reg_of_offset_ne _ (by unfold jOff; omega) (by unfold jOff; omega) (by omega))
    · exact hdrop
  · exact closing_jOpenPh j s

theorem stateIs_closed : StateIs s (closed j s) j (if x.left = 0 ∧ s.jOpenPh j = 1 then 0 else 2) := by
  have hdrop : StateIs s (dropPhase j (s.jPhase j) (closing j s)) j 2 :=
    (stateIs_closing j s).of_reg (dropPhase_reg_of_ne _ (by unfold jOff; omega) (by omega))
  rw [closed_eq hx hopen hcancels]
  by_cases hleft : x.left = 0
  · by_cases hlast : s.jOpenPh j = 1
    · rw [if_pos hleft, if_pos hlast, if_pos ⟨hleft, hlast⟩]
      exact hdrop.trans (stateIs_setRegF _ j (by omega))
    · rw [if_pos hleft, if_neg hlast, if_neg (fun h => hlast h.2)]
      exact hdrop
  · rw [if_neg hleft, if_neg (fun h => hleft h.1)]
    exact stateIs_closing j s

end Closed

end ClosePackets

theorem exec_phasePacket (q n : Nat) (s : State) : exec (.phasePacket q n) s = .next (evPhasePacket q n s).finish := rfl

theorem exec_phaseClosePacket (q n : Nat) (s : State) :
    exec (.phaseClosePacket q n) s = .next (evPhaseClosePacket q n s).finish := rfl

section Packets
variable {q : Nat} {p : Pkt} {s : State} {sub : Nat}

theorem isTypeSub_of (htype : pkType p.data = 3) (hsub : pkSub p.data = sub) : isTypeSub 3 sub p.data = true := by
  simp [isTypeSub, htype, hsub]

theorem phasePacket_of_lead (h : HeldPacket q p s) (htype : pkType p.data = 3) (hsub : pkSub p.data = 0)
    (hlead : s.qLead q = true) : evPhasePacket q p.num s = (phased (s.qJob q) s).pktDone q p.num := by
  rw [evPhasePacket, actPacket_held h (isTypeSub_of htype hsub)]
  simp only [hlead, Bool.not_true, Bool.false_eq_true, if_false]
  rfl

theorem phaseClosePacket_of_lead (h : HeldPacket q p s) (htype : pkType p.data = 3) (hsub : pkSub p.data = 1)
    (hlead : s.qLead q = true) : evPhaseClosePacket q p.num s = (closed (s.qJob q) s).pktDone q p.num := by
  rw [evPhaseClosePacket, actPacket_held h (isTypeSub_of htype hsub)]
  simp only [hlead, Bool.not_true, Bool.false_eq_true, if_false]
  rfl

/-- A packet that completes in a state whose queues are those in which it was read. -/
theorem packetEnds_of_held {u : State} (h : HeldPacket q p s) (hqueue : u.queue q = s.queue q) :
    PacketEnds q p u (u.pktDone q p.num).finish :=
  packetEnds_pktDone (by rw [State.pkt, hqueue]; exact h.here) (by rw [h.held]; decide)

/-- From a queue without LEAD a PHASE packet sets PHASEBAD (03 R62). -/
theorem phasePackets_of_not_lead (h : HeldPacket q p s) (htype : pkType p.data = 3) (hlead : s.qLead q = false) :
    (pkSub p.data = 0 → evPhasePacket q p.num s = (s.qFail q 4).pktDone q p.num) ∧
    (pkSub p.data = 1 → evPhaseClosePacket q p.num s = (s.qFail q 4).pktDone q p.num) := by
  refine ⟨fun hsub => ?_, fun hsub => ?_⟩
  · rw [evPhasePacket, actPacket_held h (isTypeSub_of htype hsub)]
    simp only [hlead, Bool.not_false, if_true]
  · rw [evPhaseClosePacket, actPacket_held h (isTypeSub_of htype hsub)]
    simp only [hlead, Bool.not_false, if_true]

end Packets

section Jobs
variable {j : Nat} {s : State}

/-- A job that opens, before its phase does (03 R64). -/
def openState (j : Nat) (s : State) : State := (s.setRegF (jOff j + 0xC) 8 2 1).setReg (jOff j + 0x18) 0

/-- The job opens with phase 0, no grove base and no call queue (03 R64; 09 R202; 10 R232). -/
def opened (j : Nat) (s : State) : State :=
  State.openPhase j 0 { openState j s with
    grovebase := fset 0 j 0 (openState j s).grovebase, callq := fset 0 j 0 (openState j s).callq }

theorem jobOpen_of_off (hj : j < 4096) (hoff : s.jState j = 0) : evJobOpen j s = opened j s := by
  unfold evJobOpen
  rw [if_neg (by simp only [Config.jobs, hoff]; omega)]
  rfl

theorem jobOpen_of_not_off (hoff : s.jState j ≠ 0) : evJobOpen j s = s := if_pos (.inr hoff)

theorem jobReopen_of_frozen (hj : j < 4096) (hfrozen : s.jState j = 3) :
    evJobReopen j s = (s.setRegF (jOff j + 0xC) 8 2 1).markReady := by
  unfold evJobReopen
  rw [if_neg (by simp only [Config.jobs, hfrozen]; omega)]

theorem jobReopen_of_not_frozen (hfrozen : s.jState j ≠ 3) : evJobReopen j s = s := if_pos (.inr hfrozen)

/-- The registers that JOB_OPEN writes: STATE, PHASE and OPENPH. -/
def openRegs (j : Nat) : List Nat := [jOff j + 0xC, jOff j + 0x14, jOff j + 0x18]

theorem openState_grovebase (j : Nat) (s : State) : (openState j s).grovebase = s.grovebase := by
  rw [openState, State.setReg_grovebase, setRegF_eq_setReg, State.setReg_grovebase]

theorem openState_callq (j : Nat) (s : State) : (openState j s).callq = s.callq := by
  rw [openState, State.setReg_callq, setRegF_eq_setReg, State.setReg_callq]

theorem openState_phases (j : Nat) (s : State) : (openState j s).phases = s.phases := by
  rw [openState, State.setReg_phases, setRegF_eq_setReg, State.setReg_phases]

theorem openPhase_with (j num : Nat) (s : State) (g c : FMap DWord) :
    State.openPhase j num { s with grovebase := g, callq := c } =
      { s.openPhase j num with grovebase := g, callq := c } := rfl

theorem openPhase_grovebase (j num : Nat) (s : State) : (s.openPhase j num).grovebase = s.grovebase := rfl

theorem openPhase_callq (j num : Nat) (s : State) : (s.openPhase j num).callq = s.callq := rfl

theorem with_grove_reg (s : State) (g c : FMap DWord) (o : Nat) :
    ({ s with grovebase := g, callq := c } : State).reg o = s.reg o := rfl

theorem with_grove_back {s : State} {g c g' c' : FMap DWord} (hg : s.grovebase = g') (hc : s.callq = c') :
    { ({ s with grovebase := g, callq := c } : State) with grovebase := g', callq := c' } = s := by
  subst hg hc
  rfl

theorem opened_eq (j : Nat) (s : State) : opened j s =
    { (openState j s).openPhase j 0 with grovebase := fset 0 j 0 s.grovebase, callq := fset 0 j 0 s.callq } := by
  rw [opened, openPhase_with, openState_grovebase, openState_callq]

theorem jobMoves_opened (s : State) :
    JobMoves (openRegs j) s { opened j s with grovebase := s.grovebase, callq := s.callq } := by
  have hstate : JobMoves (openRegs j) s (s.setRegF (jOff j + 0xC) 8 2 1) :=
    jobMoves_setRegF (by simp [openRegs]) (by unfold jOff; omega) _ _ _ _
  have hopen : JobMoves (openRegs j) s (openState j s) :=
    hstate.trans (jobMoves_setReg (by simp [openRegs]) (by unfold jOff; omega) _ _)
  have hphase := hopen.trans ((jobMoves_openPhase (j := j) 0 (openState j s)).mono (by simp [phaseRegs, openRegs]))
  have hgrove : ((openState j s).openPhase j 0).grovebase = s.grovebase := by
    rw [openPhase_grovebase, openState_grovebase]
  have hcallq : ((openState j s).openPhase j 0).callq = s.callq := by
    rw [openPhase_callq, openState_callq]
  rw [opened_eq, with_grove_back hgrove hcallq]
  exact hphase

theorem opened_reg (o : Nat) : (opened j s).reg o = ((openState j s).openPhase j 0).reg o := by
  rw [opened_eq, with_grove_reg]

theorem opened_phases : (opened j s).phases = s.phases ++ [{ job := j, num := 0, left := 0, closed := false }] := by
  rw [opened_eq, ← openState_phases j s]
  rfl

theorem fget_opened_grovebase (k : Nat) :
    fget 0 k (opened j s).grovebase = if k = j then 0 else fget 0 k s.grovebase := by
  rw [opened_eq]
  exact fget_fset (0 : DWord) 0 j k s.grovebase

theorem fget_opened_callq (k : Nat) : fget 0 k (opened j s).callq = if k = j then 0 else fget 0 k s.callq := by
  rw [opened_eq]
  exact fget_fset (0 : DWord) 0 j k s.callq

theorem opened_jPhase : (opened j s).jPhase j = 0 := by
  rw [State.jPhase, opened_reg]
  exact openPhase_jPhase (by omega) _

theorem opened_jOpenPh : (opened j s).jOpenPh j = 1 := by
  rw [State.jOpenPh, opened_reg]
  refine (openPhase_jOpenPh 0 _).trans ?_
  rw [openState, State.jOpenPh, setReg_reg_self]
  rfl

theorem stateIs_opened : StateIs s (opened j s) j 1 := by
  refine (stateIs_setRegF s j (v := 1) (by omega)).of_reg ?_
  rw [opened_reg, (jobMoves_openPhase (j := j) 0 _).regs _ (by unfold jOff; omega) (by simp [phaseRegs]), openState]
  exact setReg_reg_of_offset_ne _ (by unfold jOff; omega) (by unfold jOff; omega) (by omega)

end Jobs

theorem exec_jobOpen (j : Nat) (s : State) : exec (.jobOpen j) s = .next (evJobOpen j s).finish := rfl

theorem exec_jobReopen (j : Nat) (s : State) : exec (.jobReopen j) s = .next (evJobReopen j s).finish := rfl

section Clauses
variable {q j : Nat} {p : Pkt} {s : State} {x : Phase}

/-- PHASE of a LEAD queue (03 R67). -/
theorem exec_phasePacket_of_lead (h : HeldPacket q p s) (htype : pkType p.data = 3) (hsub : pkSub p.data = 0)
    (hlead : s.qLead q = true) (hj : s.qJob q = j)
    (hx : s.phases.find? (fun y => y.job == j && y.num == s.jPhase j) = some x)
    (hopen : 1 ≤ s.jOpenPh j) (hroom : s.jOpenPh j < 2 ^ 32 - 1) (hnum : s.jPhase j < 2 ^ 32 - 1) :
    ∃ t u, exec (.phasePacket q p.num) s = .next t ∧ PacketEnds q p u t ∧ u.phases =
      (if x.left = 0 then without j (s.jPhase j) s.phases else closeAll j (s.jPhase j) s.phases) ++
        [{ job := j, num := s.jPhase j + 1, left := 0, closed := false }] ∧
      u.jPhase j = s.jPhase j + 1 ∧ u.jOpenPh j = (if x.left = 0 then s.jOpenPh j else s.jOpenPh j + 1) ∧
      JobMoves (phaseRegs j) s u := by
  subst hj
  have hmoves := jobMoves_phased hx hopen hroom
  rw [exec_phasePacket, phasePacket_of_lead h htype hsub hlead]
  exact ⟨_, phased (s.qJob q) s, rfl, packetEnds_of_held h (hmoves.queues q), phased_phases hx hopen hroom,
    phased_jPhase hx hopen hroom hnum, phased_jOpenPh hx hopen hroom, hmoves⟩

/-- CLOSE of a LEAD queue (03 R67). -/
theorem exec_phaseClosePacket_of_lead (h : HeldPacket q p s) (htype : pkType p.data = 3) (hsub : pkSub p.data = 1)
    (hlead : s.qLead q = true) (hj : s.qJob q = j)
    (hx : s.phases.find? (fun y => y.job == j && y.num == s.jPhase j) = some x)
    (hopen : 1 ≤ s.jOpenPh j) (hcancels : ∀ e ∈ s.queues, ∀ y ∈ e.2.pkts, pkType y.data ≠ 6) :
    ∃ t u, exec (.phaseClosePacket q p.num) s = .next t ∧ PacketEnds q p u t ∧ u.phases =
      (if x.left = 0 then without j (s.jPhase j) s.phases else closeAll j (s.jPhase j) s.phases) ∧
      u.jOpenPh j = (if x.left = 0 then s.jOpenPh j - 1 else s.jOpenPh j) ∧
      StateIs s u j (if x.left = 0 ∧ s.jOpenPh j = 1 then 0 else 2) ∧ JobMoves (closeRegs j) s u := by
  subst hj
  have hmoves := jobMoves_closed hx hopen hcancels
  rw [exec_phaseClosePacket, phaseClosePacket_of_lead h htype hsub hlead]
  exact ⟨_, closed (s.qJob q) s, rfl, packetEnds_of_held h (hmoves.queues q), closed_phases hx hopen hcancels,
    closed_jOpenPh hx hopen hcancels, stateIs_closed hx hopen hcancels, hmoves⟩

/-- From a queue without LEAD a PHASE packet sets PHASEBAD and completes (03 R62). -/
theorem exec_phasePackets_of_not_lead {i : Instr} (h : HeldPacket q p s) (htype : pkType p.data = 3)
    (hlead : s.qLead q = false)
    (hi : (pkSub p.data = 0 ∧ i = .phasePacket q p.num) ∨ (pkSub p.data = 1 ∧ i = .phaseClosePacket q p.num)) :
    ∃ t, exec i s = .next t ∧ PacketEnds q p (s.setReg (qOff q + 0x1C) (s.qErr q ||| 0x10)) t := by
  have hends : PacketEnds q p (s.qFail q 4) ((s.qFail q 4).pktDone q p.num).finish :=
    packetEnds_of_held h (by rw [qFail_four, setReg_queue])
  obtain ⟨hphase, hclose⟩ := phasePackets_of_not_lead h htype hlead
  rw [← qFail_four]
  rcases hi with ⟨hsub, rfl⟩ | ⟨hsub, rfl⟩
  · rw [exec_phasePacket, hphase hsub]
    exact ⟨_, rfl, hends⟩
  · rw [exec_phaseClosePacket, hclose hsub]
    exact ⟨_, rfl, hends⟩

/-- JOB_OPEN of a job that is OFF (03 R64). -/
theorem exec_jobOpen_of_off (hj : j < 4096) (hoff : s.jState j = 0) :
    ∃ u, exec (.jobOpen j) s = .next (State.finish u) ∧ StateIs s u j 1 ∧ u.jPhase j = 0 ∧ u.jOpenPh j = 1 ∧
      u.phases = s.phases ++ [{ job := j, num := 0, left := 0, closed := false }] ∧
      (∀ k, fget 0 k u.grovebase = if k = j then 0 else fget 0 k s.grovebase) ∧
      (∀ k, fget 0 k u.callq = if k = j then 0 else fget 0 k s.callq) ∧
      JobMoves (openRegs j) s { u with grovebase := s.grovebase, callq := s.callq } :=
  ⟨opened j s, by rw [exec_jobOpen, jobOpen_of_off hj hoff], stateIs_opened, opened_jPhase, opened_jOpenPh,
    opened_phases, fget_opened_grovebase, fget_opened_callq, jobMoves_opened s⟩

/-- JOB_REOPEN of a job that is FROZEN (03 R64). -/
theorem exec_jobReopen_of_frozen (hj : j < 4096) (hfrozen : s.jState j = 3) :
    ∃ u, exec (.jobReopen j) s = .next (State.finish u) ∧ StateIs s u j 1 ∧ u.phases = s.phases ∧
      JobMoves [jOff j + 0xC] s u := by
  have hset : JobMoves [jOff j + 0xC] s (s.setRegF (jOff j + 0xC) 8 2 1) :=
    jobMoves_setRegF (.head _) (by unfold jOff; omega) _ _ _ _
  have hstate : StateIs s (s.setRegF (jOff j + 0xC) 8 2 1) j 1 := stateIs_setRegF s j (by omega)
  have hphases : (s.setRegF (jOff j + 0xC) 8 2 1).phases = s.phases := by
    rw [setRegF_eq_setReg, State.setReg_phases]
  rw [exec_jobReopen, jobReopen_of_frozen hj hfrozen]
  generalize s.setRegF (jOff j + 0xC) 8 2 1 = u at *
  exact ⟨u.markReady, rfl, hstate.of_reg rfl, hphases, hset.trans (jobMoves_markReady _ _)⟩

end Clauses

/-- Settles O42: PHASE and CLOSE close the open phase, which ends at once if it has no graph left; JOB_OPEN and
JOB_REOPEN write STATE. -/
theorem phasesAndJobs : Obligations.PhasesAndJobs := by
  unfold Obligations.PhasesAndJobs
  refine ⟨fun q p s x h htype hlead hx _ hopen hroom hnum => ⟨fun hsub => ?_, fun hsub hcancels => ?_⟩,
    fun q p s i h htype hlead hi => exec_phasePackets_of_not_lead h htype hlead hi,
    fun j s hj => ⟨fun hoff => ?_, fun hoff => ?_, fun hfrozen => ?_, fun hfrozen => ?_⟩⟩
  · obtain ⟨t, u, ht, hends, hphases, hphase, hopenPh, hmoves⟩ :=
      exec_phasePacket_of_lead h htype hsub hlead rfl hx hopen hroom hnum
    exact ⟨t, u, ht, hends, hphases, hphase, hopenPh, hmoves.queues, hmoves.launches, hmoves.regs, hmoves.rest_eq⟩
  · obtain ⟨t, u, ht, hends, hphases, hopenPh, hstate, hmoves⟩ :=
      exec_phaseClosePacket_of_lead h htype hsub hlead rfl hx hopen hcancels
    exact ⟨t, u, ht, hends, hphases, hopenPh, hstate, hmoves.queues, hmoves.launches, hmoves.regs, hmoves.rest_eq⟩
  · obtain ⟨u, hu, hstate, hphase, hopenPh, hphases, hgrove, hcallq, hmoves⟩ := exec_jobOpen_of_off hj hoff
    exact ⟨u.finish, hu, hstate, hphase, hopenPh, hphases, hgrove, hcallq, hmoves.queues, hmoves.launches, hmoves.regs,
      hmoves.rest_eq⟩
  · rw [exec_jobOpen, jobOpen_of_not_off hoff]
  · obtain ⟨u, hu, hstate, hphases, hmoves⟩ := exec_jobReopen_of_frozen hj hfrozen
    exact ⟨u.finish, hu, hstate, hphases, hmoves.queues, hmoves.launches, hmoves.regs, hmoves.rest_eq⟩
  · rw [exec_jobReopen, jobReopen_of_not_frozen hfrozen]

end Sys2Proof.Machine.WorkQueues
end

section
/-!
PROOFS. Acceptance of a launch: what it makes of the header that it reads, and what it leaves of the launch
(02 R42, R44, R53, R57, R59).
-/

namespace Sys2Proof.Machine.WorkLaunches

open Sys2Proof.Machine.WorkQueues

/-- Acceptance has made `l'` of `l`: only what it reads, the blocks to run, and its end have changed. -/
def Accepted (l l' : Launch) : Prop :=
  { l' with hdr := l.hdr, hdrRead := l.hdrRead, khw := l.khw, ped := l.ped, cbdesc := l.cbdesc, xbase := l.xbase,
            xsize := l.xsize, blocksLeft := l.blocksLeft, status := l.status, cancelled := l.cancelled,
            stage := l.stage, noPrio := l.noPrio } = l

theorem Accepted.trans {l l' l'' : Launch} (h : Accepted l l') (h' : Accepted l' l'') : Accepted l l'' := by
  unfold Accepted at *
  rw [← h, ← h']

/-- A launch that acceptance leaves waiting keeps the header that was read, and its status. -/
structure Waits (l l' : Launch) : Prop where
  hdr : l'.hdr = l.hdr
  hdrRead : l'.hdrRead = l.hdrRead
  status : l'.status = l.status

/-- Acceptance of `l` after a part of it: `l'`, which waits only if nothing in that part ended it. -/
structure AcceptsTo (l l' : Launch) : Prop where
  kept : Accepted l l'
  waits : l'.stage = .waiting → Waits l l'

theorem AcceptsTo.refl (l : Launch) : AcceptsTo l l := ⟨rfl, fun _ => ⟨rfl, rfl, rfl⟩⟩

theorem acceptsTo_end (st : BitVec 16) (l : Launch) : AcceptsTo l (l.end st) := ⟨rfl, fun h => by cases h⟩

/-- A part of acceptance follows one that only reads. -/
theorem AcceptsTo.after {l m l' : Launch} (h : AcceptsTo m l') (hm : Accepted l m) (hw : Waits l m) : AcceptsTo l l' :=
  ⟨hm.trans h.kept, fun hl =>
    ⟨(h.waits hl).hdr.trans hw.hdr, (h.waits hl).hdrRead.trans hw.hdrRead, (h.waits hl).status.trans hw.status⟩⟩

section Rest
variable {s : State}

theorem descs_acceptsTo {asid fuel n : Nat} {l l' : Launch} (h : State.acceptRest.descs s asid fuel n l = some l') :
    AcceptsTo l l' := by
  induction fuel generalizing n l with
  | zero =>
    cases h
    exact .refl _
  | succ fuel ih =>
    rw [State.acceptRest.descs] at h
    split at h
    · split at h
      · cases h
      · cases h; exact acceptsTo_end _ l
    · split at h
      · cases h; exact acceptsTo_end _ l
      · exact (ih h).after rfl ⟨rfl, rfl, rfl⟩

theorem blocks_of_hdr {l l' : Launch} (h : l'.hdr = l.hdr) : l'.clusters * l'.clSize = l.clusters * l.clSize := by
  simp only [Launch.clusters, Launch.clSize, Launch.gridx, Launch.gridy, Launch.gridz, Launch.clx, Launch.cly, Launch.clz,
    Launch.fld, h]

/-- What acceptance has come to once the header is read: a launch that goes on to wait has its blocks. -/
def Finished (l l' : Launch) : Prop :=
  AcceptsTo l l' ∧ (l'.stage = .waiting → l'.blocksLeft = l.clusters * l.clSize)

theorem finished_of_ending {l l' : Launch} (h : Accepted l l') (hend : l'.stage = .ending) : Finished l l' :=
  ⟨⟨h, fun hw => by rw [hend] at hw; cases hw⟩, fun hw => by rw [hend] at hw; cases hw⟩

/-- Acceptance after the header keeps it, and gives a launch that goes on to wait its blocks. -/
theorem acceptRest_finished {l l' : Launch} (h : s.acceptRest l = some l') : Finished l l' := by
  unfold State.acceptRest at h
  dsimp only at h
  split at h
  · split at h
    · cases h
    · cases h; exact finished_of_ending rfl rfl
  · split at h
    · cases h; exact finished_of_ending rfl rfl
    · split at h
      · cases h; exact finished_of_ending rfl rfl
      · split at h
        · split at h
          · cases h
          · cases h; exact finished_of_ending rfl rfl
        · split at h
          · cases h; exact finished_of_ending rfl rfl
          · split at h
            · cases h
            · rename_i m hdescs
              have hto : AcceptsTo l m := (descs_acceptsTo hdescs).after rfl ⟨rfl, rfl, rfl⟩
              split at h
              · rename_i hend
                cases h; exact finished_of_ending hto.kept hend
              · split at h
                · cases h; exact finished_of_ending (hto.kept.trans rfl) rfl
                · cases h
                  exact ⟨⟨hto.kept.trans rfl, fun hw => ⟨(hto.waits hw).hdr, (hto.waits hw).hdrRead, (hto.waits hw).status⟩⟩,
                    fun hw => blocks_of_hdr (hto.waits hw).hdr⟩

end Rest

section Header
variable {s : State} {l : Launch} {va : Nat} {frozen : Bool}

/-- A launch whose header has been read (02 R53). -/
def withHeader (s : State) (h : Nat) (l : Launch) : Launch :=
  { l with noPrio := false, hdr := BitVec.ofNat 1024 h, hdrRead := true, xbase := s.regF (xOff l.job) 0 16,
           xsize := s.regF (xOff l.job + 4) 0 16 }

theorem accepted_withHeader (s : State) (h : Nat) (l : Launch) : Accepted l (withHeader s h l) := rfl

/-- Acceptance of a launch whose header is read. -/
theorem accept_of_read {bs : List Byte} (h : s.vRead (via (s.jAsid l.job)) va 128 = .ok bs) : s.accept l va frozen =
    if frozen then some { (withHeader s (leNat bs) l).end stCancelled with
      cancelled := true, noPrio := !(withHeader s (leNat bs) l).headerOk va }
    else if !(withHeader s (leNat bs) l).headerOk va then
      some { (withHeader s (leNat bs) l).end stFormat with noPrio := true }
    else s.acceptRest (withHeader s (leNat bs) l) := by
  simp only [State.accept, h]
  rfl

/-- Acceptance of a launch whose header cannot be read. -/
theorem accept_of_fault {f : FaultInfo} (h : s.vRead (via (s.jAsid l.job)) va 128 = .error f) :
    s.accept l va frozen = if f = heldFault then none else some { l.end (f.code.setWidth 16) with noPrio := true } := by
  simp only [State.accept, h]

theorem accept_accepted {l' : Launch} (h : s.accept l va frozen = some l') : Accepted l l' := by
  cases hread : s.vRead (via (s.jAsid l.job)) va 128 with
  | error f =>
    rw [accept_of_fault hread] at h
    split at h
    · cases h
    · cases h; rfl
  | ok bs =>
    rw [accept_of_read hread] at h
    split at h
    · cases h; rfl
    · split at h
      · cases h; rfl
      · exact (accepted_withHeader s _ l).trans (acceptRest_finished h).1.kept

/-- A launch that is only read is at its end (02 R59; 03 R66). -/
theorem accept_frozen_ending {l' : Launch} (h : s.accept l va true = some l') : l'.stage = .ending := by
  cases hread : s.vRead (via (s.jAsid l.job)) va 128 with
  | error f =>
    rw [accept_of_fault hread] at h
    split at h
    · cases h
    · cases h; rfl
  | ok bs =>
    rw [accept_of_read hread, if_pos rfl] at h
    cases h; rfl

/-- The limits of 02 R44 on the header's own fields. -/
theorem headerOk_limits {l : Launch} {va : Nat} (h : l.headerOk va = true) :
    (l.fld 0 2 = 3 ∧ l.flags < 4 ∧ l.fld 0x58 8 = 0 ∧ 1 ≤ l.nrole ∧ l.nrole ≤ 4 ∧ l.hprio ≤ 7 ∧ l.tiles ≤ 32 ∧
      l.cbufs ≤ 16 ∧ l.barsN ≤ 16) ∧
    (0 < l.clusters ∧ 0 < l.clSize ∧ l.clSize ≤ 16 ∧ l.clusters * l.clSize ≤ 2 ^ 32 - 1) ∧
    va % 128 = 0 ∧ l.code % 128 = 0 ∧ l.recordA % 64 = 0 ∧ l.signalA % 8 = 0 ∧ l.lsize % 16 = 0 ∧ l.kscr % 128 = 0 ∧
      l.qscr % 128 = 0 := by
  simp only [Launch.headerOk, Bool.and_eq_true, beq_iff_eq, decide_eq_true_eq, and_assoc] at h
  obtain ⟨hver, hflags, hzero, hrole, hroles, -, -, hclusters, hsize, hsizes, hblocks, -, htiles, hcbufs, hbars, hprio,
    hva, hcode, hrecord, hsignal, hlsize, hkscr, hqscr⟩ := h
  exact ⟨⟨hver, by omega, hzero, hrole, hroles, hprio, htiles, hcbufs, hbars⟩, ⟨hclusters, hsize, hsizes, hblocks⟩,
    hva, hcode, hrecord, hsignal, hlsize, hkscr, hqscr⟩

theorem leNat_natLe (n x : Nat) : leNat (natLe n x) = x % 256 ^ n := by
  induction n generalizing x with
  | zero => simp [natLe, leNat, Nat.mod_one]
  | succ n ih =>
    rw [natLe, leNat, ih, BitVec.toNat_ofNat, pow_succ' 256 n, Nat.mod_mul]

theorem toNat_ofNat_of_lt {w x : Nat} (h : x < 2 ^ w) : (BitVec.ofNat w x).toNat = x := by
  rw [BitVec.toNat_ofNat, Nat.mod_eq_of_lt h]

/-- The header's fields are the bytes at their offsets (02 R42). -/
theorem withHeader_fld {h : Nat} (hh : h < 2 ^ 1024) (s : State) (l : Launch) (o n : Nat) :
    (withHeader s h l).fld o n = h / 2 ^ (8 * o) % 2 ^ (8 * n) := by
  rw [Launch.fld, withHeader, toNat_ofNat_of_lt hh, bitsOf]

theorem leNat_natLe_of_lt {n w x : Nat} (hw : w = 8 * n) (h : x < 2 ^ w) : leNat (natLe n x) = x := by
  rw [leNat_natLe, Nat.mod_eq_of_lt]
  rwa [show (256 : Nat) = 2 ^ 8 from rfl, ← pow_mul, ← hw]

theorem leNat_natLe_toNat {n w : Nat} (hw : w = 8 * n) (d : BitVec w) : leNat (natLe n d.toNat) = d.toNat :=
  leNat_natLe_of_lt hw d.isLt

/-- Acceptance ends a launch whose header cannot be read with the fault's code (02 R57). -/
theorem accept_unreadable {f : FaultInfo} (hst : l.status = 0)
    (h : s.vRead (via (s.jAsid l.job)) va 128 = .error f) (hf : f ≠ heldFault) :
    ∃ l', s.accept l va frozen = some l' ∧ l'.status = f.code.setWidth 16 ∧ l'.stage = .ending := by
  rw [accept_of_fault h, if_neg hf]
  exact ⟨_, rfl, if_pos hst, rfl⟩

/-- Acceptance of a launch of a FROZEN job (02 R59). -/
theorem accept_frozen {bs : List Byte} (hst : l.status = 0) (h : s.vRead (via (s.jAsid l.job)) va 128 = .ok bs) :
    ∃ l', s.accept l va true = some l' ∧ l'.status = 0x14 ∧ l'.cancelled = true ∧ l'.stage = .ending := by
  rw [accept_of_read h, if_pos rfl]
  exact ⟨_, rfl, if_pos hst, rfl, rfl⟩

/-- Acceptance of a launch whose header breaks 02 R44. -/
theorem accept_bad_header {bs : List Byte} (hst : l.status = 0)
    (h : s.vRead (via (s.jAsid l.job)) va 128 = .ok bs) (hbad : (withHeader s (leNat bs) l).headerOk va = false) :
    ∃ l', s.accept l va false = some l' ∧ l'.status = 0x16 ∧ l'.stage = .ending := by
  rw [accept_of_read h, if_neg Bool.false_ne_true, if_pos (by rw [hbad]; rfl)]
  exact ⟨_, rfl, if_pos hst, rfl⟩

/-- A launch that acceptance leaves waiting has its header and its blocks (02 R53, R54). -/
theorem accept_waiting {bs : List Byte} {l' : Launch} (h : s.vRead (via (s.jAsid l.job)) va 128 = .ok bs)
    (hl : s.accept l va frozen = some l') (hw : l'.stage = .waiting) :
    Waits (withHeader s (leNat bs) l) l' ∧
      l'.blocksLeft = (withHeader s (leNat bs) l).clusters * (withHeader s (leNat bs) l).clSize := by
  rw [accept_of_read h] at hl
  split at hl
  · cases hl; cases hw
  · split at hl
    · cases hl; cases hw
    · exact ⟨(acceptRest_finished hl).1.waits hw, (acceptRest_finished hl).2 hw⟩

/-- A header outside the limits of 02 R44. -/
theorem headerOk_of_bad {h : Nat} (hh : h < 2 ^ 1024) (s : State) (l : Launch) (va : Nat) :
    let byte (o n : Nat) : Nat := h / 2 ^ (8 * o) % 2 ^ (8 * n)
    let clusters := byte 0x10 4 * byte 0x14 4 * byte 0x18 4
    let size := byte 0x1C 1 * byte 0x1D 1 * byte 0x1E 1
    byte 0 2 ≠ 3 ∨ 4 ≤ byte 2 2 ∨ byte 4 1 = 0 ∨ 4 < byte 4 1 ∨ 7 < byte 5 1 ∨
        32 < byte 6 1 ∨ 16 < byte 7 1 ∨ clusters = 0 ∨ size = 0 ∨ 16 < size ∨
        2 ^ 32 - 1 < clusters * size ∨ 16 < byte 0x1F 1 ∨ byte 0x58 8 ≠ 0 ∨ va % 128 ≠ 0 ∨
        byte 8 8 % 128 ≠ 0 ∨ byte 0x40 8 % 64 ≠ 0 ∨ byte 0x48 8 % 8 ≠ 0 ∨ byte 0x28 4 % 16 ≠ 0 ∨
        byte 0x20 4 % 128 ≠ 0 ∨ byte 0x24 4 % 128 ≠ 0 →
      (withHeader s h l).headerOk va = false := by
  intro byte clusters size hbad
  refine Bool.eq_false_iff.2 fun hok => ?_
  obtain ⟨⟨hver, hflags, hzero, hrole, hroles, hprio, htiles, hcbufs, hbars⟩, ⟨hclusters, hsize, hsizes, hblocks⟩,
    hva, hcode, hrecord, hsignal, hlsize, hkscr, hqscr⟩ := headerOk_limits hok
  have hfld : ∀ o n, (withHeader s h l).fld o n = byte o n := withHeader_fld hh s l
  have hgrid : (withHeader s h l).clusters = clusters := by
    simp only [Launch.clusters, Launch.gridx, Launch.gridy, Launch.gridz, hfld]; rfl
  have hcluster : (withHeader s h l).clSize = size := by
    simp only [Launch.clSize, Launch.clx, Launch.cly, Launch.clz, hfld]; rfl
  rw [hgrid] at hclusters hblocks
  rw [hcluster] at hsize hsizes hblocks
  simp only [Launch.flags, Launch.nrole, Launch.hprio, Launch.tiles, Launch.cbufs, Launch.barsN, Launch.code,
    Launch.recordA, Launch.signalA, Launch.lsize, Launch.kscr, Launch.qscr, hfld]
    at hver hflags hzero hrole hroles hprio htiles hcbufs hbars hcode hrecord hsignal hlsize hkscr hqscr
  clear_value clusters size byte
  omega

end Header

end Sys2Proof.Machine.WorkLaunches
end

section
/-!
PROOFS. Packets as they are read: LAUNCH and GRAPH packets, and the nodes of a graph (02 R39; 03 R62, R65, R66).
-/

namespace Sys2Proof.Machine.WorkLaunches

open Sys2Proof.Machine.WorkQueues

section Peek
variable {q : Nat} {d : BitVec 512} {s : State} (h : NextPacket q d s)
include h

theorem nextPacket_pkt_none : s.pkt q (s.qHead q).toNat = none :=
  List.find?_eq_none.2 fun p hp => by simpa using (h.free p hp).1

theorem nextPacket_not_waiting : (s.queue q).waiting = false := by
  rw [QState.waiting, List.any_eq_false]
  intro p hp
  by_cases ht : pkType p.data = 4
  · simp [(h.free p hp).2 ht]
  · simp [ht]

theorem nextPacket_mayRead : s.mayRead q = true := by
  simp [State.mayRead, Config.queues, h.range, h.host, h.enabled, h.thawed, h.job, h.more, h.tail, nextPacket_not_waiting h]

/-- The packet at HEAD of a queue that has room for it in its graph slots (03 R62, R66). -/
theorem nextPacket_peek (hslots : s.slotsUsed < Config.graphSlots ∨ (pkType d ≠ 1 ∧ (s.queue q).fill = none)) :
    s.peekPacket q = some (.ok d) := by
  have hbits : BitVec.ofNat 512 (leNat (natLe 64 d.toNat)) = d := by
    rw [leNat_natLe_toNat rfl, BitVec.ofNat_toNat, BitVec.setWidth_eq]
  have hroom : ((pkType d == 1 || (s.queue q).fill.isSome) && decide (Config.graphSlots ≤ s.slotsUsed)) = false := by
    rcases hslots with hs | ⟨ht, hf⟩
    · simp [hs]
    · simp [ht, hf]
  simp only [State.peekPacket, nextPacket_mayRead h, h.read, hbits, h.valid, hroom]
  rfl

end Peek

section Enter
variable {q : Nat} {d : BitVec 512} {s : State}

theorem tset_tset {β : Type} (k : Nat) (v w : β) (t : Tbl β) : tset k v (tset k w t) = tset k v t := by
  unfold tset
  induction t with
  | nil => simp [finsert]
  | cons e t ih =>
    obtain ⟨a, x⟩ := e
    simp only [finsert]
    split
    · simp [finsert]
    · split
      · simp [finsert]
      · rename_i h1 h2
        simp [finsert, h1, h2, ih]

theorem modGraph_of_tget {g : Nat} {x : Graph} (h : tget g s.graphs = some x) (f : Graph → Graph) :
    s.modGraph g f = { s with graphs := tset g (f x) s.graphs } := by
  rw [State.modGraph, h]

/-- The graph of one launch that a LAUNCH packet forms (02 R39). -/
def lone (s : State) (q : Nat) : Graph :=
  { job := s.qJob q, phase := s.jPhase (s.qJob q), count := 1, read := 1, left := 1, queue := q,
    pkt := none, nodes := [], badNode := false, checked := true, cancelled := false }

/-- One more graph of the open phase of a job (02 R39). -/
def countGraph (j num : Nat) (ps : List Phase) : List Phase :=
  ps.map (fun y => if y.job = j ∧ y.num = num then { y with left := y.left + 1 } else y)

/-- The state in which that graph is open. -/
def loneOpened (q : Nat) (s : State) : State :=
  { s with nextGraph := s.nextGraph + 1, graphs := tset s.nextGraph (lone s q) s.graphs,
           phases := countGraph (s.qJob q) (s.jPhase (s.qJob q)) s.phases }

theorem loneGraph_eq (q : Nat) (s : State) : s.loneGraph q = (s.nextGraph, loneOpened q s) := by
  simp only [State.loneGraph, State.newGraph]
  rw [modGraph_of_tget (tget_tset_self _ _ _)]
  simp only [State.modPhase, tset_tset]
  rfl

theorem fillFrozen_of_none (h : (s.queue q).fill = none) : s.fillFrozen q = none := by
  simp only [State.fillFrozen, h]

/-- A packet read outside a graph, that is no LAUNCH. -/
theorem enterPacket_other (hjob : s.jState (s.qJob q) = 1) (hfill : (s.queue q).fill = none) (ht : pkType d ≠ 1) :
    s.enterPacket q d = s.packetIn q d := by
  have hl : (pkType d == 1) = false := by simpa using ht
  have hno : (1 == 3) = false := rfl
  simp only [State.enterPacket, hfill, fillFrozen_of_none hfill, hl, hno, Option.isNone_none, Option.isSome_none,
    Bool.and_false, Bool.or_false, Bool.false_eq_true, if_false, false_and, or_false, hjob]
  rfl

/-- A LAUNCH packet read outside a graph forms its graph and takes a slot. -/
theorem enterPacket_launch (hjob : s.jState (s.qJob q) = 1) (hfill : (s.queue q).fill = none) (ht : pkType d = 1) :
    s.enterPacket q d =
      State.packetIn q d { loneOpened q s with slotsUsed := s.slotsUsed + 1 } (some s.nextGraph) := by
  have hl : (pkType d == 1) = true := by simpa using ht
  have hno : ((loneOpened q s).jState ((loneOpened q s).qJob q) == 3) = false := by
    change (s.jState (s.qJob q) == 3) = false
    rw [hjob]; rfl
  simp only [State.enterPacket, hfill, fillFrozen_of_none hfill, hl, loneGraph_eq, hno, Option.isNone_none,
    Option.isSome_none, Bool.and_true, Bool.or_false, Bool.false_eq_true, if_false, if_true, true_or]
  rfl

/-- The node of an unchecked graph that a queue is filling (03 R66). -/
def nodePkt (q : Nat) (d : BitVec 512) (g : Nat) (s : State) : Pkt :=
  { num := (s.qHead q).toNat, data := d, st := .held, refs := [], node := some g, graph := none, cancel := false }

/-- The state in which that node is read, before the graph is full. -/
def nodeIn (q : Nat) (d : BitVec 512) (g : Nat) (x : Graph) (s : State) : State :=
  { (s.setReg (qOff q + 0x14) (s.qHead q + 1)).modQueue q (fun y =>
      { y with pkts := y.pkts ++ [nodePkt q d g s], kinds := y.kinds ++ [pkType d] }) with
    slotsUsed := s.slotsUsed + 1, graphs := tset g { x with read := x.read + 1 } s.graphs }

theorem fillFrozen_of_unchecked {g : Nat} {x : Graph} (hfill : (s.queue q).fill = some g)
    (hx : tget g s.graphs = some x) (hc : x.checked = false) : s.fillFrozen q = none := by
  simp [State.fillFrozen, hfill, hx, hc]

theorem enterPacket_node {g : Nat} {x : Graph} (hjob : s.jState (s.qJob q) = 1) (hfill : (s.queue q).fill = some g)
    (hx : tget g s.graphs = some x) (hc : x.checked = false) (ht : pkType d = 1) : s.enterPacket q d =
      if x.count ≤ x.read + 1 then (nodeIn q d g x s).modQueue q (fun y => { y with fill := none })
      else nodeIn q d g x s := by
  have hl : (pkType d == 1) = true := by simpa using ht
  have hno : (s.jState (s.qJob q) == 3) = false := by rw [hjob]; rfl
  simp only [State.enterPacket, hfill, fillFrozen_of_unchecked hfill hx hc, hl, hno, Option.isNone_some,
    Option.isSome_none, Bool.false_and, Bool.or_false, Bool.false_eq_true, if_false, true_or, if_true, Bool.not_true,
    State.modQueue_graphs, State.setReg_graphs, hx, Option.map_some,
    Option.getD_some, decide_eq_true_eq]
  rw [modGraph_of_tget (x := x)]
  · rfl
  · simpa only [State.modQueue_graphs, State.setReg_graphs] using hx

end Enter

section Read
variable {q : Nat} {d : BitVec 512} {s : State} {want : BitVec 512 → Bool}

theorem find?_append_of_none {l : List Pkt} {n : Nat} {p : Pkt} (h : l.find? (fun y => y.num == n) = none)
    (hp : p.num = n) : (l ++ [p]).find? (fun y => y.num == n) = some p := by
  rw [List.find?_append, h, Option.none_or]
  simp [hp]

theorem packetIn_queue (g : Option Nat) : (s.packetIn q d g).queue q = { s.queue q with
    pkts := (s.queue q).pkts ++ [{ num := (s.qHead q).toNat, data := d, st := .held, refs := [], node := none,
                                   graph := g, cancel := false }],
    kinds := (s.queue q).kinds ++ [pkType d] } := by
  rw [State.packetIn, State.modQueue_queue_self]
  rfl

/-- The packet that has just been read. -/
theorem packetIn_pkt (g : Option Nat) (h : s.pkt q (s.qHead q).toNat = none) :
    (s.packetIn q d g).pkt q (s.qHead q).toNat = some
      { num := (s.qHead q).toNat, data := d, st := .held, refs := [], node := none, graph := g, cancel := false } := by
  rw [State.pkt, packetIn_queue]
  exact find?_append_of_none h rfl

/-- A packet is taken as it is read: what follows is what its reading leaves. -/
theorem takePacket_next {t : State} {p : Pkt} (h : NextPacket q d s) (hw : want d = true)
    (hpeek : s.peekPacket q = some (.ok d)) (henter : s.enterPacket q d = t)
    (hp : t.pkt q (s.qHead q).toNat = some p) (hnode : p.node = none) (ht : pkType d ≠ 2) :
    s.takePacket q (s.qHead q).toNat want = (some p, t) := by
  simp only [State.takePacket, nextPacket_pkt_none h, ne_eq, not_true_eq_false, if_false, hpeek, hw, henter, hp, hnode,
    ht, Bool.not_true, Bool.false_eq_true, Option.isSome_none, false_and]

theorem takePacket_next_node {t : State} (h : NextPacket q d s) (hw : want d = true)
    (hpeek : s.peekPacket q = some (.ok d)) (henter : s.enterPacket q d = t)
    (hp : ∀ p, t.pkt q (s.qHead q).toNat = some p → p.node.isSome = true) :
    s.takePacket q (s.qHead q).toNat want = (none, t) := by
  simp only [State.takePacket, nextPacket_pkt_none h, ne_eq, not_true_eq_false, if_false, hpeek, hw, henter,
    Bool.not_true, Bool.false_eq_true]
  cases hpkt : t.pkt q (s.qHead q).toNat with
  | none => rfl
  | some p => simp only [hp p hpkt, if_true]

/-- A GRAPH packet that is read opens its graph at once. -/
theorem takePacket_next_graph {t : State} {p : Pkt} (h : NextPacket q d s) (hw : want d = true)
    (hpeek : s.peekPacket q = some (.ok d)) (henter : s.enterPacket q d = t)
    (hp : t.pkt q (s.qHead q).toNat = some p) (hnode : p.node = none) (hgraph : p.graph = none)
    (hcancel : p.cancel = false) (ht : pkType d = 2) : s.takePacket q (s.qHead q).toNat want =
      ((t.openGraph q (s.qHead q).toNat d).pkt q (s.qHead q).toNat, t.openGraph q (s.qHead q).toNat d) := by
  simp only [State.takePacket, nextPacket_pkt_none h, ne_eq, not_true_eq_false, if_false, hpeek, hw, henter, hp, hnode,
    ht, hgraph, hcancel, Bool.not_true, Bool.false_eq_true, Option.isSome_none, Option.isNone_none, Bool.false_and,
    Bool.not_false, and_self, if_true]

end Read

section Graphs
variable {q n : Nat} {d : BitVec 512} {s : State} {p : Pkt}

/-- The graph that a GRAPH packet opens (03 R66). -/
def graphOf (q n count : Nat) (s : State) : Graph :=
  { job := s.qJob q, phase := s.jPhase (s.qJob q), count := count, read := 0, left := count, queue := q,
    pkt := some n, nodes := [], badNode := false, checked := false, cancelled := false }

/-- The state in which that graph is open, before the queue knows. -/
def graphStart (q n count : Nat) (s : State) : State :=
  { s with graphs := tset s.nextGraph (graphOf q n count s) s.graphs, nextGraph := s.nextGraph + 1,
           phases := countGraph (s.qJob q) (s.jPhase (s.qJob q)) s.phases }

/-- The state in which the queue fills that graph. -/
def graphOpened (q n count : Nat) (s : State) : State :=
  ((graphStart q n count s).modQueue q (fun x => { x with fill := some s.nextGraph })).modPkt q n
    (fun p => { p with refs := [s.nextGraph], st := .acting })

theorem openGraph_eq (hfill : (s.queue q).fill = none) (hp : s.pkt q n = some p) (hc : p.cancel = false) :
    s.openGraph q n d = graphOpened q n (pkCount d) s := by
  simp only [State.openGraph, hfill, hp, hc, State.newGraph, State.modPhase, Option.any_some, Option.isSome_none,
    Bool.false_eq_true, if_false]
  rfl

theorem modPkt_queue_self (f : Pkt → Pkt) : (s.modPkt q n f).queue q =
    { s.queue q with pkts := (s.queue q).pkts.map (fun y => if y.num = n then f y else y) } := by
  rw [State.modPkt, State.modQueue_queue_self]

theorem modPkt_queue_of_ne {k : Nat} (hk : k ≠ q) (f : Pkt → Pkt) : (s.modPkt q n f).queue k = s.queue k :=
  s.modQueue_queue_of_ne hk _

/-- The packet of a number after a change of it. -/
theorem modPkt_pkt (f : Pkt → Pkt) (hf : ∀ y, (f y).num = y.num) (hp : s.pkt q n = some p) :
    (s.modPkt q n f).pkt q n = some (f p) := by
  have hnum : p.num = n := by simpa using List.find?_some hp
  have hpred : ((fun y : Pkt => y.num == n) ∘ fun y => if y.num = n then f y else y) = fun y => y.num == n := by
    funext y
    simp only [Function.comp]
    split
    · rw [hf]
    · rfl
  rw [State.pkt, modPkt_queue_self, List.find?_map, hpred]
  rw [State.pkt] at hp
  rw [hp, Option.map_some, if_pos hnum]

theorem graphOpened_queue (count : Nat) : (graphOpened q n count s).queue q = { s.queue q with
    pkts := (s.queue q).pkts.map (fun y => if y.num = n then { y with refs := [s.nextGraph], st := .acting } else y),
    fill := some s.nextGraph } := by
  rw [graphOpened, modPkt_queue_self, State.modQueue_queue_self]
  rfl

theorem graphOpened_pkt (count : Nat) (hp : s.pkt q n = some p) :
    (graphOpened q n count s).pkt q n = some { p with refs := [s.nextGraph], st := .acting } := by
  refine modPkt_pkt _ (fun _ => rfl) ?_
  rw [State.pkt, State.modQueue_queue_self]
  exact hp

end Graphs

end Sys2Proof.Machine.WorkLaunches
end

section
/-!
PROOFS. LAUNCH_PACKET and GRAPH_PACKET: what the step of a packet comes to that is read, or that may act (02 R39, R42,
R53; 03 R65 to R67).
-/

namespace Sys2Proof.Machine.WorkLaunches

open Sys2Proof.Machine.WorkQueues

theorem exec_launchPacket (q n : Nat) (s : State) : exec (.launchPacket q n) s = .next (evLaunchPacket q n s).finish := rfl

theorem exec_graphPacket (q n : Nat) (s : State) : exec (.graphPacket q n) s = .next (evGraphPacket q n s).finish := rfl

theorem evLaunchPacket_of_taken {q n : Nat} {s t : State} {p : Pkt} (h : s.takePacket q n (isType 1) = (some p, t)) :
    evLaunchPacket q n s =
      if p.st == .held && (p.graph.any (t.packetOff q p) || t.mayAct q p) then t.launchAlone q p else t := by
  simp only [evLaunchPacket, h]

theorem evGraphPacket_of_taken {q n : Nat} {s t : State} {p : Pkt} (h : s.takePacket q n (isType 2) = (some p, t)) :
    evGraphPacket q n s = if p.st ≠ .held then t else t.openGraph q n p.data := by
  simp only [evGraphPacket, h]

section Reading
variable {q : Nat} {d : BitVec 512} {s : State} (h : NextPacket q d s)
include h

/-- The state in which the graph of a LAUNCH packet is formed and has its slot (02 R39; 03 R66). -/
def launchOpened (q : Nat) (s : State) : State := { loneOpened q s with slotsUsed := s.slotsUsed + 1 }

/-- The state in which a LAUNCH packet is read. -/
def launchRead (q : Nat) (d : BitVec 512) (s : State) : State := (launchOpened q s).packetIn q d (some s.nextGraph)

omit h in
theorem launchOpened_pkt (q k n : Nat) (s : State) : (launchOpened q s).pkt k n = s.pkt k n := rfl

theorem launchRead_pkt : (launchRead q d s).pkt q (s.qHead q).toNat = some
    { num := (s.qHead q).toNat, data := d, st := .held, refs := [], node := none, graph := some s.nextGraph,
      cancel := false } :=
  packetIn_pkt (s := launchOpened q s) (some s.nextGraph)
    ((launchOpened_pkt q q _ s).trans (nextPacket_pkt_none h))

/-- LAUNCH_PACKET of the next packet reads it, and is then LAUNCH_PACKET of a packet that is read (03 R62). -/
theorem evLaunchPacket_next (hfill : (s.queue q).fill = none) (ht : pkType d = 1)
    (hslots : s.slotsUsed < Config.graphSlots) :
    evLaunchPacket q (s.qHead q).toNat s = evLaunchPacket q (s.qHead q).toNat (launchRead q d s) := by
  have hw : isType 1 d = true := by simp [isType, ht]
  have hp := launchRead_pkt h
  rw [evLaunchPacket_of_taken (takePacket_next h hw (nextPacket_peek h (.inl hslots))
      (enterPacket_launch h.job hfill ht) hp rfl (by rw [ht]; decide)),
    evLaunchPacket_of_taken (takePacket_read hp hw rfl (fun hst => by cases hst))]
  rfl

/-- GRAPH_PACKET of the next packet reads it, and is then GRAPH_PACKET of a packet that is read (03 R62, R66). -/
theorem evGraphPacket_next (hfill : (s.queue q).fill = none) (ht : pkType d = 2) :
    evGraphPacket q (s.qHead q).toNat s = evGraphPacket q (s.qHead q).toNat (s.packetIn q d) := by
  have hw : isType 2 d = true := by simp [isType, ht]
  have hp := packetIn_pkt (d := d) none (nextPacket_pkt_none h)
  have hfill' : ((s.packetIn q d).queue q).fill = none := by rw [packetIn_queue]; exact hfill
  have hopen := openGraph_eq (d := d) hfill' hp rfl
  have htake := takePacket_next_graph h hw (nextPacket_peek h (.inr ⟨by rw [ht]; decide, hfill⟩))
    (enterPacket_other h.job hfill (by rw [ht]; decide)) hp rfl rfl rfl ht
  rw [hopen, graphOpened_pkt _ hp] at htake
  rw [evGraphPacket_of_taken htake, evGraphPacket_of_taken (takePacket_read hp hw rfl (fun hst => by cases hst)),
    if_pos (fun hst => by cases hst), if_neg (fun hst => hst rfl), hopen]

end Reading

section Nodes
variable {q g : Nat} {d : BitVec 512} {s : State} {x : Graph}

/-- The state in which a node is read; the queue fills the graph no longer when it is full (03 R66). -/
def nodeRead (q : Nat) (d : BitVec 512) (g : Nat) (x : Graph) (s : State) : State :=
  if x.count ≤ x.read + 1 then (nodeIn q d g x s).modQueue q (fun y => { y with fill := none }) else nodeIn q d g x s

theorem queue_of_slots_and_graphs (k n : Nat) (gs : List (Nat × Graph)) (t : State) :
    ({ t with slotsUsed := n, graphs := gs } : State).queue k = t.queue k := rfl

theorem nodeIn_queue_self : (nodeIn q d g x s).queue q = { s.queue q with
    pkts := (s.queue q).pkts ++ [nodePkt q d g s], kinds := (s.queue q).kinds ++ [pkType d] } := by
  rw [nodeIn, queue_of_slots_and_graphs, State.modQueue_queue_self, setReg_queue]

theorem nodeIn_queue_of_ne {k : Nat} (hk : k ≠ q) : (nodeIn q d g x s).queue k = s.queue k := by
  rw [nodeIn, queue_of_slots_and_graphs, State.modQueue_queue_of_ne _ hk, setReg_queue]

theorem nodeRead_queue_self (hfill : (s.queue q).fill = some g) : (nodeRead q d g x s).queue q = { s.queue q with
    pkts := (s.queue q).pkts ++ [nodePkt q d g s], kinds := (s.queue q).kinds ++ [pkType d],
    fill := if x.read + 1 < x.count then some g else none } := by
  unfold nodeRead
  split
  · rw [State.modQueue_queue_self, nodeIn_queue_self, if_neg (by omega)]
  · rw [nodeIn_queue_self, if_pos (by omega), ← hfill]

theorem nodeRead_queue_of_ne {k : Nat} (hk : k ≠ q) : (nodeRead q d g x s).queue k = s.queue k := by
  unfold nodeRead
  split
  · rw [State.modQueue_queue_of_ne _ hk, nodeIn_queue_of_ne hk]
  · exact nodeIn_queue_of_ne hk

theorem nodeRead_frame (q g : Nat) (d : BitVec 512) (s : State) (x : Graph) :
    ∃ qs, nodeRead q d g x s = { s.setReg (qOff q + 0x14) (s.qHead q + 1) with
      queues := qs, slotsUsed := s.slotsUsed + 1, graphs := tset g { x with read := x.read + 1 } s.graphs } := by
  unfold nodeRead
  split <;> exact ⟨_, rfl⟩

/-- LAUNCH_PACKET of a node only reads it (03 R66). -/
theorem evLaunchPacket_node (h : NextPacket q d s) (hfill : (s.queue q).fill = some g)
    (hx : tget g s.graphs = some x) (hc : x.checked = false) (ht : pkType d = 1)
    (hslots : s.slotsUsed < Config.graphSlots) :
    evLaunchPacket q (s.qHead q).toNat s = nodeRead q d g x s := by
  have hfind : (nodeRead q d g x s).pkt q (s.qHead q).toNat = some (nodePkt q d g s) := by
    rw [State.pkt, nodeRead_queue_self hfill]
    exact find?_append_of_none (nextPacket_pkt_none h) rfl
  have htake := takePacket_next_node (want := isType 1) (t := nodeRead q d g x s) h (by simp [isType, ht])
    (nextPacket_peek h (.inl hslots)) (enterPacket_node h.job hfill hx hc ht)
    (fun p hp => by rw [hfind] at hp; cases hp; rfl)
  simp only [evLaunchPacket, htake]

/-- What the reading of a node changes. -/
theorem exec_launchPacket_node (h : NextPacket q d s) (hfill : (s.queue q).fill = some g)
    (hx : tget g s.graphs = some x) (hc : x.checked = false) (ht : pkType d = 1)
    (hslots : s.slotsUsed < Config.graphSlots) :
    ∃ u, exec (.launchPacket q (s.qHead q).toNat) s = .next (State.finish u) ∧ u.slotsUsed = s.slotsUsed + 1 ∧
      u.queue q = { s.queue q with
        pkts := (s.queue q).pkts ++ [nodePkt q d g s], kinds := (s.queue q).kinds ++ [1],
        fill := if x.read + 1 < x.count then some g else none } ∧
      (∀ k, k ≠ q → u.queue k = s.queue k) ∧ tget g u.graphs = some { x with read := x.read + 1 } ∧
      (∀ k, k ≠ g → tget k u.graphs = tget k s.graphs) ∧ u.qHead q = s.qHead q + 1 ∧
      (∀ o, o % 4 = 0 → o ≠ qOff q + 0x14 → u.reg o = s.reg o) ∧
      ∃ b qs gs n, u = { s with bar2 := b, queues := qs, graphs := gs, slotsUsed := n } := by
  have hqueue := nodeRead_queue_self (d := d) (x := x) hfill
  have hothers : ∀ k, k ≠ q → (nodeRead q d g x s).queue k = s.queue k := fun k hk => nodeRead_queue_of_ne hk
  rw [exec_launchPacket, evLaunchPacket_node h hfill hx hc ht hslots]
  obtain ⟨qs, hframe⟩ := nodeRead_frame q g d s x
  rw [ht] at hqueue
  rw [hframe] at hqueue hothers ⊢
  refine ⟨_, rfl, rfl, hqueue, hothers, tget_tset_self _ _ _, fun k hk => tget_tset_of_ne hk _ _, ?_, ?_, _, _, _, _, rfl⟩
  · exact setReg_reg_self s _ _
  · exact fun o ho hne => setReg_reg_of_offset_ne s ho (by unfold qOff; omega) hne

end Nodes

end Sys2Proof.Machine.WorkLaunches
end

section
/-!
PROOFS. The launch of a LAUNCH packet outside a graph, the graph of a GRAPH packet, and the check of a graph whose nodes
are read (02 R39, R42, R53; 03 R66).
-/

namespace Sys2Proof.Machine.WorkLaunches

open Sys2Proof.Machine.WorkQueues

section Accept
variable {q g k : Nat} {p : Pkt} {s : State} {inGraph bad : Bool}

/-- The launch of a LAUNCH packet, before its header is read (03 R66). -/
def packetLaunch (q : Nat) (p : Pkt) (g k : Nat) (inGraph bad : Bool) (s : State) : Launch :=
  { Launch.new s.nextLaunch (s.qJob q) q (some p.num) g (((tget g s.graphs).map (·.phase)).getD 0) with
    checked := !(inGraph && pkOrder p.data) || bad, node := k,
    preds := if inGraph then pkCount p.data else 0,
    edges := if inGraph && !bad then pkEdges p.data else [] }

/-- An accepted launch: one that fails the rules of its graph ends with FORMAT_INVALID (03 R66). -/
def judged (bad : Bool) (l : Launch) : Launch := if bad then { l with status := stFormat, cancelled := false } else l

/-- The state in which the launch of a packet is accepted. -/
def acceptedIn (q : Nat) (p : Pkt) (l : Launch) (s : State) : State :=
  State.modPkt q p.num (fun y => { y with st := .acting, refs := [l.id], node := none })
    { s with launches := tset l.id l s.launches, nextLaunch := s.nextLaunch + 1 }

theorem acceptPacket_eq : s.acceptPacket q p g k inGraph bad =
    (s.accept (packetLaunch q p g k inGraph bad s) (pkAddr p.data) (s.packetOff q p g || bad)).map
      (fun l => acceptedIn q p (judged bad l) s) := by
  rw [State.acceptPacket]
  change (match s.accept (packetLaunch q p g k inGraph bad s) (pkAddr p.data) (s.packetOff q p g || bad) with
    | none => none | some l => _) = _
  cases s.accept (packetLaunch q p g k inGraph bad s) (pkAddr p.data) (s.packetOff q p g || bad) with
  | none => rfl
  | some l => rfl

theorem acceptedIn_queue (l : Launch) : (acceptedIn q p l s).queue q = { s.queue q with
    pkts := (s.queue q).pkts.map (fun y =>
      if y.num = p.num then { y with st := .acting, refs := [l.id], node := none } else y) } := by
  rw [acceptedIn, modPkt_queue_self]
  rfl

theorem acceptedIn_queue_of_ne {i : Nat} (hi : i ≠ q) (l : Launch) : (acceptedIn q p l s).queue i = s.queue i := by
  rw [acceptedIn, modPkt_queue_of_ne hi]
  rfl

theorem acceptedIn_frame (q : Nat) (p : Pkt) (l : Launch) (s : State) : ∃ qs, acceptedIn q p l s =
    { s with launches := tset l.id l s.launches, nextLaunch := s.nextLaunch + 1, queues := qs } := ⟨_, rfl⟩

theorem accepted_judged (bad : Bool) (l : Launch) : Accepted l (judged bad l) := by
  unfold judged
  split <;> rfl

/-- A launch that fails the rules of its graph has its status, and ends. -/
theorem judged_fails {l0 l : Launch} {va : Nat} {off : Bool} (h : s.accept l0 va (off || true) = some l) :
    (judged true l).status = stFormat ∧ (judged true l).stage = .ending := by
  rw [Bool.or_true] at h
  have hend := accept_frozen_ending h
  exact ⟨rfl, hend⟩

end Accept

section Alone
variable {q g : Nat} {p : Pkt} {s : State} {x : Graph} {bad : Bool} {l : Launch}

/-- The state in which a graph has one more launch. -/
def nodeAdded (g id : Nat) (s : State) : State := s.modGraph g (fun x => { x with nodes := x.nodes ++ [id] })

theorem nodeAdded_acceptedIn (hx : tget g s.graphs = some x) (id : Nat) (L : Launch) :
    nodeAdded g id (acceptedIn q p L s) =
      { acceptedIn q p L s with graphs := tset g { x with nodes := x.nodes ++ [id] } s.graphs } :=
  modGraph_of_tget (s := acceptedIn q p L s) hx _

theorem launchAlone_eq (hgraph : p.graph = some g)
    (hbad : bad = (!s.packetOff q p g && (pkCount p.data != 0 || pkEdges p.data != [])))
    (hl : s.accept (packetLaunch q p g 0 false bad s) (pkAddr p.data) (s.packetOff q p g || bad) = some l) :
    s.launchAlone q p = (nodeAdded g s.nextLaunch (acceptedIn q p (judged bad l) s)).markReady := by
  simp only [State.launchAlone, hgraph, ← hbad, acceptPacket_eq, hl, Option.map_some]
  rfl

theorem packetOff_of_kept (hc : p.cancel = false) (hx : tget g s.graphs = some x) (hxc : x.cancelled = false) :
    s.packetOff q p g = (s.jState (s.qJob q) == 3) := by
  simp [State.packetOff, hc, hx, hxc]

/-- The launch of a held LAUNCH packet outside a graph. -/
theorem exec_launchPacket_alone (h : HeldPacket q p s) (ht : pkType p.data = 1) (hgraph : p.graph = some g)
    (hx : tget g s.graphs = some x)
    (hbad : bad = (!s.packetOff q p g && (pkCount p.data != 0 || pkEdges p.data != [])))
    (hl : s.accept (packetLaunch q p g 0 false bad s) (pkAddr p.data) (s.packetOff q p g || bad) = some l) :
    ∃ u L, exec (.launchPacket q p.num) s = .next (State.finish u) ∧ u.launch s.nextLaunch = some L ∧
      { L with readySince := 0 } = judged bad l ∧
      tget g u.graphs = some { x with nodes := x.nodes ++ [s.nextLaunch] } ∧
      (∀ k, k ≠ g → tget k u.graphs = tget k s.graphs) ∧
      u.queue q = { s.queue q with pkts := (s.queue q).pkts.map (fun y =>
        if y.num = p.num then { y with st := .acting, refs := [s.nextLaunch], node := none } else y) } ∧
      (∀ k, k ≠ q → u.queue k = s.queue k) ∧
      (∀ k, k ≠ s.nextLaunch → (u.launch k).map (fun L => { L with readySince := 0 }) =
        (s.launch k).map (fun L => { L with readySince := 0 })) ∧
      ∃ ls gs qs, u = { s with launches := ls, nextLaunch := s.nextLaunch + 1, graphs := gs, queues := qs } := by
  have hkept := (accept_accepted hl).trans (accepted_judged bad l)
  have hid : (judged bad l).id = s.nextLaunch := congrArg Launch.id hkept
  have hready : (judged bad l).readySince = 0 := congrArg Launch.readySince hkept
  have hqueue := acceptedIn_queue (q := q) (p := p) (s := s) (judged bad l)
  have hothers : ∀ k, k ≠ q → (acceptedIn q p (judged bad l) s).queue k = s.queue k :=
    fun k hk => acceptedIn_queue_of_ne hk _
  have hstep : evLaunchPacket q p.num s = s.launchAlone q p := by
    rw [evLaunchPacket_of_taken (takePacket_held h (by simp [isType, ht])), mayAct_held h]
    simp [h.held]
  rw [exec_launchPacket, hstep, launchAlone_eq hgraph hbad hl, nodeAdded_acceptedIn hx]
  generalize judged bad l = L at *
  obtain ⟨qs, hframe⟩ := acceptedIn_frame q p L s
  rw [hid] at hqueue hframe
  rw [hframe] at hqueue hothers ⊢
  obtain ⟨v, hv⟩ : ∃ v, v = ({ s with
    launches := tset s.nextLaunch L s.launches, nextLaunch := s.nextLaunch + 1, queues := qs,
    graphs := tset g { x with nodes := x.nodes ++ [s.nextLaunch] } s.graphs } : State) := ⟨_, rfl⟩
  have hlaunch : ∀ k, v.launch k = tget k (tset s.nextLaunch L s.launches) := fun k => by rw [hv]; rfl
  have hgraphs : ∀ k, tget k v.graphs = tget k (tset g { x with nodes := x.nodes ++ [s.nextLaunch] } s.graphs) :=
    fun k => by rw [hv]
  have hqueues : ∀ k, v.queue k = ({ s with
    launches := tset s.nextLaunch L s.launches, nextLaunch := s.nextLaunch + 1, queues := qs } : State).queue k :=
    fun k => by rw [hv]; rfl
  rw [← hv, markReady_eq]
  refine ⟨_, stampReady v L, rfl, ?_, ?_, (hgraphs g).trans (tget_tset_self _ _ _),
    fun k hk => (hgraphs k).trans (tget_tset_of_ne hk _ _), (hqueues q).trans hqueue,
    fun k hk => (hqueues k).trans (hothers k hk), ?_, ?_⟩
  · rw [← markReady_eq, markReady_launch, hlaunch, tget_tset_self]
    rfl
  · obtain ⟨r, hr⟩ := stampReady_frame v L
    rw [hr, ← hready]
  · intro k hk
    rw [← markReady_eq, markReady_launch_unready, hlaunch, tget_tset_of_ne hk]
    rfl
  · rw [hv]
    exact ⟨_, _, _, rfl⟩

end Alone

section Graphs
variable {q n : Nat} {p : Pkt} {s : State}

theorem graphOpened_queue_of_ne {k : Nat} (hk : k ≠ q) (count : Nat) : (graphOpened q n count s).queue k = s.queue k := by
  rw [graphOpened, modPkt_queue_of_ne hk, State.modQueue_queue_of_ne _ hk]
  rfl

theorem graphOpened_frame (q n count : Nat) (s : State) : ∃ qs, graphOpened q n count s =
    { s with graphs := tset s.nextGraph (graphOf q n count s) s.graphs, nextGraph := s.nextGraph + 1,
             phases := countGraph (s.qJob q) (s.jPhase (s.qJob q)) s.phases, queues := qs } := ⟨_, rfl⟩

/-- The graph of a held GRAPH packet. -/
theorem exec_graphPacket_held (h : HeldPacket q p s) (ht : pkType p.data = 2) (hfill : (s.queue q).fill = none) :
    ∃ u, exec (.graphPacket q p.num) s = .next (State.finish u) ∧
      u.queue q = { s.queue q with
        pkts := (s.queue q).pkts.map (fun y =>
          if y.num = p.num then { y with refs := [s.nextGraph], st := .acting } else y),
        fill := some s.nextGraph } ∧
      (∀ k, k ≠ q → u.queue k = s.queue k) ∧
      ∃ qs, u = { s with
        graphs := tset s.nextGraph (graphOf q p.num (pkCount p.data) s) s.graphs, nextGraph := s.nextGraph + 1,
        phases := countGraph (s.qJob q) (s.jPhase (s.qJob q)) s.phases, queues := qs } := by
  refine ⟨graphOpened q p.num (pkCount p.data) s, ?_, graphOpened_queue _, fun k hk => graphOpened_queue_of_ne hk _,
    graphOpened_frame _ _ _ _⟩
  rw [exec_graphPacket, evGraphPacket_of_taken (takePacket_held h (by simp [isType, ht])),
    if_neg (fun hst => hst h.held), openGraph_eq hfill h.here h.kept]

end Graphs

end Sys2Proof.Machine.WorkLaunches
end

section
/-!
PROOFS. GRAPH_CHECK: the nodes of a graph become its launches, all in their order (02 R39; 03 R66).
-/

namespace Sys2Proof.Machine.WorkLaunches

open Sys2Proof.Machine.WorkQueues

section Check

/-- How often the edges of the nodes name node `k` (03 R66). -/
def edgesTo (ps : List Pkt) (k : Nat) : Nat := (ps.map (fun y => (pkEdges y.data).count k)).sum

/-- The nodes keep the rules of a graph: every edge names a higher node, and every count is right (03 R66). -/
def GraphGood (ps : List Pkt) : Prop := ∀ k y, ps[k]? = some y →
  (∀ e ∈ pkEdges y.data, k < e ∧ e < ps.length) ∧ pkCount y.data = edgesTo ps k

theorem nodeEdges_eq (ps : List Pkt) :
    (List.range ps.length).map (fun k => ((ps[k]?).map (fun p => pkEdges p.data)).getD []) =
      ps.map (fun p => pkEdges p.data) := by
  refine List.ext_getElem (by simp) fun k hk hk' => ?_
  rw [List.length_map] at hk'
  simp [hk']

theorem graphFails_iff {ps : List Pkt} (h : ∀ y ∈ ps, pkType y.data = 1) : graphFails ps = true ↔ ¬ GraphGood ps := by
  have htypes : ps.any (fun p => pkType p.data != 1) = false := by
    rw [List.any_eq_false]
    intro y hy
    simp [h y hy]
  have hcount : ∀ k, ((ps.map (fun p => pkEdges p.data)).map (fun x => x.count k)).sum = edgesTo ps k := fun k => by
    rw [List.map_map]; rfl
  simp only [graphFails, htypes, nodeEdges_eq, hcount, Bool.false_or, List.any_eq_true, List.mem_range]
  constructor
  · rintro ⟨k, hk, hbad⟩ hgood
    obtain ⟨hedges, hnum⟩ := hgood k ps[k] (List.getElem?_eq_getElem hk)
    simp only [List.getD_eq_getElem?_getD, List.getElem?_map, List.getElem?_eq_getElem hk, Option.map_some,
      Option.getD_some, Bool.or_eq_true, List.any_eq_true, decide_eq_true_eq, bne_iff_ne, ne_eq] at hbad
    obtain ⟨e, he, hout⟩ | hwrong := hbad
    · have := hedges e he
      omega
    · exact hwrong hnum
  · intro hbad
    unfold GraphGood at hbad
    push Not at hbad
    obtain ⟨k, y, hy, hbad⟩ := hbad
    obtain ⟨hk, rfl⟩ := List.getElem?_eq_some_iff.1 hy
    refine ⟨k, hk, ?_⟩
    simp only [List.getD_eq_getElem?_getD, List.getElem?_map, List.getElem?_eq_getElem hk, Option.map_some,
      Option.getD_some, Bool.or_eq_true, List.any_eq_true, decide_eq_true_eq, bne_iff_ne, ne_eq]
    by_cases hedges : ∀ e ∈ pkEdges ps[k].data, k < e ∧ e < ps.length
    · exact .inr (hbad hedges)
    · push Not at hedges
      obtain ⟨e, he, hout⟩ := hedges
      exact .inl ⟨e, he, by omega⟩

end Check

section Nodes
variable {q g : Nat} {bad : Bool}

/-- `L` is the launch of node packet `y`, the node `k` of graph `g` (03 R66). -/
structure NodeLaunch (job g k : Nat) (y : Pkt) (bad : Bool) (L : Launch) : Prop where
  graph : L.graph = g
  node : L.node = k
  job : L.job = job
  pkt : L.pkt = some y.num
  preds : L.preds = pkCount y.data
  edges : bad = false → L.edges = pkEdges y.data
  checked : L.checked = (!pkOrder y.data || bad)
  fails : bad = true → L.status = stFormat ∧ L.stage = .ending

theorem nodeLaunch_judged {k : Nat} {p : Pkt} {s : State} {l : Launch}
    (hl : s.accept (packetLaunch q p g k true bad s) (pkAddr p.data) (s.packetOff q p g || bad) = some l) :
    NodeLaunch (s.qJob q) g k p bad (judged bad l) := by
  have hkept := (accept_accepted hl).trans (accepted_judged bad l)
  exact
    { graph := congrArg Launch.graph hkept, node := congrArg Launch.node hkept, job := congrArg Launch.job hkept,
      pkt := congrArg Launch.pkt hkept, preds := congrArg Launch.preds hkept,
      edges := fun hb => (congrArg Launch.edges hkept).trans (by rw [hb]; rfl),
      checked := congrArg Launch.checked hkept,
      fails := fun hb => by subst hb; exact judged_fails hl }

/-- A graph with `n` more launches, numbered from `first` on. -/
def nodesFrom (first n : Nat) (x : Graph) : Graph :=
  { x with nodes := x.nodes ++ (List.range n).map (fun i => first + i) }

/-- The nodes `ps` of graph `g`, from node `k` on, are accepted from `s` to `u`. -/
structure NodesIn (q g k : Nat) (bad : Bool) (x : Graph) (ps : List Pkt) (s u : State) : Prop where
  next : u.nextLaunch = s.nextLaunch + ps.length
  graph : tget g u.graphs = some (nodesFrom s.nextLaunch ps.length x)
  old : ∀ i, i < s.nextLaunch → u.launch i = s.launch i
  made : ∀ i y, ps[i]? = some y → ∃ L, u.launch (s.nextLaunch + i) = some L ∧ NodeLaunch (s.qJob q) g (k + i) y bad L
  frame : ∃ ls n gs qs, u = { s with launches := ls, nextLaunch := n, graphs := gs, queues := qs }

/-- One node is accepted. -/
theorem nodesIn_one {k : Nat} {p : Pkt} {s : State} {x : Graph} {l : Launch} (hx : tget g s.graphs = some x)
    (hl : s.accept (packetLaunch q p g k true bad s) (pkAddr p.data) (s.packetOff q p g || bad) = some l) :
    NodesIn q g k bad x [p] s (nodeAdded g s.nextLaunch (acceptedIn q p (judged bad l) s)) := by
  have hnode := nodeLaunch_judged hl
  have hid : (judged bad l).id = s.nextLaunch :=
    congrArg Launch.id ((accept_accepted hl).trans (accepted_judged bad l))
  rw [nodeAdded_acceptedIn hx]
  generalize judged bad l = L at *
  obtain ⟨qs, hframe⟩ := acceptedIn_frame q p L s
  rw [hframe, hid]
  refine ⟨rfl, tget_tset_self _ _ _, fun i hi => tget_tset_of_ne (Nat.ne_of_lt hi) _ _, fun i y hy => ?_, _, _, _, _, rfl⟩
  obtain rfl : i = 0 := by
    have := (List.getElem?_eq_some_iff.1 hy).1
    simpa using this
  cases hy
  exact ⟨L, tget_tset_self _ _ _, hnode⟩

/-- Nodes are accepted one after the other. -/
theorem NodesIn.cons {k : Nat} {p : Pkt} {ps : List Pkt} {s t u : State} {x y : Graph}
    (h : NodesIn q g k bad x [p] s t) (hy : y = { x with nodes := x.nodes ++ [s.nextLaunch] })
    (h' : NodesIn q g (k + 1) bad y ps t u) : NodesIn q g k bad x (p :: ps) s u := by
  have hnext : t.nextLaunch = s.nextLaunch + 1 := h.next
  have hjob : t.qJob q = s.qJob q := by
    obtain ⟨_, _, _, _, rfl⟩ := h.frame
    rfl
  refine ⟨?_, ?_, fun i hi => ?_, fun i y hi => ?_, ?_⟩
  · rw [h'.next, hnext, List.length_cons]; omega
  · rw [h'.graph, hy, nodesFrom, nodesFrom, List.length_cons, List.range_succ_eq_map, List.map_cons, List.map_map, hnext]
    simp [Function.comp_def, Nat.add_assoc, Nat.add_comm 1]
  · rw [h'.old i (by omega), h.old i hi]
  · cases i with
    | zero =>
      obtain ⟨L, hL, hnode⟩ := h.made 0 y hi
      exact ⟨L, (h'.old _ (by omega)).trans hL, hnode⟩
    | succ i =>
      obtain ⟨L, hL, hnode⟩ := h'.made i y hi
      rw [hnext, Nat.add_assoc, Nat.add_comm 1] at hL
      rw [hjob, Nat.add_assoc, Nat.add_comm 1] at hnode
      exact ⟨L, hL, hnode⟩
  · obtain ⟨_, _, _, _, hu⟩ := h'.frame
    obtain ⟨_, _, _, _, rfl⟩ := h.frame
    exact ⟨_, _, _, _, hu⟩

/-- The nodes of a graph become launches in their order. -/
theorem nodesIn_acceptNodes {k : Nat} {ps : List Pkt} {s u : State} {x : Graph} (ht : ∀ y ∈ ps, pkType y.data = 1)
    (hx : tget g s.graphs = some x) (h : State.acceptNodes q g bad k ps s = some u) : NodesIn q g k bad x ps s u := by
  induction ps generalizing k s x with
  | nil =>
    cases h
    exact ⟨rfl, by simpa [nodesFrom] using hx, fun _ _ => rfl, fun _ _ hy => (by cases hy), _, _, _, _, rfl⟩
  | cons p ps ih =>
    rw [State.acceptNodes, if_pos (ht p List.mem_cons_self)] at h
    cases hl : s.accept (packetLaunch q p g k true bad s) (pkAddr p.data) (s.packetOff q p g || bad) with
    | none =>
      rw [acceptPacket_eq, hl] at h
      cases h
    | some l =>
      rw [acceptPacket_eq, hl] at h
      have hone := nodesIn_one hx hl
      exact hone.cons rfl (ih (fun y hy => ht y (List.mem_cons_of_mem p hy)) hone.graph h)

end Nodes

end Sys2Proof.Machine.WorkLaunches
end

section
/-!
PROOFS. GRAPH_CHECK's step, and the obligation on LAUNCH and GRAPH packets (02 R39, R42, R44, R53, R57, R59; 03 R62, R65
to R67).
-/

namespace Sys2Proof.Machine.WorkLaunches

open Sys2Proof.Machine.WorkQueues

section Check
variable {g n : Nat} {p : Pkt} {s u : State} {x : Graph}

theorem exec_graphCheck (g : Nat) (s : State) : exec (.graphCheck g) s = .next (evGraphCheck g s).finish := rfl

/-- The state in which the nodes of a graph are accepted and the graph is checked (03 R66). -/
def checkedIn (q g : Nat) (y : Graph) (bad : Bool) (u : State) : State :=
  if bad then State.qFail q 6 { u with graphs := tset g { y with checked := true } u.graphs }
  else { u with graphs := tset g { y with checked := true } u.graphs }

theorem checkedIn_graphs (q : Nat) (y : Graph) (bad : Bool) :
    (checkedIn q g y bad u).graphs = tset g { y with checked := true } u.graphs := by
  unfold checkedIn
  split
  · rw [qFail_six, State.setReg_graphs]
  · rfl

theorem checkedIn_qErr (q : Nat) (y : Graph) (bad : Bool) :
    (checkedIn q g y bad u).qErr q = if bad then u.qErr q ||| 0x40 else u.qErr q := by
  unfold checkedIn
  split
  · rw [qFail_six]
    exact setReg_reg_self _ _ _
  · rfl

theorem checkedIn_frame (q : Nat) (y : Graph) (bad : Bool) (u : State) :
    ∃ b gs, checkedIn q g y bad u = { u with bar2 := b, graphs := gs } := by
  unfold checkedIn
  split
  · exact ⟨_, _, rfl⟩
  · exact ⟨_, _, rfl⟩

/-- A graph with launches left has not ended (02 R54). -/
theorem graphCheckDone_of_left {y : Graph} (hy : tget g s.graphs = some y) (hleft : y.left ≠ 0) :
    s.graphCheckDone g = s := by
  simp only [State.graphCheckDone, hy, hleft, false_and, if_false]

/-- GRAPH_CHECK of a graph whose nodes are all read (03 R66). -/
theorem evGraphCheck_eq {bad : Bool} (hx : tget g s.graphs = some x) (hn : x.pkt = some n)
    (hp : s.pkt x.queue n = some p) (hc : x.checked = false) (hread : x.count ≤ x.read)
    (hmay : s.mayAct x.queue p = true) (hjob : s.jState x.job ≠ 3) (hleft : x.left ≠ 0)
    (hbad : bad = graphFails (s.nodePkts x.queue g)) {y : Graph}
    (hu : State.acceptNodes x.queue g bad 0 (s.nodePkts x.queue g) s = some u)
    (hy : tget g u.graphs = some y) (hyl : y.left = x.left) :
    evGraphCheck g s = (checkedIn x.queue g y bad u).markReady := by
  have hb : (graphFails (s.nodePkts x.queue g) && s.jState x.job != 3) = bad := by
    rw [hbad, bne_iff_ne.2 hjob, Bool.and_true]
  have hthere : tget g (checkedIn x.queue g y bad u).graphs = some { y with checked := true } := by
    rw [checkedIn_graphs, tget_tset_self]
  rw [← graphCheckDone_of_left hthere (hyl.trans_ne hleft)]
  simp only [evGraphCheck, hx, hn, Option.bind_some, hp, hc, hmay, Nat.not_lt.2 hread, decide_false, Bool.or_self,
    Bool.not_true, Bool.false_eq_true, if_false, hb, hu, modGraph_of_tget hy]
  rfl

/-- What GRAPH_CHECK makes of a graph whose packets are all LAUNCHes. -/
theorem exec_graphCheck_nodes (hx : tget g s.graphs = some x) (hn : x.pkt = some n)
    (hp : s.pkt x.queue n = some p) (hc : x.checked = false) (hread : x.count ≤ x.read)
    (hmay : s.mayAct x.queue p = true) (hjob : s.jState x.job ≠ 3) (hleft : x.left ≠ 0)
    (ht : ∀ y ∈ s.nodePkts x.queue g, pkType y.data = 1)
    (hu : State.acceptNodes x.queue g (graphFails (s.nodePkts x.queue g)) 0 (s.nodePkts x.queue g) s = some u) :
    ∃ v, exec (.graphCheck g) s = .next (State.finish v) ∧
      (∀ k y, (s.nodePkts x.queue g)[k]? = some y → ∃ L, v.launch (s.nextLaunch + k) = some L ∧
        NodeLaunch (s.qJob x.queue) g k y (graphFails (s.nodePkts x.queue g)) L) ∧
      v.nextLaunch = s.nextLaunch + (s.nodePkts x.queue g).length ∧
      tget g v.graphs = some { nodesFrom s.nextLaunch (s.nodePkts x.queue g).length x with checked := true } ∧
      v.qErr x.queue = (if graphFails (s.nodePkts x.queue g) then s.qErr x.queue ||| 0x40 else s.qErr x.queue) ∧
      (∀ k, ¬ s.nextLaunch ≤ k → (v.launch k).map (fun L => { L with readySince := 0 }) =
        (s.launch k).map (fun L => { L with readySince := 0 })) ∧
      v.mem = s.mem ∧ v.warps = s.warps ∧ v.blocks = s.blocks ∧ v.cores = s.cores := by
  have hin := nodesIn_acceptNodes ht hx hu
  rw [exec_graphCheck, evGraphCheck_eq hx hn hp hc hread hmay hjob hleft rfl hu hin.graph rfl]
  have hgraphs := checkedIn_graphs (g := g) (u := u) x.queue (nodesFrom s.nextLaunch (s.nodePkts x.queue g).length x)
    (graphFails (s.nodePkts x.queue g))
  have hqerr := checkedIn_qErr (g := g) (u := u) x.queue (nodesFrom s.nextLaunch (s.nodePkts x.queue g).length x)
    (graphFails (s.nodePkts x.queue g))
  obtain ⟨b, gs, hframe⟩ := checkedIn_frame (g := g) x.queue (nodesFrom s.nextLaunch (s.nodePkts x.queue g).length x)
    (graphFails (s.nodePkts x.queue g)) u
  generalize checkedIn x.queue g (nodesFrom s.nextLaunch (s.nodePkts x.queue g).length x)
    (graphFails (s.nodePkts x.queue g)) u = w at *
  have hlaunch : ∀ k, w.launch k = u.launch k := fun k => by rw [hframe]; rfl
  have hnext : w.nextLaunch = u.nextLaunch := by rw [hframe]
  obtain ⟨ls, m, gs', qs, husame⟩ := hin.frame
  have hbase : u.qErr x.queue = s.qErr x.queue ∧ w.mem = s.mem ∧ w.warps = s.warps ∧ w.blocks = s.blocks ∧
      w.cores = s.cores := by
    rw [hframe, husame]
    exact ⟨rfl, rfl, rfl, rfl, rfl⟩
  obtain ⟨hqbase, hrest⟩ := hbase
  refine ⟨w.markReady, rfl, fun k y hy => ?_, ?_, ?_, ?_, fun k hk => ?_, ?_⟩
  · obtain ⟨L, hL, hnode⟩ := hin.made k y hy
    rw [Nat.zero_add] at hnode
    obtain ⟨r, hr⟩ := stampReady_frame w L
    refine ⟨stampReady w L, by rw [markReady_launch, hlaunch, hL]; rfl, ?_⟩
    rw [hr]
    exact ⟨hnode.graph, hnode.node, hnode.job, hnode.pkt, hnode.preds, hnode.edges, hnode.checked, hnode.fails⟩
  · rw [markReady_eq]
    exact hnext.trans hin.next
  · rw [markReady_eq]
    exact (congrArg (tget g) hgraphs).trans (tget_tset_self _ _ _)
  · rw [markReady_eq]
    exact hqerr.trans (by rw [hqbase])
  · rw [markReady_launch_unready, hlaunch, hin.old k (Nat.lt_of_not_le hk)]
  · rw [markReady_eq]
    exact hrest

end Check

section Headers
variable {s : State} {l : Launch} {va : Nat} {frozen : Bool}

/-- A launch that acceptance leaves waiting keeps the header that was read, and has its blocks (02 R42, R53). -/
theorem accept_waiting_header {h : Nat} {l' : Launch} (hh : h < 2 ^ 1024) (hst : l.status = 0)
    (hread : s.vRead (via (s.jAsid l.job)) va 128 = .ok (natLe 128 h)) (hl : s.accept l va frozen = some l')
    (hw : l'.stage = .waiting) :
    let byte (o n : Nat) : Nat := h / 2 ^ (8 * o) % 2 ^ (8 * n)
    l'.hdr = BitVec.ofNat 1024 h ∧ l'.hdrRead = true ∧
      l'.blocksLeft = byte 0x10 4 * byte 0x14 4 * byte 0x18 4 * (byte 0x1C 1 * byte 0x1D 1 * byte 0x1E 1) ∧
      l'.status = 0 := by
  intro byte
  obtain ⟨hwaits, hblocks⟩ := accept_waiting hread hl hw
  rw [leNat_natLe_of_lt (w := 1024) (n := 128) rfl hh] at hwaits hblocks
  have hfld : ∀ o n, (withHeader s h l).fld o n = byte o n := withHeader_fld hh s l
  refine ⟨hwaits.hdr, hwaits.hdrRead, ?_, hwaits.status.trans hst⟩
  rw [hblocks]
  simp only [Launch.clusters, Launch.clSize, Launch.gridx, Launch.gridy, Launch.gridz, Launch.clx, Launch.cly, Launch.clz,
    hfld]

end Headers

/-- A packet outside a graph with a COUNT or an EDGE, of a job that is not FROZEN (02 R59; 03 R66). -/
theorem alone_bad (m count : Nat) (edges : List Nat) :
    decide (m ≠ 3 ∧ (count ≠ 0 ∨ edges ≠ [])) = (!(m == 3) && (count != 0 || edges != [])) := by
  rw [Bool.eq_iff_iff]
  simp

/-- Settles O43: each kind of packet by its step's own theorem, and the header by what acceptance makes of it. -/
theorem acceptedLaunches : Obligations.AcceptedLaunches := by
  unfold Obligations.AcceptedLaunches
  intro others marked rest opened lone
  refine ⟨?_, ?_, ?_, ?_, ?_, ?_⟩
  · intro q d s h hfill
    refine ⟨fun ht hslots => ?_, fun ht => ?_⟩
    · rw [exec_launchPacket, evLaunchPacket_next h hfill ht hslots]
      rfl
    · rw [exec_graphPacket, evGraphPacket_next h hfill ht]
      rfl
  · intro q d s g x h hfill hx hc ht hslots p
    obtain ⟨u, hexec, hused, hqueue, hothers, hgraph, hgraphs, hhead, hregs, _, _, _, _, hframe⟩ :=
      exec_launchPacket_node h hfill hx hc ht hslots
    refine ⟨_, hexec, hused, hqueue, hothers, hgraph, hgraphs, hhead, hregs, ?_⟩
    rw [hframe]
    rfl
  · intro q p s g x l h ht hgraph hx hxc j bad l0 hl
    have hoff := packetOff_of_kept (q := q) h.kept hx hxc
    have hbad : bad = (!s.packetOff q p g && (pkCount p.data != 0 || pkEdges p.data != [])) := by
      rw [hoff]
      exact alone_bad _ _ _
    have hl0 : l0 = packetLaunch q p g 0 false bad s := by
      rw [packetLaunch, hx]
      rfl
    rw [hl0, ← hoff] at hl
    obtain ⟨u, L, hexec, hlaunch, hL, hgraph', hgraphs, hqueue, hqueues, hothers, _, _, _, hframe⟩ :=
      exec_launchPacket_alone h ht hgraph hx hbad hl
    refine ⟨_, L, hexec, hlaunch, hL, hgraph', hgraphs, ?_, ?_, ?_, hqueue, hqueues, hothers, ?_⟩
    all_goals
      rw [hframe]
      rfl
  · intro q p s h ht hfill j n g
    obtain ⟨u, hexec, hqueue, hothers, qs, hframe⟩ := exec_graphPacket_held h ht hfill
    refine ⟨_, hexec, ?_, ⟨?_, ?_, fun k hk => ?_⟩, hqueue, hothers, ?_, ?_, ?_⟩
    · rw [hframe]; exact tget_tset_self _ _ _
    · rw [hframe]; rfl
    · rw [hframe]; rfl
    · rw [hframe]; exact tget_tset_of_ne hk _ _
    · rw [hframe]; rfl
    · rw [hframe]; rfl
    · rw [hframe]; rfl
  · intro s g x n p u hx hn _ hp hc hread hmay ps ht hleft hne _ hjob hnodes _ count good hu
    have hpos : x.left ≠ 0 := by
      rw [hleft]
      exact fun h => hne (List.length_eq_zero_iff.1 h)
    have hfails : graphFails ps = true ↔ ¬ good := graphFails_iff ht
    obtain ⟨v, hexec, hmade, hnext, hgraph, hqerr, hothers, hrest⟩ :=
      exec_graphCheck_nodes hx hn hp hc hread hmay hjob hpos ht hu
    refine ⟨_, hexec, fun k y hy => ?_, hnext, ?_, hqerr, hfails, hothers, hrest⟩
    · obtain ⟨L, hL, hnode⟩ := hmade k y hy
      refine ⟨L, hL, hnode.graph, hnode.node, hnode.job, hnode.pkt, hnode.preds, fun hgood => ?_, fun hgood => ?_⟩
      · have hb : graphFails ps = false := Bool.eq_false_iff.2 fun h => hfails.1 h hgood
        exact ⟨hnode.edges hb, hnode.checked.trans (by rw [hb, Bool.or_false])⟩
      · have hb : graphFails ps = true := hfails.2 hgood
        obtain ⟨hstatus, hstage⟩ := hnode.fails hb
        exact ⟨hstatus, hstage, hnode.checked.trans (by rw [hb, Bool.or_true])⟩
    · rw [nodesFrom, hnodes, List.nil_append] at hgraph
      exact hgraph
  · intro s l va frozen hst
    refine ⟨fun f hread hf => accept_unreadable hst hread hf, ?_⟩
    intro h hh hread byte clusters size
    refine ⟨?_, ?_, ?_⟩
    · rintro rfl
      exact accept_frozen hst hread
    · rintro rfl hbad
      refine accept_bad_header hst hread ?_
      rw [leNat_natLe_of_lt (w := 1024) (n := 128) rfl hh]
      exact headerOk_of_bad hh s l va hbad
    · intro l' _ hl hw
      exact accept_waiting_header hh hst hread hl hw

end Sys2Proof.Machine.WorkLaunches
end

section
/-!
PROOFS. REFILL: the deficits of the jobs (03 R69).
-/

namespace Sys2Proof.Machine.WorkDispatch

open WorkQueues Management

section Refill
variable {s : State} {j : Nat}

/-- The deficit that a refill gives job `j` (03 R69). -/
def refillTo (s : State) (j : Nat) : Int :=
  if s.launches.any (fun e => e.2.job == j && s.isReady e.2) then
    min (s.jDeficit j + 32 * s.jWeight j) (1024 * s.jWeight j) else 0

/-- The refill of job `j`. -/
def refillJob (s t : State) (j : Nat) : State := t.setReg (jOff j + 0x1C) (BitVec.ofInt 32 (refillTo s j))

theorem evRefill_of_due (h : s.refilled < s.gtime / 1000) :
    evRefill s = s.dueJobs.foldl (refillJob s) (State.markReady { s with refilled := s.refilled + 1 }) := by
  rw [evRefill, if_neg (Nat.not_le.2 h)]
  rfl

theorem evRefill_of_not_due (h : s.gtime / 1000 ≤ s.refilled) : evRefill s = s := if_pos h

theorem exec_refill (s : State) : exec .refill s = .next (evRefill s).finish := rfl

theorem jDeficit_bounds (s : State) (j : Nat) : -(2 ^ 31 : Int) ≤ s.jDeficit j ∧ s.jDeficit j < 2 ^ 31 :=
  ⟨BitVec.le_toInt _, BitVec.toInt_lt⟩

theorem refillTo_bounds (s : State) (j : Nat) : -(2 ^ 31 : Int) ≤ refillTo s j ∧ refillTo s j < 2 ^ 31 := by
  have hw : s.jWeight j < 2 ^ 16 := s.regF_lt _ _ _
  have hd := jDeficit_bounds s j
  unfold refillTo
  split <;> omega

theorem toInt_ofInt_of_bounds {d : Int} (h : -(2 ^ 31 : Int) ≤ d) (h' : d < 2 ^ 31) : (BitVec.ofInt 32 d).toInt = d :=
  BitVec.toInt_ofInt_eq_self (by decide) h h'

theorem setDeficit_self {d : Int} (h : -(2 ^ 31 : Int) ≤ d) (h' : d < 2 ^ 31) (t : State) :
    (t.setReg (jOff j + 0x1C) (BitVec.ofInt 32 d)).jDeficit j = d := by
  rw [State.jDeficit, setReg_reg_self, toInt_ofInt_of_bounds h h']

theorem setDeficit_reg_of_ne {o : Nat} (ho : o % 4 = 0) (hne : o ≠ jOff j + 0x1C) (v : Word) (t : State) :
    (t.setReg (jOff j + 0x1C) v).reg o = t.reg o :=
  setReg_reg_of_offset_ne t ho (by unfold jOff; omega) hne

theorem setDeficit_of_ne {i : Nat} (hij : i ≠ j) (v : Word) (t : State) :
    (t.setReg (jOff j + 0x1C) v).jDeficit i = t.jDeficit i := by
  unfold State.jDeficit
  rw [setDeficit_reg_of_ne]
  · unfold jOff; omega
  · unfold jOff; omega

theorem mem_of_mem_nubNat {a : Nat} {l : List Nat} : ∀ {seen : List Nat}, a ∈ nubNat seen l → a ∈ l := by
  induction l with
  | nil => exact fun h => nomatch h
  | cons b l ih =>
    intro seen h
    rw [nubNat] at h
    split at h
    · exact List.mem_cons_of_mem _ (ih h)
    · obtain rfl | h := List.mem_cons.1 h
      · exact List.mem_cons_self
      · exact List.mem_cons_of_mem _ (ih h)

/-- A job with a ready launch is due. -/
theorem mem_dueJobs_of_ready {e : Nat × Launch} (he : e ∈ s.launches) (hr : s.isReady e.2 = true) :
    e.2.job ∈ s.dueJobs :=
  mem_nubNat (List.mem_append_right _ (List.mem_map_of_mem (List.mem_filter.2 ⟨he, hr⟩))) List.not_mem_nil

/-- A job that is not due has no deficit. -/
theorem jDeficit_of_not_due (hj : j < 4096) (h : j ∉ s.dueJobs) : s.jDeficit j = 0 := by
  have hnone : tget ((jOff j + 0x1C) / 4) s.bar2 = none := by
    by_contra hsome
    obtain ⟨v, hv⟩ := Option.ne_none_iff_exists'.1 hsome
    have hkey := List.mem_map_of_mem (f := Prod.fst) (mem_of_tget hv)
    refine h (mem_nubNat (List.mem_append_left _ (List.mem_filterMap.2 ⟨_, hkey, ?_⟩)) List.not_mem_nil)
    unfold jOff
    rw [if_pos (by omega), Option.some.injEq]
    omega
  have hreset : bar2Reset ((jOff j + 0x1C) / 4) = 0 := by
    unfold bar2Reset jOff
    rw [if_neg (by omega), if_neg (by omega), if_neg (by omega)]
  rw [State.jDeficit, State.reg, hnone]
  exact congrArg BitVec.toInt hreset

theorem refillTo_of_not_due (h : j ∉ s.dueJobs) : refillTo s j = 0 := by
  refine if_neg fun hany => h ?_
  obtain ⟨e, he, hready⟩ := List.any_eq_true.1 hany
  simp only [Bool.and_eq_true, beq_iff_eq] at hready
  exact hready.1 ▸ mem_dueJobs_of_ready he hready.2

theorem refillTo_eq (s : State) (j : Nat) : refillTo s j =
    if ∃ e ∈ s.launches, e.2.job = j ∧ s.isReady e.2 = true then
      min (s.jDeficit j + 32 * s.jWeight j) (1024 * s.jWeight j) else 0 :=
  if_congr (by simp [List.any_eq_true]) rfl rfl

theorem refillJob_self (t : State) : (refillJob s t j).jDeficit j = refillTo s j := by
  rw [refillJob, setDeficit_self (refillTo_bounds s j).1 (refillTo_bounds s j).2]

theorem refillJob_of_ne {i : Nat} (hij : i ≠ j) (t : State) : (refillJob s t i).jDeficit j = t.jDeficit j := by
  rw [refillJob, setDeficit_of_ne (Ne.symm hij)]

/-- The refills of the due jobs give every job its deficit. -/
theorem refills_jDeficit (hj : j < 4096) {t : State} (ht : t.jDeficit j = s.jDeficit j) :
    (s.dueJobs.foldl (refillJob s) t).jDeficit j = refillTo s j := by
  by_cases hdue : j ∈ s.dueJobs
  · exact foldl_sets (State.jDeficit · j) hdue refillJob_self (fun _ _ hij => refillJob_of_ne hij) t
  · rw [foldl_keeps (State.jDeficit · j) (fun i hi => refillJob_of_ne (fun hij : i = j => hdue (hij ▸ hi))), ht,
      jDeficit_of_not_due hj hdue, refillTo_of_not_due hdue]

/-- A job that is due is in range if the launches' jobs are. -/
theorem dueJobs_lt (hjobs : ∀ e ∈ s.launches, e.2.job < 4096) (h : j ∈ s.dueJobs) : j < 4096 := by
  obtain h | h := List.mem_append.1 (mem_of_mem_nubNat h)
  · obtain ⟨k, -, hk⟩ := List.mem_filterMap.1 h
    split at hk
    · cases hk; omega
    · cases hk
  · obtain ⟨e, he, rfl⟩ := List.mem_map.1 h
    exact hjobs e (List.mem_filter.1 he).1

/-- What a refill that is due makes (03 R69). -/
theorem exec_refill_of_due (h : s.refilled < s.gtime / 1000) (hjobs : ∀ e ∈ s.launches, e.2.job < 4096) :
    ∃ u, exec .refill s = .next (State.finish u) ∧ (∀ j, j < 4096 → u.jDeficit j = refillTo s j) ∧
      (∀ o, o % 4 = 0 → (∀ j, j < 4096 → o ≠ jOff j + 0x1C) → u.reg o = s.reg o) ∧
      ∃ b, u = { State.markReady { s with refilled := s.refilled + 1 } with bar2 := b } := by
  rw [exec_refill, evRefill_of_due h]
  refine ⟨_, rfl, fun j hj => refills_jDeficit hj ?_, fun o ho hne => ?_, ?_⟩
  · rw [markReady_eq]
    rfl
  · rw [foldl_keeps (fun u : State => u.reg o) (f := refillJob s)
      (fun i hi u => setDeficit_reg_of_ne ho (hne i (dueJobs_lt hjobs hi)) _ u), markReady_eq]
    rfl
  · exact foldl_regsOnly s.dueJobs (f := refillJob s) (fun _ _ => setReg_regsOnly ..) _

end Refill

end Sys2Proof.Machine.WorkDispatch
end

section
/-!
PROOFS. The dispatcher's choice: the launch of the highest priority, the largest deficit, the lowest job and the lowest
number (03 R69).
-/

namespace Sys2Proof.Machine.WorkDispatch

open WorkQueues Management

section Lists
variable {α : Type}

theorem minBy_eq_none {key : α → Nat} {l : List α} : minBy key l = none ↔ l = [] := by
  cases l with
  | nil => exact ⟨fun _ => rfl, fun _ => rfl⟩
  | cons a l =>
    refine ⟨fun h => ?_, fun h => nomatch h⟩
    rw [minBy] at h
    split at h
    · cases h
    · split at h <;> cases h

/-- Of a list in the order `R`, the least element that comes first. -/
theorem minBy_first {R : α → α → Prop} {key : α → Nat} {l : List α} {a : α} (hl : l.Pairwise R)
    (h : minBy key l = some a) :
    a ∈ l ∧ ∀ b ∈ l, key a ≤ key b ∧ (key b = key a → b = a ∨ R a b) := by
  induction l generalizing a with
  | nil => cases h
  | cons c l ih =>
    obtain ⟨hc, hl⟩ := List.pairwise_cons.1 hl
    rw [minBy] at h
    split at h
    · rename_i hnone
      cases h
      rw [minBy_eq_none.1 hnone]
      refine ⟨List.mem_cons_self, fun b hb => ?_⟩
      rw [List.mem_singleton.1 hb]
      exact ⟨le_rfl, fun _ => .inl rfl⟩
    · rename_i d hd
      obtain ⟨hmem, hleast⟩ := ih hl hd
      split at h
      · rename_i hcd
        cases h
        refine ⟨List.mem_cons_self, fun b hb => ?_⟩
        obtain rfl | hb := List.mem_cons.1 hb
        · exact ⟨le_rfl, fun _ => .inl rfl⟩
        · exact ⟨hcd.trans (hleast b hb).1, fun _ => .inr (hc b hb)⟩
      · rename_i hcd
        cases h
        refine ⟨List.mem_cons_of_mem _ hmem, fun b hb => ?_⟩
        obtain rfl | hb := List.mem_cons.1 hb
        · exact ⟨by omega, fun hb => by omega⟩
        · exact hleast b hb

theorem minBy_least {key : α → Nat} {l : List α} {a : α} (h : minBy key l = some a) :
    a ∈ l ∧ ∀ b ∈ l, key a ≤ key b := by
  obtain ⟨ha, hleast⟩ := minBy_first (R := fun _ _ => True) (List.pairwise_of_forall fun _ _ => trivial) h
  exact ⟨ha, fun b hb => (hleast b hb).1⟩

theorem foldl_max_eq {l : List Int} {b m : Int} (hle : ∀ x ∈ l, x ≤ m) (hb : b ≤ m) (hm : m ∈ l ∨ b = m) :
    l.foldl max b = m := by
  induction l generalizing b with
  | nil =>
    obtain h | h := hm
    · cases h
    · exact h
  | cons a l ih =>
    have ha := hle a List.mem_cons_self
    refine ih (fun x hx => hle x (List.mem_cons_of_mem a hx)) (max_le hb ha) ?_
    obtain h | rfl := hm
    · obtain rfl | h := List.mem_cons.1 h
      · exact .inr (max_eq_right hb)
      · exact .inl h
    · exact .inr (max_eq_left ha)

/-- The first of a table's records that has a property. -/
theorem find?_of_least {β : Type} {p : Nat × β → Bool} {l : List (Nat × β)} {e : Nat × β}
    (hl : l.Pairwise (fun a b => a.1 < b.1)) (he : e ∈ l) (hp : p e = true)
    (hleast : ∀ x ∈ l, p x = true → e.1 ≤ x.1) : l.find? p = some e := by
  induction l with
  | nil => cases he
  | cons a l ih =>
    obtain ⟨ha, hl⟩ := List.pairwise_cons.1 hl
    obtain rfl | he := List.mem_cons.1 he
    · exact List.find?_cons_of_pos hp
    · have hpa : ¬ p a = true := fun hpa =>
        Nat.not_le.2 (ha e he) (hleast a List.mem_cons_self hpa)
      rw [List.find?_cons_of_neg hpa]
      exact ih hl he fun x hx => hleast x (List.mem_cons_of_mem a hx)

theorem keysRise_pairwise {β : Type} {lo : Nat} {m : Tbl β} (h : keysRise lo m = true) :
    (∀ e ∈ m, lo ≤ e.1) ∧ m.Pairwise (fun a b => a.1 < b.1) := by
  induction m generalizing lo with
  | nil => exact ⟨fun _ he => (nomatch he), List.Pairwise.nil⟩
  | cons a m ih =>
    obtain ⟨ha, hm⟩ : lo ≤ a.1 ∧ keysRise (a.1 + 1) m = true := by simpa [keysRise] using h
    obtain ⟨hlow, hpair⟩ := ih hm
    refine ⟨fun e he => ?_, List.pairwise_cons.2 ⟨hlow, hpair⟩⟩
    obtain rfl | he := List.mem_cons.1 he
    · exact ha
    · exact (Nat.le_succ_of_le ha).trans (hlow e he)

theorem keysRise_map_snd {β : Type} (f : β → β) {lo : Nat} {m : Tbl β} (h : keysRise lo m = true) :
    keysRise lo (m.map (fun e => (e.1, f e.2))) = true := by
  induction m generalizing lo with
  | nil => rfl
  | cons e m ih =>
    obtain ⟨he, hm⟩ : lo ≤ e.1 ∧ keysRise (e.1 + 1) m = true := by simpa [keysRise] using h
    simpa [keysRise, he] using ih hm

/-- The first hit from level `n` down. -/
theorem findSome?_levels {γ : Type} {f : Nat → Option γ} {lv n : Nat} {v : γ} (hlv : lv < n) (hv : f lv = some v)
    (habove : ∀ i, lv < i → f i = none) : (List.range n).reverse.findSome? f = some v := by
  induction n with
  | zero => omega
  | succ n ih =>
    rw [List.range_succ, List.reverse_append, List.reverse_singleton, List.singleton_append, List.findSome?_cons]
    obtain hlt | rfl := Nat.lt_or_eq_of_le (Nat.le_of_lt_succ hlv)
    · rw [habove n hlt]
      exact ih hlt
    · rw [hv]

end Lists

section Choice
variable {s : State} {lv lid : Nat} {L : Launch}

/-- The launches among which the dispatcher chooses at a level. -/
def candidates (s : State) (lv : Nat) : List (Nat × Launch) :=
  (s.launches.filter (fun e => s.isReady e.2 && !e.2.skipped)).filter (fun e => s.effPrio e.2 == lv)

theorem mem_candidates {e : Nat × Launch} : e ∈ candidates s lv ↔
    e ∈ s.launches ∧ s.isReady e.2 = true ∧ e.2.skipped = false ∧ s.effPrio e.2 = lv := by
  simp only [candidates, List.mem_filter, Bool.and_eq_true, Bool.not_eq_true', beq_iff_eq]
  tauto

/-- The dispatcher's choice among launches. -/
def choice (s : State) (at' : List (Nat × Launch)) : Option Nat :=
  let js := nubNat [] (at'.map (fun e => e.2.job))
  let best := (js.map (s.jDeficit)).foldl max (-(2 ^ 40 : Int))
  match minBy id (js.filter (fun j => s.jDeficit j == best)) with
  | none => none
  | some j => (at'.find? (fun e => e.2.job == j)).map Prod.fst

theorem pickBest_eq (s : State) : s.pickBest = (List.range 8).reverse.findSome? (fun lv => choice s (candidates s lv)) :=
  rfl

/-- Launch `(lid, L)` comes before launch `e` of its level (03 R69). -/
def Before (s : State) (lid : Nat) (L : Launch) (e : Nat × Launch) : Prop :=
  s.jDeficit e.2.job < s.jDeficit L.job ∨ (s.jDeficit e.2.job = s.jDeficit L.job ∧
    (L.job < e.2.job ∨ (L.job = e.2.job ∧ lid < e.1)))

theorem mem_jobs {l : List (Nat × Launch)} {j : Nat} :
    j ∈ nubNat [] (l.map (fun e => e.2.job)) ↔ ∃ e ∈ l, e.2.job = j :=
  ⟨fun h => List.mem_map.1 (mem_of_mem_nubNat h), fun h => mem_nubNat (List.mem_map.2 h) List.not_mem_nil⟩

theorem choice_of_first {l : List (Nat × Launch)} (hl : l.Pairwise (fun a b => a.1 < b.1)) (he : (lid, L) ∈ l)
    (hfirst : ∀ e ∈ l, e ≠ (lid, L) → Before s lid L e) : choice s l = some lid := by
  have hL : L.job ∈ nubNat [] (l.map (fun e => e.2.job)) := mem_jobs.2 ⟨_, he, rfl⟩
  have hbest : ((nubNat [] (l.map (fun e => e.2.job))).map s.jDeficit).foldl max (-(2 ^ 40 : Int)) = s.jDeficit L.job := by
    refine foldl_max_eq (fun x hx => ?_) ?_ (.inl (List.mem_map_of_mem hL))
    · obtain ⟨j, hj, rfl⟩ := List.mem_map.1 hx
      obtain ⟨e, hel, rfl⟩ := mem_jobs.1 hj
      by_cases heq : e = (lid, L)
      · rw [heq]
      · obtain h | ⟨h, -⟩ := hfirst e hel heq
        · exact h.le
        · exact h.le
    · have := (jDeficit_bounds s L.job).1
      omega
  have hlowest : minBy id (((nubNat [] (l.map (fun e => e.2.job)))).filter (fun j => s.jDeficit j == s.jDeficit L.job)) =
      some L.job := by
    cases hmin : minBy id ((nubNat [] (l.map (fun e => e.2.job))).filter
        (fun j => s.jDeficit j == s.jDeficit L.job)) with
    | none =>
      have := minBy_eq_none.1 hmin ▸ List.mem_filter.2 ⟨hL, beq_self_eq_true (s.jDeficit L.job)⟩
      cases this
    | some j =>
      obtain ⟨hj, hleast⟩ := minBy_least hmin
      obtain ⟨hjs, hdef⟩ := List.mem_filter.1 hj
      have hle : j ≤ L.job := hleast L.job (List.mem_filter.2 ⟨hL, beq_self_eq_true _⟩)
      obtain ⟨e, hel, rfl⟩ := mem_jobs.1 hjs
      have hdef : s.jDeficit e.2.job = s.jDeficit L.job := by simpa using hdef
      by_cases heq : e = (lid, L)
      · rw [heq]
      · obtain h | ⟨-, h | ⟨h, -⟩⟩ := hfirst e hel heq
        · omega
        · omega
        · rw [h]
  have hfind : l.find? (fun e => e.2.job == L.job) = some (lid, L) := by
    refine find?_of_least hl he (beq_self_eq_true _) fun e hel hjob => ?_
    by_cases heq : e = (lid, L)
    · rw [heq]
    · have hjob : e.2.job = L.job := by simpa using hjob
      obtain h | ⟨-, h | ⟨-, h⟩⟩ := hfirst e hel heq
      · rw [hjob] at h; omega
      · omega
      · exact h.le
  simp only [choice, hbest, hlowest, hfind, Option.map_some]

theorem effPrio_lt (s : State) (X : Launch) : s.effPrio X < 8 := Nat.lt_succ_of_le (Nat.min_le_left 7 _)

/-- Launch `(lid, L)` comes before launch `e` (03 R69). -/
def First (s : State) (lid : Nat) (L : Launch) (e : Nat × Launch) : Prop :=
  s.effPrio e.2 < s.effPrio L ∨ (s.effPrio e.2 = s.effPrio L ∧ Before s lid L e)

/-- The dispatcher picks the launch that comes before every other. -/
theorem pickBest_of_first (hkeys : keysRise 0 s.launches = true) (hL : (lid, L) ∈ s.launches)
    (hready : s.isReady L = true) (hskip : L.skipped = false)
    (hfirst : ∀ e ∈ s.launches, s.isReady e.2 = true → e.2.skipped = false → e ≠ (lid, L) → First s lid L e) :
    s.pickBest = some lid := by
  rw [pickBest_eq]
  refine findSome?_levels (effPrio_lt s L) ?_ fun lv hlv => ?_
  · refine choice_of_first ?_ (mem_candidates.2 ⟨hL, hready, hskip, rfl⟩) fun e he hne => ?_
    · exact ((keysRise_pairwise hkeys).2.filter _).filter _
    · obtain ⟨hmem, her, hes, hprio⟩ := mem_candidates.1 he
      obtain h | ⟨-, h⟩ := hfirst e hmem her hes hne
      · exact absurd hprio h.ne
      · exact h
  · have hnone : candidates s lv = [] := by
      refine List.eq_nil_iff_forall_not_mem.2 fun e he => ?_
      obtain ⟨hmem, her, hes, hprio⟩ := mem_candidates.1 he
      by_cases hne : e = (lid, L)
      · rw [hne] at hprio
        exact hlv.ne hprio
      · obtain h | ⟨h, -⟩ := hfirst e hmem her hes hne
        · exact Nat.lt_asymm hlv (hprio ▸ h)
        · exact hlv.ne (h.symm.trans hprio)
    rw [hnone]
    rfl

end Choice

section Marked
variable (s : State)

/-- The marks of ready launches change nothing that does not hang on when a launch became ready. -/
theorem markReady_launch_map {γ : Type} (f : Launch → γ) (hf : ∀ L r, f { L with readySince := r } = f L) (k : Nat) :
    (s.markReady.launch k).map f = (s.launch k).map f := by
  rw [markReady_launch, Option.map_map]
  congr 1
  funext L
  obtain ⟨r, h⟩ := stampReady_frame s L
  rw [Function.comp, h, hf]

theorem keysRise_markReady (h : keysRise 0 s.launches = true) : keysRise 0 s.markReady.launches = true := by
  rw [markReady_eq]
  exact keysRise_map_snd _ h

theorem savedClusters_markReady (k : Nat) : s.markReady.savedClusters k = s.savedClusters k := by
  rw [State.savedClusters, markReady_launch_map s (fun l => l.flags % 2 == 1) (fun _ _ => rfl), markReady_eq]
  rfl

theorem tailHeld_eq (X : Launch) : s.tailHeld X =
    X.tailOf.any (fun p => ((s.launch p).map (·.stage)).any (· != .done)) := by
  rw [State.tailHeld]
  cases X.tailOf with
  | none => rfl
  | some p =>
    simp only [Option.any_some]
    cases s.launch p <;> rfl

theorem tailHeld_markReady (X : Launch) : s.markReady.tailHeld X = s.tailHeld X := by
  simp only [tailHeld_eq, markReady_launch_map s (fun l => l.stage) (fun _ _ => rfl)]

theorem isReady_markReady (X : Launch) : s.markReady.isReady X = s.isReady X := by
  rw [State.isReady, savedClusters_markReady, tailHeld_markReady, markReady_eq]
  rfl

theorem jobCores_markReady (j : Nat) : s.markReady.jobCores j = s.jobCores j := by
  simp only [State.jobCores, State.blkLaunch, markReady_launch_map s (fun l => l.job) (fun _ _ => rfl)]
  rw [markReady_eq]

theorem roomFor_markReady (L : Launch) (cs : List Nat) (c : Nat) : s.markReady.roomFor L cs c = s.roomFor L cs c := by
  simp only [State.roomFor, State.blkLaunch, markReady_launch_map s (fun l => l.kscr + l.qscr) (fun _ _ => rfl)]
  rw [markReady_eq]
  rfl

theorem coresFor_markReady (L : Launch) (cs : List Nat) (d : Nat) : s.markReady.coresFor L cs d = s.coresFor L cs d := by
  simp only [State.coresFor, jobCores_markReady, roomFor_markReady]
  rw [markReady_eq]
  rfl

end Marked

end Sys2Proof.Machine.WorkDispatch
end

section
/-!
PROOFS. PICK_LAUNCH: the die, the core and the partition of a block, and what its placement makes (02 R45 to R48; 03 R69,
R70).
-/

namespace Sys2Proof.Machine.WorkDispatch

open WorkQueues Management

section Dies
variable {s : State} {L : Launch} {cs : List Nat}

theorem coresFor_length_le (s : State) (L : Launch) (cs : List Nat) (d : Nat) : (s.coresFor L cs d).length ≤ 64 := by
  refine (List.length_filter_le _ _).trans ?_
  rw [dieCores, List.length_map, List.length_range]
  exact le_rfl

theorem dieCores_rise (d : Nat) : (dieCores d).Pairwise (· < ·) := by
  rw [dieCores, List.pairwise_map]
  exact List.pairwise_lt_range.imp fun h => by omega

/-- How many cores of each die a block may stand on (03 R70). -/
def dieCounts (s : State) (L : Launch) (cs : List Nat) : List (Nat × Nat) :=
  (List.range Config.dies).map (fun d => (d, (s.coresFor L cs d).length))

theorem mem_dieCounts {x : Nat × Nat} (h : x ∈ dieCounts s L cs) :
    x.1 < Config.dies ∧ x.2 = (s.coresFor L cs x.1).length := by
  obtain ⟨d, hd, rfl⟩ := List.mem_map.1 h
  exact ⟨List.mem_range.1 hd, rfl⟩

theorem mem_of_mem_sort {fuel d : Nat} {xs : List (Nat × Nat)} (h : d ∈ State.dieOrder.sort fuel xs) :
    d ∈ xs.map Prod.fst := by
  induction fuel generalizing xs with
  | zero => cases h
  | succ fuel ih =>
    rw [State.dieOrder.sort] at h
    split at h
    · cases h
    · rename_i x hx
      obtain rfl | h := List.mem_cons.1 h
      · exact List.mem_map_of_mem (minBy_least hx).1
      · obtain ⟨y, hy, rfl⟩ := List.mem_map.1 (ih h)
        exact List.mem_map_of_mem (List.mem_filter.1 hy).1

theorem dieOrder_eq (hdie : L.die = none) : s.dieOrder L cs = State.dieOrder.sort 4 (dieCounts s L cs) := by
  rw [State.dieOrder, hdie]
  rfl

theorem lt_of_mem_dieOrder {d : Nat} (hdie : L.die = none) (h : d ∈ s.dieOrder L cs) : d < Config.dies := by
  rw [dieOrder_eq hdie] at h
  obtain ⟨x, hx, rfl⟩ := List.mem_map.1 (mem_of_mem_sort h)
  exact (mem_dieCounts hx).1

/-- The first die of the placer's order has the most cores, and is the lowest of those (03 R70). -/
theorem dieOrder_first (hdie : L.die = none) : ∃ d r, s.dieOrder L cs = d :: r ∧ d < Config.dies ∧
    ∀ d', d' < Config.dies → (s.coresFor L cs d').length ≤ (s.coresFor L cs d).length ∧
      ((s.coresFor L cs d').length = (s.coresFor L cs d).length → d ≤ d') := by
  have hrise : (dieCounts s L cs).Pairwise (fun a b => a.1 < b.1) := by
    rw [dieCounts, List.pairwise_map]
    exact List.pairwise_lt_range
  cases hmin : minBy (fun x : Nat × Nat => 1024 - x.2) (dieCounts s L cs) with
  | none => exact absurd (minBy_eq_none.1 hmin) (by simp [dieCounts, Config.dies])
  | some x =>
    obtain ⟨hx, hleast⟩ := minBy_first hrise hmin
    obtain ⟨hlt, hcount⟩ := mem_dieCounts hx
    refine ⟨x.1, State.dieOrder.sort 3 ((dieCounts s L cs).filter (fun y => y.1 != x.1)), ?_, hlt, fun d' hd' => ?_⟩
    · rw [dieOrder_eq hdie, State.dieOrder.sort, hmin]
    · obtain ⟨hle, hfirst⟩ := hleast (d', (s.coresFor L cs d').length)
        (List.mem_map.2 ⟨d', List.mem_range.2 hd', rfl⟩)
      have hbound := coresFor_length_le s L cs x.1
      have hbound' := coresFor_length_le s L cs d'
      dsimp only at hle hfirst
      rw [hcount] at hle hfirst
      refine ⟨by omega, fun heq => ?_⟩
      obtain h | h := hfirst (by omega)
      · exact (congrArg Prod.fst h).ge
      · exact h.le

end Dies

section Parts
variable (s : State) (c : Nat)

/-- The partition that takes a block's first warp (03 R70). -/
def firstPart (s : State) (c : Nat) : Nat := pickPart ((List.range 4).map (s.freeRegs c))

theorem firstPart_most : firstPart s c < 4 ∧ ∀ p, p < 4 → s.freeRegs c p ≤ s.freeRegs c (firstPart s c) := by
  have hfree : ∀ p, p < 4 → ((List.range 4).map (s.freeRegs c)).getD p 0 = s.freeRegs c p := fun p hp => by
    simp [hp]
  have hmax : ∀ p, s.freeRegs c p ≤ 1024 := fun p => Nat.sub_le _ _
  cases hmin : minBy (fun p => 4096 - ((List.range 4).map (s.freeRegs c)).getD p 0) [0, 1, 2, 3] with
  | none => exact nomatch minBy_eq_none.1 hmin
  | some p =>
    have hp : firstPart s c = p := by rw [firstPart, pickPart, hmin]; rfl
    obtain ⟨hmem, hleast⟩ := minBy_least hmin
    have hlt : p < 4 := by
      simp only [List.mem_cons, List.not_mem_nil, or_false] at hmem
      omega
    rw [hp]
    refine ⟨hlt, fun i hi => ?_⟩
    have hle := hleast i (by simp only [List.mem_cons, List.not_mem_nil, or_false]; omega)
    rw [hfree p hlt, hfree i hi] at hle
    have := hmax p
    have := hmax i
    omega

end Parts

section Warps
variable {L : Launch} {num p0 slot age : Nat}

theorem newWarp_lane {l : Nat} (hl : l < 32) : (L.newWarp num p0 slot age).lane l =
    Lane.fresh (if l < (if (L.roleOf num).2 = true ∧ roleLast (L.role (L.roleOf num).1) ≠ 0
      then roleLast (L.role (L.roleOf num).1) else 32) then .live else .never)
      (BitVec.ofNat 64 (L.code + roleEntry (L.role (L.roleOf num).1))) := by
  have hlanes : (L.newWarp num p0 slot age).lanes = (List.range 32).map (fun k =>
      Lane.fresh (if k < (if (L.roleOf num).2 && roleLast (L.role (L.roleOf num).1) != 0
        then roleLast (L.role (L.roleOf num).1) else 32) then .live else .never)
        (BitVec.ofNat 64 (L.code + roleEntry (L.role (L.roleOf num).1)))) := rfl
  rw [Warp.lane, hlanes]
  simp [hl]

/-- The uniform registers of a warp as it begins (02 R47). -/
theorem newWarp_uniform {n : Nat} (hn : n < 128) : fget 0 n (L.newWarp num p0 slot age).u =
    if n = 0 then BitVec.ofNat 32 L.args else if n = 1 then BitVec.ofNat 32 (L.args / 2 ^ 32) else 0 := by
  have hu : (L.newWarp num p0 slot age).u = (if L.g16 then [0, 1] else [0]).foldl (fun u h =>
      fset 0 (128 * h + 1) (BitVec.ofNat 32 (L.args / 2 ^ 32)) (fset 0 (128 * h) (BitVec.ofNat 32 L.args) u)) [] := rfl
  have hpair : n ≠ 128 * 1 := by omega
  have hpair' : n ≠ 128 * 1 + 1 := by omega
  rw [hu]
  split
  all_goals
    simp only [List.foldl_cons, List.foldl_nil, fget_fset, fget, if_neg hpair, if_neg hpair', Nat.mul_zero, Nat.zero_add]
    by_cases hn : n = 0
    · rw [if_pos hn, hn]
      rfl
    · rw [if_neg hn, if_neg hn]

/-- A block's warps are put into the table one after the other. -/
theorem tget_putAll {β : Type} {b n k : Nat} (hk : k < n) (f : Nat → β) (t : Tbl β) :
    tget (b + k) (((List.range n).map (fun i => (b + i, f i))).foldl (fun t e => tset e.1 e.2 t) t) = some (f k) := by
  refine foldl_sets (tget (b + k)) (a := (b + k, f k)) (List.mem_map.2 ⟨k, List.mem_range.2 hk, rfl⟩)
    (fun t => tget_tset_self _ _ t) (fun e he hne t => tget_tset_of_ne ?_ e.2 t) t
  obtain ⟨i, -, rfl⟩ := List.mem_map.1 he
  rintro heq
  obtain rfl : k = i := by simpa using heq
  exact hne rfl

theorem tget_putAll_of_ne {β : Type} {b n j : Nat} (hj : ∀ i, i < n → j ≠ b + i) (f : Nat → β) (t : Tbl β) :
    tget j (((List.range n).map (fun i => (b + i, f i))).foldl (fun t e => tset e.1 e.2 t) t) = tget j t := by
  refine foldl_keeps (tget j) (fun e he t => tget_tset_of_ne ?_ e.2 t) t
  obtain ⟨i, hi, rfl⟩ := List.mem_map.1 he
  exact hj i (List.mem_range.1 hi)

end Warps

end Sys2Proof.Machine.WorkDispatch
end

section
/-!
PROOFS. PICK_LAUNCH: what the placement of a cluster of one block makes of the state (02 R45 to R48; 03 R69, R70).
-/

namespace Sys2Proof.Machine.WorkDispatch

open WorkQueues Management

section Block
variable {s : State} {L X : Launch} {c : Nat}

/-- The block that a placement begins (02 R45, R48). -/
def newBlock (L : Launch) (cluster rank core : Nat) (s : State) : Block :=
  { launch := L.id, cluster := cluster, rank := rank, core := core, slot := s.freeSlot core,
    done := false, p0 := firstPart s core, kbase := s.scratchBase core (L.kscr + L.qscr),
    qbase := s.scratchBase core (L.kscr + L.qscr) + L.kscr,
    bars := List.replicate L.barsN Barrier.idle, cbufs := L.cbdesc.map CBuf.ofDesc,
    streams := List.replicate 8 none, tiles := List.replicate L.tiles Tile.init,
    nwarps := L.warpsPB, stopping := false, savedOn := none, held := false, saveOrder := 0,
    imageAt := 0, resumeWait := false }

/-- Warp `k` of that block. -/
def blockWarp (L : Launch) (core : Nat) (s : State) (k : Nat) : Warp :=
  s.pedricStart L (L.newWarp k (firstPart s core)
    ((s.warpSlots core ((firstPart s core + k) % 4)).getD (k / 4) 0) (s.nextAge + k))

/-- The table of the warps with those of that block. -/
def withWarps (L : Launch) (core : Nat) (s : State) : Tbl Warp :=
  ((List.range L.warpsPB).map (fun k => (32 * s.nextBlock + k, blockWarp L core s k))).foldl
    (fun t e => tset e.1 e.2 t) s.warps

/-- The launch with the core of its new block. -/
def onCore (lost : Bool) (core : Nat) (X : Launch) : Launch := { X with
  status := if lost && X.status == 0 then 0x10 else X.status,
  coresUsed := if X.coresUsed.contains core then X.coresUsed else X.coresUsed ++ [core] }

theorem modLaunch_of_launch {k : Nat} (h : s.launch k = some X) (f : Launch → Launch) :
    s.modLaunch k f = { s with launches := tset k (f X) s.launches } := by
  have h' : tget k s.launches = some X := h
  rw [State.modLaunch, h']

/-- The state in which the block and its warps stand (02 R45, R48). -/
def blockBegun (L : Launch) (cluster rank core : Nat) (s : State) : State :=
  { s with blocks := tset s.nextBlock (newBlock L cluster rank core s) s.blocks, nextBlock := s.nextBlock + 1,
           nextAge := s.nextAge + L.warpsPB, warps := withWarps L core s }

/-- What a placed block costs its job (03 R69). -/
def payFor (L : Launch) (s : State) : State :=
  s.setReg (jOff L.job + 0x1C) (BitVec.ofInt 32 (s.jDeficit L.job - L.warpsPB))

theorem placeBlock_eq {cluster rank : Nat} (hp : L.parent = none) : s.placeBlock L cluster rank c =
    payFor L ((blockBegun L cluster rank c s).modLaunch L.id (onCore s.hostLost c)) := by
  simp only [State.placeBlock, hp, Option.isSome_none, Bool.false_eq_true, if_false]
  rfl

/-- The launch after the placement of its next cluster (02 R50; 03 R70). -/
def advanced (pr now : Nat) (X : Launch) : Launch :=
  { X with nextCluster := X.nextCluster + 1, prio := if X.nextCluster = 0 then pr else X.prio,
           readySince := now + 1, die := none,
           stage := if X.nextCluster + 1 = X.clusters then .running else X.stage }

/-- The end of a cluster's placement, its blocks placed. -/
def clusterDone (L : Launch) (s : State) : State :=
  State.modLaunch L.id (advanced (s.effPrio L) s.gtime)
    { s with clusters := s.clusters ++ [{ launch := L.id, idx := L.nextCluster,
                                          cbar := List.replicate 4 Barrier.idle, placedSeq := s.nextPlaced }],
             nextPlaced := s.nextPlaced + 1 }

theorem placeCluster_eq : s.placeCluster L =
    (s.dieOrder L L.costs).findSome? (fun d => (s.placeOn L L.nextCluster d L.clSize 0).map (clusterDone L)) := rfl

/-- A cluster of one block stands on the fitting core with the fewest resident warps (03 R70). -/
theorem placeOn_one {cluster d : Nat} : s.placeOn L cluster d 1 0 =
    (minBy (fun c => (s.coreWarps c).length) (s.coresFor L L.costs d)).map (s.placeBlock L cluster 0) := by
  rw [State.placeOn]
  cases minBy (fun c => (s.coreWarps c).length) (s.coresFor L L.costs d) with
  | none => rfl
  | some c => rfl

theorem placeCluster_of_no_room (hdie : L.die = none) (hone : L.clSize = 1)
    (hroom : ∀ d, d < Config.dies → s.coresFor L L.costs d = []) : s.placeCluster L = none := by
  rw [placeCluster_eq, List.findSome?_eq_none_iff]
  intro d hd
  rw [hone, placeOn_one, hroom d (lt_of_mem_dieOrder hdie hd)]
  rfl

/-- A cluster of one block is placed on the first die, and there on the core with the fewest resident warps (03 R70). -/
theorem placeCluster_of_room (hdie : L.die = none) (hone : L.clSize = 1)
    (hroom : ∃ d, d < Config.dies ∧ s.coresFor L L.costs d ≠ []) :
    ∃ d c, s.placeCluster L = some (clusterDone L (s.placeBlock L L.nextCluster 0 c)) ∧ d < Config.dies ∧
      c ∈ s.coresFor L L.costs d ∧
      (∀ d', d' < Config.dies → (s.coresFor L L.costs d').length ≤ (s.coresFor L L.costs d).length ∧
        ((s.coresFor L L.costs d').length = (s.coresFor L L.costs d).length → d ≤ d')) ∧
      ∀ c', c' ∈ s.coresFor L L.costs d → (s.coreWarps c).length ≤ (s.coreWarps c').length ∧
        ((s.coreWarps c).length = (s.coreWarps c').length → c ≤ c') := by
  obtain ⟨d, r, horder, hd, hfirst⟩ := dieOrder_first (s := s) (cs := L.costs) hdie
  cases hmin : minBy (fun c => (s.coreWarps c).length) (s.coresFor L L.costs d) with
  | none =>
    obtain ⟨d', hd', hne⟩ := hroom
    have hle := (hfirst d' hd').1
    rw [minBy_eq_none.1 hmin, List.length_nil, Nat.le_zero, List.length_eq_zero_iff] at hle
    exact absurd hle hne
  | some c =>
    have hrise : (s.coresFor L L.costs d).Pairwise (· < ·) := by
      rw [State.coresFor]
      exact (dieCores_rise d).filter _
    obtain ⟨hc, hleast⟩ := minBy_first hrise hmin
    refine ⟨d, c, ?_, hd, hc, hfirst, fun c' hc' => ⟨(hleast c' hc').1, fun heq => ?_⟩⟩
    · rw [placeCluster_eq, horder, List.findSome?_cons, hone, placeOn_one, hmin]
      rfl
    · obtain rfl | h := (hleast c' hc').2 heq.symm
      · exact le_rfl
      · exact h.le

/-- The next block of `L`, a launch whose clusters are of one block, begins on core `c` (02 R45 to R48; 03 R70). -/
structure BlockPlaced (L : Launch) (c : Nat) (s t : State) : Prop where
  block : t.block s.nextBlock = some (newBlock L L.nextCluster 0 c s)
  blocks : ∀ k, k ≠ s.nextBlock → t.block k = s.block k
  warps : t.warps = withWarps L c s
  launch : ∃ X, t.launch L.id = some X ∧ X.nextCluster = L.nextCluster + 1 ∧
    X.prio = (if L.nextCluster = 0 then s.effPrio L else L.prio) ∧
    X.stage = (if L.nextCluster + 1 = L.clusters then .running else L.stage)
  launches : ∀ k, k ≠ L.id → (t.launch k).map (fun L => { L with readySince := 0 }) =
    (s.launch k).map (fun L => { L with readySince := 0 })
  deficit : t.jDeficit L.job = (BitVec.ofInt 32 (s.jDeficit L.job - L.warpsPB)).toInt
  mem : t.mem = s.mem
  cores : t.cores = s.cores

theorem payFor_reg_of_ne {o : Nat} (ho : o % 4 = 0) (hne : o ≠ jOff L.job + 0x1C) (t : State) :
    (payFor L t).reg o = t.reg o := setDeficit_reg_of_ne ho hne _ t

theorem payFor_effPrio (t : State) : (payFor L t).effPrio L = t.effPrio L := by
  have hcap : (payFor L t).jPcap L.job = t.jPcap L.job := by
    unfold State.jPcap State.regF
    rw [payFor_reg_of_ne]
    · unfold jOff; omega
    · omega
  unfold State.effPrio
  rw [hcap]
  rfl

theorem jDeficit_of_bar2 {t u : State} (h : u.bar2 = t.bar2) (j : Nat) : u.jDeficit j = t.jDeficit j := by
  unfold State.jDeficit State.reg
  rw [h]

theorem payFor_jDeficit (t : State) :
    (payFor L t).jDeficit L.job = (BitVec.ofInt 32 (t.jDeficit L.job - L.warpsPB)).toInt :=
  congrArg BitVec.toInt (setReg_reg_self t _ _)

/-- The end of a cluster's placement, its one block begun and paid for. -/
theorem clusterDone_payFor {t : State} (hX : t.launch L.id = some X) : ∃ cl n, clusterDone L (payFor L t) =
    { t with bar2 := (payFor L t).bar2, clusters := cl, nextPlaced := n,
             launches := tset L.id (advanced (t.effPrio L) t.gtime X) t.launches } := by
  rw [clusterDone, payFor_effPrio]
  have hlaunch : ({ payFor L t with
      clusters := (payFor L t).clusters ++ [{ launch := L.id, idx := L.nextCluster,
                                              cbar := List.replicate 4 Barrier.idle,
                                              placedSeq := (payFor L t).nextPlaced }],
      nextPlaced := (payFor L t).nextPlaced + 1 } : State).launch L.id = some X := hX
  rw [modLaunch_of_launch hlaunch]
  exact ⟨_, _, rfl⟩

theorem blockPlaced (hp : L.parent = none) (hL : s.launch L.id = some L) :
    BlockPlaced L c s (clusterDone L (s.placeBlock L L.nextCluster 0 c)) := by
  have hbegun : (blockBegun L L.nextCluster 0 c s).launch L.id = some L := hL
  rw [placeBlock_eq hp, modLaunch_of_launch hbegun]
  obtain ⟨t, ht⟩ : ∃ t : State, t = { blockBegun L L.nextCluster 0 c s with
    launches := tset L.id (onCore s.hostLost c L) (blockBegun L L.nextCluster 0 c s).launches } := ⟨_, rfl⟩
  have hX : t.launch L.id = some (onCore s.hostLost c L) := by rw [ht]; exact tget_tset_self _ _ _
  have hothers : ∀ k, k ≠ L.id → t.launch k = s.launch k := fun k hk => by rw [ht]; exact tget_tset_of_ne hk _ _
  have hprio : t.effPrio L = s.effPrio L := by rw [ht]; rfl
  have hbar2 : t.bar2 = s.bar2 := by rw [ht]; rfl
  rw [← ht]
  obtain ⟨cl, n, hdone⟩ := clusterDone_payFor hX
  have hpaid : (clusterDone L (payFor L t)).jDeficit L.job =
      (BitVec.ofInt 32 (s.jDeficit L.job - L.warpsPB)).toInt := by
    rw [jDeficit_of_bar2 (t := payFor L t) (by rw [hdone]), payFor_jDeficit, jDeficit_of_bar2 hbar2]
  rw [hdone, hprio] at hpaid ⊢
  refine ⟨?_, ?_, ?_, ⟨_, tget_tset_self _ _ _, rfl, rfl, rfl⟩, fun k hk => ?_, ?_, ?_, ?_⟩
  · rw [ht]; exact tget_tset_self _ _ _
  · rw [ht]; exact fun k hk => tget_tset_of_ne hk _ _
  · rw [ht]; rfl
  · exact congrArg _ ((tget_tset_of_ne hk _ _).trans (hothers k hk))
  · exact hpaid
  · rw [ht]; rfl
  · rw [ht]; rfl

theorem BlockPlaced.markReady {t : State} (h : BlockPlaced L c s t) : BlockPlaced L c s t.markReady := by
  obtain ⟨X, hX, hnext, hprio, hstage⟩ := h.launch
  obtain ⟨r, hr⟩ := stampReady_frame t X
  refine ⟨?_, ?_, ?_, ⟨stampReady t X, ?_, ?_, ?_, ?_⟩, ?_, ?_, ?_, ?_⟩
  · rw [markReady_eq]; exact h.block
  · rw [markReady_eq]; exact h.blocks
  · rw [markReady_eq]; exact h.warps
  · rw [markReady_launch, hX]; rfl
  · rw [hr]; exact hnext
  · rw [hr]; exact hprio
  · rw [hr]; exact hstage
  · exact fun k hk => (markReady_launch_unready t k).trans (h.launches k hk)
  · rw [markReady_eq]; exact h.deficit
  · rw [markReady_eq]; exact h.mem
  · rw [markReady_eq]; exact h.cores

end Block

end Sys2Proof.Machine.WorkDispatch
end

section
/-!
PROOFS. PICK_LAUNCH's step, and the obligation on the order of dispatch (02 R45, R47, R48; 03 R69, R70; 10 R242).
-/

namespace Sys2Proof.Machine.WorkDispatch

open WorkQueues Management

section Pick
variable {s : State} {L : Launch} {k : Nat}

theorem exec_pickLaunch (s : State) : exec .pickLaunch s = .next (evPickLaunch s).finish := rfl

/-- A launch that fits nowhere is passed over (03 R70). -/
def passedOver (now : Nat) (L : Launch) : Launch := { L with skipped := true, skipSince := now }

/-- PICK_LAUNCH of a launch with no saved clusters, placed cluster by cluster (03 R69, R70). -/
theorem evPickLaunch_of_pick (hpick : s.markReady.pickBest = some k) (hL : s.markReady.launch k = some L)
    (hid : L.id = k) (hsaved : s.savedClusters k = []) (hflags : L.flags % 2 = 0) :
    evPickLaunch s = ((s.markReady.placeCluster L).map State.markReady).getD
      (s.markReady.modLaunch k (passedOver s.gtime)) := by
  have hflags' : ¬ L.flags % 2 = 1 := by omega
  simp only [evPickLaunch, hpick, Option.bind_some, hL, hid, savedClusters_markReady, hsaved, if_true, State.placeNext,
    if_neg hflags']
  cases s.markReady.placeCluster L with
  | none => rfl
  | some t => rfl

theorem effPrio_markReady (X : Launch) : s.markReady.effPrio X = s.effPrio X := by
  rw [markReady_eq]
  rfl

theorem jDeficit_markReady (j : Nat) : s.markReady.jDeficit j = s.jDeficit j := by
  rw [markReady_eq]
  rfl

theorem freeRegs_markReady (c p : Nat) : s.markReady.freeRegs c p = s.freeRegs c p := by
  rw [markReady_eq]
  rfl

theorem coreWarps_markReady (c : Nat) : s.markReady.coreWarps c = s.coreWarps c := by
  rw [markReady_eq]
  rfl

/-- The dispatcher picks the launch that comes first, when the ready launches are marked. -/
theorem pickBest_markReady (hkeys : keysRise 0 s.launches = true) (hL : s.markReady.launch k = some L)
    (hready : s.isReady L = true) (hskip : L.skipped = false)
    (hfirst : ∀ i X, s.markReady.launch i = some X → i ≠ k → s.isReady X = true → X.skipped = false →
      First s k L (i, X)) : s.markReady.pickBest = some k := by
  have hkeys' := keysRise_markReady s hkeys
  refine pickBest_of_first hkeys' (mem_of_tget hL) ((isReady_markReady s L).trans hready) hskip fun e he her hes hne => ?_
  have hmem := (tget_of_mem hkeys' he).1
  have hkey : e.1 ≠ k := fun hek => hne (Prod.ext hek (Option.some.inj ((hek ▸ hmem).symm.trans hL)))
  have := hfirst e.1 e.2 hmem hkey ((isReady_markReady s e.2).symm.trans her) hes
  simpa only [First, Before, effPrio_markReady, jDeficit_markReady] using this

end Pick

section Placed
variable {s t : State} {L : Launch} {c : Nat}

/-- The warps of a placed block begin at their role's entry (02 R45, R47; 04 R93, R99). -/
theorem BlockPlaced.warp (h : BlockPlaced L c s t) (hped : L.pedric = false) {k : Nat} (hk : k < L.warpsPB) :
    ∃ slot, t.warp (32 * s.nextBlock + k) = some (L.newWarp k (firstPart s c) slot (s.nextAge + k)) := by
  refine ⟨(s.warpSlots c ((firstPart s c + k) % 4)).getD (k / 4) 0, ?_⟩
  rw [State.warp, h.warps, withWarps, tget_putAll hk, blockWarp, State.pedricStart, hped]
  rfl

/-- What a warp of a placed block has as it begins. -/
structure WarpBegins (L : Launch) (p0 age k : Nat) (w : Warp) : Prop where
  num : w.num = k
  role : w.role = (L.roleOf k).1
  part : w.part = (p0 + k) % 4
  vregs : w.vregs = roleVregs (L.role (L.roleOf k).1)
  sregs : w.sregs = roleSregs (L.role (L.roleOf k).1)
  v : w.v = []
  g : w.g = [0, 0]
  age : w.age = age + k
  argLow : fget 0 0 w.u = BitVec.ofNat 32 L.args
  argHigh : fget 0 1 w.u = BitVec.ofNat 32 (L.args / 2 ^ 32)
  zero : ∀ n, 2 ≤ n → n < 128 → fget 0 n w.u = 0
  lane : ∀ l, l < 32 → w.lane l = Lane.fresh (if l < (if (L.roleOf k).2 = true ∧ roleLast (L.role (L.roleOf k).1) ≠ 0
    then roleLast (L.role (L.roleOf k).1) else 32) then .live else .never)
    (BitVec.ofNat 64 (L.code + roleEntry (L.role (L.roleOf k).1)))

theorem newWarp_begins (L : Launch) (k p0 slot age : Nat) : WarpBegins L p0 age k (L.newWarp k p0 slot (age + k)) where
  num := rfl
  role := rfl
  part := rfl
  vregs := rfl
  sregs := rfl
  v := rfl
  g := rfl
  age := rfl
  argLow := newWarp_uniform (by omega)
  argHigh := newWarp_uniform (by omega)
  zero n h h' := by rw [newWarp_uniform h', if_neg (by omega), if_neg (by omega)]
  lane _ hl := newWarp_lane hl

theorem BlockPlaced.warp_of_ne (h : BlockPlaced L c s t) (hwarps : L.warpsPB ≤ 32) {k : Nat}
    (hk : k / 32 ≠ s.nextBlock) : t.warp k = s.warp k := by
  rw [State.warp, h.warps, withWarps, tget_putAll_of_ne fun i hi => by omega]
  rfl

theorem BlockPlaced.paid (h : BlockPlaced L c s t) (hwarps : L.warpsPB ≤ 32)
    (hdef : -(2 ^ 31 : Int) + 1024 ≤ s.jDeficit L.job) : t.jDeficit L.job = s.jDeficit L.job - L.warpsPB := by
  have hlt := (jDeficit_bounds s L.job).2
  rw [h.deficit, toInt_ofInt_of_bounds (by omega) (by omega)]

end Placed

/-- Settles O45: REFILL by the deficit of each job, PICK_LAUNCH by the launch that comes first and its placement. -/
theorem dispatchOrder : Obligations.DispatchOrder := by
  unfold Obligations.DispatchOrder
  intro same
  refine ⟨fun s h => ?_, fun s h hjobs => ?_, ?_⟩
  · rw [exec_refill, evRefill_of_not_due h]
  · obtain ⟨u, hexec, hdef, hregs, b, hframe⟩ := exec_refill_of_due h hjobs
    refine ⟨_, hexec, ?_, fun j hj => (hdef j hj).trans (refillTo_eq s j), hregs, fun k _ => ?_, ?_⟩
    · rw [hframe, markReady_eq]
      rfl
    · rw [hframe]
      exact markReady_launch_unready { s with refilled := s.refilled + 1 } k
    · rw [hframe, markReady_eq]
      rfl
  · intro s L k hL hid hready hskip hkeys hjobs hfirst hsaved hflags hone hdie fits
    have hpick := pickBest_markReady hkeys hL hready hskip hfirst
    have hstep := evPickLaunch_of_pick hpick hL hid hsaved hflags
    have hfits : ∀ d, s.markReady.coresFor L L.costs d = fits d := fun d => coresFor_markReady s L L.costs d
    refine ⟨fun hnone => ?_, fun hsome hblocks hwarps hparent hhost hpb => ?_⟩
    · rw [placeCluster_of_no_room hdie hone fun d hd => (hfits d).trans (hnone d hd), modLaunch_of_launch hL] at hstep
      refine ⟨_, (exec_pickLaunch s).trans (next_finish_congr hstep), tget_tset_self _ _ _, fun i hi => ?_, ?_⟩
      · exact (congrArg _ (tget_tset_of_ne hi _ _)).trans (markReady_launch_unready s i)
      · rw [markReady_eq]
        rfl
    · obtain ⟨d, c, hplace, hd, hc, hdies, hcores⟩ := placeCluster_of_room (s := s.markReady) hdie hone
        (by simpa only [hfits] using hsome)
      simp only [hfits, coreWarps_markReady] at hc hdies hcores
      rw [hplace] at hstep
      have hplaced := (blockPlaced (c := c) hparent (hid.symm ▸ hL)).markReady
      obtain ⟨X, hX, hnext, hprio, hstage⟩ := hplaced.launch
      obtain ⟨hpart, hmost⟩ := firstPart_most s.markReady c
      refine ⟨_, d, c, _, X, (exec_pickLaunch s).trans (next_finish_congr hstep), hd, hc, hdies, hcores, hplaced.block,
        hid, rfl, rfl, rfl, rfl, rfl, rfl, rfl, hpart, fun p hp => ?_, fun hped i hi => ?_, fun i hi => ?_,
        hplaced.blocks, hid ▸ hX, hnext, ?_, hstage, fun _ hdef => ?_, fun i hi => ?_, ?_, ?_⟩
      · have hle := hmost p hp
        rw [freeRegs_markReady, freeRegs_markReady] at hle
        exact hle
      · obtain ⟨slot, hw⟩ := hplaced.warp hped hi
        have hb := newWarp_begins L i (firstPart s.markReady c) slot s.markReady.nextAge
        refine ⟨_, _, hw, rfl, hb.num, hb.role, hb.part, hb.vregs, hb.sregs, hb.v, hb.g, hb.age, hb.argLow, hb.argHigh,
          hb.zero, fun l hl => ?_⟩
        rw [hb.lane l hl]
        exact ⟨rfl, rfl, rfl⟩
      · exact hplaced.warp_of_ne hpb hi
      · rw [hprio, effPrio_markReady]
      · exact hplaced.paid hpb hdef
      · exact (hplaced.launches i (hid.symm ▸ hi)).trans (markReady_launch_unready s i)
      · exact hplaced.mem
      · exact hplaced.cores

end Sys2Proof.Machine.WorkDispatch
end

section
/-!
PROOFS. CancelPackets and LaunchEnds speak of every state, and so of states whose tables hold one number twice. There
the first entry answers for the number, and once it goes the second answers. Each statement fails in such a state.
-/

namespace Sys2Proof.Machine.Repeats

theorem exec_cancelGraphPacket (q n : Nat) (s : State) :
    exec (.cancelGraphPacket q n) s = .next (evCancelGraphPacket q n s).finish := rfl

theorem exec_launchComplete (l : Nat) (s : State) :
    exec (.launchComplete l) s = .next (evLaunchComplete l s).finish := rfl

/-- A packet with these bits. -/
def plainPacket (num data : Nat) (st : PktSt) (refs : List Nat) : Pkt :=
  { num := num, data := BitVec.ofNat 512 data, st := st, refs := refs, node := none, graph := none, cancel := false }

/-- A graph of launches 1 and 2 of job 0, which packet 0 of queue 0 opened. -/
def pairGraph : Graph :=
  { job := 0, phase := 0, count := 2, read := 2, left := 2, queue := 0, pkt := some 0, nodes := [1, 2], badNode := false,
    checked := true, cancelled := false }

/-- A launch of that graph, all placed, with one block left. -/
def pairLaunch (id : Nat) : Launch :=
  { Launch.new id 0 0 none 0 0 with checked := true, stage := .running, blocksLeft := 1 }

/-- A block of a launch on core 0. -/
def plainBlock (launch : Nat) (done : Bool) : Block :=
  { launch := launch, cluster := 0, rank := 0, core := 0, slot := 0, done := done, p0 := 0, kbase := 0, qbase := 0, bars := [],
    cbufs := [], streams := [], tiles := [], nwarps := 1, stopping := false, savedOn := none, held := false, saveOrder := 0,
    imageAt := 0, resumeWait := false }

/-- A CANCEL packet, number 1, of the graph of packet 0 (03 R68). -/
def graphCancel : Pkt := plainPacket 1 0x10006 .held []

/-- Block number 1 is listed twice: a completed block of launch 1, then a block of launch 2. A warp of that number is
live, and so is one of block 0, which is launch 1's. -/
def blockTwiceState : State :=
  { State.reset with
    launches := [(1, pairLaunch 1), (2, pairLaunch 2)], graphs := [(0, pairGraph)],
    blocks := [(0, plainBlock 1 false), (1, plainBlock 1 true), (1, plainBlock 2 false)],
    warps := [(0, (pairLaunch 1).newWarp 0 0 0 0), (32, (pairLaunch 2).newWarp 0 0 0 0)],
    queues := [(0, { QState.init with pkts := [plainPacket 0 2 .acting [0], graphCancel], kinds := [2, 6] })] }

theorem heldPacket_graphCancel : HeldPacket 0 graphCancel blockTwiceState :=
  ⟨by decide, by decide +kernel, rfl, rfl, rfl, by decide +kernel, by decide⟩

/-- While launch 1 is cancelled, the end of its warp of block 1 counts as the end of launch 2's last block, so that
launch 2 is at its end before the cancel comes to it (02 R58, R59). -/
theorem cancelGraphPacket_blockTwiceState_launch :
    ((evCancelGraphPacket 0 1 blockTwiceState).launch 2).map (·.cancelled) = some false := by
  decide +kernel

/-- Refutes O44: its clause of CANCEL_GRAPH_PACKET admits a table of blocks that lists a number twice, where a launch
of the graph ends without being cancelled. -/
theorem not_cancelPackets : ¬ Obligations.CancelPackets := by
  unfold Obligations.CancelPackets
  rintro ⟨-, hgraph, -⟩
  obtain ⟨hact, -⟩ :=
    hgraph 0 graphCancel blockTwiceState heldPacket_graphCancel (by decide +kernel) (by decide +kernel)
  obtain ⟨t, ht, hgone, -⟩ := hact (by decide +kernel) (plainPacket 0 2 .acting [0]) 0 (by decide +kernel) rfl (by decide)
    (by decide +kernel)
  obtain ⟨L, hL, hoff, -⟩ := hgone 2 (pairLaunch 2) rfl rfl (.inr rfl)
  have hlaunch := cancelGraphPacket_blockTwiceState_launch
  rw [← State.finish_launch, Host.Outcome.next.inj ((exec_cancelGraphPacket 0 1 blockTwiceState).symm.trans ht), hL,
    Option.map_some, hoff] at hlaunch
  cases hlaunch

/-- Launch 1, made by packet 0, has written its record (02 R55). -/
def recordedLaunch : Launch :=
  { pairLaunch 1 with pkt := some 0, stage := .ending, endStep := 3 }

/-- That launch, in a state whose queue 0 lists number 0 twice: a completed packet, then one that is held. -/
def packetTwiceState : State :=
  { State.reset with
    launches := [(1, recordedLaunch)], graphs := [(0, pairGraph)],
    queues := [(0, { QState.init with pkts := [plainPacket 0 0 .done [], plainPacket 0 0 .held []] })] }

/-- The first packet of the number is done, so that the end of the launch marks none (03 R67). -/
theorem launchComplete_packetTwiceState_pkts : ((evLaunchComplete 1 packetTwiceState).queue 0).pkts =
    [plainPacket 0 0 .done [], plainPacket 0 0 .held []] := by
  decide +kernel

/-- Refutes O46: its last clause admits a queue that lists a number twice, where a packet of the launch's number is
still held when the launch has ended. -/
theorem not_launchEnds : ¬ Obligations.LaunchEnds := by
  unfold Obligations.LaunchEnds
  intro h
  obtain ⟨-, -, -, hlast⟩ := h packetTwiceState 1 recordedLaunch rfl rfl rfl (.inl rfl)
  obtain ⟨-, hend⟩ := hlast rfl
  have hpkts : ∀ p ∈ (packetTwiceState.queue recordedLaunch.queue).pkts, p.data.getLsbD 9 = false := by decide +kernel
  have hsignal : recordedLaunch.signalA = 0 := by decide +kernel
  obtain ⟨t, ht, -, -, -, -, -, -, -, -, hdone, -⟩ := hend packetTwiceState pairGraph (Nat.le_refl 0) rfl (by decide)
    (by decide) (.inl ⟨hsignal, rfl⟩) rfl (Nat.le_refl 2) (fun e he => by cases he) (.inr ⟨0, rfl, hpkts⟩)
  have hlist : (t.queue recordedLaunch.queue).pkts = [plainPacket 0 0 .done [], plainPacket 0 0 .held []] := by
    rw [← Host.Outcome.next.inj ((exec_launchComplete 1 packetTwiceState).symm.trans ht), State.finish_queue]
    exact launchComplete_packetTwiceState_pkts
  cases hdone 0 rfl (plainPacket 0 0 .held []) (by rw [hlist]; simp) rfl

end Sys2Proof.Machine.Repeats
end

section
/-!
PROOFS. The state after reset: each register at the Reset column of its table (03 R61, R63; 13 R292, R296).
-/

namespace Sys2Proof.Machine.AfterReset

section Registers
variable {q j o : Nat}

theorem reset_reg (o : Nat) : State.reset.reg o = bar2Reset (o / 4) := Management.reg_of_bar2_nil rfl o

/-- The first control word of a queue's block holds RLOG 4 and nothing else (03 R61). -/
theorem reset_reg_qControl (hq : q < 16384) : State.reset.reg (qOff q + 8) = 4 := by
  rw [reset_reg, bar2Reset, if_pos (by unfold qOff; omega)]

/-- Every other word of a queue's block is 0 (03 R61). -/
theorem reset_reg_qOther (hq : q < 16384) (ho : o < 0x40) (h : o / 4 ≠ 2) : State.reset.reg (qOff q + o) = 0 := by
  rw [reset_reg, bar2Reset, if_neg (by unfold qOff; omega), if_neg (by unfold qOff; omega),
    if_neg (by unfold qOff; omega)]

/-- The word of ASID and WEIGHT holds WEIGHT 1 (03 R63). -/
theorem reset_reg_jWeight (hj : j < 4096) : State.reset.reg (jOff j + 8) = 0x10000 := by
  rw [reset_reg, bar2Reset, if_neg (by unfold jOff; omega), if_pos (by unfold jOff; omega)]

theorem reset_reg_jState (j : Nat) : State.reset.reg (jOff j + 0xC) = 0 := by
  rw [reset_reg, bar2Reset, if_neg (by unfold jOff; omega), if_neg (by unfold jOff; omega),
    if_neg (by unfold jOff; omega)]

/-- The word of PLIMIT and STEPTH (13 R296). -/
theorem reset_reg_power : State.reset.reg 0x290010 = 0xC0960 := by
  rw [reset_reg]
  decide

/-- From the chip-scratch windows on every register but that of PLIMIT is 0. -/
theorem reset_reg_high (h : 0x140000 ≤ o) (ho : o % 4 = 0) (hne : o ≠ 0x290010) : State.reset.reg o = 0 := by
  rw [reset_reg, bar2Reset, if_neg (by omega), if_neg (by omega), if_neg (by omega)]

end Registers

/-- A queue after reset: a ring of 2^4 packets, off, its counts equal (03 R61). -/
theorem reset_queue {q : Nat} (hq : q < 16384) : State.reset.qRlog q = 4 ∧ State.reset.qEn q = false ∧
    State.reset.qHead q = 0 ∧ State.reset.qTail q = 0 ∧ State.reset.qDone q = 0 := by
  refine ⟨?_, ?_, reset_reg_qOther hq (by omega) (by omega), reset_reg_qOther hq (by omega) (by omega),
    reset_reg_qOther hq (by omega) (by omega)⟩
  · rw [State.qRlog, State.regF, reset_reg_qControl hq]
    rfl
  · rw [State.qEn, State.regF, reset_reg_qControl hq]
    rfl

/-- A job after reset: not open, of weight 1 (03 R63). -/
theorem reset_job {j : Nat} (hj : j < 4096) :
    State.reset.jState j = 0 ∧ State.reset.jWeight j = 1 ∧ State.reset.jAsid j = 0 := by
  refine ⟨?_, ?_, ?_⟩
  · rw [State.jState, State.regF, reset_reg_jState j]
    rfl
  · rw [State.jWeight, State.regF, reset_reg_jWeight hj]
    rfl
  · rw [State.jAsid, State.regF, reset_reg_jWeight hj]
    rfl

/-- Settles O58: nothing is resident after reset, memory lists nothing, and the registers read their reset values. -/
theorem resetState : Obligations.ResetState := by
  unfold Obligations.ResetState
  refine ⟨reset_wf.1, rfl, rfl, rfl, rfl, rfl, rfl, rfl, rfl, rfl, rfl, ?_, ?_, ?_, fun q hq => reset_queue hq,
    fun j hj => reset_job hj, fun o h ho hne => reset_reg_high h ho hne⟩
  · rw [State.regF, reset_reg_high (by omega) (by omega) (by omega)]
    rfl
  · rw [State.regF, reset_reg_power]
    rfl
  · rw [State.regF, reset_reg_power]
    rfl

end Sys2Proof.Machine.AfterReset
end

section
/-!
PROOFS. A device agent's write at a virtual address: what it moves beside memory (08 R178, R182, R184; 12 R278,
R288).
-/

namespace Sys2Proof.Machine.HomeWrites

/-- A state with the memory of another and what the homes of its lines keep there: poison, images and log of undo,
leases, write times, predictors, and replicas with their registers and interrupts. -/
def homesOf (s t : State) : State :=
  { t with fresh := s.fresh, bar2 := s.bar2, irqs := s.irqs, mem := s.mem, poison := s.poison, dram := s.dram,
           lines := s.lines, cores := s.cores, lastGwct := s.lastGwct, inval := s.inval, undoLog := s.undoLog,
           undoFill := s.undoFill, undoWarned := s.undoWarned }

/-- Memory and what the homes of its lines keep change, and nothing else. -/
def HomeMoves (s t : State) : Prop := homesOf s t = s

theorem HomeMoves.refl (s : State) : HomeMoves s s := rfl

theorem HomeMoves.trans {s t u : State} (h : HomeMoves s t) (h' : HomeMoves t u) : HomeMoves s u :=
  (congrArg (homesOf s) (show homesOf t u = t from h')).trans h

section Fields
variable {s t : State} (h : HomeMoves s t)
include h

theorem HomeMoves.queue (k : Nat) : t.queue k = s.queue k := by
  change (homesOf s t).queue k = s.queue k
  rw [show homesOf s t = s from h]

theorem HomeMoves.warps : t.warps = s.warps := by
  change (homesOf s t).warps = s.warps
  rw [show homesOf s t = s from h]

theorem HomeMoves.warp (k : Nat) : t.warp k = s.warp k := by
  rw [State.warp, h.warps]
  rfl

end Fields

section Operations
variable (s : State)

theorem raise_homeMoves (v : Nat) : HomeMoves s (s.raise v) := by
  obtain ⟨is, h⟩ := WorkQueues.raise_frame v s
  rw [h]
  rfl

theorem setRegF_homeMoves (off lo w v : Nat) : HomeMoves s (s.setRegF off lo w v) := rfl

theorem logged_homeMoves (log : List LogLine) (fill : FMap Nat) (off : Nat) (v : Word) :
    HomeMoves s (State.setReg off v { s with undoLog := log, undoFill := fill }) := rfl

theorem warned_homeMoves : HomeMoves s { s with undoWarned := true } := rfl

theorem undoLogLine_homeMoves (line : Nat) (bytes : List Byte) (p : Nat × Nat) :
    HomeMoves s (s.undoLogLine line bytes p) := by
  unfold State.undoLogLine
  dsimp only
  split
  · split
    · exact (setRegF_homeMoves s ..).trans (setRegF_homeMoves ..)
    · split
      · exact HomeMoves.trans (HomeMoves.trans (logged_homeMoves ..) (warned_homeMoves _)) (raise_homeMoves ..)
      · exact logged_homeMoves ..
  · exact .refl s

/-- Before a write the line's image is kept, or logged (12 R288). -/
theorem beforeWrite_homeMoves (loc : Nat) : HomeMoves s (s.beforeWrite loc) := by
  unfold State.beforeWrite
  dsimp only
  split
  · exact .refl s
  split
  · exact undoLogLine_homeMoves ..
  split
  · split
    · exact .refl s
    · exact rfl
  · exact rfl

theorem recall_homeMoves (line : Nat) : HomeMoves s (s.recall line) := by
  unfold State.recall
  split
  · split
    · exact rfl
    · exact .refl s
  · exact .refl s

theorem recallFrom_homeMoves (core : Option Nat) (line : Nat) : HomeMoves s (s.recallFrom core line) := by
  unfold State.recallFrom
  split
  · split
    · exact .refl s
    · exact recall_homeMoves s line
  · exact .refl s

theorem fanOut_homeMoves (line : Nat) : HomeMoves s (s.fanOut line) := by
  unfold State.fanOut
  refine List.foldlRecOn s.sharers _ (motive := fun t => HomeMoves s t) (.refl s) fun t ht e _ => ht.trans ?_
  dsimp only
  split
  · exact .refl t
  · exact rfl

/-- What arrives at a line's home moves only what the home keeps. -/
theorem arrive_homeMoves (core : Option Nat) (line : Nat) : HomeMoves s (s.arrive core line).2 := by
  unfold State.arrive
  dsimp only
  refine ((recallFrom_homeMoves s core line).trans ?_).trans (fanOut_homeMoves ..)
  split <;> exact rfl

theorem written_homeMoves (mem : FMap Byte) (poison : FMap Nat) :
    HomeMoves s { s with mem := mem, poison := poison } := rfl

theorem putBytes_homeMoves (loc : Nat) (bytes : List Byte) : HomeMoves s (s.putBytes loc bytes) :=
  (beforeWrite_homeMoves s loc).trans (written_homeMoves ..)

theorem perform_homeMoves (core : Option Nat) (loc : Nat) (bytes : List Byte) :
    HomeMoves s (s.perform core loc bytes).2 := by
  rw [State.perform]
  exact (arrive_homeMoves s core (loc / 128)).trans (putBytes_homeMoves _ loc bytes)

theorem performUnits_homeMoves (us : List (Nat × Nat)) (bs : List Byte) (g : Nat) :
    HomeMoves s (State.performUnits us bs g s).2 := by
  induction us generalizing bs g s with
  | nil => exact .refl s
  | cons u r ih => exact (perform_homeMoves s none u.1 (bs.take u.2)).trans (ih _ _ _)

end Operations

section Writes
variable {v : Via} {va : Nat} {bs : List Byte} {s t : State}

/-- A write that is performed moves only memory and what the homes keep. -/
theorem vWrite_homeMoves {g : Nat} (h : s.vWrite v va bs = (.ok g, t)) : HomeMoves s t := by
  unfold State.vWrite at h
  split at h
  · cases h
  · cases h
    exact performUnits_homeMoves s _ bs 0

/-- A write that faults leaves the state as it was. -/
theorem vWrite_of_fault {f : FaultInfo} (h : s.vWrite v va bs = (.error f, t)) : t = s := by
  unfold State.vWrite at h
  split at h
  · cases h; rfl
  · cases h

end Writes

end Sys2Proof.Machine.HomeWrites
end

section
/-!
PROOFS. Packets that act as they are read: NOP, WAIT and SIGNAL, doorbells and error clears (03 R61, R62, R65, R67).
-/

namespace Sys2Proof.Machine.QueuePackets

open Sys2Proof.Machine.WorkQueues Sys2Proof.Machine.WorkLaunches Sys2Proof.Machine.HomeWrites

section Reading
variable {q : Nat} {d : BitVec 512} {s : State} {want : BitVec 512 → Bool}

/-- A packet that acts as it is read acts as one already read (03 R62). -/
theorem actPacket_packetIn (h : NextPacket q d s) (hfill : (s.queue q).fill = none) (hw : want d = true)
    (hlaunch : pkType d ≠ 1) (hgraph : pkType d ≠ 2) (f : Pkt → State → State) :
    s.actPacket q (s.qHead q).toNat want f = (s.packetIn q d).actPacket q (s.qHead q).toNat want f := by
  have hin := packetIn_pkt (d := d) none (nextPacket_pkt_none h)
  have hnext := takePacket_next h hw (nextPacket_peek h (.inr ⟨hlaunch, hfill⟩))
    (enterPacket_other h.job hfill hlaunch) hin rfl hgraph
  have hread := takePacket_read hin hw rfl (by simp)
  rw [State.actPacket, State.actPacket, hnext, hread]

end Reading

section Words
variable {q : Nat} {s : State}

/-- A read through a device agent's translations looks at no queue. -/
theorem devRead_queues (qs : Tbl QState) (v : Via) (va fuel n : Nat) :
    State.devRead { s with queues := qs } v va fuel n = s.devRead v va fuel n := by
  induction fuel generalizing va n with
  | zero => rfl
  | succ fuel ih =>
    have hpage : State.devTranslate { s with queues := qs } v va .read = s.devTranslate v va .read := rfl
    have hpoison (loc k : Nat) : State.poisonedR { s with queues := qs } loc k = s.poisonedR loc k := rfl
    have hbytes (loc k : Nat) : State.rdMem { s with queues := qs } loc k = s.rdMem loc k :=
      rdMem_of_bytes fun _ _ _ => rfl
    simp only [State.devRead, hpage, hpoison, hbytes, ih]

theorem vRead_modQueue (f : QState → QState) (v : Via) (va n : Nat) :
    (s.modQueue q f).vRead v va n = s.vRead v va n := devRead_queues _ _ _ _ _

/-- The word at the address of packet `p` of queue `q` is `x` (03 R67). -/
structure WordIs (q : Nat) (p : Pkt) (s : State) (x : Nat) : Prop where
  aligned : pkAddr p.data % 8 = 0
  read : s.vRead (via (s.jAsid (s.qJob q))) (pkAddr p.data) 8 = .ok (natLe 8 x)
  range : x < 2 ^ 64

variable {p : Pkt} {x : Nat}

theorem pktWord_of_wordIs (h : WordIs q p s x) : s.pktWord q p.data = .ok x := by
  simp only [State.pktWord, h.aligned, h.read, leNat_natLe_of_lt (n := 8) rfl h.range]
  rfl

theorem wordIs_modPkt (h : WordIs q p s x) (n : Nat) (f : Pkt → Pkt) : WordIs q p (s.modPkt q n f) x where
  aligned := h.aligned
  read := (vRead_modQueue _ _ _ _).trans h.read
  range := h.range

/-- The comparison that a WAIT packet's SUB names (03 R67). -/
def Compares (p : Pkt) (x : Nat) : Prop :=
  if pkSub p.data = 0 then x = pkValue p.data else if pkSub p.data = 1 then x ≠ pkValue p.data
  else if pkSub p.data = 2 then pkValue p.data ≤ x else x < pkValue p.data

theorem waitPkt_iff (p : Pkt) (x : Nat) : waitPkt p.data x = true ↔ Compares p x := by
  unfold waitPkt Compares
  split
  · next h => simp [h]
  · next h => simp [h]
  · next h => simp [h]
  · next h0 h1 h2 => rw [if_neg h0, if_neg h1, if_neg h2, decide_eq_true_eq]

theorem samplePkt_of_compares (h : WordIs q p s x) (hx : Compares p x) : s.samplePkt q p = s.pktDone q p.num := by
  simp only [State.samplePkt, pktWord_of_wordIs h, (waitPkt_iff p x).2 hx, if_true]

theorem samplePkt_of_not_compares (h : WordIs q p s x) (hx : ¬ Compares p x) : s.samplePkt q p = s := by
  simp only [State.samplePkt, pktWord_of_wordIs h, mt (waitPkt_iff p x).1 hx, Bool.false_eq_true, if_false]

end Words

section Packets
variable {q : Nat} {p : Pkt} {s : State}

theorem nopPacket_held (h : HeldPacket q p s) (ht : pkType p.data = 0) :
    evNopPacket q p.num s = s.pktDone q p.num := by
  rw [evNopPacket, actPacket_held h (by simp [isType, ht])]

/-- The state in which packet `n` waits to complete. -/
def acting (q n : Nat) (s : State) : State := s.modPkt q n (fun y => { y with st := .acting })

theorem acting_pkt (h : s.pkt q p.num = some p) : (acting q p.num s).pkt q p.num = some { p with st := .acting } :=
  modPkt_pkt _ (fun _ => rfl) h

theorem waitPacket_held (h : HeldPacket q p s) (ht : pkType p.data = 4) :
    evWaitPacket q p.num s = (acting q p.num s).samplePkt q p := by
  rw [evWaitPacket, actPacket_held h (by simp [isType, ht])]
  exact if_pos h.held

theorem waitPacketSample_acting (hp : s.pkt q p.num = some p) (ht : pkType p.data = 4) (hst : p.st = .acting) :
    evWaitPacketSample q p.num s = s.samplePkt q p := by
  simp only [evWaitPacketSample, hp, ht, hst, and_self, if_true]

/-- What a SIGNAL packet writes: VALUE, or what it read plus VALUE (03 R67). -/
theorem signalPkt_of_write {u : State} {g x : Nat} (haligned : pkAddr p.data % 8 = 0)
    (hold : (if pkSub p.data == 1 then s.pktWord q p.data else .ok 0) = .ok x)
    (hput : s.vWrite (via (s.jAsid (s.qJob q))) (pkAddr p.data)
      (natLe 8 ((x + pkValue p.data) % 2 ^ 64)) = (.ok g, u)) : s.signalPkt q p = u.pktDone q p.num := by
  simp only [State.signalPkt, hold, haligned, hput]
  rfl

/-- A SIGNAL packet that is the first of its queue performs its access. -/
theorem signalPackets_held (h : HeldPacket q p s) (ht : pkType p.data = 5) (hfirst : (s.qDone q).toNat = p.num) :
    (pkSub p.data = 0 → evSignalStorePacket q p.num s = s.signalPkt q p) ∧
    (pkSub p.data = 1 → evSignalAddPacket q p.num s = s.signalPkt q p) := by
  have hdone : s.pktFirst q p.num = true := by simp [State.pktFirst, hfirst]
  refine ⟨fun hsub => ?_, fun hsub => ?_⟩
  · rw [evSignalStorePacket, actPacket_held h (by simp [isTypeSub, ht, hsub]), if_pos hdone]
  · rw [evSignalAddPacket, actPacket_held h (by simp [isTypeSub, ht, hsub]), if_pos hdone]

end Packets

section Control
variable {q : Nat} (s : State)

/-- Registers of BAR 2 and queues change, and nothing else. -/
def QueueRegs (s t : State) : Prop := ∃ b qs, t = { s with bar2 := b, queues := qs }

theorem setReg_queueRegs (off : Nat) (v : Word) : QueueRegs s (s.setReg off v) := ⟨_, _, rfl⟩

theorem setRegF_queueRegs (off lo w v : Nat) : QueueRegs s (s.setRegF off lo w v) := ⟨_, _, rfl⟩

theorem modQueue_queueRegs (k : Nat) (f : QState → QState) : QueueRegs s (s.modQueue k f) := ⟨_, _, rfl⟩

theorem QueueRegs.trans {s t u : State} (h : QueueRegs s t) (h' : QueueRegs t u) : QueueRegs s u := by
  obtain ⟨b, qs, rfl⟩ := h
  obtain ⟨b', qs', rfl⟩ := h'
  exact ⟨b', qs', rfl⟩

theorem QueueRegs.finish {s t : State} (h : QueueRegs s t) :
    { t.finish with turn := s.turn, tick := s.tick, fresh := s.fresh, gtime := s.gtime, bar2 := s.bar2,
                    queues := s.queues } = s := by
  obtain ⟨b, qs, rfl⟩ := h
  rfl

theorem modQueue_reg (k : Nat) (f : QState → QState) (o : Nat) : (s.modQueue k f).reg o = s.reg o := rfl

/-- The fields of a queue's control word beside FROZEN stand. -/
def FrozenOnly (q : Nat) (s t : State) : Prop := ∀ lo n, lo + n ≤ 23 ∨ (24 ≤ lo ∧ lo + n ≤ 32) →
  t.regF (qOff q + 8) lo n = s.regF (qOff q + 8) lo n

theorem setReg_qReg {o off : Nat} {v : Word} (ho : o % 4 = 0) (hne : o ≠ qOff q + off) (hoff : off % 4 = 0) :
    (s.setReg (qOff q + off) v).reg o = s.reg o :=
  setReg_reg_of_offset_ne s ho (by unfold qOff; omega) hne

theorem setReg_qControl {off : Nat} {v : Word} (hne : off ≠ 8) (hoff : off % 4 = 0) :
    (s.setReg (qOff q + off) v).reg (qOff q + 8) = s.reg (qOff q + 8) :=
  setReg_qReg s (by unfold qOff; omega) (by omega) hoff

theorem setRegF_queue (off lo w v k : Nat) : (s.setRegF off lo w v).queue k = s.queue k := rfl

theorem setFrozen_reg {o : Nat} (ho : o % 4 = 0) (hne : o ≠ qOff q + 8) (v : Nat) :
    (s.setRegF (qOff q + 8) 23 1 v).reg o = s.reg o :=
  s.setRegF_reg_of_ne (by unfold qOff at *; omega)

theorem setFrozen_qFrozen (v : Nat) : (s.setRegF (qOff q + 8) 23 1 v).qFrozen q = decide (v % 2 = 1) := by
  rw [State.qFrozen, State.setRegF_regF_self s (by omega)]
  rfl

theorem frozenOnly_setFrozen (v : Nat) : FrozenOnly q s (s.setRegF (qOff q + 8) 23 1 v) :=
  fun _ _ h => s.setRegF_regF_of_disjoint (by omega) (by omega)

theorem FrozenOnly.of_reg {s t u : State} (h : t.reg (qOff q + 8) = s.reg (qOff q + 8)) (h' : FrozenOnly q t u) :
    FrozenOnly q s u :=
  fun lo n hn => (h' lo n hn).trans (by rw [State.regF, h, State.regF])

theorem qFrozen_of_reg {s t : State} (h : t.reg (qOff q + 8) = s.reg (qOff q + 8)) : t.qFrozen q = s.qFrozen q := by
  rw [State.qFrozen, State.regF, h, State.qFrozen, State.regF]

/-- ERR bit 3 freezes its queue (03 R62). -/
theorem qFail_three : s.qFail q 3 = (s.setReg (qOff q + 0x1C) (s.qErr q ||| 8)).setRegF (qOff q + 8) 23 1 1 := by
  simp only [State.qFail, State.qErr]
  rfl

end Control

section Doorbells
variable {q : Nat} {tail : Word} {s : State}

/-- A TAIL lies more than the ring's packets ahead of HEAD (03 R62). -/
def tooFar (q : Nat) (tail : Word) (s : State) : Bool := decide (2 ^ s.qRlog q < (tail - s.qHead q).toNat)

/-- The queue whose TAIL a doorbell has written (03 R62). -/
def rung (q : Nat) (tail : Word) (s : State) : State :=
  (s.setReg (qOff q + 0x10) tail).modQueue q (fun x => { x with badTail := tooFar q tail s })

theorem queueDoorbell_eq (hq : q < 16384) : evQueueDoorbell q tail s =
    if tooFar q tail s then (rung q tail s).qFail q 3 else rung q tail s := by
  have hlog : (s.setReg (qOff q + 0x10) tail).qRlog q = s.qRlog q :=
    congrArg (fun x : Word => bitsOf x.toNat 0 8) (setReg_qControl s (by omega) (by omega))
  have hhead : (s.setReg (qOff q + 0x10) tail).qHead q = s.qHead q :=
    setReg_qReg s (by unfold qOff; omega) (by omega) (by omega)
  have hrange : ¬ Config.queues ≤ q := Nat.not_le.2 hq
  simp only [evQueueDoorbell, if_neg hrange, hlog, hhead]
  rfl

theorem rung_reg {o : Nat} (ho : o % 4 = 0) (hne : o ≠ qOff q + 0x10) : (rung q tail s).reg o = s.reg o :=
  setReg_qReg s ho hne (by omega)

/-- What a doorbell leaves. -/
structure Rung (q : Nat) (tail : Word) (s t : State) : Prop where
  written : t.qTail q = tail
  queue : t.queue q = { s.queue q with badTail := tooFar q tail s }
  queues : ∀ k, k ≠ q → t.queue k = s.queue k
  regs : ∀ o, o % 4 = 0 → o ∉ [qOff q + 0x10, qOff q + 0x1C, qOff q + 8] → t.reg o = s.reg o
  err : t.qErr q = if tooFar q tail s then s.qErr q ||| 8 else s.qErr q
  frozen : t.qFrozen q = (tooFar q tail s || s.qFrozen q)
  control : FrozenOnly q s t
  rest : QueueRegs s t

theorem rung_queue_self : (rung q tail s).queue q = { s.queue q with badTail := tooFar q tail s } := by
  rw [rung, State.modQueue_queue_self]
  rfl

theorem rung_queue_of_ne {k : Nat} (hk : k ≠ q) : (rung q tail s).queue k = s.queue k := by
  rw [rung, State.modQueue_queue_of_ne _ hk]
  rfl

theorem rung_qTail : (rung q tail s).qTail q = tail := setReg_reg_self s _ _

theorem rung_queueRegs : QueueRegs s (rung q tail s) := (setReg_queueRegs s ..).trans (modQueue_queueRegs ..)

theorem rung_qErr : (rung q tail s).qErr q = s.qErr q := rung_reg (by unfold qOff; omega) (by omega)

/-- A TAIL within the ring is all that a doorbell writes (03 R62). -/
theorem rung_of_near (h : tooFar q tail s = false) : Rung q tail s (rung q tail s) where
  written := rung_qTail
  queue := rung_queue_self
  queues _ hk := rung_queue_of_ne hk
  regs o ho hne := rung_reg ho (by simp at hne; omega)
  err := by rw [h, rung_qErr]; rfl
  frozen := by rw [h, Bool.false_or]; exact qFrozen_of_reg (rung_reg (by unfold qOff; omega) (by omega))
  control lo n _ := by rw [State.regF, rung_reg (by unfold qOff; omega) (by omega), State.regF]
  rest := rung_queueRegs

/-- A TAIL too far ahead freezes the queue with TAILBAD (03 R62). -/
theorem rung_of_far (h : tooFar q tail s = true) : Rung q tail s ((rung q tail s).qFail q 3) := by
  have hreg (o : Nat) (ho : o % 4 = 0) (h8 : o ≠ qOff q + 8) (h28 : o ≠ qOff q + 0x1C) :
      ((rung q tail s).qFail q 3).reg o = (rung q tail s).reg o := by
    rw [qFail_three, setFrozen_reg _ ho h8, setReg_qReg _ ho h28 (by omega)]
  have hqueue (k : Nat) : ((rung q tail s).qFail q 3).queue k = (rung q tail s).queue k := by
    rw [qFail_three, setRegF_queue, setReg_queue]
  refine ⟨?_, (hqueue q).trans rung_queue_self, fun k hk => (hqueue k).trans (rung_queue_of_ne hk),
    fun o ho hne => ?_, ?_, ?_, ?_, ?_⟩
  · exact (hreg _ (by unfold qOff; omega) (by omega) (by omega)).trans rung_qTail
  · simp only [List.mem_cons, List.not_mem_nil, or_false, not_or] at hne
    obtain ⟨h10, h1C, h8⟩ := hne
    exact (hreg o ho h8 h1C).trans (rung_reg ho h10)
  · rw [h, if_pos rfl, qFail_three, State.qErr, setFrozen_reg _ (by unfold qOff; omega) (by omega), setReg_reg_self,
      rung_qErr]
  · rw [h, qFail_three, setFrozen_qFrozen]
    rfl
  · rw [qFail_three]
    exact (frozenOnly_setFrozen _ 1).of_reg ((setReg_qControl _ (by omega) (by omega)).trans
      (rung_reg (by unfold qOff; omega) (by omega)))
  · rw [qFail_three]
    exact (rung_queueRegs.trans (setReg_queueRegs ..)).trans (setRegF_queueRegs ..)

theorem queueDoorbell_rung (hq : q < 16384) : Rung q tail s (evQueueDoorbell q tail s) := by
  rw [queueDoorbell_eq hq]
  cases h : tooFar q tail s with
  | true => exact rung_of_far h
  | false => exact rung_of_near h

end Doorbells

section ErrorClears
variable {q : Nat} {bits : Word} {s : State}

/-- The queue without the ERR bits that ERR_CLEAR takes (03 R62). -/
def errCleared (q : Nat) (bits : Word) (s : State) : State := s.setReg (qOff q + 0x1C) (s.qErr q &&& ~~~bits)

/-- A packet at which the queue stood frozen may act again (03 R62). -/
def unstick (p : Pkt) : Pkt := if p.st = .stuck then { p with st := .acting } else p

/-- The queue thaws, and the packet at which it stood goes on (03 R62). -/
def thawed (q : Nat) (s : State) : State :=
  (s.setRegF (qOff q + 8) 23 1 0).modQueue q (fun x => { x with pkts := x.pkts.map unstick })

theorem errClear_eq (hq : q < 16384) : evErrClear q bits s =
    if s.qErr q &&& ~~~bits &&& 0xD = 0 then thawed q (errCleared q bits s) else errCleared q bits s := by
  have hrange : ¬ Config.queues ≤ q := Nat.not_le.2 hq
  simp only [evErrClear, if_neg hrange]
  rfl

/-- What ERR_CLEAR leaves. -/
structure ErrCleared (q : Nat) (bits : Word) (s t : State) : Prop where
  err : t.qErr q = s.qErr q &&& ~~~bits
  frozen : t.qFrozen q = true ↔ s.qErr q &&& ~~~bits &&& 0xD ≠ 0 ∧ s.qFrozen q = true
  queue : t.queue q = if s.qErr q &&& ~~~bits &&& 0xD = 0 then
    { s.queue q with pkts := (s.queue q).pkts.map unstick } else s.queue q
  queues : ∀ k, k ≠ q → t.queue k = s.queue k
  regs : ∀ o, o % 4 = 0 → o ∉ [qOff q + 0x1C, qOff q + 8] → t.reg o = s.reg o
  control : FrozenOnly q s t
  rest : QueueRegs s t

theorem thawed_reg (o : Nat) : (thawed q s).reg o = (s.setRegF (qOff q + 8) 23 1 0).reg o := by
  rw [thawed, modQueue_reg]

theorem thawed_queue_self : (thawed q s).queue q = { s.queue q with pkts := (s.queue q).pkts.map unstick } := by
  rw [thawed, State.modQueue_queue_self, setRegF_queue]

theorem thawed_queue_of_ne {k : Nat} (hk : k ≠ q) : (thawed q s).queue k = s.queue k := by
  rw [thawed, State.modQueue_queue_of_ne _ hk, setRegF_queue]

theorem thawed_qFrozen : (thawed q s).qFrozen q = false := by
  rw [qFrozen_of_reg (thawed_reg _), setFrozen_qFrozen]
  rfl

theorem thawed_queueRegs : QueueRegs s (thawed q s) :=
  (setRegF_queueRegs s ..).trans (modQueue_queueRegs ..)

theorem thawed_frozenOnly : FrozenOnly q s (thawed q s) := fun lo n hn => by
  rw [State.regF, thawed_reg]
  exact frozenOnly_setFrozen s 0 lo n hn

theorem errCleared_qErr : (errCleared q bits s).qErr q = s.qErr q &&& ~~~bits := setReg_reg_self s _ _

theorem errCleared_control : (errCleared q bits s).reg (qOff q + 8) = s.reg (qOff q + 8) :=
  setReg_qControl s (by omega) (by omega)

theorem errCleared_of_frozen (h : s.qErr q &&& ~~~bits &&& 0xD ≠ 0) : ErrCleared q bits s (errCleared q bits s) where
  err := errCleared_qErr
  frozen := by rw [qFrozen_of_reg errCleared_control]; exact (and_iff_right h).symm
  queue := by rw [if_neg h]; rfl
  queues _ _ := rfl
  regs o ho hne := setReg_qReg s ho (by simp at hne; omega) (by omega)
  control lo n _ := by rw [State.regF, errCleared_control, State.regF]
  rest := setReg_queueRegs s ..

/-- With no freezing bit left the queue thaws (03 R62). -/
theorem errCleared_of_thawed (h : s.qErr q &&& ~~~bits &&& 0xD = 0) :
    ErrCleared q bits s (thawed q (errCleared q bits s)) where
  err := by
    rw [State.qErr, thawed_reg, setFrozen_reg _ (by unfold qOff; omega) (by omega)]
    exact errCleared_qErr
  frozen := by
    rw [thawed_qFrozen]
    exact ⟨fun hf => absurd hf Bool.false_ne_true, fun hf => absurd h hf.1⟩
  queue := by rw [if_pos h, thawed_queue_self, errCleared, setReg_queue]
  queues k hk := by rw [thawed_queue_of_ne hk, errCleared, setReg_queue]
  regs o ho hne := by
    simp only [List.mem_cons, List.not_mem_nil, or_false, not_or] at hne
    rw [thawed_reg, setFrozen_reg _ ho hne.2, errCleared, setReg_qReg s ho hne.1 (by omega)]
  control := thawed_frozenOnly.of_reg errCleared_control
  rest := (setReg_queueRegs s ..).trans thawed_queueRegs

theorem errClear_errCleared (hq : q < 16384) : ErrCleared q bits s (evErrClear q bits s) := by
  rw [errClear_eq hq]
  split
  · next h => exact errCleared_of_thawed h
  · next h => exact errCleared_of_frozen h

end ErrorClears

section Clauses
variable {q : Nat} {s : State} {p : Pkt}

open Sys2Proof.Machine.Management (next_finish_congr)

/-- The step that reads a packet and lets it act reads it first, and acts on it as on one already read (03 R62). -/
theorem exec_packetIn {d : BitVec 512} {i : Instr} (h : NextPacket q d s) (hfill : (s.queue q).fill = none)
    (hi : let n := (s.qHead q).toNat
      (pkType d = 0 ∧ i = .nopPacket q n) ∨ (pkType d = 3 ∧ pkSub d = 0 ∧ i = .phasePacket q n) ∨
      (pkType d = 3 ∧ pkSub d = 1 ∧ i = .phaseClosePacket q n) ∨ (pkType d = 4 ∧ i = .waitPacket q n) ∨
      (pkType d = 5 ∧ pkSub d = 0 ∧ i = .signalStorePacket q n) ∨
      (pkType d = 5 ∧ pkSub d = 1 ∧ i = .signalAddPacket q n) ∨
      (pkType d = 6 ∧ pkSub d = 0 ∧ i = .cancelLaunchPacket q n) ∨
      (pkType d = 6 ∧ pkSub d = 1 ∧ i = .cancelGraphPacket q n) ∨
      (pkType d = 6 ∧ pkSub d = 2 ∧ i = .cancelPhasePacket q n) ∨
      (pkType d = 6 ∧ pkSub d = 3 ∧ i = .cancelJobPacket q n)) : exec i s = exec i (s.packetIn q d) := by
  have hsame {want : BitVec 512 → Bool} {f : Pkt → State → State} (hw : want d = true) (h1 : pkType d ≠ 1)
      (h2 : pkType d ≠ 2) := next_finish_congr (actPacket_packetIn h hfill hw h1 h2 f)
  rcases hi with ⟨ht, rfl⟩ | ⟨ht, hsub, rfl⟩ | ⟨ht, hsub, rfl⟩ | ⟨ht, rfl⟩ | ⟨ht, hsub, rfl⟩ | ⟨ht, hsub, rfl⟩ |
      ⟨ht, hsub, rfl⟩ | ⟨ht, hsub, rfl⟩ | ⟨ht, hsub, rfl⟩ | ⟨ht, hsub, rfl⟩ <;>
    exact hsame (by simp [isType, isTypeSub, *]) (by omega) (by omega)

theorem exec_nopPacket (h : HeldPacket q p s) (ht : pkType p.data = 0) :
    ∃ t, exec (.nopPacket q p.num) s = .next t ∧ PacketEnds q p s t :=
  ⟨_, next_finish_congr (nopPacket_held h ht), packetEnds_of_held h rfl⟩

theorem exec_waitPacket {x : Nat} (h : HeldPacket q p s) (ht : pkType p.data = 4) (hx : WordIs q p s x) :
    (Compares p x → ∃ t, exec (.waitPacket q p.num) s = .next t ∧
      PacketEnds q { p with st := .acting } (acting q p.num s) t) ∧
    (¬ Compares p x → exec (.waitPacket q p.num) s = .next (acting q p.num s).finish) := by
  have hword : WordIs q p (acting q p.num s) x := wordIs_modPkt hx _ _
  have hev := waitPacket_held h ht
  refine ⟨fun hc => ⟨_, next_finish_congr (hev.trans (samplePkt_of_compares hword hc)), ?_⟩,
    fun hc => next_finish_congr (hev.trans (samplePkt_of_not_compares hword hc))⟩
  exact packetEnds_pktDone (p := { p with st := .acting }) (acting_pkt h.here) (by simp)

theorem exec_waitPacketSample {x : Nat} (hp : s.pkt q p.num = some p) (hst : p.st = .acting) (ht : pkType p.data = 4)
    (hx : WordIs q p s x) :
    (Compares p x → ∃ t, exec (.waitPacketSample q p.num) s = .next t ∧ PacketEnds q p s t) ∧
    (¬ Compares p x → exec (.waitPacketSample q p.num) s = .next s.finish) := by
  have hev := waitPacketSample_acting hp ht hst
  exact ⟨fun hc => ⟨_, next_finish_congr (hev.trans (samplePkt_of_compares hx hc)),
      packetEnds_pktDone hp (by rw [hst]; decide)⟩,
    fun hc => next_finish_congr (hev.trans (samplePkt_of_not_compares hx hc))⟩

theorem exec_signalStorePacket {u : State} {g : Nat} (h : HeldPacket q p s) (ht : pkType p.data = 5)
    (hfirst : (s.qDone q).toNat = p.num) (haligned : pkAddr p.data % 8 = 0) (hsub : pkSub p.data = 0)
    (hput : s.vWrite (via (s.jAsid (s.qJob q))) (pkAddr p.data) (natLe 8 (pkValue p.data)) = (.ok g, u)) :
    ∃ t, exec (.signalStorePacket q p.num) s = .next t ∧ PacketEnds q p u t := by
  have hvalue : (0 + pkValue p.data) % 2 ^ 64 = pkValue p.data := by
    rw [Nat.zero_add]
    exact Nat.mod_eq_of_lt (bitsOf_lt _ _ _)
  have hsignal : s.signalPkt q p = u.pktDone q p.num :=
    signalPkt_of_write (x := 0) haligned (by simp [hsub]) (by rw [hvalue]; exact hput)
  exact ⟨_, next_finish_congr (((signalPackets_held h ht hfirst).1 hsub).trans hsignal),
    packetEnds_of_held h ((vWrite_homeMoves hput).queue q)⟩

theorem exec_signalAddPacket {u : State} {g x : Nat} (h : HeldPacket q p s) (ht : pkType p.data = 5)
    (hfirst : (s.qDone q).toNat = p.num) (hsub : pkSub p.data = 1) (hx : WordIs q p s x)
    (hput : s.vWrite (via (s.jAsid (s.qJob q))) (pkAddr p.data)
      (natLe 8 ((x + pkValue p.data) % 2 ^ 64)) = (.ok g, u)) :
    ∃ t, exec (.signalAddPacket q p.num) s = .next t ∧ PacketEnds q p u t := by
  have hsignal : s.signalPkt q p = u.pktDone q p.num :=
    signalPkt_of_write hx.aligned (by simp [hsub, pktWord_of_wordIs hx]) hput
  exact ⟨_, next_finish_congr (((signalPackets_held h ht hfirst).2 hsub).trans hsignal),
    packetEnds_of_held h ((vWrite_homeMoves hput).queue q)⟩

end Clauses

/-- Settles O41: a packet is read before it acts; NOP, WAIT and SIGNAL complete as `pktDone` completes a packet; a
doorbell writes TAIL, and with no freezing bit left in ERR the queue thaws. -/
theorem queuesAndWaits : Obligations.QueuesAndWaits := by
  unfold Obligations.QueuesAndWaits
  intro word holds acting keeps
  refine ⟨fun q d s i h hfill => exec_packetIn h hfill, fun q p s h ht => exec_nopPacket h ht,
    fun q p s x h ht hx => exec_waitPacket h ht ⟨hx.1, hx.2.1, hx.2.2⟩,
    fun q p s x _ hp hst ht _ hx => exec_waitPacketSample hp hst ht ⟨hx.1, hx.2.1, hx.2.2⟩,
    fun q p s u g h ht hfirst haligned => ⟨fun hsub hput => exec_signalStorePacket h ht hfirst haligned hsub hput,
      fun x hsub hx hput => exec_signalAddPacket h ht hfirst hsub ⟨hx.1, hx.2.1, hx.2.2⟩ hput⟩,
    fun q tail s hq => ?_, fun q bits s hq => ?_⟩
  · have h := queueDoorbell_rung (tail := tail) (s := s) hq
    have hfar : tooFar q tail s = true ↔ 2 ^ s.qRlog q < (tail - s.qHead q).toNat := decide_eq_true_iff
    refine ⟨_, rfl, h.written, ?_, ?_, h.queues, h.regs, ?_, ?_, h.control, h.rest.finish⟩
    · rw [State.finish_queue, h.queue]
    · rw [State.finish_queue, h.queue]
      exact hfar
    · simp only [← hfar]
      exact h.err
    · rw [← hfar, ← Bool.or_eq_true, ← h.frozen]
      rfl
  · have h := errClear_errCleared (bits := bits) (s := s) hq
    exact ⟨_, rfl, h.err, h.frozen, h.queue, h.queues, h.regs, h.control, h.rest.finish⟩

end Sys2Proof.Machine.QueuePackets
end

section
/-!
PROOFS. DeviceLaunches speaks of every state in which CANCEL issues, and so of states whose table of blocks lists a
number twice. There its clause of the graph fails, as the one of CANCEL_GRAPH_PACKET does.
-/

namespace Sys2Proof.Machine.Repeats

/-- CANCEL of the graph stands at warp 0 of launch 0, bound, with its run fetched (16 R344). -/
def cancelRun : State :=
  let s := State.reset.placeRun 32 ((encode (.cancel .graph)).headD 0).toNat
  match s.seqAt 0 0 0 with
  | some b => (s.startRun 0 0 0 b).2
  | none => s

/-- Launches 0 and 1 are of one graph. Block 1 is launch 0's. Block number 2 is listed twice: a completed block of
launch 0, then a block of launch 1, whose last it is. Warps 0, 32 and 64, one of each number, are live. -/
def cancelState : State :=
  { cancelRun with
    launches := [(0, placedLaunch), (1, pairLaunch 1)], graphs := [(0, pairGraph)],
    blocks := [(0, placedBlock), (1, plainBlock 0 false), (2, plainBlock 0 true), (2, plainBlock 1 false)],
    warps := cancelRun.warps ++ [(32, placedWarp), (64, placedWarp)] }

/-- CANCEL issues for warp 0 with nothing in its way. -/
theorem issues_cancelState : ∃ c w, Issues (.cancel .graph) cancelState c w ∧
    cancelState.launchOf c.wid = some placedLaunch := by
  have hready : cancelState.ctx?.any (fun c => (cancelState.warp c.wid).any (fun w => decide (c.tag = none ∧
      preFault (.cancel .graph) c w = none ∧ w.bad = [] ∧ cancelState.launchOf c.wid = some placedLaunch))) = true := by
    decide +kernel
  obtain ⟨c, hc, hw⟩ := (Option.any_eq_true _ _).1 hready
  obtain ⟨w, hw, hrest⟩ := (Option.any_eq_true _ _).1 hw
  obtain ⟨htag, hlegal, hclean, hlaunch⟩ := of_decide_eq_true hrest
  refine ⟨c, w, ⟨hc, hw, htag, hlegal, hclean, fun L hL => ?_⟩, hlaunch⟩
  rw [hlaunch] at hL
  cases hL
  rfl

/-- A launch in the state that an outcome leads to. -/
def launchAfter (k : Nat) : Host.Outcome State Fault Refusal → Option Launch
  | .next t => t.launch k
  | _ => none

/-- While launch 0 is cancelled, the end of block 1 releases the completed block of number 2, and the end of warp 64
then counts as the end of launch 1's last block: launch 1 is at its end before the cancel comes to it (02 R58). -/
theorem cancel_cancelState_launch :
    (launchAfter 1 (exec (.cancel .graph) cancelState)).map (·.cancelled) = some false := by
  decide +kernel

/-- Refutes O34: its clause of CANCEL of a graph admits a table of blocks that lists a number twice, where a running
launch of the graph ends without being cancelled. -/
theorem not_deviceLaunches : ¬ Obligations.DeviceLaunches := by
  unfold Obligations.DeviceLaunches
  rintro ⟨-, hcancel⟩
  obtain ⟨c, w, hissues, hlaunch⟩ := issues_cancelState
  obtain ⟨t, ht, -, -, hgraph, -⟩ := hcancel .graph cancelState c w placedLaunch hissues hlaunch rfl rfl
  obtain ⟨X, hX, hoff⟩ := hgraph rfl 1 (pairLaunch 1) rfl rfl (.inr rfl)
  have hafter := cancel_cancelState_launch
  rw [ht, launchAfter, hX, Option.map_some, hoff] at hafter
  cases hafter

end Sys2Proof.Machine.Repeats
end

section
/-!
PROOFS. Preemption speaks of every state, and so of states whose table of warps lists a number twice. There an image
holds two sections for one warp, and the second is what the warp gets back.
-/

namespace Sys2Proof.Machine.Repeats

/-- A launch of one block of one warp, with no scratch and no tiles. -/
def savedLaunch : Launch :=
  { Launch.new 0 0 0 none 0 0 with
    hdr := BitVec.ofNat 1024 (3 + 1 * 2 ^ 32 + 1 * 2 ^ 128 + 1 * 2 ^ 160 + 1 * 2 ^ 192 + 0x10101 * 2 ^ 224 + 1 * 2 ^ 816),
    hdrRead := true, checked := true, stage := .running, nextCluster := 1, blocksLeft := 1 }

/-- Its block, saved on core 0. -/
def savedBlock : Block := { plainBlock 0 false with savedOn := some 0 }

/-- Its warp, without registers. -/
def bareWarp : Warp := { savedLaunch.newWarp 0 0 0 0 with vregs := 0, sregs := 0 }

/-- Tables that map the low 512 MiB of an address space onto itself, and an image at 0x40000. Its first warp section,
at 1536, holds zeros; the second, 896 bytes on, has a 1 as its first byte. -/
def imageMem : FMap Byte :=
  wrMem 0x40980 [1] (wrMem 0x20000 (natLe 8 0x1D) (wrMem 0x10000 (natLe 8 0x20003) []))

/-- The block is to stand again from that image, and warp 0 is listed twice. -/
def warpTwiceState : State :=
  (State.setReg (rootOff 0) 0x10001
    { State.reset with
      mem := imageMem, launches := [(0, savedLaunch)], blocks := [(0, savedBlock)],
      warps := [(0, bareWarp), (0, bareWarp)],
      ranges := [{ job := 0, launch := 0, blk := 0, base := 4, units := 1 }] }).setReg (jOff 0 + 0xC) 0x100

theorem warpTwiceState_pickBest : warpTwiceState.pickBest = some 0 := by decide +kernel

theorem warpTwiceState_savedClusters : warpTwiceState.savedClusters 0 = [0] := by decide +kernel

/-- The saved block goes to die 0 (03 R70). -/
theorem warpTwiceState_die : (warpTwiceState.dieOrder savedLaunch savedLaunch.costs).find? (fun d =>
    warpTwiceState.coresFor savedLaunch (warpTwiceState.savedCosts 0 savedLaunch.warpsPB) d != []) = some 0 := by
  decide +kernel

/-- The saved block goes to core 0 (03 R70). -/
theorem warpTwiceState_core : minBy (fun c => (warpTwiceState.coreWarps c).length)
    (warpTwiceState.coresFor savedLaunch (warpTwiceState.savedCosts 0 savedLaunch.warpsPB) 0) = some 0 := by
  decide +kernel

/-- The image that is read back has lane 0 of the first section at address 0. -/
theorem warpTwiceState_imageBack : ∃ bs, warpTwiceState.imageBack savedLaunch 0 0 = some bs ∧
    bs.length = warpTwiceState.imageSize 0 ∧ leNat ((bs.drop (1536 + 8 * 0)).take 8) = 0 := by
  have hread : (warpTwiceState.imageBack savedLaunch 0 0).any (fun bs => decide (
      bs.length = warpTwiceState.imageSize 0 ∧ leNat ((bs.drop (1536 + 8 * 0)).take 8) = 0)) = true := by
    decide +kernel
  obtain ⟨bs, hbs, hrest⟩ := (Option.any_eq_true _ _).1 hread
  exact ⟨bs, hbs, of_decide_eq_true hrest⟩

/-- The warp gets the second section: lane 0 stands at address 1. -/
theorem blockResume_warpTwiceState_pc :
    ((evBlockResume 0 0 warpTwiceState).warp 0).map (fun w => (w.lane 0).pc) = some 1 := by
  decide +kernel

theorem exec_blockResume (l k : Nat) (s : State) : exec (.blockResume l k) s = .next (evBlockResume l k s).finish := rfl

theorem bareWarp_kept : bareWarp.parked = [] ∧ fwf 0 bareWarp.v = true ∧ bareWarp.lanes.length = 32 := by decide +kernel

/-- No RESUME has named a sub-warp of the block. -/
theorem calm_warpTwiceState : ∀ n w, n ∈ warpTwiceState.warpsOf 0 → warpTwiceState.warp n = some w → ∀ p ∈ w.parked,
    ∀ e, p.st ≠ .resumed e := by
  intro n w hn hw p hp
  have hzero : n = 0 := by simpa [show warpTwiceState.warpsOf 0 = [0, 0] from rfl] using hn
  rw [hzero, show warpTwiceState.warp 0 = some bareWarp from rfl, Option.some.injEq] at hw
  rw [← hw, bareWarp_kept.1] at hp
  cases hp

/-- Refutes O54: its last clause admits a table of warps that lists a number twice, where a warp of the block stands
again with what the image's second section holds. -/
theorem not_preemption : ¬ Obligations.Preemption := by
  unfold Obligations.Preemption
  rintro ⟨-, -, -, -, -, -, -, -, -, -, -, -, -, -, -, hresume⟩
  obtain ⟨bs, hbs, hlength, hzero⟩ := warpTwiceState_imageBack
  obtain ⟨t, b', ht, -, -, -, -, -, -, -, hwarp, -⟩ := hresume 0 0 [] 0 savedBlock savedLaunch 0 0 bs warpTwiceState rfl
    warpTwiceState_pickBest rfl rfl (by decide +kernel) warpTwiceState_savedClusters rfl rfl rfl rfl rfl
    calm_warpTwiceState rfl warpTwiceState_die warpTwiceState_core hbs hlength
  obtain ⟨w', hw', -, -, hpc⟩ := hwarp 0 bareWarp rfl rfl bareWarp_kept.2.1
  have hfirst := hpc 0 (by omega) bareWarp_kept.2.2
  have hsecond := blockResume_warpTwiceState_pc
  rw [← State.finish_warp, Host.Outcome.next.inj ((exec_blockResume 0 0 warpTwiceState).symm.trans ht), hw',
    Option.map_some, hfirst, hzero] at hsecond
  cases hsecond

end Sys2Proof.Machine.Repeats
end

section
/-!
PROOFS. The parts of TrapDelivery that shared operations decide: changes of one warp, saved temporaries, and lanes that
stand at an address again (04 R86; 10 R227, R228).
-/

namespace Sys2Proof.Machine.TrapPaths

section Warps
variable {wid : Nat} {s t u : State} {w : Warp}

/-- Warp `wid` changes, and nothing else. -/
structure WarpMoves (wid : Nat) (s t : State) : Prop where
  warps : ∀ k, k ≠ wid → t.warp k = s.warp k
  rest : ∃ ws, t = { s with warps := ws }

theorem modWarp_moves (wid : Nat) (f : Warp → Warp) (s : State) : WarpMoves wid s (s.modWarp wid f) where
  warps _ hk := s.modWarp_warp_of_ne hk f
  rest := by
    unfold State.modWarp
    split
    · exact ⟨s.warps, rfl⟩
    · exact ⟨_, rfl⟩

theorem WarpMoves.trans (h : WarpMoves wid s t) (h' : WarpMoves wid t u) : WarpMoves wid s u where
  warps k hk := (h'.warps k hk).trans (h.warps k hk)
  rest := by
    obtain ⟨ws, rfl⟩ := h.rest
    obtain ⟨ws', rfl⟩ := h'.rest
    exact ⟨ws', rfl⟩

theorem WarpMoves.finish (h : WarpMoves wid s t) : (∀ k, k ≠ wid → t.finish.warp k = s.warp k) ∧
    { t.finish with turn := s.turn, tick := s.tick, fresh := s.fresh, gtime := s.gtime, warps := s.warps } = s := by
  refine ⟨h.warps, ?_⟩
  obtain ⟨ws, rfl⟩ := h.rest
  rfl

theorem modWarp_warp (hw : s.warp wid = some w) (f : Warp → Warp) : (s.modWarp wid f).warp wid = some (f w) := by
  rw [State.modWarp_warp_self, hw, Option.map_some]

end Warps

section Temporaries

/-- A value after puts at the places of a list, each place given what belongs there. -/
theorem fget_foldl_fset {β : Type} [DecidableEq β] (d : β) (place : Nat → Nat) (g : Nat → β) (ls : List Nat) (m : FMap β)
    (a : Nat) : fget d a (ls.foldl (fun m l => fset d (place l) (g (place l)) m) m) =
      if ∃ l ∈ ls, a = place l then g a else fget d a m := by
  induction ls generalizing m with
  | nil => simp
  | cons l ls ih =>
    rw [List.foldl_cons, ih, fget_fset]
    by_cases hl : a = place l
    · rw [if_pos (⟨l, by simp, hl⟩ : ∃ x ∈ l :: ls, a = place x), if_pos hl, ← hl, ite_self]
    · simp [hl]

/-- The same, row by row. -/
theorem fget_foldl_rows {β : Type} [DecidableEq β] (d : β) (row : Nat → Nat) (g : Nat → β) (ls rs : List Nat) (m : FMap β)
    (a : Nat) : fget d a (rs.foldl (fun m t => ls.foldl (fun m l => fset d (row t + l) (g (row t + l)) m) m) m) =
      if ∃ t ∈ rs, ∃ l ∈ ls, a = row t + l then g a else fget d a m := by
  induction rs generalizing m with
  | nil => simp
  | cons t rs ih =>
    rw [List.foldl_cons, ih, fget_foldl_fset d (fun l => row t + l) g]
    by_cases ht : ∃ l ∈ ls, a = row t + l
    · rw [if_pos ht, ite_self, if_pos ⟨t, by simp, ht⟩]
    · rw [if_neg ht]
      simp only [List.mem_cons, exists_eq_or_imp, ht, false_or]

/-- The temporaries of lanes after saved ones are set (04 R86). -/
theorem fget_setTemps (m : Mask) (ts : FMap Word) (w : Warp) {k l : Nat} (hl : l < 32) :
    fget 0 (32 * k + l) (w.setTemps m ts).v = if 112 ≤ k ∧ k < 120 ∧ m.getLsbD l = true
      then fget 0 (32 * (k - 112) + l) ts else fget 0 (32 * k + l) w.v := by
  have hplace (t x : Nat) : fget 0 (32 * t + x) ts = (fun a => fget 0 (a - 32 * 112) ts) (32 * (112 + t) + x) :=
    congrArg (fun a => fget 0 a ts) (by omega)
  rw [Warp.setTemps]
  simp only [hplace]
  rw [fget_foldl_rows 0 (fun t => 32 * (112 + t)) (fun a => fget 0 (a - 32 * 112) ts)]
  by_cases hk : 112 ≤ k ∧ k < 120 ∧ m.getLsbD l = true
  · rw [if_pos ⟨k - 112, by rw [List.mem_range]; omega, l, mem_lanesOf.2 ⟨hl, hk.2.2⟩, by omega⟩, if_pos hk]
    exact congrArg (fun a => fget 0 a ts) (by omega)
  · rw [if_neg hk, if_neg]
    rintro ⟨t, ht, x, hx, he⟩
    obtain ⟨hx32, hbit⟩ := mem_lanesOf.1 hx
    rw [List.mem_range] at ht
    obtain rfl : x = l := by omega
    exact hk ⟨by omega, by omega, hbit⟩

theorem setTemps_frame (m : Mask) (ts : FMap Word) (w : Warp) : { w.setTemps m ts with v := w.v } = w := rfl

end Temporaries

section Lanes
variable (w : Warp) (m : Mask)

/-- A lane after a change of the lanes of a mask, each by its own function. -/
theorem lane_foldLanes_modLane (f : Nat → Lane → Lane) (hlen : w.lanes.length = 32) {k : Nat} (hk : k < 32) :
    (foldLanes m (fun l x => Warp.modLane l (f l) x) w).lane k = if m.getLsbD k then f k (w.lane k) else w.lane k := by
  have hget : (foldLanes m (fun l x => Warp.modLane l (f l) x) w).lanes[k]? =
      if m.getLsbD k then w.lanes[k]?.map (f k) else w.lanes[k]? := by
    by_cases h : m.getLsbD k = true
    · rw [if_pos h]
      exact foldLanes_own (σ := Warp) (fun x => x.lanes[k]?) (g := Option.map (f k)) h hk
        (fun t => by simp [Warp.get_modLane]) (fun l _ hl t => by simp [Warp.get_modLane, Ne.symm hl])
    · rw [if_neg h]
      exact foldLanes_other (σ := Warp) (fun x => x.lanes[k]?) (by simpa using h)
        (fun l _ hl t => by simp [Warp.get_modLane, Ne.symm hl])
  have hlt : k < w.lanes.length := by omega
  simp only [Warp.lane, List.getD_eq_getElem?_getD, hget]
  split
  · simp [hlt]
  · rfl

/-- A change of lanes keeps everything else of the warp. -/
theorem foldLanes_modLane_frame (f : Nat → Lane → Lane) :
    foldLanes m (fun l x => Warp.modLane l (f l) x) w =
      { w with lanes := (foldLanes m (fun l x => Warp.modLane l (f l) x) w).lanes } :=
  foldLanes_induct (fun x : Warp => x = { w with lanes := x.lanes }) rfl fun l _ t ht => by
    rw [Warp.modLane]
    exact congrArg (fun y : Warp => { y with lanes := t.lanes.set l (f l (t.lane l)) }) ht

theorem modLanes_frame (f : Lane → Lane) : w.modLanes m f = { w with lanes := (w.modLanes m f).lanes } :=
  foldLanes_modLane_frame w m fun _ => f

theorem lane_modLanes (f : Lane → Lane) (hlen : w.lanes.length = 32) {k : Nat} (hk : k < 32) :
    (w.modLanes m f).lane k = if m.getLsbD k then f (w.lane k) else w.lane k :=
  lane_foldLanes_modLane w m (fun _ => f) hlen hk

theorem length_modLanes (f : Lane → Lane) : (w.modLanes m f).lanes.length = w.lanes.length :=
  foldLanes_induct (fun x : Warp => x.lanes.length = w.lanes.length) rfl fun l _ t ht => by
    rw [Warp.modLane_length, ht]

end Lanes

end Sys2Proof.Machine.TrapPaths
end

section
/-!
PROOFS. What leaves the core queues and where it goes: trap records, spill paths, handler entry and the fault ring
(03 R75 to R77; 10 R223, R226, R227, R231).
-/

namespace Sys2Proof.Machine.TrapPaths

section Queues
variable {core wid id : Nat} {rest : List QEntry} {s : State}

theorem nextEntry_of_trap (h : (s.core core).queue = .trap wid id :: rest) :
    s.nextEntry core = some (0, .trap wid id) := by
  simp only [State.nextEntry, h, List.length_cons, List.range_succ_eq_map, List.find?_cons, List.getElem?_cons_zero,
    List.take_zero, List.all_nil, ne_eq, not_true_eq_false, decide_false, Bool.false_and, Bool.not_false, Bool.and_true,
    Option.bind_some, Option.map_some]

/-- The queue of a core loses the trap record at its head (03 R75). -/
theorem queueHandOn_of_trap (h : (s.core core).queue = .trap wid id :: rest) : evQueueHandOn core s =
    (s.modCore core (fun k => { k with queue := rest })).trapDrained wid id := by
  have hcore : s.modCore core (fun k => { k with queue := k.queue.eraseIdx 0 }) =
      s.modCore core (fun k => { k with queue := rest }) := by
    rw [State.modCore, State.modCore, h]
    rfl
  simp only [evQueueHandOn, nextEntry_of_trap h, hcore]

end Queues

section Spill
variable {core job : Nat} {x : SpillEntry} {r : List SpillEntry} {s : State}

/-- Where every record on a spill path has its place, none is promoted (03 R77). -/
theorem promote_of_placed (h : ∀ y ∈ tgetD [] (spillKey job core) s.spill, y.st ≠ .noRoom) (n : Nat) :
    s.promote core job n = s := by
  cases n with
  | zero => rfl
  | succ n =>
    have hall : (tgetD [] (spillKey job core) s.spill).takeWhile (fun e => e.st != .noRoom) =
        tgetD [] (spillKey job core) s.spill :=
      List.takeWhile_eq_self_iff.2 fun y hy => by simpa using h y hy
    simp only [State.promote, hall, List.getElem?_length]

/-- The spill path after its head has left, or its first part has. -/
def spillLeft (core job n : Nat) (st : SpillSt) (left : List SpillEntry) (s : State) : State :=
  { s with
    spill := if left = [] then tdel (spillKey job core) s.spill else tset (spillKey job core) left s.spill,
    spillHead := fset 0 (spillKey job core)
      (fget 0 (spillKey job core) s.spillHead + (if st = .inRing then n else 0)) s.spillHead }

theorem spillLeft_path (n : Nat) (st : SpillSt) (left : List SpillEntry) :
    tgetD [] (spillKey job core) (spillLeft core job n st left s).spill = left := by
  rw [spillLeft, tgetD]
  dsimp only
  split
  · next h => rw [tget_tdel_self, h]; rfl
  · rw [tget_tset_self]; rfl

/-- SPILL_REFILL takes from the head of the path what the queue has room for (03 R76, R77). -/
theorem spillRefill_of_split {e : QEntry} {left : Option QEntry}
    (h : tget (spillKey job core) s.spill = some (x :: r)) (hplaced : ∀ y ∈ x :: r, y.st ≠ .noRoom)
    (hsplit : x.e.split (s.queueFree core) = (some e, left)) : evSpillRefill core job s =
      spillLeft core job e.weight x.st ((left.map (fun y => { x with e := y })).toList ++ r)
        (s.modCore core (fun k => { k with queue := queuePut e k.queue })) := by
  have hpath : tgetD [] (spillKey job core) s.spill = x :: r := by rw [tgetD, h]; rfl
  have hleft : evSpillRefill core job s = State.promote core job
      ((left.map (fun y => { x with e := y })).toList ++ r).length (spillLeft core job e.weight x.st
        ((left.map (fun y => { x with e := y })).toList ++ r)
        (s.modCore core (fun k => { k with queue := queuePut e k.queue }))) := by
    simp only [evSpillRefill, hpath, hsplit]
    cases left <;> rfl
  rw [hleft, promote_of_placed]
  rw [spillLeft_path]
  intro y hy
  rw [List.mem_append] at hy
  rcases hy with hy | hy
  · cases left with
    | none => cases hy
    | some z =>
      simp only [Option.map_some, Option.toList_some, List.mem_singleton] at hy
      rw [hy]
      exact hplaced x (by simp)
  · exact hplaced y (by simp [hy])

theorem split_of_fits {k : Nat} {e : QEntry} (h : e.weight ≤ k) : e.split k = (some e, none) := if_pos h

/-- As many entries of a call as fit (03 R75). -/
theorem split_wcall {k : Nat} {c : WcallRec} (h : k < c.here) (hk : 0 < k) :
    (QEntry.wcall c).split k = (some (.wcall { c with here := k }), some (.wmore c.job (c.here - k))) := by
  have hweight : ¬ (QEntry.wcall c).weight ≤ k := Nat.not_le.2 h
  rw [QEntry.split, if_neg hweight, if_neg (by omega)]

end Spill

section Handlers
variable {wid : Nat} {s : State} {w : Warp} {p : Parked}

/-- Handler mode of a sub-warp that enters it (10 R227). -/
def enteredHandler (p : Parked) : Handler :=
  { id := p.id, record := p.record, mask := p.mask, bank := p.record.bank, pc := p.pc, run := p.run, nxt := p.nxt,
    temps := p.temps, gen := p.gen, score := p.score, elems := p.elems }

/-- The warp that a sub-warp has left for handler mode, whose bank's keys are fresh (10 R227). -/
def handlerTaken (p : Parked) (w : Warp) : Warp :=
  { w with parked := w.parked.filter (fun q => q.id != p.id), handler := some (enteredHandler p) }.freshKeys
    (fun k => decide (handlerKey ≤ k ∧ k < graftKey))

/-- The lanes of the sub-warp at its handler entry, with temporaries of zero (10 R227). -/
def handlerEntered (p : Parked) (w : Warp) : Warp :=
  ((handlerTaken p w).setTemps p.mask []).modLanes p.mask (fun l => { l with pc := p.entry, run := none, elem := none })

theorem handlerEntry_of_waiting (hon : (s.isVictim (blkOf wid) || s.blockOff (blkOf wid)) = false)
    (hw : s.warp wid = some w) (hh : w.handler = none)
    (hp : w.parked.find? (fun p => p.st == .handlerWait) = some p) :
    WarpMoves wid s (evHandlerEntry wid s) ∧ (evHandlerEntry wid s).warp wid = some (handlerEntered p w) := by
  have hev : evHandlerEntry wid s = s.enterHandler wid := by
    rw [evHandlerEntry, hon, if_neg Bool.false_ne_true]
  rw [hev, State.enterHandler]
  refine ⟨modWarp_moves _ _ _, (modWarp_warp hw _).trans ?_⟩
  simp only [hh, hp, Option.isSome_none, Bool.false_eq_true, if_false]
  rfl

/-- Nothing enters handler mode where another sub-warp stands in it, none waits, or the block does not run. -/
theorem handlerEntry_of_none (hw : s.warp wid = some w) (hk : keysRise 0 s.warps = true)
    (h : (s.isVictim (blkOf wid) || s.blockOff (blkOf wid)) = true ∨ w.handler ≠ none ∨
      ∀ p ∈ w.parked, p.st ≠ .handlerWait) : evHandlerEntry wid s = s := by
  rw [evHandlerEntry]
  split
  · rfl
  · next hon =>
    refine Packets.modWarp_eq_self hk hw ?_
    rcases h with h | h | h
    · exact absurd h hon
    · rw [if_pos (Option.isSome_iff_ne_none.2 h)]
    · have hnone : w.parked.find? (fun p => p.st == .handlerWait) = none :=
        List.find?_eq_none.2 fun p hp => by simpa using h p hp
      simp only [hnone, ite_self]

end Handlers

section Records
variable {core wid j : Nat} {s : State} {w : Warp} {p : Parked}

/-- A sub-warp of a warp with its state on the way set. -/
def standAt (id : Nat) (x : ParkSt) (q : Parked) : Parked := if q.id = id then { q with st := x } else q

theorem setPark_warp {t : State} (hw : t.warp wid = some w) (id : Nat) (x : ParkSt) :
    (t.setPark wid id x).warp wid = some { w with parked := w.parked.map (standAt id x) } :=
  modWarp_warp hw _

theorem setPark_moves (wid id : Nat) (x : ParkSt) (t : State) : WarpMoves wid t (t.setPark wid id x) :=
  modWarp_moves _ _ _

/-- A sub-warp whose record has its number in the ring, in the host's hands (10 R231). -/
def hostHolds (id : Nat) (n : Word) (q : Parked) : Parked :=
  if q.id = id then { q with st := .host, record := { q.record with seq := n.setWidth 24 } } else q

/-- The record of sub-warp `id` is counted in its job's ring and told to the host (10 R231). -/
structure Told (wid id j : Nat) (w : Warp) (s t : State) : Prop where
  warps : ∀ k, k ≠ wid → t.warp k = s.warp k
  own : t.warp wid = some { w with parked := w.parked.map (hostHolds id (s.reg (frOff j + 0xC))) }
  mem : t.mem = s.mem
  irqs : t.irqs = s.irqs ++ [s.regF (frOff j + 8) 8 8]
  produce : t.reg (frOff j + 0xC) = s.reg (frOff j + 0xC) + 1
  regs : ∀ o, o % 4 = 0 → o ≠ frOff j + 0xC → t.reg o = s.reg o

theorem modWarp_reg (k : Nat) (f : Warp → Warp) (s : State) (o : Nat) : (s.modWarp k f).reg o = s.reg o := by
  rw [State.reg, State.modWarp_bar2, State.reg]

theorem modWarp_regF (k : Nat) (f : Warp → Warp) (s : State) (o lo n : Nat) :
    (s.modWarp k f).regF o lo n = s.regF o lo n := by
  rw [State.regF, modWarp_reg, State.regF]

/-- The state in which PRODUCE has gone on and the host holds the sub-warp, before the interrupt. -/
def produced (wid id j : Nat) (s : State) : State :=
  (s.modWarp wid (fun w => { w with parked := w.parked.map (hostHolds id (s.reg (frOff j + 0xC))) })).setReg
    (frOff j + 0xC) (s.reg (frOff j + 0xC) + 1)

theorem hostDelivered_eq (id : Nat) : s.hostDelivered wid id j =
    (produced wid id j s).raise (s.regF (frOff j + 8) 8 8) := by
  rw [State.hostDelivered]
  dsimp only
  rw [modWarp_regF]
  rfl

theorem told_hostDelivered {id : Nat} (hw : s.warp wid = some w) (hhost : s.hostLost = false) :
    Told wid id j w s (s.hostDelivered wid id j).finish := by
  have hlost : (produced wid id j s).hostLost = false := by
    rw [produced, State.setReg_hostLost, State.modWarp_hostLost, hhost]
  rw [hostDelivered_eq, State.raise, hlost, if_neg Bool.false_ne_true]
  refine ⟨fun k hk => s.modWarp_warp_of_ne hk _, modWarp_warp hw _, s.modWarp_mem .., ?_, ?_, fun o ho hne => ?_⟩
  · change (produced wid id j s).irqs ++ _ = _
    rw [produced, State.setReg_irqs, State.modWarp_irqs]
  · exact WorkQueues.setReg_reg_self _ _ _
  · exact (WorkQueues.setReg_reg_of_offset_ne _ ho (by unfold frOff; omega) hne).trans (modWarp_reg ..)

/-- Of a list with one least element, the least is that one. -/
theorem minBy_eq_of_least {α : Type} {key : α → Nat} {l : List α} {a : α} (ha : a ∈ l)
    (h : ∀ b ∈ l, b ≠ a → key a < key b) : minBy key l = some a := by
  cases hm : minBy key l with
  | none => rw [WorkDispatch.minBy_eq_none.1 hm] at ha; cases ha
  | some b =>
    obtain ⟨hb, hleast⟩ := WorkDispatch.minBy_least hm
    by_cases hne : b = a
    · rw [hne]
    · have hlt := h b hb hne
      have hle := hleast a ha
      omega

theorem setRegF_warp (off lo n v k : Nat) (s : State) : (s.setRegF off lo n v).warp k = s.warp k := rfl

theorem setRegF_hostLost (off lo n v : Nat) (s : State) : (s.setRegF off lo n v).hostLost = s.hostLost := rfl

/-- With no record on its way the oldest waiting one whose ring has room is written (10 R231). -/
theorem hostFaultRecord_of_waiting (hp : (wid, p) ∈ s.hostWaiters core) (hposts : s.hostPosts = [])
    (hroom : s.frRoom (s.jobOf wid) = true)
    (hfirst : ∀ e ∈ s.hostWaiters core, s.frRoom (s.jobOf e.1) = true → e ≠ (wid, p) → p.id < e.2.id) :
    evHostFaultRecord core s = s.recordWrite core wid p := by
  have hmin : minBy (fun e => e.2.id) ((s.hostWaiters core).filter (fun e =>
      s.frRoom (s.jobOf e.1) && [].all (fun x : Nat × Parked => s.jobOf x.1 != s.jobOf e.1))) = some (wid, p) := by
    refine minBy_eq_of_least (List.mem_filter.2 ⟨hp, by simp [hroom]⟩) fun e he hne => ?_
    obtain ⟨he, hr⟩ := List.mem_filter.1 he
    exact hfirst e he (by simpa using hr) hne
  simp only [evHostFaultRecord, hposts, List.filter_nil, List.find?_nil, hmin]

/-- A written record whose time has come is counted (10 R231). -/
theorem hostFaultRecord_of_post {g : Nat} (hposts : s.hostPosts = [(wid, p)]) (hcore : s.coreOf wid = core)
    (hst : p.st = .hostPost g) (hg : g ≤ s.gtime) (hinval : s.inval = []) :
    evHostFaultRecord core s = s.hostDelivered wid p.id (s.jobOf wid) := by
  have hready : (p.postTime.any (fun t => decide (t ≤ s.gtime)) && s.inval == []) = true := by
    simp [Parked.postTime, hst, hg, hinval]
  simp only [evHostFaultRecord, hposts, List.filter_cons, hcore, beq_self_eq_true, if_true, List.filter_nil,
    List.find?_cons, hready]

/-- The bytes that a record is written as: its number in the ring, and that the host has it (10 R223, R231). -/
def ringBytes (p : Parked) (n : Word) : List Byte := { p.record with seq := n.setWidth 24, host := true }.bytes

/-- The address of the ring's next record (10 R230). -/
def ringAt (j : Nat) (s : State) : Nat :=
  (s.reg64 (frOff j)).toNat + 64 * ((s.reg (frOff j + 0xC)).toNat % 2 ^ s.frLog j)

theorem recordWrite_of_lost (h : s.hostLost = true) : s.recordWrite core wid p = s.setPark wid p.id .host := by
  simp only [State.recordWrite, h, if_true]

section Writes
variable (hj : s.jobOf wid = j)
include hj

theorem recordWrite_of_disabled (h : s.hostLost = false) (hlog : s.frLog j = 0) :
    s.recordWrite core wid p = s.hostDelivered wid p.id j := by
  simp only [State.recordWrite, h, hj, hlog, Bool.false_eq_true, if_false, if_true]

theorem recordWrite_of_put {g : Nat} {v : State} (h : s.hostLost = false) (hlog : s.frLog j ≠ 0)
    (hput : s.vWrite (viaCore (s.jAsid j) core) (ringAt j s) (ringBytes p (s.reg (frOff j + 0xC))) = (.ok g, v)) :
    s.recordWrite core wid p = v.setPark wid p.id (.hostPost g) := by
  rw [ringAt, ringBytes] at hput
  simp only [State.recordWrite, h, hj, hlog, hput, Bool.false_eq_true, if_false]

theorem recordWrite_of_fault {f : FaultInfo} {v : State} (h : s.hostLost = false) (hlog : s.frLog j ≠ 0)
    (hf : f ≠ heldFault)
    (hput : s.vWrite (viaCore (s.jAsid j) core) (ringAt j s) (ringBytes p (s.reg (frOff j + 0xC))) = (.error f, v)) :
    s.recordWrite core wid p = (s.setRegF (frOff j + 8) 16 1 1).hostDelivered wid p.id j := by
  have hv : v = s := HomeWrites.vWrite_of_fault hput
  rw [ringAt, ringBytes, hv] at hput
  simp only [State.recordWrite, h, hj, hlog, hput, hf, Bool.false_eq_true, if_false]

end Writes

end Records

end Sys2Proof.Machine.TrapPaths
end

section
/-!
PROOFS. RESUME: the sub-warp that it names stands again at its instruction, or ends as by EXIT (04 R89; 10 R228, R231).
-/

namespace Sys2Proof.Machine.TrapPaths

section Targets
variable {j wid : Nat} {seq : BitVec 24} {s : State} {p : Parked} (h : s.resumeTarget j seq = some (wid, p))
include h

/-- A sub-warp of a saved block waits until the block runs again (log entry 111). -/
theorem resume_of_blockOff (hoff : s.blockOff (blkOf wid) = true) :
    evResumeRetry j seq s = s.setPark wid p.id (.resumed false) ∧
      evResumeEnd j seq s = s.setPark wid p.id (.resumed true) := by
  simp only [evResumeRetry, evResumeEnd, h, hoff, if_true, and_self]

theorem resumeRetry_of_on (hon : s.blockOff (blkOf wid) = false) :
    evResumeRetry j seq s = (s.unpark wid p.id).modWarp wid (Warp.resumeAt p.mask p.resume) := by
  simp only [evResumeRetry, h, hon, Bool.false_eq_true, if_false]

theorem resumeEnd_of_on (hon : s.blockOff (blkOf wid) = false) :
    evResumeEnd j seq s = (s.unpark wid p.id).exitLanes wid p.mask := by
  simp only [evResumeEnd, h, hon, Bool.false_eq_true, if_false]

end Targets

section Resumption
variable (m : Mask) (r : ResumeAt) (w : Warp)

/-- A lane that stands at its instruction again (10 R228). -/
def resumedLane (r : ResumeAt) (l : Nat) (x : Lane) : Lane :=
  { x with pc := r.pc, run := r.run, nxt := r.nxt, bkpt := some r.pc, retry := 0, gen := r.gen, score := r.score,
           elem := tget l r.elems }

theorem resumeAt_eq : w.resumeAt m r =
    foldLanes m (fun l x => Warp.modLane l (resumedLane r l) x) (w.setTemps m r.temps) := rfl

theorem resumeAt_v : (w.resumeAt m r).v = (w.setTemps m r.temps).v := by
  rw [resumeAt_eq, foldLanes_modLane_frame]

theorem resumeAt_lane (hlen : w.lanes.length = 32) {l : Nat} (hl : l < 32) :
    (w.resumeAt m r).lane l = if m.getLsbD l then resumedLane r l (w.lane l) else w.lane l :=
  lane_foldLanes_modLane (w.setTemps m r.temps) m (resumedLane r) hlen hl

theorem resumeAt_frame : w.resumeAt m r = { w with lanes := (w.resumeAt m r).lanes, v := (w.resumeAt m r).v } := by
  rw [resumeAt_v]
  exact foldLanes_modLane_frame (w.setTemps m r.temps) m (resumedLane r)

end Resumption

section Ends
variable {wid : Nat} {P Q : Warp → Prop} {s u : State}

/-- On the way from `s` memory, blocks and clusters stand, and `P` holds of warp `wid`. -/
structure EndsBy (wid : Nat) (P : Warp → Prop) (s u : State) : Prop where
  mem : u.mem = s.mem
  blocks : u.blocks = s.blocks
  clusters : u.clusters = s.clusters
  warp : ∃ x, u.warp wid = some x ∧ P x

theorem EndsBy.modWarp (h : EndsBy wid P s u) {f : Warp → Warp} (hf : ∀ x, P x → Q (f x)) :
    EndsBy wid Q s (u.modWarp wid f) where
  mem := (u.modWarp_mem ..).trans h.mem
  blocks := (u.modWarp_blocks ..).trans h.blocks
  clusters := (u.modWarp_clusters ..).trans h.clusters
  warp := by
    obtain ⟨x, hx, hP⟩ := h.warp
    exact ⟨f x, modWarp_warp hx f, hf x hP⟩

theorem EndsBy.modCore (h : EndsBy wid P s u) (k : Nat) (f : Core → Core) : EndsBy wid P s (u.modCore k f) :=
  ⟨h.mem, h.blocks, h.clusters, h.warp⟩

/-- The barriers that a warp may arrive at are those of the state before. -/
theorem EndsBy.barrier (h : EndsBy wid P s u) (cl : Bool) (i : Nat) : u.barrier wid cl i = s.barrier wid cl i := by
  rw [State.barrier, State.block, h.blocks, h.clusters]
  rfl

/-- What a RESUME that ends a sub-warp asks of the warp, and what EXIT keeps of it. -/
structure EndWarp (v : FMap Word) (left : List Parked) (st : Nat → LaneSt) (x : Warp) : Prop where
  v : x.v = v
  parked : x.parked = left
  handler : x.handler = none
  graft : x.graft = none
  bars : x.bars = []
  waits : ∀ n, x.jWait.getD n 0 = 0
  lanes : x.lanes.length = 32
  st : ∀ l, l < 32 → (x.lane l).st = st l

variable {v : FMap Word} {left : List Parked} {st : Nat → LaneSt} {x : Warp}

theorem EndWarp.modLanes (h : EndWarp v left st x) (m : Mask) {f : Lane → Lane} {st' : Nat → LaneSt}
    (hf : ∀ l, l < 32 → (if m.getLsbD l then (f (x.lane l)).st else (x.lane l).st) = st' l) :
    EndWarp v left st' (x.modLanes m f) := by
  have hlen := (length_modLanes x m f).trans h.lanes
  have hst : ∀ l, l < 32 → ((x.modLanes m f).lane l).st = st' l := fun l hl => by
    rw [lane_modLanes x m f h.lanes hl, ← hf l hl]
    split <;> rfl
  obtain ⟨hv, hparked, hhandler, hgraft, hbars, hwaits, -, -⟩ := h
  rw [modLanes_frame] at hlen hst ⊢
  exact ⟨hv, hparked, hhandler, hgraft, hbars, hwaits, hlen, hst⟩

theorem zero_and_mask (m : Mask) : (0 : Mask) &&& m = 0 := BitVec.zero_and

theorem and_not_zero_mask (m : Mask) : m &&& ~~~(0 : Mask) = m := BitVec.and_allOnes

theorem EndWarp.releaseIn (h : EndWarp v left st x) (n : Nat) (hm : Mask) : x.releaseIn n hm = x := by
  simp only [Warp.releaseIn, h.waits, zero_and_mask, ne_eq, not_true_eq_false, and_false, if_false]

/-- No lane waits at a rejoin register, so that none goes on (04 R89). -/
theorem EndWarp.release (h : EndWarp v left st x) (n : Nat) : x.release n = x := by
  rw [Warp.release]
  split
  · rw [h.releaseIn, h.releaseIn]
  · rw [h.releaseIn]

/-- Leave(A) of lanes where none waits ends them (04 R89). -/
theorem EndWarp.leave (h : EndWarp v left st x) (m : Mask) :
    EndWarp v left (fun l => if m.getLsbD l then .exited else st l) (x.leave m) := by
  have hlanes : EndWarp v left (fun l => if m.getLsbD l then .exited else st l)
      (x.modLanes m (fun l => { l with st := .exited })) :=
    h.modLanes m fun l hl => by rw [h.st l hl]
  rw [Warp.leave]
  refine List.foldlRecOn (List.range 16) _ (motive := EndWarp v left _) hlanes fun y hy n _ => ?_
  have hnext : EndWarp v left (fun l => if m.getLsbD l then .exited else st l)
      { y with jOut := lput 0 n (y.jOut.getD n 0 &&& ~~~m) y.jOut,
               jWait := lput 0 n (y.jWait.getD n 0 &&& ~~~m) y.jWait } := by
    refine { hy with waits := fun k => ?_ }
    by_cases hk : k = n
    · rw [hk, getD_lput_self, hy.waits, zero_and_mask]
    · rw [getD_lput_of_ne _ _ hk, hy.waits]
  rw [hnext.release]
  exact hnext

section Steps
variable {P : Warp → Prop} (h : EndsBy wid (EndWarp v left st) s u)
include h

theorem EndsBy.leaveHandler (m : Mask) : EndsBy wid (EndWarp v left st) s (u.leaveHandler wid m) :=
  h.modWarp fun x hx => by rw [hx.handler]; exact hx

theorem EndsBy.graftNext (hgraft : ∀ q ∈ left, ∀ a b, q.st ≠ .graftWait a b) : u.graftNext wid = u := by
  obtain ⟨x, hx, hP⟩ := h.warp
  simp only [State.graftNext, hx, hP.graft, hP.parked, Option.isSome_none, Bool.false_eq_true, if_false]
  split
  · rfl
  · next q hq =>
    have hwaits := List.find?_some hq
    split at hwaits
    · next a b he => exact absurd he (hgraft q (List.mem_of_find?_eq_some hq) a b)
    · cases hwaits

/-- No lane is in graft mode, and no sub-warp waits for it (11 R251). -/
theorem EndsBy.leaveGraft (m : Mask) (hgraft : ∀ q ∈ left, ∀ a b, q.st ≠ .graftWait a b) :
    EndsBy wid (EndWarp v left st) s (u.leaveGraft wid m) := by
  have hnext (f : Warp → Warp) (hf : ∀ x, EndWarp v left st x → f x = x) :
      EndsBy wid (EndWarp v left st) s ((u.modWarp wid f).graftNext wid) := by
    have hsame := h.modWarp (Q := EndWarp v left st) (f := f) fun x hx => by rw [hf x hx]; exact hx
    rw [hsame.graftNext hgraft]
    exact hsame
  exact hnext _ fun x hx => by rw [hx.graft]

/-- The end of a WSYNC moves only where lanes stand (04 R98). -/
theorem EndsBy.wsyncCheck (n : Nat) : EndsBy wid (EndWarp v left st) s (u.wsyncCheck wid n) := by
  obtain ⟨x, hx, -⟩ := h.warp
  rw [State.wsyncCheck, hx]
  dsimp only
  split
  · exact h
  · refine (h.modWarp (Q := EndWarp v left st) fun y hy => ?_).modCore _ _
    exact { hy.modLanes _ (st' := st) fun l hl => by rw [hy.st l hl]; exact ite_self _ with }

/-- With no count at a barrier none is out of reach (04 R97). -/
theorem EndsBy.unreachable (hneed : ∀ cl i, (s.barrier wid cl i).need = none) (cl : Bool) (i : Nat) :
    u.unreachable wid cl i = u := by
  simp only [State.unreachable, h.barrier, hneed]

theorem EndsBy.foldl_unreachable (hneed : ∀ cl i, (s.barrier wid cl i).need = none) (cl : Bool) (l : List Nat) :
    l.foldl (fun s i => s.unreachable wid cl i) u = u := by
  induction l with
  | nil => rfl
  | cons i l ih => rw [List.foldl_cons, h.unreachable hneed, ih]

/-- No lane waits at a rejoin register, so that there is no deadlock (04 R91). -/
theorem EndsBy.rejoinCheck : u.rejoinCheck wid = u := by
  obtain ⟨x, hx, hP⟩ := h.warp
  have hwaiting : x.jWait.foldl (fun a b => a ||| b) 0 = 0 :=
    List.foldlRecOn x.jWait _ (motive := fun a => a = 0) rfl fun a ha b hb => by
      obtain ⟨n, hn, rfl⟩ := List.mem_iff_getElem.1 hb
      have hzero := hP.waits n
      rw [List.getD_eq_getElem _ _ hn] at hzero
      rw [ha, hzero]
      rfl
  have hall : ¬ (x.live ≠ 0 ∧ x.live &&& ~~~(0 : Mask) = 0 ∧ x.parked = [] ∧ x.handler = none) := by
    rintro ⟨hne, hzero, -⟩
    exact hne ((and_not_zero_mask _).symm.trans hzero)
  simp only [State.rejoinCheck, hx, hwaiting, if_neg hall]

variable (hlive : ∃ l, l < 32 ∧ st l = .live)
include hlive

theorem EndsBy.live_ne_zero : ∀ x, u.warp wid = some x → x.live ≠ 0 := by
  intro x hx hzero
  obtain ⟨y, hy, hP⟩ := h.warp
  obtain ⟨l, hl, hst⟩ := hlive
  rw [hx, Option.some.injEq] at hy
  have hbit : x.live.getLsbD l = true := by
    rw [Warp.live, getLsbD_maskOf _ hl, List.contains_iff_mem, List.mem_filter]
    exact ⟨List.mem_range.2 hl, by rw [hy, hP.st l hl, hst]; rfl⟩
  rw [hzero] at hbit
  simp at hbit

/-- A live lane keeps its block from its end (02 R54). -/
theorem EndsBy.blockCheck (byExit : Bool) : u.blockCheck (blkOf wid) byExit = u := by
  obtain ⟨x, hx, -⟩ := h.warp
  have hmem : wid ∈ u.warpsOf (blkOf wid) :=
    List.mem_filter.2 ⟨List.mem_map.2 ⟨_, mem_of_tget hx, rfl⟩, by simp⟩
  rw [State.blockCheck]
  split
  · rfl
  · refine if_pos (Bool.or_eq_true_iff.2 (.inr (List.any_eq_true.2 ⟨wid, hmem, ?_⟩)))
    rw [hx]
    exact bne_iff_ne.2 (h.live_ne_zero hlive x hx)

end Steps

/-- EXIT of lanes of a warp in which nothing waits, and of which a lane is left, ends them (10 R231; 17 R356). -/
theorem EndsBy.exitLanes (h : EndsBy wid (EndWarp v left st) s u) (m : Mask)
    (hgraft : ∀ q ∈ left, ∀ a b, q.st ≠ .graftWait a b) (hneed : ∀ cl i, (s.barrier wid cl i).need = none)
    (hlive : ∃ l, l < 32 ∧ (if m.getLsbD l then .exited else st l) = LaneSt.live) :
    EndsBy wid (EndWarp v left fun l => if m.getLsbD l then .exited else st l) s (u.exitLanes wid m) := by
  have hunbound : EndsBy wid (EndWarp v left st) s (u.unbind wid m) :=
    (h.modCore _ _).modWarp fun x hx => { hx with }
  have hsynced := ((((hunbound.modWarp fun x hx => hx.leave m).leaveHandler m).leaveGraft m hgraft).wsyncCheck 0).wsyncCheck 1
  rw [State.exitLanes]
  generalize ((((State.modWarp wid (Warp.leave m) (u.unbind wid m)).leaveHandler wid m).leaveGraft wid m).wsyncCheck
    wid 0).wsyncCheck wid 1 = t at hsynced ⊢
  obtain ⟨x, hx, hP⟩ := hsynced.warp
  have hstays : (x.live == 0) = false := beq_eq_false_iff_ne.2 (hsynced.live_ne_zero hlive x hx)
  simp only [hx, hstays, hP.bars, Bool.false_eq_true, if_false, List.foldl_cons, List.foldl_nil, Option.bind_some,
    List.find?_nil, hsynced.foldl_unreachable hneed, hsynced.rejoinCheck, hsynced.blockCheck hlive]
  exact hsynced

end Ends

end Sys2Proof.Machine.TrapPaths
end

section
/-!
PROOFS. The statement TrapDelivery: each of its clauses from what the step does (03 R75 to R77; 10 R223, R226 to R228,
R231).
-/

namespace Sys2Proof.Machine.TrapPaths

open Sys2Proof.Machine.Management (next_finish_congr)

section Clauses
variable {core wid j : Nat} {seq : BitVec 24} {s : State} {w : Warp} {p : Parked}

theorem frOff_produce (j : Nat) : frOff j + 0xC = 0x15000C + 0x20 * j := by unfold frOff; omega

theorem frOff_control (j : Nat) : frOff j + 8 = 0x150008 + 0x20 * j := by unfold frOff; omega

/-- The entries that leave with the head of a spill path: the head whole, or as much of a call as fits (03 R75). -/
theorem exec_spillRefill_of_split {x : SpillEntry} {r : List SpillEntry} {e : QEntry} {left : Option QEntry} {job : Nat}
    (h : tget (spillKey job core) s.spill = some (x :: r)) (hplaced : ∀ y ∈ x :: r, y.st ≠ .noRoom)
    (hsplit : x.e.split (s.queueFree core) = (some e, left)) : exec (.spillRefill core job) s =
      .next (spillLeft core job e.weight x.st ((left.map (fun y => { x with e := y })).toList ++ r)
        (s.modCore core (fun k => { k with queue := queuePut e k.queue }))).finish :=
  next_finish_congr (spillRefill_of_split h hplaced hsplit)

/-- A warp that a sub-warp has entered handler mode of, but for its lanes and temporaries (10 R227). -/
theorem handlerEntered_frame (p : Parked) (w : Warp) : handlerEntered p w =
    { handlerTaken p w with lanes := (handlerEntered p w).lanes, v := ((handlerTaken p w).setTemps p.mask []).v } :=
  modLanes_frame _ _ _

theorem handlerEntered_v (p : Parked) (w : Warp) :
    (handlerEntered p w).v = ((handlerTaken p w).setTemps p.mask []).v := by
  rw [handlerEntered_frame]

/-- A sub-warp's lanes at the handler entry (10 R227). -/
theorem handlerEntered_lane (hlen : w.lanes.length = 32) {l : Nat} (hl : l < 32) : (handlerEntered p w).lane l =
    if p.mask.getLsbD l then { w.lane l with pc := p.entry, run := none, elem := none } else w.lane l :=
  lane_modLanes ((handlerTaken p w).setTemps p.mask []) p.mask _ hlen hl

theorem fget_handlerEntered_v {k l : Nat} (hl : l < 32) : fget 0 (32 * k + l) (handlerEntered p w).v =
    if 112 ≤ k ∧ k < 120 ∧ p.mask.getLsbD l = true then 0 else fget 0 (32 * k + l) w.v := by
  rw [handlerEntered_v, fget_setTemps _ _ _ hl]
  rfl

theorem unpark_warp (hw : s.warp wid = some w) (id : Nat) :
    (s.unpark wid id).warp wid = some { w with parked := w.parked.filter (fun q => q.id != id) } :=
  modWarp_warp hw _

/-- A warp whose sub-warp has ended before its lanes do (10 R231). -/
theorem endsBy_unpark (hw : s.warp wid = some w) (hlen : w.lanes.length = 32) (hhandler : w.handler = none)
    (hgraft : w.graft = none) (hbars : w.bars = []) (hwaits : ∀ m ∈ w.jWait, m = 0) (id : Nat) :
    EndsBy wid (EndWarp w.v (w.parked.filter (fun q => q.id != id)) fun l => (w.lane l).st) s (s.unpark wid id) := by
  have hmoves := modWarp_moves wid (fun w => { w with parked := w.parked.filter (fun q => q.id != id) }) s
  have hzero (n : Nat) : w.jWait.getD n 0 = 0 := by
    rw [List.getD_eq_getElem?_getD]
    cases h : w.jWait[n]? with
    | none => rfl
    | some m => exact hwaits m (List.mem_of_getElem? h)
  exact ⟨s.modWarp_mem .., s.modWarp_blocks .., s.modWarp_clusters .., _, unpark_warp hw id,
    ⟨rfl, rfl, hhandler, hgraft, hbars, hzero, hlen, fun _ _ => rfl⟩⟩

end Clauses

/-- Settles O47: each clause by what its step makes of the queue, the spill path, the warp and the ring. -/
theorem trapDelivery : Obligations.TrapDelivery := by
  unfold Obligations.TrapDelivery
  intro bit bytes kept told
  have hbytes (r : FaultRec) : bytes r = r.bytes := by
    simp only [bytes, bit, FaultRec.bytes, b2n]
    cases r.nested <;> cases r.graft <;> cases r.info.engine <;> cases r.host <;> rfl
  have htold {wid j : Nat} {p : Parked} {w : Warp} {s t : State} (h : Told wid p.id j w s t) : told wid p w j s t := by
    obtain ⟨hwarps, hown, hmem, hirqs, hproduce, hregs⟩ := h
    rw [frOff_produce] at hown hproduce hregs
    rw [frOff_control] at hirqs
    exact ⟨hwarps, hown, hmem, hirqs, hproduce, hregs⟩
  refine ⟨fun core wid id rest s hqueue => next_finish_congr (queueHandOn_of_trap hqueue), ?_, ?_, ?_, ?_, ?_⟩
  · intro core job x r s key hkey hplaced n room joined
    refine ⟨fun hfits => ?_, fun c hc hlarge hroom => ?_⟩
    · have hweight : n = x.e.weight := by
        cases he : x.e <;> simp only [n, he] <;> rfl
      have hjoined : ∀ q, joined x.e q = queuePut x.e q := fun q => by
        cases he : x.e <;> rfl
      rw [hweight] at hfits ⊢
      rw [exec_spillRefill_of_split hkey hplaced (split_of_fits hfits)]
      simp only [hjoined]
      rfl
    · have hsplit : x.e.split (s.queueFree core) = _ := hc ▸ split_wcall hlarge hroom
      rw [exec_spillRefill_of_split hkey hplaced hsplit]
      rfl
  · intro wid s w hw off bank
    refine ⟨fun p hoff hh hp => ?_, fun hnone hk => next_finish_congr (handlerEntry_of_none hw hk hnone)⟩
    obtain ⟨hmoves, hown⟩ := handlerEntry_of_waiting hoff hw hh hp
    refine ⟨_, handlerEntered p w, enteredHandler p, rfl, hmoves.finish, hown, ?_, rfl, ?_,
      fun hlen l hl => handlerEntered_lane hlen hl, fun k l hl => fget_handlerEntered_v hl⟩
    · rw [handlerEntered_v]
      exact handlerEntered_frame p w
    · simp only [hbytes]
      rfl
  · intro core s wid p w j hp hposts hroom hj hfirst hw hj4096 n logn at' rcd stands
    have hev : evHostFaultRecord core s = s.recordWrite core wid p :=
      hostFaultRecord_of_waiting hp hposts (hj ▸ hroom) hfirst
    have hrcd : rcd = ringBytes p n := hbytes _
    refine ⟨fun hlost => ?_, fun hlost hlog => ?_, fun g v hlost hlog hput => ?_, fun f v hlost hlog hf hput => ?_⟩
    · exact ⟨_, next_finish_congr (hev.trans (recordWrite_of_lost hlost)), (setPark_moves ..).finish, setPark_warp hw ..⟩
    · exact ⟨_, next_finish_congr (hev.trans (recordWrite_of_disabled hj.symm hlost hlog)),
        htold (told_hostDelivered hw hlost)⟩
    · rw [hrcd] at hput
      exact ⟨_, next_finish_congr (hev.trans (recordWrite_of_put hj.symm hlost hlog hput)), (setPark_moves ..).finish,
        setPark_warp (((HomeWrites.vWrite_homeMoves hput).warp wid).trans hw) ..⟩
    · rw [hrcd] at hput
      exact ⟨_, next_finish_congr (hev.trans (recordWrite_of_fault hj.symm hlost hlog hf hput)),
        htold (told_hostDelivered ((setRegF_warp ..).trans hw) ((setRegF_hostLost ..).trans hlost))⟩
  · intro core s wid p w j g hposts hcore hst hg hinval hlost hw hj hj4096
    exact ⟨_, next_finish_congr (hostFaultRecord_of_post hposts hcore hst hg hinval),
      hj ▸ htold (told_hostDelivered hw hlost)⟩
  · intro j seq s wid p w htarget hw _ left named
    refine ⟨fun hoff => ?_, fun hon => ⟨?_, fun hlen hhandler hgraft hbars hwaits hparked hneed hlive => ?_⟩⟩
    · obtain ⟨hretry, hend⟩ := resume_of_blockOff htarget hoff
      exact ⟨next_finish_congr hretry, next_finish_congr hend⟩
    · refine ⟨_, _, next_finish_congr (resumeRetry_of_on htarget hon),
        ((modWarp_moves ..).trans (modWarp_moves ..)).finish, modWarp_warp (unpark_warp hw _) _, resumeAt_frame _ _ _,
        fun hlen l hl => resumeAt_lane p.mask p.resume { w with parked := left } hlen hl, fun k l hl => ?_⟩
      rw [resumeAt_v]
      exact fget_setTemps _ _ _ hl
    · obtain ⟨l, hl, hst, hout⟩ := hlive
      have hended := (endsBy_unpark hw hlen hhandler hgraft hbars hwaits p.id).exitLanes p.mask
        (fun q hq => hparked q (List.mem_filter.1 hq).1) hneed ⟨l, hl, by rw [hout]; exact hst⟩
      rw [← resumeEnd_of_on htarget hon] at hended
      obtain ⟨hmem, -, -, x, hx, hends⟩ := hended
      exact ⟨_, x, rfl, hmem, hx, hends.parked, hends.v, hends.st⟩

end Sys2Proof.Machine.TrapPaths
end

section
/-!
PROOFS. MISMATCH_WINDOW: the counts of a window start again, and its rate moves level and trim (01 R33, R34; 13 R296,
R297).
-/

namespace Sys2Proof.Machine.Windows

open Management

variable (core : Nat) (s : State)

/-- Mismatches of the core's window, scaled by the step threshold (13 R296). -/
def scaledMis : Nat := (s.core core).winMis * 2 ^ s.stepth

/-- The windows in a row above the threshold, this one counted. -/
def hotRow : Nat := if (s.core core).winCommits < scaledMis core s then (s.core core).above + 1 else 0

/-- The windows in a row below a quarter of the threshold, this one counted. -/
def coolRow : Nat := if 4 * scaledMis core s < max (s.core core).winCommits 1 then (s.core core).below + 1 else 0

/-- The core after a window's end. -/
def windowed (k : Core) : Core :=
  let lv := s.levelAfter core (hotRow core s) (coolRow core s)
  { k with
    winMis := 0, winCommits := 0, winLevel5 := 0, winStart := lv, level := lv
    trim := trimAfter k.level k.trim k.winMis k.winCommits s.stepth
    above := if 2 ≤ hotRow core s then 0 else hotRow core s
    below := if 64 ≤ coolRow core s then 0 else coolRow core s }

theorem evMismatchWindow_core_self : (evMismatchWindow core s).core core = windowed core s (s.core core) := by
  unfold evMismatchWindow
  rw [State.modCore_core_self, setLevel_core_self]
  rfl

theorem evMismatchWindow_core_of_ne {j : Nat} (hj : j ≠ core) : (evMismatchWindow core s).core j = s.core j := by
  unfold evMismatchWindow
  rw [State.modCore_core_of_ne _ hj, setLevel_core_of_ne _ hj]

theorem evMismatchWindow_regF (o lo n : Nat) : (evMismatchWindow core s).regF o lo n =
    (s.setRegF (csOff core) 0 3 (windowed core s (s.core core)).level).regF o lo n :=
  setLevel_regF s core _ o lo n

theorem evMismatchWindow_frame : { (evMismatchWindow core s).finish with
    turn := s.turn, tick := s.tick, fresh := s.fresh, gtime := s.gtime, cores := s.cores, bar2 := s.bar2 } = s := by
  unfold evMismatchWindow
  obtain ⟨b, hb⟩ := setLevel_frame s core (s.levelAfter core (hotRow core s) (coolRow core s))
  show { (State.modCore core _ (s.setLevel core (s.levelAfter core (hotRow core s) (coolRow core s)))).finish with
    turn := s.turn, tick := s.tick, fresh := s.fresh, gtime := s.gtime, cores := s.cores, bar2 := s.bar2 } = s
  rw [hb]
  rfl

section Rates
variable {core s}

theorem hotRow_of_hot (h : (s.core core).winCommits < scaledMis core s) : hotRow core s = (s.core core).above + 1 := if_pos h

theorem hotRow_of_not_hot (h : ¬ (s.core core).winCommits < scaledMis core s) : hotRow core s = 0 := if_neg h

theorem coolRow_of_cool (h : 4 * scaledMis core s < max (s.core core).winCommits 1) :
    coolRow core s = (s.core core).below + 1 := if_pos h

theorem coolRow_of_not_cool (h : ¬ 4 * scaledMis core s < max (s.core core).winCommits 1) : coolRow core s = 0 := if_neg h

/-- A window above the threshold is not below a quarter of it. -/
theorem not_cool_of_hot (h : (s.core core).winCommits < scaledMis core s) :
    ¬ 4 * scaledMis core s < max (s.core core).winCommits 1 := by omega

theorem windowed_level_of_raise (h : 2 ≤ hotRow core s) :
    (windowed core s (s.core core)).level = max (s.core core).level (min 5 ((s.core core).winStart + 1)) := if_pos h

theorem windowed_level_of_lower (h : ¬ 2 ≤ hotRow core s) (h' : 64 ≤ coolRow core s) :
    (windowed core s (s.core core)).level = max (s.floorOf core) ((s.core core).level - 1) :=
  (if_neg h).trans (if_pos h')

theorem windowed_level_of_stay (h : ¬ 2 ≤ hotRow core s) (h' : ¬ 64 ≤ coolRow core s) :
    (windowed core s (s.core core)).level = (s.core core).level :=
  (if_neg h).trans (if_neg h')

theorem trimAfter_of_level_ge (k : Core) (th : Nat) (h : 4 ≤ k.level) :
    trimAfter k.level k.trim k.winMis k.winCommits th = 85 := if_pos h

theorem trimAfter_of_level_lt (k : Core) (th : Nat) (h : k.level < 4) :
    trimAfter k.level k.trim k.winMis k.winCommits th =
      if k.winCommits < k.winMis * 2 ^ th then min 60 (min k.trim 60 + 10)
      else if 16 * (k.winMis * 2 ^ th) < max k.winCommits 1 then min k.trim 60 - 5 else min k.trim 60 :=
  if_neg (by omega)

end Rates

/-- MISMATCH_WINDOW moves level and trim by the window's rate (01 R33, R34; 13 R297). -/
theorem mismatchWindow_moves :
    let k := s.core core
    let mis := k.winMis * 2 ^ s.regF 0x290010 16 5
    let hot := k.winCommits < mis
    let cool := 4 * mis < max k.winCommits 1
    let trim := min k.trim 60
    ∃ t k', exec (.mismatchWindow core) s = .next t ∧ t.core core = k' ∧
      (hot → 1 ≤ k.above → k'.level = max k.level (min 5 (k.winStart + 1)) ∧ k'.above = 0) ∧
      (hot → k.above = 0 → k'.level = k.level ∧ k'.above = 1) ∧
      (¬ hot → k'.above = 0) ∧
      (cool → 63 ≤ k.below → k'.level = max (s.floorOf core) (k.level - 1) ∧ k'.below = 0) ∧
      (cool → k.below < 63 → k'.level = k.level ∧ k'.below = k.below + 1) ∧
      (¬ cool → k'.below = 0) ∧ (¬ hot → ¬ cool → k'.level = k.level) ∧
      (4 ≤ k.level → k'.trim = 85) ∧
      (k.level < 4 → hot → k'.trim = min 60 (trim + 10)) ∧
      (k.level < 4 → 16 * mis < max k.winCommits 1 → k'.trim = trim - 5) ∧
      (k.level < 4 → ¬ hot → max k.winCommits 1 ≤ 16 * mis → k'.trim = trim) ∧
      k' = { k with winMis := 0, winCommits := 0, winLevel5 := 0, winStart := k'.level,
                    level := k'.level, trim := k'.trim, above := k'.above, below := k'.below } ∧
      t.regF (0x291000 + 8 * core) 0 3 = k'.level % 8 ∧
      (∀ o lo n, o % 4 = 0 → o ≠ 0x291000 + 8 * core → t.regF o lo n = s.regF o lo n) ∧
      (∀ j, j ≠ core → t.core j = s.core j) ∧
      { t with turn := s.turn, tick := s.tick, fresh := s.fresh, gtime := s.gtime,
               cores := s.cores, bar2 := s.bar2 } = s := by
  intro k mis hot cool trim
  have habove : (windowed core s k).above = if 2 ≤ hotRow core s then 0 else hotRow core s := rfl
  have hbelow : (windowed core s k).below = if 64 ≤ coolRow core s then 0 else coolRow core s := rfl
  have htrim (h : k.level < 4) : (windowed core s k).trim = _ := trimAfter_of_level_lt k s.stepth h
  refine ⟨_, windowed core s k, rfl, evMismatchWindow_core_self core s, fun hh hab => ?_, fun hh hab => ?_, fun hh => ?_,
    fun hc hb => ?_, fun hc hb => ?_, fun hc => ?_, fun hh hc => ?_, trimAfter_of_level_ge k s.stepth, fun hl hh => ?_,
    fun hl hc => ?_, fun hl hh hc => ?_, rfl, ?_, fun o lo n ho hne => ?_, fun j hj => evMismatchWindow_core_of_ne core s hj,
    evMismatchWindow_frame core s⟩
  · have hrow : hotRow core s = k.above + 1 := hotRow_of_hot hh
    have hrow : 2 ≤ hotRow core s := by omega
    exact ⟨windowed_level_of_raise hrow, if_pos hrow⟩
  · have hrow : hotRow core s = 1 := (hotRow_of_hot hh).trans (congrArg (· + 1) hab)
    have hcool : coolRow core s = 0 := coolRow_of_not_cool (not_cool_of_hot hh)
    rw [windowed_level_of_stay (by omega) (by omega), habove, hrow]
    exact ⟨rfl, rfl⟩
  · rw [habove, hotRow_of_not_hot hh]
    rfl
  · have hrow : hotRow core s = 0 := hotRow_of_not_hot fun h => not_cool_of_hot h hc
    have hcool : coolRow core s = k.below + 1 := coolRow_of_cool hc
    have hcool : 64 ≤ coolRow core s := by omega
    exact ⟨windowed_level_of_lower (by omega) hcool, if_pos hcool⟩
  · have hrow : hotRow core s = 0 := hotRow_of_not_hot fun h => not_cool_of_hot h hc
    have hcool : coolRow core s = k.below + 1 := coolRow_of_cool hc
    rw [windowed_level_of_stay (by omega) (by omega), hbelow, if_neg (by omega), hcool]
    exact ⟨rfl, rfl⟩
  · rw [hbelow, coolRow_of_not_cool hc]
    rfl
  · have hrow : hotRow core s = 0 := hotRow_of_not_hot hh
    have hcool : coolRow core s = 0 := coolRow_of_not_cool hc
    exact windowed_level_of_stay (by omega) (by omega)
  · exact (htrim hl).trans (if_pos hh)
  · refine (htrim hl).trans ((if_neg ?_).trans (if_pos hc))
    show ¬ k.winCommits < mis
    omega
  · exact (htrim hl).trans ((if_neg hh).trans (if_neg (not_lt.2 hc)))
  · rw [State.finish_regF, evMismatchWindow_regF, ← csOff, State.setRegF_regF_self _ (by omega)]
    rfl
  · rw [State.finish_regF, evMismatchWindow_regF, State.setRegF_regF_of_ne]
    simp only [csOff]
    omega

end Sys2Proof.Machine.Windows
end

section
/-!
PROOFS. PICK_WARP: which ready warp the order names, and what binding its next group leaves (03 R80, R81; 04 R84).
-/

namespace Sys2Proof.Machine.Picks

open TrapPaths

section Choice

/-- The oldest starved one of some warps, else the oldest not marked yielded, else the oldest (03 R81). -/
def choose (starved : List Nat) (cand : List (Nat × Warp)) : Option (Nat × Warp) :=
  if cand.filter (fun e => starved.contains e.1) ≠ [] then oldest (cand.filter (fun e => starved.contains e.1))
  else if cand.filter (fun e => !e.2.yielded) ≠ [] then oldest (cand.filter (fun e => !e.2.yielded))
  else oldest cand

variable {starved : List Nat} {cand : List (Nat × Warp)} {e : Nat × Warp}

theorem oldest_ne_none (h : cand ≠ []) : oldest cand ≠ none := fun hn => h (WorkDispatch.minBy_eq_none.1 hn)

theorem oldest_mem (h : oldest cand = some e) : e ∈ cand := (WorkDispatch.minBy_least h).1

theorem choose_mem (h : choose starved cand = some e) : e ∈ cand := by
  unfold choose at h
  split at h
  · exact (List.mem_filter.1 (oldest_mem h)).1
  · split at h
    · exact (List.mem_filter.1 (oldest_mem h)).1
    · exact oldest_mem h

theorem choose_ne_none (h : cand ≠ []) : choose starved cand ≠ none := by
  unfold choose
  split
  · exact oldest_ne_none ‹_›
  · split
    · exact oldest_ne_none ‹_›
    · exact oldest_ne_none h

/-- Where only one warp may go, it is chosen. -/
theorem choose_of_only (hmem : e ∈ cand) (honly : ∀ x ∈ cand, x = e) : choose starved cand = some e := by
  cases hc : choose starved cand with
  | none => exact absurd hc (choose_ne_none (List.ne_nil_of_mem hmem))
  | some x => rw [honly x (choose_mem hc)]

theorem pickFrom_eq_choose (s : State) (core part : Nat) (starved : List Nat) : s.pickFrom core part starved =
    choose starved ((s.readyWarps core part).filter (fun e => !s.inOrder core e ||
      (oldest ((s.unbound core part).filter (fun e => e.2.canRun))).map Prod.fst == some e.1)) := by
  unfold State.pickFrom choose
  simp only [bne_iff_ne, ne_eq, ite_not]

end Choice

section Order
variable {s : State} {core part wid : Nat} {starved : List Nat} {w : Warp}

theorem unbound_mem {e : Nat × Warp} (h : e ∈ s.unbound core part) : e ∈ s.coreWarps core := (List.mem_filter.1 h).1

theorem readyWarps_mem {e : Nat × Warp} (h : e ∈ s.readyWarps core part) :
    e ∈ s.unbound core part ∧ (s.nextGroup e.1 e.2).isSome := List.mem_filter.1 h

/-- Of warps that differ in number, the one older than every other is the oldest. -/
theorem oldest_of_first (huniq : ∀ e ∈ s.coreWarps core, ∀ e' ∈ s.coreWarps core, e.1 = e'.1 → e = e')
    {l : List (Nat × Warp)} (hl : ∀ e ∈ l, e ∈ s.coreWarps core) (hmem : (wid, w) ∈ l)
    (hfirst : ∀ e ∈ l, e.1 ≠ wid → w.age < e.2.age) : oldest l = some (wid, w) :=
  minBy_eq_of_least hmem fun e he hne => hfirst e he fun hid => hne (huniq e (hl e he) (wid, w) (hl _ hmem) hid)

/-- With out-of-order pick off only the oldest warp that can run is picked (01 R33). -/
theorem pickFrom_of_inOrder (huniq : ∀ e ∈ s.coreWarps core, ∀ e' ∈ s.coreWarps core, e.1 = e'.1 → e = e')
    (hin : ∀ e ∈ s.readyWarps core part, s.inOrder core e = true)
    (hmem : (wid, w) ∈ (s.unbound core part).filter (fun e => e.2.canRun))
    (hfirst : ∀ e ∈ (s.unbound core part).filter (fun e => e.2.canRun), e.1 ≠ wid → w.age < e.2.age)
    (hready : (wid, w) ∈ s.readyWarps core part) : s.pickFrom core part starved = some (wid, w) := by
  have hold : oldest ((s.unbound core part).filter (fun e => e.2.canRun)) = some (wid, w) :=
    oldest_of_first huniq (fun e he => unbound_mem (List.mem_filter.1 he).1) hmem hfirst
  rw [pickFrom_eq_choose, hold]
  refine choose_of_only (List.mem_filter.2 ⟨hready, by simp⟩) fun x hx => ?_
  obtain ⟨hx, hgo⟩ := List.mem_filter.1 hx
  have hid : x.1 = wid := by
    rw [hin x hx, Bool.not_true, Bool.false_or, beq_iff_eq] at hgo
    exact (Option.some.inj hgo).symm
  exact huniq x (unbound_mem (readyWarps_mem hx).1) (wid, w) (unbound_mem (readyWarps_mem hready).1) hid

/-- With it on for every ready warp, the choice is among them all (03 R81). -/
theorem pickFrom_of_outOfOrder (hout : ∀ e ∈ s.readyWarps core part, s.inOrder core e = false) :
    s.pickFrom core part starved = choose starved (s.readyWarps core part) := by
  rw [pickFrom_eq_choose]
  congr 1
  rw [List.filter_eq_self]
  intro e he
  rw [hout e he]
  rfl

end Order

section PassCounts
variable {w w' w'' : Warp}

/-- Lanes have the same record but for their pass counts, and nothing else of the warp has changed. -/
structure PassOnly (w w' : Warp) : Prop where
  rest : w' = { w with lanes := w'.lanes }
  length : w'.lanes.length = w.lanes.length
  lane : ∀ l, { w'.lane l with pass := (w.lane l).pass } = w.lane l

theorem PassOnly.refl (w : Warp) : PassOnly w w := ⟨rfl, rfl, fun _ => rfl⟩

theorem PassOnly.run (h : PassOnly w w') (l : Nat) : (w'.lane l).run = (w.lane l).run :=
  (congrArg Lane.run (h.lane l) :)

theorem PassOnly.pc (h : PassOnly w w') (l : Nat) : (w'.lane l).pc = (w.lane l).pc := (congrArg Lane.pc (h.lane l) :)

theorem PassOnly.gen (h : PassOnly w w') (l : Nat) : (w'.lane l).gen = (w.lane l).gen :=
  (congrArg Lane.gen (h.lane l) :)

theorem PassOnly.inGraft (h : PassOnly w w') (l : Nat) : w'.inGraft l = w.inGraft l := by rw [h.rest]; rfl

theorem PassOnly.modLane (h : PassOnly w w') (l : Nat) (f : Lane → Lane)
    (hf : ∀ x n, { f x with pass := n } = { x with pass := n }) : PassOnly w (w'.modLane l f) where
  rest := by
    rw [Warp.modLane]
    exact congrArg (fun y : Warp => { y with lanes := w'.lanes.set l (f (w'.lane l)) }) h.rest
  length := by rw [Warp.modLane_length, h.length]
  lane k := by
    by_cases hk : k = l ∧ l < w'.lanes.length
    · obtain ⟨rfl, hlt⟩ := hk
      rw [Warp.lane_modLane_self _ hlt, hf, h.lane]
    · have hsame : (w'.modLane l f).lane k = w'.lane k := by
        by_cases hkl : k = l
        · subst hkl
          have hlen : w'.lanes.length ≤ k := by omega
          rw [Warp.modLane, List.set_eq_of_length_le hlen]
        · exact w'.lane_modLane_of_ne hkl f
      rw [hsame, h.lane]

theorem PassOnly.modLanes (h : PassOnly w w') (m : Mask) (f : Lane → Lane)
    (hf : ∀ x n, { f x with pass := n } = { x with pass := n }) : PassOnly w (w'.modLanes m f) :=
  foldLanes_induct (PassOnly w) h fun l _ _ ht => ht.modLane l f hf

/-- The lanes that wait have passed once more, and those of the group begin again. -/
theorem passes_moved (w : Warp) (others m : Mask) (g : Nat → Nat) :
    let w' := (w.modLanes others (fun l => { l with pass := g l.pass })).modLanes m (fun l => { l with pass := 0 })
    PassOnly w w' ∧ (w.lanes.length = 32 → ∀ l, l < 32 → m.getLsbD l = true → (w'.lane l).pass = 0) := by
  have hothers := (PassOnly.refl w).modLanes others (fun l => { l with pass := g l.pass }) fun _ _ => rfl
  refine ⟨hothers.modLanes m _ fun _ _ => rfl, fun hlen l hl hm => ?_⟩
  rw [lane_modLanes _ _ _ (hothers.length.trans hlen) hl, if_pos hm]

/-- Choosing a group moves pass counts alone; outside graft mode the group's own start again (04 R84). -/
theorem nextGroup_passOnly {s : State} {wid : Nat} {m : Mask} (h : s.nextGroup wid w = some (m, w')) :
    PassOnly w w' ∧ (w.inGraft (lowLane m) = false → w.lanes.length = 32 →
      ∀ l, l < 32 → m.getLsbD l = true → (w'.lane l).pass = 0) := by
  simp only [State.nextGroup] at h
  split at h
  case h_1 g hg =>
    cases h
    exact ⟨.refl w, fun hout => absurd (List.find?_some hg) (by simp [hout])⟩
  case h_2 hg =>
    split at h
    · cases h
    case h_2 n hn =>
      cases h
      exact (passes_moved w _ m fun n => min 16 (n + 1)).imp_right fun h _ => h

end PassCounts

section Binding
variable (core wid : Nat) (m : Mask) (s : State) (w : Warp)

/-- The slot generation that a group takes when it is bound (11 R256). -/
def groupGen : Nat :=
  if w.inGraft (lowLane m) then (w.graft.map (·.gen)).getD 0
  else if (w.lane (lowLane m)).run.isNone then s.graft.gen else (w.lane (lowLane m)).gen

/-- The binding of a group, its run not yet fetched. -/
def groupBinding : Binding :=
  { wid := wid, mask := m, start := (w.lane (lowLane m)).run.getD (w.lane (lowLane m)).pc,
    inGraft := w.inGraft (lowLane m), gen := groupGen m s w, run := none, tag := none }

/-- A lane of a group at its run start (01 R28; 11 R256). -/
def laneBegun (x : Lane) : Lane := { x with gen := groupGen m s w, score := w.score }

/-- A warp whose group begins a run (01 R13, R34; 04 R86). -/
def runBegun : Warp :=
  { (w.setTemps m []).modLanes m (laneBegun m s w) with
    effilk := w.hdrilk || w.ilk || (s.core core).level == 5, level := (s.core core).level }

/-- A warp with a group bound. -/
def boundWarp : Warp :=
  { (if (w.lane (lowLane m)).run.isNone then runBegun core m s w else w) with yielded := false, lastYield := false }

variable {core wid m s w} {w' : Warp}

theorem bindGroup_of_warp (part seq : Nat) (hw : s.warp wid = some w) : State.bindGroup core part seq wid m s =
    State.setSeq core part seq (some (groupBinding wid m s w))
      { s with warps := tset wid (boundWarp core m s w) s.warps } := by
  rw [State.bindGroup, hw]
  rfl

theorem boundWarp_of_start (h : (w.lane (lowLane m)).run = none) :
    boundWarp core m s w = { runBegun core m s w with yielded := false, lastYield := false } := by
  rw [boundWarp, if_pos (by rw [h]; rfl)]

theorem boundWarp_of_inside (h : (w.lane (lowLane m)).run ≠ none) :
    boundWarp core m s w = { w with yielded := false, lastYield := false } := by
  rw [boundWarp, if_neg (by simpa using h)]

theorem runBegun_v (k l : Nat) (hl : l < 32) : fget 0 (32 * k + l) (runBegun core m s w).v =
    if 112 ≤ k ∧ k < 120 ∧ m.getLsbD l = true then 0 else fget 0 (32 * k + l) w.v := by
  have hv : (runBegun core m s w).v = (w.setTemps m []).v := by
    rw [runBegun, modLanes_frame]
  rw [hv, fget_setTemps m [] w hl]
  rfl

theorem runBegun_lane (hlen : w.lanes.length = 32) {l : Nat} (hl : l < 32) :
    (runBegun core m s w).lane l = if m.getLsbD l = true then laneBegun m s w (w.lane l) else w.lane l :=
  lane_modLanes (w.setTemps m []) m _ hlen hl

/-- Binding changes of the warp its lanes, temporaries, yield marks and the modes in force. -/
theorem boundWarp_rest : boundWarp core m s w =
    { w with lanes := (boundWarp core m s w).lanes, v := (boundWarp core m s w).v, yielded := false, lastYield := false,
             effilk := (boundWarp core m s w).effilk, level := (boundWarp core m s w).level } := by
  by_cases h : (w.lane (lowLane m)).run = none
  · rw [boundWarp_of_start h, runBegun, modLanes_frame]
    rfl
  · rw [boundWarp_of_inside h]

theorem boundWarp_rest_of_passOnly (hp : PassOnly w w') : boundWarp core m s w' =
    { w with lanes := (boundWarp core m s w').lanes, v := (boundWarp core m s w').v, yielded := false, lastYield := false,
             effilk := (boundWarp core m s w').effilk, level := (boundWarp core m s w').level } :=
  boundWarp_rest.trans (congrArg (fun y : Warp => { y with
    lanes := (boundWarp core m s w').lanes, v := (boundWarp core m s w').v, yielded := false, lastYield := false
    effilk := (boundWarp core m s w').effilk, level := (boundWarp core m s w').level }) hp.rest)

theorem boundWarp_lane (hlen : w.lanes.length = 32) {l : Nat} (hl : l < 32) : (boundWarp core m s w).lane l =
    if (w.lane (lowLane m)).run = none ∧ m.getLsbD l = true then laneBegun m s w (w.lane l) else w.lane l := by
  by_cases h : (w.lane (lowLane m)).run = none
  · rw [boundWarp_of_start h]
    refine (runBegun_lane (core := core) hlen hl).trans ?_
    simp only [h, true_and]
  · rw [boundWarp_of_inside h, if_neg fun hn => h hn.1]
    rfl

theorem boundWarp_lane_of_passOnly (hp : PassOnly w w') (hlen : w.lanes.length = 32) {l : Nat} (hl : l < 32) :
    { (boundWarp core m s w').lane l with pass := (w.lane l).pass } =
      if (w.lane (lowLane m)).run = none ∧ m.getLsbD l = true then
        { w.lane l with gen := groupGen m s w', score := w.score } else w.lane l := by
  have hscore : w'.score = w.score := by rw [hp.rest]
  rw [boundWarp_lane (hp.length.trans hlen) hl, hp.run]
  split
  · rw [← hscore]
    exact congrArg (fun x : Lane => { x with gen := groupGen m s w', score := w'.score }) (hp.lane l)
  · exact hp.lane l

theorem boundWarp_pass (hlen : w.lanes.length = 32) {l : Nat} (hl : l < 32) :
    ((boundWarp core m s w).lane l).pass = (w.lane l).pass := by
  rw [boundWarp_lane hlen hl]
  split
  · rfl
  · rfl

theorem groupGen_of_passOnly (hp : PassOnly w w') (hg : w.inGraft (lowLane m) = false) : groupGen m s w' =
    if (w.lane (lowLane m)).run = none then s.graft.gen else (w.lane (lowLane m)).gen := by
  rw [groupGen, hp.inGraft, hg, hp.run, hp.gen]
  simp only [Bool.false_eq_true, if_false, Option.isNone_iff_eq_none]

theorem groupBinding_of_passOnly (hp : PassOnly w w') : groupBinding wid m s w' =
    { wid := wid, mask := m, start := (w.lane (lowLane m)).run.getD (w.lane (lowLane m)).pc,
      inGraft := w.inGraft (lowLane m), gen := groupGen m s w', run := none, tag := none } := by
  rw [groupBinding, hp.run, hp.pc, hp.inGraft]

/-- A sequencer of a core holds a binding, a warp is set, and nothing else has changed. -/
structure Bound (core part seq wid : Nat) (b : Binding) (w : Warp) (s t : State) : Prop where
  seq : t.seqAt core part seq = some b
  own : t.warp wid = some w
  warps : ∀ k, k ≠ wid → t.warp k = s.warp k
  cores : ∀ k, k ≠ core → t.core k = s.core k
  core : { t.core core with seqs := (s.core core).seqs } = s.core core
  rest : { t with turn := s.turn, tick := s.tick, fresh := s.fresh, gtime := s.gtime, cores := s.cores,
                  warps := s.warps } = s

/-- PICK_WARP binds the next group of the warp that the order names (03 R80, R81). -/
theorem pickWarp_of_pick {part seq : Nat} {starved : List Nat} (hfree : s.seqAt core part seq = none) (hseq : seq < 2)
    (hpart : part < 4) (hon : s.coreHalted core = false) (hpick : s.pickFrom core part starved = some (wid, w))
    (hgroup : s.nextGroup wid w = some (m, w')) : ∃ t, exec (.pickWarp core part seq starved) s = .next t ∧
      Bound core part seq wid (groupBinding wid m s w') (boundWarp core m s w') s t := by
  have hev : evPickWarp core part seq starved s = State.setSeq core part seq (some (groupBinding wid m s w'))
      { s with warps := tset wid (boundWarp core m s w') (tset wid w' s.warps) } := by
    have hguard : ((s.seqAt core part seq).isSome || 2 ≤ seq || 4 ≤ part || s.coreHalted core) = false := by
      simp [hfree, hon, hseq, hpart]
    rw [evPickWarp, hguard]
    simp only [hpick, hgroup, Bool.false_eq_true, if_false]
    exact bindGroup_of_warp part seq (tget_tset_self ..)
  refine ⟨_, Management.next_finish_congr hev, ⟨?_, tget_tset_self .., fun k hk => ?_, fun k hk => ?_, ?_, rfl⟩⟩
  · rw [State.seqAt, State.finish_core, State.setSeq, State.modCore_core_self, getD_lput_self]
  · exact (tget_tset_of_ne hk _ _).trans (tget_tset_of_ne hk _ _)
  · rw [State.finish_core, State.setSeq, State.modCore_core_of_ne _ hk]
    rfl
  · rw [State.finish_core, State.setSeq, State.modCore_core_self]
    rfl

/-- The warp that the order names is picked, and it is a ready one (01 R33; 03 R81). -/
theorem pickFrom_of_best {part : Nat} {starved : List Nat}
    (hbest : ((∀ e ∈ s.readyWarps core part, s.inOrder core e = true) ∧
        ((wid, w) ∈ (s.unbound core part).filter (fun e => e.2.canRun) ∧
          ∀ e ∈ (s.unbound core part).filter (fun e => e.2.canRun), e.1 ≠ wid → w.age < e.2.age) ∧
        (wid, w) ∈ s.readyWarps core part) ∨
      ((∀ e ∈ s.readyWarps core part, s.inOrder core e = false) ∧ choose starved (s.readyWarps core part) = some (wid, w)))
    (huniq : ∀ e ∈ s.coreWarps core, ∀ e' ∈ s.coreWarps core, e.1 = e'.1 → e = e') :
    s.pickFrom core part starved = some (wid, w) ∧ (s.nextGroup wid w).isSome := by
  obtain ⟨hin, ⟨hmem, hfirst⟩, hready⟩ | ⟨hout, hchoice⟩ := hbest
  · exact ⟨pickFrom_of_inOrder huniq hin hmem hfirst hready, (readyWarps_mem hready).2⟩
  · exact ⟨(pickFrom_of_outOfOrder hout).trans hchoice, (readyWarps_mem (choose_mem hchoice)).2⟩

/-- What a bound group's warp, binding and lanes are, from the warp as it stood (03 R80; 04 R84). -/
theorem pickWarp_binds {part seq : Nat} {starved : List Nat} (hfree : s.seqAt core part seq = none) (hseq : seq < 2)
    (hpart : part < 4) (hon : s.coreHalted core = false) (hpick : s.pickFrom core part starved = some (wid, w))
    (hgroup : (s.nextGroup wid w).isSome) :
    ∃ m w1 t w' b, s.nextGroup wid w = some (m, w1) ∧
      exec (.pickWarp core part seq starved) s = .next t ∧ t.seqAt core part seq = some b ∧
      b = { wid := wid, mask := m, start := (w.lane (lowLane m)).run.getD (w.lane (lowLane m)).pc,
            inGraft := w.inGraft (lowLane m), gen := b.gen, run := none, tag := none } ∧
      let low := w.lane (lowLane m)
      (w.inGraft (lowLane m) = false → b.gen = if low.run = none then s.graft.gen else low.gen) ∧
      t.warp wid = some w' ∧ w'.yielded = false ∧
      w' = { w with lanes := w'.lanes, v := w'.v, yielded := false, lastYield := false,
                    effilk := w'.effilk, level := w'.level } ∧
      (low.run = none → w'.level = (s.core core).level ∧
        w'.effilk = (w.hdrilk || w.ilk || (s.core core).level == 5) ∧
        (∀ k l, l < 32 → fget 0 (32 * k + l) w'.v =
          if 112 ≤ k ∧ k < 120 ∧ m.getLsbD l = true then 0 else fget 0 (32 * k + l) w.v)) ∧
      (low.run ≠ none → w'.level = w.level ∧ w'.effilk = w.effilk ∧ w'.v = w.v) ∧
      (w.lanes.length = 32 → ∀ l, l < 32 → { w'.lane l with pass := (w.lane l).pass } =
          (if low.run = none ∧ m.getLsbD l = true then { w.lane l with gen := b.gen, score := w.score }
           else w.lane l) ∧
        (w.inGraft (lowLane m) = false → m.getLsbD l = true → (w'.lane l).pass = 0)) ∧
      (∀ k, k ≠ wid → t.warp k = s.warp k) ∧ (∀ k, k ≠ core → t.core k = s.core k) ∧
      { t.core core with seqs := (s.core core).seqs } = s.core core ∧
      { t with turn := s.turn, tick := s.tick, fresh := s.fresh, gtime := s.gtime,
               cores := s.cores, warps := s.warps } = s := by
  obtain ⟨⟨m, w1⟩, hgroup⟩ := Option.isSome_iff_exists.1 hgroup
  obtain ⟨hp, hpass⟩ := nextGroup_passOnly hgroup
  obtain ⟨t, ht, hb⟩ := pickWarp_of_pick hfree hseq hpart hon hpick hgroup
  have hv : w1.v = w.v := by rw [hp.rest]
  refine ⟨m, w1, t, _, _, hgroup, ht, hb.seq, groupBinding_of_passOnly hp, groupGen_of_passOnly hp, hb.own, rfl,
    boundWarp_rest_of_passOnly hp, fun hrun => ?_, fun hrun => ?_, fun hlen l hl =>
    ⟨boundWarp_lane_of_passOnly hp hlen hl, fun hg hm => ?_⟩, hb.warps, hb.cores, hb.core, hb.rest⟩
  · rw [boundWarp_of_start (by rw [hp.run, hrun])]
    refine ⟨rfl, ?_, fun k l hl => ?_⟩
    · show (w1.hdrilk || w1.ilk || _) = _
      rw [hp.rest]
    · rw [← hv]
      exact runBegun_v (core := core) k l hl
  · rw [boundWarp_of_inside (by rw [hp.run]; exact hrun), hp.rest]
    exact ⟨rfl, rfl, rfl⟩
  · rw [boundWarp_pass (hp.length.trans hlen) hl]
    exact hpass hg hlen l hl hm

end Binding

end Sys2Proof.Machine.Picks
end

section
/-!
PROOFS. RELEASE_WAIT_END: the first release wait that may end does, and a fence that comes back completes (02 R51;
08 R190, R191).
-/

namespace Sys2Proof.Machine.ReleaseWaits

section Return
variable {wid k : Nat} {s u : State} {i : Instr} {c : Ctx}

/-- An instruction that no agent takes has an effect of its own. -/
theorem bodyOf_of_not_event (h : isEvent i = false) : ∃ body, bodyOf i = some body := by
  cases i
  all_goals first | exact ⟨_, rfl⟩ | cases h

/-- A waiting group back on a sequencer, whose issue is to come (02 R51). -/
def comeBack (wid k core part q : Nat) (b : Binding) (s : State) : State :=
  { State.setSeq core part q (some b) (s.modWarp wid (fun w => { w with waits := w.waits.eraseIdx k })) with
    turn := .issue core part q }

/-- Where `retry` puts wait `k` of warp `wid` back, and that it stands in the context `c`. -/
structure ComesBack (wid k : Nat) (s : State) (w : Warp) (b : Binding) (q : Nat) (c : Ctx) : Prop where
  warp : s.warp wid = some w
  wait : w.waits[k]? = some b
  free : [0, 1].find? (fun q => (s.seqAt (s.coreOf wid) w.part q).isNone) = some q
  may : (s.isBound wid || s.coreHalted (s.coreOf wid)) = false
  ctx : (comeBack wid k (s.coreOf wid) w.part q b s).ctx? = some c

theorem retry_of_comesBack {w : Warp} {b : Binding} {q : Nat} (h : ComesBack wid k s w b q c) :
    s.retry wid k = (comeBack wid k (s.coreOf wid) w.part q b s).prepCtx c := by
  have hctx := h.ctx
  unfold comeBack at hctx
  simp only [State.retry, h.warp, h.wait, h.free, h.may, Bool.false_eq_true, if_false, hctx]
  rfl

theorem prepCtx_exec {v : State} (h : v.prepCtx c = .exec i u) : u = v := by
  unfold State.prepCtx at h
  split at h
  · cases h
  split at h
  · cases h
  · cases h
  · cases h
    rfl

/-- What stands where a waiting group's instruction is to be executed. -/
theorem comesBack_of_retry (h : s.retry wid k = .exec i u) : ∃ w b q c, ComesBack wid k s w b q c := by
  unfold State.retry at h
  split at h
  · cases h
  split at h
  · cases h
  dsimp only at h
  split at h
  · cases h
  split at h
  · cases h
  split at h
  · cases h
  rename_i w hw _ b hb _ q hq hmay _ c hc
  exact ⟨w, b, q, c, hw, hb, hq, Bool.eq_false_of_not_eq_true hmay, hc⟩

theorem ctx_of_retry (h : s.retry wid k = .exec i u) : ∃ c, u.ctx? = some c := by
  obtain ⟨w, b, q, c, hback⟩ := comesBack_of_retry h
  rw [retry_of_comesBack hback] at h
  exact ⟨c, prepCtx_exec h ▸ hback.ctx⟩

/-- The turn does not enter into how a group comes back. -/
theorem comeBack_turn (t : Turn) (core part q : Nat) (b : Binding) :
    comeBack wid k core part q b { s with turn := t } = comeBack wid k core part q b s := by
  unfold comeBack State.modWarp
  dsimp only
  cases tget wid s.warps <;> rfl

theorem retry_turn (t : Turn) (h : s.retry wid k = .exec i u) : State.retry wid k { s with turn := t } = .exec i u := by
  obtain ⟨w, b, q, c, hback⟩ := comesBack_of_retry h
  have hback' : ComesBack wid k { s with turn := t } w b q c :=
    ⟨hback.warp, hback.wait, hback.free, hback.may, (congrArg State.ctx? (comeBack_turn t _ _ _ _)).trans hback.ctx⟩
  refine (retry_of_comesBack hback').trans (Eq.trans ?_ ((retry_of_comesBack hback).symm.trans h))
  exact congrArg (State.prepCtx c) (comeBack_turn t _ _ _ _)

end Return

section Ends
variable {wid k : Nat} {s u : State} {w : Warp} {b : Binding} {i : Instr}

/-- A release wait of warp `wid` that may end. -/
def mayEnd (wid : Nat) (s : State) (b : Binding) : Bool :=
  (b.tag.map (·.why)) == some .release && s.released (s.coreOf wid) wid b.mask .block

theorem evReleaseWaitEnd_of_first (hw : s.warp wid = some w) (hb : w.waits[k]? = some b)
    (hfirst : ∀ j b', j < k → w.waits[j]? = some b' → (b'.tag.map (·.why)) ≠ some .release)
    (hwhy : (b.tag.map (·.why)) = some .release)
    (hrel : s.released (s.coreOf wid) wid b.mask .block = true) :
    evReleaseWaitEnd wid s = State.runPrepared (s.retry wid k) := by
  have hk : w.waits.findIdx? (mayEnd wid s) = some k := by
    obtain ⟨hlt, hget⟩ := List.getElem?_eq_some_iff.1 hb
    refine List.findIdx?_eq_some_iff_getElem.2 ⟨hlt, ?_, fun j hj => ?_⟩
    · rw [hget, mayEnd, hwhy, hrel]
      rfl
    · have hne := hfirst j _ hj (List.getElem?_eq_getElem (hj.trans hlt))
      rw [mayEnd, beq_eq_false_iff_ne.2 hne]
      simp
  unfold mayEnd at hk
  simp only [evReleaseWaitEnd, hw, hk]

theorem evReleaseWaitEnd_of_none (h : ∀ w b, s.warp wid = some w → b ∈ w.waits →
    (b.tag.map (·.why)) = some .release → s.released (s.coreOf wid) wid b.mask .block = false) :
    evReleaseWaitEnd wid s = s := by
  unfold evReleaseWaitEnd
  cases hw : s.warp wid with
  | none => rfl
  | some w =>
    have hk : w.waits.findIdx? (mayEnd wid s) = none := by
      refine List.findIdx?_eq_none_iff.2 fun b hb => ?_
      by_cases hwhy : (b.tag.map (·.why)) = some .release
      · rw [mayEnd, h w b hw hb hwhy, Bool.and_false]
      · rw [mayEnd, beq_eq_false_iff_ne.2 hwhy, Bool.false_and]
    unfold mayEnd at hk
    simp only [hk]

/-- The instruction that a group comes back to runs as it does in its own issue. -/
theorem runPrepared_of_exec (hev : isEvent i = false) (hctx : ∃ c, u.ctx? = some c) :
    (Host.Outcome.next (State.runPrepared (.exec i u)).finish : Host.Outcome State Fault Refusal) = exec i u := by
  obtain ⟨body, hbody⟩ := bodyOf_of_not_event hev
  obtain ⟨c, hc⟩ := hctx
  rw [Packets.exec_of_bodyOf hbody]
  simp only [State.runPrepared, issue, hbody, hc]

/-- The first release wait that may end does what its instruction does when it comes back (08 R190). -/
theorem releaseWaitEnd_of_first (hw : s.warp wid = some w) (hb : w.waits[k]? = some b)
    (hfirst : ∀ j b', j < k → w.waits[j]? = some b' → (b'.tag.map (·.why)) ≠ some .release)
    (hwhy : (b.tag.map (·.why)) = some .release)
    (hrel : s.released (s.coreOf wid) wid b.mask .block = true)
    (hret : s.retry wid k = .exec i u) (hev : isEvent i = false) :
    exec (.releaseWaitEnd wid) s = exec i u := by
  rw [← runPrepared_of_exec hev (ctx_of_retry hret), ← hret, ← evReleaseWaitEnd_of_first hw hb hfirst hwhy hrel]
  rfl

theorem step_resume (hret : s.retry wid k = .exec i u) : step { s with turn := .resume wid k } = exec i u := by
  rw [step]
  dsimp only
  rw [retry_turn _ hret, runPrep]

end Ends

section Fence
variable {s t u : State} {c : Ctx} {w : Warp} {i : Instr}

theorem modCore_modCore (core : Nat) (f g : Core → Core) (s : State) :
    (s.modCore core f).modCore core g = s.modCore core (fun k => g (f k)) := by
  unfold State.modCore
  rw [WorkLaunches.tset_tset]
  simp only [State.core, tgetD, tget_tset_self, Option.getD_some]

theorem acquire_eq_acquired (core wid : Nat) (sc : Scope) (s : State) : s.acquire core wid sc = acquired core wid sc s := by
  have hback (p : Bool) (e : Nat × Outstanding) : (if p = true then (e.1, e.2.uncheck) else e) =
      if (p && e.2.ran) = true then (e.1, { e.2 with checked := false, ran := false }) else e := by
    unfold Outstanding.uncheck
    cases p <;> cases e.2.ran <;> rfl
  unfold State.acquire acquired
  by_cases h : scopeWide sc = true
  · rw [if_pos h, State.dropLeases, State.recheck, modCore_modCore]
    have hwide (e : Nat × Outstanding) := hback true e
    simp only [if_true] at hwide
    simp only [h, hwide, if_true, Option.all_none, Bool.true_or]
  · rw [if_neg h, State.recheck]
    have hwid (e : Nat × Outstanding) : (wid == e.2.wid) = (e.2.wid == wid) := BEq.comm
    simp only [h, hback, hwid, Option.all_some, Bool.false_or, Bool.false_eq_true, if_false]

/-- An acquire and a change of a sequencer come to the same in either order. -/
theorem acquired_setSeq (core wid part q : Nat) (sc : Scope) (b : Option Binding) (s : State) :
    acquired core wid sc (s.setSeq core part q b) = (acquired core wid sc s).setSeq core part q b := by
  unfold acquired State.setSeq
  rw [modCore_modCore, modCore_modCore]

/-- A group whose effect has come to `s1` without a fault goes on, and nothing else changes since `s0`. -/
theorem applyRes_ok {s0 s1 : State} {w1 : Warp} (hg : Going s0 c.wid) (hk : RestKept c.wid c.core s0 s1)
    (hw : s1.warp c.wid = some w1) : ∃ ps bd lr ly, RestKept c.wid c.core s0 (applyRes i c [] (Res.ok s1)).finish ∧
      (applyRes i c [] (Res.ok s1)).finish.warp c.wid =
        some { ({ w1 with producers := ps, bad := bd } : Warp).modLanes c.mask (Lane.follow c) with
          lastRun := lr, lastYield := ly } := by
  have happly : applyRes i c [] (Res.ok s1) =
      ((s1.noteDone i c c.mask).advance c c.mask).settle c.core c.part c.seq c.wid := by
    simp only [applyRes, Res.ok, List.append_nil, List.map_nil, and_not_nil, if_true]
  obtain ⟨ps, bd, hdone⟩ := noteDone_warp (i := i) (m := c.mask) hw
  have hadv := advance_warp (m := c.mask) hdone
  have hrest := (hk.trans (noteDone_rest i c c.mask s1)).trans (advance_rest c c.mask _)
  obtain ⟨hset, lr, ly, hlast⟩ := settle_spec (core := c.core) (part := c.part) (seq := c.seq) (Going.of_kept hrest hg) hadv
  rw [happly]
  exact ⟨ps, bd, lr, ly, (hrest.trans hset).trans (finish_rest _ _ _), hlast⟩

theorem released_setSeq (core part q wid : Nat) (b : Option Binding) (m : Mask) (sc : Scope) (s : State) :
    (s.setSeq core part q b).released core wid m sc = s.released core wid m sc := by
  unfold State.released
  rw [State.setSeq, State.modCore_core_self]
  rfl

theorem lostFaults_of_none {wid : Nat} {m : Mask} (h : ∀ x ∈ s.lost, ¬ (x.wid = wid ∧ m.getLsbD x.lane = true)) :
    s.lostFaults wid m = [] := by
  unfold State.lostFaults
  rw [List.filterMap_eq_nil_iff]
  intro l hl
  have hnone : s.lost.filter (fun x => x.wid == wid && x.lane == l) = [] := by
    rw [List.filter_eq_nil_iff]
    intro x hx hmatch
    rw [Bool.and_eq_true, beq_iff_eq, beq_iff_eq] at hmatch
    exact h x hx ⟨hmatch.1, hmatch.2 ▸ (mem_lanesOf.1 hl).2⟩
  rw [hnone]
  rfl

/-- A fence whose release is done, with no store of its lanes lost, acquires where it does so (08 R191). -/
theorem bodyFence_of_released {ord : Ord4} {sc : Scope} (hrel : ordRel ord = true → s.released c.core c.wid c.mask sc = true)
    (hlost : ∀ x ∈ s.lost, ¬ (x.wid = c.wid ∧ c.mask.getLsbD x.lane = true)) :
    bodyFence ord sc c s = Res.ok (if ordAcq ord then acquired c.core c.wid sc s else s) := by
  rw [← acquire_eq_acquired]
  unfold bodyFence
  by_cases h : ordRel ord = true
  · simp only [h, if_true, withRelease, hrel h, lostFaults_of_none hlost, Bool.not_true, Bool.false_eq_true, if_false]
  · simp only [h, Bool.false_eq_true, if_false]

/-- The state that a fence leaves to its group's going on: with its acquire, where it has one. -/
def fenced (ord : Ord4) (sc : Scope) (c : Ctx) (s : State) : State :=
  if ordAcq ord then acquired c.core c.wid sc s else s

theorem fenced_setSeq (ord : Ord4) (sc : Scope) (part q : Nat) (b : Option Binding) (s : State) :
    fenced ord sc c (s.setSeq c.core part q b) = (fenced ord sc c s).setSeq c.core part q b := by
  unfold fenced
  split
  · exact acquired_setSeq ..
  · rfl

theorem fenced_warp (ord : Ord4) (sc : Scope) (k : Nat) : (fenced ord sc c s).warp k = s.warp k := by
  unfold fenced
  split <;> rfl

theorem fenced_going {ord : Ord4} {sc : Scope} {wid : Nat} (h : Going s wid) : Going (fenced ord sc c s) wid := by
  unfold fenced
  split <;> exact h

/-- A fence that comes back from its release wait completes (08 R190, R191). -/
theorem fence_of_resumes {ord : Ord4} {sc : Scope} {tag : WaitTag} (h : Resumes u c w tag)
    (hrel : ordRel ord = true → u.released c.core c.wid c.mask sc = true)
    (hlost : ∀ x ∈ u.lost, ¬ (x.wid = c.wid ∧ c.mask.getLsbD x.lane = true)) :
    ∃ t, exec (.fence ord sc) u = .next t ∧
      LaneDone c (fenced ord sc c u) t w (fun _ _ => none) (fun _ => Lane.follow c) := by
  have htag : c.tag.isSome = true := by rw [h.tag]; rfl
  obtain ⟨b, hclear⟩ : ∃ b, u.clearTag c = u.setSeq c.core c.part c.seq b :=
    ⟨_, if_neg (by rw [h.tag]; exact Bool.false_ne_true)⟩
  have hbody : bodyFence ord sc c (u.setSeq c.core c.part c.seq b) =
      Res.ok ((fenced ord sc c u).setSeq c.core c.part c.seq b) := by
    rw [bodyFence_of_released (fun ho => (released_setSeq ..).trans (hrel ho)) hlost]
    exact congrArg Res.ok (fenced_setSeq ord sc _ _ b u)
  have hexec : exec (.fence ord sc) u =
      .next (applyRes (.fence ord sc) c [] (Res.ok ((fenced ord sc c u).setSeq c.core c.part c.seq b))).finish := by
    show issue (.fence ord sc) (bodyFence ord sc) u = _
    simp only [issue, h.ctx, State.runInstr, h.warp, instrRes, htag, if_true, hclear, hbody, Bool.false_eq_true, if_false]
  obtain ⟨ps, bd, lr, ly, hrest, hwarp⟩ := applyRes_ok (i := .fence ord sc) (fenced_going h.going)
    (RestKept.setSeq c.wid c.core c.part c.seq b (fenced ord sc c u)) ((fenced_warp ord sc c.wid).trans h.warp)
  exact ⟨_, hexec, laneDone_of (LaneAct.id.modLane fun _ => Lane.follow c) hrest (ctx_lanes h.ctx h.warp) hwarp⟩

end Fence

end Sys2Proof.Machine.ReleaseWaits
end

section
/-!
PROOFS. WarpPicksAndWindows (01 R33, R34; 03 R80, R81; 04 R84; 08 R190; 13 R296, R297).
-/

namespace Sys2Proof.Machine.Picks

/-- The choice among warps that differ in number, by which of them comes first (03 R81). -/
theorem choose_of_first {s : State} {core wid : Nat} {starved : List Nat} {ready : List (Nat × Warp)} {w : Warp}
    (huniq : ∀ e ∈ s.coreWarps core, ∀ e' ∈ s.coreWarps core, e.1 = e'.1 → e = e')
    (hready : ∀ e ∈ ready, e ∈ s.coreWarps core) {first : List (Nat × Warp) → Prop}
    (hfirst : ∀ l, first l → (wid, w) ∈ l ∧ ∀ e ∈ l, e.1 ≠ wid → w.age < e.2.age)
    (h : if ready.filter (fun e => starved.contains e.1) ≠ [] then first (ready.filter (fun e => starved.contains e.1))
      else if ready.filter (fun e => !e.2.yielded) ≠ [] then first (ready.filter (fun e => !e.2.yielded))
      else first ready) : choose starved ready = some (wid, w) := by
  have holdest {l : List (Nat × Warp)} (hl : ∀ e ∈ l, e ∈ ready) (h : first l) : oldest l = some (wid, w) :=
    oldest_of_first huniq (fun e he => hready e (hl e he)) (hfirst l h).1 (hfirst l h).2
  unfold choose
  split at h
  case isTrue hlate =>
    rw [if_pos hlate]
    exact holdest (fun e he => (List.mem_filter.1 he).1) h
  case isFalse hlate =>
    rw [if_neg hlate]
    split at h
    case isTrue hfresh =>
      rw [if_pos hfresh]
      exact holdest (fun e he => (List.mem_filter.1 he).1) h
    case isFalse hfresh =>
      rw [if_neg hfresh]
      exact holdest (fun _ he => he) h

/-- Settles O38: the order of 03 R81 makes the named warp the one picked and only pass counts and the modes in force
move with its binding; a release wait that may end goes on as its instruction's own return does; a window's counts decide
level and trim. -/
theorem warpPicksAndWindows : Obligations.WarpPicksAndWindows := by
  unfold Obligations.WarpPicksAndWindows
  refine ⟨⟨?_, ?_, ?_, fun wid s h => ?_⟩, fun core s _ => Windows.mismatchWindow_moves core s⟩
  · intro core part seq starved s wid w hfree hseq hpart hon ready late fresh first best hbest huniq
    have hmem : ∀ e ∈ ready, e ∈ s.coreWarps core := fun e he => unbound_mem (readyWarps_mem he).1
    obtain ⟨hpick, hgroup⟩ := pickFrom_of_best (starved := starved)
      (hbest.imp_right fun ⟨hout, horder⟩ => ⟨hout, choose_of_first huniq hmem (fun _ h => h) horder⟩) huniq
    exact pickWarp_binds hfree hseq hpart hon hpick hgroup
  · intro wid s w k b i u hw hb hfirst hwhy hrel hret hev
    rw [ReleaseWaits.releaseWaitEnd_of_first hw hb hfirst hwhy hrel hret hev, ReleaseWaits.step_resume hret]
  · intro wid s w k b u c ord sc w1 hw hb hfirst hwhy hrel hret hres hdone hlost
    rw [ReleaseWaits.releaseWaitEnd_of_first hw hb hfirst hwhy hrel hret rfl]
    exact ReleaseWaits.fence_of_resumes hres hdone hlost
  · exact Management.next_finish_congr (ReleaseWaits.evReleaseWaitEnd_of_none h)

end Sys2Proof.Machine.Picks
end

section
/-!
PROOFS. RejoinMasks (04 R88, R89, R91, R99; 17 R372, R373).
-/

namespace Sys2Proof.Machine.RejoinRegisters

open TrapPaths

section Halves
variable {w : Warp}

/-- The lanes that Release(n) looks at together: all of the warp, or each half of a G16 warp (04 R99). -/
def halves (w : Warp) : List Mask := if w.g16 then [0xFFFF, 0xFFFF0000] else [0xFFFFFFFF]

/-- The lanes of one half that Release(n) lets go on: those that wait, where nothing is outstanding (04 R89). -/
def freedIn (out wait hm : Mask) : Mask := if out &&& hm = 0 then wait &&& hm else 0

/-- The lanes that Release(n) lets go on, half by half. -/
def freed (w : Warp) (out wait : Mask) : Mask :=
  (halves w).foldl (fun m h => if out &&& h = 0 then m ||| (wait &&& h) else m) 0

theorem freed_of_whole (h : w.g16 = false) (out wait : Mask) : freed w out wait = freedIn out wait 0xFFFFFFFF := by
  simp only [freed, halves, h, freedIn, Bool.false_eq_true, if_false, List.foldl_cons, List.foldl_nil]
  split
  · exact BitVec.zero_or
  · rfl

theorem freed_of_halves (h : w.g16 = true) (out wait : Mask) :
    freed w out wait = freedIn out wait 0xFFFF ||| freedIn out wait 0xFFFF0000 := by
  have hadd (m hm : Mask) : (if out &&& hm = 0 then m ||| (wait &&& hm) else m) = m ||| freedIn out wait hm := by
    unfold freedIn
    split
    · rfl
    · exact BitVec.or_zero.symm
  simp only [freed, halves, h, if_true, List.foldl_cons, List.foldl_nil, hadd]
  exact congrArg (· ||| _) BitVec.zero_or

/-- What one half lets go does not change what the other lets go. -/
theorem freedIn_after (out wait : Mask) :
    freedIn out (wait &&& ~~~freedIn out wait 0xFFFF) 0xFFFF0000 = freedIn out wait 0xFFFF0000 := by
  have hapart : freedIn out wait 0xFFFF &&& 0xFFFF0000 = 0 := by
    unfold freedIn
    split
    · rw [BitVec.and_assoc]
      exact BitVec.and_zero
    · exact BitVec.zero_and
  have hkeeps : wait &&& ~~~freedIn out wait 0xFFFF &&& 0xFFFF0000 = wait &&& 0xFFFF0000 := by
    generalize freedIn out wait 0xFFFF = r at hapart ⊢
    refine BitVec.eq_of_getLsbD_eq fun l hl => ?_
    have hbit := congrArg (fun m : Mask => m.getLsbD l) hapart
    simp only [BitVec.getLsbD_and, BitVec.getLsbD_not, hl, decide_true, Bool.true_and] at hbit ⊢
    generalize (0xFFFF0000 : Mask).getLsbD l = high at hbit ⊢
    cases high
    · simp
    · simp_all
  unfold freedIn at hkeeps ⊢
  rw [hkeeps]

theorem lowLane_lt (m : Mask) : lowLane m < 32 := by
  unfold lowLane
  cases h : lanesOf m with
  | nil => decide
  | cons l ls => exact (mem_lanesOf.1 (h ▸ List.mem_cons_self ..)).1

/-- The half of a group is that of its lowest lane (04 R99). -/
theorem halfMask_half (w : Warp) (l : Nat) : w.halfMask (w.half l) =
    if w.g16 then (if l < 16 then 0xFFFF else 0xFFFF0000) else 0xFFFFFFFF := by
  unfold Warp.halfMask Warp.half
  cases w.g16 with
  | false => rfl
  | true =>
    have hlow : l / 16 = 0 ↔ l < 16 := by omega
    simp only [if_true, hlow]

theorem and_low_half (x : Word) : x &&& 0xFFFF = (x.setWidth 16).setWidth 32 := by
  refine BitVec.eq_of_toNat_eq ?_
  have hlt := Nat.mod_lt x.toNat (show 0 < 2 ^ 16 by decide)
  rw [BitVec.toNat_and, BitVec.toNat_setWidth, BitVec.toNat_setWidth, Nat.mod_eq_of_lt (b := 2 ^ 32) (by omega)]
  exact Nat.and_two_pow_sub_one_eq_mod x.toNat 16

/-- A mask operand names the lanes of its group's half (04 R99). -/
theorem halfBits_eq (w : Warp) (c : Ctx) (x : Word) : Ctx.halfBits w c x =
    if w.g16 then (x.setWidth 16).setWidth 32 <<< (if lowLane c.mask < 16 then 0 else 16) else x := by
  unfold Ctx.halfBits Warp.half
  cases w.g16 with
  | false => rfl
  | true =>
    have hlt := lowLane_lt c.mask
    have hplace : 16 * (lowLane c.mask / 16) = if lowLane c.mask < 16 then 0 else 16 := by
      split <;> omega
    simp only [if_true, and_low_half, hplace]

theorem getLsbD_live (w : Warp) {l : Nat} (hl : l < 32) : w.live.getLsbD l = ((w.lane l).st == .live) := by
  rw [Warp.live, getLsbD_maskOf _ hl, Bool.eq_iff_iff, List.contains_iff_mem, List.mem_filter, List.mem_range]
  exact and_iff_right hl

end Halves

section Registers

/-- A lane that Release(n) lets go on stands at the run start after its JWAIT (04 R89). -/
def goOn (b : Bool) (y : Lane) : Lane := if b then { y with pc := y.nxt, run := none } else y

theorem goOn_goOn (a b : Bool) (y : Lane) : goOn b (goOn a y) = goOn (a || b) y := by
  cases a <;> cases b <;> rfl

theorem goOn_st (b : Bool) (y : Lane) : (goOn b y).st = y.st := by
  cases b <;> rfl

/-- A lane that stands at its JWAIT (17 R373). -/
def standing (c : Ctx) (y : Lane) : Lane := { y with words := recWords c.words, retry := 0, bkpt := none }

/-- Jwait(n, A) of lanes `m`: they leave Out and wait, and Release(n) follows (04 R89). -/
def jwaited (n : Nat) (m : Mask) (x : Warp) : Warp :=
  Warp.release n { x with jOut := lput 0 n (x.jOut.getD n 0 &&& ~~~m) x.jOut,
                          jWait := lput 0 n (x.jWait.getD n 0 ||| m) x.jWait }

/-- Rejoin register `n` of a warp has come to `out` and `wait`, its groups wait as in `waits`, each lane `l` is
`lanes l` of what it was, and nothing else has changed but the scoreboard and the schedule. -/
structure Rejoins (w w' : Warp) (n : Nat) (out wait : Mask) (waits : List Binding) (lanes : Nat → Lane → Lane) :
    Prop where
  out : ∀ k, w'.jOut.getD k 0 = if k = n then out else w.jOut.getD k 0
  wait : ∀ k, w'.jWait.getD k 0 = if k = n then wait else w.jWait.getD k 0
  waits : w'.waits = waits
  lane : ∀ l, l < 32 → w'.lane l = lanes l (w.lane l)
  length : w'.lanes.length = 32
  rest : { w' with jOut := w.jOut, jWait := w.jWait, lanes := w.lanes, producers := w.producers,
                   lastRun := w.lastRun, lastYield := w.lastYield, waits := w.waits } = w

variable {w x : Warp} {n : Nat} {out wait : Mask} {ws : List Binding} {ln : Nat → Lane → Lane}

theorem Rejoins.refl (hlen : w.lanes.length = 32) (n : Nat) :
    Rejoins w w n (w.jOut.getD n 0) (w.jWait.getD n 0) w.waits (fun _ y => y) where
  out k := by split <;> simp_all
  wait k := by split <;> simp_all
  waits := rfl
  lane _ _ := rfl
  length := hlen
  rest := rfl

theorem getD_lput (d v : Mask) (n k : Nat) (xs : List Mask) :
    (lput d n v xs).getD k d = if k = n then v else xs.getD k d := by
  split
  · next h => rw [h, getD_lput_self]
  · next h => exact getD_lput_of_ne d v h xs

variable (h : Rejoins w x n out wait ws ln)
include h

theorem Rejoins.out_eq : x.jOut.getD n 0 = out := (h.out n).trans (if_pos rfl)

theorem Rejoins.wait_eq : x.jWait.getD n 0 = wait := (h.wait n).trans (if_pos rfl)

theorem Rejoins.g16_eq : x.g16 = w.g16 := by
  have hrest := congrArg Warp.g16 h.rest
  exact hrest

theorem Rejoins.bad_eq : x.bad = w.bad := by
  have hrest := congrArg Warp.bad h.rest
  exact hrest

theorem Rejoins.putOut (out' : Mask) :
    Rejoins w { x with jOut := lput 0 n out' x.jOut } n out' wait ws ln :=
  { h with
    out := fun k => by
      rw [getD_lput, h.out]
      split <;> rfl }

theorem Rejoins.putWait (wait' : Mask) :
    Rejoins w { x with jWait := lput 0 n wait' x.jWait } n out wait' ws ln :=
  { h with
    wait := fun k => by
      rw [getD_lput, h.wait]
      split <;> rfl }

theorem Rejoins.putWaits (ws' : List Binding) : Rejoins w { x with waits := ws' } n out wait ws' ln :=
  { h with waits := rfl }

theorem Rejoins.scheduled (ps : List Producer) (lr : Mask) (ly : Bool) :
    Rejoins w { x with producers := ps, lastRun := lr, lastYield := ly } n out wait ws ln :=
  { h with }

theorem Rejoins.modLanes (m : Mask) (f : Lane → Lane) :
    Rejoins w (x.modLanes m f) n out wait ws (fun l y => if m.getLsbD l then f (ln l y) else ln l y) := by
  have hlane : ∀ l, l < 32 → (x.modLanes m f).lane l =
      if m.getLsbD l then f (ln l (w.lane l)) else ln l (w.lane l) := fun l hl => by
    rw [lane_modLanes x m f h.length hl, h.lane l hl]
  have hlen := (length_modLanes x m f).trans h.length
  rw [modLanes_frame] at hlane hlen ⊢
  exact { h with lane := hlane, length := hlen }

/-- Release(n) of one half (04 R89). -/
theorem Rejoins.releaseIn (hm : Mask) : Rejoins w (x.releaseIn n hm) n out (wait &&& ~~~freedIn out wait hm) ws
    (fun l y => goOn ((freedIn out wait hm).getLsbD l) (ln l y)) := by
  simp only [Warp.releaseIn, h.out_eq, h.wait_eq]
  split
  · next hfree =>
    rw [freedIn, if_pos hfree.1]
    have hput := (h.modLanes (wait &&& hm) (goOn true)).putWait (wait &&& ~~~(wait &&& hm))
    rw [congrArg Warp.jWait (modLanes_frame x (wait &&& hm) (goOn true))] at hput
    exact hput
  · next hkept =>
    have hnone : freedIn out wait hm = 0 := by
      unfold freedIn
      split
      · next hout => exact not_not.1 fun hne => hkept ⟨hout, hne⟩
      · rfl
    rw [hnone, and_not_zero_mask]
    simpa only [BitVec.ofNat_eq_ofNat, BitVec.getLsbD_zero, goOn, Bool.false_eq_true, if_false] using h

/-- Release(n): in each half in which nothing is outstanding the lanes that wait go on (04 R89, R99). -/
theorem Rejoins.release : Rejoins w (x.release n) n out (wait &&& ~~~freed w out wait) ws
    (fun l y => goOn ((freed w out wait).getLsbD l) (ln l y)) := by
  rw [Warp.release, h.g16_eq]
  cases hg : w.g16 with
  | false =>
    rw [freed_of_whole hg]
    exact h.releaseIn _
  | true =>
    have hboth := (h.releaseIn 0xFFFF).releaseIn 0xFFFF0000
    simp only [freedIn_after, goOn_goOn, ← BitVec.getLsbD_or, BitVec.and_assoc, ← BitVec.not_or] at hboth
    rw [freed_of_halves hg]
    exact hboth

theorem Rejoins.jwaited (m : Mask) :
    Rejoins w (jwaited n m x) n (out &&& ~~~m) ((wait ||| m) &&& ~~~freed w (out &&& ~~~m) (wait ||| m)) ws
      (fun l y => goOn ((freed w (out &&& ~~~m) (wait ||| m)).getLsbD l) (ln l y)) := by
  rw [RejoinRegisters.jwaited, h.out_eq, h.wait_eq]
  exact ((h.putOut _).putWait _).release

/-- A live lane that waits at no register keeps its warp from rejoin deadlock (04 R91). -/
theorem Rejoins.rejoinCheck {s : State} {wid l : Nat} (hx : s.warp wid = some x) (hl : l < 32)
    (hlive : (ln l (w.lane l)).st = .live) (hfree : ∀ k, (w.jWait.getD k 0).getLsbD l = false)
    (hwait : wait.getLsbD l = false) : s.rejoinCheck wid = s := by
  have hnone : ∀ m ∈ x.jWait, m.getLsbD l = false := fun m hm => by
    obtain ⟨k, hk, rfl⟩ := List.mem_iff_getElem.1 hm
    rw [← List.getD_eq_getElem _ 0 hk, h.wait k]
    split
    · exact hwait
    · exact hfree k
  have hwaiting : (x.jWait.foldl (fun a b => a ||| b) 0).getLsbD l = false :=
    List.foldlRecOn x.jWait _ (motive := fun m : Mask => m.getLsbD l = false) BitVec.getLsbD_zero
      fun a ha b hb => by rw [BitVec.getLsbD_or, ha, hnone b hb, Bool.or_false]
  have hout : (x.live &&& ~~~x.jWait.foldl (fun a b => a ||| b) 0).getLsbD l = true := by
    rw [BitVec.getLsbD_and, BitVec.getLsbD_not, hwaiting, getLsbD_live x hl, h.lane l hl, hlive, decide_eq_true hl]
    rfl
  have hall : ¬ (x.live ≠ 0 ∧ x.live &&& ~~~x.jWait.foldl (fun a b => a ||| b) 0 = 0 ∧ x.parked = [] ∧
      x.handler = none) := by
    rintro ⟨-, hzero, -⟩
    rw [hzero] at hout
    exact absurd hout (by simp)
  simp only [State.rejoinCheck, hx, if_neg hall]

end Registers

section Issuing
variable {i : Instr} {s s1 u : State} {c : Ctx} {w x : Warp} {n : Nat} {out wait : Mask} {ws : List Binding}
  {ln : Nat → Lane → Lane} {body : Ctx → State → Res}

/-- Where nothing is poisoned, the commit of an instruction moves the scoreboard of its warp alone (01 R30, R37). -/
theorem noteDone_warp_of_clean {m : Mask} (hw : s.warp c.wid = some w) (hclean : w.bad = []) :
    ∃ ps, (s.noteDone i c m).warp c.wid = some { w with producers := ps } := by
  unfold State.noteDone
  split
  · exact ⟨w.producers, hw⟩
  · dsimp only
    rw [noteStart_warp]
    exact ⟨_, (modWarp_warp hw _).trans (congrArg some (if_pos hclean))⟩

/-- An instruction that comes to its settling has changed its warp as before it, and the schedule. -/
theorem issue_settles (h : Issues i s c w)
    (happly : applyRes i c [] (body c s) = u.settle c.core c.part c.seq c.wid) (hk : RestKept c.wid c.core s u)
    (hx : u.warp c.wid = some x) (hr : Rejoins w x n out wait ws ln) :
    ∃ t w', issue i body s = .next t ∧ RestKept c.wid c.core s t ∧ t.warp c.wid = some w' ∧
      Rejoins w w' n out wait ws ln := by
  obtain ⟨hset, lr, ly, hlast⟩ := settle_spec (core := c.core) (part := c.part) (seq := c.seq)
    (Going.of_kept hk h.going) hx
  refine ⟨_, _, (issue_eq h body).trans (Management.next_finish_congr happly),
    (hk.trans hset).trans (finish_rest ..), hlast, hr.scheduled x.producers lr ly⟩

/-- An instruction whose effect is on a rejoin register, and whose lanes then fall through. -/
theorem issue_seq_rejoins (h : Issues i s c w) (hb : body c s = Res.ok s1) (hk : RestKept c.wid c.core s s1)
    (hx : s1.warp c.wid = some x) (hr : Rejoins w x n out wait ws ln) :
    ∃ t w', issue i body s = .next t ∧ RestKept c.wid c.core s t ∧ t.warp c.wid = some w' ∧
      Rejoins w w' n out wait ws (fun l y => if c.mask.getLsbD l then Lane.follow c (ln l y) else ln l y) := by
  obtain ⟨ps, hdone⟩ := noteDone_warp_of_clean (i := i) (m := c.mask) hx (hr.bad_eq.trans h.clean)
  refine issue_settles h (u := (s1.noteDone i c c.mask).advance c c.mask) ?_
    ((hk.trans (noteDone_rest ..)).trans (advance_rest ..)) (advance_warp hdone)
    ((hr.scheduled ps x.lastRun x.lastYield).modLanes ..)
  rw [hb]
  simp only [applyRes, Res.ok, List.append_nil, List.map_nil, and_not_nil, if_true]

/-- An instruction whose effect is on a rejoin register, and which has placed its lanes itself. -/
theorem issue_placed_rejoins (h : Issues i s c w) (hb : body c s = { s := s1, faults := [], flow := .placed })
    (hk : RestKept c.wid c.core s s1) (hx : s1.warp c.wid = some x) (hr : Rejoins w x n out wait ws ln) :
    ∃ t w', issue i body s = .next t ∧ RestKept c.wid c.core s t ∧ t.warp c.wid = some w' ∧
      Rejoins w w' n out wait ws ln := by
  obtain ⟨ps, hdone⟩ := noteDone_warp_of_clean (i := i) (m := c.mask) hx (hr.bad_eq.trans h.clean)
  refine issue_settles h (u := s1.noteDone i c c.mask) ?_ (hk.trans (noteDone_rest ..)) hdone
    (hr.scheduled ps x.lastRun x.lastYield)
  rw [hb]
  simp only [applyRes, List.append_nil, List.map_nil, and_not_nil, if_true]

/-- Lanes that leave their sequencer leave the groups that wait as well, and nothing else changes (02 R51). -/
theorem unbind_spec {wid core : Nat} (m : Mask) (hcore : s.coreOf wid = core) (hw : s.warp wid = some w) :
    RestKept wid core s (s.unbind wid m) ∧ ∃ ws, (s.unbind wid m).warp wid = some { w with waits := ws } := by
  subst hcore
  constructor
  · refine RestKept.trans ?_ (RestKept.modWarp ..)
    exact RestKept.modCore _ _ _ _ fun _ => rfl
  · exact ⟨_, modWarp_warp (s := s.modCore (s.coreOf wid) _) hw _⟩

end Issuing

section Clauses
variable {s : State} {c : Ctx} {w : Warp} {n : Fin 16}

/-- JARM: Out of its half is the mask's live lanes that do not wait (04 R89; 17 R372). -/
theorem jarm_rejoins {m : JMask} {M : Mask} (h : Issues (.jarm n m) s c w) (hlen : w.lanes.length = 32)
    (hM : jarmMask s c w m = some M) :
    let hm := w.halfMask (w.half (lowLane c.mask))
    let wait := w.jWait.getD n.val 0
    let out := (w.jOut.getD n.val 0 &&& ~~~hm) ||| (M &&& w.live &&& ~~~wait &&& hm)
    ∃ t w', exec (.jarm n m) s = .next t ∧ RestKept c.wid c.core s t ∧ t.warp c.wid = some w' ∧
      Rejoins w w' n.val out (wait &&& ~~~freed w out wait) w.waits (fun l y =>
        let y := goOn ((freed w out wait).getLsbD l) y
        if c.mask.getLsbD l then Lane.follow c y else y) := by
  intro hm wait out
  have hbody : bodyJarm n m c s = Res.ok (s.modWarp c.wid fun w => Warp.release n.val { w with
      jOut := lput 0 n.val ((w.jOut.getD n.val 0 &&& ~~~hm) |||
        (M &&& w.live &&& ~~~w.jWait.getD n.val 0 &&& hm)) w.jOut }) := by
    simp only [bodyJarm, h.warp, hM, hm]
  exact issue_seq_rejoins h hbody (RestKept.modWarp ..) (modWarp_warp h.warp _)
    ((Rejoins.refl hlen n.val).putOut out).release

/-- JDROP: the group's lanes leave Out (04 R89; 17 R373). -/
theorem jdrop_rejoins (h : Issues (.jdrop n) s c w) (hlen : w.lanes.length = 32) :
    let wait := w.jWait.getD n.val 0
    let out := w.jOut.getD n.val 0 &&& ~~~c.mask
    ∃ t w', exec (.jdrop n) s = .next t ∧ RestKept c.wid c.core s t ∧ t.warp c.wid = some w' ∧
      Rejoins w w' n.val out (wait &&& ~~~freed w out wait) w.waits (fun l y =>
        let y := goOn ((freed w out wait).getLsbD l) y
        if c.mask.getLsbD l then Lane.follow c y else y) :=
  issue_seq_rejoins h rfl (RestKept.modWarp ..) (modWarp_warp h.warp _) ((Rejoins.refl hlen n.val).putOut _).release

/-- JWAIT: the group's lanes leave Out and wait, where a live lane that does not wait keeps the warp from rejoin
deadlock (04 R89, R91; 17 R373). -/
theorem jwait_rejoins {l : Nat} (h : Issues (.jwait n) s c w) (hlen : w.lanes.length = 32) (hl : l < 32)
    (hlive : (w.lane l).st = .live) (hmask : c.mask.getLsbD l = false)
    (hfree : ∀ k, (w.jWait.getD k 0).getLsbD l = false) :
    let wait := w.jWait.getD n.val 0 ||| c.mask
    let out := w.jOut.getD n.val 0 &&& ~~~c.mask
    ∃ t w' ws, exec (.jwait n) s = .next t ∧ RestKept c.wid c.core s t ∧ t.warp c.wid = some w' ∧
      Rejoins w w' n.val out (wait &&& ~~~freed w out wait) ws (fun l y => goOn ((freed w out wait).getLsbD l)
        (if c.mask.getLsbD l then standing c y else y)) := by
  obtain ⟨_, _, _, _, _, _, _, _, _, _, _, _, hcore⟩ := ctx_spec h.ctx
  obtain ⟨hunbind, ws, hws⟩ := unbind_spec c.mask hcore h.warp
  have hrel := (((Rejoins.refl hlen n.val).putWaits ws).modLanes c.mask (standing c)).jwaited c.mask
  have hx := modWarp_warp (modWarp_warp hws (Warp.modLanes c.mask (standing c))) (jwaited n.val c.mask)
  have hcheck := hrel.rejoinCheck hx hl
    (by rw [goOn_st, if_neg (by rw [hmask]; exact Bool.false_ne_true)]; exact hlive) hfree
    (by rw [BitVec.getLsbD_and, BitVec.getLsbD_or, hfree, hmask]; rfl)
  obtain ⟨t, w', hexec, hkept, hwarp, hr⟩ := issue_placed_rejoins h (body := bodyJwait n)
    (congrArg (fun t => Res.mk t [] .placed) hcheck)
    ((hunbind.trans (RestKept.modWarp ..)).trans (RestKept.modWarp ..)) hx hrel
  exact ⟨t, w', ws, hexec, hkept, hwarp, hr⟩

/-- JARM's mask operand in each of its forms (04 R99; 17 R372). -/
theorem jarmMask_eq (s : State) (c : Ctx) (w : Warp) (m : JMask) :
    ¬ (w.g16 = true ∧ ∃ i, m = .high i) → jarmMask s c w m = some (match m with
      | .uni b => Ctx.halfBits w c (s.rdU c b)
      | .low i => Ctx.halfBits w c (i.setWidth 32)
      | .high i => i.setWidth 32 <<< 16
      | .all => Ctx.halfBits w c 0xFFFFFFFF) := by
  intro hform
  cases m with
  | uni b => rfl
  | low i => rfl
  | high i => exact if_neg fun hg => hform ⟨hg, i, rfl⟩
  | all => rfl

end Clauses

/-- Settles O16: each instruction writes its register, and Release(n) of what it wrote lets the waiting lanes go on,
half by half. -/
theorem rejoinMasks : Obligations.RejoinMasks := by
  unfold Obligations.RejoinMasks
  refine ⟨fun n m s c w h hlen hform => ?_, fun n s c w h hlen => ?_, fun n s c w h hlen hothers => ?_⟩
  · obtain ⟨t, w', hexec, hkept, hwarp, hr⟩ := jarm_rejoins h hlen (jarmMask_eq s c w m hform)
    simp only [halfBits_eq, halfMask_half] at hr
    exact ⟨t, w', hexec, hkept, hwarp, hr.waits, fun k _ => hr.out k, fun k _ => hr.wait k, hr.lane, hr.rest⟩
  · obtain ⟨t, w', hexec, hkept, hwarp, hr⟩ := jdrop_rejoins h hlen
    exact ⟨t, w', hexec, hkept, hwarp, hr.waits, fun k _ => hr.out k, fun k _ => hr.wait k, hr.lane, hr.rest⟩
  · obtain ⟨l, hl, hlive, hmask, hfree⟩ := hothers
    have hnone : ∀ k, (w.jWait.getD k 0).getLsbD l = false := fun k => by
      by_cases hk : k < w.jWait.length
      · exact hfree k hk
      · rw [List.getD_eq_default _ _ (Nat.le_of_not_lt hk)]
        exact BitVec.getLsbD_zero
    obtain ⟨t, w', ws, hexec, hkept, hwarp, hr⟩ := jwait_rejoins h hlen hl hlive hmask hnone
    exact ⟨t, w', hexec, hkept, hwarp, fun k _ => hr.out k, fun k _ => hr.wait k, hr.lane, hr.rest⟩

end Sys2Proof.Machine.RejoinRegisters
end

section
/-!
PROOFS. The special operands of MFN (05 R110). A NaN and a negative operand are settled by the class that `fpRead` gives
them; the zeros, the infinities and the operand 1 are single encodings; an integer of `.sinpi` and a half-integer of
`.cospi` are exact in the fixed point of `fxMod2`, whose remainder modulo 1 is then 0 and one half.
-/

namespace Sys2Proof.Machine.MfnSpecials

section Classes
variable {x : Nat}

/-- The largest exponent field above a nonzero fraction reads as a NaN, quiet by the fraction's top bit (05 R102). -/
theorem fpRead_f32_nan (h : 0x7F800000 < x % 2 ^ 31) :
    fpRead fmtF32 x = .nan (decide (¬ x / 2 ^ 22 % 2 = 1)) := by
  have hex : bitsOf x 23 8 = 2 ^ 8 - 1 := by simp only [bitsOf]; omega
  have hfr : bitsOf x 0 23 ≠ 0 := by simp only [bitsOf]; omega
  have hquiet : bitOf (bitsOf x 0 23) 22 = decide (x / 2 ^ 22 % 2 = 1) := by
    rw [bitOf_eq_testBit, testBit_bitsOf, Nat.testBit_eq_decide_div_mod_eq]; rfl
  simp only [fpRead, fmtF32, hex, hfr, hquiet, if_true, if_false, decide_not]

/-- Above −0 and up to −∞ an encoding reads as −∞ or as a negative finite value (05 R102). -/
theorem fpRead_f32_negative (hlo : 0x80000000 < x) (hhi : x ≤ 0xFF800000) :
    fpRead fmtF32 x = .inf true ∨ ∃ m e, fpRead fmtF32 x = .fin true m e := by
  have hneg : bitOf x 31 = true := by simp only [bitOf, beq_iff_eq]; omega
  simp only [fpRead, fmtF32, hneg]
  split
  next hex =>
    have hfr : bitsOf x 0 23 = 0 := by simp only [bitsOf] at hex ⊢; omega
    exact .inl (if_pos hfr)
  next =>
    right
    split
    next hex =>
      have hfr : bitsOf x 0 23 ≠ 0 := by simp only [bitsOf] at hex ⊢; omega
      exact ⟨_, _, if_neg hfr⟩
    next => exact ⟨_, _, rfl⟩

/-- No finite value has an exponent below that of the format's smallest unit (05 R102). -/
theorem qmin_le_of_fpRead_fin {f : Fmt} {neg : Bool} {m : Nat} {e : Int} (h : fpRead f x = .fin neg m e) :
    f.qmin ≤ e := by
  simp only [fpRead] at h
  split at h
  · split at h <;> cases h
  · split at h
    · split at h <;> cases h
      exact Int.le_refl _
    · cases h
      omega

end Classes

section Invalid
variable {fn : MfnFn} {x : Nat}

theorem fmtF32_nan : fmtF32.nan = 0x7FC00000 := rfl

theorem mfnAlu_of_nan {sig : Bool} (h : fpRead fmtF32 x = .nan sig) :
    mfnAlu fn x = (0x7FC00000, if sig then fNV else 0) := by
  simp only [mfnAlu, h, fmtF32_nan]

/-- The roots and the logarithm have no value below zero. -/
theorem mfnAlu_of_negative (hfn : fn = .rsq ∨ fn = .sqrt ∨ fn = .lg2)
    (h : fpRead fmtF32 x = .inf true ∨ ∃ m e, fpRead fmtF32 x = .fin true m e) :
    mfnAlu fn x = (0x7FC00000, fNV) := by
  obtain h | ⟨m, e, h⟩ := h <;> obtain rfl | rfl | rfl := hfn <;> simp only [mfnAlu, h, fmtF32_nan, if_true]

end Invalid

section FixedPoint
variable {m k : Nat}

/-- The fixed point holds `m * 2^-k` exactly where it has the places for it: its fraction is that of `m / 2^k`. -/
theorem fxMod2_neg_mod (hpos : 0 < k) (hk : k ≤ fxP) :
    fxMod2 m (-(k : Int)) % 2 ^ fxP = m % 2 ^ k * 2 ^ (fxP - k) := by
  have hexp : ((fxP : Int) + -(k : Int)).toNat = fxP - k := by omega
  calc fxMod2 m (-(k : Int)) % 2 ^ fxP = m * 2 ^ (fxP - k) % 2 ^ fxP := by
        rw [fxMod2, if_neg (by omega), hexp, Nat.mod_mod_of_dvd _ (Nat.pow_dvd_pow 2 (Nat.le_succ fxP))]
    _ = m * 2 ^ (fxP - k) % (2 ^ k * 2 ^ (fxP - k)) := by rw [← Nat.pow_add, Nat.add_sub_cancel' hk]
    _ = m % 2 ^ k * 2 ^ (fxP - k) := Nat.mul_mod_mul_right _ _ _

/-- A number whose exponent is not negative has no fraction. -/
theorem fxMod2_mod_of_nonneg {e : Int} (he : 0 ≤ e) : fxMod2 m e % 2 ^ fxP = 0 := by
  rw [fxMod2]
  split
  · exact Nat.zero_mod _
  next h =>
    obtain rfl : e = 0 := by omega
    rw [Nat.mod_mod_of_dvd _ (Nat.pow_dvd_pow 2 (Nat.le_succ fxP)), Int.add_zero, Int.toNat_natCast, Nat.mul_mod_left]

end FixedPoint

section Turns
variable {x m : Nat} {neg : Bool} {e : Int}

/-- A negative exponent of a binary32 value is a number of places that the fixed point has. -/
theorem exists_places (h : fpRead fmtF32 x = .fin neg m e) (he : e < 0) :
    ∃ k : Nat, e = -(k : Int) ∧ 0 < k ∧ k ≤ fxP := by
  have hmin : (-149 : Int) ≤ e := qmin_le_of_fpRead_fin h
  exact ⟨(-e).toNat, by omega, by omega, by rw [fxP]; omega⟩

theorem fmtF32_zer (neg : Bool) : fmtF32.zer neg = if neg then 0x80000000 else 0 := by cases neg <;> rfl

/-- sin (pi n) is a zero of the sign of `n` (05 R110). -/
theorem mfnAlu_sinpi_of_integer (h : fpRead fmtF32 x = .fin neg m e) (hint : 0 ≤ e ∨ 2 ^ (-e).toNat ∣ m) :
    mfnAlu .sinpi x = (if neg then 0x80000000 else 0, 0) := by
  have hfrac : fxMod2 m e % 2 ^ fxP = 0 := by
    by_cases he : 0 ≤ e
    · exact fxMod2_mod_of_nonneg he
    · obtain ⟨k, rfl, hpos, hk⟩ := exists_places h (Int.not_le.mp he)
      rw [Int.neg_neg, Int.toNat_natCast] at hint
      rw [fxMod2_neg_mod hpos hk, Nat.mod_eq_zero_of_dvd (hint.resolve_left he), Nat.zero_mul]
  simp only [mfnAlu, h, mfnSinpi, if_pos hfrac, fmtF32_zer]

/-- cos (pi (n + 1/2)) is +0 (05 R110). -/
theorem mfnAlu_cospi_of_half_integer (h : fpRead fmtF32 x = .fin neg m e) (he : e < 0)
    (hhalf : m % 2 ^ (-e).toNat = 2 ^ ((-e).toNat - 1)) : mfnAlu .cospi x = (0, 0) := by
  obtain ⟨k, rfl, hpos, hk⟩ := exists_places h he
  rw [Int.neg_neg, Int.toNat_natCast] at hhalf
  have hfrac : fxMod2 m (-(k : Int)) % 2 ^ fxP = 2 ^ (fxP - 1) := by
    rw [fxMod2_neg_mod hpos hk, hhalf, ← Nat.pow_add]
    congr 1
    omega
  have hturn : (fxMod2 m (-(k : Int)) + 2 ^ (fxP - 1)) % 2 ^ fxP = 0 := by
    rw [← Nat.mod_add_mod, hfrac, Nat.two_pow_pred_add_two_pow_pred (by decide), Nat.mod_self]
  simp only [mfnAlu, h, mfnCospi, if_pos hturn]

end Turns

/-- Settles O9: the class of the operand gives the NaNs and the negative operands, the fraction in fixed point the
integers and half-integers; each other row is one encoding. -/
theorem mfnSpecialOperands : Obligations.MfnSpecialOperands := by
  unfold Obligations.MfnSpecialOperands
  refine ⟨fun fn x _ h => ?nan, ?rcp, ?rsq, ?sqrt, ?ex2, ?lg2,
    fun fn x hfn hlo hhi => ?negative, ?sinpi, fun x neg m e h hint => mfnAlu_sinpi_of_integer h hint,
    fun x neg m e h he hhalf => mfnAlu_cospi_of_half_integer h he hhalf, ?cospi, ?tanh⟩
  case nan =>
    simp only [mfnAlu_of_nan (fpRead_f32_nan h), decide_eq_true_eq, ite_not]
  case negative => exact mfnAlu_of_negative hfn (fpRead_f32_negative hlo hhi)
  all_goals decide

end Sys2Proof.Machine.MfnSpecials
end

section
/-!
PROOFS. MatrixArrivals: a matrix command whose checks pass is dispatched outside a gang, recorded while members of its
gang are missing, and dispatched for all of them by the last member (06 R126 to R131; 17 R384, R385; 18 R412).
-/

namespace Sys2Proof.Machine.MatrixCommands

section Completion
variable {i : Instr} {s s0 s1 : State} {c : Ctx} {w w1 : Warp} {body : Ctx → State → Res}

/-- An instruction whose effect leaves the lanes of its warp alone and raises no fault: they go on. -/
theorem done_of_ok (h : Issues i s c w) (hb : body c s = Res.ok s1) (hg : Going s0 c.wid)
    (hk : RestKept c.wid c.core s0 s1) (hw : s1.warp c.wid = some w1) (hlanes : w1.lanes = w.lanes) :
    ∃ t, issue i body s = .next t ∧ LaneDone c s0 t w1 (fun _ _ => none) (fun _ => Lane.follow c) := by
  obtain ⟨t, ps, bd, lr, ly, ht, hrest, hwarp⟩ := issue_seq_from h hb hg hk hw
  have hcommit := congrArg (fun x : Warp => some { x with lastRun := lr, lastYield := ly })
    (modLanes_producers c.mask (Lane.follow c) ps bd w1).symm
  exact ⟨t, ht, laneDone_of (LaneAct.id.modLane fun _ => Lane.follow c) hrest
    (fun l hl hm => hlanes ▸ ctx_lanes h.ctx h.warp l hl hm) (hwarp.trans hcommit)⟩

/-- The same, where its effect is a change of its warp. -/
theorem done_of_modWarp {f : Warp → Warp} (h : Issues i s c w) (hb : body c s = Res.ok (s.modWarp c.wid f))
    (hlanes : (f w).lanes = w.lanes) :
    ∃ t, issue i body s = .next t ∧ LaneDone c s t (f w) (fun _ _ => none) (fun _ => Lane.follow c) :=
  done_of_ok h hb h.going (RestKept.modWarp ..) (TrapPaths.modWarp_warp h.warp f) hlanes

end Completion

section Members
variable {wid core : Nat} {s t : State} {xs : List Nat} {f : Warp → Warp}

/-- One change of the warps of a list. -/
def modWarps (xs : List Nat) (f : Warp → Warp) (s : State) : State := xs.foldl (fun s x => s.modWarp x f) s

/-- One change of another warp on both sides. -/
theorem restKept_modWarp_both {x : Nat} (hx : x ≠ wid) (h : RestKept wid core s t) :
    RestKept wid core (s.modWarp x f) (t.modWarp x f) := by
  refine ⟨?_, fun k hk => ?_, fun k hk => ?_, ?_, fun k => ?_⟩
  · obtain ⟨ws, hs⟩ := (TrapPaths.modWarp_moves x f s).rest
    obtain ⟨_, ht⟩ := (TrapPaths.modWarp_moves x f t).rest
    rw [hs, ht]
    exact congrArg (fun u : State => { u with warps := ws }) h.rest
  · by_cases hkx : k = x
    · subst hkx
      rw [State.modWarp_warp_self, State.modWarp_warp_self, h.warps k hk]
    · rw [State.modWarp_warp_of_ne _ hkx, State.modWarp_warp_of_ne _ hkx, h.warps k hk]
  · rw [modWarp_core, modWarp_core, h.cores k hk]
  · rw [modWarp_core, modWarp_core, h.core]
  · rw [modWarp_launch, modWarp_launch, h.launches k]

theorem restKept_modWarps (hne : ∀ x ∈ xs, x ≠ wid) (h : RestKept wid core s t) :
    RestKept wid core (modWarps xs f s) (modWarps xs f t) := by
  induction xs generalizing s t with
  | nil => exact h
  | cons x xs ih =>
    exact ih (fun y hy => hne y (List.mem_cons_of_mem x hy)) (restKept_modWarp_both (hne x List.mem_cons_self) h)

theorem warp_modWarps_of_notMem (hne : ∀ x ∈ xs, x ≠ wid) : (modWarps xs f s).warp wid = s.warp wid := by
  induction xs generalizing s with
  | nil => rfl
  | cons x xs ih =>
    exact (ih fun y hy => hne y (List.mem_cons_of_mem x hy)).trans
      (s.modWarp_warp_of_ne (hne x List.mem_cons_self).symm f)

theorem launchOf_modWarp (k x : Nat) : (s.modWarp x f).launchOf k = s.launchOf k := by
  obtain ⟨ws, hs⟩ := (TrapPaths.modWarp_moves x f s).rest
  rw [hs]
  rfl

theorem launchOf_modWarps (k : Nat) : (modWarps xs f s).launchOf k = s.launchOf k := by
  induction xs generalizing s with
  | nil => rfl
  | cons x xs ih =>
    exact ih.trans (launchOf_modWarp k x)

theorem going_modWarps {k : Nat} (h : Going s k) : Going (modWarps xs f s) k :=
  fun L hL => h L ((launchOf_modWarps k).symm.trans hL)

/-- No other member of a warp's gang is the warp itself. -/
theorem ne_of_mem_members {gang : Mask} {x : Nat} (h : x ∈ s.members wid gang) : x ≠ wid := by
  have hx := (List.mem_filter.1 h).2
  rw [Bool.and_eq_true, bne_iff_ne] at hx
  exact hx.1

end Members

section Pending
variable {s : State} {c : Ctx} {w : Warp} {b : Block} {tile : Nat} {f : FaultInfo}

theorem takeGang_of_none (hw : s.warp c.wid = some w) (h : w.gangFault = none) : s.takeGang c = none := by
  simp only [State.takeGang, hw, Option.bind_some, h]

theorem takeGang_of_some (hw : s.warp c.wid = some w) (h : w.gangFault = some f) :
    s.takeGang c = some (f, s.modWarp c.wid fun w => { w with gangFault := none }) := by
  simp only [State.takeGang, hw, Option.bind_some, h]

theorem tileBad_of_lt (hb : s.block (blkOf c.wid) = some b) (h : tile < b.tiles.length) : s.tileBad c tile = false := by
  simp only [State.tileBad, hb, decide_eq_false_iff_not, Nat.not_le, h]

theorem takePending_of_none (h : ∀ e ∈ (s.tile (blkOf c.wid) tile).pending, e.1 ≠ c.wid) : s.takePending c tile = none := by
  have hfind : (s.tile (blkOf c.wid) tile).pending.find? (fun e => e.1 == c.wid) = none :=
    List.find?_eq_none.2 fun e he heq => h e he (beq_iff_eq.1 heq)
  simp only [State.takePending, hfind]

end Pending

section Arrival
variable {i : Instr} {s : State} {c : Ctx} {w : Warp} {op : MOp} {tile : Nat} {da db : BitVec 128} {fs : List Word}
  {fmts : Warp → List Word} {a : Arrival} {body : Ctx → State → Res}

/-- A matrix command names a tile of its block, passes the checks of R126, and no fault is pending for it (06 R140). -/
structure Sound (s : State) (c : Ctx) (w : Warp) (op : MOp) (tile : Nat) (da db : BitVec 128) (fs : List Word) : Prop where
  here : ∃ b, s.block (blkOf c.wid) = some b ∧ tile < b.tiles.length
  gang : w.gangFault = none
  pending : op = .tst ∨ op = .mma ∨ op = .mmat → (s.tile (blkOf c.wid) tile).pinfo = none ∧
    ∀ e ∈ (s.tile (blkOf c.wid) tile).pending, e.1 ≠ c.wid
  checks : s.matrixCheck c w op da db fs = none

/-- The arrival of a warp's group for a matrix command, with what it captures (06 R128, R133). -/
def arrivalOf (s : State) (c : Ctx) (op : MOp) (tile : Nat) (da db : BitVec 128) (fs : List Word) : Arrival :=
  { op := op, tile := tile, da := da, db := db, fmt := fs.headD 0, ord := 0, priv := c.inHandler || c.inGraft,
    capt := (s.core c.core).nextSq }

theorem uses_eq_true (h : (op == .tst || isMul op) = true) : op = .tst ∨ op = .mma ∨ op = .mmat := by
  rw [isMul, Bool.or_eq_true, Bool.or_eq_true, beq_iff_eq, beq_iff_eq, beq_iff_eq] at h
  exact h

/-- Where nothing is wrong with it, a command goes to the queue, or arrives for its warp's gang. -/
theorem matrixArrive_of_sound (hw : s.warp c.wid = some w) (h : Sound s c w op tile da db (fmts w)) :
    matrixArrive op tile da db fmts c s =
      if w.gang = 0 then
        if 16 ≤ (s.core c.core).mq.length then Res.wait .mqueue 0 0 s
        else Res.ok (s.dispatchM c.core ((arrivalOf s c op tile da db (fmts w)).cmd s.tick (blkOf c.wid)
          [(c.wid, (s.core c.core).nextSq)]))
      else gangArrive (arrivalOf s c op tile da db (fmts w)) w c s := by
  obtain ⟨⟨b, hb, htile⟩, hgang, hpending, hchecks⟩ := h
  simp only [matrixArrive, hw, tileBad_of_lt hb htile, takeGang_of_none hw hgang, hchecks, Bool.false_eq_true,
    if_false, Option.map_none, Option.toList_none, List.append_nil, List.nil_append, arrivalOf]
  by_cases huse : (op == .tst || isMul op) = true
  · obtain ⟨hinfo, hnone⟩ := hpending (uses_eq_true huse)
    simp only [if_pos huse, takePending_of_none hnone, hinfo, Option.map_none, Option.toList_none, minBy]
  · simp only [if_neg huse, minBy]

/-- What member `x` has recorded as its arrival of number `n` (06 R128). -/
def recorded (s : State) (n x : Nat) : Option Arrival :=
  ((s.warp x).map (·.arrivals)).bind (fun as => as.find? (fun y => y.ord == n))

/-- Every other member exists and has recorded its arrival of the number that the warp's next has. -/
def Complete (s : State) (c : Ctx) (w : Warp) : Prop :=
  (s.members c.wid w.gang).length + 1 = maskCount w.gang ∧
    ∀ x ∈ s.members c.wid w.gang, (recorded s (w.arrCount + 1) x).isSome = true

theorem complete_iff : (decide ((s.members c.wid w.gang).length + 1 = maskCount w.gang) &&
    (s.members c.wid w.gang).all (fun x => (recorded s (w.arrCount + 1) x).isSome)) = true ↔ Complete s c w := by
  rw [Bool.and_eq_true, decide_eq_true_eq, List.all_eq_true]
  rfl

/-- While a member is missing, the arrival is recorded (06 R128). -/
theorem gangArrive_of_incomplete (hroom : w.arrivals.length < 4) (h : ¬ Complete s c w) :
    gangArrive a w c s = Res.ok (s.modWarp c.wid fun w' => { w' with
      arrivals := w'.arrivals ++ [{ a with ord := w.arrCount + 1 }], arrCount := w.arrCount + 1 }) := by
  rw [← complete_iff] at h
  unfold recorded at h
  simp only [gangArrive, if_neg (Nat.not_le.2 hroom), if_neg h]

/-- Member `x` has arrived for the same command (06 R129). -/
def Agrees (s : State) (w : Warp) (a : Arrival) (x : Nat) : Prop :=
  ∃ v y, s.warp x = some v ∧ v.gang = w.gang ∧ recorded s (w.arrCount + 1) x = some y ∧ y.same a = true

/-- The command of all members: it reaches privileged pages when every member arrived so (06 R133; 07 R161). -/
def gangCmd (s : State) (c : Ctx) (w : Warp) (a : Arrival) : MCmd :=
  let others := s.members c.wid w.gang
  let theirs := recorded s (w.arrCount + 1)
  ({ a with priv := a.priv && others.all (fun x => ((theirs x).map (·.priv)).getD false) } : Arrival).cmd s.tick
    (blkOf c.wid) ((c.wid, a.capt) :: others.map (fun x => (x, ((theirs x).map (·.capt)).getD 0)))

/-- A member without its recorded arrival of number `n`. -/
def forget (n : Nat) (v : Warp) : Warp := { v with arrivals := v.arrivals.filter (fun y => y.ord != n) }

/-- The last member's arrival is the command of all (06 R129, R131). -/
theorem gangArrive_of_complete (hroom : w.arrivals.length < 4) (h : Complete s c w)
    (hq : (s.core c.core).mq.length < 16) (hagree : ∀ x ∈ s.members c.wid w.gang, Agrees s w a x) :
    gangArrive a w c s = Res.ok (modWarps (s.members c.wid w.gang) (forget (w.arrCount + 1))
      ((s.dispatchM c.core (gangCmd s c w a)).modWarp c.wid fun v => { v with arrCount := w.arrCount + 1 })) := by
  unfold gangArrive
  refine (if_neg (Nat.not_le.2 hroom)).trans ((if_pos (complete_iff.2 h)).trans
    ((if_neg ?_).trans (if_neg (Nat.not_le.2 hq))))
  rw [Bool.not_eq_true', Bool.not_eq_false, List.all_eq_true]
  intro x hx
  obtain ⟨v, y, hv, hgang, hy, heq⟩ := hagree x hx
  unfold recorded at hy
  dsimp only
  rw [hy, hv, Option.map_some, hgang, beq_self_eq_true, Bool.and_true]
  exact heq

theorem same_of_eq {y : Arrival} {p : Bool} {m n : Nat} (h : { y with capt := m, priv := p } = { a with ord := n }) :
    y.same a = true := by
  show ({ y with capt := m, priv := p } : Arrival).same { a with ord := n } = true
  rw [h]
  simp only [Arrival.same, beq_self_eq_true, Bool.and_self]

/-- Outside a gang the command is queued. -/
theorem arrives_alone (h : Issues i s c w) (hb : body c s = matrixArrive op tile da db fmts c s)
    (hs : Sound s c w op tile da db (fmts w)) (hgang : w.gang = 0) (hq : (s.core c.core).mq.length < 16) :
    ∃ t, issue i body s = .next t ∧
      LaneDone c (s.dispatchM c.core ((arrivalOf s c op tile da db (fmts w)).cmd s.tick (blkOf c.wid)
          [(c.wid, (s.core c.core).nextSq)])) t w (fun _ _ => none) (fun _ => Lane.follow c) := by
  rw [matrixArrive_of_sound h.warp hs, if_pos hgang, if_neg (Nat.not_le.2 hq)] at hb
  exact done_of_ok h hb h.going (RestKept.refl ..) h.warp rfl

/-- In a gang with members missing the arrival is recorded. -/
theorem arrives_recorded (h : Issues i s c w) (hb : body c s = matrixArrive op tile da db fmts c s)
    (hs : Sound s c w op tile da db (fmts w)) (hgang : w.gang ≠ 0) (hroom : w.arrivals.length < 4)
    (hmiss : ¬ Complete s c w) :
    ∃ t, issue i body s = .next t ∧ LaneDone c s t { w with
        arrivals := w.arrivals ++ [{ arrivalOf s c op tile da db (fmts w) with ord := w.arrCount + 1 }],
        arrCount := w.arrCount + 1 } (fun _ _ => none) (fun _ => Lane.follow c) := by
  rw [matrixArrive_of_sound h.warp hs, if_neg hgang, gangArrive_of_incomplete hroom hmiss] at hb
  exact done_of_modWarp h hb rfl

/-- With the last member's agreeing arrival the command of all is queued, and what they recorded goes. -/
theorem arrives_last (h : Issues i s c w) (hb : body c s = matrixArrive op tile da db fmts c s)
    (hs : Sound s c w op tile da db (fmts w)) (hgang : w.gang ≠ 0) (hroom : w.arrivals.length < 4)
    (hall : Complete s c w) (hq : (s.core c.core).mq.length < 16)
    (hagree : ∀ x ∈ s.members c.wid w.gang, Agrees s w (arrivalOf s c op tile da db (fmts w)) x) :
    ∃ t, issue i body s = .next t ∧ LaneDone c (modWarps (s.members c.wid w.gang) (forget (w.arrCount + 1))
        (s.dispatchM c.core (gangCmd s c w (arrivalOf s c op tile da db (fmts w))))) t
      { w with arrCount := w.arrCount + 1 } (fun _ _ => none) (fun _ => Lane.follow c) := by
  rw [matrixArrive_of_sound h.warp hs, if_neg hgang, gangArrive_of_complete hroom hall hq hagree] at hb
  have hne : ∀ x ∈ s.members c.wid w.gang, x ≠ c.wid := fun _ => ne_of_mem_members
  refine done_of_ok h hb (going_modWarps h.going)
    (restKept_modWarps hne (RestKept.modWarp ..)) ?_ rfl
  exact (warp_modWarps_of_notMem hne).trans (TrapPaths.modWarp_warp (s := s.dispatchM _ _) h.warp _)

end Arrival

/-- Settles O29: the five instructions are one arrival, which is dispatched, recorded, or completes its gang's. -/
theorem matrixArrivals : Obligations.MatrixArrivals := by
  unfold Obligations.MatrixArrivals
  intro ok cmd queued law desc fmts
  have arrival (i : Instr) (op : MOp) (tile : Nat) (da db : State → Ctx → BitVec 128) (fs : Ctx → Warp → List Word)
      (hexec : ∀ s, exec i s = issue i (fun c s => matrixArrive op tile (da s c) (db s c) (fs c) c s) s) :
      law i op tile da db fs := by
    rintro s c w h ⟨htile, hgang, hpending, hchecks⟩ room n cap priv a others theirs all
    have hs : Sound s c w op tile (da s c) (db s c) (fs c w) := ⟨htile, hgang, hpending, hchecks⟩
    rw [hexec]
    refine ⟨fun halone hq => arrives_alone h rfl hs halone hq,
      fun hin hroom hmiss => arrives_recorded h rfl hs hin hroom hmiss, fun hin hroom hall hq hagree => ?_⟩
    refine arrives_last h rfl hs hin hroom hall hq fun x hx => ?_
    obtain ⟨v, y, hv, hvgang, hy, heq⟩ := hagree x hx
    exact ⟨v, y, hv, hvgang, hy, same_of_eq heq⟩
  exact ⟨fun t a b f => arrival _ _ _ _ _ _ fun _ => rfl, fun t a b f => arrival _ _ _ _ _ _ fun _ => rfl,
    fun t a => arrival _ _ _ _ _ _ fun _ => rfl, fun t a => arrival _ _ _ _ _ _ fun _ => rfl,
    fun t => arrival _ _ _ _ _ _ fun _ => rfl⟩

end Sys2Proof.Machine.MatrixCommands
end

section
/-!
PROOFS. GangsAndTileStatus: GANG, TWAIT and TSTAT, with the faults that wait for a warp (06 R127, R130, R142, R145; 17
R365; 18 R412). A fault that was pending is no longer held when its trap is taken, so that the trap starts from a state
in which a block's tile, or the warp's latch, has already changed: the instruction issues there as it did before.
-/

namespace Sys2Proof.Machine.MatrixCommands

section Views
variable {i : Instr} {s s0 : State} {c : Ctx} {w w0 : Warp} {b : Block} {L : Launch} {f : FaultInfo}
  {body : Ctx → State → Res}

/-- A fault of the whole group whose effect has first come to `s0`, where the instruction issues as well. -/
theorem trap_of_fault (h : Issues i s c w) (hbody : body c s = Res.fault c f s0) (h0 : Issues i s0 c w0)
    (hr : TrapReady f s0 c w0) (hb : s0.block (blkOf c.wid) = some b) (hL : s0.launch b.launch = some L) :
    ∃ t, issue i body s = .next t ∧ GroupTrap f c b L s0 t w0 := by
  rw [issue_eq h, hbody, ← issue_eq h0 fun c s => Res.fault c f s]
  exact issue_fault h0 hr hb hL rfl

end Views

section Blocks
variable {i : Instr} {s : State} {c : Ctx} {w : Warp} {f : FaultInfo} {k : Nat} {g : Block → Block}

theorem block_modBlock_map {α : Type} {p : Block → α} (hg : ∀ b, p (g b) = p b) (j : Nat) :
    ((s.modBlock k g).block j).map p = (s.block j).map p := by
  by_cases h : j = k
  · subst h
    rw [State.modBlock_block_self, Option.map_map]
    exact congrArg (fun q => (s.block j).map q) (funext hg)
  · rw [State.modBlock_block_of_ne _ h]

theorem coreOf_modBlock (hg : ∀ b, (g b).core = b.core) : (s.modBlock k g).coreOf = s.coreOf :=
  funext fun _ => congrArg (Option.getD · 0) (block_modBlock_map hg _)

theorem launch_modBlock : (s.modBlock k g).launch = s.launch := by
  unfold State.modBlock
  split <;> rfl

theorem launchOf_modBlock (hg : ∀ b, (g b).launch = b.launch) (wid : Nat) :
    (s.modBlock k g).launchOf wid = s.launchOf wid := by
  have hbind (u : State) : u.launchOf wid = ((u.block (blkOf wid)).map Block.launch).bind u.launch := by
    rw [Option.bind_map]
    rfl
  rw [hbind, hbind, block_modBlock_map hg, launch_modBlock]

/-- The issue context is of the turn, the sequencers, the graft slots, the warps and their cores alone. -/
theorem ctx?_modBlock (hg : ∀ b, (g b).core = b.core) : (s.modBlock k g).ctx? = s.ctx? := by
  have hkept : (s.modBlock k g).turn = s.turn ∧ (s.modBlock k g).seqAt = s.seqAt ∧ (s.modBlock k g).warp = s.warp ∧
      (s.modBlock k g).graftOf = s.graftOf := by
    unfold State.modBlock
    split <;> exact ⟨rfl, rfl, rfl, rfl⟩
  obtain ⟨hturn, hseq, hwarp, hgraft⟩ := hkept
  unfold State.ctx? bindCtx
  rw [hturn, hseq, hwarp, coreOf_modBlock hg, hgraft]

/-- A block that changes, on its core and of its launch, keeps no instruction from issuing. -/
theorem issues_modBlock (hcore : ∀ b, (g b).core = b.core) (hlaunch : ∀ b, (g b).launch = b.launch)
    (h : Issues i s c w) : Issues i (s.modBlock k g) c w where
  ctx := (ctx?_modBlock hcore).trans h.ctx
  warp := by rw [State.warp, State.modBlock_warps]; exact h.warp
  first := h.first
  legal := h.legal
  clean := h.clean
  going L hL := h.going L ((launchOf_modBlock hlaunch _).symm.trans hL)

theorem trapReady_modBlock (hlaunch : ∀ b, (g b).launch = b.launch) (h : TrapReady f s c w) :
    TrapReady f (s.modBlock k g) c w where
  slots l hl := by
    have hact : (s.modBlock k g).faultAct = s.faultAct := by
      unfold State.modBlock
      split <;> rfl
    rw [hact]
    exact h.slots l hl
  spill := by
    rw [State.modBlock_spill, State.jobOf, launchOf_modBlock hlaunch]
    exact h.spill
  space := by
    rw [State.core, State.modBlock_cores]
    exact h.space
  apart := h.apart

end Blocks

section Latch
variable {i : Instr} {s t : State} {c : Ctx} {w : Warp} {b : Block} {L : Launch} {f : FaultInfo}

/-- A warp with no fault held for its latch. -/
def unlatched (w : Warp) : Warp := { w with gangFault := none }

/-- The issue context does not look at the latch. -/
theorem ctx?_unlatched (wid : Nat) : (s.modWarp wid unlatched).ctx? = s.ctx? := by
  obtain ⟨ws, hs⟩ := (TrapPaths.modWarp_moves wid unlatched s).rest
  have hwarp (k : Nat) : (s.modWarp wid unlatched).warp k = s.warp k ∨
      (s.modWarp wid unlatched).warp k = (s.warp k).map unlatched := by
    by_cases hk : k = wid
    · exact .inr (hk ▸ State.modWarp_warp_self ..)
    · exact .inl (s.modWarp_warp_of_ne hk unlatched)
  rw [hs] at hwarp ⊢
  have hturn : ({ s with warps := ws } : State).turn = s.turn := rfl
  have hseq : ({ s with warps := ws } : State).seqAt = s.seqAt := rfl
  have hcore : ({ s with warps := ws } : State).coreOf = s.coreOf := rfl
  unfold State.ctx?
  rw [hturn, hseq, hcore]
  split
  · split
    · rfl
    · rename_i b _
      obtain h | h := hwarp b.wid
      · rw [h]
        rfl
      · rw [h]
        cases s.warp b.wid <;> cases b.run <;> rfl
  · rfl

/-- A warp that holds no fault issues as before. -/
theorem issues_unlatched (h : Issues i s c w) : Issues i (s.modWarp c.wid unlatched) c (unlatched w) where
  ctx := (ctx?_unlatched c.wid).trans h.ctx
  warp := TrapPaths.modWarp_warp h.warp unlatched
  first := h.first
  legal := h.legal
  clean := h.clean
  going L hL := h.going L ((launchOf_modWarp c.wid c.wid).symm.trans hL)

theorem trapReady_unlatched (hw : s.warp c.wid = some w) (h : TrapReady f s c w) :
    TrapReady f (s.modWarp c.wid unlatched) c (unlatched w) where
  slots l hl := by
    have hact := h.slots l hl
    have hgraft : (s.modWarp c.wid unlatched).graftOf = s.graftOf := by
      unfold State.modWarp
      split <;> rfl
    have hwid : (c.at).wid = c.wid := rfl
    unfold State.faultAct at hact ⊢
    rw [hwid] at hact ⊢
    rw [TrapPaths.modWarp_warp hw, hgraft]
    rw [hw] at hact
    exact hact
  spill := by
    rw [State.modWarp_spill, State.jobOf, launchOf_modWarp]
    exact h.spill
  space := by
    rw [modWarp_core]
    exact h.space
  apart := h.apart

/-- A trap that starts once the latch's fault has gone is one of the state before (06 R130). -/
theorem groupTrap_of_unlatched (h : GroupTrap f c b L (s.modWarp c.wid unlatched) t (unlatched w)) :
    GroupTrap f c b L s t (unlatched w) := by
  obtain ⟨ws, hs⟩ := (TrapPaths.modWarp_moves c.wid unlatched s).rest
  have hwarps (k : Nat) (hk : k ≠ c.wid) : t.warp k = s.warp k :=
    (h.warps k hk).trans (s.modWarp_warp_of_ne hk unlatched)
  rw [hs] at h
  exact { h with warps := hwarps, rest := congrArg (fun u : State => { u with warps := s.warps }) h.rest }

end Latch

section Gangs
variable {i : Instr} {s : State} {c : Ctx} {w : Warp} {b : Block} {L : Launch} {f : FaultInfo} {u : USpec}
  {body : Ctx → State → Res}

/-- A fault held for the warp's latch traps, and is held no longer (06 R129, R130). -/
theorem trap_of_latch (h : Issues i s c w) (hb : s.block (blkOf c.wid) = some b) (hL : s.launch b.launch = some L)
    (hfault : w.gangFault = some f) (hr : TrapReady f s c w)
    (hbody : ∀ s0, s.takeGang c = some (f, s0) → body c s = Res.fault c f s0) :
    ∃ t, issue i body s = .next t ∧ GroupTrap f c b L s t { w with gangFault := none } := by
  obtain ⟨t, ht, htrap⟩ := trap_of_fault h (hbody _ (takeGang_of_some h.warp hfault)) (issues_unlatched h)
    (trapReady_unlatched h.warp hr) ((modWarp_block ..).trans hb) ((modWarp_launch ..).trans hL)
  exact ⟨t, ht, groupTrap_of_unlatched htrap⟩

theorem bodyGang_of_latched {s0 : State} (h : s.takeGang c = some (f, s0)) : bodyGang u c s = Res.fault c f s0 := by
  simp only [bodyGang, h]

/-- The mask of a gang: none, or the warp and warps of its block (06 R127). -/
def Fits (m : Word) (w : Warp) (b : Block) : Prop := m = 0 ∨ (m.getLsbD w.num = true ∧ m.toNat < 2 ^ b.nwarps)

theorem fits_iff {m : Word} : ¬ (m ≠ 0 ∧ (m.getLsbD w.num = false ∨ 2 ^ b.nwarps ≤ m.toNat)) ↔ Fits m w b := by
  rw [Fits, not_and_or, not_not, not_or, Bool.not_eq_false, Nat.not_le]

/-- GANG with nothing pending: its mask is no gang, or becomes the warp's (06 R127; 17 R365). -/
theorem bodyGang_of_calm (hw : s.warp c.wid = some w) (hb : s.block (blkOf c.wid) = some b) (hcalm : w.gangFault = none)
    (hnone : w.arrivals = []) : bodyGang u c s =
      if s.rdU c u ≠ 0 ∧ ((s.rdU c u).getLsbD w.num = false ∨ 2 ^ b.nwarps ≤ (s.rdU c u).toNat) then
        Res.fault c (barFault 5 0) s
      else Res.ok (s.modWarp c.wid fun w => { w with gang := s.rdU c u, arrCount := 0 }) := by
  simp only [bodyGang, takeGang_of_none hw hcalm, hw, hb, hnone, ne_eq, not_true_eq_false, if_false]

end Gangs

section Tiles
variable {s : State} {c : Ctx} {w : Warp} {b : Block} {L : Launch} {f : FaultInfo} {n : Fin 32}

/-- Nothing that names the tile is under way for the warp's TWAIT: no fault of its latch, no arrival of its own, and no
command dispatched up to now or with it (06 R142). -/
structure Quiet (s : State) (c : Ctx) (w : Warp) (b : Block) (tile : Nat) : Prop where
  warp : s.warp c.wid = some w
  first : c.tag = none
  block : s.block (blkOf c.wid) = some b
  bound : tile < b.tiles.length
  calm : w.gangFault = none
  arrivals : ∀ a ∈ w.arrivals, a.tile ≠ tile
  queue : ∀ m ∈ (s.core c.core).mq, m.blk = blkOf c.wid → m.tile = tile → s.tick < m.id ∧ ∀ x ∈ m.warps, x.1 ≠ c.wid

/-- No command keeps such a TWAIT waiting. -/
theorem not_waitsFor (h : Quiet s c w b n.val) :
    (w.arrivals.any (fun a => a.tile == n.val) || (s.core c.core).mq.any (waitsFor c n.val (s.tick + 1))) = false := by
  rw [Bool.or_eq_false_iff, List.any_eq_false, List.any_eq_false]
  refine ⟨fun a ha heq => h.arrivals a ha (beq_iff_eq.1 heq), fun m hm hwait => ?_⟩
  simp only [waitsFor, Bool.and_eq_true, Bool.or_eq_true, beq_iff_eq, decide_eq_true_eq, List.any_eq_true] at hwait
  obtain ⟨⟨hblk, htile⟩, hdue⟩ := hwait
  obtain ⟨hlater, hothers⟩ := h.queue m hm hblk htile
  obtain hdue | ⟨x, hx, heq⟩ := hdue
  · omega
  · exact hothers x hx heq

/-- TWAIT then takes the fault that is pending for its warp at the tile (06 R140). -/
theorem bodyTwait_of_pending {s0 : State} (h : Quiet s c w b n.val) (hp : s.takePending c n.val = some (f, s0)) :
    bodyTwait n c s = Res.fault c f s0 := by
  simp only [bodyTwait, takeGang_of_none h.warp h.calm, tileBad_of_lt h.block h.bound, h.first, h.warp, Option.map_some,
    Option.getD_some, not_waitsFor h, hp, Bool.false_eq_true, if_false]

/-- With none, %lwct takes the largest completion time of the tile's stores (06 R142). -/
theorem bodyTwait_of_none (h : Quiet s c w b n.val) (hp : s.takePending c n.val = none) :
    bodyTwait n c s = Res.ok (s.modWarp c.wid (Warp.raiseLwct ((((s.tile (blkOf c.wid) n.val).tsts.filter
      (fun x => decide (x.id < s.tick + 1) || x.warps.contains c.wid)).map (·.gwct)).foldl max 0))) := by
  simp only [bodyTwait, takeGang_of_none h.warp h.calm, tileBad_of_lt h.block h.bound, h.first, h.warp, Option.map_some,
    Option.getD_some, not_waitsFor h, hp, Bool.false_eq_true, if_false]

/-- A tile without the faults that were pending for a warp. -/
def answered (wid : Nat) (x : Tile) : Tile := { x with pending := x.pending.filter (fun e => e.1 != wid) }

/-- The fault that is pending for a warp at a tile is taken with all that are the warp's. -/
theorem takePending_of_some {tile : Nat}
    (h : ((s.tile (blkOf c.wid) tile).pending.find? (fun e => e.1 == c.wid)).map Prod.snd = some f) :
    s.takePending c tile = some (f, s.modTile (blkOf c.wid) tile (answered c.wid)) := by
  obtain ⟨e, he, rfl⟩ := Option.map_eq_some_iff.1 h
  simp only [State.takePending, he]
  rfl

end Tiles

section Status
variable {s : State} {c : Ctx} {w : Warp} {b : Block} {n : Fin 32} {d : USpec} {clr : Bool}

/-- While no warp of the block has recorded an arrival for the tile, the count is of queued commands (06 R145). -/
theorem pendCount_of_none {core blk tile : Nat}
    (h : ∀ k v, s.warp k = some v → blkOf k = blk → ∀ a ∈ v.arrivals, a.tile ≠ tile) :
    s.pendCount core blk tile =
      min 255 ((s.core core).mq.filter (fun m => m.blk == blk && m.tile == tile)).length := by
  have hnone : (s.warpsOf blk).flatMap (fun x =>
      match s.warp x with
      | some w => (w.arrivals.filter (fun a => a.tile == tile)).map (fun a => w.gang.toNat * 2 ^ 32 + a.ord)
      | none => []) = [] := by
    rw [List.flatMap_eq_nil_iff]
    intro x hx
    split
    · rename_i v hv
      rw [List.map_eq_nil_iff, List.filter_eq_nil_iff]
      exact fun a ha heq => h x v hv (beq_iff_eq.1 (List.mem_filter.1 hx).2) a ha (beq_iff_eq.1 heq)
    · rfl
  exact congrArg (fun l => min 255 (_ + (nubNat [] l).length)) hnone

/-- A tile with its corrections and sticky flags cleared (06 R145). -/
def cleared (x : Tile) : Tile := { x with corr := 0, nv := false, ovf := false, unf := false }

/-- A write of a uniform register and a change of a tile come to the same in either order. -/
theorem modTile_wrU (blk tile : Nat) (g : Tile → Tile) (x : Word) :
    (s.wrU c d x).modTile blk tile g = (s.modTile blk tile g).wrU c d x := by
  cases d with
  | s k =>
    simp only [State.wrU, State.modTile, State.modWarp, State.modBlock]
    cases hw : tget c.wid s.warps <;> cases tget blk s.blocks <;> simp only [hw]
  | _ => rfl

/-- The state in which TSTAT's result is written: with CLR the tile is cleared. -/
def afterClr (clr : Bool) (blk tile : Nat) (s : State) : State := if clr then s.modTile blk tile cleared else s

/-- The fields of a status word, as a number (06 R145). -/
def statusNum (x : Tile) (pend : Nat) : Nat :=
  x.corr * 2 ^ 24 + pend * 2 ^ 16 + x.pcause * 2 ^ 12 + (if x.pcause = 0 then 0 else 2 ^ 11) + (if x.nv then 4 else 0) +
    (if x.ovf then 2 else 0) + (if x.unf then 1 else 0)

theorem loW_statusNum (x : Tile) (pend : Nat) : loW (BitVec.ofNat 64 (statusNum x pend)) = x.status pend := by
  have hflag (p : Bool) (k : Nat) : b2n p * k = if p then k else 0 := by cases p <;> simp [b2n]
  have hcause : b2n (x.pcause != 0) * 2 ^ 11 = if x.pcause = 0 then 0 else 2 ^ 11 := by
    by_cases h : x.pcause = 0 <;> simp [h, b2n]
  have hlow : b2n x.unf = if x.unf then 1 else 0 := rfl
  rw [loW, BitVec.setWidth_ofNat_of_le (by decide), Tile.status, hcause, hflag, hflag, hlow, statusNum]

/-- TSTAT writes one uniform value. -/
theorem bodyTstat_eq (hb : s.block (blkOf c.wid) = some b) (hn : n.val < b.tiles.length) :
    bodyTstat clr d n c s = uniAlu false d (fun _ _ => BitVec.ofNat 64 (statusNum (s.tile (blkOf c.wid) n.val)
      (s.pendCount c.core (blkOf c.wid) n.val))) c (afterClr clr (blkOf c.wid) n.val s) := by
  simp only [bodyTstat, tileBad_of_lt hb hn, Bool.false_eq_true, if_false, uniAlu, State.wrUW, loW_statusNum, afterClr]
  cases clr
  · rfl
  · simp only [if_true]
    exact congrArg Res.ok (modTile_wrU ..)

theorem issues_afterClr {i : Instr} {blk tile : Nat} (h : Issues i s c w) : Issues i (afterClr clr blk tile s) c w := by
  unfold afterClr
  split
  · exact issues_modBlock (fun _ => rfl) (fun _ => rfl) h
  · exact h

end Status

/-- Settles O30: what is pending traps or keeps the instruction waiting; then GANG, TWAIT and TSTAT each make one change
of the warp, and TSTAT one of its tile. -/
theorem gangsAndTileStatus : Obligations.GangsAndTileStatus := by
  unfold Obligations.GangsAndTileStatus
  refine ⟨fun u s c w b h hb hcalm hnone => ?gang, fun u f s c w b L h hb hL hfault hr => ?latch,
    fun n s c w b h hb hn hcalm harr hq => ?twait, fun clr d n s c w b h hb hn => ?tstat⟩
  case gang =>
    have hbody := bodyGang_of_calm (u := u) h.warp hb hcalm hnone
    refine ⟨fun hfits => ?_, fun L hfits hL hr => ?_⟩
    · exact done_of_modWarp h (hbody.trans (if_neg (fits_iff.2 hfits))) rfl
    · exact issue_fault h hr hb hL (hbody.trans (if_pos (not_not.1 (mt fits_iff.1 hfits))))
  case latch => exact trap_of_latch h hb hL hfault hr fun s0 h0 => bodyGang_of_latched h0
  case twait =>
    have hquiet : Quiet s c w b n.val := ⟨h.warp, h.first, hb, hn, hcalm, harr, hq⟩
    refine ⟨fun hnone => ?_, fun f L hf hL hr => ?_⟩
    · have hbody := bodyTwait_of_none hquiet (takePending_of_none hnone)
      simp only [Nat.lt_succ_iff] at hbody
      exact done_of_modWarp h hbody rfl
    · have hblock : (s.modTile (blkOf c.wid) n.val (answered c.wid)).block (blkOf c.wid) = _ :=
        (State.modBlock_block_self ..).trans (congrArg _ hb)
      obtain ⟨t, ht, htrap⟩ := trap_of_fault h (bodyTwait_of_pending hquiet (takePending_of_some hf))
        (issues_modBlock (fun _ => rfl) (fun _ => rfl) h) (trapReady_modBlock (fun _ => rfl) hr) hblock
        ((congrFun launch_modBlock _).trans hL)
      exact ⟨t, _, ht, hblock, htrap⟩
  case tstat =>
    intro tile queued hnone status
    obtain ⟨t, ht, hdone⟩ := uniAlu_done (issues_afterClr (clr := clr) h) false d fun _ _ =>
      BitVec.ofNat 64 (statusNum tile (s.pendCount c.core (blkOf c.wid) n.val))
    rw [issue_eq (issues_afterClr h), ← bodyTstat_eq hb hn, ← issue_eq h] at ht
    rw [pendCount_of_none hnone] at hdone
    exact ⟨t, ht, hdone⟩

end Sys2Proof.Machine.MatrixCommands
end

section
/-!
PROOFS. MatrixExecution speaks of every state, and so of states whose table of blocks lists a number twice. The end of
a matrix command releases the completed blocks, and where the first entry of a number goes, the second answers for its
tiles.
-/

namespace Sys2Proof.Machine.Repeats

theorem exec_tileTransferComplete (core idx : Nat) (s : State) :
    exec (.tileTransferComplete core idx) s = .next (evTileTransferComplete core idx s).finish := rfl

/-- A TZERO of tile 0 of block 0, started (06 R141). -/
def zeroCmd : MCmd :=
  { id := 0, op := .tzero, blk := 0, tile := 0, da := 0, db := 0, fmt := 0, warps := [], priv := false, stage := .started,
    abytes := [], bbytes := [], early := [], units := 0, gwct := 0, bad := none }

/-- Block 0 of launch 0, with one tile. -/
def tiledBlock : Block := { plainBlock 0 false with tiles := [Tile.init] }

/-- Block number 1 is listed twice: a completed block, then one that runs, whose tile 0 has had a correction. The
TZERO of block 0 is the one command of core 0. -/
def tileTwiceState : State :=
  { State.reset with
    blocks := [(0, tiledBlock), (1, plainBlock 1 true), (1, { plainBlock 2 false with tiles := [{ Tile.init with corr := 1 }] })],
    cores := [(0, { Core.init with mq := [zeroCmd] })] }

/-- The end of the TZERO releases the completed block 1 (17 R356), and the corrected tile is what the number then names. -/
theorem tileTransferComplete_tileTwiceState_corr :
    ((evTileTransferComplete 0 0 tileTwiceState).block 1).isSome = true ∧
      ((evTileTransferComplete 0 0 tileTwiceState).tile 1 0).corr = 1 := by
  decide +kernel

theorem tileTwiceState_corr : (tileTwiceState.tile 1 0).corr = 0 := by decide +kernel

/-- Refutes O31: its clause of TILE_TRANSFER_COMPLETE admits a table of blocks that lists a number twice, where the end
of a TZERO of another block changes the tile that the number names. -/
theorem not_matrixExecution : ¬ Obligations.MatrixExecution := by
  unfold Obligations.MatrixExecution
  rintro ⟨-, -, htransfer⟩
  obtain ⟨hzero, -⟩ := htransfer 0 0 zeroCmd tileTwiceState tiledBlock rfl rfl rfl rfl rfl (by decide)
  obtain ⟨t, ht, ⟨-, -, -, -, -, htiles⟩, -⟩ := hzero (.inl rfl)
  obtain ⟨hlisted, hcorr⟩ := tileTransferComplete_tileTwiceState_corr
  obtain rfl := Host.Outcome.next.inj ((exec_tileTransferComplete 0 0 tileTwiceState).symm.trans ht)
  have hsame : (evTileTransferComplete 0 0 tileTwiceState).tile 1 0 = tileTwiceState.tile 1 0 :=
    htiles 1 0 (by decide) hlisted
  rw [hsame, tileTwiceState_corr] at hcorr
  cases hcorr

end Sys2Proof.Machine.Repeats
end

section
/-!
PROOFS. Memory's canonical form (log entry 4; 07 R146; 08 R178): what the operations of the machine leave of
memory. An operation that writes no byte leaves it as it is (`_mem`); one that writes keeps the form (`_wf`).
-/

set_option Elab.async false

namespace Sys2Proof.Machine

/-- An issue turn's preparation holds a state whose memory has the canonical form. -/
def Prep.MemWf : Prep → Prop
  | .exec _ s => Memory.wf s.mem = true
  | .done s => Memory.wf s.mem = true

/-- A drain step of a call that goes on or ends holds such a state. -/
def CallStep.MemWf : CallStep → Prop
  | .on _ s => Memory.wf s.mem = true
  | .stay => True
  | .ended _ s => Memory.wf s.mem = true

/-- A save that is made or ends with a fault holds such a state. -/
def SaveRes.MemWf : SaveRes → Prop
  | .ok s => Memory.wf s.mem = true
  | .wait => True
  | .bad _ s => Memory.wf s.mem = true

end Sys2Proof.Machine

namespace Sys2Proof.Machine.MemoryForm

/-- What each step of a fold leaves alone, the fold leaves alone. -/
theorem foldl_kept {σ α β : Type} (g : σ → β) {f : σ → α → σ} (hf : ∀ t a, g (f t a) = g t) (l : List α) (s : σ) :
    g (l.foldl f s) = g s :=
  List.foldlRecOn l f (motive := fun t => g t = g s) rfl fun t ht a _ => (hf t a).trans ht

theorem foldl_mem {α : Type} {f : State → α → State} (hf : ∀ t a, (f t a).mem = t.mem) (l : List α) (s : State) :
    (l.foldl f s).mem = s.mem := foldl_kept State.mem hf l s

theorem foldl_wf {α : Type} {f : State → α → State} (hf : ∀ t a, Memory.wf t.mem → Memory.wf (f t a).mem) {l : List α}
    {s : State} (h : Memory.wf s.mem) : Memory.wf (l.foldl f s).mem :=
  List.foldlRecOn l f (motive := fun t => Memory.wf t.mem) h fun t ht a _ => hf t a ht

/-- The effect of a warp instruction keeps memory's canonical form. -/
def KeepsForm (body : Ctx → State → Res) : Prop :=
  ∀ c s, Memory.wf s.mem = true → Memory.wf (body c s).s.mem = true

theorem KeepsForm.of_mem {body : Ctx → State → Res} (h : ∀ c s, (body c s).s.mem = s.mem) : KeepsForm body :=
  fun c s hs => (congrArg Memory.wf (h c s)).trans hs

@[simp] theorem free_mem (s : State) : s.free.2.mem = s.mem := rfl

@[simp] theorem setReg64_mem (off : Nat) (v : DWord) (s : State) : (s.setReg64 off v).mem = s.mem := rfl

@[simp] theorem setRegF_mem (off lo w v : Nat) (s : State) : (s.setRegF off lo w v).mem = s.mem := rfl

@[simp] theorem raise_mem (v : Nat) (s : State) : (s.raise v).mem = s.mem := by
  unfold State.raise
  split <;> rfl

@[simp] theorem record_mem (k : Nat) (s : State) : (s.record k).mem = s.mem := rfl

@[simp] theorem setPoison_mem (loc : Nat) (s : State) : (s.setPoison loc).mem = s.mem := rfl

@[simp] theorem trainPred_mem (core line : Nat) (s : State) : (s.trainPred core line).mem = s.mem := rfl

@[simp] theorem grantLease_mem (line : Nat) (s : State) : (s.grantLease line).2.mem = s.mem := by
  rw [State.grantLease, recall_mem]

theorem performUnits_wf (us : List (Nat × Nat)) (bs : List Byte) (g : Nat) {s : State} (h : Memory.wf s.mem) :
    Memory.wf (State.performUnits us bs g s).2.mem := by
  induction us generalizing bs g s with
  | nil => exact h
  | cons u r ih => exact ih _ _ (perform_wf s none u.1 _ h)

theorem vWrite_wf (v : Via) (va : Nat) (bs : List Byte) {s : State} (h : Memory.wf s.mem) :
    Memory.wf (s.vWrite v va bs).2.mem := by
  unfold State.vWrite
  grind [performUnits_wf]

@[simp] theorem fetchLine_mem (line : Nat) (s : State) : (s.fetchLine line).2.mem = s.mem := by
  rw [State.fetchLine, grantLease_mem]

@[simp] theorem l1Fill_mem (core line : Nat) (s : State) : (s.l1Fill core line).mem = s.mem := by
  simp only [State.l1Fill, fetchLine_mem, State.modCore_mem]

@[simp] theorem ccLine_mem (core line : Nat) (s : State) : (s.ccLine core line).2.mem = s.mem := by
  unfold State.ccLine
  grind [fetchLine_mem, State.modCore_mem]

@[simp] theorem refresh_mem (core line : Nat) (s : State) : (s.refresh core line).mem = s.mem := rfl

@[simp] theorem recheck_mem (core : Nat) (wid : Option Nat) (s : State) : (s.recheck core wid).mem = s.mem := rfl

@[simp] theorem recheckMeet_mem (core wid : Nat) (seq : Option (BitVec 8)) (rs : List (Nat × Nat × Nat)) (s : State) :
    (s.recheckMeet core wid seq rs).mem = s.mem := rfl

@[simp] theorem dropLeases_mem (core : Nat) (s : State) : (s.dropLeases core).mem = s.mem := rfl

@[simp] theorem weakLoad_mem (core wid lane : Nat) (p : Phys) (n : Nat) (s : State) :
    (s.weakLoad core wid lane p n).2.mem = s.mem := by
  unfold State.weakLoad
  grind [ccLine_mem]

@[simp] theorem strongLoad_mem (core : Nat) (p : Phys) (n : Nat) (s : State) : (s.strongLoad core p n).2.mem = s.mem := by
  unfold State.strongLoad
  grind [recallFrom_mem, refresh_mem]

@[simp] theorem wrScratch_mem (p : Place) (bs : List Byte) (s : State) : (s.wrScratch p bs).mem = s.mem := by
  unfold State.wrScratch
  split <;> rfl

@[simp] theorem wrKey_mem (loc : Nat) (bs : List Byte) (s : State) : (s.wrKey loc bs).mem = s.mem := by
  unfold State.wrKey
  split <;> rfl

@[simp] theorem wrU_mem (c : Ctx) (u : USpec) (x : Word) (s : State) : (s.wrU c u x).mem = s.mem := by
  unfold State.wrU
  grind [State.modWarp_mem]

@[simp] theorem wrU64_mem (c : Ctx) (u : USpec) (x : DWord) (s : State) : (s.wrU64 c u x).mem = s.mem := by
  unfold State.wrU64
  grind [State.modWarp_mem]

@[simp] theorem entryBytes_mem (e : QEntry) (s : State) : (s.entryBytes e).2.mem = s.mem := by
  unfold State.entryBytes
  grind

theorem ringWrite_wf (job core t : Nat) (bs : List (List Byte)) {s : State} (h : Memory.wf s.mem) :
    Memory.wf (State.ringWrite job core t bs s).2.mem := by
  induction bs generalizing t s with
  | nil => exact h
  | cons b r ih => unfold State.ringWrite; grind [vWrite_wf]

theorem placeEntry_wf {core job : Nat} {e : QEntry} {s t : State} (h : Memory.wf s.mem)
    (hr : s.placeEntry core job e = .ok t) : Memory.wf t.mem := by
  unfold State.placeEntry at hr
  grind [State.modCore_mem, entryBytes_mem, ringWrite_wf]

@[simp] theorem unbind_mem (wid : Nat) (m : Mask) (s : State) : (s.unbind wid m).mem = s.mem := by
  rw [State.unbind, State.modWarp_mem, State.modCore_mem]

@[simp] theorem addParked_mem (a : FaultAt) (m : Mask) (r : FaultRec) (st : ParkSt) (s : State) :
    (s.addParked a m r st).mem = s.mem := by
  rw [State.addParked, unbind_mem, State.modWarp_mem]

theorem deliver_wf (a : FaultAt) (m : Mask) (f : FaultInfo) {s : State} (h : Memory.wf s.mem) :
    Memory.wf (s.deliver a m f).mem := by
  unfold State.deliver
  grind [State.modLaunch_mem, addParked_mem, placeEntry_wf]

@[simp] theorem enterGraft_mem (a : FaultAt) (m : Mask) (slot n : Nat) (words : List Word) (last : Bool)
    (rec : Option FaultRec) (s : State) : (s.enterGraft a m slot n words last rec).mem = s.mem := by
  simp only [State.enterGraft, unbind_mem, State.modWarp_mem]

@[simp] theorem emulateFault_mem (a : FaultAt) (n : Nat) (last : Bool) (ls : List (Nat × Nat × FaultInfo)) (s : State) :
    (s.emulateFault a n last ls).mem = s.mem := by
  unfold State.emulateFault
  grind [enterGraft_mem, addParked_mem]

theorem takeFaults_wf (a : FaultAt) (n : Nat) (last : Bool) (fs : List (Nat × FaultInfo)) {s : State}
    (h : Memory.wf s.mem) : Memory.wf (s.takeFaults a n last fs).mem := by
  unfold State.takeFaults
  refine foldl_wf (fun t c ht => ?_) (foldl_wf (fun t c ht => ?_) ?_)
  · rwa [foldl_mem fun _ _ => emulateFault_mem ..]
  · grind [deliver_wf]
  · rwa [State.modWarp_mem]

@[simp] theorem graftNext_mem (wid : Nat) (s : State) : (s.graftNext wid).mem = s.mem := by
  unfold State.graftNext
  grind [State.modWarp_mem, enterGraft_mem]

@[simp] theorem enterHandler_mem (wid : Nat) (s : State) : (s.enterHandler wid).mem = s.mem := by
  rw [State.enterHandler, State.modWarp_mem]

@[simp] theorem leaveHandler_mem (wid : Nat) (m : Mask) (s : State) : (s.leaveHandler wid m).mem = s.mem := by
  rw [State.leaveHandler, State.modWarp_mem]

@[simp] theorem leaveGraft_mem (wid : Nat) (m : Mask) (s : State) : (s.leaveGraft wid m).mem = s.mem := by
  rw [State.leaveGraft, graftNext_mem, State.modWarp_mem]

theorem faultWaiting_wf (wid : Nat) (m : Mask) (f : FaultInfo) {s : State} (h : Memory.wf s.mem) :
    Memory.wf (s.faultWaiting wid m f).mem := by
  unfold State.faultWaiting
  split
  · exact h
  · exact foldl_wf (fun t p ht => takeFaults_wf _ _ _ _ ht) h

theorem rejoinCheck_wf (wid : Nat) {s : State} (h : Memory.wf s.mem) : Memory.wf (s.rejoinCheck wid).mem := by
  unfold State.rejoinCheck
  grind [State.modWarp_mem, faultWaiting_wf]

@[simp] theorem setBarrier_mem (wid : Nat) (cl : Bool) (inst : Nat) (x : Barrier) (s : State) :
    (s.setBarrier wid cl inst x).mem = s.mem := by
  unfold State.setBarrier
  grind [State.modBlock_mem]

@[simp] theorem dropBar_mem (cl : Bool) (inst : Nat) (u : Nat × Nat) (s : State) : (s.dropBar cl inst u).mem = s.mem := by
  rw [State.dropBar, State.modWarp_mem]

@[simp] theorem releaseUnit_mem (cl : Bool) (inst : Nat) (u : Nat × Nat) (s : State) : (s.releaseUnit cl inst u).mem = s.mem := by
  unfold State.releaseUnit
  grind [State.modWarp_mem, dropBar_mem, dropLeases_mem, recheck_mem]

theorem faultUnit_wf (cl : Bool) (inst : Nat) (u : Nat × Nat) {s : State} (h : Memory.wf s.mem) :
    Memory.wf (s.faultUnit cl inst u).mem := by
  unfold State.faultUnit
  grind [faultWaiting_wf, dropBar_mem]

theorem tryArrive_wf (cl : Bool) (inst : Nat) (u : Nat × Nat) {s : State} (h : Memory.wf s.mem) :
    Memory.wf (s.tryArrive cl inst u).mem := by
  have hrel (us : List (Nat × Nat)) (s : State) : (us.foldl (fun s v => s.releaseUnit cl inst v) s).mem = s.mem :=
    foldl_mem (fun _ _ => releaseUnit_mem ..) us s
  unfold State.tryArrive
  grind [faultUnit_wf, setBarrier_mem, State.modWarp_mem]

theorem unreachable_wf (wid : Nat) (cl : Bool) (inst : Nat) {s : State} (h : Memory.wf s.mem) :
    Memory.wf (s.unreachable wid cl inst).mem := by
  have hall (us : List (Nat × Nat)) : Memory.wf (us.foldl (fun s u => s.faultUnit cl inst u) s).mem :=
    foldl_wf (fun t u ht => faultUnit_wf _ _ _ ht) h
  unfold State.unreachable
  grind [setBarrier_mem]

@[simp] theorem wsyncCheck_mem (wid k : Nat) (s : State) : (s.wsyncCheck wid k).mem = s.mem := by
  unfold State.wsyncCheck
  grind [recheck_mem, State.modWarp_mem]

@[simp] theorem gangExit_mem (wid : Nat) (s : State) : (s.gangExit wid).mem = s.mem := by
  unfold State.gangExit
  split <;> rfl

@[simp] theorem unskip_mem (s : State) : s.unskip.mem = s.mem := rfl

@[simp] theorem sweep_mem (s : State) : s.sweep.mem = s.mem := by
  unfold State.sweep
  grind [unskip_mem]

@[simp] theorem blockCheck_mem (blk : Nat) (byExit : Bool) (s : State) : (s.blockCheck blk byExit).mem = s.mem := by
  unfold State.blockCheck
  grind [State.modBlock_mem, sweep_mem, State.modLaunch_mem]

@[simp] theorem dropPackets_mem (p : Nat → Bool) (s : State) : (s.dropPackets p).mem = s.mem := rfl

theorem exitLanes_wf (wid : Nat) (m : Mask) {s : State} (h : Memory.wf s.mem) :
    Memory.wf (s.exitLanes wid m).mem := by
  unfold State.exitLanes
  rw [blockCheck_mem]
  refine rejoinCheck_wf _ (foldl_wf (fun t i ht => unreachable_wf _ _ _ ht)
    (foldl_wf (fun t i ht => unreachable_wf _ _ _ ht) (foldl_wf (fun t k ht => ?_) ?_)))
  · grind [tryArrive_wf]
  · grind [dropPackets_mem, gangExit_mem, wsyncCheck_mem, leaveGraft_mem, leaveHandler_mem, State.modWarp_mem, unbind_mem]

@[simp] theorem acquire_mem (core wid : Nat) (sc : Scope) (s : State) : (s.acquire core wid sc).mem = s.mem := by
  unfold State.acquire
  split <;> rfl

@[simp] theorem ackNow_mem (later : Bool) (core wid lane loc g : Nat) (va : DWord) (s : State) :
    (s.ackNow later core wid lane loc g va).mem = s.mem := by
  unfold State.ackNow
  grind [refresh_mem, State.modCore_mem, State.modLaunch_mem, State.modWarp_mem]

@[simp] theorem forgetLost_mem (wid : Nat) (m : Mask) (s : State) : (s.forgetLost wid m).mem = s.mem := rfl

end Sys2Proof.Machine.MemoryForm
end

section
/-!
PROOFS. Memory under the operations of launches, of the issue path and of the effects of warp instructions
that move memory or control (01 R30; 03 R80; 04 R83 to R100).
-/

set_option Elab.async false

namespace Sys2Proof.Machine.MemoryForm

@[simp] theorem modPhase_mem (job num : Nat) (f : Phase → Phase) (s : State) : (s.modPhase job num f).mem = s.mem := rfl

@[simp] theorem phaseCheck_mem (job num : Nat) (s : State) : (s.phaseCheck job num).mem = s.mem := by
  unfold State.phaseCheck
  grind [State.setReg_mem, setRegF_mem]

@[simp] theorem advanceDone_mem (q n : Nat) (s : State) : (State.advanceDone q n s).mem = s.mem := by
  induction n generalizing s with
  | zero => rfl
  | succ n ih => unfold State.advanceDone; grind [State.modQueue_mem, State.setReg_mem]

@[simp] theorem pktDone_mem (q n : Nat) (s : State) : (s.pktDone q n).mem = s.mem := by
  unfold State.pktDone
  grind [State.modQueue_mem, raise_mem, advanceDone_mem]

@[simp] theorem graphCheckDone_mem (g : Nat) (s : State) : (s.graphCheckDone g).mem = s.mem := by
  unfold State.graphCheckDone
  grind [phaseCheck_mem, modPhase_mem, pktDone_mem]

@[simp] theorem newGraph_mem (job q : Nat) (pkt : Option Nat) (count : Nat) (s : State) :
    (s.newGraph job q pkt count).2.mem = s.mem := rfl

@[simp] theorem markReady_mem (s : State) : s.markReady.mem = s.mem := rfl

@[simp] theorem placeBlock_mem (l : Launch) (cluster rank core : Nat) (s : State) :
    (s.placeBlock l cluster rank core).mem = s.mem := by
  unfold State.placeBlock
  grind [dropLeases_mem, State.modLaunch_mem, State.setReg_mem]

theorem placeOn_mem {l : Launch} {cluster d n rank : Nat} {s t : State}
    (h : State.placeOn l cluster d n rank s = some t) : t.mem = s.mem := by
  induction n generalizing rank s with
  | zero => cases h; rfl
  | succ n ih => unfold State.placeOn at h; grind [placeBlock_mem]

theorem placeCluster_mem {l : Launch} {s t : State} (h : s.placeCluster l = some t) : t.mem = s.mem := by
  obtain ⟨d, -, hd⟩ := List.exists_of_findSome?_eq_some h
  obtain ⟨u, hu, rfl⟩ := Option.map_eq_some_iff.1 hd
  rw [State.modLaunch_mem]
  change u.mem = s.mem
  exact placeOn_mem hu

theorem placeAll_mem {lid n : Nat} {s t : State} (h : State.placeAll lid n s = some t) : t.mem = s.mem := by
  induction n generalizing s with
  | zero => cases h; rfl
  | succ n ih => unfold State.placeAll at h; grind [placeCluster_mem]

theorem placeNext_mem {lid : Nat} {s t : State} (hr : s.placeNext lid = some t) : t.mem = s.mem := by
  unfold State.placeNext at hr
  grind [placeAll_mem, placeCluster_mem]

@[simp] theorem dropWaiter_mem (wid : Nat) (s : State) : (s.dropWaiter wid).mem = s.mem := by
  rw [State.dropWaiter, State.modBlock_mem]

@[simp] theorem dropCopies_mem (lid : Nat) (s : State) : (s.dropCopies lid).mem = s.mem := rfl

@[simp] theorem stopWarp_mem (wid : Nat) (s : State) : (s.stopWarp wid).mem = s.mem := by
  unfold State.stopWarp
  grind [dropPackets_mem, dropWaiter_mem, unbind_mem, dropCopies_mem, State.modBlock_mem, State.modWarp_mem, blockCheck_mem]

@[simp] theorem dropSaved_mem (lid : Nat) (s : State) : (s.dropSaved lid).mem = s.mem := rfl

@[simp] theorem cancelOne_mem (lid : Nat) (st : BitVec 16) (s : State) : (s.cancelOne lid st).mem = s.mem := by
  have hstop (ws : List Nat) (s : State) :
      (ws.foldl (fun s w => if s.isBound w || s.lnxPending w then s else s.stopWarp w) s).mem = s.mem :=
    foldl_mem (fun t w => by grind [stopWarp_mem]) ws s
  have htail (ls : List (Nat × Launch)) (s : State) : (ls.foldl (fun s e => s.modLaunch e.1 (fun L =>
      { L.end stCancelled with cancelled := true })) s).mem = s.mem :=
    foldl_mem (fun _ _ => State.modLaunch_mem ..) ls s
  unfold State.cancelOne
  grind [State.modLaunch_mem, dropCopies_mem, dropSaved_mem]

@[simp] theorem cancelLaunch_mem (lid : Nat) (s : State) : (s.cancelLaunch lid).mem = s.mem := by
  rw [State.cancelLaunch, cancelOne_mem]

@[simp] theorem cancelGraph_mem (g : Nat) (s : State) : (s.cancelGraph g).mem = s.mem := by
  unfold State.cancelGraph
  rw [foldl_mem fun _ _ => cancelLaunch_mem .., State.modGraph_mem]

@[simp] theorem cancelPhase_mem (job num : Nat) (s : State) : (s.cancelPhase job num).mem = s.mem :=
  foldl_mem (fun _ _ => cancelGraph_mem ..) _ s

@[simp] theorem cancelJob_mem (j : Nat) (s : State) : (s.cancelJob j).mem = s.mem := by
  unfold State.cancelJob
  split
  · rfl
  · rw [setRegF_mem, foldl_mem fun _ _ => cancelGraph_mem ..]

@[simp] theorem stopIfCancelled_mem (wid : Nat) (s : State) : (s.stopIfCancelled wid).mem = s.mem := by
  unfold State.stopIfCancelled
  grind [stopWarp_mem]

@[simp] theorem wrUW_mem (c : Ctx) (w64 : Bool) (u : USpec) (x : DWord) (s : State) : (s.wrUW c w64 u x).mem = s.mem := by
  unfold State.wrUW
  grind [wrU64_mem, wrU_mem]

@[simp] theorem fetchWord_mem (core asid : Nat) (priv inGraft : Bool) (gen : Nat) (va : DWord) (s : State) :
    (s.fetchWord core asid priv inGraft gen va).2.mem = s.mem := by
  unfold State.fetchWord
  grind [ccLine_mem]

@[simp] theorem fetchWords_mem (core asid : Nat) (priv inGraft : Bool) (gen n : Nat) (va : DWord) (s : State) :
    (State.fetchWords core asid priv inGraft gen n va s).2.mem = s.mem := by
  induction n generalizing va s with
  | zero => rfl
  | succ n ih => unfold State.fetchWords; grind [fetchWord_mem]

@[simp] theorem runAt_mem (core asid : Nat) (priv inGraft : Bool) (gen : Nat) (p : DWord) (fuel n : Nat) (ws : List Word)
    (q : DWord) (s : State) : (State.runAt core asid priv inGraft gen p fuel n ws q s).2.mem = s.mem := by
  induction fuel generalizing n ws q s with
  | zero => rfl
  | succ fuel ih => unfold State.runAt; grind [fetchWord_mem, fetchWords_mem]

@[simp] theorem setSeq_mem (core part seq : Nat) (b : Option Binding) (s : State) : (s.setSeq core part seq b).mem = s.mem := rfl

@[simp] theorem bindGroup_mem (core part seq wid : Nat) (m : Mask) (s : State) : (s.bindGroup core part seq wid m).mem = s.mem := by
  unfold State.bindGroup
  split <;> rfl

@[simp] theorem freeSeq_mem (core part seq : Nat) (s : State) : (s.freeSeq core part seq).mem = s.mem := rfl

@[simp] theorem settle_mem (core part seq wid : Nat) (s : State) : (s.settle core part seq wid).mem = s.mem := by
  unfold State.settle
  grind [State.modWarp_mem, freeSeq_mem, stopIfCancelled_mem]

@[simp] theorem advance_mem (c : Ctx) (m : Mask) (s : State) : (s.advance c m).mem = s.mem := by
  rw [State.advance, State.modWarp_mem]

@[simp] theorem jumpTo_mem (c : Ctx) (m : Mask) (x : List (Nat × DWord)) (s : State) : (s.jumpTo c m x).mem = s.mem := by
  rw [State.jumpTo, State.modWarp_mem]

@[simp] theorem park2wait_mem (c : Ctx) (tag : WaitTag) (s : State) : (s.park2wait c tag).mem = s.mem := by
  unfold State.park2wait
  grind [State.modWarp_mem, freeSeq_mem]

@[simp] theorem noteStart_mem (wid : Nat) (s : State) : (s.noteStart wid).mem = s.mem := by
  unfold State.noteStart
  grind [State.modLaunch_mem]

@[simp] theorem noteDone_mem (i : Instr) (c : Ctx) (m : Mask) (s : State) : (s.noteDone i c m).mem = s.mem := by
  unfold State.noteDone
  grind [State.modWarp_mem, State.modCore_mem, noteStart_mem]

theorem applyRes_wf (i : Instr) (c : Ctx) (pre : List (Nat × FaultInfo)) {r : Res} (h : Memory.wf r.s.mem) :
    Memory.wf (applyRes i c pre r).mem := by
  unfold applyRes
  grind [settle_mem, takeFaults_wf, noteDone_mem, advance_mem, jumpTo_mem, park2wait_mem]

@[simp] theorem clearTag_mem (c : Ctx) (s : State) : (s.clearTag c).mem = s.mem := by
  unfold State.clearTag
  split <;> rfl

@[simp] theorem countMismatch_mem (core lid : Nat) (cls : MisClass) (stall : Bool) (s : State) :
    (s.countMismatch core lid cls stall).mem = s.mem := by
  unfold State.countMismatch
  grind [State.modCore_mem, State.modLaunch_mem, Packets.failCore_mem]

@[simp] theorem discard_mem (core part : Nat) (s : State) : (s.discard core part).mem = s.mem := rfl

@[simp] theorem mismatch_mem (core part lid : Nat) (cls : MisClass) (stall : Bool) (s : State) :
    (s.mismatch core part lid cls stall).mem = s.mem := by
  rw [State.mismatch, countMismatch_mem, discard_mem]

theorem instrRes_wf (i : Instr) {body : Ctx → State → Res} (hb : KeepsForm body) (c : Ctx) (w : Warp) {s : State}
    (h : Memory.wf s.mem) : Memory.wf (instrRes i body c w s).2.1.s.mem := by
  have htag : Memory.wf (s.clearTag c).mem := by rwa [clearTag_mem]
  unfold instrRes
  split
  · exact hb _ _ htag
  split
  · exact h
  dsimp only
  split
  · exact hb _ _ h
  split
  · exact h
  · exact hb _ _ h

theorem runInstr_wf (i : Instr) {body : Ctx → State → Res} (hb : KeepsForm body) (c : Ctx) {s : State}
    (h : Memory.wf s.mem) : Memory.wf (s.runInstr i body c).mem := by
  unfold State.runInstr
  split
  · exact h
  rename_i w hw
  have hr := instrRes_wf i hb c w h
  dsimp only
  split
  · exact applyRes_wf _ _ _ (by rwa [mismatch_mem])
  · exact applyRes_wf _ _ _ hr

theorem issue_wf (i : Instr) {body : Ctx → State → Res} (hb : KeepsForm body) {s t : State} (h : Memory.wf s.mem)
    (ht : issue i body s = .next t) : Memory.wf t.mem := by
  unfold issue at ht
  split at ht
  · cases ht
  · cases ht
    exact runInstr_wf i hb _ h

theorem fetchFault_wf (core part seq : Nat) (b : Binding) (f : FaultInfo) (words : Word × Word) {s : State}
    (h : Memory.wf s.mem) : Memory.wf (s.fetchFault core part seq b f words).2.mem := by
  unfold State.fetchFault
  grind [freeSeq_mem, settle_mem, takeFaults_wf]

@[simp] theorem segFault_mem (code : Nat) (s : State) : (s.segFault code).2.mem = s.mem := by
  unfold State.segFault
  split <;> rfl

theorem claimSegment_wf (core part seq seg : Nat) (b : Binding) (l : Launch) (va : Nat) (priv : Bool) {s : State}
    (h : Memory.wf s.mem) : Memory.wf (s.claimSegment core part seq seg b l va priv).2.mem := by
  unfold State.claimSegment
  grind [fetchFault_wf, freeSeq_mem, perform_mem, ackNow_mem, Memory.wf_wrMem]

theorem tryEnterSegment_wf (core part seq seg : Nat) (b : Binding) {s : State} (h : Memory.wf s.mem) :
    Memory.wf (s.tryEnterSegment core part seq seg b).2.mem := by
  have hacq : Memory.wf (s.acquire core b.wid .pkg).mem := by rwa [acquire_mem]
  have hfault (code : Nat) : Memory.wf ((s.acquire core b.wid .pkg).segFault code).2.mem := by rwa [segFault_mem]
  unfold State.tryEnterSegment
  split
  · dsimp only
    split
    · exact fetchFault_wf _ _ _ _ _ _ h
    · exact h
    · split
      · exact fetchFault_wf _ _ _ _ _ _ h
      · generalize leNat _ = x
        split
        · rwa [setSeq_mem, State.modWarp_mem]
        · exact fetchFault_wf _ _ _ _ _ _ (hfault _)
        · rwa [freeSeq_mem]
        · exact claimSegment_wf _ _ _ _ _ _ _ _ hacq
  · exact h

theorem startRun_wf (core part seq : Nat) (b : Binding) {s : State} (h : Memory.wf s.mem) :
    Memory.wf (s.startRun core part seq b).2.mem := by
  unfold State.startRun
  grind [freeSeq_mem, tryEnterSegment_wf, fetchFault_wf, runAt_mem, State.modWarp_mem, setSeq_mem]

theorem groupFault_wf (c : Ctx) (f : FaultInfo) {s : State} (h : Memory.wf s.mem) : Memory.wf (s.groupFault c f).mem := by
  unfold State.groupFault
  grind [settle_mem, takeFaults_wf]

@[simp] theorem emulateInstr_mem (c : Ctx) (k : Nat) (s : State) : (s.emulateInstr c k).mem = s.mem := by
  unfold State.emulateInstr
  grind [State.modWarp_mem, unbind_mem, enterGraft_mem, settle_mem]

theorem prepCtx_wf (c : Ctx) {s : State} (h : Memory.wf s.mem) : (s.prepCtx c).MemWf := by
  unfold State.prepCtx
  grind [Prep.MemWf, groupFault_wf, emulateInstr_mem]

theorem prepare_wf (core part seq : Nat) {s : State} (h : Memory.wf s.mem) : (s.prepare core part seq).MemWf := by
  unfold State.prepare
  split
  · exact h
  rename_i b hb
  split
  · exact h
  have hrun : Memory.wf (if b.run.isSome then (Start.go, s) else s.startRun core part seq b).2.mem := by
    split
    · exact h
    · exact startRun_wf _ _ _ _ h
  generalize (if b.run.isSome then (Start.go, s) else s.startRun core part seq b) = r at hrun ⊢
  dsimp only
  split
  · split
    · rwa [Prep.MemWf, settle_mem]
    · exact prepCtx_wf _ hrun
  · exact hrun

theorem retry_wf (wid k : Nat) {s : State} (h : Memory.wf s.mem) : (s.retry wid k).MemWf := by
  unfold State.retry
  split
  · exact h
  split
  · exact h
  dsimp only
  split
  · exact h
  split
  · exact h
  split
  · rwa [Prep.MemWf, settle_mem, setSeq_mem, State.modWarp_mem]
  · exact prepCtx_wf _ (by rwa [setSeq_mem, State.modWarp_mem])

@[simp] theorem laneStep_mem (c : Ctx) (f : Warp → Nat → Warp → Warp) (s : State) : (laneStep c f s).s.mem = s.mem := by
  simp only [laneStep, Res.ok, State.modWarp_mem]

@[simp] theorem uniAlu_mem (w64 : Bool) (d : USpec) (v : State → Ctx → DWord) (c : Ctx) (s : State) :
    (uniAlu w64 d v c s).s.mem = s.mem := by
  simp only [uniAlu, Res.ok, wrUW_mem]

theorem withRelease_keeps {sc : Scope} {k : Ctx → State → Res} (hk : KeepsForm k) : KeepsForm (withRelease sc k) := by
  intro c s h
  unfold withRelease
  split
  · exact h
  dsimp only
  split
  · exact hk c s h
  split
  · exact h
  · exact hk _ _ h

theorem bodyFence_keeps (ord : Ord4) (sc : Scope) : KeepsForm (bodyFence ord sc) := by
  have hacq : KeepsForm (fun c s => Res.ok (if ordAcq ord then s.acquire c.core c.wid sc else s)) :=
    .of_mem fun c s => by grind [Res.ok, acquire_mem]
  intro c s h
  unfold bodyFence
  dsimp only
  split
  · exact withRelease_keeps hacq c s h
  · exact hacq c s h

@[simp] theorem bodyBra_mem (c : BrCond) (imm : BitVec 25) (x : Ctx) (s : State) : (bodyBra c imm x s).s.mem = s.mem := rfl

@[simp] theorem goLanes_mem (link : Option LSpec) (x : Warp → Nat → DWord) (c : Ctx) (s : State) :
    (goLanes link x c s).s.mem = s.mem := by
  unfold goLanes
  grind [Res.ok, State.modWarp_mem]

@[simp] theorem bodyBrx_mem (rel : Bool) (a : LSpec) (x : Ctx) (s : State) : (bodyBrx rel a x s).s.mem = s.mem := by
  rw [bodyBrx, goLanes_mem]

@[simp] theorem bodyCall_mem (d a : LSpec) (ind : Bool) (imm : BitVec 25) (x : Ctx) (s : State) :
    (bodyCall d a ind imm x s).s.mem = s.mem := by
  rw [bodyCall, goLanes_mem]

@[simp] theorem bodyRet_mem (a : LSpec) (x : Ctx) (s : State) : (bodyRet a x s).s.mem = s.mem := by
  rw [bodyRet, goLanes_mem]

@[simp] theorem bodyUbra_mem (c : BrCond) (imm : BitVec 25) (x : Ctx) (s : State) : (bodyUbra c imm x s).s.mem = s.mem := rfl

@[simp] theorem bodyJarm_mem (n : Fin 16) (m : JMask) (x : Ctx) (s : State) : (bodyJarm n m x s).s.mem = s.mem := by
  unfold bodyJarm
  grind [Res.ok, Res.fault, State.modWarp_mem]

@[simp] theorem bodyJdrop_mem (n : Fin 16) (x : Ctx) (s : State) : (bodyJdrop n x s).s.mem = s.mem := by
  simp only [bodyJdrop, Res.ok, State.modWarp_mem]

@[simp] theorem standHere_mem (c : Ctx) (s : State) : (s.standHere c).mem = s.mem := by
  rw [State.standHere, State.modWarp_mem, unbind_mem]

theorem bodyJwait_wf (n : Fin 16) (x : Ctx) {s : State} (h : Memory.wf s.mem) : Memory.wf (bodyJwait n x s).s.mem := by
  unfold bodyJwait
  grind [State.modWarp_mem, standHere_mem, rejoinCheck_wf]

theorem barrierArrive_wf (cl : Bool) (inst count : Nat) (c : Ctx) {s : State} (h : Memory.wf s.mem) :
    Memory.wf (barrierArrive cl inst count c s).s.mem := by
  unfold barrierArrive
  grind [Res.fault, Res.ok, State.modWarp_mem, standHere_mem, tryArrive_wf]

theorem bodyBar_keeps (inst : Fin 16) (count : USrc) : KeepsForm (bodyBar inst count) :=
  fun c s h => withRelease_keeps (fun _ _ h => barrierArrive_wf _ _ _ _ h) c s h

theorem bodyCbar_keeps (inst : Fin 4) (count : USrc) : KeepsForm (bodyCbar inst count) :=
  fun c s h => withRelease_keeps (fun _ _ h => barrierArrive_wf _ _ _ _ h) c s h

@[simp] theorem wsyncArrive_mem (m : Mask) (c : Ctx) (s : State) : (wsyncArrive m c s).s.mem = s.mem := by
  unfold wsyncArrive
  grind [Res.ok, State.modWarp_mem, standHere_mem, wsyncCheck_mem]

theorem bodyWsync_keeps (b : USpec) : KeepsForm (bodyWsync b) :=
  fun c s h => withRelease_keeps (.of_mem fun _ _ => wsyncArrive_mem ..) c s h

theorem bodyExit_wf (x : Ctx) {s : State} (h : Memory.wf s.mem) : Memory.wf (bodyExit x s).s.mem := by
  unfold bodyExit
  grind [exitLanes_wf, noteStart_mem]

@[simp] theorem bodyYield_mem (x : Ctx) (s : State) : (bodyYield x s).s.mem = s.mem := by
  simp only [bodyYield, Res.ok, State.modWarp_mem]

@[simp] theorem bodyBkpt_mem (x : Ctx) (s : State) : (bodyBkpt x s).s.mem = s.mem := rfl

@[simp] theorem bodyPart_mem (code : Fin 8) (x : Ctx) (s : State) : (bodyPart code x s).s.mem = s.mem := by
  unfold bodyPart
  grind [Res.ok, Res.fault, State.modWarp_mem]

@[simp] theorem bodyHret_mem (target : Option USpec) (x : Ctx) (s : State) : (bodyHret target x s).s.mem = s.mem := by
  unfold bodyHret
  grind [Res.ok, Res.fault, unbind_mem, State.modWarp_mem, leaveHandler_mem]

@[simp] theorem bodyGret_mem (target : Option USpec) (x : Ctx) (s : State) : (bodyGret target x s).s.mem = s.mem := by
  unfold bodyGret
  grind [Res.ok, Res.fault, unbind_mem, graftNext_mem, State.modWarp_mem, leaveGraft_mem]

end Sys2Proof.Machine.MemoryForm
end

section
/-!
PROOFS. Memory under loads, stores, atomics, streams, buffers and copies (07 R164 to R176; 16 R332; 17 R376,
R408).
-/

set_option Elab.async false

namespace Sys2Proof.Machine.MemoryForm

@[simp] theorem readPieces_mem (c : Ctx) (l : Nat) (strong : Bool) (ps : List Piece) (s : State) :
    (State.readPieces c l strong ps s).2.mem = s.mem := by
  induction ps generalizing s with
  | nil => rfl
  | cons p r ih => unfold State.readPieces; grind [strongLoad_mem, weakLoad_mem]

theorem loadGroup_mem {c : Ctx} {strong : Bool} {rs : Reached} {k : Nat → List Byte → State → State}
    (hk : ∀ l bs t, (k l bs t).mem = t.mem) (s : State) : (loadGroup c strong rs k s).s.mem = s.mem := by
  unfold loadGroup
  split
  · rfl
  · dsimp only
    rw [foldl_kept (fun t : List (Nat × FaultInfo) × State => t.2.mem), recheckMeet_mem]
    exact fun t r => by grind [readPieces_mem]

@[simp] theorem storeWrites_mem (c : Ctx) (strong : Bool) (ws : List LaneWrite) (s : State) :
    (s.storeWrites c strong ws).mem = s.mem := foldl_mem (fun _ _ => State.modCore_mem ..) _ _

@[simp] theorem storeGroup_mem (strong : Bool) (rs : Reached) (data : Nat → List Byte) (c : Ctx) (s : State) :
    (storeGroup strong rs data c s).s.mem = s.mem := by
  unfold storeGroup
  grind [Res.wait, recheckMeet_mem, storeWrites_mem]

@[simp] theorem bodyLd_mem (strong acq : Bool) (ty : LdTy) (sc : Option Scope) (m : MemOp) (d : LSpec) (imm : BitVec 16)
    (c : Ctx) (s : State) : (bodyLd strong acq ty sc m d imm c s).s.mem = s.mem := by
  have hload (rs : Reached) : (loadGroup c (strong || acq) rs (fun l bs s =>
      s.modWarp c.wid (Warp.putWords l d (ldWords ty bs))) s).s.mem = s.mem :=
    loadGroup_mem (fun l bs t => State.modWarp_mem ..) s
  unfold bodyLd
  grind [acquire_mem]

theorem bodySt_keeps (strong rel : Bool) (ty : StTy) (sc : Option Scope) (m : MemOp) (d : LSpec) (imm : BitVec 16) :
    KeepsForm (bodySt strong rel ty sc m d imm) := by
  intro c s h
  unfold bodySt
  dsimp only
  split
  · refine withRelease_keeps (fun c s h => ?_) c s h
    split
    · exact h
    · rwa [storeGroup_mem]
  · split
    · exact h
    · rwa [storeGroup_mem]

@[simp] theorem predict_mem (core line : Nat) (s : State) : (s.predict core line).mem = s.mem := by
  unfold State.predict
  grind [State.modCore_mem, trainPred_mem, recall_mem]

theorem atomAt_wf (c : Ctx) (l : Nat) (isRed : Bool) (p : Piece) (f : Nat → Option Nat) {s : State}
    (h : Memory.wf s.mem) : Memory.wf (s.atomAt c l isRed p f).2.mem := by
  unfold State.atomAt
  grind [refresh_mem, recallFrom_mem, predict_mem, perform_mem, ackNow_mem, wrScratch_mem, State.modWarp_mem, Memory.wf_wrMem]

theorem atomGroup_wf {isRed : Bool} {rs : Reached} {f : Nat → Nat → Option Nat} {k : Nat → Nat → State → State}
    (hk : ∀ l old t, (k l old t).mem = t.mem) (c : Ctx) {s : State} (h : Memory.wf s.mem) :
    Memory.wf (atomGroup isRed rs f k c s).s.mem := by
  unfold atomGroup
  split
  · exact h
  · refine List.foldlRecOn _ _ (motive := fun t : List (Nat × FaultInfo) × State => Memory.wf t.2.mem)
      (by rwa [recheckMeet_mem]) fun t ht r _ => ?_
    grind [atomAt_wf]

theorem atomOrdered_keeps {ord : Ord4} {sc : Scope} {k : Ctx → State → Res} (hk : KeepsForm k) :
    KeepsForm (atomOrdered ord sc k) := by
  intro c s h
  have hrel : Memory.wf (if ordRel ord then withRelease sc k c s else k c s).s.mem := by
    split
    · exact withRelease_keeps hk c s h
    · exact hk c s h
  unfold atomOrdered
  grind [acquire_mem]

theorem bodyAtom_keeps (op : AOp) (ty : ATy) (ord : Ord4) (sc : Scope) (m : MemOp) (d b c : LSpec) :
    KeepsForm (bodyAtom op ty ord sc m d b c) :=
  fun x s h => atomOrdered_keeps (fun x s h => by
    dsimp only
    split
    · exact h
    · exact atomGroup_wf (fun l old t => State.modWarp_mem ..) x h) x s h

theorem bodyRed_keeps (op : AOp) (ty : ATy) (ord : Ord4) (sc : Scope) (m : MemOp) (b : LSpec) :
    KeepsForm (bodyRed op ty ord sc m b) :=
  fun x s h => atomOrdered_keeps (fun x s h => by
    dsimp only
    split
    · exact h
    · exact atomGroup_wf (fun l old t => rfl) x h) x s h

@[simp] theorem sampleAll_mem (c : Ctx) (cd : WCond) (w64 : Bool) (m : MemOp) (b : LSpec) (imm : DWord) (s : State) :
    (s.sampleAll c cd w64 m b imm).2.mem = s.mem := by
  unfold State.sampleAll
  split
  · rfl
  · exact foldl_kept (fun t : List (Nat × FaultInfo) × State => t.2.mem)
      (fun t l => by grind [readPieces_mem, State.modWarp_mem]) _ _

@[simp] theorem bodyWaita_mem (c : WCond) (w : Width) (acq : Bool) (sc : Scope) (m : MemOp) (d b : LSpec) (imm : BitVec 13)
    (x : Ctx) (s : State) : (bodyWaita c w acq sc m d b imm x s).s.mem = s.mem := by
  unfold bodyWaita
  grind [Res.wait, State.modWarp_mem, sampleAll_mem, recheckMeet_mem, acquire_mem]

@[simp] theorem elemRead_mem (c : Ctx) (l : Nat) (r : BitVec 512) (n : Nat) (s : State) : (s.elemRead c l r n).2.mem = s.mem := by
  unfold State.elemRead
  grind [readPieces_mem]

theorem sldWith_mem {rd : BitVec 512 → Nat → Nat → State → Except FaultInfo (List Byte) × State} {d : LSpec}
    {n : Fin 8} {f : Option (Fin 8)} (hrd : ∀ r l k t, (rd r l k t).2.mem = t.mem) (c : Ctx) (s : State) :
    (sldWith rd d n f c s).s.mem = s.mem := by
  unfold sldWith
  split
  · split
    · rfl
    dsimp only
    split
    · rfl
    split
    · rfl
    · dsimp only
      rw [foldl_kept (fun t : List (Nat × FaultInfo) × State => t.2.mem), State.modBlock_mem]
      exact fun t e => by grind [State.modWarp_mem]
  · rfl

@[simp] theorem bodySld_mem (d : LSpec) (n : Fin 8) (f : Option (Fin 8)) (c : Ctx) (s : State) :
    (bodySld d n f c s).s.mem = s.mem := sldWith_mem (fun _ _ _ _ => elemRead_mem ..) c s

@[simp] theorem prefetch_mem (c : Ctx) (home : Bool) (va : Nat) (s : State) : (s.prefetch c home va).mem = s.mem := by
  unfold State.prefetch
  grind [l1Fill_mem]

@[simp] theorem bodyPref_mem (a base : Fin 128) (scale : Fin 4) (home : Bool) (low : Fin 16) (imm : BitVec 32) (c : Ctx)
    (s : State) : (bodyPref a base scale home low imm c s).s.mem = s.mem := by
  unfold bodyPref
  split
  · rfl
  split
  · rfl
  · exact foldl_mem (fun t va => prefetch_mem ..) _ s

@[simp] theorem bodyHint_mem (_uset : Bool) (_op : Fin 3) (_hd : Bool) (_d : Fin 128) (_payload : BitVec 14)
    (_more : List Word) (x : Ctx) (s : State) : (bodyHint _uset _op _hd _d _payload _more x s).s.mem = s.mem := rfl

@[simp] theorem bodySarm_mem (n : Fin 8) (a : USpec) (x : Ctx) (s : State) : (bodySarm n a x s).s.mem = s.mem := by
  unfold bodySarm
  grind [Res.fault, Res.wait, Res.ok, readPieces_mem, State.modBlock_mem]

@[simp] theorem bodySdis_mem (n : Fin 8) (x : Ctx) (s : State) : (bodySdis n x s).s.mem = s.mem := by
  simp only [bodySdis, Res.ok, State.modBlock_mem]

@[simp] theorem setCbuf_mem (blk n : Nat) (x : CBuf) (s : State) : (s.setCbuf blk n x).mem = s.mem := by
  rw [State.setCbuf, State.modBlock_mem]

@[simp] theorem bodyCbrsv_mem (d : USpec) (n : Fin 16) (x : Ctx) (s : State) : (bodyCbrsv d n x s).s.mem = s.mem := by
  unfold bodyCbrsv
  grind [Res.fault, Res.ok, Res.wait, wrU_mem, setCbuf_mem]

theorem bodyCbcmt_keeps (n : Fin 16) : KeepsForm (bodyCbcmt n) := by
  intro c s h
  unfold bodyCbcmt
  split
  · exact h
  split
  · exact h
  · exact withRelease_keeps (.of_mem fun c s => setCbuf_mem ..) c s h

@[simp] theorem bodyCbacq_mem (d : USpec) (n : Fin 16) (x : Ctx) (s : State) : (bodyCbacq d n x s).s.mem = s.mem := by
  unfold bodyCbacq
  grind [Res.fault, Res.ok, Res.wait, setCbuf_mem, acquire_mem, wrU_mem]

@[simp] theorem bodyCbrel_mem (n : Fin 16) (x : Ctx) (s : State) : (bodyCbrel n x s).s.mem = s.mem := by
  unfold bodyCbrel
  grind [Res.fault, Res.ok, setCbuf_mem]

theorem bodyCpy_wf (d a : USpec) (len : CpyLen) (c : CpyCtl) (x : Ctx) {s : State} (h : Memory.wf s.mem) :
    Memory.wf (bodyCpy d a len c x s).s.mem := by
  unfold bodyCpy
  grind [Res.ok, Res.fault, Res.wait, placeEntry_wf]

@[simp] theorem bodyCpyw_mem (n : Fin 4) (b : USrc) (x : Ctx) (s : State) : (bodyCpyw n b x s).s.mem = s.mem := by
  unfold bodyCpyw
  grind [Res.ok, Res.fault, Res.wait, State.modWarp_mem, acquire_mem]

@[simp] theorem startEngine_mem (e core : Nat) (k : CopyCmd) (s : State) : (s.startEngine e core k).mem = s.mem := by
  unfold State.startEngine
  grind [setCbuf_mem]

@[simp] theorem handCopy_mem (core e idx : Nat) (s : State) : (s.handCopy core e idx).mem = s.mem := by
  unfold State.handCopy
  grind [startEngine_mem, State.modCore_mem]

@[simp] theorem evEngineTake_mem (die engine : Nat) (s : State) : (evEngineTake die engine s).mem = s.mem := by
  unfold evEngineTake
  grind [handCopy_mem]

theorem engWrite_wf (k : CopyCmd) (sp : Nat) (a : DWord) (bs : List Byte) {s : State} (h : Memory.wf s.mem) :
    Memory.wf (s.engWrite k sp a bs).2.mem := by
  unfold State.engWrite
  grind [vWrite_wf, wrScratch_mem]

theorem engUnits_wf (g : Engine) (m n : Nat) {s : State} (h : Memory.wf s.mem) :
    Memory.wf (State.engUnits g m n s).2.2.mem := by
  induction m generalizing g n s with
  | zero => exact h
  | succ m ih => unfold State.engUnits; grind [engWrite_wf, State.modLaunch_mem]

@[simp] theorem engFinish_mem (e : Nat) (g : Engine) (s : State) : (s.engFinish e g).mem = s.mem := by
  unfold State.engFinish
  grind [setCbuf_mem, State.modWarp_mem, sweep_mem]

theorem engineStep_wf (e : Nat) {s : State} (h : Memory.wf s.mem) : Memory.wf (s.engineStep e).mem := by
  unfold State.engineStep
  grind [setCbuf_mem, engUnits_wf, engFinish_mem]

theorem evCopyComplete_wf (die engine : Nat) {s : State} (h : Memory.wf s.mem) :
    Memory.wf (evCopyComplete die engine s).mem := by
  unfold evCopyComplete
  grind [engineStep_wf]

end Sys2Proof.Machine.MemoryForm
end

section
/-!
PROOFS. Memory under samples, grove routines, the matrix engine and the system instructions (06 R120 to R145;
09 R205 to R218).
-/

set_option Elab.async false

namespace Sys2Proof.Machine.MemoryForm

@[simp] theorem sample_mem (sp : Special) (core : Nat) (s : State) : (s.sample sp core).2.mem = s.mem := by
  unfold State.sample
  split <;> rfl

@[simp] theorem bodyRds_mem (d : LSpec) (sp : Special) (c : Ctx) (s : State) : (bodyRds d sp c s).s.mem = s.mem :=
  (laneStep_mem ..).trans (sample_mem ..)

@[simp] theorem modLnx_mem (wid lane : Nat) (f : LnxReq → LnxReq) (s : State) : (s.modLnx wid lane f).mem = s.mem := by
  rw [State.modLnx, State.modWarp_mem]

@[simp] theorem evGroveEntryFetch_mem (wid lane : Nat) (s : State) : (evGroveEntryFetch wid lane s).mem = s.mem := by
  unfold evGroveEntryFetch
  grind [modLnx_mem, stopIfCancelled_mem]

theorem serveLnx_wf (wid lane errs : Nat) {s : State} (h : Memory.wf s.mem) : Memory.wf (s.serveLnx wid lane errs).mem := by
  unfold State.serveLnx
  grind [modLnx_mem, perform_mem, ackNow_mem, Memory.wf_wrMem]

theorem evLnxRequestServe_wf (wid lane errs : Nat) {s : State} (h : Memory.wf s.mem) :
    Memory.wf (evLnxRequestServe wid lane errs s).mem := by
  have hserve (ls : List LnxReq) : Memory.wf (ls.foldl (fun (t : Nat × State) x =>
      (t.1 / 4, t.2.serveLnx wid x.lane (t.1 % 4))) (errs, s)).2.mem :=
    List.foldlRecOn ls _ (motive := fun t : Nat × State => Memory.wf t.2.mem) h
      fun t ht x _ => serveLnx_wf _ _ _ ht
  unfold evLnxRequestServe
  grind [stopIfCancelled_mem]

@[simp] theorem lnxSend_mem (a b : LSpec) (base : USpec) (scale index : Nat) (imm : BitVec 10) (c : Ctx) (s : State) :
    (lnxSend a b base scale index imm c s).s.mem = s.mem := by
  unfold lnxSend
  grind [Res.ok, Res.wait, State.modWarp_mem]

theorem bodyLnx_keeps (ord : Ord4) (d a b c : LSpec) (base : USpec) (scale : Fin 4) (index : Fin 64) (imm : BitVec 10) :
    KeepsForm (bodyLnx ord d a b c base scale index imm) := by
  have hsend : KeepsForm (lnxSend a b base scale.val index.val imm) := .of_mem fun c s => lnxSend_mem ..
  intro x s h
  have htaken (rs : List (Nat × Nat × Nat)) (f : Warp → Warp) :
      Memory.wf ((s.recheckMeet x.core x.wid none rs).modWarp x.wid f).mem := by
    rwa [State.modWarp_mem, recheckMeet_mem]
  unfold bodyLnx
  split
  · split
    · exact h
    dsimp only
    split
    · exact h
    · split
      · rw [acquire_mem]
        exact foldl_wf (fun t q ht => by grind [State.modWarp_mem]) (htaken _ _)
      · exact foldl_wf (fun t q ht => by grind [State.modWarp_mem]) (htaken _ _)
  · dsimp only
    split
    · exact withRelease_keeps hsend x s h
    · exact hsend x s h

@[simp] theorem modTile_mem (blk k : Nat) (f : Tile → Tile) (s : State) : (s.modTile blk k f).mem = s.mem := by
  rw [State.modTile, State.modBlock_mem]

@[simp] theorem countAbft_mem (blk n : Nat) (s : State) : (s.countAbft blk n).mem = s.mem := by
  rw [State.countAbft, State.modLaunch_mem]

theorem takeGang_mem {c : Ctx} {s : State} {r : FaultInfo × State} (hr : s.takeGang c = some r) : r.2.mem = s.mem := by
  unfold State.takeGang at hr
  grind [State.modWarp_mem]

theorem takePending_mem {c : Ctx} {tile : Nat} {s : State} {r : FaultInfo × State}
    (hr : s.takePending c tile = some r) : r.2.mem = s.mem := by
  unfold State.takePending at hr
  grind [modTile_mem]

@[simp] theorem dispatchM_mem (core : Nat) (m : MCmd) (s : State) : (s.dispatchM core m).mem = s.mem := rfl

@[simp] theorem discardGang_mem (wid : Nat) (others : List Nat) (f : FaultInfo) (s : State) :
    (s.discardGang wid others f).mem = s.mem := by
  unfold State.discardGang
  rw [foldl_mem fun t x => State.modWarp_mem .., State.modWarp_mem]

@[simp] theorem gangArrive_mem (a : Arrival) (w : Warp) (c : Ctx) (s : State) : (gangArrive a w c s).s.mem = s.mem := by
  unfold gangArrive
  dsimp only
  split
  · rfl
  split
  · split
    · exact discardGang_mem ..
    split
    · rfl
    · dsimp only [Res.ok]
      rw [foldl_mem fun t x => State.modWarp_mem .., State.modWarp_mem, dispatchM_mem]
  · exact State.modWarp_mem ..

@[simp] theorem matrixArrive_mem (op : MOp) (tile : Nat) (da db : BitVec 128) (fmts : Warp → List Word) (c : Ctx)
    (s : State) : (matrixArrive op tile da db fmts c s).s.mem = s.mem := by
  unfold matrixArrive
  split
  · rfl
  dsimp only
  split
  · rename_i f t hmin
    have hmem := (WorkDispatch.minBy_least hmin).1
    have hsame (o : Option FaultInfo) (h : o.map (fun f => (f, s)) = some (f, t)) : t.mem = s.mem := by
      obtain ⟨_, -, h⟩ := Option.map_eq_some_iff.1 h
      cases h
      rfl
    change t.mem = s.mem
    simp only [List.mem_append, Option.mem_toList] at hmem
    rcases hmem with ((hbounds | hgang) | huses) | hcheck
    · grind
    · exact takeGang_mem hgang
    · split at huses
      · split at huses
        · rename_i x hx
          cases List.mem_singleton.1 huses
          exact takePending_mem hx
        · exact hsame _ (Option.mem_toList.1 huses)
      · cases huses
    · exact hsame _ hcheck
  · grind [Res.ok, Res.wait, dispatchM_mem, gangArrive_mem]

@[simp] theorem bodyMma_mem (tile : Fin 32) (a b : USpec) (f : LSpec) (x : Ctx) (s : State) :
    (bodyMma tile a b f x s).s.mem = s.mem := by
  rw [bodyMma, matrixArrive_mem]

@[simp] theorem bodyMmat_mem (tile : Fin 32) (a b : USpec) (f : LSpec) (x : Ctx) (s : State) :
    (bodyMmat tile a b f x s).s.mem = s.mem := by
  rw [bodyMmat, matrixArrive_mem]

@[simp] theorem bodyTld_mem (tile : Fin 32) (a : USpec) (x : Ctx) (s : State) : (bodyTld tile a x s).s.mem = s.mem := by
  rw [bodyTld, matrixArrive_mem]

@[simp] theorem bodyTst_mem (tile : Fin 32) (a : USpec) (x : Ctx) (s : State) : (bodyTst tile a x s).s.mem = s.mem := by
  rw [bodyTst, matrixArrive_mem]

@[simp] theorem bodyTzero_mem (tile : Fin 32) (x : Ctx) (s : State) : (bodyTzero tile x s).s.mem = s.mem := by
  rw [bodyTzero, matrixArrive_mem]

@[simp] theorem bodyGang_mem (b : USpec) (c : Ctx) (s : State) : (bodyGang b c s).s.mem = s.mem := by
  unfold bodyGang
  split
  case h_1 hgang => exact takeGang_mem hgang
  · split
    · dsimp only
      split
      · rfl
      · split
        · rfl
        · exact State.modWarp_mem ..
    · rfl

@[simp] theorem bodyTwait_mem (tile : Fin 32) (c : Ctx) (s : State) : (bodyTwait tile c s).s.mem = s.mem := by
  unfold bodyTwait
  split
  case h_1 hgang => exact takeGang_mem hgang
  · split
    · rfl
    · cases c.tag <;>
        (dsimp only
         split
         · rfl
         · split
           case h_1 huse => exact takePending_mem huse
           · exact State.modWarp_mem ..)

@[simp] theorem bodyTstat_mem (clr : Bool) (d : USpec) (tile : Fin 32) (x : Ctx) (s : State) :
    (bodyTstat clr d tile x s).s.mem = s.mem := by
  unfold bodyTstat
  grind [Res.fault, Res.ok, wrU_mem, modTile_mem]

@[simp] theorem pinOperand_mem (m : MCmd) (row : Nat) (d : BitVec 128) (s : State) : (s.pinOperand m row d).mem = s.mem := by
  unfold State.pinOperand
  grind

@[simp] theorem setM_mem (core idx : Nat) (m : MCmd) (s : State) : (s.setM core idx m).mem = s.mem := rfl

@[simp] theorem evTileFetchUnit_mem (core idx addr : Nat) (opB : Bool) (s : State) :
    (evTileFetchUnit core idx addr opB s).mem = s.mem := by
  unfold evTileFetchUnit
  grind [setM_mem]

@[simp] theorem evMatrixStart_mem (core idx : Nat) (s : State) : (evMatrixStart core idx s).mem = s.mem := by
  have hpin (m : MCmd) (row : Nat) (ds : List (BitVec 128)) (s : State) :
      (ds.foldl (fun s d => s.pinOperand m row d) s).mem = s.mem := foldl_mem (fun _ _ => pinOperand_mem ..) ds s
  unfold evMatrixStart
  split
  · rfl
  · split
    · rfl
    · split
      · rfl
      · exact (setM_mem ..).trans (hpin ..)

@[simp] theorem doneM_mem (core idx : Nat) (s : State) : (s.doneM core idx).mem = s.mem := by
  rw [State.doneM, sweep_mem, State.modCore_mem]

@[simp] theorem evMatrixCheck_mem (core idx : Nat) (dev : List Deviation) (recheckOk : Bool) (s : State) :
    (evMatrixCheck core idx dev recheckOk s).mem = s.mem := by
  unfold evMatrixCheck
  grind [doneM_mem, countAbft_mem, modTile_mem]

theorem scratchStore_mem {blk sp k a : Nat} {bs : List Byte} {s t : State}
    (h : State.scratchStore blk sp k a bs s = .ok t) : t.mem = s.mem := by
  induction k generalizing a bs s with
  | zero => cases h; rfl
  | succ k ih => unfold State.scratchStore at h; grind [wrScratch_mem]

theorem storePart_wf (m : MCmd) (x : Tile) (i o n : Nat) {s : State} (h : Memory.wf s.mem) :
    Memory.wf (s.storePart m x i o n).2.mem := by
  unfold State.storePart
  grind [vWrite_wf, scratchStore_mem]

theorem storeRows_wf {m : MCmd} {t : Tile} {k i o g : Nat} {s : State} {r : Option FaultInfo × Nat × State}
    (h : Memory.wf s.mem) (hr : State.storeRows m t k i o g s = some r) : Memory.wf r.2.2.mem := by
  induction k generalizing i o g s with
  | zero => cases hr; exact h
  | succ k ih => unfold State.storeRows at hr; grind [storePart_wf]

@[simp] theorem keepTst_mem (m : MCmd) (g : Nat) (s : State) : (s.keepTst m g).mem = s.mem := by
  rw [State.keepTst, State.modLaunch_mem, modTile_mem]

@[simp] theorem checkTile_mem (m : MCmd) (s : State) : (s.checkTile m).mem = s.mem := by
  rw [State.checkTile, countAbft_mem, modTile_mem]

theorem storeTile_wf (core idx : Nat) (m : MCmd) {s : State} (h : Memory.wf s.mem) :
    Memory.wf (s.storeTile core idx m).mem := by
  have hcheck : Memory.wf (s.checkTile m).mem := by rwa [checkTile_mem]
  unfold State.storeTile
  dsimp only
  split
  · rwa [doneM_mem, modTile_mem]
  split
  · rwa [doneM_mem]
  split
  · exact h
  · rename_i hrows
    rw [doneM_mem, keepTst_mem, modTile_mem]
    exact storeRows_wf hcheck hrows
  · rename_i hrows
    rw [doneM_mem, keepTst_mem]
    exact storeRows_wf hcheck hrows

theorem evTileStoreUnit_wf (core idx : Nat) {s : State} (h : Memory.wf s.mem) :
    Memory.wf (evTileStoreUnit core idx s).mem := by
  unfold evTileStoreUnit
  grind [checkTile_mem, storePart_wf, setM_mem]

@[simp] theorem evTileEcc_mem (blk tile : Nat) (s : State) : (evTileEcc blk tile s).mem = s.mem := by
  unfold evTileEcc
  grind [modTile_mem]

theorem evTileTransferComplete_wf (core idx : Nat) {s : State} (h : Memory.wf s.mem) :
    Memory.wf (evTileTransferComplete core idx s).mem := by
  unfold evTileTransferComplete
  grind [storeTile_wf, doneM_mem, modTile_mem]

@[simp] theorem putU_mem (c : Ctx) (n : Nat) (u : USpec) (x : Nat) (s : State) : (State.putU c n u x s).mem = s.mem := by
  induction n generalizing u x s with
  | zero => rfl
  | succ n ih => unfold State.putU; grind [wrU_mem]

@[simp] theorem bodyRdctl_mem (d : USpec) (r : CtlReg) (x : Ctx) (s : State) : (bodyRdctl d r x s).s.mem = s.mem := by
  unfold bodyRdctl
  grind [Res.ok, putU_mem]

@[simp] theorem dropGrove_mem (asid : Nat) (s : State) : (s.dropGrove asid).mem = s.mem := rfl

@[simp] theorem bodyWrctl_mem (r : CtlReg) (a : USpec) (x : Ctx) (s : State) : (bodyWrctl r a x s).s.mem = s.mem := by
  unfold bodyWrctl
  grind [Res.fault, Res.ok, State.modWarp_mem, State.modLaunch_mem, dropGrove_mem]

@[simp] theorem growAnswer_mem (core : Nat) (g : GrowReq) (ok : Bool) (s : State) : (s.growAnswer core g ok).mem = s.mem := by
  unfold State.growAnswer
  grind [State.modCore_mem, unskip_mem, State.modWarp_mem]

@[simp] theorem bodyReggrow_mem (n : Fin 8) (v : Fin 16) (x : Ctx) (s : State) : (bodyReggrow n v x s).s.mem = s.mem := by
  unfold bodyReggrow
  grind [Res.ok, Res.wait, State.modWarp_mem, State.modCore_mem]

@[simp] theorem bodyRegshr_mem (v : Fin 16) (x : Ctx) (s : State) : (bodyRegshr v x s).s.mem = s.mem := by
  unfold bodyRegshr
  grind [Res.ok, Res.fault, unskip_mem, State.modWarp_mem]

@[simp] theorem evReggrowGrant_mem (core part : Nat) (s : State) : (evReggrowGrant core part s).mem = s.mem := by
  unfold evReggrowGrant
  grind [growAnswer_mem]

@[simp] theorem evReggrowFail_mem (core part : Nat) (s : State) : (evReggrowFail core part s).mem = s.mem := by
  unfold evReggrowFail
  grind [growAnswer_mem]

@[simp] theorem putLaunch_mem (l : Launch) (s : State) : (s.putLaunch l).mem = s.mem := rfl

theorem bodyLaunch_keeps (tail : Bool) (d a : USpec) : KeepsForm (bodyLaunch tail d a) := by
  intro c s h
  unfold bodyLaunch
  dsimp only
  split
  · exact h
  · refine withRelease_keeps (.of_mem fun c s => ?_) c s h
    grind [Res.ok, Res.wait, wrU64_mem, State.modGraph_mem, putLaunch_mem]

@[simp] theorem bodyCancel_mem (level : CancelLevel) (x : Ctx) (s : State) : (bodyCancel level x s).s.mem = s.mem := by
  unfold bodyCancel
  grind [Res.ok, cancelLaunch_mem, cancelGraph_mem, cancelPhase_mem, cancelJob_mem]

theorem bodyWcall_wf (base : USpec) (q : LSpec) (svc : BitVec 16) (x : Ctx) {s : State} (h : Memory.wf s.mem) :
    Memory.wf (bodyWcall base q svc x s).s.mem := by
  unfold bodyWcall
  grind [Res.fault, Res.wait, Res.ok, placeEntry_wf, recheckMeet_mem, storeWrites_mem]

@[simp] theorem racqSend_mem (n : Nat) (c : Ctx) (s : State) : (racqSend n c s).s.mem = s.mem := by
  unfold racqSend
  split <;> rfl

theorem bodyRacq_keeps (b : USpec) : KeepsForm (bodyRacq b) := by
  intro c s h
  have hsend (n : Nat) : KeepsForm (withRelease .pkg (racqSend n)) :=
    withRelease_keeps (.of_mem fun c s => racqSend_mem ..)
  unfold bodyRacq
  dsimp only
  split
  · split
    · split
      · exact h
      · rwa [Res.ok, acquire_mem]
    · exact hsend _ c s h
  · exact hsend _ c s h

@[simp] theorem bodyCkpt_mem (x : Ctx) (s : State) : (bodyCkpt x s).s.mem = s.mem := by
  unfold bodyCkpt
  grind [Res.ok, Res.wait]

@[simp] theorem bodySucc_mem (_kind : Fin 4) (_flag : Fin 8) (_low : BitVec 19) (_seg0 _seg1 : Word) (x : Ctx) (s : State) :
    (bodySucc _kind _flag _low _seg0 _seg1 x s).s.mem = s.mem := rfl

@[simp] theorem bodyUcmp_mem (c : ICond) (w64 uns : Bool) (n : Fin 8) (a b : USpec) (x : Ctx) (s : State) :
    (bodyUcmp c w64 uns n a b x s).s.mem = s.mem := by
  simp only [bodyUcmp, Res.ok, State.modWarp_mem]

theorem uniAlu_keeps (w64 : Bool) (d : USpec) (v : State → Ctx → DWord) : KeepsForm (uniAlu w64 d v) :=
  .of_mem (uniAlu_mem w64 d v)

/-- An element-wise effect changes registers and flags alone. -/
theorem wideForm_keeps (op : WideOp) : KeepsForm (bodyWideForm op) := by
  cases op <;> exact .of_mem fun c s => laneStep_mem ..

theorem vote_keeps (mode : VoteMode) (neg : Bool) (d : LSpec) (fd a : Fin 8) : KeepsForm (bodyVote mode neg d fd a) := by
  cases mode <;> exact .of_mem fun c s => laneStep_mem ..

/-- The effect of every warp instruction keeps the form. -/
theorem bodyOf_keeps_all (i : Instr) : (bodyOf i).elim True KeepsForm := by
  cases i
  case and | or | xor | bfx | bfi | brev | clz | popc | cvt | dadd | dmul | dfma | dcmp | fadd | fsub | fmul |
      fcmp | ffma | fmax | fmin | frnd | fshf | iabs | iadd | isub | imul | imulhi | imin | imax | icmp | idp4 |
      imad | lea | logic3 | matchLanes | mfn | mov | movi | pkadd | pkmul | pkmin | pkmax | pkfma | psel | redx |
      scan | sel | shfl | shl | shr | sar | sxpk | sxupk =>
    exact .of_mem fun c s => laneStep_mem ..
  case uadd | usub | umul | umad | uand | uor | uxor | ushl | ushr | usar | umov | umovi | usel | ulea =>
    apply uniAlu_keeps
  case vote => apply vote_keeps
  case wideForm => apply wideForm_keeps
  case bkpt => exact .of_mem fun c s => bodyBkpt_mem ..
  case bra => exact .of_mem fun c s => bodyBra_mem ..
  case brx => exact .of_mem fun c s => bodyBrx_mem ..
  case call => exact .of_mem fun c s => bodyCall_mem ..
  case cancel => exact .of_mem fun c s => bodyCancel_mem ..
  case cbrsv => exact .of_mem fun c s => bodyCbrsv_mem ..
  case cbacq => exact .of_mem fun c s => bodyCbacq_mem ..
  case cbrel => exact .of_mem fun c s => bodyCbrel_mem ..
  case ckpt => exact .of_mem fun c s => bodyCkpt_mem ..
  case cpyw => exact .of_mem fun c s => bodyCpyw_mem ..
  case gang => exact .of_mem fun c s => bodyGang_mem ..
  case gret => exact .of_mem fun c s => bodyGret_mem ..
  case hret => exact .of_mem fun c s => bodyHret_mem ..
  case jarm => exact .of_mem fun c s => bodyJarm_mem ..
  case jdrop => exact .of_mem fun c s => bodyJdrop_mem ..
  case ld => exact .of_mem fun c s => bodyLd_mem ..
  case mma => exact .of_mem fun c s => bodyMma_mem ..
  case mmat => exact .of_mem fun c s => bodyMmat_mem ..
  case part => exact .of_mem fun c s => bodyPart_mem ..
  case pref => exact .of_mem fun c s => bodyPref_mem ..
  case hint => exact .of_mem fun c s => bodyHint_mem ..
  case rdctl => exact .of_mem fun c s => bodyRdctl_mem ..
  case wrctl => exact .of_mem fun c s => bodyWrctl_mem ..
  case rds => exact .of_mem fun c s => bodyRds_mem ..
  case reggrow => exact .of_mem fun c s => bodyReggrow_mem ..
  case regshr => exact .of_mem fun c s => bodyRegshr_mem ..
  case ret => exact .of_mem fun c s => bodyRet_mem ..
  case sarm => exact .of_mem fun c s => bodySarm_mem ..
  case sdis => exact .of_mem fun c s => bodySdis_mem ..
  case sld => exact .of_mem fun c s => bodySld_mem ..
  case succ => exact .of_mem fun c s => bodySucc_mem ..
  case tld => exact .of_mem fun c s => bodyTld_mem ..
  case tst => exact .of_mem fun c s => bodyTst_mem ..
  case tzero => exact .of_mem fun c s => bodyTzero_mem ..
  case twait => exact .of_mem fun c s => bodyTwait_mem ..
  case tstat => exact .of_mem fun c s => bodyTstat_mem ..
  case ucmp => exact .of_mem fun c s => bodyUcmp_mem ..
  case ubra => exact .of_mem fun c s => bodyUbra_mem ..
  case waita => exact .of_mem fun c s => bodyWaita_mem ..
  case yield => exact .of_mem fun c s => bodyYield_mem ..
  case nop => exact .of_mem fun c s => rfl
  case atom => apply bodyAtom_keeps
  case red => apply bodyRed_keeps
  case bar => apply bodyBar_keeps
  case cbar => apply bodyCbar_keeps
  case cbcmt => apply bodyCbcmt_keeps
  case fence => apply bodyFence_keeps
  case launch => apply bodyLaunch_keeps
  case lnx => apply bodyLnx_keeps
  case racq => apply bodyRacq_keeps
  case st => apply bodySt_keeps
  case wsync => apply bodyWsync_keeps
  case cpy => exact fun c s h => bodyCpy_wf (h := h) ..
  case exit => exact fun c s h => bodyExit_wf (h := h) ..
  case jwait => exact fun c s h => bodyJwait_wf (h := h) ..
  case wcall => exact fun c s h => bodyWcall_wf (h := h) ..
  all_goals exact trivial

theorem bodyOf_keeps {i : Instr} {body : Ctx → State → Res} (hb : bodyOf i = some body) : KeepsForm body := by
  have hi := bodyOf_keeps_all i
  rwa [hb] at hi

end Sys2Proof.Machine.MemoryForm
end

section
/-!
PROOFS. Memory under the work queues, the traps and the pre-emption of blocks (03 R61 to R77; 10 R223 to R240).
-/

set_option Elab.async false

namespace Sys2Proof.Machine.MemoryForm

@[simp] theorem qFail_mem (q bit : Nat) (s : State) : (s.qFail q bit).mem = s.mem := by
  unfold State.qFail
  grind [State.setReg_mem, setRegF_mem]

@[simp] theorem evQueueDoorbell_mem (q : Nat) (tail : Word) (s : State) : (evQueueDoorbell q tail s).mem = s.mem := by
  unfold evQueueDoorbell
  grind [State.setReg_mem, State.modQueue_mem, qFail_mem]

@[simp] theorem evErrClear_mem (q : Nat) (bits : Word) (s : State) : (evErrClear q bits s).mem = s.mem := by
  unfold evErrClear
  grind [State.setReg_mem, State.modQueue_mem, setRegF_mem]

@[simp] theorem loneGraph_mem (q : Nat) (s : State) : (s.loneGraph q).2.mem = s.mem := by
  simp only [State.loneGraph, newGraph_mem, State.modGraph_mem]

@[simp] theorem enterPacket_mem (q : Nat) (d : BitVec 512) (s : State) : (s.enterPacket q d).mem = s.mem := by
  unfold State.enterPacket
  grind [loneGraph_mem, State.setReg_mem, State.modQueue_mem, State.modGraph_mem, graphCheckDone_mem]

@[simp] theorem modPkt_mem (q n : Nat) (f : Pkt → Pkt) (s : State) : (s.modPkt q n f).mem = s.mem := rfl

@[simp] theorem openGraph_mem (q n : Nat) (d : BitVec 512) (s : State) : (s.openGraph q n d).mem = s.mem := by
  unfold State.openGraph
  grind [newGraph_mem, State.modQueue_mem, pktDone_mem, State.modGraph_mem, modPkt_mem]

@[simp] theorem takePacket_mem (q n : Nat) (want : BitVec 512 → Bool) (s : State) : (s.takePacket q n want).2.mem = s.mem := by
  unfold State.takePacket
  grind [qFail_mem, enterPacket_mem, openGraph_mem]

theorem actPacket_mem {q n : Nat} {want : BitVec 512 → Bool} {f : Pkt → State → State}
    (hf : ∀ p t, (f p t).mem = t.mem) (s : State) : (s.actPacket q n want f).mem = s.mem := by
  unfold State.actPacket
  grind [takePacket_mem, pktDone_mem]

theorem actPacket_wf {q n : Nat} {want : BitVec 512 → Bool} {f : Pkt → State → State}
    (hf : ∀ p t, Memory.wf t.mem → Memory.wf (f p t).mem) {s : State} (h : Memory.wf s.mem) :
    Memory.wf (s.actPacket q n want f).mem := by
  unfold State.actPacket
  grind [takePacket_mem, pktDone_mem]

@[simp] theorem evNopPacket_mem (q n : Nat) (s : State) : (evNopPacket q n s).mem = s.mem :=
  actPacket_mem (fun p t => by grind [pktDone_mem]) s

theorem acceptPacket_mem {q : Nat} {p : Pkt} {g k : Nat} {inGraph bad : Bool} {s t : State}
    (hr : s.acceptPacket q p g k inGraph bad = some t) : t.mem = s.mem := by
  unfold State.acceptPacket at hr
  grind [modPkt_mem]

@[simp] theorem launchAlone_mem (q : Nat) (p : Pkt) (s : State) : (s.launchAlone q p).mem = s.mem := by
  unfold State.launchAlone
  grind [acceptPacket_mem, markReady_mem, State.modGraph_mem]

@[simp] theorem evLaunchPacket_mem (q n : Nat) (s : State) : (evLaunchPacket q n s).mem = s.mem := by
  unfold evLaunchPacket
  grind [takePacket_mem, launchAlone_mem]

@[simp] theorem evGraphPacket_mem (q n : Nat) (s : State) : (evGraphPacket q n s).mem = s.mem := by
  unfold evGraphPacket
  grind [takePacket_mem, openGraph_mem]

theorem acceptNodes_mem {q g : Nat} {bad : Bool} {k : Nat} {ps : List Pkt} {s t : State}
    (h : State.acceptNodes q g bad k ps s = some t) : t.mem = s.mem := by
  induction ps generalizing k s with
  | nil => cases h; rfl
  | cons p r ih => unfold State.acceptNodes at h; grind [acceptPacket_mem, State.modGraph_mem, modPkt_mem]

@[simp] theorem evGraphCheck_mem (g : Nat) (s : State) : (evGraphCheck g s).mem = s.mem := by
  unfold evGraphCheck
  grind [acceptNodes_mem, State.modGraph_mem, qFail_mem, markReady_mem, graphCheckDone_mem]

@[simp] theorem closePhase_mem (j : Nat) (s : State) : (s.closePhase j).mem = s.mem := rfl

@[simp] theorem openPhase_mem (j num : Nat) (s : State) : (s.openPhase j num).mem = s.mem := rfl

@[simp] theorem evPhasePacket_mem (q n : Nat) (s : State) : (evPhasePacket q n s).mem = s.mem :=
  actPacket_mem (fun p t => by grind [pktDone_mem, qFail_mem, markReady_mem, phaseCheck_mem, openPhase_mem, closePhase_mem]) s

@[simp] theorem evPhaseClosePacket_mem (q n : Nat) (s : State) : (evPhaseClosePacket q n s).mem = s.mem := by
  refine actPacket_mem (fun p t => ?_) s
  dsimp only
  split
  · rw [pktDone_mem, qFail_mem]
  · rw [pktDone_mem, phaseCheck_mem, setRegF_mem, closePhase_mem]

@[simp] theorem evJobOpen_mem (j : Nat) (s : State) : (evJobOpen j s).mem = s.mem := by
  unfold evJobOpen
  grind [State.setReg_mem, setRegF_mem, openPhase_mem]

@[simp] theorem evJobReopen_mem (j : Nat) (s : State) : (evJobReopen j s).mem = s.mem := by
  unfold evJobReopen
  split <;> rfl

@[simp] theorem pktFault_mem (q n : Nat) (f : FaultInfo) (s : State) : (s.pktFault q n f).mem = s.mem := by
  unfold State.pktFault
  grind [qFail_mem, modPkt_mem]

@[simp] theorem samplePkt_mem (q : Nat) (p : Pkt) (s : State) : (s.samplePkt q p).mem = s.mem := by
  unfold State.samplePkt
  grind [pktFault_mem, pktDone_mem]

@[simp] theorem evWaitPacket_mem (q n : Nat) (s : State) : (evWaitPacket q n s).mem = s.mem :=
  actPacket_mem (fun p t => by grind [pktDone_mem, qFail_mem, modPkt_mem, samplePkt_mem]) s

@[simp] theorem evWaitPacketSample_mem (q n : Nat) (s : State) : (evWaitPacketSample q n s).mem = s.mem := by
  unfold evWaitPacketSample
  grind [samplePkt_mem]

theorem signalPkt_wf (q : Nat) (p : Pkt) {s : State} (h : Memory.wf s.mem) : Memory.wf (s.signalPkt q p).mem := by
  unfold State.signalPkt
  grind [pktFault_mem, vWrite_wf, pktDone_mem]

theorem evSignalStorePacket_wf (q n : Nat) {s : State} (h : Memory.wf s.mem) :
    Memory.wf (evSignalStorePacket q n s).mem := actPacket_wf (fun p t ht => by grind [signalPkt_wf]) h

theorem evSignalAddPacket_wf (q n : Nat) {s : State} (h : Memory.wf s.mem) :
    Memory.wf (evSignalAddPacket q n s).mem := actPacket_wf (fun p t ht => by grind [signalPkt_wf]) h

theorem cancelPkt_mem {q n : Nat} {valid : Pkt → State → Bool} {f : Pkt → State → State}
    {ended : Pkt → State → Bool} (hf : ∀ p t, (f p t).mem = t.mem) (p : Pkt) (s : State) :
    (cancelPkt q n valid f ended p s).mem = s.mem := by
  unfold cancelPkt
  grind [pktDone_mem, qFail_mem, modPkt_mem]

@[simp] theorem evCancelLaunchPacket_mem (q n : Nat) (s : State) : (evCancelLaunchPacket q n s).mem = s.mem :=
  actPacket_mem (fun p t => cancelPkt_mem (fun p t => by grind [cancelLaunch_mem, modPkt_mem]) p t) s

@[simp] theorem evCancelGraphPacket_mem (q n : Nat) (s : State) : (evCancelGraphPacket q n s).mem = s.mem :=
  actPacket_mem (fun p t => cancelPkt_mem (fun p t => by grind [cancelGraph_mem]) p t) s

@[simp] theorem evCancelPhasePacket_mem (q n : Nat) (s : State) : (evCancelPhasePacket q n s).mem = s.mem :=
  actPacket_mem (fun p t => cancelPkt_mem (fun _ _ => (modPkt_mem ..).trans (cancelPhase_mem ..)) p t) s

@[simp] theorem evCancelJobPacket_mem (q n : Nat) (s : State) : (evCancelJobPacket q n s).mem = s.mem :=
  actPacket_mem (fun p t => cancelPkt_mem (fun _ _ => (modPkt_mem ..).trans (cancelJob_mem ..)) p t) s

@[simp] theorem evRefill_mem (s : State) : (evRefill s).mem = s.mem := by
  unfold evRefill
  split
  · rfl
  · rw [foldl_mem fun t j => State.setReg_mem .., markReady_mem]

@[simp] theorem dropAllLeases_mem (s : State) : s.dropAllLeases.mem = s.mem := rfl

theorem writeRecord_wf {l : Launch} {s t : State} (h : Memory.wf s.mem) (hr : s.writeRecord l = some t) :
    Memory.wf t.mem := by
  unfold State.writeRecord at hr
  grind [State.modLaunch_mem, qFail_mem, vWrite_wf]

theorem writeSignal_wf {l : Launch} {s t : State} (h : Memory.wf s.mem) (hr : s.writeSignal l = some t) :
    Memory.wf t.mem := by
  unfold State.writeSignal at hr
  grind [qFail_mem, vWrite_wf]

@[simp] theorem setUsed_mem (j : Nat) (s : State) : (s.setUsed j).mem = s.mem := rfl

@[simp] theorem resolveLaunch_mem (l : Launch) (s : State) : (s.resolveLaunch l).mem = s.mem := by
  have hpreds (ks : List Nat) (s : State) : (ks.foldl (fun s k => s.modLaunch k (fun L =>
      { L with preds := L.preds - 1 })) s).mem = s.mem := foldl_mem (fun t k => State.modLaunch_mem ..) ks s
  have hcancel (ks : List Nat) (s : State) : (ks.foldl (fun s k => s.cancelLaunch k) s).mem = s.mem :=
    foldl_mem (fun _ _ => cancelLaunch_mem ..) ks s
  unfold State.resolveLaunch
  grind [raise_mem, setUsed_mem, State.modGraph_mem, pktDone_mem, graphCheckDone_mem, markReady_mem]

theorem evLaunchComplete_wf (l : Nat) {s : State} (h : Memory.wf s.mem) : Memory.wf (evLaunchComplete l s).mem := by
  have hleases : Memory.wf s.dropAllLeases.mem := by rwa [dropAllLeases_mem]
  unfold evLaunchComplete
  split
  · exact h
  split
  · exact h
  split
  · grind [State.modLaunch_mem]
  · grind [State.modLaunch_mem]
  · split
    · exact h
    · cases hr : State.writeRecord _ s.dropAllLeases with
      | none => exact h
      | some t => exact writeRecord_wf hleases hr
  · grind [writeSignal_wf, resolveLaunch_mem]

@[simp] theorem trapDrained_mem (wid id : Nat) (s : State) : (s.trapDrained wid id).mem = s.mem := by
  rw [State.trapDrained, State.modWarp_mem]

@[simp] theorem evHandlerEntry_mem (wid : Nat) (s : State) : (evHandlerEntry wid s).mem = s.mem := by
  unfold evHandlerEntry
  grind [enterHandler_mem]

@[simp] theorem setPark_mem (wid id : Nat) (st : ParkSt) (s : State) : (s.setPark wid id st).mem = s.mem := by
  rw [State.setPark, State.modWarp_mem]

@[simp] theorem hostDelivered_mem (wid id j : Nat) (s : State) : (s.hostDelivered wid id j).mem = s.mem := by
  simp only [State.hostDelivered, State.modWarp_mem, raise_mem, State.setReg_mem]

theorem recordWrite_wf (core wid : Nat) (p : Parked) {s : State} (h : Memory.wf s.mem) :
    Memory.wf (s.recordWrite core wid p).mem := by
  unfold State.recordWrite
  grind [setPark_mem, hostDelivered_mem, vWrite_wf, setRegF_mem]

theorem evHostFaultRecord_wf (core : Nat) {s : State} (h : Memory.wf s.mem) : Memory.wf (evHostFaultRecord core s).mem := by
  unfold evHostFaultRecord
  grind [hostDelivered_mem, recordWrite_wf]

@[simp] theorem unpark_mem (wid id : Nat) (s : State) : (s.unpark wid id).mem = s.mem := by
  rw [State.unpark, State.modWarp_mem]

@[simp] theorem evResumeRetry_mem (j : Nat) (seq : BitVec 24) (s : State) : (evResumeRetry j seq s).mem = s.mem := by
  unfold evResumeRetry
  grind [setPark_mem, State.modWarp_mem, unpark_mem]

theorem evResumeEnd_wf (j : Nat) (seq : BitVec 24) {s : State} (h : Memory.wf s.mem) :
    Memory.wf (evResumeEnd j seq s).mem := by
  unfold evResumeEnd
  grind [setPark_mem, exitLanes_wf, unpark_mem]

theorem callWrites_wf (v : Via) (ws : List (Nat × List Byte)) (g : Nat) {s : State} (h : Memory.wf s.mem) :
    Memory.wf (State.callWrites v ws g s).2.mem := by
  induction ws generalizing g s with
  | nil => exact h
  | cons w r ih => unfold State.callWrites; grind [vWrite_wf]

theorem callPut_wf {v : Via} {ws : List (Nat × List Byte)} {k : Nat → State → CallStep} {s : State}
    (hk : ∀ g t, Memory.wf t.mem → (k g t).MemWf) (h : Memory.wf s.mem) : (s.callPut v ws k).MemWf := by
  unfold State.callPut
  grind [callWrites_wf, CallStep.MemWf]

theorem callStep_wf (core : Nat) (r : WcallRec) {s : State} (h : Memory.wf s.mem) : (s.callStep core r).MemWf := by
  unfold State.callStep
  dsimp only
  split
  · exact callPut_wf (fun g t ht => ht) h
  split
  · trivial
  split
  · split
    · split
      · trivial
      · exact h
    · split
      · trivial
      · exact callPut_wf (fun g t ht => ht) h
  · exact callPut_wf (fun g t ht => by grind [CallStep.MemWf, raise_mem]) h

theorem callDrain_wf (core i : Nat) (r : WcallRec) {s : State} (h : Memory.wf s.mem) :
    Memory.wf (s.callDrain core i r).mem := by
  have hk := callStep_wf core r h
  unfold State.callDrain
  grind [CallStep.MemWf, State.modCore_mem]

theorem evWcallDrain_wf (core : Nat) {s : State} (h : Memory.wf s.mem) : Memory.wf (evWcallDrain core s).mem := by
  unfold evWcallDrain
  grind [callDrain_wf]

theorem evQueueHandOn_wf (core : Nat) {s : State} (h : Memory.wf s.mem) : Memory.wf (evQueueHandOn core s).mem := by
  unfold evQueueHandOn
  grind [handCopy_mem, trapDrained_mem, State.modCore_mem, callDrain_wf]

theorem promote_wf (core job n : Nat) {s : State} (h : Memory.wf s.mem) : Memory.wf (State.promote core job n s).mem := by
  induction n generalizing s with
  | zero => exact h
  | succ n ih => unfold State.promote; grind [entryBytes_mem, ringWrite_wf]

theorem evSpillRefill_wf (core job : Nat) {s : State} (h : Memory.wf s.mem) : Memory.wf (evSpillRefill core job s).mem := by
  unfold evSpillRefill
  grind [promote_wf, State.modCore_mem]

@[simp] theorem evRacqRemote_mem (core : Nat) (s : State) : (evRacqRemote core s).mem = s.mem := by
  unfold evRacqRemote
  grind [dropLeases_mem, State.modCore_mem]

@[simp] theorem evWaitaSample_mem (wid : Nat) (s : State) : (evWaitaSample wid s).mem = s.mem := by
  unfold evWaitaSample
  split
  · rfl
  · exact foldl_mem (fun t b => by grind [sampleAll_mem]) _ s

@[simp] theorem evPreemptRequest_mem (l : Nat) (s : State) : (evPreemptRequest l s).mem = s.mem := by
  unfold evPreemptRequest
  grind

@[simp] theorem modReq_mem (k : Nat) (f : PreReq → PreReq) (s : State) : (s.modReq k f).mem = s.mem := rfl

@[simp] theorem endRequests_mem (s : State) : s.endRequests.mem = s.mem :=
  foldl_mem (fun t r => by grind [State.modLaunch_mem]) s.pre s

@[simp] theorem abandon_mem (k : Nat) (u : List (Nat × Nat)) (s : State) : (s.abandon k u).mem = s.mem := by
  unfold State.abandon
  grind [modReq_mem, endRequests_mem]

@[simp] theorem evPreemptAbandon_mem (req : Nat) (s : State) : (evPreemptAbandon req s).mem = s.mem := by
  unfold evPreemptAbandon
  grind [abandon_mem]

@[simp] theorem warpsBack_mem (ws : List Nat) (bs : List Byte) (s : State) : (State.warpsBack ws bs s).mem = s.mem := by
  induction ws generalizing bs s with
  | nil => rfl
  | cons w r ih => unfold State.warpsBack; grind [State.modWarp_mem]

@[simp] theorem readBack_mem (l : Launch) (blk core kb : Nat) (bs : List Byte) (s : State) :
    (s.readBack l blk core kb bs).mem = s.mem := by
  simp only [State.readBack, warpsBack_mem, State.modCore_mem, State.modBlock_mem]

@[simp] theorem pullCopies_mem (blk : Nat) (s : State) : (s.pullCopies blk).mem = s.mem := by
  rw [State.pullCopies, State.modBlock_mem]

@[simp] theorem compareTiles_mem (blk : Nat) (s : State) : (s.compareTiles blk).mem = s.mem := by
  unfold State.compareTiles
  split
  · rfl
  · exact foldl_mem (fun t k => by grind [countAbft_mem, modTile_mem]) _ s

theorem imageWrites_wf (v : Via) (va n : Nat) (bs : List Byte) (g : Nat) {s : State} (h : Memory.wf s.mem) :
    Memory.wf (State.imageWrites v va n bs g s).2.2.mem := by
  induction n generalizing va bs g s with
  | zero => exact h
  | succ n ih => unfold State.imageWrites; grind [vWrite_wf]

theorem put_wf (blk : Nat) {x : SaveRun} (h : Memory.wf x.s.mem) : Memory.wf (x.put blk).s.mem := by
  unfold SaveRun.put
  split
  · exact h
  · exact h
  · dsimp only
    split
    · exact h
    · split
      case h_1 himage => exact congrArg (fun r => Memory.wf r.2.2.mem) himage ▸ imageWrites_wf _ _ _ _ _ h
      case h_2 himage =>
        rw [State.modLaunch_mem]
        exact congrArg (fun r => Memory.wf r.2.2.mem) himage ▸ imageWrites_wf _ _ _ _ _ h

@[simp] theorem takeBlock_mem (e : SaveRange × Nat) (s : State) : (s.takeBlock e).mem = s.mem := by
  rw [State.takeBlock, dropPackets_mem, pullCopies_mem, setUsed_mem, State.modBlock_mem]

theorem saveAll_wf (bs : List Nat) {s : State} (h : Memory.wf s.mem) : (s.saveAll bs).MemWf := by
  have hrun : Memory.wf (bs.foldl (fun (x : SaveRun) b => x.put b)
      { s := bs.foldl (fun s b => s.compareTiles b) s }).s.mem :=
    List.foldlRecOn bs _ (motive := fun x : SaveRun => Memory.wf x.s.mem)
      (by rwa [foldl_mem fun _ _ => compareTiles_mem ..]) fun x hx b _ => put_wf b hx
  have htake (es : List (SaveRange × Nat)) (t : State) : (es.foldl (fun s e => s.takeBlock e) t).mem = t.mem :=
    foldl_mem (fun _ _ => takeBlock_mem ..) es t
  unfold State.saveAll
  grind [SaveRes.MemWf]

theorem evPreemptSave_wf (blk : Nat) {s : State} (h : Memory.wf s.mem) : Memory.wf (evPreemptSave blk s).mem := by
  have hsave := fun bs => saveAll_wf bs h
  unfold evPreemptSave
  grind [SaveRes.MemWf, endRequests_mem, modReq_mem, record_mem, abandon_mem]

@[simp] theorem setLevel_mem (core level : Nat) (s : State) : (s.setLevel core level).mem = s.mem := rfl

@[simp] theorem disableCore_mem (core : Nat) (s : State) : (s.disableCore core).mem = s.mem := rfl

@[simp] theorem replaceCore_mem (core : Nat) (s : State) : (s.replaceCore core).mem = s.mem := by
  unfold State.replaceCore
  grind [State.modCore_mem, setRegF_mem, setLevel_mem, disableCore_mem]

@[simp] theorem evCoreVacate_mem (core : Nat) (s : State) : (evCoreVacate core s).mem = s.mem := by
  unfold evCoreVacate
  grind [replaceCore_mem, endRequests_mem, unskip_mem]

@[simp] theorem restoreBlock_mem (l : Launch) (blk core : Nat) (bs : List Byte) (s : State) :
    (s.restoreBlock l blk core bs).mem = s.mem := by
  simp only [State.restoreBlock, State.modBlock_mem, readBack_mem, State.modLaunch_mem, setUsed_mem, State.setReg_mem]

theorem restoreOn_mem {l : Launch} {d : Nat} {bs : List Nat} {s t : State} (h : State.restoreOn l d bs s = some t) :
    t.mem = s.mem := by
  induction bs generalizing s with
  | nil => cases h; rfl
  | cons b r ih => unfold State.restoreOn at h; grind [restoreBlock_mem]

theorem restoreCluster_mem {l : Launch} {k : Nat} {s t : State} (h : s.restoreCluster l k = some t) :
    t.mem = s.mem := by
  obtain ⟨d, -, hd⟩ := List.exists_of_findSome?_eq_some h
  exact restoreOn_mem hd

theorem restoreNext_mem {l : Launch} {s t : State} (h : s.restoreNext l = some t) : t.mem = s.mem := by
  have hall (ks : List Nat) : ∀ u ∈ ks.foldl (fun (t : Option State) k => t.bind (State.restoreCluster l k)) (some s),
      u.mem = s.mem :=
    List.foldlRecOn ks _ (motive := fun t : Option State => ∀ u ∈ t, u.mem = s.mem) (by simp) fun t ht k _ u hu => by
      obtain ⟨v, hv, hu⟩ := Option.bind_eq_some_iff.1 hu
      rw [restoreCluster_mem hu, ht v hv]
  obtain ⟨u, hu, rfl⟩ := Option.map_eq_some_iff.1 h
  rw [markReady_mem, State.modLaunch_mem, hall _ u hu]

theorem placeSaved_wf (core job : Nat) (es : List QEntry) {s : State} (h : Memory.wf s.mem) :
    Memory.wf (State.placeSaved core job es s).2.mem := by
  induction es generalizing s with
  | nil => exact h
  | cons e r ih => unfold State.placeSaved; grind [placeEntry_wf]

theorem lateResumes_wf (blk : Nat) {s : State} (h : Memory.wf s.mem) : Memory.wf (s.lateResumes blk).mem :=
  foldl_wf (fun t wid ht => foldl_wf (fun t p ht => by grind [exitLanes_wf, unpark_mem, State.modWarp_mem]) ht) h

theorem beginBlock_wf (blk : Nat) {s : State} (h : Memory.wf s.mem) : Memory.wf (s.beginBlock blk).mem := by
  unfold State.beginBlock
  grind [placeSaved_wf, dropLeases_mem, lateResumes_wf, State.modBlock_mem]

theorem evBlockResume_wf (l cluster : Nat) {s : State} (h : Memory.wf s.mem) :
    Memory.wf (evBlockResume l cluster s).mem := by
  refine foldl_wf (fun t b ht => beginBlock_wf _ ht) ?_
  split
  · split
    · cases hr : s.restoreNext _ with
      | none => exact h
      | some t => rwa [Option.getD_some, restoreNext_mem hr]
    · exact h
  · exact h

@[simp] theorem evPickLaunch_mem (s : State) : (evPickLaunch s).mem = s.mem := by
  have hnext {u : State} {l : Nat} {t : State} (h : (u.placeNext l).map State.markReady = some t) : t.mem = u.mem := by
    obtain ⟨v, hv, rfl⟩ := Option.map_eq_some_iff.1 h
    rw [markReady_mem, placeNext_mem hv]
  unfold evPickLaunch
  grind [markReady_mem, restoreNext_mem, State.modLaunch_mem]

end Sys2Proof.Machine.MemoryForm
end

section
/-!
PROOFS. Memory under the slices, the host, the fabric and the undo log (08 R178 to R185; 12 R264 to R290).
-/

set_option Elab.async false

namespace Sys2Proof.Machine.MemoryForm

@[simp] theorem evSliceReadRequest_mem (core line : Nat) (s : State) : (evSliceReadRequest core line s).mem = s.mem := by
  unfold evSliceReadRequest
  grind [l1Fill_mem]

@[simp] theorem evCheckerLineFill_mem (core line : Nat) (s : State) : (evCheckerLineFill core line s).mem = s.mem := by
  unfold evCheckerLineFill
  grind [fetchLine_mem, State.modCore_mem]

theorem putAll_wf (ws : List (Nat × Nat × List Byte)) {s : State} (h : Memory.wf s.mem) :
    Memory.wf (s.putAll ws).mem :=
  foldl_wf (fun t w ht => by
    split
    · rwa [wrKey_mem]
    · rw [putBytes_mem]; exact Memory.wf_wrMem _ _ ht) h

@[simp] theorem setGwct_mem (core id g : Nat) (s : State) : (s.setGwct core id g).mem = s.mem := rfl

theorem evSliceWrite_wf (core id : Nat) {s : State} (h : Memory.wf s.mem) : Memory.wf (evSliceWrite core id s).mem := by
  unfold evSliceWrite
  grind [setGwct_mem, putAll_wf, arrive_mem]

theorem evHostWindowResponse_wf (core id : Nat) {s : State} (h : Memory.wf s.mem) :
    Memory.wf (evHostWindowResponse core id s).mem := by
  unfold evHostWindowResponse
  grind [setGwct_mem, putAll_wf]

@[simp] theorem evWriteAck_mem (core id : Nat) (s : State) : (evWriteAck core id s).mem = s.mem := by
  unfold evWriteAck
  grind [State.modCore_mem, refresh_mem, State.modWarp_mem, sweep_mem, State.modLaunch_mem]

@[simp] theorem evSliceEvict_mem (line : Nat) (s : State) : (evSliceEvict line s).mem = s.mem := by
  unfold evSliceEvict
  grind [recall_mem, writeBack_mem]

@[simp] theorem evOwnershipRecall_mem (line : Nat) (s : State) : (evOwnershipRecall line s).mem = s.mem := by
  rw [evOwnershipRecall, recall_mem]

@[simp] theorem evPredictorDecay_mem (core : Nat) (s : State) : (evPredictorDecay core s).mem = s.mem := rfl

@[simp] theorem evPageWalk_mem (core asid : Nat) (va : BitVec 55) (s : State) : (evPageWalk core asid va s).mem = s.mem := by
  unfold evPageWalk
  grind [free_mem, State.modCore_mem]

@[simp] theorem shootGo_mem (s : State) : s.shootGo.mem = s.mem := rfl

@[simp] theorem evShootdown_mem (s : State) : (evShootdown s).mem = s.mem := by
  unfold evShootdown
  grind [shootGo_mem, setRegF_mem]

@[simp] theorem updCur_mem (s : State) : s.updCur.mem = s.mem := rfl

@[simp] theorem flipEnd_mem (st : Nat) (s : State) : (s.flipEnd st).mem = s.mem := rfl

@[simp] theorem flipGo_mem (toHost : Bool) (s : State) : (s.flipGo toHost).mem = s.mem := by
  unfold State.flipGo
  grind [setRegF_mem, flipEnd_mem]

@[simp] theorem evBiasFlipToHost_mem (s : State) : (evBiasFlipToHost s).mem = s.mem := by
  rw [evBiasFlipToHost, flipGo_mem]

@[simp] theorem evBiasFlipToDevice_mem (s : State) : (evBiasFlipToDevice s).mem = s.mem := by
  rw [evBiasFlipToDevice, flipGo_mem]

@[simp] theorem pageToHost_mem (p : Nat) (s : State) : (s.pageToHost p).mem = s.mem := by
  unfold State.pageToHost
  dsimp only
  rw [foldl_mem fun t ln => ?_]
  rw [writeBack_mem]

@[simp] theorem poisonLine_mem (ln : Nat) (s : State) : (s.poisonLine ln).mem = s.mem := rfl

@[simp] theorem pageToDevice_mem (p : Nat) (s : State) : (s.pageToDevice p).mem = s.mem := by
  unfold State.pageToDevice
  dsimp only
  rw [foldl_mem fun t ln => ?_]
  split
  · rfl
  · exact poisonLine_mem ..

@[simp] theorem evBiasFlipPageDone_mem (s : State) : (evBiasFlipPageDone s).mem = s.mem := by
  unfold evBiasFlipPageDone
  grind [flipEnd_mem, pageToHost_mem, pageToDevice_mem, updCur_mem]

@[simp] theorem evHostMemRead_mem (pa : Nat) (keep : Bool) (s : State) : (evHostMemRead pa keep s).mem = s.mem := by
  unfold evHostMemRead
  grind [recall_mem]

@[simp] theorem poisonRange_mem (pa n : Nat) (s : State) : (s.poisonRange pa n).mem = s.mem := by
  unfold State.poisonRange
  split
  · rfl
  · exact foldl_mem (fun _ _ => setPoison_mem ..) _ s

theorem hostWrite_wf (pa : Nat) (bytes : List Byte) (poison : Bool) {s : State} (h : Memory.wf s.mem) :
    Memory.wf (s.hostWrite pa bytes poison).mem := by
  unfold State.hostWrite
  grind [perform_mem, poisonRange_mem, free_mem, Memory.wf_wrMem]

theorem evHostMemWrite_wf (pa : Nat) (bytes : List Byte) (poison : Bool) {s : State} (h : Memory.wf s.mem) :
    Memory.wf (evHostMemWrite pa bytes poison s).mem := by
  unfold evHostMemWrite
  grind [hostWrite_wf]

@[simp] theorem keptAfter_mem (line : Nat) (s : State) : (s.keptAfter line).2.mem = s.mem := by
  unfold State.keptAfter
  grind [free_mem]

theorem evBisnpResponse_wf (line : Nat) (data : Option (List Byte)) {s : State} (h : Memory.wf s.mem) :
    Memory.wf (evBisnpResponse line data s).mem := by
  unfold evBisnpResponse
  grind [perform_mem, keptAfter_mem, Memory.wf_wrMem]

@[simp] theorem freeBytes_mem (n : Nat) (s : State) : (s.freeBytes n).2.mem = s.mem := rfl

theorem evHostSnoop_wf (line : Nat) (excl : Bool) {s : State} (h : Memory.wf s.mem) :
    Memory.wf (evHostSnoop line excl s).mem := by
  unfold evHostSnoop
  split
  · exact h
  dsimp only
  split
  · exact h
  · exact Memory.wf_wrMem _ _ (by rwa [freeBytes_mem])

@[simp] theorem evHostLinkDown_mem (s : State) : (evHostLinkDown s).mem = s.mem := by
  unfold evHostLinkDown
  split <;> rfl

@[simp] theorem loseStores_mem (p : SqEntry → Bool) (host : Bool) (s : State) : (s.loseStores p host).mem = s.mem := rfl

@[simp] theorem loseHost_mem (s : State) : s.loseHost.mem = s.mem := by
  unfold State.loseHost
  rw [setRegF_mem]
  dsimp only
  rw [foldl_mem fun t l => State.modLaunch_mem .., foldl_mem fun t ln => ?_, loseStores_mem]
  split
  · exact poisonLine_mem ..
  · rfl

@[simp] theorem evHostLinkLoss_mem (s : State) : (evHostLinkLoss s).mem = s.mem := by
  unfold evHostLinkLoss
  grind [loseHost_mem]

@[simp] theorem setCap_mem (k lo w v : Nat) (s : State) : (s.setCap k lo w v).mem = s.mem := rfl

@[simp] theorem updPorts_mem (s : State) : s.updPorts.mem = s.mem := rfl

@[simp] theorem updFan_mem (s : State) : s.updFan.mem = s.mem := foldl_mem (fun _ _ => setRegF_mem ..) _ s

@[simp] theorem setPort_mem (p st : Nat) (s : State) : (s.setPort p st).mem = s.mem := by
  rw [State.setPort, updFan_mem, updPorts_mem, setRegF_mem]

@[simp] theorem showLanes_mem (p : Nat) (bad : List Nat) (s : State) : (s.showLanes p bad).mem = s.mem := by
  unfold State.showLanes
  grind [setRegF_mem]

@[simp] theorem evLaneFailure_mem (port lane : Nat) (s : State) : (evLaneFailure port lane s).mem = s.mem := by
  unfold evLaneFailure
  grind [State.setReg_mem, setPort_mem, showLanes_mem]

@[simp] theorem evPortTrain_mem (port : Nat) (s : State) : (evPortTrain port s).mem = s.mem := by
  unfold evPortTrain
  grind [setPort_mem]

@[simp] theorem evPortFlits_mem (port retry fec : Nat) (s : State) : (evPortFlits port retry fec s).mem = s.mem := by
  unfold evPortFlits
  split <;> rfl

@[simp] theorem evRetrainComplete_mem (port : Nat) (s : State) : (evRetrainComplete port s).mem = s.mem := by
  unfold evRetrainComplete
  grind [setPort_mem]

@[simp] theorem evPortDead_mem (port : Nat) (lostDevs : List Nat) (s : State) : (evPortDead port lostDevs s).mem = s.mem := by
  unfold evPortDead
  grind [setPort_mem, setRegF_mem]

@[simp] theorem updNshr_mem (o : Nat) (s : State) : (s.updNshr o).mem = s.mem := rfl

@[simp] theorem raiseGwct_mem (line k : Nat) (s : State) : (s.raiseGwct line k).mem = s.mem := rfl

@[simp] theorem fanDone_mem (o : Nat) (s : State) : (s.fanDone o).mem = s.mem := by
  unfold State.fanDone
  grind [updFan_mem, setRegF_mem]

@[simp] theorem sharerDone_mem (o dev line k : Nat) (s : State) : (s.sharerDone o dev line k).mem = s.mem := by
  rw [State.sharerDone, fanDone_mem, updNshr_mem, raiseGwct_mem]

@[simp] theorem countDisc_mem (o : Nat) (s : State) : (s.countDisc o).mem = s.mem := rfl

@[simp] theorem dropPeerLines_mem (dev : Nat) (s : State) : (s.dropPeerLines dev).mem = s.mem := rfl

@[simp] theorem dropSharer_mem (dev : Nat) (s : State) : (s.dropSharer dev).mem = s.mem := by
  unfold State.dropSharer
  rw [foldl_mem fun t o => ?_, foldl_mem fun _ _ => sharerDone_mem ..]
  rw [updNshr_mem]

@[simp] theorem evPeerLost_mem (dev : Nat) (s : State) : (evPeerLost dev s).mem = s.mem := by
  unfold evPeerLost
  split
  · rfl
  · rw [loseStores_mem, dropSharer_mem, dropPeerLines_mem, foldl_mem fun _ _ => setRegF_mem ..]

@[simp] theorem evPeerRemovalReport_mem (dev : Nat) (s : State) : (evPeerRemovalReport dev s).mem = s.mem := by
  unfold evPeerRemovalReport
  split <;> rfl

@[simp] theorem evReplicaRead_mem (dev line : Nat) (s : State) : (evReplicaRead dev line s).mem = s.mem := by
  unfold evReplicaRead
  grind [grantLease_mem, countDisc_mem, updNshr_mem]

theorem fromPeer_wf {dev line : Nat} {serve : State → State} (hserve : ∀ t, Memory.wf t.mem → Memory.wf (serve t).mem)
    {s : State} (h : Memory.wf s.mem) : Memory.wf (s.fromPeer dev line serve).mem := by
  have hdisc (o : Option Nat) : Memory.wf ((o.map (fun o => s.countDisc o)).getD s).mem := by
    cases o with
    | none => exact h
    | some o => exact (congrArg _ (countDisc_mem ..)).trans h
  unfold State.fromPeer
  grind

theorem evPeerStore_wf (dev loc : Nat) (bytes : List Byte) {s : State} (h : Memory.wf s.mem) :
    Memory.wf (evPeerStore dev loc bytes s).mem := by
  unfold evPeerStore
  split
  · exact h
  · exact fromPeer_wf (fun t ht => perform_wf t none loc bytes ht) h

theorem evPeerAtomic_wf (dev loc : Nat) (op : AOp) (ty : ATy) (n cmp : Nat) {s : State} (h : Memory.wf s.mem) :
    Memory.wf (evPeerAtomic dev loc op ty n cmp s).mem := by
  unfold evPeerAtomic
  generalize (if ty.wide64 then 8 else 4) = k
  dsimp only
  split
  · exact h
  · refine fromPeer_wf (fun t ht => ?_) h
    split
    · exact ht
    split
    · rwa [recall_mem]
    · exact perform_wf t none loc _ ht

@[simp] theorem evInvalidationAck_mem (obj dev line expiry : Nat) (s : State) :
    (evInvalidationAck obj dev line expiry s).mem = s.mem := by
  unfold evInvalidationAck
  grind [countDisc_mem, sharerDone_mem]

theorem evReplicaInvalidation_wf (line : Nat) {s : State} (h : Memory.wf s.mem) :
    Memory.wf (evReplicaInvalidation line s).mem := by
  unfold evReplicaInvalidation
  split
  · exact h
  · exact Memory.wf_wrMem _ _ (by rwa [freeBytes_mem])

@[simp] theorem evObjectDeclare_mem (o : Nat) (s : State) : (evObjectDeclare o s).mem = s.mem := by
  unfold evObjectDeclare
  split <;> rfl

@[simp] theorem evObjectValidate_mem (o : Nat) (s : State) : (evObjectValidate o s).mem = s.mem := by
  unfold evObjectValidate
  grind [setRegF_mem]

@[simp] theorem evObjectRemove_mem (o : Nat) (s : State) : (evObjectRemove o s).mem = s.mem := by
  unfold evObjectRemove
  grind [fanDone_mem, setRegF_mem]

@[simp] theorem bumpReg_mem (off : Nat) (s : State) : (s.bumpReg off).mem = s.mem := rfl

@[simp] theorem poisonDram_mem (pa : Nat) (s : State) : (s.poisonDram pa).mem = s.mem := by
  unfold State.poisonDram
  split <;> rfl

@[simp] theorem evPatrolScrub_mem (pa : Nat) (correctable : Bool) (s : State) : (evPatrolScrub pa correctable s).mem = s.mem := by
  unfold evPatrolScrub
  grind [bumpReg_mem, poisonDram_mem, setReg64_mem]

@[simp] theorem newInterval_mem (s : State) : s.newInterval.mem = s.mem := by
  simp only [State.newInterval, setReg64_mem, State.setReg_mem, setRegF_mem]

@[simp] theorem evUndoStart_mem (s : State) : (evUndoStart s).mem = s.mem := by
  rw [evUndoStart, newInterval_mem]

theorem putLine_wf (line : Nat) (bytes : List Byte) (p : Nat × Nat) {s : State} (h : Memory.wf s.mem) :
    Memory.wf (s.putLine line bytes p).mem := Memory.wf_wrMem _ _ h

theorem discardLines_wf {s : State} (h : Memory.wf s.mem) : Memory.wf s.discardLines.mem := by
  unfold State.discardLines
  dsimp only
  rw [foldl_mem fun t e => ?_]
  · exact foldl_wf (fun t d ht => by grind [putLine_wf]) h
  · split <;> rfl

theorem evUndoRestore_wf {s : State} (h : Memory.wf s.mem) : Memory.wf (evUndoRestore s).mem := by
  unfold evUndoRestore
  dsimp only
  split
  · rwa [setRegF_mem]
  · rw [setRegF_mem, newInterval_mem]
    exact foldl_wf (fun t e ht => putLine_wf _ _ _ ht) (discardLines_wf h)

end Sys2Proof.Machine.MemoryForm
end

section
/-!
PROOFS. Memory under grafts, segments, the checked machine, start and outside events; every step keeps its form
(01 R11 to R24; 11 R246 to R263; 13 R291 to R298).
-/

set_option Elab.async false

namespace Sys2Proof.Machine.MemoryForm

@[simp] theorem updGraftReg_mem (s : State) : s.updGraftReg.mem = s.mem := by
  unfold State.updGraftReg
  rw [foldl_mem fun t e => foldl_mem (fun t k => State.setReg_mem ..) _ t, setReg64_mem]

@[simp] theorem graftStatus_mem (n : Nat) (s : State) : (s.graftStatus n).mem = s.mem := rfl

@[simp] theorem evGraftLoad_mem (copyOk sigOk : Bool) (s : State) : (evGraftLoad copyOk sigOk s).mem = s.mem := by
  unfold evGraftLoad
  grind [graftStatus_mem, free_mem, setRegF_mem]

@[simp] theorem evGraftActivate_mem (s : State) : (evGraftActivate s).mem = s.mem := by
  unfold evGraftActivate
  grind [updGraftReg_mem]

@[simp] theorem evGraftRetire_mem (s : State) : (evGraftRetire s).mem = s.mem := by
  unfold evGraftRetire
  grind [setRegF_mem]

theorem evEnterSegment_wf (wid : Nat) {s : State} (h : Memory.wf s.mem) : Memory.wf (evEnterSegment wid s).mem := by
  unfold evEnterSegment
  grind [tryEnterSegment_wf]

theorem segAlloc_wf (asid trbase size : Nat) {s : State} (h : Memory.wf s.mem) :
    Memory.wf (s.segAlloc asid trbase size).2.mem := by
  unfold State.segAlloc
  grind [vWrite_wf]

theorem segBuild_wf {asid : Nat} {l : Launch} {seg : Nat} {s : State} {r : Nat × State} (h : Memory.wf s.mem)
    (hr : s.segBuild asid l seg = some r) : Memory.wf r.2.mem := by
  unfold State.segBuild at hr
  grind [segAlloc_wf, vWrite_wf]

theorem evSegmentTranslate_wf (l seg : Nat) {s : State} (h : Memory.wf s.mem) :
    Memory.wf (evSegmentTranslate l seg s).mem := by
  unfold evSegmentTranslate
  split
  · exact h
  split
  · exact h
  dsimp only
  split
  · exact h
  · rename_i v t hbuild
    have ht := segBuild_wf h hbuild
    grind [vWrite_wf, State.modLaunch_mem]

@[simp] theorem evPickWarp_mem (core part seq : Nat) (starved : List Nat) (s : State) :
    (evPickWarp core part seq starved s).mem = s.mem := by
  unfold evPickWarp
  grind [bindGroup_mem]

theorem runPrepared_wf {p : Prep} (h : p.MemWf) : Memory.wf (State.runPrepared p).mem := by
  cases p with
  | done s => exact h
  | exec i s =>
    unfold State.runPrepared
    dsimp only
    split
    · rename_i body c hb hc
      exact runInstr_wf i (bodyOf_keeps hb) c h
    · exact h

theorem evReleaseWaitEnd_wf (wid : Nat) {s : State} (h : Memory.wf s.mem) : Memory.wf (evReleaseWaitEnd wid s).mem := by
  unfold evReleaseWaitEnd
  split
  · exact h
  split
  · exact h
  · exact runPrepared_wf (retry_wf _ _ h)

@[simp] theorem evRetirePacket_mem (core part : Nat) (p : RetirePacket) (s : State) :
    (evRetirePacket core part p s).mem = s.mem := by
  unfold evRetirePacket
  grind [State.modCore_mem]

@[simp] theorem loadReads_mem (c : Ctx) (w : Warp) (i : Instr) (rs : Reached) (s : State) :
    (s.loadReads c w i rs).2.mem = s.mem := by
  have hkept {α : Type} {f : List (Nat × Except FaultInfo (List Word)) × State → α →
      List (Nat × Except FaultInfo (List Word)) × State} (hf : ∀ t a, (f t a).2.mem = t.2.mem) (l : List α) :
      (l.foldl f ([], s)).2.mem = s.mem :=
    foldl_kept (fun t : List (Nat × Except FaultInfo (List Word)) × State => t.2.mem) hf l _
  unfold State.loadReads
  split
  · exact hkept (fun t r => by grind [readPieces_mem]) rs
  · dsimp only
    split
    · rfl
    · exact hkept (fun t e => by grind [elemRead_mem]) _
  · rfl

theorem checkLoad_mem {core part : Nat} {o : Outstanding} {i : Instr} {w : Warp} {s : State} {r : Outstanding × State}
    (h : s.checkLoad core part o i w = some r) : r.2.mem = s.mem := by
  unfold State.checkLoad at h
  grind [loadReads_mem]

theorem fetchAtCheck_wf (core part wid : Nat) {s : State} (h : Memory.wf s.mem) :
    Memory.wf (s.fetchAtCheck core part wid).mem := by
  unfold State.fetchAtCheck
  grind [startRun_wf]

@[simp] theorem checkOne_mem (core part idx : Nat) (o : Outstanding) (s : State) :
    (s.checkOne core part idx o).mem = s.mem := by
  unfold State.checkOne
  split
  · dsimp only
    split
    · split
      · rfl
      · rename_i hload
        rw [recheckMeet_mem, State.modCore_mem]
        exact checkLoad_mem hload
    · rw [State.modCore_mem]
  · rw [State.modCore_mem]

theorem evCheck_wf (core part idx errs : Nat) {s : State} (h : Memory.wf s.mem) :
    Memory.wf (evCheck core part idx errs s).mem := by
  unfold evCheck
  grind [State.modCore_mem, Packets.failCore_mem, checkOne_mem, fetchAtCheck_wf]

theorem commitBody_keeps (s : State) (i : Instr) {body : Ctx → State → Res} (hb : KeepsForm body) (c : Ctx) (w : Warp)
    (o : Outstanding) : KeepsForm (s.commitBody i body c w o) := by
  unfold State.commitBody
  split
  · split
    · exact .of_mem fun c s => sldWith_mem (fun r l k t => rfl) c s
    · exact .of_mem fun c s => State.modWarp_mem ..
  · exact hb

theorem commitInstr_wf (i : Instr) {body : Ctx → State → Res} (hb : KeepsForm body) (c : Ctx) (o : Outstanding)
    {s : State} (h : Memory.wf s.mem) : Memory.wf (s.commitInstr i body c o).mem := by
  unfold State.commitInstr
  split
  · exact h
  rename_i w hw
  have hr := instrRes_wf i (commitBody_keeps s i hb c w o) c w h
  dsimp only
  split
  · exact applyRes_wf _ _ _ (by rwa [mismatch_mem])
  · rw [Packets.judge_mem]
    exact applyRes_wf _ _ _ hr

theorem commitFound_wf (c : Ctx) (w : Warp) (o : Outstanding) {s : State} (h : Memory.wf s.mem) :
    Memory.wf (s.commitFound c w o).mem := by
  unfold State.commitFound
  dsimp only
  split
  · rw [Packets.judge_mem]
    exact groupFault_wf _ _ h
  · rwa [Packets.judge_mem, emulateInstr_mem]
  · split
    · rename_i body hb
      exact commitInstr_wf _ (bodyOf_keeps hb) c o h
    · exact h

theorem commitPacket_wf (core part idx : Nat) (o : Outstanding) (q : Nat) (b : Binding) {s : State}
    (h : Memory.wf s.mem) : Memory.wf (s.commitPacket core part idx o q b).mem := by
  unfold State.commitPacket
  grind [State.modCore_mem, startRun_wf, Packets.judge_mem, commitFound_wf, settle_mem]

theorem evCommit_wf (core part idx : Nat) (bad : List Nat) {s : State} (h : Memory.wf s.mem) :
    Memory.wf (evCommit core part idx bad s).mem := by
  unfold evCommit
  grind [commitPacket_wf, State.modWarp_mem]

@[simp] theorem evMismatchWindow_mem (core : Nat) (s : State) : (evMismatchWindow core s).mem = s.mem := rfl

theorem deviceReset_wf {s : State} (h : Memory.wf s.mem) : Memory.wf s.deviceReset.mem := h

theorem evPackagePowerOff_wf {s : State} (h : Memory.wf s.mem) : Memory.wf (evPackagePowerOff s).mem :=
  Memory.wf_feraseIf _ h

theorem startFails_wf (reason : Nat) {s : State} (h : Memory.wf s.mem) : Memory.wf (s.startFails reason).mem := by
  unfold State.startFails
  grind [setRegF_mem, deviceReset_wf]

@[simp] theorem updFloor_mem (s : State) : s.updFloor.mem = s.mem := rfl

@[simp] theorem mapDie_mem (bad : List Nat) (d : Nat) (s : State) : (s.mapDie bad d).mem = s.mem :=
  foldl_mem (fun t k => by grind [replaceCore_mem, setRegF_mem]) _ _

@[simp] theorem mapCores_mem (r : StartReport) (dies : List Nat) (minimal : Bool) (s : State) :
    (s.mapCores r dies minimal).mem = s.mem := by
  have hmap (ds : List Nat) (s : State) : (ds.foldl (fun s d => s.mapDie r.failedCores d) s).mem = s.mem :=
    foldl_mem (fun _ _ => mapDie_mem ..) ds s
  have hoff (ds : List Nat) (s : State) :
      (ds.foldl (fun s d => (dieCores d).foldl (fun s c => s.disableCore c) s) s).mem = s.mem :=
    foldl_mem (fun t d => foldl_mem (fun _ _ => disableCore_mem ..) _ t) ds s
  unfold State.mapCores
  dsimp only
  split
  · rw [foldl_mem (fun t c => by grind [setLevel_mem]), hoff, hmap]
  · rw [hoff, hmap]

@[simp] theorem startDone_mem (r : StartReport) (minimal : Bool) (s : State) : (s.startDone r minimal).mem = s.mem := by
  unfold State.startDone
  simp only [apply_ite State.mem, setRegF_mem, updGraftReg_mem, updFloor_mem, ite_self]
  rw [foldl_mem fun t p => ?_]
  · exact mapCores_mem ..
  · simp only [apply_ite State.mem, setRegF_mem, ite_self]

theorem evDeviceStart_wf (r : StartReport) {s : State} (h : Memory.wf s.mem) : Memory.wf (evDeviceStart r s).mem := by
  unfold evDeviceStart
  grind [setRegF_mem, State.setReg_mem, startDone_mem, startFails_wf]

theorem evWatchdogExpire_wf {s : State} (h : Memory.wf s.mem) : Memory.wf (evWatchdogExpire s).mem := by
  unfold evWatchdogExpire
  grind [startFails_wf]

theorem evSupplyFault_wf {s : State} (h : Memory.wf s.mem) : Memory.wf (evSupplyFault s).mem := by
  unfold evSupplyFault
  grind [startFails_wf]

theorem evFailsClear_wf {s : State} (h : Memory.wf s.mem) : Memory.wf (evFailsClear s).mem := by
  unfold evFailsClear
  grind [deviceReset_wf, setRegF_mem]

theorem evHostLinkReturn_wf {s : State} (h : Memory.wf s.mem) : Memory.wf (evHostLinkReturn s).mem := by
  unfold evHostLinkReturn
  grind [deviceReset_wf]

@[simp] theorem setTemp_mem (temp : Nat) (s : State) : (s.setTemp temp).mem = s.mem := by
  rw [State.setTemp, setRegF_mem]

@[simp] theorem setThrot_mem (held : Bool) (s : State) : (s.setThrot held).mem = s.mem := rfl

@[simp] theorem evPowerWindow_mem (power temp : Nat) (s : State) : (evPowerWindow power temp s).mem = s.mem := by
  unfold evPowerWindow
  rw [setThrot_mem, setRegF_mem, setTemp_mem]

@[simp] theorem evThermalThrottle_mem (temp : Nat) (s : State) : (evThermalThrottle temp s).mem = s.mem := by
  unfold evThermalThrottle
  grind [setThrot_mem, setTemp_mem]

@[simp] theorem evThermalTrip_mem (s : State) : (evThermalTrip s).mem = s.mem := by
  unfold evThermalTrip
  rw [setRegF_mem, setRegF_mem, setTemp_mem]

@[simp] theorem evFloorWrite_mem (core level : Nat) (s : State) : (evFloorWrite core level s).mem = s.mem := by
  unfold evFloorWrite
  grind [updFloor_mem, setRegF_mem, setLevel_mem]

@[simp] theorem w1c_mem (off : Nat) (val : Word) (s : State) : (s.w1c off val).mem = s.mem := by
  unfold State.w1c
  grind [setRegF_mem]

@[simp] theorem evRegisterWrite_mem (off : Nat) (val : Word) (s : State) : (evRegisterWrite off val s).mem = s.mem := by
  unfold evRegisterWrite
  grind [State.setReg_mem, updCur_mem, w1c_mem]

@[simp] theorem evClearMismatch_mem (core : Nat) (s : State) : (evClearMismatch core s).mem = s.mem := rfl

/-- Every step of a device agent keeps the form. -/
theorem event_wf {i : Instr} (hi : bodyOf i = none) {s : State} (h : Memory.wf s.mem) :
    ∃ t, exec i s = .next t ∧ Memory.wf t.mem := by
  cases i
  case retirePacket | checkerLineFill | mismatchWindow | pickWarp | reggrowGrant | reggrowFail | queueDoorbell |
      errClear | nopPacket | launchPacket | graphPacket | graphCheck | phasePacket | phaseClosePacket |
      waitPacket | waitPacketSample | cancelLaunchPacket | cancelGraphPacket | cancelPhasePacket |
      cancelJobPacket | jobOpen | jobReopen | refill | pickLaunch | preemptRequest | preemptAbandon | coreVacate |
      handlerEntry | resumeRetry | matrixStart | matrixCheck | engineTake | sliceReadRequest | writeAck |
      sliceEvict | ownershipRecall | predictorDecay | pageWalk | racqRemote | waitaSample | groveEntryFetch |
      shootdown | graftLoad | graftActivate | graftRetire | biasFlipToHost | biasFlipToDevice | hostMemRead |
      hostLinkLoss | laneFailure | retrainComplete | portDead | peerLost | peerRemovalReport | replicaRead |
      invalidationAck | objectDeclare | objectValidate | objectRemove | patrolScrub | undoStart | powerWindow |
      floorWrite | registerWrite | biasFlipPageDone | hostLinkDown | thermalThrottle =>
    exact ⟨_, rfl, by simpa using h⟩
  case check => exact ⟨_, rfl, evCheck_wf (h := h) ..⟩
  case commit => exact ⟨_, rfl, evCommit_wf (h := h) ..⟩
  case signalStorePacket => exact ⟨_, rfl, evSignalStorePacket_wf (h := h) ..⟩
  case signalAddPacket => exact ⟨_, rfl, evSignalAddPacket_wf (h := h) ..⟩
  case preemptSave => exact ⟨_, rfl, evPreemptSave_wf (h := h) ..⟩
  case blockResume => exact ⟨_, rfl, evBlockResume_wf (h := h) ..⟩
  case launchComplete => exact ⟨_, rfl, evLaunchComplete_wf (h := h) ..⟩
  case queueHandOn => exact ⟨_, rfl, evQueueHandOn_wf (h := h) ..⟩
  case spillRefill => exact ⟨_, rfl, evSpillRefill_wf (h := h) ..⟩
  case hostFaultRecord => exact ⟨_, rfl, evHostFaultRecord_wf (h := h) ..⟩
  case resumeEnd => exact ⟨_, rfl, evResumeEnd_wf (h := h) ..⟩
  case wcallDrain => exact ⟨_, rfl, evWcallDrain_wf (h := h) ..⟩
  case copyComplete => exact ⟨_, rfl, evCopyComplete_wf (h := h) ..⟩
  case sliceWrite => exact ⟨_, rfl, evSliceWrite_wf (h := h) ..⟩
  case lnxRequestServe => exact ⟨_, rfl, evLnxRequestServe_wf (h := h) ..⟩
  case enterSegment => exact ⟨_, rfl, evEnterSegment_wf (h := h) ..⟩
  case segmentTranslate => exact ⟨_, rfl, evSegmentTranslate_wf (h := h) ..⟩
  case hostMemWrite => exact ⟨_, rfl, evHostMemWrite_wf (h := h) ..⟩
  case bisnpResponse => exact ⟨_, rfl, evBisnpResponse_wf (h := h) ..⟩
  case hostLinkReturn => exact ⟨_, rfl, evHostLinkReturn_wf (h := h) ..⟩
  case undoRestore => exact ⟨_, rfl, evUndoRestore_wf (h := h) ..⟩
  case deviceStart => exact ⟨_, rfl, evDeviceStart_wf (h := h) ..⟩
  case watchdogExpire => exact ⟨_, rfl, evWatchdogExpire_wf (h := h) ..⟩
  case supplyFault => exact ⟨_, rfl, evSupplyFault_wf (h := h) ..⟩
  case failsClear => exact ⟨_, rfl, evFailsClear_wf (h := h) ..⟩
  case releaseWaitEnd => exact ⟨_, rfl, evReleaseWaitEnd_wf (h := h) ..⟩
  case tileTransferComplete => exact ⟨_, rfl, evTileTransferComplete_wf (h := h) ..⟩
  case hostSnoop => exact ⟨_, rfl, evHostSnoop_wf (h := h) ..⟩
  case hostWindowResponse => exact ⟨_, rfl, evHostWindowResponse_wf (h := h) ..⟩
  case replicaInvalidation => exact ⟨_, rfl, evReplicaInvalidation_wf (h := h) ..⟩
  case packagePowerOff => exact ⟨_, rfl, evPackagePowerOff_wf (h := h) ..⟩
  case thermalTrip => exact ⟨(evThermalTrip s).finish, rfl, by rwa [State.finish_mem, evThermalTrip_mem]⟩
  all_goals cases hi

/-- Whatever instruction or step of an agent is executed keeps the form. -/
theorem exec_wf {i : Instr} {s t : State} (h : Memory.wf s.mem) (ht : exec i s = .next t) : Memory.wf t.mem := by
  cases hb : bodyOf i with
  | none =>
    obtain ⟨u, hu, hwf⟩ := event_wf hb h
    cases hu.symm.trans ht
    exact hwf
  | some body => exact issue_wf i (bodyOf_keeps hb) h ((Packets.exec_of_bodyOf hb s).symm.trans ht)

theorem runPrep_wf {p : Prep} {t : State} (h : p.MemWf) (ht : runPrep p = .next t) : Memory.wf t.mem := by
  cases p with
  | exec i s => exact exec_wf h ht
  | done s => cases ht; exact h

/-- What comes from outside keeps the form. -/
theorem fromOutside_wf (e : Outside) {s : State} (h : Memory.wf s.mem) : Memory.wf (s.fromOutside e).mem := by
  cases e with
  | tileStoreUnit core idx => exact evTileStoreUnit_wf core idx h
  | peerStore dev loc bytes => exact evPeerStore_wf dev loc bytes h
  | peerAtomic dev loc op ty n cmp => exact evPeerAtomic_wf dev loc op ty n cmp h
  | _ => simpa [State.fromOutside] using h

/-- One step of the machine keeps the form, whoever moves. -/
theorem step_wf {s t : State} (h : Memory.wf s.mem) (ht : step s = .next t) : Memory.wf t.mem := by
  unfold step at ht
  split at ht
  · cases ht; exact h
  · split at ht
    · exact exec_wf h ht
    · cases ht; exact h
  · exact runPrep_wf (prepare_wf _ _ _ h) ht
  · exact runPrep_wf (retry_wf _ _ h) ht
  · cases ht; exact fromOutside_wf _ h

/-- Settles O57: whoever moves, a step of the machine keeps the form. -/
theorem stepsKeepMemoryForm : Obligations.StepsKeepMemoryForm := fun _ _ h ht => step_wf h ht

end Sys2Proof.Machine.MemoryForm
end

section
/-!
PROOFS. CircularBuffers: Reserve, Commit, Acquire and Release of a block's circular buffer (07 R168, R169; 08 R194,
R197; 16 R345). A buffer that changes keeps its block on its core and of its launch, so the instruction issues in the
changed state as it did before.
-/

set_option Elab.async false

namespace Sys2Proof.Machine.Buffers

section Waiting
variable {i : Instr} {s s1 : State} {c : Ctx} {w : Warp} {body : Ctx → State → Res}

/-- A sequencer and a place of a core's table that is not its own. -/
theorem seqAt_setSeq_self (core part q : Nat) (b : Option Binding) (s : State) :
    (s.setSeq core part q b).seqAt core part q = b := by
  unfold State.seqAt State.setSeq
  rw [State.modCore_core_self]
  exact getD_lput_self ..

/-- A warp with one more group that waits. -/
def withWait (b : Binding) (tag : WaitTag) (w : Warp) : Warp :=
  { w with waits := w.waits ++ [{ b with tag := some tag }] }

/-- A group that leaves its sequencer for a wait. -/
theorem park2wait_of_bound {b : Binding} {tag : WaitTag} (hb : s.seqAt c.core c.part c.seq = some b)
    (hwid : b.wid = c.wid) : s.park2wait c tag = (s.freeSeq c.core c.part c.seq).modWarp c.wid (withWait b tag) := by
  unfold State.park2wait
  rw [hb]
  exact if_pos hwid

/-- A free sequencer of a warp that goes on is settled. -/
theorem settle_of_free {core part q wid : Nat} (hfree : s.seqAt core part q = none) (hg : Going s wid) :
    s.settle core part q wid = s := by
  simp only [State.settle, hfree]
  exact stopIfCancelled_going hg

/-- An instruction whose effect makes its group wait. -/
theorem issue_wait {why : WaitWhy} {phase arg : Nat} (h : Issues i s c w) (hbody : body c s = Res.wait why phase arg s1)
    (h1 : Issues i s1 c w) : ∃ t w', issue i body s = .next t ∧
      GroupWaits c { why := why, phase := phase, arg := arg } s1 t w w' := by
  obtain ⟨b, r, w0, hb, -, hwid, -, -, -, -, -, -, -⟩ := ctx_spec h1.ctx
  set tag : WaitTag := { why := why, phase := phase, arg := arg }
  set u := (s1.freeSeq c.core c.part c.seq).modWarp c.wid (withWait b tag) with hu
  have hwarp : u.warp c.wid = some (withWait b tag w) := TrapPaths.modWarp_warp (s := s1.freeSeq _ _ _) h1.warp _
  have hkept : RestKept c.wid c.core s1 u := (RestKept.setSeq ..).trans (RestKept.modWarp ..)
  have hfree : u.seqAt c.core c.part c.seq = none := by
    rw [State.seqAt, hu, modWarp_core]
    exact seqAt_setSeq_self c.core c.part c.seq none s1
  have happly : applyRes i c [] (Res.wait why phase arg s1) = u := by
    simp only [applyRes, Res.wait, List.append_nil, List.map_nil, and_not_nil, if_true, if_neg (ctx_mask_ne h.ctx)]
    rw [park2wait_of_bound hb hwid]
    exact settle_of_free hfree (Going.of_kept hkept h1.going)
  exact ⟨_, _, (issue_eq h body).trans (by rw [hbody, happly]), hkept.trans (finish_rest ..), hfree, hwarp, b, hb, rfl⟩

end Waiting

section Views
variable {i : Instr} {s s0 : State} {c : Ctx} {w : Warp} {body : Ctx → State → Res}

/-- An instruction whose effect, from a state in which it issues as well, is one uniform write. -/
theorem uniWrites_from (h : Issues i s c w) (h0 : Issues i s0 c w) {w64 : Bool} {d : USpec} {x : DWord}
    (hbody : body c s = Res.ok (s0.wrUW c w64 d x)) :
    ∃ t, issue i body s = .next t ∧ UniWrites c s0 t w w64 d x := by
  rw [issue_eq h, hbody, ← issue_eq h0 fun c s => Res.ok (s.wrUW c w64 d x)]
  exact uniAlu_done h0 w64 d fun _ _ => x

theorem modCore_modWarp (core wid : Nat) (f : Core → Core) (g : Warp → Warp) :
    (s.modWarp wid g).modCore core f = (s.modCore core f).modWarp wid g := by
  have hwarp : tget wid (s.modCore core f).warps = tget wid s.warps := rfl
  unfold State.modWarp
  rw [hwarp]
  cases tget wid s.warps <;> rfl

/-- An acquire and a change of a warp come to the same in either order. -/
theorem acquired_modWarp (core wid k : Nat) (sc : Scope) (g : Warp → Warp) :
    acquired core wid sc (s.modWarp k g) = (acquired core wid sc s).modWarp k g := modCore_modWarp ..

theorem acquired_wrU (core wid : Nat) (sc : Scope) (d : USpec) (x : Word) :
    acquired core wid sc (s.wrU c d x) = (acquired core wid sc s).wrU c d x := by
  cases d with
  | s n => exact acquired_modWarp ..
  | _ => rfl

/-- An acquire keeps no instruction from issuing. -/
theorem issues_acquired (core wid : Nat) (sc : Scope) (h : Issues i s c w) : Issues i (acquired core wid sc s) c w where
  ctx := by
    have hseq : (acquired core wid sc s).seqAt = s.seqAt := by
      funext k part q
      unfold State.seqAt acquired
      by_cases hk : k = core
      · subst hk
        rw [State.modCore_core_self]
      · rw [State.modCore_core_of_ne _ hk]
    have hctx := h.ctx
    unfold State.ctx? at hctx ⊢
    rw [hseq]
    exact hctx
  warp := h.warp
  first := h.first
  legal := h.legal
  clean := h.clean
  going := h.going

/-- A release that is done, with no store of the group's lanes lost, goes on. -/
theorem withRelease_of_released {sc : Scope} (hrel : s.released c.core c.wid c.mask sc = true)
    (hlost : ∀ x ∈ s.lost, ¬ (x.wid = c.wid ∧ c.mask.getLsbD x.lane = true)) :
    withRelease sc body c s = body c s := by
  simp only [withRelease, hrel, ReleaseWaits.lostFaults_of_none hlost, Bool.not_true, Bool.false_eq_true, if_false,
    if_true]

theorem loW_ofNat (n : Nat) : loW (BitVec.ofNat 64 n) = BitVec.ofNat 32 n := BitVec.setWidth_ofNat_of_le (by decide) n

end Views

section Slots
variable {x : CBuf} {n i j : Nat}

theorem getD_set {α : Type} (l : List α) (i j : Nat) (a d : α) :
    (l.set i a).getD j d = if i = j ∧ i < l.length then a else l.getD j d := by
  rw [List.getD_eq_getElem?_getD, List.getD_eq_getElem?_getD, List.getElem?_set]
  by_cases hij : i = j
  · subst hij
    by_cases hi : i < l.length <;> simp [hi]
  · simp [hij]

theorem lt_of_getD_committed (h : x.slots.getD j .free = .committed) : j < x.slots.length := by
  by_contra hge
  rw [List.getD_eq_default _ _ (Nat.not_lt.1 hge)] at h
  cases h

/-- Advance changes no slot that is not committed. -/
theorem advance_slot_of_ne (h : x.slots.getD j .free ≠ .committed) :
    (CBuf.advance n x).slots.getD j .free = x.slots.getD j .free := by
  induction n generalizing x with
  | zero => rfl
  | succ n ih =>
    unfold CBuf.advance
    split
    case isFalse => rfl
    case isTrue hpf =>
      have hsame : (x.slots.set x.pf .filled).getD j .free = x.slots.getD j .free := by
        rw [getD_set, if_neg]
        rintro ⟨rfl, -⟩
        exact h hpf
      exact (ih (x := { x with slots := x.slots.set x.pf .filled, pf := (x.pf + 1) % x.nslot })
        (hsame ▸ h)).trans hsame

/-- Advance leaves a committed slot or fills it. -/
theorem advance_slot_of_committed (h : x.slots.getD j .free = .committed) :
    (CBuf.advance n x).slots.getD j .free = .committed ∨ (CBuf.advance n x).slots.getD j .free = .filled := by
  induction n generalizing x with
  | zero => exact .inl h
  | succ n ih =>
    unfold CBuf.advance
    split
    case isFalse => exact .inl h
    case isTrue hpf =>
      set y : CBuf := { x with slots := x.slots.set x.pf .filled, pf := (x.pf + 1) % x.nslot }
      have hslot : y.slots.getD j .free = if x.pf = j ∧ x.pf < x.slots.length then .filled else x.slots.getD j .free :=
        getD_set ..
      by_cases hj : x.pf = j
      · rw [if_pos ⟨hj, lt_of_getD_committed hpf⟩] at hslot
        exact .inr ((advance_slot_of_ne (by rw [hslot]; decide)).trans hslot)
      · rw [if_neg fun hand => hj hand.1] at hslot
        exact ih (hslot.trans h)

theorem commit_slot (h : i < x.slots.length) : (CBuf.commit x i).slots.getD i .free = .committed ∨
    (CBuf.commit x i).slots.getD i .free = .filled := by
  refine advance_slot_of_committed ?_
  exact (getD_set ..).trans (if_pos ⟨rfl, h⟩)

theorem commit_slot_of_ne (hj : j ≠ i) (h : x.slots.getD j .free ≠ .committed) :
    (CBuf.commit x i).slots.getD j .free = x.slots.getD j .free := by
  have hsame : (x.slots.set i .committed).getD j .free = x.slots.getD j .free :=
    (getD_set ..).trans (if_neg fun hand => hj hand.1.symm)
  exact (advance_slot_of_ne (x := { x with slots := x.slots.set i .committed }) (by rw [hsame]; exact h)).trans hsame

end Slots

section Instructions
variable {i : Instr} {s : State} {c : Ctx} {w : Warp} {n : Nat} {x : CBuf} {d : USpec}

theorem issues_setCbuf {blk : Nat} (h : Issues i s c w) : Issues i (s.setCbuf blk n x) c w :=
  MatrixCommands.issues_modBlock (fun _ => rfl) (fun _ => rfl) h

/-- Reserve for a waiter whose turn it is, with the next slot free. -/
theorem reserve_of_free {who : Nat} (hfree : x.slots.getD x.pr .acquired = .free)
    (hturn : x.resWait = [] ∨ x.resWait.head? = some who) (soft : Bool) :
    x.reserve who soft = some (x.pr, { x with
      slots := x.slots.set x.pr .reserved, pr := (x.pr + 1) % x.nslot,
      sw := if soft then x.sw ++ [x.pr] else x.sw, resWait := x.resWait.filter (· != who) }) :=
  if_pos ⟨hfree, hturn⟩

theorem bodyCbrsv_of_free (n : Fin 16) (hx : s.cbuf (blkOf c.wid) n.val = some x)
    (hfree : x.slots.getD x.pr .acquired = .free) (hturn : x.resWait = [] ∨ x.resWait.head? = some c.who) :
    bodyCbrsv d n c s = Res.ok (State.wrUW c false d (BitVec.ofNat 64 (x.base + x.pr * x.slotb))
      (s.setCbuf (blkOf c.wid) n.val { x with
        slots := x.slots.set x.pr .reserved, pr := (x.pr + 1) % x.nslot, sw := x.sw ++ [x.pr],
        resWait := x.resWait.filter (· != c.who) })) := by
  simp only [bodyCbrsv, hx, reserve_of_free hfree hturn, State.wrUW, loW_ofNat, CBuf.off, if_true, Bool.false_eq_true,
    if_false]

theorem bodyCbrsv_of_not_free (n : Fin 16) (hx : s.cbuf (blkOf c.wid) n.val = some x)
    (hfree : x.slots.getD x.pr .acquired ≠ .free) : bodyCbrsv d n c s = Res.wait .cbrsv 0 0
      (s.setCbuf (blkOf c.wid) n.val { x with resWait := joinWait c.who x.resWait }) := by
  have hnone : x.reserve c.who true = none := if_neg fun h => hfree h.1
  simp only [bodyCbrsv, hx, hnone]

theorem bodyCbcmt_of_reserved (n : Fin 16) {k : Nat} {r : List Nat} (hx : s.cbuf (blkOf c.wid) n.val = some x)
    (hsw : x.sw = k :: r) (hrel : s.released c.core c.wid c.mask .block = true)
    (hlost : ∀ y ∈ s.lost, ¬ (y.wid = c.wid ∧ c.mask.getLsbD y.lane = true)) :
    bodyCbcmt n c s = Res.ok (s.setCbuf (blkOf c.wid) n.val (CBuf.commit { x with sw := r } k)) := by
  simp only [bodyCbcmt, hx, hsw, withRelease_of_released hrel hlost]

/-- The scope at which CBACQ acquires: the one of the copy that filled the slot, else `.block` (08 R197). -/
def acqScope (x : CBuf) : Scope := ((x.rels.find? (fun e => e.1 == x.ca)).map Prod.snd).getD .block

theorem bodyCbacq_of_filled (n : Fin 16) (hx : s.cbuf (blkOf c.wid) n.val = some x)
    (hfull : x.slots.getD x.ca .free = .filled) (hturn : x.acqWait = [] ∨ x.acqWait.head? = some c.who)
    (hmarks : ∀ e ∈ x.marks, e.1 ≠ x.ca) :
    bodyCbacq d n c s = Res.ok (State.wrUW c false d (BitVec.ofNat 64 (x.base + x.ca * x.slotb))
      (acquired c.core c.wid (acqScope x) (s.setCbuf (blkOf c.wid) n.val { x with
        ca := (x.ca + 1) % x.nslot, acqWait := x.acqWait.filter (· != c.who),
        slots := x.slots.set x.ca .acquired, acq := x.acq ++ [x.ca],
        rels := x.rels.filter (fun y => y.1 != x.ca) }))) := by
  have hnone : x.marks.find? (fun e => e.1 == x.ca) = none :=
    List.find?_eq_none.2 fun e he heq => hmarks e he (beq_iff_eq.1 heq)
  unfold acqScope
  cases hrel : x.rels.find? (fun e => e.1 == x.ca) <;>
    simp only [bodyCbacq, hx, hfull, hturn, and_self, if_true, hnone, hrel, State.wrUW, loW_ofNat, CBuf.off,
      ReleaseWaits.acquire_eq_acquired, acquired_wrU, Bool.false_eq_true, if_false, Option.map_some, Option.map_none,
      Option.getD_some, Option.getD_none]

theorem bodyCbrel_of_acquired (n : Fin 16) {k : Nat} {r : List Nat} (hx : s.cbuf (blkOf c.wid) n.val = some x)
    (hacq : x.acq = k :: r) : bodyCbrel n c s = Res.ok (s.setCbuf (blkOf c.wid) n.val
      { x with slots := x.slots.set k .free, acq := r }) := by
  simp only [bodyCbrel, hx, hacq]

/-- An instruction whose effect changes a buffer of its block alone. -/
theorem done_of_setCbuf {body : Ctx → State → Res} (h : Issues i s c w)
    (hbody : body c s = Res.ok (s.setCbuf (blkOf c.wid) n x)) :
    ∃ t, issue i body s = .next t ∧
      LaneDone c (s.setCbuf (blkOf c.wid) n x) t w (fun _ _ => none) (fun _ => Lane.follow c) :=
  MatrixCommands.done_of_ok h hbody (issues_setCbuf h).going (RestKept.refl ..) (issues_setCbuf h).warp rfl

end Instructions

/-- Settles O27: each instruction is one operation on its buffer, and completes, or waits, from the state that holds the
buffer so changed. -/
theorem circularBuffers : Obligations.CircularBuffers := by
  unfold Obligations.CircularBuffers
  refine ⟨fun d n s c w x h hx => ⟨fun hfree hturn => ?_, fun hfree => ?_⟩,
    fun n s c w x i r h hx hsw hrel hlost => ?_, fun d n s c w x h hx hfull hturn hmarks => ?_,
    fun n s c w x i r h hx hacq => done_of_setCbuf h (bodyCbrel_of_acquired n hx hacq)⟩
  · exact uniWrites_from h (issues_setCbuf h) (bodyCbrsv_of_free n hx hfree hturn)
  · exact issue_wait h (bodyCbrsv_of_not_free n hx hfree) (issues_setCbuf h)
  · obtain ⟨t, ht, hdone⟩ := done_of_setCbuf h (bodyCbcmt_of_reserved n hx hsw hrel hlost)
    exact ⟨t, _, ht, rfl, fun hi => commit_slot hi, fun j hj hne => commit_slot_of_ne hj hne, hdone⟩
  · exact uniWrites_from h (issues_acquired _ _ _ (issues_setCbuf h)) (bodyCbacq_of_filled n hx hfull hturn hmarks)

end Sys2Proof.Machine.Buffers
end

section
/-!
PROOFS. CopyCommands: CPY puts one command into its core's queue, and CPYW looks at its wait counter (07 R170, R171,
R175, R176; 08 R197; 16 R347 to R349).
-/

set_option Elab.async false

namespace Sys2Proof.Machine.CopyIssue

section Queue
variable {s : State} {core job : Nat} {k : CopyCmd}

/-- A copy command whose job's spill path is empty enters a queue that has room (03 R75). -/
theorem placeEntry_of_room (hspill : tgetD [] (spillKey job core) s.spill = [])
    (hroom : qWeight (s.core core).queue + 1 ≤ 64) : s.placeEntry core job (.copy k) =
      .ok (s.modCore core fun x => { x with queue := x.queue ++ [.copy k] }) := by
  have hsplit : QEntry.split (s.queueFree core) (.copy k) = (some (.copy k), none) :=
    if_pos (show 1 ≤ 64 - qWeight (s.core core).queue by omega)
  simp only [State.placeEntry, hspill, List.isEmpty_nil, if_true, hsplit]
  rfl

end Queue

section Commands
variable {s : State} {c : Ctx} {w : Warp} {b : Block} {d a : USpec} {len : CpyLen} {k : CpyCtl}

/-- An address operand of CPY: a pair for `.g` and streams, else a 32-bit offset (16 R347). -/
def operandAddr (s : State) (c : Ctx) (u : USpec) (kind : Fin 4) (sp : Fin 8) : DWord :=
  if kind.val = 1 ∨ sp.val = 0 then s.rdU64 c u else (s.rdU c u).setWidth 64

theorem cpyAddr_eq (u : USpec) (kind : Fin 4) (sp : Fin 8) :
    cpyAddr s c u (kind.val == 1) sp.val = operandAddr s c u kind sp := by
  simp only [cpyAddr, operandAddr, Bool.or_eq_true, beq_iff_eq]

/-- The source, destination and length that CPY captures. -/
def srcOf (s : State) (c : Ctx) (a : USpec) (k : CpyCtl) : DWord := operandAddr s c a k.skind k.sspace
def dstOf (s : State) (c : Ctx) (d : USpec) (k : CpyCtl) : DWord :=
  if k.dkind.val = 2 then 0 else operandAddr s c d k.dkind k.dspace
def lenOf (s : State) (c : Ctx) : CpyLen → Nat
  | .uni u => (s.rdU c u).toNat
  | .imm x => x.toNat

/-- The command of a CPY, with what its acquire captures (07 R170, R174; 08 R197). -/
def cmdOf (s : State) (c : Ctx) (w : Warp) (b : Block) (d a : USpec) (len : CpyLen) (k : CpyCtl) : CopyCmd :=
  { ctl := if k.dkind.val = 2 then { k with dspace := 0 } else k, saddr := srcOf s c a k, daddr := dstOf s c d k,
    len := lenOf s c len, launch := b.launch, blk := blkOf c.wid, wid := c.wid, half := w.half (lowLane c.mask),
    progress := 0, capt := if k.acq then w.lwct else 0,
    captSq := if k.acq then ((s.core c.core).sq.filter (fun e => e.wid == c.wid)).map SqEntry.id else [],
    priv := c.inHandler || c.inGraft, slot := none }

/-- CPY whose operands pass the checks, with room in the queue. -/
theorem bodyCpy_of_room (hw : s.warp c.wid = some w) (hb : s.block (blkOf c.wid) = some b)
    (hfault : s.cpyFault (blkOf c.wid) k (srcOf s c a k) (dstOf s c d k) (lenOf s c len) = none)
    (hspill : tgetD [] (spillKey (s.jobOf c.wid) c.core) s.spill = [])
    (hroom : qWeight (s.core c.core).queue + 1 ≤ 64) : bodyCpy d a len k c s =
      Res.ok (s.modCore c.core fun x => { x with queue := x.queue ++ [.copy (cmdOf s c w b d a len k)] }) := by
  unfold srcOf dstOf at hfault
  cases len <;>
  · simp only [lenOf] at hfault
    simp only [bodyCpy, hw, hb, cpyAddr_eq, beq_iff_eq, hfault, placeEntry_of_room hspill hroom, Option.map_some,
      Option.getD_some]
    rfl

end Commands

section Counters
variable {s t : State} {c : Ctx} {w : Warp} {n : Fin 4} {u : USrc} {k : WaitCtr} {f : FaultInfo}
  {b : Block} {L : Launch}

/-- The operand of CPYW. -/
def waitVal (s : State) (c : Ctx) : USrc → Word
  | .imm i => i.setWidth 32
  | .reg u => s.rdU c u

theorem toNat_lt_iff (x : Word) : x.toNat < 2 ^ 31 ↔ 0 ≤ x.toInt := by
  rw [BitVec.toInt_eq_toNat_cond]
  have := x.isLt
  split <;> omega

/-- The scope of the acquire, as the signed comparison names the commands that it counts (08 R197). -/
theorem acqScope_eq (k : WaitCtr) (y : Word) : k.acqScope y =
    ((k.rels.filter (fun e => decide (0 ≤ (y - e.1).toInt))).map Prod.snd).foldl widest .block := by
  simp only [WaitCtr.acqScope, List.foldl_map, toNat_lt_iff]

/-- CPYW whose counter has reached its operand, with no error pending. -/
theorem bodyCpyw_of_reached (hw : s.warp c.wid = some w) (hk : w.wctr (lowLane c.mask) n.val = k)
    (hreach : 0 ≤ (k.val - waitVal s c u).toInt) (hok : k.err = none) : bodyCpyw n u c s =
      Res.ok (acquired c.core c.wid (k.acqScope (waitVal s c u)) (s.modWarp c.wid (Warp.raiseLwct k.time))) := by
  subst hk
  rw [← toNat_lt_iff] at hreach
  cases u <;>
  · simp only [waitVal] at hreach
    simp only [bodyCpyw, hw, hreach, hok, if_true, ReleaseWaits.acquire_eq_acquired]
    rfl

/-- The same, with a copy's fault pending (07 R175). -/
theorem bodyCpyw_of_error (hw : s.warp c.wid = some w) (hk : w.wctr (lowLane c.mask) n.val = k)
    (hreach : 0 ≤ (k.val - waitVal s c u).toInt) (herr : k.err = some f) : bodyCpyw n u c s =
      Res.fault c f (s.modWarp c.wid (Warp.setWctr (lowLane c.mask) n.val { k with err := none })) := by
  subst hk
  rw [← toNat_lt_iff] at hreach
  cases u <;>
  · simp only [waitVal] at hreach
    simp only [bodyCpyw, hw, hreach, herr, if_true]

/-- CPYW before its counter has reached its operand. -/
theorem bodyCpyw_of_early (hw : s.warp c.wid = some w) (hk : w.wctr (lowLane c.mask) n.val = k)
    (hearly : (k.val - waitVal s c u).toInt < 0) : bodyCpyw n u c s = Res.wait .cpyw 0 0 s := by
  subst hk
  rw [← Int.not_le, ← toNat_lt_iff] at hearly
  cases u <;>
  · simp only [waitVal] at hearly
    simp only [bodyCpyw, hw, hearly, if_false]

/-- The issue context does not look at the wait counters. -/
theorem ctx?_setWctr (wid l m : Nat) : (s.modWarp wid (Warp.setWctr l m k)).ctx? = s.ctx? := by
  obtain ⟨ws, hs⟩ := (TrapPaths.modWarp_moves wid (Warp.setWctr l m k) s).rest
  have hwarp (x : Nat) : (s.modWarp wid (Warp.setWctr l m k)).warp x = s.warp x ∨
      (s.modWarp wid (Warp.setWctr l m k)).warp x = (s.warp x).map (Warp.setWctr l m k) := by
    by_cases hx : x = wid
    · exact .inr (hx ▸ State.modWarp_warp_self ..)
    · exact .inl (s.modWarp_warp_of_ne hx _)
  rw [hs] at hwarp ⊢
  have hturn : ({ s with warps := ws } : State).turn = s.turn := rfl
  have hseq : ({ s with warps := ws } : State).seqAt = s.seqAt := rfl
  have hcore : ({ s with warps := ws } : State).coreOf = s.coreOf := rfl
  unfold State.ctx?
  rw [hturn, hseq, hcore]
  split
  · split
    · rfl
    · rename_i b _
      obtain h | h := hwarp b.wid
      · rw [h]
        rfl
      · rw [h]
        cases s.warp b.wid <;> cases b.run <;> rfl
  · rfl

/-- A change of a wait counter keeps CPYW from nothing. -/
theorem issues_setWctr {m : Nat} (h : Issues (.cpyw n u) s c w) :
    Issues (.cpyw n u) (s.modWarp c.wid (Warp.setWctr (lowLane c.mask) m k)) c (w.setWctr (lowLane c.mask) m k) where
  ctx := (ctx?_setWctr ..).trans h.ctx
  warp := TrapPaths.modWarp_warp h.warp _
  first := h.first
  legal := h.legal
  clean := h.clean
  going L hL := h.going L ((MatrixCommands.launchOf_modWarp c.wid c.wid).symm.trans hL)

theorem trapReady_setWctr {l m : Nat} (hw : s.warp c.wid = some w) (h : TrapReady f s c w) :
    TrapReady f (s.modWarp c.wid (Warp.setWctr l m k)) c (w.setWctr l m k) where
  slots x hx := by
    have hact := h.slots x hx
    have hgraft : (s.modWarp c.wid (Warp.setWctr l m k)).graftOf = s.graftOf := by
      unfold State.modWarp
      split <;> rfl
    have hwid : (c.at).wid = c.wid := rfl
    unfold State.faultAct at hact ⊢
    rw [hwid] at hact ⊢
    rw [TrapPaths.modWarp_warp hw, hgraft]
    rw [hw] at hact
    exact hact
  spill := by
    rw [State.modWarp_spill, State.jobOf, MatrixCommands.launchOf_modWarp]
    exact h.spill
  space := by
    rw [modWarp_core]
    exact h.space
  apart := h.apart

/-- A trap that starts once its warp has changed is one of the state before. -/
theorem groupTrap_of_modWarp {g : Warp → Warp} (h : GroupTrap f c b L (s.modWarp c.wid g) t w) :
    GroupTrap f c b L s t w := by
  obtain ⟨ws, hs⟩ := (TrapPaths.modWarp_moves c.wid g s).rest
  have hwarps (x : Nat) (hx : x ≠ c.wid) : t.warp x = s.warp x := (h.warps x hx).trans (s.modWarp_warp_of_ne hx g)
  rw [hs] at h
  exact { h with warps := hwarps, rest := congrArg (fun v : State => { v with warps := s.warps }) h.rest }

end Counters

/-- Settles O28: a CPY that nothing stops is one queue entry; a CPYW is judged by its counter. -/
theorem copyCommands : Obligations.CopyCommands := by
  unfold Obligations.CopyCommands
  refine ⟨?_, ?_⟩
  · intro d a len k s c w b h hb adr sa da n hfault hspill hroom cmd
    have hlen : n = lenOf s c len := by cases len <;> rfl
    rw [hlen] at hfault
    have hcmd : cmd = cmdOf s c w b d a len k := by
      unfold cmdOf
      rw [← hlen]
      rfl
    rw [hcmd]
    exact MatrixCommands.done_of_ok h (bodyCpy_of_room h.warp hb hfault hspill hroom) h.going (RestKept.refl ..) h.warp rfl
  · intro n v s c w h l k y sc
    have hval : y = waitVal s c v := by cases v <;> rfl
    refine ⟨fun hreach hok => ?_, fun f b L hreach herr hr hb hL => ?_, fun hearly => ?_⟩
    · have hscope : sc = k.acqScope (waitVal s c v) := hval ▸ (acqScope_eq k y).symm
      rw [hscope]
      exact MatrixCommands.done_of_ok h (bodyCpyw_of_reached h.warp rfl (hval ▸ hreach) hok) h.going
        (by rw [Buffers.acquired_modWarp]; exact RestKept.modWarp ..) (TrapPaths.modWarp_warp h.warp _) rfl
    · obtain ⟨t, ht, htrap⟩ := MatrixCommands.trap_of_fault h (bodyCpyw_of_error h.warp rfl (hval ▸ hreach) herr)
        (issues_setWctr h) (trapReady_setWctr h.warp hr) ((modWarp_block ..).trans hb) ((modWarp_launch ..).trans hL)
      exact ⟨t, ht, groupTrap_of_modWarp htrap⟩
    · exact Buffers.issue_wait h (bodyCpyw_of_early h.warp rfl (hval ▸ hearly)) h

end Sys2Proof.Machine.CopyIssue
end

section
/-!
PROOFS. TranslationsAndShootdowns: a walk through four levels of tables (07 R156 to R159, R162), and what GO of the
shootdown registers drops and waits for (09 R208; 10 R244, R245).
-/

set_option Elab.async false

namespace Sys2Proof.Machine.Translations

section Entries
variable {e : Nat}

/-- A table entry: valid, no leaf, its reserved bits zero (07 R158). -/
def IsTable (e : Nat) : Prop := e % 2 ^ 7 = 3 ∧ e / 2 ^ 52 = 0

theorem IsTable.valid (h : IsTable e) : bitOf e 0 = true := by
  have := h.1
  simp only [bitOf, beq_iff_eq]
  omega

theorem IsTable.table (h : IsTable e) : bitOf e 1 = true := by
  have := h.1
  simp only [bitOf, beq_iff_eq]
  omega

theorem IsTable.reason {low : Bool} (h : IsTable e) (hlow : low = true → e / 2 ^ 7 % 2 ^ 9 = 0) : tableReason e low = 0 := by
  obtain ⟨hbits, hhigh⟩ := h
  refine if_neg ?_
  simp only [bitsOf, not_or, not_and, not_not]
  exact ⟨by omega, by omega, hlow⟩

/-- A well-formed leaf of a 4 KB page (07 R159). -/
theorem leafReason_of_page (hmt : e / 2 ^ 6 % 4 ≠ 3) (hres : e / 2 ^ 10 % 4 = 0) (hhigh : e / 2 ^ 52 = 0) :
    leafReason e 12 = 0 := by
  unfold leafReason bitsOf
  rw [if_neg (by simp only [not_or, not_not]; omega), if_neg (by omega)]

theorem bitOf_zero_of_mod_four (h : e % 4 = 1) : bitOf e 0 = true := by
  simp only [bitOf, beq_iff_eq]
  omega

theorem bitOf_one_of_mod_four (h : e % 4 = 1) : bitOf e 1 = false := by
  simp only [bitOf, beq_eq_false_iff_ne]
  omega

theorem leNat_lt (bs : List Byte) : leNat bs < 2 ^ (8 * bs.length) := by
  induction bs with
  | nil => exact Nat.one_pos
  | cons b r ih =>
    have hb := b.isLt
    rw [List.length_cons, Nat.mul_add, Nat.pow_add]
    simp only [leNat]
    omega

theorem entry_lt (s : State) (a : Nat) : leNat (s.rdMem a 8) < 2 ^ 64 := leNat_lt (s.rdMem a 8)

end Entries

section Walks
variable {s : State} {die asid v : Nat}

/-- With no entry of the die's walkers, a table entry is read at its home (07 R162). -/
theorem tentry_of_uncached (h : ∀ e ∈ s.walkCache, e.1 ≠ die) (a : Nat) : s.tentry die a = leNat (s.rdMem a 8) := by
  have hnone : s.walkCache.find? (fun e => e.1 == die && e.2.1 == a) = none :=
    List.find?_eq_none.2 fun e he heq => h e he (beq_iff_eq.1 (Bool.and_eq_true_iff.1 heq).1)
  simp only [State.tentry, hnone]

theorem tpoisoned_of_clean {a : Nat} (h : s.poisoned a = false) : s.tpoisoned die a = false := by
  rw [State.tpoisoned, h, Bool.false_and]

/-- A walk through tables at four levels to a leaf. -/
theorem walkVia_of_tables {root a2 a1 a0 a3 : Nat} (hv : v < 2 ^ 55) (hroot : (s.reg64 (rootOff asid)).toNat = root)
    (hvalid : root % 2 ^ 16 = 1) (hhigh : root / 2 ^ 52 = 0)
    (h2 : bitsOf root 16 36 * 2 ^ 16 + 8 * bitsOf v 42 13 = a2)
    (h1 : bitsOf (s.tentry die a2) 7 45 * 128 + 8 * bitsOf v 29 13 = a1)
    (h0 : bitsOf (s.tentry die a1) 7 45 * 128 + 8 * bitsOf v 16 13 = a0)
    (h3 : bitsOf (s.tentry die a0) 7 45 * 128 + 8 * bitsOf v 12 4 = a3)
    (hclean : ∀ a ∈ [a2, a1, a0, a3], s.tpoisoned die a = false)
    (ht2 : IsTable (s.tentry die a2)) (hlow2 : s.tentry die a2 / 2 ^ 7 % 2 ^ 9 = 0)
    (ht1 : IsTable (s.tentry die a1)) (hlow1 : s.tentry die a1 / 2 ^ 7 % 2 ^ 9 = 0) (ht0 : IsTable (s.tentry die a0))
    (hleaf : s.tentry die a3 % 4 = 1) (hreason : leafReason (s.tentry die a3) 12 = 0) :
    s.walkVia die asid v = .ok (s.tentry die a3, 12, [a2, a1, a0]) := by
  have hbits : bitsOf v 55 9 = 0 := by unfold bitsOf; omega
  have hr : (!bitOf root 0 || bitsOf root 1 15 != 0 || bitsOf root 52 12 != 0) = false := by
    simp only [bitOf, bitsOf, Bool.or_eq_false_iff, Bool.not_eq_false', beq_iff_eq, bne_eq_false_iff_eq]
    omega
  simp only [List.forall_mem_cons, List.not_mem_nil, false_implies, implies_true, and_true] at hclean
  obtain ⟨hp2, hp1, hp0, hp3⟩ := hclean
  simp only [State.walkVia, hroot, hbits, hr, h2, hp2, ht2.valid, ht2.table, ht2.reason fun _ => hlow2, h1, hp1, ht1.valid,
    ht1.table, ht1.reason fun _ => hlow1, h0, hp0, ht0.valid, ht0.table, ht0.reason (low := false) nofun, h3, hp3,
    bitOf_zero_of_mod_four hleaf, bitOf_one_of_mod_four hleaf, hreason, ne_eq, not_true_eq_false, Bool.not_true,
    Bool.false_eq_true, if_false]

/-- A walk's fault is the walkers'. -/
theorem walkVia_of_fault {f : FaultInfo} (h : s.walk die asid v = .error f) : s.walkVia die asid v = .error f := by
  unfold State.walk at h
  split at h
  case h_1 heq => cases h; exact heq
  case h_2 => cases h

end Walks

section Caching
variable {s : State} {core asid : Nat} {va : BitVec 55}

/-- The state after PAGE_WALK has cached a leaf and the table entries on its way (07 R162). -/
def cached (core : Nat) (x : TlbEntry) (held : List (Nat × Nat × DWord)) (s : State) : State :=
  State.modCore core (fun k => { k with tlb := (x :: k.tlb.filter (fun y => y != x)).take tlbEntries })
    { s with dieTlb := ((core / Config.coresPerDie, x) ::
               s.dieTlb.filter (fun y => y != (core / Config.coresPerDie, x))).take dieEntries,
             walkCache := held ++ s.walkCache.filter (fun y => !held.any (fun h => h.1 == y.1 && h.2.1 == y.2.1)) }

/-- PAGE_WALK to a leaf of a 4 KB page. -/
theorem evPageWalk_of_page {e : Nat} {ts : List Nat}
    (h : s.walkVia (core / Config.coresPerDie) asid va.toNat = .ok (e, 12, ts)) : evPageWalk core asid va s =
      cached core { asid := asid, vpage := va.toNat / 2 ^ 12, shift := 12, leaf := BitVec.ofNat 64 e }
        (ts.map fun a => (core / Config.coresPerDie, a, BitVec.ofNat 64 (s.tentry (core / Config.coresPerDie) a)))
        { s with fresh := s.fresh + 1 } := by
  have hshift (g : Bool) : chShift e 12 g = 12 := by
    unfold chShift
    split <;> rfl
  simp only [evPageWalk, h, hshift]
  rfl

theorem evPageWalk_of_fault {f : FaultInfo} (h : s.walkVia (core / Config.coresPerDie) asid va.toNat = .error f) :
    evPageWalk core asid va s = s := by
  simp only [evPageWalk, h]

theorem cached_core (x : TlbEntry) (held : List (Nat × Nat × DWord)) : (cached core x held s).core core =
    { s.core core with tlb := (x :: (s.core core).tlb.filter (fun y => y != x)).take tlbEntries } :=
  State.modCore_core_self ..

theorem cached_core_of_ne {k : Nat} (x : TlbEntry) (held : List (Nat × Nat × DWord)) (hk : k ≠ core) :
    (cached core x held s).core k = s.core k := State.modCore_core_of_ne _ hk ..

/-- What a full table's first entry comes before. -/
theorem mem_of_mem_drop_take {α : Type} [BEq α] {x e : α} {l : List α} {n : Nat}
    (h : e ∈ ((x :: l.filter (fun y => y != x)).take n).drop 1) : e ∈ l := by
  rw [List.drop_take] at h
  exact (List.mem_filter.1 (List.mem_of_mem_take h)).1

/-- Table entries of a die whose walkers hold none join the others. -/
theorem cached_walkCache {x : TlbEntry} {held : List (Nat × Nat × DWord)}
    (hold : ∀ e ∈ s.walkCache, e.1 ≠ core / Config.coresPerDie) (hheld : ∀ e ∈ held, e.1 = core / Config.coresPerDie) :
    (cached core x held s).walkCache = held ++ s.walkCache := by
  refine congrArg (held ++ ·) (List.filter_eq_self.2 fun e he => ?_)
  rw [Bool.not_eq_true', List.any_eq_false]
  intro y hy heq
  exact hold e he ((beq_iff_eq.1 (Bool.and_eq_true_iff.1 heq).1).symm.trans (hheld y hy))

/-- An address translates through the entry at the head of its core's TLB. -/
theorem leafOf_of_head {v : Nat} {x : TlbEntry} {l : List TlbEntry} (hv : v < 2 ^ 55) (htlb : (s.core core).tlb = x :: l)
    (hhit : tlbHit asid v x = true) : s.leafOf core asid v = .ok (x.leaf.toNat, x.shift) := by
  have hbits : bitsOf v 55 9 = 0 := by unfold bitsOf; omega
  simp only [State.leafOf, hbits, htlb, List.find?_cons_of_pos hhit, ne_eq, not_true_eq_false, if_false]

end Caching

section Ranges
variable {a va len x : Nat} {e : TlbEntry}

theorem inShoot_iff : inShoot va len x = true ↔ len = 0 ∨ (va ≤ x ∧ x < va + len) := by
  simp only [inShoot, Bool.or_eq_true, Bool.and_eq_true, beq_iff_eq, decide_eq_true_eq]

/-- The translations that a shootdown drops (10 R244). -/
def Dropped (a va len : Nat) (e : TlbEntry) : Prop := (e.asid = a ∨ e.leaf.getLsbD 8 = true) ∧
  (len = 0 ∨ (e.vpage * 2 ^ e.shift < va + len ∧ va < (e.vpage + 1) * 2 ^ e.shift))

/-- The translations that a shootdown leaves. -/
def kept (a va len : Nat) (e : TlbEntry) : Bool := !(tlbInShoot va len e && (e.asid == a || e.leaf.getLsbD 8))

theorem kept_iff : kept a va len e = true ↔ ¬ Dropped a va len e := by
  simp only [kept, tlbInShoot, Dropped, Bool.not_eq_true', ← Bool.not_eq_true, Bool.and_eq_true, Bool.or_eq_true,
    beq_iff_eq, decide_eq_true_eq, and_comm]

end Ranges

section Shootdown
variable {s : State}

/-- The stores, and the grove requests, that a shootdown waits for (10 R245). -/
def pendOf (a va len : Nat) (s : State) : List (Nat × Nat) :=
  s.cores.flatMap fun k => (k.2.sq.filter fun e => e.asid == a && e.gwct.isNone &&
    e.vas.any fun x => inShoot va len x.toNat).map fun e => (k.1, e.id)

def lnxOf (a va len : Nat) (s : State) : List (Nat × Nat) :=
  s.warps.flatMap fun w => if s.asidOf w.1 = a then
    (w.2.lnx.filter fun q => q.reply.isNone && q.fault.isNone && inShoot va len q.va.toNat).map fun q => (w.1, q.lane)
  else []

theorem mem_pendOf {a va len : Nat} {p : Nat × Nat} : p ∈ pendOf a va len s ↔
    ∃ k e, (p.1, k) ∈ s.cores ∧ e ∈ k.sq ∧ e.id = p.2 ∧ e.asid = a ∧ e.gwct = none ∧
      ∃ y ∈ e.vas, len = 0 ∨ (va ≤ y.toNat ∧ y.toNat < va + len) := by
  simp only [pendOf, List.mem_flatMap, List.mem_map, List.mem_filter, Bool.and_eq_true, beq_iff_eq, Option.isNone_iff_eq_none,
    List.any_eq_true, inShoot_iff]
  constructor
  · rintro ⟨⟨c, k⟩, hk, e, ⟨he, ⟨hasid, hgwct⟩, hvas⟩, rfl⟩
    exact ⟨k, e, hk, he, rfl, hasid, hgwct, hvas⟩
  · rintro ⟨k, e, hk, he, hid, hasid, hgwct, hvas⟩
    exact ⟨(p.1, k), hk, e, ⟨he, ⟨hasid, hgwct⟩, hvas⟩, Prod.ext rfl hid⟩

theorem mem_lnxOf {a va len : Nat} {p : Nat × Nat} : p ∈ lnxOf a va len s ↔
    ∃ w q, (p.1, w) ∈ s.warps ∧ s.asidOf p.1 = a ∧ q ∈ w.lnx ∧ q.lane = p.2 ∧ q.reply = none ∧ q.fault = none ∧
      (len = 0 ∨ (va ≤ q.va.toNat ∧ q.va.toNat < va + len)) := by
  simp only [lnxOf, List.mem_flatMap, List.mem_ite_nil_right, List.mem_map, List.mem_filter, Bool.and_eq_true,
    Option.isNone_iff_eq_none, inShoot_iff]
  constructor
  · rintro ⟨⟨c, w⟩, hw, hasid, q, ⟨hq, ⟨hreply, hfault⟩, hva⟩, rfl⟩
    exact ⟨w, q, hw, hasid, hq, rfl, hreply, hfault, hva⟩
  · rintro ⟨w, q, hw, hasid, hq, hlane, hreply, hfault, hva⟩
    exact ⟨(p.1, w), hw, hasid, q, ⟨hq, ⟨hreply, hfault⟩, hva⟩, Prod.ext rfl hlane⟩

/-- GO of a shootdown whose registers hold `a`, `va` and `len` (10 R244). -/
def shot (a va len : Nat) (s : State) : State :=
  (State.dropGrove a { s with
    shoot := some { asid := a, va := va, len := len, pend := pendOf a va len s, lnx := lnxOf a va len s },
    dieTlb := s.dieTlb.filter (fun e => kept a va len e.2), walkCache := [],
    cores := s.cores.map (fun k => (k.1, { k.2 with tlb := k.2.tlb.filter (kept a va len) })) }).setRegF 0x170014 1 1 1

theorem shootGo_eq : s.shootGo =
    shot (s.regF 0x170010 16 16) (s.reg64 0x170000).toNat (s.reg64 0x170008).toNat s := rfl

theorem shot_core (a va len k : Nat) : (shot a va len s).core k =
    { s.core k with tlb := (s.core k).tlb.filter (kept a va len) } := by
  have hget := WorkQueues.tget_map_snd (fun x : Core => { x with tlb := x.tlb.filter (kept a va len) }) k s.cores
  change (tget k (s.cores.map fun e => (e.1, { e.2 with tlb := e.2.tlb.filter (kept a va len) }))).getD Core.init = _
  rw [hget, State.core, tgetD]
  cases tget k s.cores <;> rfl

theorem shot_dieTlb (a va len : Nat) : (shot a va len s).dieTlb = s.dieTlb.filter fun e => kept a va len e.2 := rfl

/-- A shootdown still waits for a store, or for a grove request (10 R245). -/
def Open (x : Shoot) (s : State) : Prop :=
  (∃ p ∈ x.pend, ∃ e, s.sqEntry p.1 p.2 = some e ∧ e.gwct = none) ∨ ∃ p ∈ x.lnx, (s.openLnx p.1 p.2).isSome = true

/-- A store of a queue is performed, or gone. -/
def storeDone (s : State) (p : Nat × Nat) : Bool := ((s.sqEntry p.1 p.2).map fun e => e.gwct.isSome).getD true

theorem storeDone_iff {p : Nat × Nat} : storeDone s p = true ↔ ¬ ∃ e, s.sqEntry p.1 p.2 = some e ∧ e.gwct = none := by
  unfold storeDone
  cases s.sqEntry p.1 p.2 <;> simp [Option.isSome_iff_ne_none]

theorem shootDone_iff {x : Shoot} : s.shootDone x = true ↔ ¬ Open x s := by
  have hdone : s.shootDone x = (x.pend.all (storeDone s) && x.lnx.all fun p => (s.openLnx p.1 p.2).isNone) := by
    unfold State.shootDone
    congr 2
    funext p
    unfold storeDone
    cases s.sqEntry p.1 p.2 <;> rfl
  rw [hdone, Open, not_or, Bool.and_eq_true, List.all_eq_true, List.all_eq_true]
  simp only [storeDone_iff, not_exists, not_and, Option.isNone_iff_eq_none, Bool.not_eq_true, Option.isSome_eq_false_iff]

theorem evShootdown_of_open {x : Shoot} (h : s.shoot = some x) (hopen : Open x s) : evShootdown s = s := by
  have hdone : ¬ s.shootDone x = true := fun hd => shootDone_iff.1 hd hopen
  simp only [evShootdown, h, hdone, Bool.false_eq_true, if_false]

theorem evShootdown_of_closed {x : Shoot} (h : s.shoot = some x) (hopen : ¬ Open x s) :
    evShootdown s = State.setRegF 0x170014 1 1 0 { s with shoot := none } := by
  simp only [evShootdown, h, shootDone_iff.2 hopen, if_true]

theorem evShootdown_of_idle (h : s.shoot = none) : evShootdown s =
    shot (s.regF 0x170010 16 16) (s.reg64 0x170000).toNat (s.reg64 0x170008).toNat s := by
  simp only [evShootdown, h]
  exact shootGo_eq

end Shootdown

/-- Settles O40: a walk through tables is one leaf, whose caching is `cached`; GO is `shot`; and a shootdown in progress
ends where it is not `Open`. -/
theorem translationsAndShootdowns : Obligations.TranslationsAndShootdowns := by
  unfold Obligations.TranslationsAndShootdowns
  refine ⟨?_, fun core asid va s f h => ?_, fun s h => ?_, fun s x h => ⟨fun hopen => ?_, fun hopen => ?_⟩⟩
  · intro core asid va s root entry v a2 a1 a0 a3 table x hroot hhigh hclean ht2 hlow2 ht1 hlow1 ht0 hleaf hwalk hmt hres
      hlhigh
    have hread : ∀ a, entry a = s.tentry (core / Config.coresPerDie) a := fun a => (tentry_of_uncached hwalk a).symm
    have hwalkVia : s.walkVia (core / Config.coresPerDie) asid va.toNat = .ok (entry a3, 12, [a2, a1, a0]) := by
      rw [hread a3]
      refine walkVia_of_tables va.isLt rfl hroot hhigh rfl ?_ ?_ ?_ (fun a ha => tpoisoned_of_clean (hclean a ha))
        (hread a2 ▸ ht2) (hread a2 ▸ hlow2) (hread a1 ▸ ht1) (hread a1 ▸ hlow1) (hread a0 ▸ ht0) (hread a3 ▸ hleaf) ?_
      · rw [← hread]; rfl
      · rw [← hread]; rfl
      · rw [← hread]; rfl
      · rw [← hread]
        exact leafReason_of_page hmt hres hlhigh
    have hheld : [a2, a1, a0].map (fun a => (core / Config.coresPerDie, a,
        BitVec.ofNat 64 (s.tentry (core / Config.coresPerDie) a))) =
        [a2, a1, a0].map fun a => (core / Config.coresPerDie, a, BitVec.ofNat 64 (entry a)) :=
      List.map_congr_left fun a _ => by rw [hread]
    have hev := evPageWalk_of_page hwalkVia
    rw [hheld] at hev
    set held := [a2, a1, a0].map fun a => (core / Config.coresPerDie, a, BitVec.ofNat 64 (entry a)) with hheldDef
    have hcore : (cached core x held { s with fresh := s.fresh + 1 }).finish.core core =
        { s.core core with tlb := (x :: (s.core core).tlb.filter (fun y => y != x)).take tlbEntries } := cached_core x held
    have hwc : (cached core x held { s with fresh := s.fresh + 1 }).finish.walkCache = held ++ s.walkCache :=
      cached_walkCache (x := x) hwalk fun e he => by
        obtain ⟨a, -, rfl⟩ := List.mem_map.1 he
        rfl
    refine ⟨_, congrArg (fun t => Host.Outcome.next (State.finish t)) hev, ?_, rfl,
      fun e he => mem_of_mem_drop_take he, fun e => ?_, fun m => ?_, fun e he => ?_, ?_, ?_, fun k hk => ?_, rfl⟩
    · rw [hcore]
      rfl
    · rw [hwc, List.mem_append, or_comm, hheldDef, List.mem_map]
      simp only [eq_comm]
    · have hfound := leafOf_of_head (s := { (cached core x held { s with fresh := s.fresh + 1 }).finish with mem := m })
        (core := core) (asid := asid) (x := x) (l := ((s.core core).tlb.filter (fun y => y != x)).take 2047) va.isLt
        (congrArg Core.tlb hcore) (by simp only [tlbHit, x, v, beq_self_eq_true, Bool.and_self])
      rw [hfound]
      exact congrArg (fun n => Except.ok (n, 12)) ((BitVec.toNat_ofNat ..).trans (Nat.mod_eq_of_lt (entry_lt s a3)))
    · rw [hcore] at he
      exact mem_of_mem_drop_take he
    · rw [hcore]
      exact List.length_take_le ..
    · rw [hcore]
    · exact cached_core_of_ne x held hk
  · exact congrArg (fun t => Host.Outcome.next (State.finish t)) (evPageWalk_of_fault (walkVia_of_fault h))
  · intro a va len hit
    refine ⟨_, _, congrArg (fun t => Host.Outcome.next (State.finish t)) (evShootdown_of_idle h), rfl, rfl, rfl, rfl,
      fun k e => ?_, fun d e => ?_, rfl, fun k => ?_, rfl, fun p => mem_pendOf, fun p => mem_lnxOf, ?_,
      fun o ho hne => ?_, ?_⟩
    · rw [State.finish_core, shot_core, List.mem_filter, kept_iff]
      rfl
    · rw [State.finish_dieTlb, shot_dieTlb, List.mem_filter, kept_iff]
      rfl
    · rw [State.finish_core, shot_core]
    · exact State.setRegF_regF_self _ (by decide)
    · exact State.setRegF_reg_of_ne _ (by omega)
    · rfl
  · exact congrArg (fun t => Host.Outcome.next (State.finish t)) (evShootdown_of_open h hopen)
  · refine ⟨_, congrArg (fun t => Host.Outcome.next (State.finish t)) (evShootdown_of_closed h hopen), rfl,
      State.setRegF_regF_self _ (by decide), fun o ho hne => State.setRegF_reg_of_ne _ (by omega), rfl⟩

end Sys2Proof.Machine.Translations
end

section
/-!
PROOFS. StreamSlots speaks of every state in which SLD issues, and so of states whose table of blocks is not in order.
There the block's change of its stream slot comes to stand before another block of its cluster and rank, and cluster
scratch is then read on its own core instead of on the other block's (07 R151, R166).
-/

set_option Elab.async false

namespace Sys2Proof.Machine.StreamTables

/-- A record of one element: the byte at 0 of cluster scratch (07 R163). -/
def byteRecord : BitVec 512 := BitVec.ofNat 512 (2 ^ 64 + 2 ^ 128 + 2 ^ 192 + 2 ^ 256 + 2 ^ 397)

/-- The load of the next elements of stream 7 into v1, and its words as one number, the first lowest. -/
def loadNext : Instr := .sld (.v 1) 7 none
def loadWords : Nat := (encode loadNext).foldr (fun w a => w.toNat + 2 ^ 32 * a) 0

/-- The stream at its first element, and the block of the issuing warp with stream 7 armed. -/
def atFirst : Stream := { rcd := byteRecord, pos := 0 }
def armedBlock : Block := { placedBlock with streams := lput none 7 (some atFirst) placedBlock.streams }

/-- Block 5, listed before block 0, is of its cluster and rank, and stands on core 1, where the byte is 1. -/
def disorder (s : State) : State :=
  { s with blocks := [(5, { placedBlock with core := 1 }), (0, armedBlock)],
           cores := tset 1 { s.core 1 with scratch := [(0x1000, 1)] } s.cores }

/-- The load placed with its run fetched, the blocks so listed. -/
def atLoad : State :=
  let s := State.reset.withFetchWord (32 * (encode loadNext).length) loadWords
  disorder (match s.seqAt 0 0 0 with
    | some b => (s.startRun 0 0 0 b).2
    | none => s)

/-- The piece that lane 0 reaches. -/
def bytePiece : Piece := { place := .scr 1 0x1000, va := 0, n := 1 }

/-- The pieces of an access that does not fault. -/
def piecesOf : Except FaultInfo (List Piece) → Option (List Piece)
  | .ok ps => some ps
  | .error _ => none

theorem eq_ok_of_piecesOf {r : Except FaultInfo (List Piece)} {ps : List Piece} (h : piecesOf r = some ps) : r = .ok ps := by
  cases r with
  | ok qs => exact congrArg Except.ok (Option.some.inj h)
  | error _ => cases h

/-- What SLD and its clause ask of the group and its warp. -/
def meets (s : State) (c : Ctx) (w : Warp) : Bool :=
  decide (c.tag = none ∧ preFault loadNext c w = none ∧ w.bad = [] ∧ (s.launchOf c.wid).all (!·.cancelled) = true) &&
  decide (c.wid = 0 ∧ c.mask = 0xF ∧ (s.core c.core).sq = [] ∧
    sldDestOk w (lowLane c.mask) (rcRegs byteRecord) (.v 1) = true ∧
    (List.range 32).all (fun l => (w.lane l).elem.isNone) = true ∧
    piecesOf (s.reach c 0 .q 0 1 .read) = some [bytePiece])

theorem atLoad_meets : (atLoad.ctx?.any fun c => (atLoad.warp c.wid).any (meets atLoad c)) = true := by decide +kernel

/-- SLD issues there for warp 0, and meets the premises of its clause. -/
theorem issues_atLoad : ∃ c w, Issues loadNext atLoad c w ∧ c.wid = 0 ∧ c.mask = 0xF ∧ NoStores atLoad c ∧
    sldDestOk w (lowLane c.mask) (rcRegs byteRecord) (.v 1) = true ∧ (∀ l, l < 32 → (w.lane l).elem = none) ∧
    atLoad.reach c 0 .q 0 1 .read = .ok [bytePiece] := by
  obtain ⟨c, hctx, hany⟩ := Option.any_eq_true _ _ |>.1 atLoad_meets
  obtain ⟨w, hwarp, hmeets⟩ := Option.any_eq_true _ _ |>.1 hany
  obtain ⟨hissues, hclause⟩ := Bool.and_eq_true_iff.1 hmeets
  obtain ⟨htag, hlegal, hbad, hgoing⟩ := of_decide_eq_true hissues
  obtain ⟨hwid, hmask, hsq, hdest, helem, hreach⟩ := of_decide_eq_true hclause
  have hlaunch : Going atLoad c.wid := fun L hL => by
    simpa [hL] using hgoing
  have hno : NoStores atLoad c := by
    rw [NoStores, hsq]
    exact fun _ he => absurd he List.not_mem_nil
  exact ⟨c, w, ⟨hctx, hwarp, htag, hlegal, hbad, hlaunch⟩, hwid, hmask, hno, hdest,
    fun l hl => Option.isNone_iff_eq_none.1 (List.all_eq_true.1 helem l (List.mem_range.2 hl)), eq_ok_of_piecesOf hreach⟩

/-- Register v1 of lane 0 of warp 0 in the state that an outcome leads to. -/
def lane0After : Host.Outcome State Fault Refusal → Option Word
  | .next t => (t.warp 0).map (fun w => w.rdV 0 1)
  | _ => none

/-- The element is read where block 0 stands, on core 0. -/
theorem sld_atLoad_word : lane0After (exec loadNext atLoad) = some 0 := by decide +kernel

/-- The lanes of the group that take an element. -/
theorem first_takes : ∀ l, l < 32 → (0xF#32).getLsbD l = true → ((List.range l).filter (0xF#32).getLsbD).length < 1 → l = 0 := by
  decide

/-- The record has one element, which no index names. -/
theorem byteRecord_total : rcTotal byteRecord = 1 := by decide +kernel
theorem byteRecord_direct : rcInd byteRecord = false := by decide +kernel

/-- The byte that the clause names is that of core 1, and so is the word of lane 0. -/
theorem bytePiece_bytes (c : Ctx) : bytePiece.bytes atLoad c false = [1] := by
  change rdFMap (atLoad.core 1).scratch 0x1000 1 = [1]
  decide +kernel

theorem element_word : wordRegs (.v 1) ((List.range (rcRegs byteRecord)).map (fun i =>
    BitVec.ofNat 32 (leNat (((if 0 < rcTotal byteRecord then [1] else [] : List Byte).drop (4 * i)).take 4)))) 1 = some 1 := by
  decide +kernel

/-- Refutes O26: its clause of SLD allows a table of blocks that is not in order, where the reads come after the change of
the slot has put the block before another one of its cluster and rank. -/
theorem not_streamSlots : ¬ Obligations.StreamSlots := by
  unfold Obligations.StreamSlots
  rintro ⟨-, -, hsld⟩
  obtain ⟨c, w, hissues, hwid, hmask, hno, hdest, helem, hreach⟩ := issues_atLoad
  have hblk : blkOf c.wid = 0 := by rw [hwid]; rfl
  obtain ⟨t, s0, ht, -, -, w', hw', -, -, hregs, -⟩ := hsld (.v 1) 7 none atLoad c w armedBlock
    atFirst (fun _ => [bytePiece]) (fun _ => []) hissues hno (by rw [hblk]; rfl) rfl hdest
    (fun l hl _ => helem l hl) (fun l hl hm he => by
      rw [hmask] at hm he
      have hzero : l = 0 := first_takes l hl hm (by
        change 0 + _ < rcTotal byteRecord at he
        rwa [byteRecord_total, Nat.zero_add] at he)
      subst hzero
      refine ⟨fun h => absurd (byteRecord_direct.symm.trans h) Bool.false_ne_true, hreach, fun p hp => ?_⟩
      rw [List.mem_singleton.1 hp]
      trivial)
  have hafter := sld_atLoad_word
  have hword : w'.rdV 0 1 = 1 := by
    refine (hregs 0 1 (by decide) (by decide)).trans ?_
    simp only [hmask, List.flatMap_cons, List.flatMap_nil, List.append_nil, bytePiece_bytes]
    exact congrArg (Option.getD · (w.rdV 0 1)) element_word
  rw [hwid] at hw'
  rw [show exec loadNext _ = _ from ht, lane0After, hw', Option.map_some, hword] at hafter
  exact absurd hafter (by decide)

end Sys2Proof.Machine.StreamTables
end

section
/-!
PROOFS. CopyEngines speaks of every state, and so of a launch whose job has a number that no job has. The address space
of that number is read from the word of BAR 2 in which the undo log reports that it is full (07 R173; 12 R289), so that
the first write of a chunk moves its second unit to another address space.
-/

set_option Elab.async false

namespace Sys2Proof.Machine.CopyJobs

/-- A copy of two units from 0x5000 to 0x9000. -/
def twoUnits : CopyCmd :=
  { ctl := { rscope := .pkg, ascope := .sys, rel := true, acq := false, wctr := 3, cb := 0, dspace := 0, sspace := 0,
             dkind := 0, skind := 0 },
    saddr := 0x5000, daddr := 0x9000, len := 32, launch := 0, blk := 0, wid := 0, half := 0, progress := 0, capt := 0,
    captSq := [], priv := false, slot := none }

/-- The engine that carries it out. -/
def copying : Engine :=
  { cmd := twoUnits, core := 0, slot := none, started := true, total := 2, unit := 16, srec := 0, drec := 0, gwct := 0,
    fault := none, written := false }

/-- Its launch is of job 0x6000, and an entry of the die's cache translates it for address space 1. The log is on and
full, and the page of 0x9000 is in host bias. -/
def oddJob : State :=
  State.setReg 0x280008 1 { State.reset.withFetchWord 32 0 with
    engines := [(2, copying)], launches := [(0, { placedLaunch with job := 0x6000 })], bias := [(9, 1)],
    undoFill := [(0, 2 ^ 30)], dieTlb := [(0, { asid := 1, vpage := 0, shift := 29, leaf := 0x4D })] }

/-- The address space of the launch's job at the start, and what a unit's read and write in it come to. -/
def space1 : Via := { asid := 1 }
def unitRead (u : State) (i : Nat) : Except FaultInfo (List Byte) := u.vRead space1 (0x5000 + 16 * i) 16
def unitBytes (u : State) (i : Nat) : List Byte :=
  match unitRead u i with
  | .ok bs => bs
  | .error _ => []
def unitWrite (u : State) (i : Nat) : Except FaultInfo Nat × State := u.vWrite space1 (0x9000 + 16 * i) (unitBytes u i)
def unitTime (u : State) (i : Nat) : Nat :=
  match (unitWrite u i).1 with
  | .ok g => g
  | .error _ => 0

/-- The states before each unit, were all of them copied in that address space. -/
def before : Nat → State
  | 0 => oddJob
  | i + 1 => (unitWrite (before i) i).2.modLaunch 0 fun L => { L with lastGwct := max L.lastGwct (unitTime (before i) i) }

/-- A unit is read and written in that address space. -/
def unitDone (u : State) (i : Nat) : Bool :=
  (match unitRead u i with
    | .ok bs => bs.length == 16
    | .error _ => false) &&
  (match (unitWrite u i).1 with
    | .ok _ => true
    | .error _ => false)

theorem units_done : unitDone (before 0) 0 = true ∧ unitDone (before 1) 1 = true := by decide +kernel

theorem unit_of_done {u : State} {i : Nat} (h : unitDone u i = true) :
    u.vRead space1 (0x5000 + 16 * i) 16 = .ok (unitBytes u i) ∧ (unitBytes u i).length = 16 ∧
      u.vWrite space1 (0x9000 + 16 * i) (unitBytes u i) = (.ok (unitTime u i), (unitWrite u i).2) := by
  obtain ⟨hread, hwrite⟩ := Bool.and_eq_true_iff.1 h
  refine ⟨?_, ?_, ?_⟩
  · change unitRead u i = _
    unfold unitBytes
    split at hread
    case h_1 heq => rw [heq]
    case h_2 => cases hread
  · unfold unitBytes
    split at hread
    case h_1 heq => exact beq_iff_eq.1 hread
    case h_2 => cases hread
  · change unitWrite u i = _
    unfold unitTime
    split at hwrite
    case h_1 heq => exact Prod.ext heq rfl
    case h_2 => cases hwrite

/-- The address space and the die of a copy for launch 0 and block 0. -/
def viaOf (s : State) : Via where
  asid := s.jAsid (((s.launch 0).map Launch.job).getD 0)
  die := ((s.block 0).map Block.core).getD 0 / Config.coresPerDie
  priv := false

theorem oddJob_die : ((oddJob.block 0).map Block.core).getD 0 / Config.coresPerDie = 0 := by decide +kernel

theorem oddJob_viaOf : viaOf oddJob = space1 := by
  have hasid : oddJob.jAsid (((oddJob.launch 0).map Launch.job).getD 0) = 1 := by decide +kernel
  rw [viaOf, hasid, oddJob_die]
  rfl

theorem oddJob_engine : tget 2 oddJob.engines = some copying := by decide +kernel

/-- What the clause asks of each unit. -/
theorem units_copied (i : Nat) (hi : i < 2) :
    (before i).vRead (viaOf oddJob) (0x5000 + 16 * i) 16 = .ok (unitBytes (before i) i) ∧
      (unitBytes (before i) i).length = 16 ∧
      (before i).vWrite (viaOf oddJob) (0x9000 + 16 * i) (unitBytes (before i) i) =
        (.ok (unitTime (before i) i), (unitWrite (before i) i).2) ∧
      before (i + 1) = (unitWrite (before i) i).2.modLaunch 0 fun L =>
        { L with lastGwct := max L.lastGwct (unitTime (before i) i) } := by
  have hunit : unitDone (before i) i = true := by
    interval_cases i
    · exact units_done.1
    · exact units_done.2
  obtain ⟨hread, hlength, hwrite⟩ := unit_of_done hunit
  rw [oddJob_viaOf]
  exact ⟨hread, hlength, hwrite, rfl⟩

/-- The fault that an engine has met in the state that an outcome leads to. -/
def faultAfter (n : Nat) : Host.Outcome State Fault Refusal → Option FaultInfo
  | .next t => (tget n t.engines).bind Engine.fault
  | _ => none

/-- The second unit is read in address space 17, which has no tables. -/
theorem oddJob_faults : (faultAfter 2 (exec (.copyComplete 0 2) oddJob)).isSome = true := by decide +kernel

/-- Refutes O48: its clause of a chunk allows a launch of a job number past all jobs', whose address space changes as the
chunk's first write finds the undo log full. -/
theorem not_copyEngines : ¬ Obligations.CopyEngines := by
  unfold Obligations.CopyEngines
  rintro ⟨-, hrun, -⟩
  obtain ⟨-, hchunk, -⟩ := hrun 0 2 oddJob copying (by decide) (by decide) oddJob_engine rfl rfl
  obtain ⟨t, g', ht, hg', -, -, hfault, -⟩ := hchunk before (fun i => (unitWrite (before i) i).2)
    (fun i => unitBytes (before i) i) (fun i => unitTime (before i) i) rfl rfl rfl (by decide) rfl rfl rfl rfl rfl
    (by decide) (by decide) rfl units_copied
  have hnone : g'.fault = none := by rw [hfault]; rfl
  have hafter := oddJob_faults
  have hexec : exec (.copyComplete 0 2) oddJob = .next t :=
    (congrArg (fun d => exec (.copyComplete d 2) oddJob) oddJob_die).symm.trans ht
  rw [hexec, faultAfter, show tget 2 t.engines = some g' from hg', Option.bind_some, hnone] at hafter
  cases hafter

end Sys2Proof.Machine.CopyJobs
end
